-- ==== Sys2Proof/Word.lean ====
section
/-! DEFINITION. Word types and the sparse table type of the model. Every structure of the spec is
little-endian (R12); a control-space word has 32 bits (R14). -/

namespace Sys2Proof

/-- One byte. -/
abbrev Byte := BitVec 8

/-- A string of bytes, lowest address first. -/
abbrev Bytes := List (BitVec 8)

abbrev W16 := BitVec 16

/-- A control-space word (R14), also an FP32 bit pattern (R203). -/
abbrev W32 := BitVec 32

abbrev W64 := BitVec 64

/-- A sparse table: keys strictly rising, no entry equal to the table's default. -/
abbrev Table (α : Type) := List (Nat × α)

/-- Host memory as the reads of one indivisible step find it: the bytes of the first fetch of each
address and of a second fetch (the refetches of R116, R147, R150, R178). Unlisted bytes are zero.
`fault` is the memory fault code 0x01 to 0x04 of R52 that the step's reads meet, 0 for none. -/
structure HostView where
  first : List (Nat × BitVec 8)
  second : List (Nat × BitVec 8)
  fault : Nat
  deriving DecidableEq, Repr, Inhabited

end Sys2Proof
end

