-- ==== Sys2Proof/Syntax.lean ====
section
/-! DEFINITION. The commands of the block: one constructor per row of spec/opcode_table.json, in the
table's order. The table gives no operands; the operands are the model's (log entry 1): what comes
from outside the block with the command. -/

namespace Sys2Proof

/-- What a start finds outside the block (R478): the flash as its first and second reads find it,
which pitches are released and powered, what the phase-1 tests of bypass strips found. -/
structure StartInput where
  /-- pitches whose pitch_rst_n has been released and whose good is high (R478, R484 code 0x12) -/
  ready : BitVec 4
  /-- tick strobes arrive (R484 code 0x08) -/
  strobes : Bool
  /-- pitches whose bypass strip failed its test (R30) -/
  bypassBad : BitVec 4
  /-- what the flash answers to Read SFDP (R68) -/
  sfdp : Bytes
  /-- the flash gives data to its reads (R484 code 0x02) -/
  data : Bool
  /-- flash contents: first and second read (R478) -/
  flash : HostView
  /-- the consumed byte of the newest record could be programmed (R477, code 0x21) -/
  consume : Bool
  deriving DecidableEq, Repr, Inhabited

/-- What starts a snapshot (R446): the write of RSL_CKPT_CTL with its data, or the advice taken before it (R449); and
what the Infuser finds in memory. -/
structure SnapCause where
  /-- the start is the one that advice brings, with ARM set -/
  advice : Bool
  /-- the data written to RSL_CKPT_CTL otherwise -/
  data : W32
  /-- the zero flits' view of memory -/
  hv : HostView
  deriving DecidableEq, Repr, Inhabited

/-- Where a bundle sticks (R43): the channel, point or port of its class, and what was left of the access it stood in. -/
structure StuckAt where
  /-- channel, attachment point or link port -/
  index : Nat
  /-- the beats of a read or the packet bytes that had not passed -/
  left : Nat
  deriving DecidableEq, Repr, Inhabited

/-- A flit as a link port receives it (R76, R77): its bytes, the parity bits of its words and the PHY's error line. -/
structure RxFlit where
  /-- the 256 bytes -/
  bytes : Bytes
  /-- one parity bit per 32-bit word -/
  par : List Bool
  /-- lr_err -/
  err : Bool
  deriving DecidableEq, Repr, Inhabited

/-- A link port whose PHY reports its partner down (R86), and for how many ticks it has done so. -/
structure PhyLow where
  /-- the port -/
  port : Nat
  /-- consecutive ticks with phy_up low -/
  ticks : Nat
  deriving DecidableEq, Repr, Inhabited

/-- The word that a transfer has for a guy line (R27, R29). -/
structure GuySend where
  /-- the transfer -/
  xfer : Nat
  /-- its next word, 32 bytes -/
  word : Bytes
  /-- this is its last word -/
  last : Bool
  deriving DecidableEq, Repr, Inhabited

/-- What the receiver finds on a guy line's wires (R24). -/
structure GuyGot where
  /-- the 256 data wires -/
  bytes : Bytes
  /-- the parity wires, one per 32 bits -/
  par : BitVec 8
  deriving DecidableEq, Repr, Inhabited

/-- The commands. -/
inductive Instr where
  /-- R60: A control-port write to a register that has no row of its own is performed in handshake order, subject to guards, locks and reserved-address rules. -/
  | controlWrite (addr : BitVec 23) (data : W32) (apar : Bool) (wpar : BitVec 4)
  /-- R468: A write of ones to a W1C field clears each addressed bit unless hardware sets that bit within the arbitration window. -/
  | w1cWrite (addr : BitVec 23) (data : W32) (hwSet : W32)
  /-- R15: A read of an RC field returns its value and returns the field to its reset value in the same access. -/
  | rcRead (addr : BitVec 23)
  /-- R515: A read of the low word of a two-word RO register latches the high word for the next high-word read. -/
  | lowWordLatchRead (addr : BitVec 23)
  /-- R462: A read of LNT_READ0 removes the oldest entry of the highest level that holds one and loads words 1 to 3, or returns empty or PEND. -/
  | lanternRead (bad : BitVec 4)
  /-- R466: A write of one to LNT_CTL.FLUSH empties the queue, the Bivouac and LNT_READ1 to LNT_READ3. -/
  | lanternFlush
  /-- R105: A write of one to ENABLE while it reads zero enables the context, draws a tag key, clears its state and writes a start query record. -/
  | contextEnable (ctx : Nat)
  /-- R395: Clearing ENABLE sets TDOWN and runs a teardown with why = 2 and no fault code. -/
  | contextDisable (ctx : Nat)
  /-- R393: A write of one to CTL.CANCEL cancels the running step, or holds the cancel until the step is accepted or its atom closes. -/
  | contextCancel (ctx : Nat)
  /-- R377: A write to CTX_TENT_n takes effect unless the tent is in use, the range is invalid or overlaps, or staging is exceeded. -/
  | tentWrite (tent : Nat) (data : W32)
  /-- R144: A write of m to KTL_MODEL_SET makes model m resident, unless it is already resident or its layer count or base is invalid. -/
  | modelSet (model : Nat)
  /-- R144: A write of m to KTL_MODEL_CLR ends the residency of model m for steps accepted afterwards. -/
  | modelClr (model : Nat)
  /-- R109: A write of one to STP_ROTA_ARM arms the staged rota copy or refuses the arm with a rota-refused event. -/
  | rotaArm
  /-- R109: At STP_ROTA_AT, or at the next cycle boundary of the live copy, the staged rota copy becomes live and STP_ROTA_T0 is set. -/
  | rotaGoLive
  /-- R112: At a rota pin tick, the pinned real-time context is visited if it is Ready, and otherwise a missed visit is counted. -/
  | pinTick (slot : Nat) (word : Nat)
  /-- R97: A write of one to XCH_MEMBER_ARM loads and checks the staged membership table, or refuses the arm. -/
  | memberArm (hv : HostView)
  /-- R98: At tick T the staged membership table becomes live for steps accepted from then on. -/
  | memberGoLive
  /-- R176: A write of one to STN_TBL_ARM reads and checks the staged table-set directory, or refuses the arm. -/
  | tableSetArm (hv : HostView)
  /-- R176: At tick T the staged routing table set becomes live for steps accepted from then on. -/
  | tableSetGoLive
  /-- R370: A write of one to BAL_RSW_ARM checks the router switch record and arms the switch, or refuses it. -/
  | routerSwitchArm (hv : HostView)
  /-- R370: At the record's tick, KTL_MODEL_BASE and BAL_LDIR of the model take the infused router for steps accepted from then on. -/
  | routerSwitchAt
  /-- R441: A write of one to RSL_WSW_ARM checks the expert weight switch record and arms it, or refuses it. -/
  | weightSwitchArm (hv : HostView)
  /-- R441: At the record's tick, RSL_WVER_m takes the new expert weight version for steps accepted from then on. -/
  | weightSwitchAt
  /-- R366: A write of one to RSL_RINF_GO captures a model's router and starts an Infuser copy to a destination chip, or refuses the start. -/
  | routerCopyGo (hv : HostView)
  /-- R444: A write of one to RSL_EINF_GO starts an Infuser copy of expert weight images of version v, or refuses the start. -/
  | expertCopyGo (hv : HostView)
  /-- R369: A copy that makes no progress for 2^22 ticks fails, with FAIL set and an event recorded. -/
  | infusionStall (router : Bool)
  /-- R446: A write of one to RSL_CKPT_CTL.GO, or advice with ARM set, starts a snapshot to the pool unless one is in progress. -/
  | snapshotGo (go : SnapCause)
  /-- R451: A snapshot with no progress for 2^22 ticks fails, with FAIL set and an event recorded. -/
  | snapshotStall
  /-- R452: A write of one to RSL_RESTORE loads the newest valid Cairn's block and context sections and resumes the recorded contexts, or refuses. -/
  | restoreGo (hv : HostView)
  /-- R433: A write to RSL_LOST_DECL declares a chip lost on this chip. -/
  | lostDeclWrite (data : W32)
  /-- R483: A write of one to GLB_START_CTL.RESTART in minimal mode or after shut-down clears the failure count and begins a start. -/
  | restartWrite
  /-- R485: A write of one to GLB_SHUT.GO, with no job context enabled, begins the shut-down self-test. -/
  | shutGo
  /-- R486: The self-test of one pitch completes, its faults are remapped or fail the pitch, and the next pitch is tested. -/
  | shutPitchTested (passed : Bool) (remaps : List W32)
  /-- R487: The new health record is programmed and read back, DONE or HR_FAIL is set and off_ok rises. -/
  | healthRecordWritten (ok : Bool)
  /-- R420: A write to DET_CTL.PLOCK makes every pitch hold to, or release, the pace slots from the next handshake. -/
  | plockWrite (on : Bool)
  /-- R420: A write to DET_CTL.REC, RCTX or DIG applies to each context from its next acceptance; setting REC resets DET_REC_HEAD. -/
  | recordCtlWrite (data : W32)
  /-- R492: A write to a TP field adds or replaces a word in the Fence proposal buffer. -/
  | fenceTpWrite (addr : BitVec 23) (data : W32)
  /-- R492: A write of one to FNC_PROP_CTL.CLEAR empties the proposal buffer. -/
  | proposalClear
  /-- R493: A write of one to FNC_PROP_CTL.SUBMIT refuses the proposal or numbers it, sends it to the ranger and opens the countersign window. -/
  | proposalSubmit
  /-- R495: A verdict word from the ranger applies or rejects the matching pending proposal, or is counted as bad. -/
  | rangerVerdict (word : W64)
  /-- R495: 1,000,000 ticks after a submit with no matching verdict, the proposal is discarded and EXPIRED is set. -/
  | countersignExpire
  /-- R489: The TAP instruction SCAN_EN disables every job context, zeroes every tag key and then connects the scan chains. -/
  | scanEn
  /-- R62: A rising edge of tick_stb advances every counter copy and the tick-driven allowances and timers. -/
  | tickStrobe (gap : Nat) (interval : Nat) (upset : BitVec 4) (flip : W64)
  /-- R63: A tick-load handshake is acknowledged and accepted, or ignored on parity failure or refusal. -/
  | tickLoad (val : W64) (par : BitVec 8)
  /-- R63: At the 64th strobe edge after E0, every counter copy takes the accepted load value. -/
  | tickLoadApply
  /-- R38: No strobe for 2^16 ticks of reference-ring time raises the tick-loss fault. -/
  | tickLoss (ring : Nat)
  /-- R37: At the end of each 1,000-tick window the pace meter loads PWR_PACE_NOW and updates PWR_PACE_MIN. -/
  | paceWindowEnd (pitch : Nat) (count : Nat)
  /-- R471: Every 64 ticks the pace governor estimates current, drives est and moves I_lim within its step limits. -/
  | governorWindow (pitch : Nat) (cap : Nat)
  /-- R409: A stage that misses its pace slot completes at the next slot, and SLIP, an event and ntc[5] are raised. -/
  | paceLockSlip (pitch : Nat)
  /-- R472: A rise of droop holds I_lim at half the last estimate, stops new tiles and sets the pace notice. -/
  | droopRise (pitch : Nat)
  /-- R472: A fall of droop lets I_lim rise again under R471. -/
  | droopFall (pitch : Nat)
  /-- R470: A fall of good after start makes its pitch lost and holds it in reset until the next start. -/
  | powerGoodFall (pitch : Nat)
  /-- R473: The junction reading crosses 105 °C upward, or 100 °C downward, and hot follows it. -/
  | junctionHot (pitch : Nat) (reading : Nat)
  /-- R478: Release of pitch_rst_n with good high and strobes present begins the phased start sequence. -/
  | startBegin (input : StartInput)
  /-- R481: A phase-5 self-test round completes, and pitches that failed are held in reset. -/
  | selfTestRoundDone (failed : BitVec 4)
  /-- R478: At the end of phase 7 the anchor is chosen, LK fields lock, DONE and the start notice are set and the links are enabled. -/
  | startComplete (duration : Nat)
  /-- R482: A start ends at its first failing check and records the reason code. -/
  | startFail
  /-- R482: 1 ms after a failed start that is not the third, a new start begins from phase 1. -/
  | startRetry (input : StartInput)
  /-- R50: A waiting memory request is issued on its channel once the allowance covers its beats, by class priority and then age. -/
  | memRequestIssue (ch : Nat)
  /-- R48: A read-data beat is checked and delivered to the requesting unit, or the request is reissued or faulted. -/
  | memReadBeat (ch : Nat) (tag : Nat) (beat : Nat) (last : Bool) (sts : Nat) (data : Bytes) (par : List Bool) (hpar : Bool)
  /-- R48: A write response releases its tag and makes the write visible, or leads to reissue or a fault. -/
  | memWriteResponse (ch : Nat) (tag : Nat) (sts : Nat) (hpar : Bool)
  /-- R52: A request unanswered for GLB_MEM_ANSWER_TMO ticks has its tag quarantined and is reissued once, or faults. -/
  | memAnswerTimeout (ch : Nat) (tag : Nat)
  /-- R43: A bundle phase waited on for GLB_PORT_TMO ticks isolates the channel and raises the block-fault notice. -/
  | portStuckTimeout (cls : Nat) (at_ : StuckAt)
  /-- R71: mem_iso or core_iso falls once all handshake wires have been low for 16 ticks. -/
  | isolationRelease (cls : Nat) (index : Nat)
  /-- R72: A rise of mem_down stops issue on the channel and keeps its requests pending. -/
  | memDownRise (ch : Nat)
  /-- R72: A fall of mem_down reissues every pending request under new tags, in order of original issue. -/
  | memDownFall (ch : Nat)
  /-- R72: A rise of core_down stops outbound traffic on the attachment point and keeps its packets pending. -/
  | coreDownRise (point : Nat)
  /-- R72: A fall of core_down resends the attachment point's pending packets. -/
  | coreDownFall (point : Nat)
  /-- R328: An inbound type 0x8 packet is checked and its return records or shared rows are passed to the Pour unit or to the steep hold. -/
  | expertOutputs (point : Nat) (packet : Bytes) (par : List Bool)
  /-- R339: An inbound type 0x9 packet of input gradients is checked and landed for the backward combine. -/
  | expertInputGradients (point : Nat) (packet : Bytes) (par : List Bool)
  /-- R263: An inbound cue done completes a shared-expert or chain cue, and raises counter 3 or a shared-expert fault. -/
  | cueDone (point : Nat) (word : Bytes) (par : List Bool)
  /-- R394: An inbound cancel done with a matching cancel_id completes the wait of a cancel or teardown. -/
  | cancelDone (point : Nat) (word : Bytes) (par : List Bool)
  /-- R394: No cancel done within CTX_CANCEL_TMO records cancel silence, raises the block-fault notice and completes the cancel regardless. -/
  | cancelDoneTimeout (id : Nat)
  /-- R82: A received sequenced flit is checked, accepted in order or discarded with a nak, and its acknowledgement and credit fields are applied. -/
  | linkFlitAccept (port : Nat) (flit : RxFlit)
  /-- R84: A received control flit applies its acknowledgement, its nak and its returned credits. -/
  | controlFlit (port : Nat) (flit : RxFlit)
  /-- R92: A received hello brings the port up, sets its credits and resends from rx_next when it matches, and records a miswire otherwise. -/
  | helloFlit (port : Nat) (flit : RxFlit)
  /-- R434: A received loss notice declares the named chip lost and is forwarded, or tears down every job context when it names this chip. -/
  | lossNotice
  /-- R90: Each transmit slot of a port is given to a resend, a hello, vc 6, the arbitrated channel or a control flit, in that order. -/
  | linkTransmitSlot (port : Nat)
  /-- R84: When the oldest unacknowledged flit has waited XCH_ACK_TMO ticks, the retry buffer is resent. -/
  | ackTimeout (port : Nat)
  /-- R91: When phy_up rises with lnk_en high, the port begins sending hello flits. -/
  | phyUpRise (port : Nat)
  /-- R91: Every 1,000 ticks a port that is not up sends another hello flit. -/
  | helloTimer (port : Nat)
  /-- R86: phy_up low for 10,000 ticks while lnk_en is high declares the port failed. -/
  | phyDownTimeout (low : PhyLow)
  /-- R86: No acknowledgement advance for 16,384 ticks with flits outstanding declares the port failed. -/
  | retryBoundExpire (port : Nat)
  /-- R94: A spare not up within XCH_SPARE_TMO ticks has its partly sent chunks resent on another port of the same direction. -/
  | spareTimeout (port : Nat)
  /-- R101: Ends of a link that disagree on version 10,000 ticks after T raise the block-fault notice and restrict the port. -/
  | memberDisagreeTimeout (port : Nat)
  /-- R27: A guy-line acknowledge frees a replay-buffer word, or with reject high triggers a resend of it and every later word. -/
  | guyAck (boundary : Nat) (up : Bool) (line : Nat) (reject : Bool)
  /-- R28: The wire test of an out-of-service guy line assigns spare wires, or retires the line and brings in a spare line. -/
  | guyLineTestDone (boundary : Nat) (up : Bool) (line : Nat) (failing : List Nat)
  /-- R113: A Ready share-based context, once eligible and admitted in share order, is visited and its descriptor fetch begins. -/
  | shareVisit (ctx : Nat)
  /-- R116: A fetched descriptor runs the ordered checks, and is refetched, refused, faulted or made ready for acceptance. -/
  | descriptorFetched (ctx : Nat) (hv : HostView)
  /-- R117: A checked descriptor is accepted once its epoch is free: it binds its versions, clears its counters and loads images and tables. -/
  | stepAccept (ctx : Nat) (hv : HostView)
  /-- R386: A frame switch completes after its state has moved, and the incoming step's tiles may start. -/
  | frameSwitchDone (tent : Nat)
  /-- R114: At its launch tick, or at acceptance when later, the step launches and trigger counter 0 rises. -/
  | stepLaunch (ctx : Nat) (hv : HostView)
  /-- R270: A fired chain of op 0x1 reads local data and sends it to the peer in chunks of kind 0x4. -/
  | chainPut (ctx : Nat) (index : Nat) (hv : HostView)
  /-- R270: A fired chain of op 0x2 sends a get request to the peer for remote data. -/
  | chainGet (ctx : Nat) (index : Nat)
  /-- R270: A fired chain of op 0x3 fetches its collective descriptor and starts the collective over the named group. -/
  | chainCollective (ctx : Nat) (index : Nat) (hv : HostView)
  /-- R270: A fired chain of op 0x4 sends a counter add to the same context on the peer. -/
  | chainCounterAdd (ctx : Nat) (index : Nat)
  /-- R270: A fired chain of op 0x5 sends a core-port cue word built from local bytes. -/
  | chainCue (ctx : Nat) (index : Nat) (hv : HostView)
  /-- R121: A chain still unfired STP_CHAIN_TMO ticks after the rest of its step is complete raises the chain-stall fault. -/
  | chainStallTimeout (ctx : Nat)
  /-- R123: When all work of the step is complete, its state is written back and a done query record is written. -/
  | stepDone (ctx : Nat) (hv : HostView)
  /-- R125: The write response of a query record sets the ask deadline, and the context leaves Running or Fetching for Asking. -/
  | queryWriteResponse (ctx : Nat)
  /-- R125: At the deadline Walik-2 reads the answer half of the ask entry once. -/
  | askDeadline (ctx : Nat)
  /-- R125: A completed answer read takes a valid go, wait or stop answer, or leaves the query unanswered. -/
  | answerRead (ctx : Nat)
  /-- R126: Every STP_ASK_RETRY ticks after an unanswered deadline the answer half is read again. -/
  | askRetryTimer (ctx : Nat)
  /-- R127: At the re-read tick of a taken wait answer the answer half is read again. -/
  | askRereadTick (ctx : Nat)
  /-- R126: No answer taken STP_ASK_GRACE ticks after the deadline raises the ask-silence fault. -/
  | askGraceExpire (ctx : Nat)
  /-- R150: A scoring or shadow image loaded into a pitch's Caddy is checked against icheck, and is refetched, faulted or made usable. -/
  | imageLoadDone (ctx : Nat) (pitch : Nat)
  /-- R379: A free core of a tent takes the next ready tile of the first eligible step and loads its accumulators. -/
  | tileStart (core : Nat)
  /-- R142: A finished tile stores its accumulators, readies the next slice and charges its context's virtual time. -/
  | tileComplete (core : Nat) (hv : HostView)
  /-- R32: A residue or parity failure abandons the tile, which is recomputed from its start, on a remapped core where needed. -/
  | tileCheckFail (core : Nat) (lane : Nat) (spared : Bool)
  /-- R33: A storage row that fails parity is refetched from host memory or a replica, its tile recomputed and the row spared. -/
  | storageParityFail (kind : Nat) (pitch : Nat) (index : Nat) (sub : Nat)
  /-- R288: A phase-partial message is kept or consumed, and combined in ring order when its line is complete. -/
  | phasePartial (fails : Nat)
  /-- R291: A counts-to-owner message is collected, and once all sources have arrived the owner forms and returns Dtot and Wpre. -/
  | countsToOwner
  /-- R291: A counts-from-owner message delivers Dtot and Wpre to the source. -/
  | countsFromOwner
  /-- R193: Once counts and ranks are in, the Strainer allocates choices rank-major with overflow and computes the final weights. -/
  | strainerAllocate (ctx : Nat)
  /-- R292: A route-counts message of phase X, Y or Z is summed into the holdings, and the next phase is sent when the current one is complete. -/
  | routeCounts
  /-- R305: An abort message for an open instance puts the member on the fault path with reason 0x6, or is kept or discarded. -/
  | collectiveAbort
  /-- R270: A put-completion message completes the source's put or a snapshot chunk write. -/
  | putCompletion
  /-- R271: A counter-add message adds to a trigger counter of the running step, waits in the pending table, or is discarded. -/
  | counterAdd
  /-- R304: COL_RING_TMO ticks with nothing of an open instance arriving raise the collective-timeout fault. -/
  | collectiveTimeout (ctx : Nat) (inst : Nat)
  /-- R250: When a chunk-table entry is available, the source packs consecutive records into a chunk and starts it on its route. -/
  | chunkForm (ctx : Nat) (hv : HostView)
  /-- R310: With no confirmed chunk waiting, a source forms steeped chunks of predicted copies for eligible decode tokens. -/
  | steepedCopySend (ctx : Nat) (hv : HostView)
  /-- R261: A copy chunk at its final destination lands its records by slot and row, or in the steep hold. -/
  | copyChunkLanded
  /-- R261: XCH_BATCH_WAIT ticks after the oldest undelivered record landed, a token-batch packet is sent. -/
  | batchWaitExpire (ctx : Nat) (slot : Nat)
  /-- R319: An unmatched held entry is freed SPC_HOLD_TMO ticks after it landed and counted in SPC_MISS. -/
  | steepHoldTimeout
  /-- R236: The return records of a return chunk are checked at the source and passed to the Pour unit. -/
  | returnChunkLanded
  /-- R265: Expert weight data lands in the weights-to-tokens cache and is sent to the host cores in type 0x2 packets. -/
  | weightDataChunk
  /-- R270: Put data is checked against the Fence table and written at raddr, and a put completion is returned. -/
  | putDataChunk
  /-- R265: A get or weight-pull request makes the owner read the data or image and return it in chunks. -/
  | requestChunk (hv : HostView)
  /-- R270: Get data is written at the requester's laddr. -/
  | getDataChunk
  /-- R294: Ring data is combined in ring order, or stored in the gather half and checked against cw. -/
  | ringDataChunk (fails : Nat)
  /-- R447: Snapshot bytes are written at the pool address in class 3, and a completion is returned. -/
  | backgroundCopyChunk
  /-- R425: RSL_REPLAY_QUIET ticks without progress replays every copy whose return has not arrived. -/
  | replayQuietExpire (ctx : Nat)
  /-- R429: RSL_SHORT_QUIET ticks of silence in an open instance resend its messages and mark missing ring ranges bad. -/
  | shortQuietExpire (ctx : Nat) (inst : Nat)
  /-- R238: A cancelled epoch not drained within SRT_CANCEL_TMO ticks raises the return-drain fault. -/
  | returnDrainTimeout (ctx : Nat) (epoch : Nat)
  /-- R331: When everything a token needs has landed, the Pour unit combines its output row in fixed order and rounds once. -/
  | pourCombine (ctx : Nat) (token : Nat) (hv : HostView)
  /-- R509: A running step with no progress for GLB_STEP_TMO ticks raises the step-stall fault 0x1B. -/
  | stepStallTimeout (ctx : Nat)
  /-- R446: At the end of each 2^24-tick window the detection count used for checkpoint advice restarts. -/
  | adviseWindowEnd
  /-- R27: A word arriving on a guy line is parity-checked by the receiver, which raises reject on failure and discards every later word until the resent word arrives. -/
  | guyLineWordReceived (boundary : Nat) (up : Bool) (line : Nat) (sent : GuySend) (got : GuyGot)
  /-- R71: The host drives pitch_rst_n low, and the pitch's ports go to the reset state of R71 while its bypass strip carries traffic past it under R30. -/
  | pitchResetAsserted (pitch : Nat)
  /-- R427: When no cue done arrives within RSL_REPLAY_QUIET ticks of the cue or of the last shared row landed, the cue is resent with the same body, and after two resends the shared-expert fault is raised. -/
  | cueQuietExpire (ctx : Nat)
  /-- R61: A control-port read whose ctl_apar fails, or that names a non-GLB_ address before start completes, raises ctl_err and returns zero, and a parity failure is recorded as event kind 0x01. -/
  | ctlErrRead (addr : BitVec 23) (apar : Bool)
  deriving DecidableEq, Repr

end Sys2Proof
end

