-- ==== Sys2Proof/Decode.lean ====
section
/-! DEFINITION. The decoder over the bits of spec/opcode_table.json. No row of the table gives bits: the
commands are events of the block's ports and engines, and no word spells one. -/

namespace Sys2Proof

/-- The command that a word spells by the table's bits: none, since the table gives no row any. -/
def decodeTableWord (_nbits _w : Nat) : Option Instr := none

end Sys2Proof
end

