-- ==== Sys2Proof/Config.lean ====
section
/-! DEFINITION. What an implementation or its surroundings fix and the spec leaves open: constants with
no body, so that no proof can see a value. -/

namespace Sys2Proof

/-- Tag keys are internal random numbers (R235): the n-th draw (log entry 3). -/
opaque Config.tagKey : Nat → BitVec 64

/-- The host memory stack that holds an address (R46): the host's address map (log entry 10). -/
opaque Config.stackOf : Nat → Nat

/-- Content of the save area (R385: its content has no meaning for the host), by the number of the save
(log entry 11). -/
opaque Config.saveArea : Nat → Bytes

/-- Tokens that the sources before this one count in a step of expert choice with unlimited capacity: the exchange of R197
does not bring the prefix that R192 and R225 name (log entry 12). By the launch's elapsed tick, query and source index. -/
opaque Config.ecPrefix : Nat → Nat → Nat → Nat

/-- Chain index of the put that a chunk's data belong to, which the completion names: the chunk header carries none (log
entry 13). By source chip, context, epoch and chunk number. -/
opaque Config.putIndex : Nat → Nat → Nat → Nat → Nat

/-- Bytes of a put as its receiver knows them (log entry 13). By source chip, context, epoch and chain index. -/
opaque Config.putBytes : Nat → Nat → Nat → Nat → Nat

/-- Size of a remote expert's image as a source that has not pulled it knows it (log entry 14). By owner, local index,
model, layer and version. -/
opaque Config.pullSize : Nat → Nat → Nat → Nat → Nat → Nat

/-- Row of an MX payload converted from a row with values that are not finite (log entry 15). By format and row. -/
opaque Config.nonfiniteRow : Nat → Bytes → Bytes

/-- Scale and codes of an MX or T2 block converted from BF16 weights one of which is not finite (log entry 16): the spec
states no conversion for such a block. -/
opaque Config.nonfiniteBlock : Nat → List Nat → Nat × List Nat

/-- Staging accesses of 64 bytes (energy kind 3 of R391) that a tile or a combine makes: the spec states no number (log entry
41). By the count of free values drawn. -/
opaque Config.stagingAccesses : Nat → Nat

/-- How many times in succession the additions of a message of counts fail their check (R299): an event of the hardware that
the command does not carry (log entry 188). By the count of free values drawn. -/
opaque Config.sumFails : Nat → Nat

/-- Bytes of log entries waiting for their writes from which the record log is behind, and bytes that its staging buffer takes:
the spec states neither (R417, log entry 46). -/
opaque Config.logMark : Nat
opaque Config.logRoom : Nat

end Sys2Proof
end

