-- ==== Sys2Proof/Machine/Bytes.lean ====
section
/-! DEFINITION. Bytes, bit fields and checks: little-endian values (R12), the CRC-32 of R80, the CRC-8
of R234, reads of the host memory that a step sees. -/

namespace Sys2Proof.Machine

/-- `n` bytes of `v`, little-endian (R12). -/
def le : Nat → Nat → Bytes
  | 0, _ => []
  | n + 1, v => BitVec.ofNat 8 v :: le n (v / 256)

/-- The little-endian value of a byte string (R12). -/
def leNat : Bytes → Nat
  | [] => 0
  | b :: r => b.toNat + 256 * leNat r

/-- `n` bytes at offset `o`. -/
def sub (bs : Bytes) (o n : Nat) : Bytes := (bs.drop o).take n

/-- The `n`-byte little-endian field at offset `o`. -/
def fld (bs : Bytes) (o n : Nat) : Nat := leNat (sub bs o n)

/-- Bits `lo` and up, `w` of them. -/
def bits (v lo w : Nat) : Nat := v / 2 ^ lo % 2 ^ w

/-- Bit `i`. -/
def bit (v i : Nat) : Bool := decide (v / 2 ^ i % 2 = 1)

def b2n (b : Bool) : Nat := if b then 1 else 0

/-- `n` zero bytes. -/
def zeros (n : Nat) : Bytes := List.replicate n 0#8

/-- Padded with zero bytes to a multiple of `m`. -/
def padTo (m : Nat) (bs : Bytes) : Bytes := bs ++ zeros ((m - bs.length % m) % m)

/-- Exactly `n` bytes: cut, or completed with zeros. -/
def exactly (n : Nat) (bs : Bytes) : Bytes := bs.take n ++ zeros (n - bs.length)

def ceilDiv (a b : Nat) : Nat := (a + b - 1) / b

def roundUp (m a : Nat) : Nat := ceilDiv a m * m

/-- One bit of the reflected CRC-32 (R80: generator 0x04C1_1DB7, least significant bit first). -/
def crcBit (c : W32) : W32 :=
  if c.getLsbD 0 then (c >>> 1) ^^^ 0xEDB88320#32 else c >>> 1

def crcByte (c : W32) (b : Byte) : W32 :=
  crcBit (crcBit (crcBit (crcBit (crcBit (crcBit (crcBit (crcBit (c ^^^ b.zeroExtend 32))))))))

/-- The CRC-32 of R80. -/
def crc32 (bs : Bytes) : W32 := (bs.foldl crcByte 0xFFFFFFFF#32) ^^^ 0xFFFFFFFF#32

/-- The CRC-32 of R80 as a number. -/
def crcN (bs : Bytes) : Nat := (crc32 bs).toNat

/-- One bit of the CRC-8 of R234 (generator 0x07, most significant bit first). -/
def crc8Bit (c : Byte) : Byte :=
  if c.getLsbD 7 then (c <<< 1) ^^^ 0x07#8 else c <<< 1

def crc8Byte (c b : Byte) : Byte :=
  crc8Bit (crc8Bit (crc8Bit (crc8Bit (crc8Bit (crc8Bit (crc8Bit (crc8Bit (c ^^^ b))))))))

/-- The CRC-8 of R234: initial value 0, no reflection, no final exclusive-or. -/
def crc8 (bs : Bytes) : Byte := bs.foldl crc8Byte 0#8

/-- A structure whose last four bytes hold the CRC-32 of the bytes before them. -/
def withCrc (bs : Bytes) : Bytes := bs ++ le 4 (crcN bs)

/-- The check of such a structure: bytes 0 to `n - 5` against bytes `n - 4` to `n - 1`. -/
def crcOk (n : Nat) (bs : Bytes) : Bool :=
  decide (crcN (sub bs 0 (n - 4)) = fld bs (n - 4) 4)

/-- Even parity of a number's `w` low bits. -/
def parity (w v : Nat) : Nat := ((List.range w).map (fun i => v / 2 ^ i % 2)).foldl (· + ·) 0 % 2

/-- The byte a view holds at `a`; an unlisted byte is zero. -/
def cellAt : List (Nat × BitVec 8) → Nat → Byte
  | [], _ => 0#8
  | (k, v) :: r, a => if a = k then v else cellAt r a

/-- `n` bytes at `a` of a list of cells. -/
def cellsAt (m : List (Nat × BitVec 8)) (a n : Nat) : Bytes := (List.range n).map (fun i => cellAt m (a + i))

/-- `n` bytes at `a`, as the first fetch reads them. -/
def hv1 (h : HostView) (a n : Nat) : Bytes := cellsAt h.first a n

/-- `n` bytes at `a`, as a refetch reads them. -/
def hv2 (h : HostView) (a n : Nat) : Bytes := cellsAt h.second a n

/-- A structure of `n` bytes that carries its own check, read again once when the check fails. -/
def readChecked (h : HostView) (a n : Nat) : Option Bytes :=
  if crcOk n (hv1 h a n) then some (hv1 h a n)
  else if crcOk n (hv2 h a n) then some (hv2 h a n) else none

end Sys2Proof.Machine
end

