-- ==== Sys2Proof/Machine/Table.lean ====
section
/-! DEFINITION. Sparse tables in one canonical form: keys strictly rising and no entry equal to the
default, so that equal tables are equal data. Register arrays and per-unit state use them. -/

namespace Sys2Proof.Machine

/-- The entry at `k`, or the default where none is listed. -/
def tget {α : Type} (d : α) : Table α → Nat → α
  | [], _ => d
  | (k', v) :: r, k => if k = k' then v else tget d r k

/-- Insert or replace the entry at `k`, whatever its value. -/
def tins {α : Type} (k : Nat) (v : α) : Table α → Table α
  | [] => [(k, v)]
  | (k', v') :: r =>
    if k < k' then (k, v) :: (k', v') :: r
    else if k = k' then (k, v) :: r
    else (k', v') :: tins k v r

/-- Remove the entry at `k`. -/
def tdel {α : Type} (k : Nat) : Table α → Table α
  | [] => []
  | (k', v') :: r => if k = k' then tdel k r else (k', v') :: tdel k r

/-- Write `v` at `k`, keeping the canonical form: the default is never listed. -/
def tput {α : Type} [DecidableEq α] (d : α) (k : Nat) (v : α) (t : Table α) : Table α :=
  if v = d then tdel k t else tins k v t

/-- Change the entry at `k`. -/
def tmod {α : Type} [DecidableEq α] (d : α) (k : Nat) (f : α → α) (t : Table α) : Table α :=
  tput d k (f (tget d t k)) t

/-- Keys strictly rising from `lo`, no default listed. -/
def twf {α : Type} [DecidableEq α] (d : α) : Nat → Table α → Bool
  | _, [] => true
  | lo, (k, v) :: r => decide (lo ≤ k) && (!decide (v = d)) && twf d (k + 1) r

/-- Change every listed entry, keeping the canonical form. -/
def tmap {α : Type} [DecidableEq α] (d : α) (f : Nat → α → α) : Table α → Table α
  | [] => []
  | (k, v) :: r => let w := f k v
    if w = d then tmap d f r else (k, w) :: tmap d f r

/-- The listed keys whose entry meets `p`, in rising order. -/
def tkeys {α : Type} (p : Nat → α → Bool) (t : Table α) : List Nat :=
  (t.filter (fun e => p e.1 e.2)).map Prod.fst

/-- Replace the element at index `i` of a list (no effect past its end). -/
def lset {α : Type} (i : Nat) (v : α) : List α → List α
  | [] => []
  | x :: r => match i with
    | 0 => v :: r
    | i + 1 => x :: lset i v r

/-- First element that meets `p`, with the rest of the list without it. -/
def ltake {α : Type} (p : α → Bool) : List α → Option (α × List α)
  | [] => none
  | x :: r => if p x then some (x, r) else
    match ltake p r with
    | none => none
    | some (y, r') => some (y, x :: r')

/-- Insert before the first element that `le` places after `x` (stable: after equals). -/
def insSorted {α : Type} (lt : α → α → Bool) (x : α) : List α → List α
  | [] => [x]
  | y :: r => if lt x y then x :: y :: r else y :: insSorted lt x r

/-- Stable insertion sort. -/
def sortBy {α : Type} (lt : α → α → Bool) : List α → List α
  | [] => []
  | x :: r => insSorted (fun a b => !(lt b a)) x (sortBy lt r)

/-- The numbers `lo, lo+1, …` below `hi`. -/
def rangeFrom (lo hi : Nat) : List Nat := (List.range (hi - lo)).map (lo + ·)

/-- Lowest number that is not in the list. -/
def freeUnit (used : List Nat) : Nat :=
  ((List.range (used.length + 1)).find? (fun i => !(used.contains i))).getD 0

/-- Saturating count of `w` bits. -/
def satAdd (w : Nat) (a b : Nat) : Nat := min (a + b) (2 ^ w - 1)

/-- Times of events inside the sliding span of `span` ticks ending at `now` (R528). -/
def recent (span now : Nat) (ts : List Nat) : List Nat := ts.filter (fun t => now < t + span)

end Sys2Proof.Machine
end

