-- ==== Sys2Proof/Machine/RegMap.lean ====
section
/-! DEFINITION. The register map as data (chapter 21, with the field maps of the other chapters): one
row per register or register array, with the bits of each access code (R15) and the reset value. -/

namespace Sys2Proof.Machine

/-- One row of the register map: `n` registers from byte address `lo`, `step` bytes apart. The masks
say which bits carry each access code of R15; a bit in none of them is RO or reserved. -/
structure RegRow where
  lo : Nat
  n : Nat
  step : Nat
  rw : Nat
  w1c : Nat
  rc : Nat
  lk : Nat
  tp : Nat
  rst : Nat
  deriving DecidableEq, Repr, Inhabited

/-- All bits. -/
def ones : Nat := 0xFFFFFFFF

def rowRW (lo n step rw rst : Nat) : RegRow := ⟨lo, n, step, rw, 0, 0, 0, 0, rst⟩
def rowRO (lo n step rst : Nat) : RegRow := ⟨lo, n, step, 0, 0, 0, 0, 0, rst⟩
def rowLK (lo n step lk rst : Nat) : RegRow := ⟨lo, n, step, 0, 0, 0, lk, 0, rst⟩
def rowTP (lo n step tp : Nat) : RegRow := ⟨lo, n, step, 0, 0, 0, 0, tp, 0⟩
def rowRC (lo n step rc rst : Nat) : RegRow := ⟨lo, n, step, 0, 0, rc, 0, 0, rst⟩
def rowW1C (lo n step w1c rc : Nat) : RegRow := ⟨lo, n, step, 0, w1c, rc, 0, 0, 0⟩

/-- GLB_ and STP_ (R2, R107, R496, R509, R517). -/
def rowsGlb : List RegRow :=
  [ rowRO 0x0 1 4 0x57414C4B, rowRO 0x4 1 4 0x00020400, rowRW 0x8 1 4 1 0, rowRO 0xC 1 4 0,
    rowRO 0x10 2 4 0, rowRO 0x18 2 4 0, rowW1C 0x20 1 4 0x7F 0, rowRW 0x24 1 4 0x7F 0,
    rowRW 0x30 1 4 ones 0x10000, rowRW 0x34 1 4 ones 0x100000, rowRW 0x38 1 4 ones 0x2000000,
    rowRC 0x40 1 4 ones 0, rowRO 0x44 2 4 0, rowRO 0x50 1 4 0, rowRO 0x54 2 4 0, rowRO 0x5C 1 4 0,
    rowRW 0x10000 1024 16 0x800FFFFF 0, rowRW 0x10004 1024 16 ones 0, rowRW 0x10008 1024 16 ones 0,
    rowRW 0x1000C 1024 16 ones 0, rowRW 0x14000 1024 16 0x800FFFFF 0, rowRW 0x14004 1024 16 ones 0,
    rowRW 0x14008 1024 16 ones 0, rowRW 0x1400C 1024 16 ones 0,
    rowRW 0x18000 2 4 0x7FF 0, rowRW 0x18008 2 4 ones 0, rowRO 0x18010 2 4 0, rowRO 0x18018 2 4 0,
    rowRW 0x18020 1 4 0xFFFF 0x400, rowRW 0x18024 1 4 0xFFFF 0x100, rowRW 0x18028 1 4 ones 0x100000,
    rowRW 0x1802C 1 4 ones 0x400000, rowRO 0x18030 1 4 0 ]

/-- KTL_, STN_ and SRT_ (R178, R199, R201, R240, R244, R517, R518). -/
def rowsKtl : List RegRow :=
  [ rowRO 0x20000 4 4 0, rowLK 0x20010 1 4 0x3F 40, rowRW 0x20014 1 4 3 1, rowRO 0x20020 5 4 0,
    rowRW 0x20100 64 8 0xFFFFFFC0 0, rowRW 0x20104 64 8 ones 0, rowRW 0x20300 64 4 0x1FF 0,
    rowRW 0x30000 1 4 1 0, rowRO 0x30004 1 4 0, rowRW 0x30008 1 4 0xFFFFFFC0 0,
    rowRW 0x3000C 1 4 ones 0, rowRW 0x30010 1 4 0xFFFF 0, rowRW 0x30014 2 4 ones 0,
    rowRO 0x3001C 5 4 0,
    rowRW 0x40000 1 4 0xFF 0x20, rowRC 0x40004 1 4 0xFFFF 0, rowRW 0x40008 1 4 0xFFFF 0x40,
    rowRW 0x4000C 1 4 ones 0x400000, rowRO 0x40010 3 4 0 ]

/-- XCH_ and COL_ (R260, R271, R274, R276, R306, R518). -/
def rowsXch : List RegRow :=
  [ rowRW 0x50000 1 4 3 1, rowRW 0x50004 1 4 0xFFFFFF 0x126648, rowRW 0x50008 1 4 0xFFFF 0x1000,
    rowLK 0x5000C 1 4 0xFF 0x40, rowRC 0x50010 1 4 0xFFFF0000 0, rowRC 0x50014 1 4 0xFFFF0000 0,
    rowRW 0x50018 1 4 0xFFFF 0x400, rowRW 0x5001C 1 4 ones 0xC350, rowRW 0x50020 1 4 0xFFFF 0x200,
    rowRO 0x50024 1 4 0, rowRW 0x50030 1 4 0xFFFFFFC0 0, rowRW 0x50034 1 4 ones 0,
    rowRW 0x50038 1 4 0xFFFF 0, rowRW 0x5003C 2 4 ones 0, rowRO 0x50044 1 4 0,
    rowRW 0x50048 1 4 ones 0x10000, rowRC 0x5004C 1 4 0xFFFF0 0, rowRO 0x50050 1 4 0,
    rowLK 0x50054 1 4 0xFFFF0000 0, rowLK 0x50058 1 4 ones 0, rowLK 0x5005C 1 4 0xFFFF 0,
    rowRO 0x50060 1 4 0, rowRC 0x50100 72 4 0xFFFF0000 0, rowRO 0x54000 4096 4 0,
    rowRO 0x60000 1 4 0xE0F0F0F0, rowRW 0x60004 4095 4 0xE0FFFFFF 0, rowRW 0x64000 1 4 0xF 3, rowRW 0x64004 1 4 ones 0x100000,
    rowLK 0x64008 1 4 0xFFFF 0x0100, rowRO 0x64010 4 4 0 ]

/-- SPC_, POR_ and BAL_ (R321, R344, R345, R372). -/
def rowsBal : List RegRow :=
  [ rowRW 0x70000 1 4 0xFFF1 0x8041, rowLK 0x70004 1 4 0xFF 0x20, rowRW 0x70008 1 4 ones 0x100000,
    rowRO 0x70010 4 4 0,
    rowRW 0x80000 1 4 1 1, rowLK 0x80004 1 4 0xFF 0x40, rowRO 0x80010 5 4 0, rowRW 0x80100 64 4 0xF 0,
    rowRO 0x90000 3 4 0, rowRW 0x90010 2 4 ones 0, rowRO 0x90018 2 4 0,
    rowRW 0x90100 64 4 0x80000FFF 0, rowRW 0x90200 64 8 0xFFFFFFC0 0,
    rowRW 0x90204 64 8 ones 0 ]

/-- CTX_, LNT_ and RSL_ (R376, R391, R400, R453, R468). -/
def rowsCtx : List RegRow :=
  [ rowRO 0xA0000 2 4 0, rowRO 0xA0008 1 4 0, rowRW 0xA000C 1 4 ones 0x100000,
    rowLK 0xA0020 8 4 0xFFFFFF 0, rowRW 0xA0100 64 4 0xFFFFFF7F 0,
    rowRO 0xB0000 1 4 0, rowRO 0xB0004 4 4 0, rowRO 0xB0014 1 4 0, rowRW 0xB0018 1 4 0x1FFFFF 0x40,
    rowW1C 0xB001C 1 4 3 0, rowRC 0xB0020 2 4 ones 0, rowRO 0xB0028 2 4 0, rowLK 0xB0030 1 4 0x1F 0,
    rowLK 0xB0034 1 4 0xFFFFF000 0, rowLK 0xB0038 1 4 ones 0,
    rowRO 0xC0000 4 4 0, rowRO 0xC0010 1 4 0, rowRW 0xC0014 1 4 ones 0x10000,
    rowRW 0xC0018 1 4 ones 0x4000, rowRW 0xC001C 1 4 0x1FFFF 0x10040, rowRW 0xC0020 1 4 1 0,
    rowW1C 0xC0024 1 4 6 0, rowLK 0xC0028 1 4 0x1FFF 0, rowLK 0xC002C 1 4 0xFFFFF000 0,
    rowLK 0xC0030 1 4 ones 0, rowRO 0xC0034 3 4 0, rowRW 0xC0040 1 4 3 3,
    rowRW 0xC0050 2 4 ones 0, rowRO 0xC0058 2 4 0, rowRW 0xC0060 2 4 ones 0, rowRO 0xC0068 1 4 0,
    rowW1C 0xC006C 1 4 6 0, rowRW 0xC0070 2 4 ones 0, rowRO 0xC0078 1 4 0, rowW1C 0xC007C 1 4 6 0,
    rowRO 0xC0080 1 4 0, rowRW 0xC0100 128 4 ones 0, rowRO 0xC0300 64 4 0, rowRO 0xC0400 256 4 0 ]

/-- PWR_, FNC_, DET_ and SFN_ (R220, R221, R419, R490, R496, R519). -/
def rowsPwr : List RegRow :=
  [ rowRO 0xD0000 4 0x100 0, rowRC 0xD0004 4 0x100 0xFFFF 0xFFFF, rowLK 0xD0008 4 0x100 0xFFFF 0x0808,
    rowRC 0xD000C 4 0x100 0xFF00 0, rowW1C 0xD0010 4 0x100 7 0,
    rowTP 0xE0000 64 0x100 0x1F, rowTP 0xE0004 64 0x100 0xE0FFFFFF ] ++
  (List.range 15).flatMap (fun i =>
    [ rowTP (0xE0008 + 16 * i) 64 0x100 0xFFFFF000, rowTP (0xE000C + 16 * i) 64 0x100 ones,
      rowTP (0xE0010 + 16 * i) 64 0x100 ones, rowTP (0xE0014 + 16 * i) 64 0x100 0xF ]) ++
  [ rowTP 0xE4000 1024 4 0x3F3F3F3F, rowRO 0xE5000 2 4 0, rowW1C 0xE5008 1 4 0xE 0,
    rowW1C 0xE500C 1 4 1 0, rowRO 0xE5010 1 4 0,
    rowRW 0xF0000 1 4 0xFFF1D 0xFFF00, rowRW 0xF0004 1 4 0xFFFF 0x800, rowRC 0xF0008 1 4 ones ones,
    ⟨0xF000C, 1, 4, 0, 2, 0xFFFFFFFC, 0, 0, 0⟩, rowRW 0xF0010 1 4 0xFFFF0000 0,
    rowRW 0xF0014 1 4 ones 0, rowRW 0xF0018 1 4 0xFFFF 0, rowRO 0xF001C 1 4 0,
    rowRW 0x100000 1 4 1 0, rowRO 0x100004 2 4 0 ]

/-- The block-wide register map (R514 to R519). -/
def regRows : List RegRow := rowsGlb ++ rowsKtl ++ rowsXch ++ rowsBal ++ rowsCtx ++ rowsPwr

/-- The context page (R375, R525), offsets within the page. -/
def pageRows : List RegRow :=
  [ rowRO 0x0 1 4 0, rowRW 0x4 1 4 0xFFFF 0x100, rowRO 0x8 1 4 0, rowRW 0xC 1 4 ones 0,
    rowRW 0x10 1 4 0xFFFFFF00 0, rowRW 0x14 1 4 ones 0, rowRW 0x18 1 4 0x1F 0, rowRW 0x1C 1 4 0xF 0,
    rowRW 0x20 1 4 0xFFFFFF80 0, rowRW 0x24 1 4 ones 0, rowRW 0x28 1 4 ones 0x7D0, rowRO 0x2C 1 4 0,
    rowRW 0x30 2 4 ones 0, rowRW 0x38 1 4 ones 0, rowRW 0x3C 1 4 0xFFFF 0,
    rowRW 0x40 1 4 0xFFFF0000 0, rowRW 0x44 2 4 ones 0, rowRC 0x4C 1 4 ones 0,
    rowRW 0x50 1 4 0xFFFFFFC0 0, rowRW 0x54 2 4 ones 0, rowRW 0x60 1 4 0xFFFF0000 0,
    rowRW 0x64 2 4 ones 0, rowRW 0x70 1 4 0xFFFF0000 0, rowRW 0x74 2 4 ones 0,
    rowRW 0x7C 1 4 0xFFFF 0, rowRW 0x80 1 4 0xFFFFFFC0 0, rowRW 0x84 1 4 ones 0,
    rowRW 0x88 1 4 0x1F 0, rowRO 0x8C 1 4 0, rowRO 0x90 1 4 0x01000100, rowRO 0xA0 14 4 0 ]

/-- Does the row hold byte address `a`? -/
def RegRow.holds (r : RegRow) (a : Nat) : Bool :=
  decide (r.lo ≤ a) && decide ((a - r.lo) % r.step = 0) && decide ((a - r.lo) / r.step < r.n)

/-- First byte of the context pages (R514). -/
def pageBase : Nat := 0x1000000

/-- The map's row for byte address `a`; none for a reserved address (R14). -/
def regRow (a : Nat) : Option RegRow :=
  if a < pageBase then regRows.find? (fun r => r.holds a)
  else pageRows.find? (fun r => r.holds (a % 0x1000))

/-- The reset value of the register at byte address `a` (0 at a reserved address). -/
def resetWord (a : Nat) : Nat := match regRow a with | none => 0 | some r => r.rst

/-- Page offsets guarded while ENABLE or TDOWN is one (R375, R525). -/
def pageGuarded (off : Nat) : Bool :=
  [0x0C, 0x10, 0x14, 0x18, 0x1C, 0x20, 0x24, 0x30, 0x34, 0x40, 0x44, 0x48, 0x50, 0x54, 0x58, 0x60,
   0x64, 0x68, 0x70, 0x74, 0x78, 0x80, 0x84, 0x88].contains off

/-- Is `v` inside the stated range of the register at `a`? Registers whose map says how other values
count, and LAYERS and ASK_ORDER, take any value (R516). -/
def regInRange (a v : Nat) : Bool :=
  if a = 0x18000 ∨ a = 0x18004 then decide (v ≤ 1024)
  else if a = 0x20010 then decide (1 ≤ v ∧ v ≤ 47)
  else if 0x1000000 ≤ a ∧ a % 0x1000 = 0x18 then decide (v ≤ 16)
  else if 0x1000000 ≤ a ∧ a % 0x1000 = 0x88 then decide (v ≤ 20)
  else true

/-- Two-word RO registers, by the byte address of the low word (R515): GLB_TICK, STP_ROTA_T0,
KTL_MODEL_VALID and the accounting counters of the context pages (R390). -/
def isLatchLow (a : Nat) : Bool :=
  decide (a = 0x10) || decide (a = 0x18018) || decide (a = 0x20000) ||
  (decide (pageBase ≤ a) && decide (a < 0x2000000) && decide (0xA0 ≤ a % 0x1000) &&
    decide (a % 0x1000 < 0xD8) && decide (a % 8 = 0))

end Sys2Proof.Machine
end

