-- ==== Sys2Proof/Machine/StateBlock.lean ====
section
/-! DEFINITION. State of the block's frame: time base, pitches, Lantern queue, start and shut-down,
Fence protocol, memory channels, core attachment points, guy lines. Plain data. -/

namespace Sys2Proof.Machine

/-- An accepted tick load (R63): the value, and the strobe edges still to come before it is read. -/
structure TickLoad where
  val : BitVec 64
  left : Nat
  deriving DecidableEq, Repr, Inhabited

/-- The time base (R22, R62, R63, R511). -/
structure Clk where
  /-- elapsed ticks: strobes, and the reference-ring estimate while the tick is lost (R511); every
  tick-measured timer is measured against it -/
  el : Nat
  /-- the tick is lost and no load has been accepted since (R511) -/
  lost : Bool
  load : Option TickLoad
  /-- no strobe has arrived since the last tick loss: the pace meters hold (R38) -/
  silent : Bool := false
  deriving DecidableEq, Repr, Inhabited

/-- One pitch (R22, R71, R431, R471 to R473). -/
structure Pitch where
  /-- its copy of the tick counter (R22) -/
  tick : BitVec 64
  /-- held in reset: not started, failed, undescribed, lost or its reset asserted -/
  held : Bool
  /-- lost under R431 since the last start -/
  lost : Bool
  /-- allowed current I_lim, in 1/48,000,000 A (R471) -/
  iLim : Nat
  /-- estimate of the last governor window, same unit (R471) -/
  est : Nat
  /-- energy of the running governor window, in fJ (R391, R471) -/
  win : Nat
  /-- the cap signal (R469) -/
  cap : Nat
  droop : Bool
  /-- the hot output (R473) -/
  hot : Bool
  /-- the off_ok output (R487) -/
  offOk : Bool
  /-- held to the pace slots (R408, R420) -/
  locked : Bool
  deriving DecidableEq, Repr, Inhabited

/-- Where an entry of the Lantern queue stands (R454, R457). -/
inductive LPlace where
  | pool
  | head
  | tail
  | biv
  | toBiv
  | fromBiv
  deriving DecidableEq, Repr, Inhabited

/-- An entry of the Lantern queue: its level and its four words as stored (R460); `slot` is its place
in the Bivouac while it is there or in transit. -/
structure LEntry where
  id : Nat
  level : Nat
  words : List Nat
  place : LPlace
  slot : Nat
  deriving DecidableEq, Repr, Inhabited

/-- The Lantern queue (R454 to R460): entries in age order, the oldest first. -/
structure Lnt where
  ents : List LEntry := []
  nextId : Nat := 0
  /-- the Bivouac is in service -/
  biv : Bool := false
  /-- the Bivouac failed in this start (R458) -/
  bivOff : Bool := false
  deriving DecidableEq, Repr, Inhabited

/-- A command on the NVM port (R68 to R70). `read` names opcode, address bytes, address and length. -/
inductive NvmOp where
  | sfdp
  | enter4
  | read (opcode abytes addr len : Nat)
  | writeEnable
  | program (addr : Nat) (data : Bytes)
  | erase (addr : Nat)
  | status
  deriving DecidableEq, Repr, Inhabited

/-- A read mode of R69: its opcode, its address bytes, dummy cycles, and whether 0xB7 is sent first. -/
structure ReadMode where
  opcode : Nat
  abytes : Nat
  dummy : Nat
  enter4 : Bool
  deriving DecidableEq, Repr, Inhabited

/-- The NVM port (R67 to R71): its output pins, the read mode in use, and the commands issued, oldest first. -/
structure Nvm where
  csN : Bool := true
  sck : Bool := false
  io32 : Bool := true
  mode : Option ReadMode := none
  ops : List NvmOp := []
  deriving DecidableEq, Repr, Inhabited

/-- Phases of a start (R478, R482). -/
inductive StartPhase where
  | idle
  | testing
  | ready
  | failing
  | waiting
  | done
  | minimal
  deriving DecidableEq, Repr, Inhabited

/-- What the Chroub image gave, held from its reading to phase 6 (R474 to R476). -/
structure Image where
  pitches : Nat
  chip : Nat
  nx : Nat
  ny : Nat
  nz : Nat
  pos : Nat
  hrAddr : Nat
  hrSect : Nat
  igen : Nat
  pairs : List (Nat × Nat)
  links : List (Nat × Nat × Nat × Nat × Nat)
  member : Option (Nat × Table Nat)
  groups : Table Nat
  spares : List Nat
  trims : Bytes
  deriving DecidableEq, Repr, Inhabited

/-- Start and shut-down (R478 to R489). -/
structure StartSt where
  phase : StartPhase
  /-- bit p: pitch p takes part in this start -/
  part : Nat
  /-- bit p: tested in phase 5 -/
  tested : Nat
  /-- bit p: failed a test or the health record -/
  failed : Nat
  /-- pitches of the phase-5 rounds still to run -/
  rounds : List Nat
  /-- pending reason code of R484 -/
  code : Nat
  fails : Nat
  reason : Nat
  note : Nat
  /-- elapsed tick of the failure (R482) -/
  failAt : Nat
  image : Option Image
  /-- the newest valid health record, as read (R477) -/
  record : Option Bytes
  /-- LK fields locked (R521) -/
  lock : Bool
  /-- bit p: started pitches -/
  started : Nat
  /-- 0 no shut-down, 4 a snapshot to finish, 1 testing, 2 health record to write, 3 complete (R485 to R487) -/
  shut : Nat
  shutPitch : Nat
  shutFailed : Nat
  shutDone : Nat
  hrFail : Bool
  hrTries : Nat
  /-- the scan chains are connected (R489) -/
  scan : Bool
  keysCleared : Bool
  /-- the block stopped: good fell on every pitch (R470) -/
  stopped : Bool
  /-- bit p: good of pitch p has fallen since the start began (R470) -/
  low : Nat := 0
  /-- bit p: the bypass strip of pitch p failed its test in this start (R30) -/
  bypass : Nat := 0
  /-- page of the newest valid health record in its area (R477, R487) -/
  page : Option Nat := none
  nvm : Nvm := {}
  /-- consecutive failed starts before this one (R477) -/
  before : Nat := 0
  deriving DecidableEq, Repr, Inhabited

/-- A submitted proposal (R494, R495). -/
structure Proposal where
  num : Nat
  digest : Nat
  at_ : Nat
  deriving DecidableEq, Repr, Inhabited

/-- The Fence protocol (R492 to R495). The effective table stands in the register file. -/
structure Fnc where
  /-- the proposal buffer: byte address and value, in order of entry -/
  buf : List (Nat × Nat)
  pend : Option Proposal
  /-- 64-bit words sent on the ranger sideband (R494), oldest first -/
  sent : List Nat
  deriving DecidableEq, Repr, Inhabited

/-- The control port's outputs and latches (R60, R61, R515). -/
structure Ctl where
  rdata : BitVec 32
  rpar : BitVec 4
  err : Bool
  /-- latched high words, by the byte address of the high word -/
  latch : Table Nat
  /-- registers written in the present tick, with their values before it (R498) -/
  fresh : List (Nat × Nat) := []
  deriving DecidableEq, Repr, Inhabited

/-- The unit for which a memory request is made. -/
inductive MemUnit where
  | bivWrite | bivRead | desc | query | answer | row | outRow | gradOut | exitOut | statsOut
  | ledgerOut | keepOut | spillOut | imageRead | landOut | landRead | transitOut | transitRead
  | putOut | getOut | ringOut | propOut | balOut | gaccOut | shadowOut | affOut | recordOut
  | saveOut | saveRead | tileRead | w2tOut | expertRead | lineRead | spillRead | pourOut | pourRead
  deriving DecidableEq, Repr, Inhabited

/-- What a request is for: the unit and its own index. -/
structure MemWhy where
  unit : MemUnit
  idx : Nat
  deriving DecidableEq, Repr, Inhabited

/-- A memory request (R46 to R50): whole 64-byte lines; `data` is empty for a read. `mask` lists the
32-bit words written, for op 0b010; none means all of them. -/
structure MemReq where
  ctx : Nat
  cls : Nat
  addr : Nat
  lines : Nat
  wr : Bool
  data : Bytes
  mask : Option (List Bool)
  why : MemWhy
  /-- attempts made (R52) -/
  tries : Nat
  poisoned : Bool
  silent : Bool
  /-- its next issue is no new attempt (R53, R72) -/
  again : Bool := false
  /-- age: the order in which requests came to wait (R50) -/
  id : Nat := 0
  /-- number of its original issue, 0 before it (R72) -/
  iss : Nat := 0
  /-- it was pending when mem_down fell: reissued in order of original issue (R72) -/
  resume : Bool := false
  /-- it has been withheld while the record log was behind (R417, R500) -/
  lag : Bool := false
  deriving DecidableEq, Repr, Inhabited

/-- An outstanding request (R51, R52). -/
structure MemOut where
  tag : Nat
  req : MemReq
  /-- next beat index expected -/
  beat : Nat
  got : Bytes
  at_ : Nat
  /-- its data are discarded until its last beat (R51, R52); of a quarantined or abandoned write: another attempt
  of the write has had its response (R49) -/
  dead : Bool := false
  deriving DecidableEq, Repr, Inhabited

/-- A memory channel (R46 to R53, R72). -/
structure MemCh where
  iso : Bool
  down : Bool
  /-- elapsed tick from which the handshake wires have been low (R71) -/
  lowAt : Nat
  /-- read allowance in 1/128 beat (R50) -/
  rd : Nat
  wr : Nat
  out : List MemOut
  /-- quarantined tags, with the request each carried (R52) -/
  quar : List MemOut
  proto : List Nat
  nextTag : Nat
  /-- tags of requests that isolation or a fall of mem_down took out: not reused until the last beat or the response
  has come (R51) -/
  stale : List MemOut := []
  deriving DecidableEq, Repr, Inhabited

/-- A completed transfer its unit has not yet taken. -/
structure MemDone where
  ctx : Nat
  why : MemWhy
  addr : Nat
  data : Bytes
  deriving DecidableEq, Repr, Inhabited

/-- A request as it leaves on a channel's request bundle (R46): line address and lines minus one. -/
structure MemCmd where
  ch : Nat
  op : Nat
  addr : Nat
  len : Nat
  tag : Nat
  cls : Nat
  ctx : Nat
  par : Nat
  deriving DecidableEq, Repr, Inhabited

/-- A beat on a channel's write-data bundle (R46, R47). -/
structure MemBeat where
  ch : Nat
  tag : Nat
  data : Bytes
  wm : List Bool
  par : List Bool
  last : Bool
  deriving DecidableEq, Repr, Inhabited

/-- The memory port. `wait` is in age order; `cmds` and `beats` trace what the request and write-data bundles carry,
oldest first. -/
structure Mem where
  wait : List MemReq
  chs : List MemCh
  done : List MemDone
  /-- age of the next request; number of the next original issue -/
  nextId : Nat := 1
  nextIss : Nat := 1
  cmds : List MemCmd := []
  beats : List MemBeat := []
  deriving DecidableEq, Repr, Inhabited

/-- A packet or cue word that leaves on the core port (R54). -/
structure CorePkt where
  point : Nat
  bytes : Bytes
  deriving DecidableEq, Repr, Inhabited

/-- A core attachment point (R54 to R59, R72). -/
structure CorePt where
  iso : Bool
  down : Bool
  lowAt : Nat
  /-- packets that wait for core_down to fall (R72) -/
  pend : List Bytes
  /-- elapsed tick from which the bulk lane is free (R55) -/
  busy : Nat := 0
  /-- packets begun, each with the elapsed tick at which its last beat has left (R55, R59) -/
  fly : List (Nat × Bytes) := []
  deriving DecidableEq, Repr, Inhabited

/-- A cancel word that awaits its cancel done (R394). `fin` says what its answer completes:
0 a cancelled step, 1 a teardown or disable. -/
structure CancelWait where
  id : Nat
  ctx : Nat
  fin : Nat
  at_ : Nat
  deriving DecidableEq, Repr, Inhabited

/-- The core port. `sent` is the output trace, oldest first. -/
structure CoreSt where
  pts : List CorePt
  sent : List CorePkt
  nextCancel : Nat
  cancels : List CancelWait
  nextPoint : Nat
  deriving DecidableEq, Repr, Inhabited

/-- A word of a transfer across a boundary (R24): its transfer, its place in it, its last mark. -/
structure GuyWord where
  xfer : Nat
  seq : Nat
  word : Bytes
  last : Bool
  rejects : Nat := 0
  deriving DecidableEq, Repr, Inhabited

/-- One guy line of one direction (R24 to R28). `st`: 0 in service, 1 spare, 2 under test, 3 retired. -/
structure GuyLine where
  st : Nat
  /-- the sender's replay buffer of 16 words, oldest first (R27) -/
  buf : List GuyWord := []
  /-- words at the end of `buf` that are resent and have not arrived again -/
  again : Nat := 0
  /-- words of a line out of service that this line is to send, once its buffer has room (R27) -/
  wait : List GuyWord := []
  rejTimes : List Nat := []
  /-- the receiver discards until the rejected word is resent -/
  skipping : Bool := false
  /-- groups whose spare wire is in use -/
  groups : List Nat := []
  deriving DecidableEq, Repr, Inhabited

/-- A transfer as the two sides of a boundary know it (R29): words sent, words delivered in order, words that have
arrived ahead of an earlier one. -/
structure GuyXfer where
  sent : Nat := 0
  dlv : Nat := 0
  /-- its last word has been sent -/
  fin : Bool := false
  held : List GuyWord := []
  deriving DecidableEq, Repr, Inhabited

/-- One direction of a boundary (R29): its transfers, and the words delivered, oldest first. -/
structure GuyDir where
  xfers : Table GuyXfer := []
  out : List GuyWord := []
  deriving DecidableEq, Repr, Inhabited

/-- The guy lines, by boundary * 200 + direction * 100 + line, and the directions, by boundary * 2 + direction. -/
structure Guys where
  lines : Table GuyLine := []
  dirs : Table GuyDir := []
  deriving DecidableEq, Repr, Inhabited

end Sys2Proof.Machine
end

