-- ==== Sys2Proof/Machine/Operands.lean ====
section
/-! DEFINITION. Operand forms: the structures that reach the block as bytes. Flits (R79), core-port
packet headers (R55), chunk and copy headers (R248, R249), step and chain descriptors (R118, R121),
query records and answers (R123, R124). -/

namespace Sys2Proof.Machine

/-- Flit header (R79). -/
structure FlitH where
  ftype : Nat
  vc : Nat
  seq : Nat
  ackSeq : Nat
  ackV : Bool
  nak : Bool
  crVc : Nat
  crCnt : Nat
  dst : Nat
  src : Nat
  ctx : Nat
  epoch : Nat
  chunk : Nat
  index : Nat
  last : Bool
  stage : Nat
  plen : Nat
  mver : Nat
  deriving DecidableEq, Repr, Inhabited

/-- The 128-bit header value (R79). -/
def encFlitH (h : FlitH) : Nat :=
  h.ftype % 16 + h.vc % 8 * 2 ^ 4 + h.seq % 256 * 2 ^ 8 + h.ackSeq % 256 * 2 ^ 16 +
  b2n h.ackV * 2 ^ 24 + b2n h.nak * 2 ^ 25 + h.crVc % 8 * 2 ^ 26 + h.crCnt % 256 * 2 ^ 32 +
  h.dst % 4096 * 2 ^ 40 + h.src % 4096 * 2 ^ 52 + h.ctx % 4096 * 2 ^ 64 + h.epoch % 256 * 2 ^ 76 +
  h.chunk % 16384 * 2 ^ 84 + h.index % 256 * 2 ^ 98 + b2n h.last * 2 ^ 106 + h.stage % 4 * 2 ^ 107 +
  h.plen % 256 * 2 ^ 110 + h.mver % 1024 * 2 ^ 118

/-- Reading of the header value (R79). -/
def decFlitH (v : Nat) : FlitH :=
  { ftype := bits v 0 4, vc := bits v 4 3, seq := bits v 8 8, ackSeq := bits v 16 8,
    ackV := bit v 24, nak := bit v 25, crVc := bits v 26 3, crCnt := bits v 32 8,
    dst := bits v 40 12, src := bits v 52 12, ctx := bits v 64 12, epoch := bits v 76 8,
    chunk := bits v 84 14, index := bits v 98 8, last := bit v 106, stage := bits v 107 2,
    plen := bits v 110 8, mver := bits v 118 10 }

/-- A flit: header, payload completed with zeros to 236 bytes, CRC-32 (R79, R80). -/
def mkFlit (h : FlitH) (payload : Bytes) : Bytes :=
  withCrc (le 16 (encFlitH { h with plen := payload.length }) ++ exactly 236 payload)

/-- Header of a received flit. -/
def flitHeader (f : Bytes) : FlitH := decFlitH (fld f 0 16)

/-- Valid payload bytes of a received flit. -/
def flitPayload (f : Bytes) : Bytes := sub f 16 (min (flitHeader f).plen 236)

/-- The flit's CRC-32 agrees (R77, R80). -/
def flitCrcOk (f : Bytes) : Bool := decide (f.length = 256) && crcOk 256 f

/-- Core-port packet header (R55). -/
structure PktH where
  ptype : Nat
  ctx : Nat
  epoch : Nat
  length : Nat
  slot : Nat
  reply : Nat
  count : Nat
  deriving DecidableEq, Repr, Inhabited

/-- A packet header of 64 bytes with its 40-byte body and hcheck (R55). -/
def mkPktH (h : PktH) (body : Bytes) : Bytes :=
  withCrc (le 1 (h.ptype % 16) ++ le 2 (h.ctx % 4096) ++ le 1 h.epoch ++ le 4 h.length ++
    le 2 (h.slot % 4096) ++ le 1 (h.reply % 32) ++ zeros 1 ++ le 4 h.count ++ exactly 40 body ++ zeros 4)

/-- Reading of a packet header (R55). -/
def pktHeader (p : Bytes) : PktH :=
  { ptype := bits (fld p 0 1) 0 4, ctx := bits (fld p 1 2) 0 12, epoch := fld p 3 1,
    length := fld p 4 4, slot := bits (fld p 8 2) 0 12, reply := bits (fld p 10 1) 0 5,
    count := fld p 12 4 }

/-- Even parity of every 32-bit word agrees with its parity bit (R46, R54). -/
def wordsParOk (bs : Bytes) (par : List Bool) : Bool :=
  decide (par.length = ceilDiv bs.length 4) &&
  par.zipIdx.all (fun p => decide (parity 32 (fld bs (4 * p.2) 4) = b2n p.1))

/-- Chunk header (R248). -/
structure ChunkH where
  ckind : Nat
  back : Bool
  order : Nat
  resend : Bool
  nrec : Nat
  bytes : Nat
  addr : Nat
  model : Nat
  layer : Nat
  fmt : Nat
  wver : Nat
  deriving DecidableEq, Repr, Inhabited

/-- The 32 bytes of a chunk header (R248). -/
def encChunkH (c : ChunkH) : Bytes :=
  withCrc (le 1 c.ckind ++ le 1 (b2n c.back + c.order * 2 + b2n c.resend * 16) ++ le 2 c.nrec ++
    le 4 c.bytes ++ le 8 c.addr ++ le 1 c.model ++ le 1 c.layer ++ le 1 c.fmt ++ zeros 1 ++
    le 4 c.wver ++ zeros 4)

/-- Reading of a chunk header (R248). -/
def decChunkH (b : Bytes) : ChunkH :=
  { ckind := fld b 0 1, back := bit (fld b 1 1) 0, order := bits (fld b 1 1) 1 3,
    resend := bit (fld b 1 1) 4, nrec := fld b 2 2, bytes := fld b 4 4, addr := fld b 8 8,
    model := fld b 16 1, layer := fld b 17 1, fmt := fld b 18 1, wver := fld b 20 4 }

/-- The check of a landed chunk's first bytes (R256): ccheck, ckind, dimension order. -/
def chunkOk (b : Bytes) : Bool :=
  decide (32 ≤ b.length) && crcOk 32 (sub b 0 32) &&
  decide (1 ≤ (decChunkH b).ckind ∧ (decChunkH b).ckind ≤ 8) && decide ((decChunkH b).order ≤ 5)

/-- Copy header (R249). -/
structure CopyH where
  tag : Nat
  row : Nat
  dchip : Nat
  slot : Nat
  loc : Nat
  shad : Bool
  ovr : Bool
  deriving DecidableEq, Repr, Inhabited

/-- The 16 bytes of a copy header (R249). -/
def encCopyH (c : CopyH) : Bytes :=
  le 16 (c.tag % 2 ^ 64 + c.row % 2 ^ 24 * 2 ^ 64 + c.dchip % 4096 * 2 ^ 88 + c.slot % 4096 * 2 ^ 100 +
    c.loc % 4096 * 2 ^ 112 + b2n c.shad * 2 ^ 124 + b2n c.ovr * 2 ^ 125)

/-- Reading of a copy header (R249). -/
def decCopyH (b : Bytes) : CopyH :=
  let v := fld b 0 16
  { tag := bits v 0 64, row := bits v 64 24, dchip := bits v 88 12, slot := bits v 100 12,
    loc := bits v 112 12, shad := bit v 124, ovr := bit v 125 }

/-- Bytes of a record with a row of `rb` bytes, row padded to a multiple of 16 (R249). -/
def recordBytes (rb : Nat) : Nat := 16 + roundUp 16 rb

/-- Step descriptor (R118), with the bytes kept as fetched. -/
structure Desc where
  ver : Nat
  kind : Nat
  flags : Nat
  model : Nat
  layer : Nat
  choice : Nat
  fmt : Nat
  group : Nat
  nDec : Nat
  nPre : Nat
  preSeq : Nat
  prePos : Nat
  cap : Nat
  exitThresh : Nat
  noiseScale : Nat
  budget : Nat
  cookie : Nat
  inAddr : Nat
  inStride : Nat
  outStride : Nat
  outAddr : Nat
  seqmapAddr : Nat
  ledgerAddr : Nat
  ledgerSize : Nat
  statsAddr : Nat
  chainAddr : Nat
  chainN : Nat
  exitAddr : Nat
  gradAddr : Nat
  deriving DecidableEq, Repr, Inhabited

/-- Reading of a step descriptor (R118). Reserved fields are ignored (R13). -/
def parseDesc (b : Bytes) : Desc :=
  { ver := fld b 0 1, kind := fld b 1 1, flags := bits (fld b 2 2) 0 8, model := bits (fld b 4 1) 0 6,
    layer := fld b 5 1, choice := fld b 6 1, fmt := bits (fld b 8 2) 0 12,
    group := bits (fld b 10 2) 0 12, nDec := bits (fld b 12 4) 0 20, nPre := bits (fld b 16 4) 0 20,
    preSeq := fld b 20 4, prePos := fld b 24 4, cap := fld b 28 4, exitThresh := fld b 32 4,
    noiseScale := fld b 36 4, budget := fld b 40 4, cookie := fld b 48 8, inAddr := fld b 56 8,
    inStride := fld b 64 4, outStride := fld b 68 4, outAddr := fld b 72 8, seqmapAddr := fld b 80 8,
    ledgerAddr := fld b 88 8, ledgerSize := fld b 96 4, statsAddr := fld b 104 8,
    chainAddr := fld b 112 8, chainN := fld b 120 2, exitAddr := fld b 128 8, gradAddr := fld b 136 8 }

namespace Desc
def k (d : Desc) : Nat := bits d.choice 0 3 + 1
def reach (d : Desc) : Nat := bits d.choice 3 2 + 1
def ec (d : Desc) : Bool := bit d.choice 5
def zeroMode (d : Desc) : Bool := bit d.choice 6
def inFmt (d : Desc) : Nat := bits d.fmt 0 4
def payFmt (d : Desc) : Nat := bits d.fmt 4 4
def outFmt (d : Desc) : Nat := bits d.fmt 8 4
def n (d : Desc) : Nat := d.nDec + d.nPre
def capField (d : Desc) : Nat := d.cap % 65536
def steepField (d : Desc) : Nat := d.cap / 65536
def flag (d : Desc) (i : Nat) : Bool := bit d.flags i
end Desc

/-- Chain descriptor (R121). -/
structure Chain where
  op : Nat
  cls : Nat
  ev : Bool
  trig : Nat
  done : Nat
  thresh : Nat
  peer : Nat
  len : Nat
  laddr : Nat
  raddr : Nat
  deriving DecidableEq, Repr, Inhabited

/-- Reading of a chain descriptor (R121). -/
def parseChain (b : Bytes) : Chain :=
  { op := fld b 0 1, cls := bits (fld b 1 1) 0 2, ev := bit (fld b 1 1) 2, trig := fld b 2 1,
    done := fld b 3 1, thresh := fld b 4 4, peer := bits (fld b 8 2) 0 12, len := fld b 12 4,
    laddr := fld b 16 8, raddr := fld b 24 8 }

/-- Check 7 of R116 on one chain descriptor: a defined op, counter indices of at most 31. -/
def chainOk (c : Chain) : Bool :=
  decide (1 ≤ c.op ∧ c.op ≤ 5) && decide (c.trig ≤ 31) && (decide (c.done ≤ 31) || decide (c.done = 0xFF)) &&
  (decide (c.op ≠ 4) || decide (bits c.raddr 32 5 ≤ 31))

/-- Query record (R123). -/
structure Query where
  seq : Nat
  qkind : Nat
  epoch : Nat
  reason : Nat
  missed : Nat
  qflags : Nat
  descIndex : Nat
  nTok : Nat
  nExit : Nat
  nOver : Nat
  nDrop : Nat
  nRchk : Nat
  tLaunch : Nat
  tRun : Nat
  qWait : Nat
  mver : Nat
  tver : Nat
  cookie : Nat
  deriving DecidableEq, Repr, Inhabited

/-- The 64 bytes of a query record (R123). -/
def encQuery (q : Query) : Bytes :=
  withCrc (le 4 q.seq ++ le 1 q.qkind ++ le 1 q.epoch ++ le 1 q.reason ++ le 1 (min q.missed 255) ++
    le 2 q.qflags ++ le 2 q.descIndex ++ le 4 q.nTok ++ le 4 q.nExit ++ le 4 q.nOver ++ le 4 q.nDrop ++
    le 4 q.nRchk ++ le 8 q.tLaunch ++ le 4 (min q.tRun 0xFFFFFFFF) ++ le 4 (min q.qWait 0xFFFFFFFF) ++
    le 2 q.mver ++ le 2 q.tver ++ le 8 q.cookie)

/-- Answer (R124). -/
structure Answer where
  seq : Nat
  verb : Nat
  rev : Nat
  descIndex : Nat
  lead : Nat
  at_ : Nat
  deriving DecidableEq, Repr, Inhabited

/-- Reading of an answer half (R124). -/
def parseAnswer (b : Bytes) : Answer :=
  { seq := fld b 0 4, verb := fld b 4 1, rev := fld b 5 1, descIndex := fld b 8 2, lead := fld b 12 4,
    at_ := fld b 16 8 }

/-- Cancel word (R394): type 0x5, scope, why, cancel_id. -/
def cancelWord (ctx epoch scope why id : Nat) : Bytes :=
  mkPktH ⟨5, ctx, epoch, 0, 0xFFF, 0, 0⟩ (le 1 scope ++ le 1 why ++ zeros 2 ++ le 4 id)

end Sys2Proof.Machine
end

