-- ==== Sys2Proof/Machine/StateLink.lean ====
section
/-! DEFINITION. State of the link layer (chapter 3), of the exchange engine outside the steps
(chapter 10) and of membership (R96). Plain data. -/

namespace Sys2Proof.Machine

/-- A flit waiting on a virtual channel, or held in a retry buffer (R81). `slot` is the forwarding
slot that its last flit releases (0: none). -/
structure QFlit where
  h : FlitH
  pay : Bytes
  slot : Nat
  resends : Nat := 0
  at_ : Nat := 0
  /-- one more than the chain that the acceptance of this flit completes (R270 op 0x4); 0 for none -/
  fin : Nat := 0
  /-- pitch whose short pool holds it until it is sent; 4 for none (R286) -/
  pool : Nat := 4
  deriving DecidableEq, Repr, Inhabited

/-- A link port (R73 to R95). -/
structure Port where
  /-- STATE of XCH_PORT_STS_n (R518) -/
  st : Nat
  phy : Bool
  /-- elapsed ticks of the last rise of phy_up and of the last rise of lnk_en (R86) -/
  phyAt : Nat
  enAt : Nat := 0
  /-- elapsed tick from which the next received flit may be acknowledged (R76) -/
  rcvAt : Nat := 0
  en : Bool
  iso : Bool
  steer : Nat
  /-- next transmit number, next receive number expected (R81, R82) -/
  tx : Nat
  rx : Nat
  retry : List QFlit
  /-- place in `retry` of the next flit to be resent (R84) -/
  rs : Option Nat
  /-- elapsed tick from which the next flit may be sent (R76) -/
  sentAt : Nat
  /-- a nak is owed; a nak was sent since the last acceptance (R82) -/
  nakDue : Bool
  nakSent : Bool
  ackDue : Bool
  credit : List Nat
  owed : List Nat
  crNext : Nat
  queue : List (List QFlit)
  /-- elapsed tick since which a channel has been ready without a slot (R273) -/
  ready : List Nat
  /-- Walik-1 arbitration: channel in turn and slots it has taken (R274) -/
  arbVc : Nat
  arbUsed : Nat
  /-- a hello is due to be sent; a valid hello has been received (R91) -/
  helloDue : Bool
  helloGot : Bool
  helloAt : Nat
  /-- elapsed tick of the last acknowledgement advance, or of the first unacknowledged flit -/
  ackAt : Nat
  resTimes : List Nat
  protoTimes : List Nat
  /-- version and digest the neighbour's last hello reported (R101) -/
  peer : Option (Nat × Nat)
  /-- only hello, control and membership flits (R101) -/
  restricted : Bool
  /-- first link-up since start has happened (R92) -/
  wasUp : Bool
  failAt : Nat
  /-- elapsed tick of the last resend for want of an acknowledgement (R84) -/
  tmoAt : Nat := 0
  /-- elapsed tick from which the handshake wires have been low (R71, R78) -/
  lowAt : Nat := 0
  /-- flits sent of chunks whose last flit is not acknowledged (R94) -/
  kept : List QFlit := []
  /-- chunks and short messages that have arrived for this chip (R414) -/
  arr : Nat := 0
  deriving DecidableEq, Repr, Inhabited

/-- Link-table entry of a port (R475). -/
structure LinkEnt where
  conn : Bool
  chip : Nat
  port : Nat
  dir : Nat
  deriving DecidableEq, Repr, Inhabited

/-- A chunk being received on a port's virtual channel (R256, R258). `out` is the port it is forwarded
on, 72 when it stays on this chip or is discarded; `drop`: discarded whole. -/
structure Part where
  port : Nat
  vc : Nat
  h : FlitH
  next : Nat
  bytes : Bytes
  out : Nat
  drop : Bool
  slot : Nat
  /-- tick at which its first flit was accepted -/
  at_ : Nat := 0
  deriving DecidableEq, Repr, Inhabited

/-- The link layer. `wire` traces the flits sent, newest first. -/
structure Links where
  ports : List Port
  tab : Table LinkEnt
  parts : List Part
  wire : List (Nat × Bytes)
  deriving DecidableEq, Repr, Inhabited

/-- A chunk landed at its final destination and not yet taken by its unit. -/
structure Landed where
  src : Nat
  ctx : Nat
  epoch : Nat
  chunk : Nat
  ch : ChunkH
  data : Bytes
  pitch : Nat
  /-- virtual channel that brought it -/
  vc : Nat
  /-- it came on an uplink: `src` is an upper-level endpoint -/
  up : Bool
  deriving DecidableEq, Repr, Inhabited

/-- A collective-short message accepted and not yet taken (R286). -/
structure Short where
  src : Nat
  ctx : Nat
  epoch : Nat
  bytes : Bytes
  deriving DecidableEq, Repr, Inhabited

/-- A landing place in use (R257). `where_`: 0 pool, 1 landing region, 2 transit region. -/
structure PoolSlot where
  id : Nat
  pitch : Nat
  where_ : Nat
  ctx : Nat
  h : FlitH
  /-- bytes of it that its region holds, once all of it has landed there -/
  len : Nat
  /-- first byte of its place in the pool or region, and its size -/
  off : Nat
  size : Nat
  /-- header of a chunk whose region place holds its records alone (R231) -/
  hdr : Bytes := []
  /-- records of a chunk of steeped copies; 0 for any other -/
  steep : Nat := 0
  /-- chunk kind -/
  kind : Nat := 0
  deriving DecidableEq, Repr, Inhabited

/-- A chunk-table entry (R260). `left`: copies not yet answered, as (token, rank). -/
structure ChunkE where
  ctx : Nat
  epoch : Nat
  kind : Nat
  cls : Nat
  left : List (Nat × Nat)
  steep : Bool
  dst : Nat := 4096
  /-- put data: the chain that sent them, or 256 for the Infuser and 0xFFFF for a snapshot; their bytes, or a steeped
  chunk's records -/
  ref : Nat := 256
  len : Nat := 0
  deriving DecidableEq, Repr, Inhabited

/-- A remote counter add that waits for its step (R271). -/
structure PendAdd where
  ctx : Nat
  epoch : Nat
  ctr : Nat
  inc : Nat
  deriving DecidableEq, Repr, Inhabited

/-- A return record in the return queue (R262). -/
structure RetRec where
  src : Nat
  ctx : Nat
  epoch : Nat
  fmt : Nat
  bytes : Bytes
  pitch : Nat
  /-- an input gradient -/
  back : Bool
  deriving DecidableEq, Repr, Inhabited

/-- A chunk of raw data or a request that waits for an entry of the chunk table (R260). -/
structure OutPiece where
  ctx : Nat
  epoch : Nat
  dst : Nat
  /-- the destination is an upper-level endpoint (R447) -/
  up : Bool
  kind : Nat
  vc : Nat
  cls : Nat
  addr : Nat
  wver : Nat
  data : Bytes
  ref : Nat
  deriving DecidableEq, Repr, Inhabited

/-- Put or snapshot data being written here; one completion for `len` bytes goes to `src` (R270, R447). `got`: bytes that
have come. -/
structure RxPut where
  id : Nat
  ctx : Nat
  epoch : Nat
  src : Nat
  idx : Nat
  up : Bool
  got : Nat := 0
  len : Nat := 0
  deriving DecidableEq, Repr, Inhabited

/-- A formation that waits for an entry of the chunk table (R260). `what`: 0 returns, 1 raw data and requests, 2 dispatch,
3 ring data. -/
structure FormWait where
  what : Nat
  ctx : Nat
  cls : Nat
  deriving DecidableEq, Repr, Inhabited

/-- The exchange engine outside the steps. -/
structure Xch where
  table : Table (Option ChunkE)
  nextChunk : Nat
  pool : List PoolSlot
  nextSlot : Nat
  inbox : List Landed
  shorts : List Short
  /-- membership flits accepted and not yet taken (R434): payloads with their port -/
  notices : List (Nat × Bytes)
  pend : List PendAdd
  retq : List RetRec
  xfers : List OutPiece
  rxPuts : List RxPut := []
  nextPut : Nat := 0
  /-- chains that have fired and wait for a link agent, as (context, index), in order of firing (R267) -/
  fired : List (Nat × Nat) := []
  /-- formations that wait for an entry, in the order in which they began to wait (R260) -/
  waitq : List FormWait := []
  /-- launch tick and context of the step that formed the last dispatch chunk (R251) -/
  turn : Nat × Nat := (0, 0)
  deriving DecidableEq, Repr, Inhabited

/-- Membership (R96 to R101, R433). Tables list the entries that are not zero. -/
structure Memb where
  live : Table Nat
  ver : Nat
  staged : Table Nat
  sver : Nat
  at_ : Nat
  armed : Bool
  /-- the table live before the last switch, for flits of the version before (R100) -/
  prev : Table Nat
  /-- elapsed tick of the last switch (R101) -/
  goneLive : Nat
  /-- the lost set (R433) -/
  lost : List Nat
  /-- a loss notice named this chip (R434): 0 no, 1 until it is absent, 2 until it is a member again -/
  outcast : Nat := 0
  /-- chips declared lost that a later membership version made absent (R435, R437) -/
  past : List Nat := []
  deriving DecidableEq, Repr, Inhabited

end Sys2Proof.Machine
end

