-- ==== Sys2Proof/Machine/Fp.lean ====
section
/-! DEFINITION. Floating point: exact values, FP32 and BF16 bit patterns, the arithmetic of R203, the
roundings of R137, R158, R160 and the wide accumulator of R210. An exact value is m × 2^e. -/

namespace Sys2Proof.Machine

/-- An exact extended value: not a number, an infinity, or ±m × 2^e (both zeros kept apart). -/
inductive FVal where
  | nan
  | inf (neg : Bool)
  | fin (neg : Bool) (m : Nat) (e : Int)
  deriving DecidableEq, Repr, Inhabited

/-- An exact dyadic value m × 2^e. -/
structure Dy where
  m : Int
  e : Int
  deriving DecidableEq, Repr, Inhabited

/-- The integer of `x` in units of 2^q, for q not above x's exponent. -/
def dyAt (q : Int) (x : Dy) : Int := x.m * 2 ^ (x.e - q).toNat

def dyAdd (x y : Dy) : Dy := let q := min x.e y.e; ⟨dyAt q x + dyAt q y, q⟩

def dyNeg (x : Dy) : Dy := ⟨-x.m, x.e⟩

def dyMul (x y : Dy) : Dy := ⟨x.m * y.m, x.e + y.e⟩

def dyAbs (x : Dy) : Dy := ⟨(x.m.natAbs : Int), x.e⟩

def dyZero : Dy := ⟨0, 0⟩

/-- Exact product with 2^k. -/
def dyShift (x : Dy) (k : Int) : Dy := ⟨x.m, x.e + k⟩

def dyLt (x y : Dy) : Bool := let q := min x.e y.e; decide (dyAt q x < dyAt q y)

def dyLe (x y : Dy) : Bool := !(dyLt y x)

def dyEq (x y : Dy) : Bool := let q := min x.e y.e; decide (dyAt q x = dyAt q y)

def dySum (xs : List Dy) : Dy := xs.foldl dyAdd dyZero

/-- Number of significant bits of `n` (0 for 0). -/
def bitLen (n : Nat) : Nat := if n = 0 then 0 else Nat.log2 n + 1

/-- Rounding directions: to nearest with ties to even, away from zero, toward zero. -/
inductive Rnd where
  | near
  | away
  | trunc
  deriving DecidableEq, Repr

/-- m × 2^e rounded to at most `p` significant bits and a last place not below 2^lsb:
the new significand and exponent, and whether the rounding was exact. -/
def roundMag (r : Rnd) (p : Nat) (lsb : Int) (m : Nat) (e : Int) : Nat × Int × Bool :=
  let q := max (e + (bitLen m : Int) - (p : Int)) lsb
  if q ≤ e then (m * 2 ^ (e - q).toNat, q, true)
  else
    let k := (q - e).toNat
    let t := m / 2 ^ k
    let rem := m % 2 ^ k
    let up := match r with
      | .near => decide (2 ^ k < 2 * rem) || (decide (2 * rem = 2 ^ k) && decide (t % 2 = 1))
      | .away => decide (rem ≠ 0)
      | .trunc => false
    (if up then t + 1 else t, q, decide (rem = 0))

/-- A binary format: significand bits, exponent of the last place of its subnormals, exponent of the
first magnitude past its range. -/
structure Fmt where
  p : Nat
  lsb : Int
  emax1 : Int
  deriving DecidableEq, Repr

def fmt32 : Fmt := ⟨24, -149, 128⟩

def fmtBf16 : Fmt := ⟨8, -133, 128⟩

/-- The wide accumulator of R210. -/
def fmtWide : Fmt := ⟨24, -1045, 1024⟩

/-- Round an exact value to a format. Overflow gives an infinity to nearest and away from zero;
toward zero it stops at the largest finite value. -/
def roundTo (f : Fmt) (r : Rnd) : FVal → FVal
  | .nan => .nan
  | .inf n => .inf n
  | .fin n m e =>
    let (m', e', _) := roundMag r f.p f.lsb m e
    if (bitLen m' : Int) + e' > f.emax1 then
      match r with
      | .trunc => .fin n (2 ^ f.p - 1) (f.emax1 - (f.p : Int))
      | _ => .inf n
    else .fin n m' e'

/-- Canonical NaN of R203. -/
def nan32 : W32 := 0x7FC00000#32

/-- FP32 bit pattern of a value already in FP32's format. -/
def enc32 : FVal → W32
  | .nan => nan32
  | .inf n => if n then 0xFF800000#32 else 0x7F800000#32
  | .fin n m e =>
    let s : Nat := if n then 2 ^ 31 else 0
    if m = 0 then BitVec.ofNat 32 s
    else
      -- normalise to a 24-bit significand, or to the subnormal exponent
      let q := max (e + (bitLen m : Int) - 24) (-149)
      let sig := if q ≤ e then m * 2 ^ (e - q).toNat else m / 2 ^ (q - e).toNat
      if sig < 2 ^ 23 then BitVec.ofNat 32 (s + sig)
      else BitVec.ofNat 32 (s + (q + 150).toNat * 2 ^ 23 + (sig - 2 ^ 23))

/-- Value of an FP32 bit pattern. -/
def dec32 (w : W32) : FVal :=
  let v : Nat := w.toNat
  let n := decide (2 ^ 31 ≤ v)
  let ex : Nat := v / 2 ^ 23 % 256
  let fr : Nat := v % 2 ^ 23
  if ex = 255 then (if fr = 0 then .inf n else .nan)
  else if ex = 0 then .fin n fr (-149)
  else .fin n (fr + 2 ^ 23) ((ex : Int) - 150)

/-- Value of a BF16 bit pattern. -/
def decBf16 (v : Nat) : FVal := dec32 (BitVec.ofNat 32 (v % 65536 * 65536))

/-- round_fp32 as an operation of R203. -/
def round32 (x : FVal) : W32 := enc32 (roundTo fmt32 .near x)

/-- BF16 bit pattern by R203: NaN as 0x7FC0, overflow to ±infinity. -/
def roundBf16 (x : FVal) : Nat := (enc32 (roundTo fmtBf16 .near x)).toNat / 65536

def fneg : FVal → FVal
  | .nan => .nan
  | .inf n => .inf (!n)
  | .fin n m e => .fin (!n) m e

/-- Exact sum with the IEEE rules for zeros and infinities. -/
def fvAdd : FVal → FVal → FVal
  | .nan, _ => .nan
  | _, .nan => .nan
  | .inf a, .inf b => if a = b then .inf a else .nan
  | .inf a, .fin _ _ _ => .inf a
  | .fin _ _ _, .inf b => .inf b
  | .fin a m e, .fin b k f =>
    let q := min e f
    let x : Int := (m : Int) * 2 ^ (e - q).toNat
    let y : Int := (k : Int) * 2 ^ (f - q).toNat
    let z := (if a then -x else x) + (if b then -y else y)
    if z = 0 then .fin (if m = 0 ∧ k = 0 then a && b else false) 0 q
    else .fin (decide (z < 0)) z.natAbs q

/-- Exact product. -/
def fvMul : FVal → FVal → FVal
  | .nan, _ => .nan
  | _, .nan => .nan
  | .inf a, .inf b => .inf (xor a b)
  | .inf a, .fin b k _ => if k = 0 then .nan else .inf (xor a b)
  | .fin a m _, .inf b => if m = 0 then .nan else .inf (xor a b)
  | .fin a m e, .fin b k f => .fin (xor a b) (m * k) (e + f)

/-- Exact quotient up to a sticky last bit below every FP32 and wide rounding position. -/
def fvDiv : FVal → FVal → FVal
  | .nan, _ => .nan
  | _, .nan => .nan
  | .inf _, .inf _ => .nan
  | .inf a, .fin b _ _ => .inf (xor a b)
  | .fin a _ _, .inf b => .fin (xor a b) 0 0
  | .fin a m e, .fin b k f =>
    if k = 0 then (if m = 0 then .nan else .inf (xor a b))
    else
      let sh := bitLen k + 60
      let q := m * 2 ^ sh / k
      let st := if m * 2 ^ sh % k = 0 then 0 else 1
      .fin (xor a b) (2 * q + st) (e - f - (sh : Int) - 1)

def fvZero : FVal := .fin false 0 0

/-- The exact value of a dyadic; zero is +0. -/
def fvOfDy (x : Dy) : FVal := .fin (decide (x.m < 0)) x.m.natAbs x.e

/-- Finite value as a dyadic (infinities and NaN give zero: callers test first). -/
def dyOf : FVal → Dy
  | .fin n m e => ⟨if n then -(m : Int) else (m : Int), e⟩
  | _ => dyZero

def isNan32 (w : W32) : Bool := match dec32 w with | .nan => true | _ => false

def isFin32 (w : W32) : Bool := match dec32 w with | .fin _ _ _ => true | _ => false

def isInf32 (w : W32) : Bool := match dec32 w with | .inf _ => true | _ => false

def fadd (a b : W32) : W32 := round32 (fvAdd (dec32 a) (dec32 b))

def fsub (a b : W32) : W32 := round32 (fvAdd (dec32 a) (fneg (dec32 b)))

def fmul (a b : W32) : W32 := round32 (fvMul (dec32 a) (dec32 b))

def fdiv (a b : W32) : W32 := round32 (fvDiv (dec32 a) (dec32 b))

/-- acc + w × y with one rounding (R215). -/
def ffma (w y acc : W32) : W32 := round32 (fvAdd (dec32 acc) (fvMul (dec32 w) (dec32 y)))

/-- The same with an operand of unbounded range (R203, R326). -/
def ffmaV (w : W32) (y : FVal) (acc : W32) : W32 := round32 (fvAdd (dec32 acc) (fvMul (dec32 w) y))

/-- Comparison of two values neither of which is a NaN: +0 and −0 are equal (R203). -/
def fvLt : FVal → FVal → Bool
  | .nan, _ => false
  | _, .nan => false
  | .inf a, .inf b => a && !b
  | .inf a, .fin _ _ _ => a
  | .fin _ _ _, .inf b => !b
  | x, y => dyLt (dyOf x) (dyOf y)

def flt (a b : W32) : Bool := fvLt (dec32 a) (dec32 b)

def feq (a b : W32) : Bool := !(isNan32 a) && !(isNan32 b) && !(flt a b) && !(flt b a)

def fgt (a b : W32) : Bool := flt b a

/-- Maximum of R203: a NaN gives the canonical NaN, and +0 is above −0. -/
def fmax (a b : W32) : W32 :=
  if isNan32 a || isNan32 b then nan32
  else if flt a b then b else if flt b a then a
  else if a = 0x80000000#32 then b else a

/-- Minimum of R203. -/
def fmin (a b : W32) : W32 :=
  if isNan32 a || isNan32 b then nan32
  else if flt a b then a else if flt b a then b
  else if a = 0x80000000#32 then a else b

/-- An exact zero of either sign becomes +0 (R137). -/
def plusZero (w : W32) : W32 := if w = 0x80000000#32 then 0#32 else w

/-- round_fp32 as R137 uses it: an exact zero result, of either sign, becomes +0. -/
def rnd137 (x : FVal) : W32 := match x with
  | .fin _ 0 _ => 0#32
  | y => round32 y

/-- One rounding toward +infinity to FP32 (R158). -/
def up32 : FVal → W32
  | .fin n m e => enc32 (roundTo fmt32 (if n then .trunc else .away) (.fin n m e))
  | x => enc32 x

/-- One rounding toward −infinity to FP32 (R160). -/
def down32 : FVal → W32
  | .fin n m e => enc32 (roundTo fmt32 (if n then .away else .trunc) (.fin n m e))
  | x => enc32 x

/-- round_w of R210. -/
def roundW (x : FVal) : FVal := roundTo fmtWide .near x

def one32 : W32 := 0x3F800000#32

def inf32 : W32 := 0x7F800000#32

/-- FP32 of a natural number, rounded once. -/
def ofNat32 (n : Nat) : W32 := round32 (.fin false n 0)

end Sys2Proof.Machine
end

