-- ==== Sys2Proof/Machine/Mx.lean ====
section
/-! DEFINITION. Number formats of rows and router images: the MX element formats (R131, R132), T2 (R133,
R134), error radii (R156), row layouts (R249, R332), image layout (R148). Format codes are those of
R119 and R130: 1 BF16, 2 FP32, 3 MXFP8 E4M3, 4 MXFP8 E5M2, 5 MXFP6 E2M3, 6 MXFP6 E3M2, 7 MXFP4 E2M1,
8 T2. -/

namespace Sys2Proof.Machine

/-- An MX element format: exponent bits, significand bits, bias, exponent of its largest normal. -/
structure Elem where
  eb : Nat
  mb : Nat
  bias : Int
  emax : Int
  deriving DecidableEq, Repr

/-- The table of element formats (R131), by format code. -/
def elemOf : Nat → Elem
  | 3 => ⟨4, 3, 7, 8⟩
  | 4 => ⟨5, 2, 15, 15⟩
  | 5 => ⟨2, 3, 1, 2⟩
  | 6 => ⟨3, 2, 3, 4⟩
  | _ => ⟨2, 1, 1, 2⟩

/-- Element width in bits (R130). -/
def elemBits : Nat → Nat
  | 1 => 16
  | 2 => 32
  | 3 => 8
  | 4 => 8
  | 5 => 6
  | 6 => 6
  | 7 => 4
  | _ => 2

/-- Largest normal of an element format, in element units (R131). -/
def elemMax : Nat → Dy
  | 3 => ⟨448, 0⟩
  | 4 => ⟨57344, 0⟩
  | 5 => ⟨15, -1⟩
  | 6 => ⟨28, 0⟩
  | _ => ⟨6, 0⟩

/-- Code of the largest normal, sign bit clear. -/
def elemMaxCode : Nat → Nat
  | 3 => 0x7E
  | 4 => 0x7B
  | 5 => 0x1F
  | 6 => 0x1F
  | _ => 0x7

/-- Value of an element code before its scale (R131, R133). -/
def elemVal (f q : Nat) : FVal :=
  if f = 8 then (if q % 4 = 1 then .fin false 1 0 else if q % 4 = 3 then .fin true 1 0 else fvZero)
  else
    let c := elemOf f
    let n := bit q (c.eb + c.mb)
    let ex := bits q c.mb c.eb
    let fr := bits q 0 c.mb
    if f = 4 ∧ ex = 31 then (if fr = 0 then .inf n else .nan)
    else if f = 3 ∧ ex = 15 ∧ fr = 7 then .nan
    else if ex = 0 then .fin n fr (1 - c.bias - (c.mb : Int))
    else .fin n (fr + 2 ^ c.mb) ((ex : Int) - c.bias - (c.mb : Int))

/-- Element value as a dyadic; callers have tested that it is finite. -/
def elemDy (f q : Nat) : Dy := dyOf (elemVal f q)

def fvFinite : FVal → Bool
  | .fin _ _ _ => true
  | _ => false

/-- Exact value of an element with its scale; scale code 0xFF is NaN (R132, R326). -/
def scaled (v : FVal) (sc : Nat) : FVal :=
  if sc = 255 then .nan
  else match v with
    | .fin n m e => .fin n m (e + (sc : Int) - 127)
    | x => x

/-- floor(log2 |x|) of a non-zero dyadic. -/
def dyLog2 (x : Dy) : Int := x.e + (bitLen x.m.natAbs : Int) - 1

/-- Largest magnitude of a block. -/
def amaxOf (xs : List Dy) : Dy :=
  xs.foldl (fun a x => if dyLt a (dyAbs x) then dyAbs x else a) dyZero

/-- Element rounding of R132: nearest with ties to even, saturating, zero stored as the code of +0. -/
def elemRound (f : Nat) (x : Dy) : Nat :=
  let c := elemOf f
  let lsb := 1 - c.bias - (c.mb : Int)
  let r := roundMag .near (c.mb + 1) lsb x.m.natAbs x.e
  let mag : Dy := ⟨(r.1 : Int), r.2.1⟩
  if r.1 = 0 then 0
  else
    let sgn := if x.m < 0 then 2 ^ (c.eb + c.mb) else 0
    if dyLt (elemMax f) mag then sgn + elemMaxCode f
    else
      let e := dyLog2 mag
      if e < 1 - c.bias then sgn + (dyAt lsb mag).toNat
      else
        let q := e - (c.mb : Int)
        let fr := if mag.e ≤ q then mag.m.toNat / 2 ^ (q - mag.e).toNat else (dyAt q mag).toNat
        sgn + (e + c.bias).toNat * 2 ^ c.mb + fr % 2 ^ c.mb

/-- One quantised block of 32: its scale code, element codes, exact bits and clamp bit (R157). -/
structure QBlock where
  scale : Nat
  codes : List Nat
  exact : List Bool
  clamp : Bool
  deriving DecidableEq, Repr, Inhabited

/-- Block conversion of R132. -/
def convBlock (f : Nat) (xs : List Dy) : QBlock :=
  let a := amaxOf xs
  if a.m = 0 then ⟨0x7F, xs.map (fun _ => 0), xs.map (fun _ => true), false⟩
  else
    let raw := dyLog2 a - (elemOf f).emax
    let s : Int := if raw < -127 then -127 else if 127 < raw then 127 else raw
    let cs := xs.map (fun x => elemRound f (dyShift x (-s)))
    let back := cs.map (fun q => dyShift (elemDy f q) s)
    ⟨(s + 127).toNat, cs, (xs.zip back).map (fun p => dyEq p.1 p.2), decide (127 < raw)⟩

/-- T2 block conversion of R134. -/
def convT2 (xs : List Dy) : QBlock :=
  let a := amaxOf xs
  if a.m = 0 then ⟨0x7F, xs.map (fun _ => 0), xs.map (fun _ => true), false⟩
  else
    let raw := dyLog2 a
    let e : Int := if raw < -127 then -127 else if 127 < raw then 127 else raw
    let t : Dy := ⟨1, e - 1⟩
    ⟨(e + 127).toNat, xs.map (fun w => if dyLe t w then 1 else if dyLe w (dyNeg t) then 3 else 0),
      xs.map (fun _ => false), false⟩

/-- Cut a list into blocks of `n`. -/
def blocksOf {α : Type} (n : Nat) : Nat → List α → List (List α)
  | 0, _ => []
  | k + 1, xs => xs.take n :: blocksOf n k (xs.drop n)

/-- Row bytes of `d` elements in a format code of R119, before padding (R249). -/
def rowBytes (f d : Nat) : Nat := if f = 1 then 2 * d else if f = 2 then 4 * d else d + d / 32

/-- Row as exact values (R249, R326). -/
def rowVals (f d : Nat) (bs : Bytes) : List FVal :=
  if f = 1 then (List.range d).map (fun i => decBf16 (fld bs (2 * i) 2))
  else if f = 2 then (List.range d).map (fun i => dec32 (BitVec.ofNat 32 (fld bs (4 * i) 4)))
  else (List.range d).map (fun i => scaled (elemVal f (fld bs i 1)) (fld bs (d + i / 32) 1))

/-- A value that R132 names non-finite in a delivered row. -/
def rowNonfinite (f d : Nat) (bs : Bytes) : Bool := (rowVals f d bs).any (fun v => !(fvFinite v))

/-- Delivered MX blocks of a row, as they stand. -/
def rowBlocks (d : Nat) (bs : Bytes) : List QBlock :=
  (List.range (d / 32)).map (fun b =>
    { scale := fld bs (d + b) 1
      codes := (List.range 32).map (fun i => fld bs (32 * b + i) 1)
      exact := List.replicate 32 true
      clamp := false })

/-- The activation format paired with a scoring format (R130). -/
def pairFmt (lfmt : Nat) : Nat := if lfmt = 8 then 5 else lfmt

/-- Requantisation of a row on entry (R135, R157); a BF16 router takes the row as delivered. -/
def requant (lfmt inFmt d : Nat) (bs : Bytes) : List QBlock :=
  if pairFmt lfmt = inFmt then rowBlocks d bs
  else (blocksOf 32 (d / 32) ((rowVals inFmt d bs).map dyOf)).map (convBlock (pairFmt lfmt))

/-- MX blocks in the row layout of R249: element bytes, then scale bytes. -/
def mxRow (qs : List QBlock) : Bytes :=
  (qs.flatMap (fun q => q.codes.map (BitVec.ofNat 8))) ++ qs.map (fun q => BitVec.ofNat 8 q.scale)

/-- A row of finite exact values in a payload format (R249). -/
def encRow (f : Nat) (xs : List FVal) : Bytes :=
  if f = 1 then xs.flatMap (fun x => le 2 (roundBf16 x))
  else if f = 2 then xs.flatMap (fun x => le 4 (round32 x).toNat)
  else mxRow ((blocksOf 32 (xs.length / 32) (xs.map dyOf)).map (convBlock f))

/-- to_out_fmt of R332 on a row of FP32 accumulators. -/
def outRow (f : Nat) (acc : List W32) : Bytes :=
  if f = 2 then acc.flatMap (fun a => le 4 a.toNat)
  else if f = 1 then acc.flatMap (fun a => le 2 (roundBf16 (dec32 a)))
  else
    mxRow ((blocksOf 32 (acc.length / 32) acc).map (fun b =>
      if b.all isFin32 then convBlock f (b.map (fun a => dyOf (dec32 a)))
      else { scale := 255, codes := b.map (fun _ => 0), exact := [], clamp := false }))

/-- Error radius of an element code, in element units (R156). -/
def radius (f q : Nat) : Dy :=
  if f = 8 then (if q % 4 = 0 then ⟨1, -1⟩ else ⟨1, 0⟩)
  else
    let c := elemOf f
    let v := dyAbs (elemDy f q)
    let emin := 1 - c.bias
    if dyLt v ⟨1, emin⟩ then ⟨1, emin - (c.mb : Int) - 1⟩
    else if dyLt v (elemMax f) then ⟨1, dyLog2 v - (c.mb : Int) - 1⟩
    else
      let a : Dy := ⟨1, c.emax - (c.mb : Int) - 1⟩
      let b := dyAdd ⟨1, c.emax + 1⟩ (dyNeg (elemMax f))
      if dyLt a b then b else a

/-- Bytes of one image line: 32 elements of 64 columns (R148). -/
def lineBytes (lfmt : Nat) : Nat := if lfmt = 1 then 4096 else 64 + 256 * elemBits lfmt

/-- Size of a scoring image (R148). -/
def imageBytes (lfmt cols d32 : Nat) : Nat := ceilDiv cols 64 * d32 * lineBytes lfmt

/-- Column `k` of an image line (R148): scale and element codes. -/
def lineBlock (lfmt : Nat) (line : Bytes) (k : Nat) : Nat × List Nat :=
  if lfmt = 1 then (127, (List.range 32).map (fun i => fld line (64 * k + 2 * i) 2))
  else
    let w := elemBits lfmt
    let v := fld line (64 + 4 * w * k) (4 * w)
    (fld line k 1, (List.range 32).map (fun i => bits v (w * i) w))

/-- Byte offset of the line of block `b` and column `j` in an image (R148). -/
def lineOff (lfmt d32 j b : Nat) : Nat := (j / 64 * d32 + b) * lineBytes lfmt

/-- Block `b` of column `j` of an image (R148). -/
def imgBlock (lfmt d32 : Nat) (img : Bytes) (j b : Nat) : Nat × List Nat :=
  lineBlock lfmt (sub img (lineOff lfmt d32 j b) (lineBytes lfmt)) (j % 64)

/-- A block holds a code or value that is a load refusal (R132, R133). -/
def blockBad (lfmt : Nat) (b : Nat × List Nat) : Bool :=
  if lfmt = 1 then b.2.any (fun q => !(fvFinite (decBf16 q)))
  else if lfmt = 8 then decide (b.1 = 255) || b.2.any (fun q => decide (q = 2))
  else decide (b.1 = 255) || b.2.any (fun q => !(fvFinite (elemVal lfmt q)))

/-- An image of `cols` columns holds a load refusal, in a padding column too (R148, R150). -/
def imageBad (lfmt cols d32 : Nat) (img : Bytes) : Bool :=
  (List.range (64 * ceilDiv cols 64)).any (fun j => (List.range d32).any (fun b => blockBad lfmt (imgBlock lfmt d32 img j b)))

/-- Pack element codes of `w` bits, ascending, into a little-endian value. -/
def packCodes (w : Nat) : List Nat → Nat
  | [] => 0
  | q :: r => q % 2 ^ w + 2 ^ w * packCodes w r

/-- One image line from the 64 blocks of its columns (R148). -/
def mkLine (lfmt : Nat) (bs : List QBlock) : Bytes :=
  if lfmt = 1 then bs.flatMap (fun b => b.codes.flatMap (le 2))
  else bs.map (fun b => BitVec.ofNat 8 b.scale) ++
    bs.flatMap (fun b => le (4 * elemBits lfmt) (packCodes (elemBits lfmt) b.codes))

/-- The padding column of R148. -/
def padBlock : QBlock := ⟨0x7F, List.replicate 32 0, [], false⟩

/-- Conversion of one block of BF16 shadow codes to a scoring format (R132, R134, R155). -/
def scoreBlock (lfmt : Nat) (bf : List Nat) : QBlock :=
  if lfmt = 1 then ⟨127, bf, [], false⟩
  else
    let xs := bf.map (fun q => dyOf (decBf16 q))
    if lfmt = 8 then convT2 xs else convBlock lfmt xs

end Sys2Proof.Machine
end

