-- ==== Sys2Proof/Machine/Group.lean ====
section
/-! DEFINITION. Groups (R276 to R278), the arithmetic of collectives (R282), digests (R283), message and
ring headers (R285, R297), the slices of a ring reduction (R293). -/

namespace Sys2Proof.Machine

/-- A torus position, or the three ring coordinates of a group position. -/
structure Pos where
  x : Nat
  y : Nat
  z : Nat
  deriving DecidableEq, Repr, Inhabited

def Pos.at_ (p : Pos) (a : Nat) : Nat := if a = 0 then p.x else if a = 1 then p.y else p.z

def Pos.set (p : Pos) (a c : Nat) : Pos :=
  if a = 0 then { p with x := c } else if a = 1 then { p with y := c } else { p with z := c }

/-- Position in a membership-table entry (R96). -/
def entPos (e : Nat) : Pos := ⟨bits e 0 4, bits e 4 4, bits e 8 4⟩

/-- State in a membership-table entry: 1 member, 2 leaving, else absent (R96). -/
def entState (e : Nat) : Nat := if bits e 12 2 = 3 then 0 else bits e 12 2

/-- A group as its caller sees it (R277): first coordinate and extent on each axis, torus sizes, the
caller's position, the membership table of the bound version. -/
structure Grp where
  word : Nat
  org : Pos
  ext : Pos
  size : Pos
  own : Pos
  tab : Table Nat
  deriving DecidableEq, Repr, Inhabited

/-- The axes a group spans (R276). -/
def spans (word a : Nat) : Bool := bit word (29 + a)

/-- The box of R277 along axis `a`. -/
def axisBox (word : Nat) (size own : Pos) (a : Nat) : Nat × Nat :=
  if spans word a then
    let n := min (bits word (4 + 8 * a) 4 + 1) (size.at_ a)
    (bits word (8 * a) 4, n)
  else (own.at_ a, 1)

def mkGrp (word : Nat) (size own : Pos) (tab : Table Nat) : Grp :=
  let b (a : Nat) := axisBox word size own a
  ⟨word, ⟨(b 0).1, (b 1).1, (b 2).1⟩, ⟨(b 0).2, (b 1).2, (b 2).2⟩, size, own, tab⟩

/-- Ring coordinates of a torus position (R277). -/
def Grp.rc (g : Grp) (p : Pos) : Pos :=
  let f (a : Nat) : Nat := (p.at_ a + g.size.at_ a - g.org.at_ a % g.size.at_ a) % g.size.at_ a
  ⟨f 0, f 1, f 2⟩

/-- Torus position of ring coordinates. -/
def Grp.torus (g : Grp) (r : Pos) : Pos :=
  let f (a : Nat) : Nat := (g.org.at_ a + r.at_ a) % g.size.at_ a
  ⟨f 0, f 1, f 2⟩

def Grp.inBox (g : Grp) (r : Pos) : Bool :=
  decide (r.x < g.ext.x) && decide (r.y < g.ext.y) && decide (r.z < g.ext.z)

/-- Position index (R277). -/
def Grp.idx (g : Grp) (r : Pos) : Nat := r.z * (g.ext.x * g.ext.y) + r.y * g.ext.x + r.x

/-- Ring coordinates of a position index. -/
def Grp.ofIdx (g : Grp) (i : Nat) : Pos :=
  ⟨i % g.ext.x, i / g.ext.x % g.ext.y, i / (g.ext.x * g.ext.y)⟩

def Grp.count (g : Grp) : Nat := g.ext.x * g.ext.y * g.ext.z

/-- The member chip at a torus position of a membership table. -/
def memberAt (tab : Table Nat) (p : Pos) : Option Nat :=
  (tab.find? (fun e => decide (entState e.2 = 1) && decide (entPos e.2 = p))).map Prod.fst

/-- The member at ring coordinates. -/
def Grp.chip (g : Grp) (r : Pos) : Option Nat := memberAt g.tab (g.torus r)

/-- Member chips in ascending chip number (R277). -/
def Grp.members (g : Grp) : List Nat :=
  (g.tab.filter (fun e => decide (entState e.2 = 1) && g.inBox (g.rc (entPos e.2)))).map Prod.fst

/-- The group's positions include the caller (R277). -/
def Grp.valid (g : Grp) : Bool := g.inBox (g.rc g.own)

/-- Axes of the phases, in order (R288, R293). -/
def Grp.axes (g : Grp) : List Nat := [0, 1, 2].filter (fun a => spans g.word a)

/-- Positions covered by `r` at the phase along axis `a` (R278): same coordinate on `a` and on every
later axis. -/
def Grp.covers (g : Grp) (a : Nat) (r : Pos) : List Pos :=
  ((List.range g.count).map g.ofIdx).filter (fun q =>
    decide (q.at_ a = r.at_ a) && [0, 1, 2].all (fun b => !(decide (a < b)) || decide (q.at_ b = r.at_ b)))

/-- A position that carries nothing at the phase along `a` (R278). -/
def Grp.emptyAt (g : Grp) (a : Nat) (r : Pos) : Bool :=
  (g.chip r).isNone && (g.covers a r).all (fun q => (g.chip q).isNone)

/-- The chip that does a position's part: its member, or the player found by the scan of R278. -/
def Grp.player (g : Grp) (r : Pos) : Option Nat :=
  match g.chip r with
  | some c => some c
  | none =>
    (List.range g.count).findSome? (fun i =>
      let d := g.ofIdx i
      g.chip ⟨(r.x + d.x) % g.ext.x, (r.y + d.y) % g.ext.y, (r.z + d.z) % g.ext.z⟩)

/-- Positions whose part `own` does at the phase along `a`, by index. -/
def Grp.plays (g : Grp) (own a : Nat) : List Nat :=
  (List.range g.count).filter (fun i =>
    !(g.emptyAt a (g.ofIdx i)) && decide (g.player (g.ofIdx i) = some own))

/-- Positions of the line through `r` along axis `a`, in ascending ring coordinate. -/
def Grp.line (g : Grp) (a : Nat) (r : Pos) : List Pos := (List.range (g.ext.at_ a)).map (fun c => r.set a c)

/-- Bytes of an element type (R281). -/
def tyBytes (ty : Nat) : Nat := if ty = 1 then 2 else if ty = 10 then 8 else 4

def tyIsInt (ty : Nat) : Bool := decide (ty = 9) || decide (ty = 10)

def tyKnown (ty : Nat) : Bool := [1, 2, 9, 10].contains ty

/-- The partial type of an input type (R281, R282): FP32 for BF16 and FP32, its own for integers. -/
def partTy (ty : Nat) : Nat := if tyIsInt ty then ty else 2

/-- Elements of data of a type. -/
def readElems (ty n : Nat) (bs : Bytes) : List Nat := (List.range n).map (fun i => fld bs (tyBytes ty * i) (tyBytes ty))

/-- Combination of two partials (R282). -/
def combine (red ty a b : Nat) : Nat :=
  if tyIsInt ty then
    let m := 2 ^ (8 * tyBytes ty)
    if red = 1 then (a + b) % m else if red = 2 then max a b else if red = 3 then min a b
    else a ||| b
  else
    let x : W32 := BitVec.ofNat 32 a
    let y : W32 := BitVec.ofNat 32 b
    (if red = 1 then fadd x y else if red = 2 then fmax x y else fmin x y).toNat

/-- Combination of contributions that may be empty (R282). -/
def combineOpt (red ty : Nat) (a b : Option (List Nat)) : Option (List Nat) :=
  match a, b with
  | none, y => y
  | x, none => x
  | some x, some y => some ((x.zip y).map (fun p => combine red ty p.1 p.2))

/-- A collective descriptor (R281). -/
structure CollDesc where
  cop : Nat
  red : Nat
  ity : Nat
  oty : Nat
  flags : Nat
  n : Nat
  inAddr : Nat
  outAddr : Nat
  outLen : Nat
  deriving DecidableEq, Repr, Inhabited

def parseColl (b : Bytes) : CollDesc :=
  { cop := fld b 0 1, red := fld b 1 1, ity := bits (fld b 2 1) 0 4, oty := bits (fld b 2 1) 4 4,
    flags := bits (fld b 3 1) 0 4, n := fld b 4 4, inAddr := fld b 8 8, outAddr := fld b 16 8,
    outLen := fld b 24 4 }

/-- A member's contribution (R282): BF16 enters a reduction exactly, as FP32; a gather moves the elements as they are. -/
def CollDesc.readInput (c : CollDesc) (bs : Bytes) : List Nat :=
  let vs := readElems c.ity c.n bs
  if c.ity = 1 ∧ c.cop ≠ 4 then vs.map (fun v => v * 65536) else vs

def CollDesc.up (c : CollDesc) : Bool := bit c.flags 1
def CollDesc.upFmt (c : CollDesc) : Nat := bits c.flags 2 2

/-- The table of operations (R281). -/
def collOk (c : CollDesc) : Bool :=
  let red := decide (1 ≤ c.red ∧ c.red ≤ 4) && tyKnown c.ity &&
    (if tyIsInt c.ity then decide (c.oty = c.ity)
     else (decide (c.oty = 1) || decide (c.oty = 2)) && decide (c.red ≠ 4))
  let align := decide (c.inAddr % 64 = 0) && decide (c.outAddr % 64 = 0)
  let upOk := !(c.up) || (decide (c.cop = 3) && decide (c.red = 1) && decide (c.upFmt ≠ 3) && !(tyIsInt c.ity))
  upOk &&
  (if c.cop = 1 then decide (c.red = 0) && decide (c.n = 0)
   else if c.cop = 2 then red && align && decide (1 ≤ c.n ∧ c.n ≤ (if c.ity = 10 then 8 else 16)) &&
     decide (c.n * tyBytes c.oty ≤ c.outLen)
   else if c.cop = 3 then red && align && decide (1 ≤ c.n ∧ c.n ≤ 2 ^ 28) &&
     decide (c.n * tyBytes c.oty ≤ c.outLen)
   else if c.cop = 4 then decide (c.red = 0) && tyKnown c.ity && decide (c.oty = c.ity) && align &&
     decide (c.n ≤ 2 ^ 28)
   else false)

/-- The digest of a collective (R283). -/
def collDigest (c : CollDesc) (word : Nat) : Nat :=
  crcN (le 1 c.cop ++ le 1 c.red ++ le 1 (c.ity + 16 * c.oty) ++ le 1 c.flags ++ le 4 word ++
    le 4 (if c.cop = 4 then 0 else c.n))

/-- The digest of an internal collective (R283): `cinst` with its sub bits, the attempt bits zero. -/
def intDigest (word cinst : Nat) : Nat := crcN (le 4 word ++ le 4 cinst)

/-- The cinst word of a message or ring header (R285). -/
def cinstWord (inst attempt subk : Nat) : Nat := inst % 512 + attempt % 8 * 512 + subk % 4 * 4096

/-- Message header (R285). -/
structure MsgH where
  mkind : Nat
  axis : Nat
  coord : Nat
  fidx : Nat
  inst : Nat
  attempt : Nat
  subk : Nat
  digest : Nat
  last : Bool
  deriving DecidableEq, Repr, Inhabited

def encMsg (m : MsgH) (data : Bytes) : Bytes :=
  le 1 m.mkind ++ le 1 (m.axis % 4) ++ le 2 (m.coord % 16 + m.fidx % 4096 * 16) ++
  le 4 (cinstWord m.inst m.attempt m.subk) ++ le 4 m.digest ++
  le 1 (b2n m.last) ++ zeros 3 ++ data

def decMsg (b : Bytes) : MsgH :=
  { mkind := fld b 0 1, axis := bits (fld b 1 1) 0 2, coord := bits (fld b 2 2) 0 4,
    fidx := bits (fld b 2 2) 4 12, inst := bits (fld b 4 4) 0 9, attempt := bits (fld b 4 4) 9 3,
    subk := bits (fld b 4 4) 12 2, digest := fld b 8 4, last := bit (fld b 12 1) 0 }

/-- Ring header (R297). -/
structure RingH where
  inst : Nat
  attempt : Nat
  subk : Nat
  digest : Nat
  axis : Nat
  gather : Bool
  minus : Bool
  round : Nat
  coord : Nat
  slice : Nat
  eoff : Nat
  ecount : Nat
  cw : Nat
  bad : Bool
  deriving DecidableEq, Repr, Inhabited

def encRing (r : RingH) : Bytes :=
  le 4 (cinstWord r.inst r.attempt r.subk) ++ le 4 r.digest ++
  le 1 (r.axis % 4 + b2n r.gather * 4 + b2n r.minus * 8) ++ le 1 r.round ++
  le 2 (r.coord % 16 + r.slice % 16 * 16) ++ le 4 r.eoff ++ le 4 r.ecount ++ le 4 r.cw ++
  le 1 (b2n r.bad) ++ zeros 7

def decRing (b : Bytes) : RingH :=
  { inst := bits (fld b 0 4) 0 9, attempt := bits (fld b 0 4) 9 3, subk := bits (fld b 0 4) 12 2,
    digest := fld b 4 4, axis := bits (fld b 8 1) 0 2, gather := bit (fld b 8 1) 2,
    minus := bit (fld b 8 1) 3, round := fld b 9 1, coord := bits (fld b 10 2) 0 4,
    slice := bits (fld b 10 2) 4 4, eoff := fld b 12 4, ecount := fld b 16 4, cw := fld b 20 4,
    bad := bit (fld b 24 1) 0 }

/-- First element and length of slice `j` of `n` of a range (R293). -/
def slice (lo len n j : Nat) : Nat × Nat := (lo + len * j / n, len * (j + 1) / n - len * j / n)

/-- The range a position holds after the phases along `axes` (R293). -/
def rangeOf (g : Grp) (len : Nat) (axes : List Nat) (r : Pos) : Nat × Nat :=
  axes.foldl (fun p a => slice p.1 p.2 (g.ext.at_ a) (r.at_ a)) (0, len)

/-- Direction of a hop on a ring of size `n` (R253): none done, some true for +. At half way the
second argument of the result asks for the adaptive choice. -/
def ringDir (n c c1 : Nat) : Option Bool × Bool :=
  let o := (c1 + n - c % n) % n
  if o = 0 then (none, false)
  else if 2 * o < n then (some true, false)
  else if 2 * o > n then (some false, false)
  else (some true, true)

/-- The axes of a dimension order (R252). -/
def orderAxes (code : Nat) : List Nat :=
  match code with
  | 0 => [0, 1, 2]
  | 1 => [1, 0, 2]
  | 2 => [0, 2, 1]
  | 3 => [2, 0, 1]
  | 4 => [1, 2, 0]
  | _ => [2, 1, 0]

end Sys2Proof.Machine
end

