-- ==== Sys2Proof/Machine/Guard.lean ====
section
/-! DEFINITION. Kettle scores (R137), the bound of the margin guard (R158), its intervals and tests
(R160 to R164, R166). A score and its bound are accumulated slice by slice (R141). -/

namespace Sys2Proof.Machine

/-- A running pair: score accumulator and bound accumulator, both FP32. -/
structure Acc where
  s : W32
  b : W32
  deriving DecidableEq, Repr, Inhabited

/-- Both accumulators at +0. -/
def acc0 : Acc := ⟨0#32, 0#32⟩

/-- One block of R137 for a BF16 router: 32 products, each formed exactly and rounded once. -/
def bf16Block (xs : List FVal) (ws : List Nat) (acc : W32) : W32 :=
  (xs.zip ws).foldl (fun a p =>
    rnd137 (fvAdd (dec32 a) (dec32 (rnd137 (fvMul p.1 (decBf16 p.2)))))) acc

/-- Radius of an activation element: zero where its exact bit is set (R157). -/
def hx (f : Nat) (c : Nat) (exact : Bool) : Dy := if exact then dyZero else radius f c

/-- The factor g of R158 for a depth of `d` elements. -/
def boundG (d : Nat) : W32 := up32 (.fin false (d * (2 ^ 9 + 1)) (-33))

/-- Is a rounding inexact? A NaN or an infinity from finite operands counts as inexact. -/
def inexact (exact : FVal) (r : W32) : Bool :=
  match exact, dec32 r with
  | .fin n m e, .fin n' m' e' => !(dyEq (dyOf (.fin n m e)) (dyOf (.fin n' m' e')))
  | .fin _ _ _, _ => true
  | _, _ => false

/-- One block of R137 and R158 for an MX or T2 router. `af` is the activation format (R130). -/
def mxBlock (lfmt : Nat) (g : W32) (x : QBlock) (w : Nat × List Nat) (a : Acc) : Acc :=
  let af := pairFmt lfmt
  let el := (x.codes.zip x.exact).zip w.2
  let e : Int := (x.scale : Int) + (w.1 : Int) - 254
  let part := dySum (el.map (fun p => dyMul (elemDy af p.1.1) (elemDy lfmt p.2)))
  let m := dySum (el.map (fun p =>
    let xa := dyAbs (elemDy af p.1.1)
    let wa := dyAbs (elemDy lfmt p.2)
    let hX := hx af p.1.1 p.1.2
    let hW := radius lfmt p.2
    dyAdd (dyMul xa hW) (dyAdd (dyMul hX wa) (dyMul hX hW))))
  let av := dySum (el.map (fun p =>
    dyMul (dyAdd (dyAbs (elemDy af p.1.1)) (hx af p.1.1 p.1.2))
      (dyAdd (dyAbs (elemDy lfmt p.2)) (radius lfmt p.2))))
  let cEx := fvOfDy (dyShift part e)
  let c := rnd137 cEx
  let sEx := fvAdd (dec32 a.s) (dec32 c)
  let s := rnd137 sEx
  let t1 := dec32 (up32 (fvOfDy (dyShift m e)))
  let t2 := dec32 (up32 (fvMul (dec32 g) (dec32 (up32 (fvOfDy (dyShift av e))))))
  let b1 := up32 (fvAdd (dec32 a.b) (fvAdd t1 (fvAdd t2 (.fin false 1 (-145)))))
  let half (v : W32) : FVal := dec32 (up32 (match dec32 v with
    | .fin _ mm ee => .fin false mm (ee - 24)
    | .inf _ => .inf false
    | .nan => .nan))
  let b2 := if inexact cEx c then up32 (fvAdd (dec32 b1) (fvAdd (half c) (.fin false 1 (-150)))) else b1
  let b3 := if inexact sEx s then up32 (fvAdd (dec32 b2) (half s)) else b2
  ⟨s, b3⟩

/-- Reference score of blocks `lo` to `hi - 1` of a token's delivered row with one column's BF16
shadow blocks (R153), continuing from `acc`. -/
def refBlocks (row : List FVal) (blk : Nat → List Nat) (lo hi : Nat) (acc : W32) : W32 :=
  (rangeFrom lo hi).foldl (fun a b => bf16Block ((row.drop (32 * b)).take 32) (blk b) a) acc

/-- Narrow score and bound of blocks `lo` to `hi - 1` (R137, R158). -/
def mxBlocks (lfmt : Nat) (g : W32) (row : List QBlock) (blk : Nat → Nat × List Nat) (lo hi : Nat)
    (a : Acc) : Acc :=
  (rangeFrom lo hi).foldl (fun a b => mxBlock lfmt g (row.getD b default) (blk b) a) a

/-- The lower and upper ends of a column's interval, with its ranking value (R160). -/
structure Ivl where
  j : Nat
  /-- s + o as an exact value -/
  v : FVal
  lo : FVal
  hi : FVal
  /-- score and bound are finite (R161) -/
  ok : Bool
  deriving DecidableEq, Repr, Inhabited

/-- R160 for score `s`, bound `b` and offset `o`. -/
def ivl (j : Nat) (s b o : W32) : Ivl :=
  let v := fvAdd (dec32 s) (dec32 o)
  let ok := isFin32 s && isFin32 b
  if !ok then ⟨j, v, .inf true, .inf false, false⟩
  else if isInf32 o then ⟨j, v, dec32 o, dec32 o, true⟩
  else ⟨j, v, dec32 (down32 (fvAdd v (fneg (dec32 b)))), dec32 (up32 (fvAdd v (dec32 b))), true⟩

/-- Descending value, then ascending number (R153, R161). A NaN ranks last. -/
def ranksBefore (a b : Nat × FVal) : Bool :=
  match a.2, b.2 with
  | .nan, .nan => decide (a.1 < b.1)
  | .nan, _ => false
  | _, .nan => true
  | x, y => fvLt y x || (!(fvLt x y) && decide (a.1 < b.1))

/-- Intervals in rank order (R161). -/
def rankIvls (xs : List Ivl) : List Ivl := sortBy (fun a b => ranksBefore (a.j, a.v) (b.j, b.v)) xs

def fvMin (a b : FVal) : FVal := if fvLt a b then a else b
def fvMax (a b : FVal) : FVal := if fvLt a b then b else a

/-- Smallest lower end of the first `m` ranks (R161). -/
def loIn (r : List Ivl) (m : Nat) : FVal := ((r.take m).map Ivl.lo).foldl fvMin (.inf false)

/-- Largest upper end beyond rank `m` (R161). -/
def hiOut (r : List Ivl) (m : Nat) : FVal := ((r.drop m).map Ivl.hi).foldl fvMax (.inf true)

/-- The boundaries that fail, among `k` to min(k + reach, n_exp − 1) (R161). -/
def failing (r : List Ivl) (k reach : Nat) : List Nat :=
  (rangeFrom k (min (k + reach) (r.length - 1) + 1)).filter (fun m => !(fvLt (hiOut r m) (loIn r m)))

/-- The exit test of R162: the threshold lies outside the exit column's interval. -/
def exitPass (th : W32) (e : Ivl) : Bool := fvLt (dec32 th) e.lo || fvLt e.hi (dec32 th)

/-- The ambiguous columns over the failing boundaries (R166). -/
def ambiguous (r : List Ivl) (fails : List Nat) : List Nat :=
  (r.zipIdx.filter (fun p => fails.any (fun m =>
    if p.2 < m then !(fvLt (hiOut r m) p.1.lo) else !(fvLt p.1.hi (loIn r m))))).map (fun p => p.1.j)

/-- The choice of R153: the numbers in rank order, from exact values. -/
def rankVals (xs : List (Nat × FVal)) : List Nat := (sortBy ranksBefore xs).map Prod.fst

/-- Infinities of opposite sign in score and offset (R153, R165). -/
def opposite (r o : W32) : Bool :=
  match dec32 r, dec32 o with
  | .inf a, .inf b => a != b
  | _, _ => false

/-- The mixing function of R181. -/
def mix64 (z0 : W64) : W64 :=
  let z := (z0 ^^^ (z0 >>> 30)) * 0xBF58476D1CE4E5B9#64
  let z := (z ^^^ (z >>> 27)) * 0x94D049BB133111EB#64
  z ^^^ (z >>> 31)

/-- Router noise of token `t` and column `j` (R181). -/
def noise (seed ctx stepSeq t j : Nat) (scale : W32) : W32 :=
  let w (n : Nat) : W64 := BitVec.ofNat 64 n
  let h := mix64 (w seed ^^^ (w ctx <<< 32) ^^^ w stepSeq)
  let h := mix64 (h ^^^ (w t <<< 10) ^^^ w j)
  let u : Nat := h.toNat / 2 ^ 40
  round32 (fvMul (fvOfDy ⟨2 * (u : Int) + 1 - 2 ^ 24, -24⟩) (dec32 scale))

end Sys2Proof.Machine
end

