-- ==== Sys2Proof/Machine/Sfn.lean ====
section
/-! DEFINITION. The special-function path (R202 to R221): exp2 and log2 correctly rounded, the composed
functions, the soft maximum, row statistics, log-sum-exp and z-loss, and the Walik-1 mode.

exp2 and log2 are computed to more than 100 bits past FP32's last place and rounded once (R204, R205);
where the result is representable it is exact. -/

namespace Sys2Proof.Machine

/-- Integer square root by Newton's iteration from above, with a bound on the steps. -/
def isqrtGo : Nat → Nat → Nat → Nat
  | 0, _, x => x
  | k + 1, n, x => let y := (x + n / x) / 2; if y < x then isqrtGo k n y else x

def isqrt (n : Nat) : Nat := if n = 0 then 0 else isqrtGo 400 n (2 ^ ((bitLen n + 1) / 2))

/-- Working precision of exp2, in fraction bits. -/
def expPrec : Nat := 240

/-- 2^(1/2), 2^(1/4), … rounded down to `expPrec` fraction bits. -/
def rootsGo : Nat → Nat → List Nat
  | 0, _ => []
  | k + 1, x => let r := isqrt (x * 2 ^ expPrec); r :: rootsGo k r

def roots : List Nat := rootsGo 176 (2 * 2 ^ expPrec)

/-- Product of the roots picked by the fraction bits of `f` (in units of 2^−176), most significant first. -/
def expMant : List Nat → Nat → Nat → Nat → Nat
  | [], _, _, acc => acc
  | r :: rs, i, f, acc =>
    expMant rs (i - 1) f (if f / 2 ^ i % 2 = 1 then acc * r / 2 ^ expPrec else acc)

/-- 2^f for a fraction f in units of 2^−176, in `expPrec` fraction bits, low by less than 2^(−160). -/
def expFrac (f : Nat) : Nat := expMant roots 175 f (2 ^ expPrec)

/-- exp2 of R204. -/
def exp2 (w : W32) : W32 :=
  match dec32 w with
  | .nan => nan32
  | .inf n => if n then 0#32 else inf32
  | .fin n m e =>
    let y := dyOf (.fin n m e)
    if m = 0 then one32
    else if dyLe y ⟨-150, 0⟩ then 0#32
    else if dyLe ⟨128, 0⟩ y then inf32
    else
      let k := dyAt (-176) y
      let whole := k / 2 ^ 176
      let frac := (k % 2 ^ 176).toNat
      let lo := expFrac frac
      if frac = 0 then round32 (.fin false 1 whole)
      else
        -- a last bit below every rounding position: 2^y is never representable here
        round32 (.fin false (2 * (lo + 2 ^ (expPrec - 168)) + 1) (whole - (expPrec : Int) - 1))

/-- Bits of log2 of a number in [1, 2), given in units of 2^−`p`, by repeated squaring. -/
def logBits (p : Nat) : Nat → Nat → Nat → Nat
  | 0, _, acc => acc
  | k + 1, z, acc =>
    let z2 := z * z / 2 ^ p
    if 2 ^ (p + 1) ≤ z2 then logBits p k (z2 / 2) (2 * acc + 1) else logBits p k z2 (2 * acc)

/-- log2 of R205. -/
def log2 (w : W32) : W32 :=
  match dec32 w with
  | .nan => nan32
  | .inf n => if n then nan32 else inf32
  | .fin n m e =>
    if m = 0 then 0xFF800000#32
    else if n then nan32
    else
      let b := bitLen m
      let ex : Int := e + (b : Int) - 1
      if m = 2 ^ (b - 1) then round32 (fvOfDy ⟨ex, 0⟩)
      else
        let z := m * 2 ^ (321 - b)
        let frac := logBits 320 110 z 0
        round32 (fvOfDy ⟨ex * 2 ^ 111 + 2 * (frac : Int) + 1, -111⟩)

/-- tab[j] of R216: 2^(j/64) rounded to FP32. -/
def w1Tab (j : Nat) : W32 := exp2 (round32 (.fin false j (-6)))

/-- w1_exp2 of R216. -/
def w1Exp2 (w : W32) : W32 :=
  match dec32 w with
  | .nan => nan32
  | .inf n => if n then 0#32 else inf32
  | .fin n m e =>
    let y : Dy := if m < 2 ^ 23 then dyZero else dyOf (.fin n m e)
    if dyLe ⟨128, 0⟩ y then inf32
    else if dyLt y ⟨-126, 0⟩ then 0#32
    else
      -- floor and fraction in units of 2^−160
      let k := dyAt (-160) ⟨y.m, max y.e (-160)⟩
      let nn := k / 2 ^ 160
      let f := (k % 2 ^ 160).toNat
      let j := f / 2 ^ 154
      let g : FVal := .fin false (f % 2 ^ 154) (-160)  -- exact
      let mulG (c : W32) : W32 := round32 (fvMul (dec32 c) g)
      let c1 := 0x3F317218#32
      let c2 := 0x3E75FDF0#32
      let c3 := 0x3D635847#32
      let p := fadd (mulG c3) c2
      let p := fadd (mulG p) c1
      let p := mulG p
      let q := fmul (w1Tab j) p
      let q := fadd q (w1Tab j)
      match dec32 q with
      | .fin a b c => round32 (.fin a b (c + nn))
      | _ => q

/-- The exp2 of the mode a step is bound to (R217). -/
def exp2M (w1 : Bool) (w : W32) : W32 := if w1 then w1Exp2 w else exp2 w

/-- log2 e and ln 2 of R206. -/
def cL : W32 := 0x3FB8AA3B#32
def cN : W32 := 0x3F317218#32

/-- Composed functions of R206. -/
def expM (w1 : Bool) (x : W32) : W32 := exp2M w1 (fmul x cL)
def lnF (x : W32) : W32 := fmul (log2 x) cN
def sqrtM (w1 : Bool) (x : W32) : W32 := exp2M w1 (fmul 0x3F000000#32 (log2 x))
def rsqrtM (w1 : Bool) (x : W32) : W32 := exp2M w1 (fmul 0xBF000000#32 (log2 x))
def powM (w1 : Bool) (x y : W32) : W32 := exp2M w1 (fmul y (log2 x))

/-- A subnormal becomes +0 (R217). -/
def flushSub (w : W32) : W32 :=
  match dec32 w with
  | .fin _ m _ => if m < 2 ^ 23 then 0#32 else w
  | _ => w

/-- Running maximum over a row in ascending index (pass 1 of R207). -/
def rowMax : List W32 → W32
  | [] => 0xFF800000#32
  | x :: r => r.foldl fmax x

def rowMin : List W32 → W32
  | [] => inf32
  | x :: r => r.foldl fmin x

def anyNan (xs : List W32) : Bool := xs.any isNan32

/-- The exponentials of pass 2 with the rules of R208. -/
def rowExps (w1 : Bool) (xs : List W32) : List W32 :=
  let m := rowMax xs
  if m = inf32 then xs.map (fun x => if x = inf32 then one32 else 0#32)
  else if m = 0xFF800000#32 then xs.map (fun _ => one32)
  else xs.map (fun x => exp2M w1 (fmul (fsub x m) cL))

/-- The sum of pass 2. -/
def rowExpSum (es : List W32) : W32 := es.foldl fadd 0#32

/-- The soft maximum of R207 and R208, or of R217 in Walik-1 mode. -/
def softmax (w1 : Bool) (xs0 : List W32) : List W32 :=
  let xs := if w1 then xs0.map flushSub else xs0
  if anyNan xs then xs.map (fun _ => nan32)
  else
    let es := rowExps w1 xs
    let m := rowMax xs
    let s := if m = inf32 then ofNat32 (xs.filter (fun x => x = inf32)).length else rowExpSum es
    if w1 then
      let rinv := fdiv one32 s
      es.map (fun e => flushSub (fmul e rinv))
    else es.map (fun e => fdiv e s)

/-- Log-sum-exp of R214. -/
def lseRow (w1 : Bool) (xs : List W32) : W32 :=
  if anyNan xs then nan32
  else
    let m := rowMax xs
    if m = inf32 then inf32
    else if m = 0xFF800000#32 then m
    else fadd m (fmul (log2 (rowExpSum (rowExps w1 xs))) cN)

/-- The z-loss term of R214. -/
def zLoss (w1 : Bool) (xs : List W32) : W32 := let l := lseRow w1 xs; fmul l l

/-- Exact quotient of a wide value by a count, rounded once to FP32. -/
def wideDiv (x : FVal) (n : Nat) : W32 := round32 (fvDiv x (.fin false n 0))

def wideSum (xs : List FVal) : FVal := xs.foldl (fun a x => roundW (fvAdd a x)) fvZero

/-- Mean by the wide accumulator with one rounding (R211, R363). -/
def meanW (xs : List W32) : W32 := wideDiv (wideSum (xs.map dec32)) xs.length

/-- Mean and variance of R211 under the rules of R212. -/
def rowStats (xs : List W32) : W32 × W32 :=
  if anyNan xs then (nan32, nan32)
  else if xs.any isInf32 then (meanW xs, nan32)
  else if feq (rowMax xs) (rowMin xs) then (plusZero (xs.headD 0#32), 0#32)
  else
    let mean := meanW xs
    let devs := xs.map (fun x => roundW (fvAdd (dec32 x) (fneg (dec32 mean))))
    let vw := wideSum (devs.map (fun d => roundW (fvMul d d)))
    (mean, wideDiv vw xs.length)

/-- Counts of R221: outputs that are NaN although no operand is, and infinite although all are finite. -/
structure SfnCnt where
  nan : Nat
  inf : Nat
  deriving DecidableEq, Repr, Inhabited

def sfnCount (operands outputs : List W32) : SfnCnt :=
  { nan := if anyNan operands then 0 else (outputs.filter isNan32).length
    inf := if operands.all isFin32 then (outputs.filter isInf32).length else 0 }

def sfnAdd (a b : SfnCnt) : SfnCnt := ⟨a.nan + b.nan, a.inf + b.inf⟩

end Sys2Proof.Machine
end

