-- ==== Sys2Proof/Machine/Strain.lean ====
section
/-! DEFINITION. The Strainer and Sorter as functions on data: layer tables and resolution (R173 to
R178), capacity and quotas (R189 to R192, R198), rank-major allocation (R193), weights (R186, R187),
expert choice (R164, R199), slot depth, rows and the send list (R225 to R228), tags (R233, R234), the
route ledger (R241). -/

namespace Sys2Proof.Machine

/-- A slot entry of a layer table (R173). -/
structure ESlot where
  chip : Nat
  loc : Nat
  kind : Nat
  shadow : Nat
  deriving DecidableEq, Repr, Inhabited

/-- An expert-map entry (R173). -/
structure EMap where
  null : Bool
  nLive : Nat
  first : Nat
  deriving DecidableEq, Repr, Inhabited

/-- A layer table (R173). -/
structure LTable where
  nExp : Nat
  nSlot : Nat
  biases : Bool
  skipNulls : Nat
  emap : List EMap
  slots : List ESlot
  deriving DecidableEq, Repr, Inhabited

/-- Bytes of a layer table (R173). -/
def tableLen (nExp nSlot : Nat) : Nat := 32 + 4 * nExp + 8 * nSlot

/-- The tcheck of R173 over a table's bytes. -/
def tableCheck (bs : Bytes) : Bool :=
  decide (crcN (sub bs 0 28 ++ bs.drop 32) = fld bs 28 4)

/-- Reading of a layer table (R173). -/
def parseTable (bs : Bytes) : LTable :=
  let ne := fld bs 0 2
  let ns := fld bs 2 2
  { nExp := ne
    nSlot := ns
    biases := bit (fld bs 4 1) 0
    skipNulls := fld bs 5 1
    emap := (List.range ne).map (fun e =>
      let v := fld bs (32 + 4 * e) 4
      ⟨bit v 16, bits v 12 4, bits v 0 12⟩)
    slots := (List.range ns).map (fun i =>
      let v := fld bs (32 + 4 * ne + 8 * i) 8
      ⟨bits v 0 12, bits v 12 12, bits v 24 2, bits v 26 12⟩) }

/-- The tests of R178 on a table's content, for a layer of `n` experts. -/
def tableOk (t : LTable) (n : Nat) : Bool :=
  decide (t.nExp = n) && decide (1 ≤ t.nSlot ∧ t.nSlot ≤ 4096) &&
  t.emap.all (fun m => decide (m.first + m.nLive ≤ t.nSlot)) &&
  t.emap.all (fun m =>
    if m.null then decide (m.nLive = 1) && decide ((t.slots.getD m.first default).kind = 3)
    else ((t.slots.drop m.first).take m.nLive).all (fun sl => decide (sl.kind ≤ 1))) &&
  t.slots.all (fun sl => decide (sl.shadow = 0xFFF) ||
    (decide (sl.shadow < t.nSlot) && decide ((t.slots.getD sl.shadow default).kind = 2)))

/-- The slot a slot of kind 0 or 1 resolves to, for the chips that `ok` admits (R175). -/
def resolveSlot (t : LTable) (ok : Nat → Bool) (i : Nat) : Option Nat :=
  let sl := t.slots.getD i default
  if ok sl.chip then some i
  else if sl.shadow = 0xFFF then none
  else if ok (t.slots.getD sl.shadow default).chip then some sl.shadow else none

/-- An expert's resolved slots in order, each once (R175). -/
def resolved (t : LTable) (ok : Nat → Bool) (e : Nat) : List Nat :=
  let m := t.emap.getD e default
  if m.null then []
  else ((List.range m.nLive).filterMap (fun i => resolveSlot t ok (m.first + i))).foldl
    (fun acc i => if acc.contains i then acc else acc ++ [i]) []

/-- Is the expert null? -/
def isNull (t : LTable) (e : Nat) : Bool := (t.emap.getD e default).null

/-- Number of non-null experts (R190). -/
def nReal (t : LTable) : Nat := (t.emap.filter (fun m => !m.null)).length

/-- Base capacity of a slot (R190); none is unlimited. -/
def baseCap (capField k tt nreal : Nat) : Option Nat :=
  if capField = 0 then none
  else if nreal = 0 ∨ tt = 0 then some 0
  else some (ceilDiv (capField * k * tt) (256 * nreal))

/-- Capacity of an expert with `n` resolved slots (R190). -/
def capOf (c0 : Option Nat) (n : Nat) : Option Nat :=
  match c0 with
  | none => if n = 0 then some 0 else none
  | some c => some (c * n)

/-- Quota and base of a source in token choice (R191, R192): a quota of none is unlimited. -/
def quota (c : Option Nat) (d wpre wtot s : Nat) : Option Nat × Nat :=
  match c with
  | none => (none, wpre - s)
  | some c =>
    let lo := c * wpre / wtot
    (some (c * (wpre + d + 1) / wtot - lo), lo)

/-- Quota and base of a source in expert choice (R198). -/
def quotaEc (c : Option Nat) (s n : Nat) : Option Nat × Nat :=
  match c with
  | none => (none, 0)
  | some c => (some (c * (s + 1) / n - c * s / n), c * s / n)

/-- What became of a token (R183). -/
inductive TokOut where
  | pending
  | nonfinite
  | exits
  | skips
  | takes
  deriving DecidableEq, Repr, Inhabited

/-- One chosen rank of a token: expert, reference score, weight, state (R187: 0 placed, 1 overflowed,
2 null, 3 dropped), the expert that serves it and the position taken there. -/
structure Pick where
  e : Nat
  score : W32
  w : W32
  st : Nat
  via : Nat
  pos : Nat
  deriving DecidableEq, Repr, Inhabited

/-- An overflow candidate (R153): expert, rank served (0: not taken), reference score. -/
structure Cand where
  e : Nat
  rank : Nat
  score : W32
  deriving DecidableEq, Repr, Inhabited

/-- The routing record of a token. -/
structure TokR where
  out : TokOut
  picks : List Pick
  cands : List Cand
  norm : W32
  deriving DecidableEq, Repr, Inhabited

/-- No decision yet. -/
def tokR0 : TokR := ⟨.pending, [], [], one32⟩

/-- Quotas and bases by expert: (none: unlimited). -/
abbrev QuotaFn := Nat → Option Nat

def underQuota (q : QuotaFn) (used : Table Nat) (e : Nat) : Bool :=
  match q e with
  | none => true
  | some n => decide (tget 0 used e < n)

/-- Take a seat of expert `e` (R193's place). -/
def seat (base : Nat → Nat) (used : Table Nat) (e : Nat) : Nat × Table Nat :=
  (base e + tget 0 used e, tput 0 e (tget 0 used e + 1) used)

/-- The overflow walk of R193 over the first `reach` candidates. -/
def walk (null : Nat → Bool) (q : QuotaFn) (used : Table Nat) (rank : Nat) :
    Nat → List Cand → Option (Nat × List Cand)
  | 0, _ => none
  | _, [] => none
  | n + 1, c :: r =>
    if c.rank = 0 ∧ null c.e = false ∧ underQuota q used c.e = true then
      some (c.e, { c with rank := rank } :: r)
    else match walk null q used rank n r with
      | none => none
      | some (e, r') => some (e, c :: r')

/-- Allocation of one choice of one token (R193). -/
def allocOne (null : Nat → Bool) (q : QuotaFn) (base : Nat → Nat) (reach rank : Nat)
    (tr : TokR) (used : Table Nat) : TokR × Table Nat :=
  match tr.picks[rank - 1]? with
  | none => (tr, used)
  | some p =>
    if null p.e then ({ tr with picks := lset (rank - 1) { p with st := 2 } tr.picks }, used)
    else if underQuota q used p.e then
      let (pos, u) := seat base used p.e
      ({ tr with picks := lset (rank - 1) { p with st := 0, via := p.e, pos := pos } tr.picks }, u)
    else match walk null q used rank reach tr.cands with
      | none => ({ tr with picks := lset (rank - 1) { p with st := 3 } tr.picks }, used)
      | some (c, cs) =>
        let (pos, u) := seat base used c
        ({ tr with picks := lset (rank - 1) { p with st := 1, via := c, pos := pos } tr.picks,
                   cands := cs }, u)

/-- One pass of R193 at a rank over the tokens in ascending index. -/
def allocPass (null : Nat → Bool) (q : QuotaFn) (base : Nat → Nat) (reach rank : Nat) :
    List (Nat × TokR) → Table Nat → List (Nat × TokR) × Table Nat
  | [], u => ([], u)
  | (t, tr) :: r, u =>
    let (tr', u1) := if tr.out = .takes then allocOne null q base reach rank tr u else (tr, u)
    let (r', u2) := allocPass null q base reach rank r u1
    ((t, tr') :: r', u2)

/-- Rank-major allocation (R193) of ranks `rank` to `rank + n - 1`. -/
def allocRanks (null : Nat → Bool) (q : QuotaFn) (base : Nat → Nat) (reach : Nat) :
    Nat → Nat → List (Nat × TokR) → Table Nat → List (Nat × TokR) × Table Nat
  | 0, _, ts, u => (ts, u)
  | n + 1, rank, ts, u =>
    let (ts', u') := allocPass null q base reach rank ts u
    allocRanks null q base reach n (rank + 1) ts' u'

/-- Final weights of a token (R187). `zero` is the drop mode bit; `sums` is R187's S. -/
def finalWeights (zero : Bool) (tr : TokR) : TokR :=
  let kept := tr.picks.filter (fun p => decide (p.st ≠ 3))
  if zero then
    { tr with picks := tr.picks.map (fun p => if p.st = 3 then { p with w := 0#32 } else p) }
  else if kept.length = tr.picks.length then tr
  else
    let s := kept.foldl (fun a p => fadd a p.w) 0#32
    let pos := fgt s 0#32
    { tr with
      norm := if pos then s else 0#32
      picks := tr.picks.map (fun p =>
        if p.st = 3 then { p with w := 0#32 }
        else { p with w := if pos then fdiv p.w s else 0#32 }) }

/-- First weights of a token over its full chosen set (R186). -/
def firstWeights (w1 : Bool) (tr : TokR) : TokR :=
  let ws := if tr.picks.length = 1 then [one32] else softmax w1 (tr.picks.map Pick.score)
  { tr with picks := (tr.picks.zip ws).map (fun p => { p.1 with w := p.2 }) }

/-- Slot depth (R225). -/
def slotDepth (c0 : Option Nat) (dtot nres : Nat) : Nat :=
  match c0 with
  | some c => c
  | none => ceilDiv dtot (max nres 1)

/-- A send-list entry (R228): destination, slot after resolution, row, token, rank. -/
structure SendE where
  chip : Nat
  slot : Nat
  row : Nat
  loc : Nat
  t : Nat
  rank : Nat
  ovr : Bool
  shad : Bool
  deriving DecidableEq, Repr, Inhabited

/-- Order of the send list (R227). -/
def sendLt (a b : SendE) : Bool :=
  decide (a.chip < b.chip) || (decide (a.chip = b.chip) &&
    (decide (a.slot < b.slot) || (decide (a.slot = b.slot) && decide (a.row < b.row))))

/-- The send-list entry of an allocated choice (R192, R225, R228). -/
def entryOf (tb : LTable) (res : Nat → List Nat) (depth : Nat → Nat) (t rank : Nat) (p : Pick) :
    Option SendE :=
  if p.st ≤ 1 then
    let d := max (depth p.via) 1
    match (res p.via)[p.pos / d]? with
    | none => none
    | some i =>
      let sl := tb.slots.getD i default
      some ⟨sl.chip, i, p.pos % d, sl.loc, t, rank, decide (p.st = 1), decide (sl.kind = 2)⟩
  else none

/-- The send list of a step (R227). -/
def sendList (tb : LTable) (res : Nat → List Nat) (depth : Nat → Nat) (ts : List (Nat × TokR)) :
    List SendE :=
  sortBy sendLt (ts.flatMap (fun x =>
    if x.2.out = .takes then
      (x.2.picks.zipIdx.filterMap (fun q => entryOf tb res depth x.1 (q.2 + 1) q.1))
    else []))

/-- Return tag with the check field zero (R233). -/
def mkTag (ctx epoch src t rank : Nat) (steeped : Bool) : Nat :=
  ctx % 4096 * 2 ^ 52 + epoch % 256 * 2 ^ 44 + src % 4096 * 2 ^ 32 + t % 2 ^ 20 * 2 ^ 12 +
  (rank - 1) % 8 * 2 ^ 9 + b2n steeped * 256

/-- The keyed check of a tag (R234). -/
def tagCheck (key : W64) (tag : Nat) : Nat := (crc8 (le 8 key.toNat ++ le 7 (tag / 256))).toNat

/-- A tag as it travels (R233, R234). -/
def keyTag (key : W64) (tag : Nat) : Nat := tag / 256 * 256 + tagCheck key tag

def tagCtx (g : Nat) : Nat := bits g 52 12
def tagEpoch (g : Nat) : Nat := bits g 44 8
def tagSrc (g : Nat) : Nat := bits g 32 12
def tagTok (g : Nat) : Nat := bits g 12 20
def tagRank (g : Nat) : Nat := bits g 9 3 + 1
def tagSteeped (g : Nat) : Bool := bit g 8

/-- A send-list entry in its 16 bytes, check field zero (R228, R235). -/
def sendBytes (ctx epoch src : Nat) (e : SendE) : Bytes :=
  le 8 (mkTag ctx epoch src e.t e.rank false) ++
  le 8 (e.slot + e.chip * 2 ^ 12 + e.row * 2 ^ 24 + e.loc * 2 ^ 48 + b2n e.ovr * 2 ^ 60 +
    b2n e.shad * 2 ^ 61)

/-- Reading of a send-list entry (R228, R243). -/
def parseSend (bs : Bytes) : SendE :=
  let g := fld bs 0 8
  let h := fld bs 8 8
  ⟨bits h 12 12, bits h 0 12, bits h 24 24, bits h 48 12, tagTok g, tagRank g, bit h 60, bit h 61⟩

/-- A ledger token record (R241). -/
def ledgerRec (ec : Bool) (t : Nat) (tr : TokR) : Bytes :=
  let n := tr.picks.length
  let word (f : Pick → Nat) (d : Nat) (i : Nat) : Nat :=
    match tr.picks[i]? with | none => d | some p => f p
  let cnd (f : Cand → Nat) (d : Nat) (i : Nat) : Nat :=
    match tr.cands[i]? with | none => d | some c => if c.rank = 0 then d else f c
  le 4 (t + (n - 1) * 2 ^ 20 + b2n ec * 2 ^ 23) ++
  le 4 ((tr.picks.zipIdx.map (fun p => p.1.st * 4 ^ p.2)).foldl (· + ·) 0) ++
  (List.range 8).flatMap (fun i => le 2 (word Pick.e 0xFFFF i)) ++
  (List.range 4).flatMap (fun i => le 2 (cnd Cand.e 0xFFFF i)) ++
  le 2 (((List.range 4).map (fun i => cnd Cand.rank 0 i * 16 ^ i)).foldl (· + ·) 0) ++ zeros 6 ++
  (List.range 8).flatMap (fun i => le 4 (word (fun p => p.score.toNat) 0 i)) ++
  (List.range 8).flatMap (fun i => le 4 (word (fun p => p.w.toNat) 0 i)) ++
  (List.range 4).flatMap (fun i => le 4 (cnd (fun c => c.score.toNat) 0 i)) ++
  le 4 tr.norm.toNat ++ zeros 4

/-- Reading of a ledger token record (R241, R340): token index, expert choice, routing record. -/
def parseLedgerRec (bs : Bytes) : Nat × Bool × TokR :=
  let w := fld bs 0 4
  let n := bits w 20 3 + 1
  let cs := (List.range 4).filterMap (fun i =>
    if fld bs (24 + 2 * i) 2 = 0xFFFF then none
    else some (Cand.mk (fld bs (24 + 2 * i) 2) (bits (fld bs 32 2) (4 * i) 4)
      (BitVec.ofNat 32 (fld bs (104 + 4 * i) 4))))
  (bits w 0 20, bit w 23,
    { out := .takes
      picks := (List.range n).map (fun i =>
        let e := fld bs (8 + 2 * i) 2
        let st := bits (fld bs 4 4) (2 * i) 2
        let via := match cs.find? (fun c => decide (c.rank = i + 1)) with
          | some c => if st = 1 then c.e else e
          | none => e
        ⟨e, BitVec.ofNat 32 (fld bs (40 + 4 * i) 4), BitVec.ofNat 32 (fld bs (72 + 4 * i) 4), st, via, 0⟩)
      cands := cs
      norm := BitVec.ofNat 32 (fld bs 120 4) })

/-- One column's view of a token in expert choice: token, interval (R164). -/
def ecRank (xs : List Ivl) (c : Nat) : List Nat × List Nat :=
  let r := rankIvls xs
  if r.length ≤ c then (r.map Ivl.j, [])
  else
    let li := loIn r c
    let ho := hiOut r c
    if fvLt ho li then ((r.take c).map Ivl.j, [])
    else
      (((r.take c).filter (fun x => fvLt ho x.lo)).map Ivl.j,
       ((r.take c).filter (fun x => !(fvLt ho x.lo)) ++ (r.drop c).filter (fun x => !(fvLt x.hi li))).map
         Ivl.j)

/-- The tokens a column takes (R164): its certain tokens, then its ambiguous ones in the order of
R153 by their reference values. -/
def ecTake (xs : List Ivl) (c : Nat) (ref : Nat → FVal) : List Nat :=
  let (sure, amb) := ecRank xs c
  sure ++ (rankVals (amb.map (fun t => (t, ref t)))).take (c - sure.length)

end Sys2Proof.Machine
end

