-- ==== Sys2Proof/Machine/Pour.lean ====
section
/-! DEFINITION. Arithmetic of the Pour unit and of the Balancer as functions on data: combine (R331,
R332), weight and score gradients (R340, R341), windows, biases and proposals (R353 to R358), gradient
accumulation and update rules (R361 to R364). -/

namespace Sys2Proof.Machine

/-- The FP32 accumulation of R331: shared rows with weight 1, then served rows with their weights. -/
def combineRows (d : Nat) (rows : List (W32 × List FVal)) : List W32 :=
  rows.foldl (fun acc r => (acc.zip r.2).map (fun p => ffmaV r.1 p.2 p.1)) (List.replicate d 0#32)

/-- A row landed in a payload format, as exact values (R326): an element of a block with scale code
0xFF is NaN. -/
def landedVals (f d : Nat) (bs : Bytes) : List FVal :=
  if f = 1 then rowVals 1 d bs
  else (rowVals f d bs).zipIdx.map (fun p => if fld bs (d + p.2 / 32) 1 = 255 then .nan else p.1)

/-- An output row as written (R334). -/
def outBytes (f : Nat) (acc : List W32) : Bytes := padTo 64 (outRow f acc)

/-- Weight gradient of one kept row (R340). -/
def weightGrad (dy y : List FVal) : W32 :=
  (dy.zip y).foldl (fun a p => round32 (fvAdd (dec32 a) (fvMul p.1 p.2))) 0#32

def kept (p : Pick) : Bool := decide (p.st ≠ 3)

/-- Score gradients of a token (R341). `ec`: expert choice; `zero`: drop mode bit. -/
def scoreGrads (w1 ec zero : Bool) (tr : TokR) (gw : List W32) : List W32 :=
  let p := softmax w1 (tr.picks.map Pick.score)
  let inK (k : Pick) : Bool := ec || kept k
  let pg := tr.picks.zip gw
  let dp : List W32 :=
    if ec || zero || tr.picks.all kept then
      pg.map (fun x => if inK x.1 then x.2 else 0#32)
    else if feq tr.norm 0#32 then pg.map (fun _ => 0#32)
    else
      let q := pg.foldl (fun a x => if inK x.1 then ffma x.1.w x.2 a else a) 0#32
      pg.map (fun x => if inK x.1 then fdiv (fsub x.2 q) tr.norm else 0#32)
  let a := (p.zip dp).foldl (fun a x => ffma x.1 x.2 a) 0#32
  (p.zip dp).map (fun x => fmul x.1 (fsub x.2 a))

/-- Learning record (R348). -/
structure LearnRec where
  rule : Nat
  lflags : Nat
  win : Nat
  rev : Nat
  lr : W32
  b1 : W32
  b2 : W32
  eps : W32
  wd : W32
  zc : W32
  alpha : W32
  brate : W32
  hot : Nat
  cold : Nat
  stateAddr : Nat
  propAddr : Nat
  stateSize : Nat
  deriving DecidableEq, Repr, Inhabited

def parseLearn (b : Bytes) : LearnRec :=
  let w (o : Nat) : W32 := BitVec.ofNat 32 (fld b o 4)
  { rule := fld b 0 1, lflags := bits (fld b 1 1) 0 3, win := fld b 2 1, rev := fld b 3 1, lr := w 4,
    b1 := w 8, b2 := w 12, eps := w 16, wd := w 20, zc := w 24, alpha := w 28, brate := w 32,
    hot := fld b 36 2, cold := fld b 38 2, stateAddr := fld b 40 8, propAddr := fld b 48 8,
    stateSize := fld b 56 4 }

def fle (a b : W32) : Bool := !(isNan32 a) && !(isNan32 b) && !(flt b a)

/-- Offsets in a state area (R350) of the arrays bias, ema, wsum, R, C, Wm, G, M, and its end. -/
def stateOffs (e d rule : Nat) : List Nat :=
  let nx (o n : Nat) : Nat := roundUp 64 (o + n)
  let bias := 64
  let ema := nx bias (4 * e)
  let ws := nx ema (4 * e)
  let r := nx ws (8 * e)
  if rule = 0 then [bias, ema, ws, r, r, r, r, r, ws + 8 * e]
  else
    let c := nx r (4 * d)
    let wm := nx c (4 * e)
    let g := nx wm (4 * e * d)
    let m := nx g (4 * e * d)
    [bias, ema, ws, r, c, wm, g, m, m + 4 * e * d]

def stateOff (e d rule i : Nat) : Nat := (stateOffs e d rule).getD i 0

/-- The cases of R347 on an owned model's record. -/
def learnOk (l : LearnRec) (e d kind : Nat) : Bool :=
  let nn (w : W32) : Bool := isFin32 w && fle 0#32 w
  decide (l.rule ≤ 3) && decide (stateOff e d l.rule 8 ≤ l.stateSize * 65536) &&
  (decide (l.win = 0) || (fle 0#32 l.alpha && fle l.alpha one32 && nn l.brate)) &&
  (decide (l.rule = 0) || (nn l.lr && nn l.wd && nn l.b1 && flt l.b1 one32 && nn l.b2 && flt l.b2 one32 &&
    isFin32 l.eps && flt 0#32 l.eps)) &&
  (!(bit l.lflags 2) || decide (l.propAddr ≠ 0)) && (decide (kind ≠ 4) || decide (l.rule ≠ 0))

/-- The Balancer's state of a layer (R350, R351): header fields, bias, ema and wsum by expert. -/
structure BalState where
  t : Nat
  nAcc : Nat
  wins : Nat
  wcnt : Nat
  seeded : Nat
  wtot : Nat
  bias : List W32
  ema : List W32
  wsum : List Nat
  deriving DecidableEq, Repr, Inhabited

/-- Reading of the state area's front (R350). -/
def parseBal (e : Nat) (b : Bytes) : BalState :=
  let o (i : Nat) := stateOff e 32 0 i
  { t := fld b 0 4, nAcc := fld b 4 4, wins := fld b 8 4, wcnt := fld b 12 1, seeded := fld b 13 1,
    wtot := fld b 16 8,
    bias := (List.range e).map (fun i => BitVec.ofNat 32 (fld b (o 0 + 4 * i) 4)),
    ema := (List.range e).map (fun i => BitVec.ofNat 32 (fld b (o 1 + 4 * i) 4)),
    wsum := (List.range e).map (fun i => fld b (o 2 + 8 * i) 8) }

/-- The header of a state area (R350). -/
def balHeader (b : BalState) : Bytes :=
  withCrc (le 4 b.t ++ le 4 b.nAcc ++ le 4 b.wins ++ le 1 b.wcnt ++ le 1 b.seeded ++ zeros 2 ++
    le 8 b.wtot ++ zeros 36)

/-- The front of a state area, header to wsum, each array at a 64-byte boundary (R350). -/
def balBytes (b : BalState) : Bytes :=
  balHeader b ++ padTo 64 (b.bias.flatMap (fun w => le 4 w.toNat)) ++
  padTo 64 (b.ema.flatMap (fun w => le 4 w.toNat)) ++ padTo 64 (b.wsum.flatMap (fun v => le 8 v))

/-- Exact quotient of two naturals, rounded once. -/
def natDiv32 (a b : Nat) : W32 := round32 (fvDiv (.fin false a 0) (.fin false b 0))

/-- Apply `f` at the experts that are not null. -/
def onReal {α : Type} (null : Nat → Bool) (f : Nat → α → α) (xs : List α) : List α :=
  xs.zipIdx.map (fun p => if null p.2 then p.1 else f p.2 p.1)

/-- The bias rule of R354. -/
def biasRule (null : Nat → Bool) (nreal : Nat) (brate : W32) (b : BalState) : BalState :=
  let tau := natDiv32 1 nreal
  { b with bias := onReal null (fun e x =>
      let m := b.ema.getD e 0#32
      if flt m tau then fadd x brate else if flt tau m then fsub x brate else x) b.bias }

/-- One observation of R353. Answers the new state and whether a window closed. -/
def observe (null : Nat → Bool) (nreal : Nat) (l : LearnRec) (dtot : Nat → Nat) (b : BalState) :
    BalState × Bool :=
  let ws := onReal null (fun e x => (x + dtot e) % 2 ^ 64) b.wsum
  let add := ((List.range b.wsum.length).filter (fun e => !(null e))).foldl (fun a e => a + dtot e) 0
  let wt := (b.wtot + add) % 2 ^ 64
  let b1 := { b with wsum := ws, wtot := wt, wcnt := b.wcnt + 1 }
  if b1.wcnt = l.win then
    let b2 := { b1 with wcnt := 0 }
    let z (x : BalState) : BalState := { x with wsum := x.wsum.map (fun _ => 0), wtot := 0 }
    if wt = 0 then (z b2, false)
    else
      let ema := onReal null (fun e x =>
        let f := natDiv32 (ws.getD e 0) wt
        if b.seeded = 0 then f else ffma l.alpha (fsub f x) x) b2.ema
      let b3 := { b2 with wins := (b2.wins + 1) % 2 ^ 32, ema := ema, seeded := 1 }
      let b4 := if bit l.lflags 0 then biasRule null nreal l.brate b3 else b3
      (z b4, true)
  else (b1, false)

/-- Load of a chip (R357). -/
def chipLoad (t : LTable) (ema : Nat → W32) (c : Nat) : W32 :=
  -- kind 0 and kind 1 slots belong to the expert whose map entry names them
  let ofSlot (i : Nat) : Option Nat :=
    (List.range t.nExp).find? (fun e =>
      let m := t.emap.getD e default
      !m.null && decide (m.first ≤ i ∧ i < m.first + m.nLive))
  (List.range t.nSlot).foldl (fun a i =>
    let sl := t.slots.getD i default
    if sl.chip = c ∧ sl.kind ≤ 1 then
      match ofSlot i with
      | some e => fadd a (fdiv (ema e) (ofNat32 (t.emap.getD e default).nLive))
      | none => a
    else a) 0#32

/-- The least element of a list under a strict order, the first of equals. -/
def leastBy {α : Type} (lt : α → α → Bool) : List α → Option α
  | [] => none
  | x :: r => match leastBy lt r with
    | none => some x
    | some y => if lt y x then some y else some x

/-- A proposal entry (R358). -/
structure PropEnt where
  e : Nat
  action : Nat
  chip : Nat
  aux : Nat
  rho : W32
  load : W32
  deriving DecidableEq, Repr, Inhabited

/-- ρ of R356. -/
def rhoOf (t : LTable) (nreal : Nat) (ema : Nat → W32) (e : Nat) : W32 :=
  let n := (t.emap.getD e default).nLive
  if n = 0 then inf32 else fdiv (fmul (ema e) (ofNat32 nreal)) (ofNat32 n)

/-- Threshold with 8 fraction bits as FP32. -/
def thr8 (v : Nat) : W32 := round32 (.fin false v (-8))

/-- The live slots of an expert. -/
def liveSlots (t : LTable) (e : Nat) : List Nat :=
  let m := t.emap.getD e default
  rangeFrom m.first (m.first + m.nLive)

/-- The adds of a proposal (R356, R357), in order; `loads` are the members' loads so far. -/
def propAdds (t : LTable) (tab : Table Nat) (ema : Nat → W32) (rho : Nat → W32) :
    List Nat → Nat → List (Nat × W32) → List PropEnt
  | [], _, _ => []
  | e :: r, n, loads =>
    if 64 ≤ n ∨ 4096 < t.nSlot + n + 1 then []
    else
      let has (c : Nat) : Bool := (liveSlots t e).any (fun i => decide ((t.slots.getD i default).chip = c))
      let lt (a b : Nat × W32) : Bool := flt a.2 b.2 || (feq a.2 b.2 && decide (a.1 < b.1))
      match leastBy lt (loads.filter (fun c => !(has c.1))) with
      | none => propAdds t tab ema rho r n loads
      | some tg =>
        let p (c : Nat) : Pos := entPos (tget 0 tab c)
        match leastBy lt (loads.filter (fun c =>
            decide ((p c.1).y ≠ (p tg.1).y) || decide ((p c.1).z ≠ (p tg.1).z))) with
        | none => propAdds t tab ema rho r n loads
        | some sh =>
          let inc := fdiv (ema e) (ofNat32 ((t.emap.getD e default).nLive + 1))
          ⟨e, 1, tg.1, sh.1, rho e, tg.2⟩ ::
            propAdds t tab ema rho r (n + 1)
              (loads.map (fun c => if c.1 = tg.1 then (c.1, fadd c.2 inc) else c))

/-- Final loads after the adds (R357: no other load changes). -/
def loadsAfter (t : LTable) (ema : Nat → W32) (loads : List (Nat × W32)) (adds : List PropEnt) :
    List (Nat × W32) :=
  adds.foldl (fun ls a => ls.map (fun c =>
    if c.1 = a.chip then (c.1, fadd c.2 (fdiv (ema a.e) (ofNat32 ((t.emap.getD a.e default).nLive + 1))))
    else c)) loads

/-- The removals of a proposal (R357). -/
def propRemoves (t : LTable) (loads : List (Nat × W32)) (rho : Nat → W32) (es : List Nat) : List PropEnt :=
  let ld (c : Nat) : W32 := ((loads.find? (fun x => decide (x.1 = c))).map Prod.snd).getD 0#32
  es.filterMap (fun e =>
    let cand := (liveSlots t e).filter (fun i => decide ((t.slots.getD i default).kind = 1))
    let lt (a b : Nat) : Bool :=
      let la := ld (t.slots.getD a default).chip
      let lb := ld (t.slots.getD b default).chip
      flt lb la || (feq la lb && decide (b < a))
    (leastBy lt cand).map (fun i =>
      let c := (t.slots.getD i default).chip
      ⟨e, 2, c, i, rho e, ld c⟩))

/-- The entries of a proposal (R356, R357). -/
def proposal (t : LTable) (tab : Table Nat) (l : LearnRec) (b : BalState) : List PropEnt :=
  let nreal := nReal t
  let ema (e : Nat) : W32 := b.ema.getD e 0#32
  let rho := rhoOf t nreal ema
  let es := (List.range t.nExp).filter (fun e => !(isNull t e))
  let nl (e : Nat) : Nat := (t.emap.getD e default).nLive
  let hot := es.filter (fun e => fle (thr8 l.hot) (rho e) && decide (nl e < 15))
  let cold := es.filter (fun e => fle (rho e) (thr8 l.cold) &&
    (liveSlots t e).any (fun i => decide ((t.slots.getD i default).kind = 1)))
  let mem := (tab.filter (fun c => decide (entState c.2 = 1))).map Prod.fst
  let loads := mem.map (fun c => (c, chipLoad t ema c))
  let adds := propAdds t tab ema rho
    (sortBy (fun a b => flt (rho b) (rho a) || (feq (rho a) (rho b) && decide (a < b))) hot) 0 loads
  let rem := propRemoves t (loadsAfter t ema loads adds) rho
    (sortBy (fun a b => flt (rho a) (rho b) || (feq (rho a) (rho b) && decide (a < b))) cold)
  (adds ++ rem).take 64

/-- The averages whose variance a proposal reports (R358): those of the non-null experts, ascending. -/
def propRow (t : LTable) (b : BalState) : List W32 :=
  ((List.range t.nExp).filter (fun e => !(isNull t e))).map (fun e => b.ema.getD e 0#32)

/-- What log2 and exp2 count within a power of `x` (R206, R221). -/
def powCount (w1 : Bool) (y x : W32) : SfnCnt :=
  let l := fmul y (log2 x)
  sfnAdd (sfnCount [x] [log2 x]) (sfnCount [l] [exp2M w1 l])

/-- What the special functions of a proposal's imbalance count (R221, R358): row statistics and the square root. -/
def propCount (w1 : Bool) (t : LTable) (b : BalState) : SfnCnt :=
  let r := rowStats (propRow t b)
  sfnAdd (sfnCount (propRow t b) [r.1, r.2]) (powCount w1 0x3F000000#32 r.2)

/-- A proposal's bytes (R358): header, then entries. -/
def proposalBytes (model layer tver : Nat) (w1 : Bool) (t : LTable) (tab : Table Nat) (b : BalState)
    (es : List PropEnt) : Bytes :=
  let cv := fmul (sqrtM w1 (rowStats (propRow t b)).2) (ofNat32 (nReal t))
  let yz (c : Nat) : Nat × Nat := ((entPos (tget 0 tab c)).y, (entPos (tget 0 tab c)).z)
  let bad := (t.slots.filter (fun sl => decide (sl.kind ≤ 1) &&
    (decide (sl.shadow = 0xFFF) || decide (yz (t.slots.getD sl.shadow default).chip = yz sl.chip)))).length
  withCrc (le 1 1 ++ le 1 model ++ le 1 layer ++ le 1 es.length ++ le 4 b.wins ++ le 2 tver ++ zeros 2 ++
    le 4 cv.toNat ++ le 4 bad ++ zeros 40) ++
  es.flatMap (fun x => le 2 x.e ++ le 1 x.action ++ zeros 1 ++ le 2 x.chip ++ le 2 x.aux ++
    le 4 x.rho.toNat ++ le 4 x.load.toNat)

/-- z-loss term added to a score gradient (R361). -/
def gradOf (w1 : Bool) (zon : Bool) (zc : W32) (scores : List W32) (gs : List W32) : List W32 :=
  if zon && !(feq zc 0#32) then
    let p := softmax w1 scores
    let l := lseRow w1 scores
    let two := fadd l l
    (p.zip gs).map (fun x => fadd x.2 (fmul (fmul zc two) x.1))
  else gs

/-- One element of rules 1 and 3 (R363), and pass 2 of rule 2 with `u` formed: new w and m. -/
def updElem (l : LearnRec) (rule : Nat) (g w m u : W32) : W32 × W32 :=
  let o1 := fsub one32 l.b1
  let o2 := fsub one32 l.b2
  let neg (x : W32) : W32 := x ^^^ 0x80000000#32
  let dec (r : W32) : W32 := ffma (neg l.lr) (ffma l.wd w r) w
  if rule = 1 then
    let m' := ffma l.b1 m g
    (dec m', m')
  else if rule = 3 then
    let c := ffma o1 g (fmul l.b1 m)
    let s := if fgt c 0#32 then one32 else if flt c 0#32 then 0xBF800000#32 else 0#32
    (dec s, ffma o2 g (fmul l.b2 m))
  else
    let m' := ffma o1 u (fmul l.b1 m)
    (dec m', m')

/-- Statistics of rule 2 (R363, pass 1 and between passes): new R, new C, a, bb. -/
def rule2Stats (l : LearnRec) (w1 : Bool) (t e d : Nat) (g : Nat → Nat → W32) (r c : Nat → W32) :
    (List W32 × List W32) × (List W32 × List W32) :=
  let q (k i : Nat) : W32 := ffma (g k i) (g k i) l.eps
  let o2 := fsub one32 l.b2
  let rr (i : Nat) : W32 := meanW ((List.range e).map (fun k => q k i))
  let cc (k : Nat) : W32 := meanW ((List.range d).map (fun i => q k i))
  let r' := (List.range d).map (fun i => ffma o2 (rr i) (fmul l.b2 (r i)))
  let c' := (List.range e).map (fun k => ffma o2 (cc k) (fmul l.b2 (c k)))
  let c2 := fsub one32 (powM w1 l.b2 (ofNat32 t))
  let rbar := meanW r'
  ((r', c'), (r'.map (rsqrtM w1), c'.map (fun x => rsqrtM w1 (fdiv (fdiv x rbar) c2))))

end Sys2Proof.Machine
end

