-- ==== Sys2Proof/Machine/Coll.lean ====
section
/-! DEFINITION. Collectives as functions of the messages a member holds (R288, R293 to R296, R300): what
each phase computes, what it sends, when it is complete. An open collective keeps every message that it
has received, and each arrival evaluates it anew; the keys of what was sent keep a message from being
sent twice. -/

namespace Sys2Proof.Machine

/-- A short message consumed by an open instance. -/
structure ShortIn where
  src : Nat
  h : MsgH
  data : Bytes
  deriving DecidableEq, Repr, Inhabited

/-- A ring chunk consumed by an open instance, for the played position `pos`. `vals` is none for a range
that R428 treats as an empty contribution; narrow upper-level data are held as values. -/
structure RingIn where
  src : Nat
  pos : Nat
  h : RingH
  vals : Option (List Nat)
  bad : Bool
  deriving DecidableEq, Repr, Inhabited

/-- A piece held: its index, values in the output type, check word as its owner sent it, bad. -/
structure Piece where
  idx : Nat
  vals : List Nat
  cw : Nat
  bad : Bool
  deriving DecidableEq, Repr, Inhabited

/-- An open collective instance (R281, R287). `stage`: 0 sizes round, 1 main, 2 closing lap, 3 result
writes, 4 complete. -/
structure CollInst where
  cinst : Nat
  cd : CollDesc
  /-- reduction of each word of a short reduction -/
  reds : List Nat := []
  word : Nat := 0
  digest : Nat := 0
  mver : Nat := 0
  attempt : Nat := 0
  stage : Nat := 1
  input : List Nat := []
  shorts : List ShortIn := []
  rx : List RingIn := []
  /-- short messages sent: destination, payload (R429) -/
  sent : List (Nat × Bytes) := []
  /-- keys of what was sent -/
  keys : List (List Nat) := []
  /-- elements of each position, from the sizes round (R295) -/
  sizes : List (Nat × Nat) := []
  /-- pieces recomputed in this attempt (R303) -/
  redo : Option (Nat × Nat) := none
  /-- pieces held, of every position -/
  pieces : List Piece := []
  result : List Nat := []
  /-- elapsed tick of the last arrival (R304), and of the last arrival or resend (R428, R429) -/
  last : Nat := 0
  quiet : Nat := 0
  /-- a ring chunk of the context and epoch was discarded (R428) -/
  disc : Bool := false
  deriving DecidableEq, Repr, Inhabited

/- Short reductions -/

/-- Combine two partials word by word, each with its own reduction. -/
def combineWords (reds : List Nat) (ty : Nat) (a b : List Nat) : List Nat :=
  ((a.zip b).zip reds).map (fun p => combine p.2 ty p.1.1 p.1.2)

/-- The classes of a phase's line that hold a member (R278). -/
def lineLive (g : Grp) (a : Nat) (o : Pos) : List Nat :=
  (List.range (g.ext.at_ a)).filter (fun c => !(g.emptyAt a (o.set a c)))

/-- The phases of a short reduction that can be computed (R288): the partial that enters each phase
reached, by axis, and the result once every phase is complete. -/
def shortRun (g : Grp) (o : Pos) (reds : List Nat) (ty : Nat) (got : Nat → Nat → Option (List Nat)) :
    List Nat → List Nat → List (Nat × List Nat) × Option (List Nat)
  | [], v => ([], some v)
  | a :: r, v =>
    let parts := (lineLive g a o).map (fun c => if c = o.at_ a then some v else got a c)
    if parts.all Option.isSome then
      let vs := parts.filterMap id
      let acc := match vs with
        | [] => v
        | x :: xs => xs.foldl (combineWords reds ty) x
      let (ps, res) := shortRun g o reds ty got r acc
      ((a, v) :: ps, res)
    else ([(a, v)], none)

/-- A destination of a partial (R288): played position, its coordinate, the coordinate it goes to, the chip there. -/
structure ShortTo where
  pos : Nat
  coord : Nat
  target : Nat
  chip : Nat
  deriving DecidableEq, Repr, Inhabited

/-- Destinations of the partial of phase `a`, once for each played position (R288). -/
def shortDests (g : Grp) (own a : Nat) : List ShortTo :=
  (g.plays own a).flatMap (fun i =>
    let p := g.ofIdx i
    (lineLive g a p).filterMap (fun c =>
      if c = p.at_ a then none
      else match g.player (p.set a c) with
        | some d => if d = own then none else some ⟨i, p.at_ a, c, d⟩
        | none => none))

/-- The partial that a held message gives for coordinate `c` of phase `a`: its source must share the
later coordinates (R278). -/
def shortGot (g : Grp) (o : Pos) (ty n attempt subk : Nat) (ms : List ShortIn) (a c : Nat) : Option (List Nat) :=
  (ms.find? (fun m => decide (m.h.mkind = 1 ∧ m.h.axis = a ∧ m.h.coord = c ∧ m.h.attempt = attempt ∧ m.h.subk = subk) &&
    (match posOfTab g m.src with
     | none => false
     | some q => [0, 1, 2].all (fun b => !(decide (a < b)) || decide (q.at_ b = o.at_ b))))).map
    (fun m => readElems ty n m.data)
where
  /-- ring coordinates of a member -/
  posOfTab (g : Grp) (c : Nat) : Option Pos :=
    let e := tget 0 g.tab c
    if entState e = 1 then some (g.rc (entPos e)) else none

/- Ring collectives -/

/-- A value at an element index, none for an empty contribution. -/
abbrev Cell := Nat × Option Nat

/-- A position's contribution or result of a phase. -/
structure Con where
  vals : List Cell
  bad : Bool
  deriving DecidableEq, Repr, Inhabited

/-- A segment to be sent: destination chip, ring header without eoff, ecount and cw, then the pieces of
the segment: offset, check word, values. -/
structure RingOut where
  dst : Nat
  h : RingH
  segs : List (Nat × Nat × List Nat)
  deriving DecidableEq, Repr, Inhabited

/-- Slices' + halves hold the first ⌈len ÷ 2⌉ elements (R293). -/
def halfOf (lo len : Nat) (minus : Bool) : Nat × Nat :=
  let h := (len + 1) / 2
  if minus then (lo + h, len - h) else (lo, h)

/-- The piece that holds element `e` of a reduction over `l` elements. -/
def pieceOf (g : Grp) (l e : Nat) : Nat :=
  ((List.range g.count).find? (fun i =>
    let r := rangeOf g l g.axes (g.ofIdx i)
    decide (r.1 ≤ e ∧ e < r.1 + r.2))).getD 0

/-- Is piece `i` computed in this attempt (R303)? -/
def inRedo (redo : Option (Nat × Nat)) (i : Nat) : Bool :=
  match redo with
  | none => true
  | some (lo, hi) => decide (lo ≤ i ∧ i ≤ hi)

/-- Element indices of a half slice in a phase (R293, R303). -/
def segElems (g : Grp) (l : Nat) (redo : Option (Nat × Nat)) (done : List Nat) (a : Nat) (p : Pos) (j : Nat)
    (minus : Bool) : List Nat :=
  let r := rangeOf g l done p
  let sl := slice r.1 r.2 (g.ext.at_ a) j
  let h := halfOf sl.1 sl.2 minus
  (rangeFrom h.1 (h.1 + h.2)).filter (fun e => redo = none ∨ inRedo redo (pieceOf g l e))

/-- Values of the chunks that carry a segment, when they cover it: element by element. -/
def assemble (rx : List RingIn) (want : RingIn → Bool) (n : Nat) : Option (List (Option Nat) × Bool) :=
  let cs := rx.filter want
  let at_ (i : Nat) : Option (Option Nat) :=
    (cs.find? (fun c => decide (c.h.eoff ≤ i ∧ i < c.h.eoff + c.h.ecount))).map (fun c =>
      match c.vals with
      | none => none
      | some vs => some (vs.getD (i - c.h.eoff) 0))
  let xs := (List.range n).map at_
  if xs.all Option.isSome then some (xs.filterMap id, cs.any RingIn.bad) else none

/-- The line of a position along an axis, with the next coordinate on each ring. -/
def stepCoord (n c : Nat) (minus : Bool) : Nat := if minus then (c + n - 1) % n else (c + 1) % n

/-- The base of the ring header of an instance. -/
def ringBase (x : CollInst) (subk : Nat) : RingH :=
  { inst := x.cinst, attempt := x.attempt, subk := subk, digest := x.digest, axis := 0, gather := false, minus := false,
    round := 0, coord := 0, slice := 0, eoff := 0, ecount := 0, cw := 0, bad := false }

def optCombine (red ty : Nat) (a b : Option Nat) : Option Nat :=
  match a, b with
  | none, y => y
  | some x, none => some x
  | some x, some y => some (combine red ty x y)

/-- One half of one slice at one position in a reduce phase (R294): the accumulator after the position's
own combination, when what it awaits is there, and what it sends. -/
def reduceHalf (g : Grp) (x : CollInst) (l : Nat) (done : List Nat) (a : Nat) (i : Nat) (con : Con) (j : Nat) (minus : Bool) :
    Option (Con × List RingOut) :=
  let p := g.ofIdx i
  let n := g.ext.at_ a
  let c := p.at_ a
  let es := segElems g l x.redo done a p j minus
  if es = [] then some (⟨[], false⟩, [])
  else
    let m := (if minus then j + n - c - 1 else c + n - j - 1) % n + 1
    let before := (List.range (m - 1)).map (fun k => if minus then (j + 2 * n - (k + 1)) % n else (j + k + 1) % n)
    let prev := stepCoord n c (!minus)
    let accIn : Option (List (Option Nat) × Bool) :=
      if before.all (fun b => g.emptyAt a (p.set a b)) then some (es.map (fun _ => none), false)
      else assemble x.rx (fun r => decide (r.pos = i ∧ r.h.attempt = x.attempt ∧ r.h.subk = 0 ∧ r.h.axis = a ∧
        r.h.gather = false ∧ r.h.minus = minus ∧ r.h.round = m - 1 ∧ r.h.slice = j ∧ r.h.coord = prev)) es.length
    match accIn with
    | none => none
    | some (acc, bad) =>
      let own := es.map (fun e => match con.vals.find? (fun v => decide (v.1 = e)) with
        | some v => v.2
        | none => none)
      let out := (acc.zip own).map (fun v => optCombine x.cd.red (partTy x.cd.ity) v.1 v.2)
      let bad := bad || con.bad
      let next := stepCoord n c minus
      let sends :=
        if m < n ∧ out.any Option.isSome = true then
          match g.player (p.set a next) with
          | none => []
          | some d => [⟨d, { ringBase x 0 with axis := a, minus := minus, round := m, coord := c, slice := j, bad := bad },
              [(0, 0, out.map (fun v => v.getD 0))]⟩]
        else []
      some (⟨es.zip out, bad⟩, sends)

/-- A reduce phase at one position (R294): its result once both halves of its own slice are there, and
everything it can send. -/
def reducePhase (g : Grp) (x : CollInst) (l : Nat) (done : List Nat) (a i : Nat) (con : Con) : Option Con × List RingOut :=
  let n := g.ext.at_ a
  let c := (g.ofIdx i).at_ a
  let runs := (List.range n).flatMap (fun j => [false, true].map (fun mi => (j, reduceHalf g x l done a i con j mi)))
  let sends := runs.flatMap (fun r => match r.2 with | none => [] | some o => o.2)
  let mine := (runs.filter (fun r => decide (r.1 = c))).map Prod.snd
  if mine.all Option.isSome then
    let cs := (mine.filterMap id).map Prod.fst
    (some ⟨cs.flatMap Con.vals, cs.any Con.bad⟩, sends)
  else (none, sends)

/-- The reduce half over the axes (R293, R294), from the positions' contributions. -/
def reduceRun (g : Grp) (x : CollInst) (l : Nat) : List Nat → List Nat → List (Nat × Con) → List (Nat × Con) × List RingOut
  | _, [], cons => (cons, [])
  | done, a :: r, cons =>
    let rs := cons.map (fun c => (c.1, reducePhase g x l done a c.1 c.2))
    let sends := rs.flatMap (fun r => r.2.2)
    let nxt := rs.filterMap (fun r => r.2.1.map (fun c => (r.1, c)))
    let (fin, s2) := reduceRun g x l (done ++ [a]) r nxt
    (fin, sends ++ s2)

/-- Positions whose pieces position `p` holds once the axes `gd` have been gathered (R295). -/
def heldBy (g : Grp) (redo : Option (Nat × Nat)) (gd : List Nat) (p : Pos) : List Nat :=
  (List.range g.count).filter (fun q => inRedo redo q &&
    [0, 1, 2].all (fun b => gd.contains b || decide ((g.ofIdx q).at_ b = p.at_ b)))

/-- The two halves of an origin's holdings in a gather phase: piece, first element, number (R295). -/
def gatherCuts (len : Nat → Nat) (qs : List Nat) (minus : Bool) : List (Nat × Nat × Nat) :=
  qs.map (fun q => let h := halfOf 0 (len q) minus; (q, h.1, h.2))

/-- A half stream of an origin as it arrives at position `i` (R295): pieces with their part, check words. -/
def gatherGot (g : Grp) (x : CollInst) (subk : Nat) (len : Nat → Nat) (gd : List Nat) (a i o : Nat) (minus : Bool) :
    Option (List Piece) :=
  let p := g.ofIdx i
  let n := g.ext.at_ a
  let c := p.at_ a
  let cuts := gatherCuts len (heldBy g x.redo gd (p.set a o)) minus
  let total := (cuts.map (fun k => k.2.2)).foldl (· + ·) 0
  if total = 0 then some (cuts.map (fun k => ⟨k.1, [], 0, false⟩))
  else
    let round := if minus then (o + n - c) % n else (c + n - o) % n
    let prev := stepCoord n c (!minus)
    let want (r : RingIn) : Bool := decide (r.pos = i ∧ r.h.attempt = x.attempt ∧ r.h.subk = subk ∧ r.h.axis = a ∧
      r.h.gather = true ∧ r.h.minus = minus ∧ r.h.round = round ∧ r.h.slice = o ∧ r.h.coord = prev)
    match assemble x.rx want total with
    | none => none
    | some (vs, _) =>
      let cs := x.rx.filter want
      some ((cuts.foldl (fun (st : Nat × List Piece) k =>
        let off := st.1
        let here := cs.filter (fun r => decide (off ≤ r.h.eoff ∧ r.h.eoff < off + k.2.2))
        (off + k.2.2, st.2 ++ [⟨k.1, ((vs.drop off).take k.2.2).map (fun v => v.getD 0), ((here.map (fun r => r.h.cw)).headD 0),
          here.any RingIn.bad || ((vs.drop off).take k.2.2).any Option.isNone⟩])) (0, [])).2)

/-- A half stream to send on (R295). -/
def gatherSend (g : Grp) (x : CollInst) (subk a i o round : Nat) (minus : Bool) (ps : List Piece) : List RingOut :=
  let p := g.ofIdx i
  let n := g.ext.at_ a
  let c := p.at_ a
  match g.player (p.set a (stepCoord n c minus)) with
  | none => []
  | some d =>
    let segs := (ps.foldl (fun (st : Nat × List (Nat × Nat × List Nat)) q =>
      (st.1 + q.vals.length, if q.vals = [] then st.2 else st.2 ++ [(st.1, q.cw, q.vals)])) (0, [])).2
    if segs = [] then []
    else [⟨d, { ringBase x subk with axis := a, gather := true, minus := minus, round := round, coord := c, slice := o, bad := ps.any Piece.bad }, segs⟩]

/-- A gather phase at one position (R295). -/
def gatherPhase (g : Grp) (x : CollInst) (subk : Nat) (len : Nat → Nat) (gd : List Nat) (a i : Nat) (have_ : List Piece) :
    Option (List Piece) × List RingOut :=
  let n := g.ext.at_ a
  let c := (g.ofIdx i).at_ a
  let half (minus : Bool) : List Piece := have_.map (fun q =>
    let h := halfOf 0 q.vals.length minus
    { q with vals := (q.vals.drop h.1).take h.2 })
  let own := if 1 < n then gatherSend g x subk a i c 1 false (half false) ++ gatherSend g x subk a i c 1 true (half true) else []
  let others := (List.range n).filter (fun o => decide (o ≠ c))
  let got := others.map (fun o => (o, gatherGot g x subk len gd a i o false, gatherGot g x subk len gd a i o true))
  let fwd := got.flatMap (fun r =>
    let rp := (c + n - r.1) % n
    let rm := (r.1 + n - c) % n
    (match r.2.1 with | some ps => (if rp < n - 1 then gatherSend g x subk a i r.1 (rp + 1) false ps else []) | none => []) ++
    (match r.2.2 with | some ps => (if rm < n - 1 then gatherSend g x subk a i r.1 (rm + 1) true ps else []) | none => []))
  if got.all (fun r => r.2.1.isSome && r.2.2.isSome) then
    let join (r : Nat × Option (List Piece) × Option (List Piece)) : List Piece :=
      ((r.2.1.getD []).zip (r.2.2.getD [])).map (fun q =>
        ⟨q.1.idx, q.1.vals ++ q.2.vals, if q.1.vals = [] then q.2.cw else q.1.cw,
          q.1.bad || q.2.bad || (decide (q.1.vals ≠ [] ∧ q.2.vals ≠ []) && decide (q.1.cw ≠ q.2.cw))⟩)
    (some (have_ ++ got.flatMap join), own ++ fwd)
  else (none, own ++ fwd)

/-- The gather half over its axes (R295). -/
def gatherRun (g : Grp) (x : CollInst) (subk : Nat) (len : Nat → Nat) : List Nat → List Nat → List (Nat × List Piece) →
    List (Nat × List Piece) × List RingOut
  | _, [], hs => (hs, [])
  | gd, a :: r, hs =>
    let rs := hs.map (fun h => (h.1, gatherPhase g x subk len gd a h.1 h.2))
    let sends := rs.flatMap (fun r => r.2.2)
    let nxt := rs.filterMap (fun r => r.2.1.map (fun ps => (r.1, ps)))
    let (fin, s2) := gatherRun g x subk len (gd ++ [a]) r nxt
    (fin, sends ++ s2)

/-- Bytes of values of a type. -/
def elemBytes (ty : Nat) (vs : List Nat) : Bytes := vs.flatMap (le (tyBytes ty))

/-- One value in the output type (R282). -/
def toOut (pty oty v : Nat) : Nat :=
  if tyIsInt pty then v else if oty = 1 then roundBf16 (dec32 (BitVec.ofNat 32 v)) else v

/-- A piece of its owner, with its check word (R300). -/
def ownPiece (oty i : Nat) (vals : List Nat) (bad : Bool) : Piece := ⟨i, vals, crcN (elemBytes oty vals), bad⟩

/-- Is a held piece bad (R300)? -/
def pieceBad (oty : Nat) (q : Piece) : Bool := q.bad || decide (crcN (elemBytes oty q.vals) ≠ q.cw)

/-- The five words of the closing lap (R300). -/
def lapWords (oty : Nat) (ps : List Piece) : List Nat :=
  let s := sortBy (fun a b => decide (a.idx < b.idx)) ps
  let gw := crcN (s.flatMap (fun q => le 4 q.cw))
  let bads := (s.filter (pieceBad oty)).map Piece.idx
  [gw, gw, b2n (decide (bads ≠ [])), bads.headD 0xFFFFFFFF, bads.foldl max 0]

/-- Reductions of the closing lap's words: minimum, maximum, maximum, minimum, maximum. -/
def lapReds : List Nat := [3, 2, 2, 3, 2]

/-- What an instance lacks in its present rounds (R428): an empty, bad contribution for every awaited range. A
range that has come in part keeps its part, since the first chunk that covers an element counts. -/
def emptyIn (pos : Nat) (h : RingH) (n : Nat) : RingIn := ⟨0, pos, { h with eoff := 0, ecount := n }, none, true⟩

/-- Awaited ranges of the reduce half at the phases reached. -/
def reduceMiss (g : Grp) (x : CollInst) (l : Nat) : List Nat → List Nat → List (Nat × Con) → List RingIn
  | _, [], _ => []
  | done, a :: r, cons =>
    let n := g.ext.at_ a
    let miss := cons.flatMap (fun c =>
      let p := g.ofIdx c.1
      (List.range n).flatMap (fun j => [false, true].filterMap (fun mi =>
        if (reduceHalf g x l done a c.1 c.2 j mi).isSome then none
        else
          let m := (if mi then j + n - p.at_ a - 1 else p.at_ a + n - j - 1) % n + 1
          some (emptyIn c.1 { ringBase x 0 with axis := a, minus := mi, round := m - 1, slice := j, coord := stepCoord n (p.at_ a) (!mi) }
            (segElems g l x.redo done a p j mi).length))))
    let nxt := cons.filterMap (fun c => (reducePhase g x l done a c.1 c.2).1.map (fun k => (c.1, k)))
    miss ++ reduceMiss g x l (done ++ [a]) r nxt

/-- Awaited ranges of the gather half at the phases reached. -/
def gatherMiss (g : Grp) (x : CollInst) (subk : Nat) (len : Nat → Nat) : List Nat → List Nat → List (Nat × List Piece) → List RingIn
  | _, [], _ => []
  | gd, a :: r, hs =>
    let n := g.ext.at_ a
    let miss := hs.flatMap (fun h =>
      let p := g.ofIdx h.1
      let c := p.at_ a
      ((List.range n).filter (fun o => decide (o ≠ c))).flatMap (fun o => [false, true].filterMap (fun mi =>
        if (gatherGot g x subk len gd a h.1 o mi).isSome then none
        else
          let total := ((gatherCuts len (heldBy g x.redo gd (p.set a o)) mi).map (fun k => k.2.2)).foldl (· + ·) 0
          some (emptyIn h.1 { ringBase x subk with
            axis := a, gather := true, minus := mi, round := if mi then (o + n - c) % n else (c + n - o) % n, slice := o,
            coord := stepCoord n c (!mi) } total))))
    let nxt := hs.filterMap (fun h => (gatherPhase g x subk len gd a h.1 h.2).1.map (fun ps => (h.1, ps)))
    miss ++ gatherMiss g x subk len (gd ++ [a]) r nxt

/-- Sizes of the chunks of a segment (R297): `n` elements in `c` parts. -/
def cutCounts (n c : Nat) : List Nat := (List.range c).map (fun i => n / c + (if i < n % c then 1 else 0))

/-- Number of chunks of a segment of `b` bytes with `p` working ports (R297). -/
def cutParts (b p : Nat) : Nat := max (ceilDiv b 60352) (min p (ceilDiv b 4096))

/-- A narrow piece of the upper level (R296): bytes, in the row layout for the MX formats. -/
def narrow (upFmt : Nat) (vs : List Nat) : Bytes :=
  let ws : List W32 := vs.map (fun v => BitVec.ofNat 32 v)
  if upFmt = 0 then outRow 1 ws
  else outRow (if upFmt = 1 then 3 else 4) (ws ++ List.replicate ((32 - ws.length % 32) % 32) 0#32)

/-- FP32 values of a narrow piece of `n` elements (R296). -/
def widen (upFmt n : Nat) (bs : Bytes) : List Nat :=
  let v := if upFmt = 0 then landedVals 1 n bs else landedVals (if upFmt = 1 then 3 else 4) (roundUp 32 n) bs
  (v.take n).map (fun x => (round32 x).toNat)

end Sys2Proof.Machine
end

