-- ==== Sys2Proof/Machine/StateStep.lean ====
section
/-! DEFINITION. State of the contexts (R374, R375) and of the running step. Plain data. -/

namespace Sys2Proof.Machine

/-- States of a context's step cycle (R104). -/
inductive CState where
  | disabled
  | asking
  | waiting
  | ready
  | fetching
  | running
  | stopped
  deriving DecidableEq, Repr, Inhabited

/-- The ask of a context (R123 to R127). -/
structure AskSt where
  /-- the query record whose write response is awaited: its kind, 0 for none -/
  pend : Nat := 0
  /-- a deadline or re-read tick is set -/
  set_ : Bool := false
  /-- elapsed tick of the deadline, or of the re-read tick when `abs` is false -/
  due : Nat := 0
  /-- the re-read tick stands in the counter's ticks (R127) -/
  abs : Bool := false
  /-- elapsed tick at which the deadline or re-read tick came; grace runs from it (R126) -/
  came : Option Nat := none
  /-- an answer read is in flight -/
  reading : Bool := false
  /-- elapsed tick of the next retry (R126) -/
  retry : Nat := 0
  /-- revision of the wait answer taken for this query -/
  rev : Option Nat := none
  /-- previous-answer-late flag for the next record (R126) -/
  late : Bool := false
  deriving DecidableEq, Repr, Inhabited

/-- The go answer taken (R113, R124, R127). -/
structure GoAns where
  desc : Nat := 0
  lead : Nat := 0
  at_ : Nat := 0
  /-- counter tick at which it was taken -/
  taken : Nat := 0
  deriving DecidableEq, Repr, Inhabited

/-- A layer-directory entry (R146). -/
structure LDir where
  lfmt : Nat := 0
  exitHead : Bool := false
  pin : Bool := false
  nExp : Nat := 0
  d32 : Nat := 0
  waddr : Nat := 0
  saddr : Nat := 0
  icheck : Nat := 0
  deriving DecidableEq, Repr, Inhabited

/-- What a step binds to at its acceptance (R98, R117, R175, R178, R180, R347, R442). -/
structure Bind where
  mver : Nat := 0
  tver : Nat := 0
  wver : Nat := 0
  /-- group word sampled (R279) and the membership table of the bound version -/
  word : Nat := 0
  tab : Table Nat := []
  dir : LDir := {}
  /-- changes of the model's residency when its directory was read (R144) -/
  gen : Nat := 0
  table : LTable := default
  bias : List W32 := []
  /-- the model is owned (R346), and its learning record (R347 to R349) -/
  owned : Bool := false
  learn : Option LearnRec := none
  /-- the learning record of the step's model, for `bal` and kind 4: its state at acceptance -/
  bal : Option BalState := none
  /-- affinity table base and order, window counts in use (R309, R311) -/
  aff : Nat := 0
  /-- source index and members of the group (R189, R277) -/
  idx : Nat := 0
  mem : List Nat := []
  /-- members that were not lost at the acceptance: chips that slots may resolve to (R175, R435) -/
  serve : List Nat := []
  /-- sequence number of the query whose answer launched the step (R181, R241) -/
  seq : Nat := 0
  deriving DecidableEq, Repr, Inhabited

/-- What a step samples at its acceptance (R498). -/
structure Samp where
  strict : Bool := false
  w1 : Bool := false
  exitZero : Bool := false
  nSh : Nat := 0
  ec : Bool := false
  ecForced : Bool := false
  /-- SPC_CTL -/
  spc : Nat := 0
  listCap : Nat := 0
  plock : Bool := false
  quant : Nat := 0
  rec_ : Bool := false
  dig : Bool := false
  capRes : Nat := 0
  deriving DecidableEq, Repr, Inhabited

/-- A chain of a step (R121, R269). `st`: 0 armed, 1 fired, 2 running, 3 complete. -/
structure Chn where
  c : Chain
  st : Nat := 0
  /-- bytes still awaited, or the resends made of a cue (R427) -/
  left : Nat := 0
  at_ : Nat := 0
  /-- group word sampled as it fired (R279) -/
  word : Nat := 0
  deriving DecidableEq, Repr, Inhabited

/-- A token in the margin guard (R160 to R169). `ph`: 0 not scored, 1 awaits a full recheck, 2 awaits its
targeted pairs, 3 awaits the pairs of its chosen set, 4 decided, 5 scored, its column test to come (R164). -/
structure TokSt where
  ph : Nat := 0
  /-- gather pairs awaited -/
  left : Nat := 0
  /-- every column's reference score is known -/
  full : Bool := false
  /-- chosen set, overflow candidates in order -/
  set_ : List Nat := []
  cands : List Nat := []
  /-- columns of a targeted recheck -/
  amb : List Nat := []
  tr : TokR := tokR0
  deriving DecidableEq, Repr, Inhabited

/-- A recheck job (R168): the full-recheck tokens of a token group, next slice of each column group. -/
structure RJob where
  id : Nat
  g : Nat
  toks : List Nat
  next : Table Nat
  deriving DecidableEq, Repr, Inhabited

/-- A (token, column) pair of a gather tile; `why`: 0 chosen, 1 overflow candidate, 2 targeted. -/
structure GPair where
  t : Nat
  j : Nat
  why : Nat
  deriving DecidableEq, Repr, Inhabited

/-- A gather tile (R168) and its next slice. -/
structure GJob where
  id : Nat
  pairs : List GPair
  next : Nat
  deriving DecidableEq, Repr, Inhabited

/-- Scoring of a step (R136 to R170). -/
structure Score where
  /-- exit mask at launch and with the new exits (R120, R184) -/
  mask0 : Bytes := []
  mask : Bytes := []
  /-- sequence identifiers of the decode tokens (R120) -/
  seqs : List Nat := []
  /-- scored tokens in ascending index -/
  toks : List Nat := []
  /-- rows as delivered, by part; tokens whose delivered row staging does not hold; those whose row is being reread (R136) -/
  rows : Table Bytes := []
  away : List Nat := []
  want : List Nat := []
  grads : Table Bytes := []
  acc : Table Acc := []
  /-- reference accumulators by token and column -/
  racc : Table W32 := []
  /-- slices completed, by token group and column group; slices running -/
  done : Table Nat := []
  st : Table TokSt := []
  rjobs : List RJob := []
  gjobs : List GJob := []
  pairs : List GPair := []
  /-- number of the next recheck or gather job; pitches on which ordinary tiles, and recheck and gather tiles,
  run streamed (R152) -/
  nextJob : Nat := 0
  stream : List Nat := []
  /-- the step's first tile has started (R151) -/
  tiled : Bool := false
  streamSh : List Nat := []
  /-- token groups whose tests have been made; the tests of expert choice have been made (R164) -/
  tested : List Nat := []
  nonfin : Nat := 0
  inf : Nat := 0
  deriving DecidableEq, Repr, Inhabited

/-- A send-list entry's life: `snt` sent, `chunk` its chunk, `ret` its return landed. -/
structure SendSt where
  e : SendE
  snt : Bool := false
  /-- its next chunk is a resend (R247, R425) -/
  again : Bool := false
  /-- that resend goes to the slot's shadow (R247) -/
  moved : Bool := false
  chunk : Nat := 0
  ret : Bool := false
  resends : Nat := 0
  deriving DecidableEq, Repr, Inhabited

/-- Routing of a step (R183 to R201, R223 to R232). -/
structure Route where
  hdr : Bool := false
  n : Nat := 0
  t : Nat := 0
  /-- this source's own share of `t` -/
  own : Nat := 0
  /-- demand of this source, and what the count exchange brings, by expert -/
  dmd : Table Nat := []
  dtot : Table Nat := []
  wpre : Table Nat := []
  counts : Bool := false
  used : Table Nat := []
  /-- expert choice: the column tests are made -/
  ecTest : Bool := false
  alloc : Bool := false
  /-- per-slot counts and first rows (R226) -/
  cnt : Table Nat := []
  first : Table Nat := []
  /-- send list in order (R227) -/
  list : List SendSt := []
  /-- entries that staging holds, when the list spills; 4 KiB parts of the rest asked for, and read back (R244) -/
  staged : Option Nat := none
  asked : List Nat := []
  back : List Nat := []
  /-- copies sent whose return has not arrived (R237) -/
  outst : Nat := 0
  /-- learning ledger of kind 3: token records (R340) -/
  ledger : List (Nat × Bool × TokR) := []
  untaken : Nat := 0
  deriving DecidableEq, Repr, Inhabited

/-- A record landed at its destination and not delivered (R261). -/
structure LandRec where
  slot : Nat
  row : Nat
  tag : Nat
  bytes : Bytes
  back : Bool
  fmt : Nat
  at_ : Nat
  steep : Bool := false
  /-- pitch that holds it -/
  pitch : Nat := 0
  deriving DecidableEq, Repr, Inhabited

/-- The destination's part of a step (R230, R259 to R262). -/
structure Dest where
  /-- the route counts are in; copies that they lead this chip to expect -/
  known : Bool := false
  total : Nat := 0
  /-- copies landed -/
  landed : Nat := 0
  /-- copies that arrive in stages X and Y, by the sender's ring coordinate, this chip's own in its place; records of
  turning chunks placed so far, by 16 times the stage plus the sender's coordinate (R231) -/
  layX : List Nat := []
  layY : List Nat := []
  placed : Table Nat := []
  /-- landed records not yet delivered -/
  recs : List LandRec := []
  /-- (slot, row) pairs already landed -/
  seen : List (Nat × Nat) := []
  /-- source, token and slot of the confirmed copies landed that did not overflow (R318) -/
  served : List (Nat × Nat × Nat) := []
  /-- confirmed copies landed and not answered, by tag without its check (R262) -/
  owed : List Nat := []
  /-- slots, with 4,096 added for steeped batches, whose next batch waits for its expert's entry (R442): one more than
  the address that is being read -/
  chk : Table Nat := []
  complete : Bool := false
  deriving DecidableEq, Repr, Inhabited

/-- A cue of a step or of a chain (R263, R427). -/
structure CueSt where
  id : Nat := 0
  sent : Bool := false
  done : Bool := false
  at_ : Nat := 0
  resends : Nat := 0
  word : Bytes := []
  point : Nat := 0
  /-- an inbound packet was discarded since the cue (R427) -/
  disc : Bool := false
  deriving DecidableEq, Repr, Inhabited

/-- The Pour unit's part of a step (R323 to R343). -/
structure PourSt where
  /-- landed return rows, by token * 8 + rank - 1 -/
  rows : Table Bytes := []
  /-- shared rows, by token * 8 + i -/
  shared : Table Bytes := []
  /-- landing slots that have spilled to the pour region; those asked for again, and read back (R327) -/
  spilled : List Nat := []
  asked : List Nat := []
  back : List Nat := []
  shIn : Nat := 0
  shAt : Nat := 0
  cue : CueSt := {}
  /-- tokens combined -/
  comb : List Nat := []
  /-- score gradients by token, of a gradient accumulation (R361) -/
  gs : Table (List W32) := []
  /-- what the end of the step has written back: 0 nothing, 1 all but what goes last, 2 all of it -/
  wrote : Nat := 0
  deriving DecidableEq, Repr, Inhabited

/-- Weights-to-tokens and steeping of a step. -/
structure Extra where
  w2t : Bool := false
  /-- size of the cache, where the count exchange completed with the cases of R264 but the cache's room -/
  want : Option Nat := none
  /-- experts whose weights are needed, those sent to the host cores, as (owner, local index) -/
  need : List (Nat × Nat) := []
  have_ : List (Nat × Nat) := []
  /-- tokens steeped; steeped copies sent, by expert; their link flits, by token (R308, R314) -/
  steeped : List Nat := []
  /-- steeped copies predicted and not formed yet, in order: token, place in its prediction, expert, slot (R310) -/
  spend : List (Nat × Nat × Nat × Nat) := []
  quota : Table Nat := []
  flits : Table Nat := []
  /-- images, by place in `need`, whose parts are being read for the host cores -/
  tiles : Table Nat := []
  deriving DecidableEq, Repr, Inhabited

/-- Counts and times of a step (R123, R392, R509). -/
structure Cnts where
  ovr : Nat := 0
  drop : Nat := 0
  exits : Nat := 0
  skips : Nat := 0
  rchk : Nat := 0
  tgt : Nat := 0
  qflags : Nat := 0
  tLaunch : Nat := 0
  /-- elapsed tick of the launch; ticks that other contexts caused (R392) -/
  elLaunch : Nat := 0
  tOther : Nat := 0
  /-- elapsed tick of the last progress, and `tOther` then (R509) -/
  prog : Nat := 0
  progOther : Nat := 0
  /-- elapsed tick since which nothing has arrived (R425), since which only chains that have not fired are incomplete (R121) -/
  quiet : Nat := 0
  rest : Option Nat := none
  replays : Nat := 0
  /-- tick from which the step is complete but for the quantum of R410 -/
  whole : Option Nat := none
  deriving DecidableEq, Repr, Inhabited

/-- Values of a context as they stood at its step's acceptance (R449): vtime, accounting counters, SLOW_AVG, AFF_OBS, the words of
its page that a snapshot records. -/
structure AtAccept where
  v : Nat := 0
  acct : Table Nat := []
  slowAvg : Nat := 0
  affObs : Nat := 0
  regs : List Nat := []
  deriving DecidableEq, Repr, Inhabited

/-- The running step. -/
structure Step where
  desc : Desc
  epoch : Nat
  raw : Bytes := []
  bind : Bind := {}
  samp : Samp := {}
  chains : List Chn := []
  launched : Bool := false
  cancelled : Bool := false
  /-- its done or cancelled record has been requested -/
  ended : Bool := false
  frame : Option Nat := none
  evicted : Bool := false
  /-- the victim gives up its frame once its tiles complete (R384) -/
  leaving : Bool := false
  /-- its switch is not complete; the context that gave up the frame (R386) -/
  moving : Bool := false
  victim : Nat := 0
  /-- elapsed tick at which the switch of its frame ends (R386) -/
  swEnd : Nat := 0
  sc : Score := {}
  rt : Route := {}
  dst : Dest := {}
  por : PourSt := {}
  ext : Extra := {}
  cnt : Cnts := {}
  insts : List CollInst := []
  doneInsts : List Nat := []
  /-- atom of an instance that joins another's, by cinst, and the open atoms, each named by its first instance (R284) -/
  atoms : Table Nat := []
  openAtoms : List Nat := []
  /-- the chain collective issued last (R284) -/
  prevColl : Option Nat := none
  /-- writes that go last, with address and bytes (R241, R338, R358, R365); a placement proposal is among them -/
  last : List (MemUnit × Nat × Bytes) := []
  prop : Bool := false
  /-- its query record, once requested, and the digests of R418 but the last -/
  qrec : Option Query := none
  digs : List Nat := [0, 0, 0]
  at_ : AtAccept := {}
  deriving DecidableEq, Repr, Inhabited

/-- An image in a context's weights-to-tokens cache (R265), or on its way. -/
structure W2tE where
  model : Nat
  layer : Nat
  owner : Nat
  loc : Nat
  wver : Nat
  off : Nat
  len : Nat
  got : Nat := 0
  used : Nat := 0
  deriving DecidableEq, Repr, Inhabited

/-- A context (R374). Page registers without a field here stand in the register file. -/
structure Ctx where
  enable : Bool := false
  tdown : Bool := false
  /-- CTL.MODE: real-time -/
  rt : Bool := false
  tent : Nat := 0
  fault : Nat := 0
  st : CState := .disabled
  ask : AskSt := {}
  go : GoAns := {}
  /-- count of the steps accepted since the enable (R10) -/
  seqNo : Nat := 0
  /-- EPOCH of STS -/
  epoch : Nat := 0
  /-- visit and launch ticks of the step being fetched or running (R114) -/
  visit : Nat := 0
  launch : Nat := 0
  /-- pin word of the visit, 4 for a share-based one (R115); the frame taken at the visit (R380) -/
  pin : Nat := 4
  vframe : Option Nat := none
  /-- tag key (R235) -/
  key : BitVec 64 := 0#64
  tracked : List Nat := []
  cancelled : List Nat := []
  counters : Table Nat := []
  v : Nat := 0
  /-- ENG_TIME, BYTES_C0 to BYTES_C3, BYTES_CORE, and the energy in femtojoules (R390, R391) -/
  acct : Table Nat := []
  slowNow : Nat := 256
  slowAvg : Nat := 256
  slowSet : Bool := false
  /-- a teardown of the context has run since its last enable (R398) -/
  torn : Bool := false
  missed : Nat := 0
  tagFail : Nat := 0
  tagTimes : List Nat := []
  affObs : Nat := 0
  /-- a cancel held for the step's acceptance or its atom (R393) -/
  heldCancel : Bool := false
  /-- that cancel has been counted as one that waits for the drain table (R240) -/
  waitDrain : Bool := false
  /-- epoch, model and layer of the last two steps accepted (R265) -/
  past : List (Nat × Nat × Nat) := []
  /-- the teardown or disable waits for its cancel done -/
  downWait : Bool := false
  /-- its descriptor has passed every check and waits for a free epoch (R117) -/
  waitEpoch : Bool := false
  /-- members of the group of the last step accepted (R437) -/
  lastMem : List Nat := []
  /-- weights-to-tokens cache (R265) -/
  w2t : List W2tE := []
  /-- the step whose descriptor has passed the checks and that waits for its acceptance (R116, R117) -/
  cand : Option Step := none
  step : Option Step := none
  deriving DecidableEq, Repr, Inhabited

end Sys2Proof.Machine
end

