-- ==== Sys2Proof/Machine/StateUnits.lean ====
section
/-! DEFINITION. State of the block-wide units beside the steps: the header's identity of the chip, rota,
tents and frames, table sets, drain table, Infuser, snapshots, record log. Plain data. -/

namespace Sys2Proof.Machine

/-- Identity of the block and chip (GLB_SHAPE, GLB_CHIP, GLB_TORUS: R517, R520). -/
structure Glb where
  /-- bit p: pitch p exists in the grade -/
  present : Nat
  anchor : Nat
  chip : Nat
  pos : Nat
  /-- torus sizes, 1 to 16 -/
  nx : Nat
  ny : Nat
  nz : Nat
  deriving DecidableEq, Repr, Inhabited

/-- The step rota and visits (R107 to R115). The copies' slot words are registers. -/
structure Stp where
  /-- live copy: false A, true B -/
  live : Bool := false
  armed : Bool := false
  at_ : Nat := 0
  /-- descriptor fetches due and not begun, in the order of R115 -/
  fetchq : List Nat := []
  deriving DecidableEq, Repr, Inhabited

/-- A tile in progress on a logical core (R140, R168). `kind`: 0 ordinary, 1 recheck, 2 gather, 3 gradient
or update. -/
structure Run where
  busy : Bool := false
  ctx : Nat := 0
  epoch : Nat := 0
  kind : Nat := 0
  g : Nat := 0
  c : Nat := 0
  s : Nat := 0
  start : Nat := 0
  /-- number of the tile; it reads its lines from host memory (R152); its lines for the first block have not arrived -/
  id : Nat := 0
  str : Bool := false
  wait : Bool := false
  deriving DecidableEq, Repr, Inhabited

/-- A scoring image in a pitch's Caddy, or on its way (R149 to R151). -/
structure Img where
  /-- number of the present load -/
  id : Nat
  pitch : Nat
  addr : Nat
  /-- format, columns and depth of the image (R148); a shadow image carries no icheck -/
  lfmt : Nat
  cols : Nat
  d32 : Nat
  icheck : Nat
  shadow : Bool
  pin : Bool
  usable : Bool := false
  /-- loads made -/
  tries : Nat := 1
  /-- context whose requests load it -/
  loader : Nat := 0
  bytes : Bytes := []
  /-- contexts whose step holds it, from the step's first tile to its last (R151) -/
  held : List Nat := []
  used : Nat := 0
  deriving DecidableEq, Repr, Inhabited

/-- A copy of a layer table in a pitch's table region, tagged with its version (R178). -/
structure Tab where
  pitch : Nat
  model : Nat
  layer : Nat
  ver : Nat
  table : LTable
  /-- contexts whose step holds it -/
  held : List Nat := []
  used : Nat := 0
  deriving DecidableEq, Repr, Inhabited

/-- The Kettle cores and the Caddy. -/
structure Ktl where
  cores : Table Run := []
  imgs : List Img := []
  nextImg : Nat := 0
  nextTile : Nat := 0
  tabs : List Tab := []
  /-- Caddy banks of a pitch lost to exhausted spares (R33, R152) -/
  lostBanks : Table Nat := []
  /-- logical cores with no physical core (R23, R31) -/
  gone : List Nat := []
  /-- spare lane in use of the physical core behind a logical core (R31, R32) -/
  lanes : Table Nat := []
  /-- changes of a model's residency (R144) -/
  gens : Table Nat := []
  deriving DecidableEq, Repr, Inhabited

/-- A staged version to go live at a tick (R98, R176, R370, R441). -/
structure Stage where
  armed : Bool := false
  at_ : Nat := 0
  ver : Nat := 0
  addr : Nat := 0
  deriving DecidableEq, Repr, Inhabited

/-- Routing-table sets (R172 to R178): the live directory and version, the staged one. -/
structure Stn where
  ver : Nat := 0
  dir : Nat := 0
  stage : Stage := {}
  deriving DecidableEq, Repr, Inhabited

/-- A drain-table entry (R240): copies of a cancelled epoch that are still out, as (token, rank), and
those that have come back. -/
structure DrainE where
  ctx : Nat
  epoch : Nat
  left : List (Nat × Nat)
  at_ : Nat
  /-- row width of the cancelled step (R325) -/
  d : Nat := 0
  deriving DecidableEq, Repr, Inhabited

/-- Messages kept for instances not yet issued (R287), each with the residue failures that its combine will meet (R289,
R299). -/
structure Col where
  kept : List (Short × Nat) := []
  keptRing : List (Landed × Nat) := []
  deriving DecidableEq, Repr, Inhabited

/-- A pending router switch (R370) or expert weight switch (R441). -/
structure Switch where
  model : Nat := 0
  at_ : Nat := 0
  base : Nat := 0
  ldir : Nat := 0
  ver : Nat := 0
  deriving DecidableEq, Repr, Inhabited

/-- The Balancer's switches. `old`: contexts with a step accepted before the switch (R370). -/
structure Bal where
  rsw : Option Switch := none
  old : List Nat := []
  deriving DecidableEq, Repr, Inhabited

/-- An Infuser copy (R366, R444). `left`: bytes of a router copy without their write response; `ents`: for each entry
of an expert copy the bytes without one, and the address of its version word; `layers`: the layer of each piece of a
router copy, in order of reading. -/
structure Infu where
  busy : Bool := false
  dchip : Nat := 0
  ver : Nat := 0
  left : Nat := 0
  ents : List (Nat × Nat) := []
  /-- entries completed (RSL_EINF_STS) -/
  entry : Nat := 0
  layers : List Nat := []
  at_ : Nat := 0
  deriving DecidableEq, Repr, Inhabited

/-- A snapshot in progress (R446 to R451). `phase`: 1 its slot's Cairn is cleared, 2 sections, 3 Cairn. `out`: chunks
without their completion. -/
structure Snap where
  busy : Bool := false
  gen : Nat := 0
  slot : Nat := 0
  /-- the block and context sections, and the Cairn, as held at T_s (R449) -/
  block : Bytes := []
  ctxs : Bytes := []
  cairn : Bytes := []
  out : Nat := 0
  at_ : Nat := 0
  phase : Nat := 0
  deriving DecidableEq, Repr, Inhabited

/-- Resilience: expert weight switch, copies, snapshot, detections of the window. -/
structure Rsl where
  wsw : Option Switch := none
  wswOld : List Nat := []
  einf : Infu := {}
  rinf : Infu := {}
  snap : Snap := {}
  /-- detections of the advice window; advice given in it -/
  det : Nat := 0
  advised : Bool := false
  /-- elapsed tick at which the advice window began (R446) -/
  winAt : Nat := 0
  /-- advice with RSL_CKPT_CTL.ARM set has yet to start its snapshot (R446) -/
  advGo : Bool := false
  deriving DecidableEq, Repr, Inhabited

/-- The record log (R414 to R418). -/
structure Det where
  /-- DET_REC_HEAD, the next entry's number -/
  head : Nat := 0
  num : Nat := 0
  /-- recording stopped on a full log; entries were lost since the last one -/
  full : Bool := false
  lost : Bool := false
  deriving DecidableEq, Repr, Inhabited

/-- A held entry of the steep hold (R317 to R319). -/
structure HoldE where
  ctx : Nat
  epoch : Nat
  rec_ : LandRec
  src : Nat
  /-- 0 landed, 1 delivered, 2 answered, 3 matched -/
  st : Nat := 0
  /-- the held answer: its row, and its packet's format and kind (R318, R325) -/
  ans : Bytes := []
  afmt : Nat := 0
  aback : Bool := false
  /-- the confirmed copy that matched, and its tag -/
  tag : Nat := 0
  conf : Option LandRec := none
  at_ : Nat
  /-- bulk beats of the packets that carried the entry and its answer, and lines read for its batch (R442), not charged
  yet (R308) -/
  work : Nat := 0
  lines : Nat := 0
  deriving DecidableEq, Repr, Inhabited

end Sys2Proof.Machine
end

