-- ==== Sys2Proof/Machine/State.lean ====
section
/-! DEFINITION. The state of the block, the reasons a step can stop, and the state after reset. -/

namespace Sys2Proof.Machine

/-- Reasons for a stop by fault. The spec makes every failure of this block an effect on its state, so
no meaning raises one; the type is here because the interface names it. -/
inductive Fault where
  /-- Raised by no meaning. Safe: a stop claims nothing about the hardware. -/
  | unreachable
  deriving DecidableEq, Repr, Inhabited

/-- Reasons for a refusal. -/
inductive Refusal where
  /-- Raised by `exec` for a command that has no meaning yet. Safe: nothing is claimed of it. -/
  | notModelled (mnemonic : String)
  deriving DecidableEq, Repr, Inhabited

/-- The machine. -/
structure State where
  /-- commands waiting, first in first out (the model's own field) -/
  pending : List Instr
  /-- stored register fields by byte address; a missing entry reads as `resetWord` -/
  regs : Table Nat
  glb : Glb
  clk : Clk
  ctl : Ctl
  lnt : Lnt
  start : StartSt
  pitches : List Pitch
  mem : Mem
  core : CoreSt
  links : Links
  guys : Guys
  memb : Memb
  stp : Stp
  fnc : Fnc
  xch : Xch
  ctxs : Table Ctx
  ktl : Ktl
  stn : Stn
  drain : List DrainE
  col : Col
  hold : List HoldE
  bal : Bal
  rsl : Rsl
  det : Det
  /-- free values drawn so far (the model's own field, log entry 3) -/
  free : Nat
  deriving DecidableEq, Repr

def Pitch.reset : Pitch :=
  { tick := 0#64, held := true, lost := false, iLim := 0, est := 0, win := 0, cap := 0, droop := false,
    hot := false, offOk := false, locked := false }

def MemCh.reset : MemCh :=
  { iso := true, down := false, lowAt := 0, rd := 0, wr := 0, out := [], quar := [], proto := [], nextTag := 0 }

def CorePt.reset : CorePt := { iso := true, down := false, lowAt := 0, pend := [] }

def StartSt.reset : StartSt :=
  { phase := .idle, part := 0, tested := 0, failed := 0, rounds := [], code := 0, fails := 0, reason := 0,
    note := 0, failAt := 0, image := none, record := none, lock := false, started := 0, shut := 0,
    shutPitch := 0, shutFailed := 0, shutDone := 0, hrFail := false, hrTries := 0, scan := false,
    keysCleared := false, stopped := false }

/-- A link port after reset: not connected, every number and credit zero (R71, R91). -/
def Port.reset : Port :=
  { st := 0, phy := false, phyAt := 0, en := false, iso := true, steer := 31, tx := 0, rx := 0, retry := [],
    rs := none, sentAt := 0, nakDue := false, nakSent := false, ackDue := false, credit := List.replicate 7 0,
    owed := List.replicate 7 0, crNext := 0, queue := List.replicate 7 [], ready := List.replicate 7 0,
    arbVc := 0, arbUsed := 0, helloDue := false, helloGot := false, helloAt := 0, ackAt := 0, resTimes := [],
    protoTimes := [], peer := none, restricted := false, wasUp := false, failAt := 0 }

/-- A context that no register or command has touched (R104, R375, R525). -/
def Ctx.reset : Ctx := {}

/-- The block after the reset of its pitches and before a start (R71, R478): every register at its
Reset column, fields that the image sets at the defaults of R520 (log entry 5), the internal state
empty (log entry 6), four pitches present (log entry 9). -/
def State.reset : State :=
  { pending := []
    regs := []
    glb := { present := 15, anchor := 0, chip := 0, pos := 0, nx := 1, ny := 1, nz := 1 }
    clk := { el := 0, lost := false, load := none }
    ctl := { rdata := 0#32, rpar := 0#4, err := false, latch := [] }
    lnt := {}
    start := StartSt.reset
    pitches := List.replicate 4 Pitch.reset
    mem := { wait := [], chs := List.replicate 16 MemCh.reset, done := [] }
    core := { pts := List.replicate 32 CorePt.reset, sent := [], nextCancel := 1, cancels := [], nextPoint := 0 }
    links := { ports := List.replicate 72 Port.reset, tab := [], parts := [], wire := [] }
    guys := {}
    memb := { live := [(0, 4096)], ver := 0, staged := [], sver := 0, at_ := 0, armed := false, prev := [],
              goneLive := 0, lost := [] }
    stp := {}
    fnc := { buf := [], pend := none, sent := [] }
    xch := { table := [], nextChunk := 0, pool := [], nextSlot := 0, inbox := [], shorts := [], notices := [],
             pend := [], retq := [], xfers := [] }
    ctxs := []
    ktl := {}
    stn := {}
    drain := []
    col := {}
    hold := []
    bal := {}
    rsl := {}
    det := {}
    free := 0 }

end Sys2Proof.Machine
end

