-- ==== Sys2Proof/Machine/Flags.lean ====
section
/-! DEFINITION. Register fields, counters and status flags: reading and writing the stored fields,
counting with and without saturation (R515), notice bits (R66), lost and level flags of the Lantern
queue (R465, R467). -/

namespace Sys2Proof.Machine

/-- Stored fields of the register at byte address `a`. -/
def State.rd (s : State) (a : Nat) : Nat := tget (resetWord a) s.regs a

/-- Store the fields of the register at byte address `a`; a register has 32 bits (R60). -/
def State.wr (s : State) (a v : Nat) : State := { s with regs := tput (resetWord a) a (v % 2 ^ 32) s.regs }

/-- `v` with its field of `w` bits at `lo` set to `x`. -/
def setField (v lo w x : Nat) : Nat := v - bits v lo w * 2 ^ lo + x % 2 ^ w * 2 ^ lo

def State.rdF (s : State) (a lo w : Nat) : Nat := bits (s.rd a) lo w

def State.wrF (s : State) (a lo w x : Nat) : State := s.wr a (setField (s.rd a) lo w x)

/-- The 64-bit value of a register pair, low word at `a`. -/
def State.rd2 (s : State) (a : Nat) : Nat := s.rd a + s.rd (a + 4) * 2 ^ 32

/-- Write both words of a register pair. -/
def State.wr2 (s : State) (a v : Nat) : State := (s.wr a (v % 2 ^ 32)).wr (a + 4) (v / 2 ^ 32 % 2 ^ 32)

/-- A counter register that wraps at 2^32 (R515). -/
def State.count (s : State) (a n : Nat) : State := s.wr a ((s.rd a + n) % 2 ^ 32)

/-- A counter field that saturates (R515). -/
def State.countSat (s : State) (a lo w n : Nat) : State := s.wrF a lo w (satAdd w (s.rdF a lo w) n)

/-- Set one bit of a register. -/
def State.setBit (s : State) (a i : Nat) : State := s.wrF a i 1 1

/-- Set status bit `i` of GLB_NOTICE_STS (R66). -/
def State.notice (s : State) (i : Nat) : State := s.setBit 0x20 i

/-- The line ntc[i] (R66); low while the port is in reset (R71) and in a block that has stopped. -/
def State.ntc (s : State) (i : Nat) : Bool :=
  bit (s.rd 0x20) i && bit (s.rd 0x24) i && decide (s.start.phase ≠ .idle) && !s.start.stopped

/-- Count an entry of level `l` as lost (R465). -/
def State.lntLost (s : State) (l n : Nat) : State := s.countSat (0xB0020 + 4 * (l / 2 % 2)) (16 * (l % 2)) 16 n

/-- The count rose to the level (R467). -/
def State.lntCross (s : State) : State := ((s.setBit 0xB001C 0).notice 0).count 0xB0028 1

/-- The value at `a`, or `lo` when it is smaller ("values below count as"). -/
def State.rdMin (s : State) (a lo : Nat) : Nat := max lo (s.rd a)

end Sys2Proof.Machine
end

