-- ==== Sys2Proof/Machine/Ops.lean ====
section
/-! DEFINITION. Shared operations: contexts and steps by number, ticks, the Lantern queue and its Bivouac
(R454 to R467), memory requests (R46 to R53), core-port output (R54, R59), accounting (R390, R391),
isolation (R43, R71). -/

namespace Sys2Proof.Machine

/-- Context `c`. -/
def State.ctx (s : State) (c : Nat) : Ctx := tget Ctx.reset s.ctxs c

def State.modCtx (s : State) (c : Nat) (f : Ctx → Ctx) : State := { s with ctxs := tmod Ctx.reset c f s.ctxs }

/-- Change the running step of context `c`. -/
def State.modStep (s : State) (c : Nat) (f : Step → Step) : State :=
  s.modCtx c (fun x => { x with step := x.step.map f })

/-- The running step of context `c`, when it has one. -/
def State.step? (s : State) (c : Nat) : Option Step := (s.ctx c).step

/-- The step has had a replay, resend or recomputation: qflags bit 6 (R432). -/
def Step.redone (st : Step) : Step := { st with cnt := { st.cnt with qflags := st.cnt.qflags ||| 64 } }

/-- A context is active while ENABLE is one and TDOWN zero (R58). -/
def Ctx.active (x : Ctx) : Bool := x.enable && !x.tdown

/-- Byte address of a register of a context page (R514). -/
def pageAt (c off : Nat) : Nat := pageBase + c * 0x1000 + off

def State.page (s : State) (c off : Nat) : Nat := s.rd (pageAt c off)

def State.page2 (s : State) (c off : Nat) : Nat := s.rd2 (pageAt c off)

def State.pitch (s : State) (p : Nat) : Pitch := s.pitches.getD p Pitch.reset

def State.modPitch (s : State) (p : Nat) (f : Pitch → Pitch) : State :=
  { s with pitches := lset p (f (s.pitch p)) s.pitches }

/-- Tick counter of the anchor pitch (R22, R517). -/
def State.now (s : State) : Nat := (s.pitch s.glb.anchor).tick.toNat

/-- Elapsed ticks, the measure of every timer. -/
def State.el (s : State) : Nat := s.clk.el

/-- A pitch that exists, has started and is not held (R23, R431). -/
def State.pitchUp (s : State) (p : Nat) : Bool :=
  bit s.glb.present p && bit s.start.started p && !(s.pitch p).held

def State.pitchesUp (s : State) : List Nat := (List.range 4).filter s.pitchUp

/-- A pitch that runs: started, or the anchor in minimal mode (R483). -/
def State.pitchLive (s : State) (p : Nat) : Bool := s.pitchUp p || (decide (s.start.phase = .minimal) && decide (s.glb.anchor = p))

/-- The block works: started, not in minimal mode, not shut down, stopped or shifted (R470, R485, R489). -/
def State.on (s : State) : Bool :=
  decide (s.start.phase = .done) && decide (s.start.shut = 0 ∨ s.start.shut = 4) && !s.start.stopped && !s.start.scan

/-- The block can run a command at all (R470, R489). -/
def State.alive (s : State) : Bool := !s.start.stopped && !s.start.scan

/-- The own position on the torus (R475). -/
def State.own (s : State) : Pos := entPos s.glb.pos

def State.torus (s : State) : Pos := ⟨s.glb.nx, s.glb.ny, s.glb.nz⟩

/- Lantern queue -/

/-- Level of an event kind (R461). -/
def kindLevel (k : Nat) : Nat :=
  if [0x03, 0x08, 0x0C, 0x0D, 0x11, 0x14, 0x25, 0x30, 0x42, 0x51, 0x53].contains k then 0
  else if [0x01, 0x07, 0x0A, 0x10, 0x12, 0x20, 0x21, 0x22, 0x23, 0x31, 0x33, 0x40, 0x43, 0x44, 0x50].contains k
  then 1
  else if [0x04, 0x05, 0x06, 0x09, 0x0B, 0x13, 0x41, 0x52].contains k then 2
  else 3

/-- The stored words of an entry (R460); V, PRI, POISON and PEND are not stored. -/
def entryWords (kind pitch ctx a b tick : Nat) : List Nat :=
  [kind % 256 * 2 ^ 16 + pitch % 4 * 2 ^ 14 + ctx % 4096, a % 2 ^ 32, tick % 2 ^ 32,
   b % 65536 * 2 ^ 16 + tick / 2 ^ 32 % 65536]

/-- Bivouac entries by LNT_BIV.ORDER (R456). -/
def State.bivOrder (s : State) : Nat := s.rdF 0xB0030 0 5

def State.bivSize (s : State) : Nat := if s.lnt.biv then 2 ^ s.bivOrder else 0

/-- Capacity of the queue (R456). -/
def State.lntCap (s : State) : Nat := 128 + s.bivSize

def LEntry.inBiv (e : LEntry) : Bool := [LPlace.biv, .toBiv, .fromBiv].contains e.place

/-- Put a request at the end of the waiting list, with the next age (R50). -/
def State.memPost (s : State) (r : MemReq) : State :=
  { s with mem := { s.mem with wait := s.mem.wait ++ [{ r with id := s.mem.nextId }], nextId := s.mem.nextId + 1 } }

/-- A read of `n` bytes at `a`, in whole lines (R46). -/
def readReq (ctx cls a n : Nat) (why : MemWhy) : MemReq :=
  { ctx := ctx, cls := cls, addr := a / 64 * 64, lines := ceilDiv (a % 64 + n) 64, wr := false, data := [],
    mask := none, why := why, tries := 0, poisoned := false, silent := false }

/-- A write of bytes at a line address, completed to whole lines (R46). -/
def writeReq (ctx cls a : Nat) (bs : Bytes) (why : MemWhy) : MemReq :=
  { ctx := ctx, cls := cls, addr := a, lines := ceilDiv bs.length 64, wr := true, data := padTo 64 bs,
    mask := none, why := why, tries := 0, poisoned := false, silent := false }

/-- The parts of at most 4 KiB of a write (R46). -/
def writeReqs (ctx cls : Nat) (why : MemWhy) : Nat → Nat → Bytes → List MemReq
  | 0, _, _ => []
  | n + 1, a, bs =>
    if bs.length = 0 then []
    else writeReq ctx cls a (bs.take 4096) why :: writeReqs ctx cls why n (a + 4096) (bs.drop 4096)

/-- Write a byte string from a line address, in requests of at most 64 lines (R46). -/
def State.memWrite (s : State) (ctx cls a : Nat) (bs : Bytes) (why : MemWhy) : State :=
  (writeReqs ctx cls why (ceilDiv bs.length 4096) a bs).foldl State.memPost s

/-- Write bytes at any address that is a multiple of four, with the word mask of op 0b010 (R46). -/
def State.memWriteWords (s : State) (ctx cls a : Nat) (bs : Bytes) (why : MemWhy) : State :=
  let off := a % 64
  let n := ceilDiv (off + bs.length) 64
  s.memPost
    { ctx := ctx, cls := cls, addr := a / 64 * 64, lines := n, wr := true
      data := exactly (64 * n) (zeros off ++ bs)
      mask := some ((List.range (16 * n)).map (fun i => decide (off ≤ 4 * i ∧ 4 * i < off + bs.length)))
      why := why, tries := 0, poisoned := false, silent := false }

/-- Lowest Bivouac slot that no entry uses. -/
def State.bivFree (s : State) : Nat :=
  ((List.range (s.lnt.ents.length + 1)).find?
    (fun i => s.lnt.ents.all (fun e => !(e.inBiv) || decide (e.slot ≠ i)))).getD 0

def State.bivAddr (s : State) (slot : Nat) : Nat := s.rd2 0xB0034 + 16 * slot

def State.modEnts (s : State) (f : List LEntry → List LEntry) : State :=
  { s with lnt := { s.lnt with ents := f s.lnt.ents } }

/-- Give the entry `id` another place. -/
def State.lntMove (s : State) (id : Nat) (p : LPlace) : State :=
  s.modEnts (fun es => es.map (fun e => if e.id = id then { e with place := p } else e))

/-- Spill the oldest entry of the tail registers to the Bivouac when none is free (R457). -/
def State.lntSpill (s : State) : State :=
  if (s.lnt.ents.filter (fun e => decide (e.place = .tail))).length ≤ 64 then s
  else match s.lnt.ents.find? (fun e => decide (e.place = .tail)) with
  | none => s
  | some e =>
    let slot := s.bivFree
    let s := s.modEnts (fun es => es.map (fun x => if x.id = e.id then { x with place := .toBiv, slot := slot } else x))
    s.memWriteWords 0 3 (s.bivAddr slot) (e.words.flatMap (fun w => le 4 w)) ⟨.bivWrite, e.id⟩

/-- Refill a level's head share (R457), at most `n` entries. -/
def State.lntRefill (l : Nat) : Nat → State → State
  | 0, s => s
  | n + 1, s =>
    if (s.lnt.ents.filter (fun e => decide (e.level = l) && [LPlace.head, .fromBiv].contains e.place)).length ≥ 16
    then s
    else match s.lnt.ents.find? (fun e => decide (e.level = l) && !([LPlace.head, .fromBiv].contains e.place)) with
    | none => s
    | some e =>
      if e.place = .tail then State.lntRefill l n (s.lntMove e.id .head)
      else if e.place = .biv then
        State.lntRefill l n
          ((s.lntMove e.id .fromBiv).memPost (readReq 0 3 (s.bivAddr e.slot) 16 ⟨.bivRead, e.id⟩))
      else s

/-- Refill every level's head share (R457). -/
def State.lntRefillAll (s : State) : State :=
  if s.lnt.biv then State.lntRefill 3 16 (State.lntRefill 2 16 (State.lntRefill 1 16 (State.lntRefill 0 16 s)))
  else s

/-- Lowest priority among the levels present (R465). -/
def worstLevel (es : List LEntry) : Nat := (es.map LEntry.level).foldl max 0

/-- Remove the oldest entry of level `l`. -/
def dropOldest (l : Nat) (es : List LEntry) : List LEntry :=
  match ltake (fun e => decide (e.level = l)) es with
  | none => es
  | some (_, r) => r

/-- Enter an entry at the young end of the queue. -/
def State.lntAdd (s : State) (l : Nat) (ws : List Nat) : State :=
  let e : LEntry := ⟨s.lnt.nextId, l, ws, if s.lnt.biv then .tail else .pool, 0⟩
  let s := { s with lnt := { s.lnt with ents := s.lnt.ents ++ [e], nextId := s.lnt.nextId + 1 } }
  if s.lnt.biv then s.lntRefillAll.lntSpill.lntRefillAll else s

/-- An entry arrives (R455, R465, R467). -/
def State.lntEnter (s : State) (l : Nat) (ws : List Nat) : State :=
  let n := s.lnt.ents.length
  if n ≥ s.lntCap then
    let w := worstLevel s.lnt.ents
    if w < l then s.lntLost l 1
    else ((s.modEnts (dropOldest w)).lntLost w 1).lntAdd l ws
  else
    let s' := s.lntAdd l ws
    if n + 1 = s.rdF 0xB0018 0 21 then s'.lntCross else s'

/-- Record an event of pitch `p` (R460, R461). -/
def State.eventAt (s : State) (p kind ctx a b : Nat) : State :=
  s.lntEnter (kindLevel kind) (entryWords kind p ctx a b s.now)

/-- Record an event of the anchor pitch. -/
def State.event (s : State) (kind ctx a b : Nat) : State := s.eventAt s.glb.anchor kind ctx a b

/-- The event of an ignored write (kind 0x02) at byte address `a`; it concerns the context whose page holds `a`. -/
def State.ignored (s : State) (a : Nat) : State := s.event 0x02 (if pageBase ≤ a then (a - pageBase) / 0x1000 % 4096 else 0) a 0

/-- A pace-lock slip, of pitch `p` (R409, R500). -/
def State.slip (s : State) (p : Nat) : State := ((s.countSat 0xF000C 2 14 1).event 0x0A 0 p 0).notice 5

/-- Words of a context page that a snapshot records (R449), by offset in the page. -/
def recOffs : List Nat :=
  [4, 0x10, 0x14, 0x18, 0x1C, 0x20, 0x24, 0x28, 0x30, 0x34, 0x38, 0x3C, 0x40, 0x44, 0x48, 0x50, 0x54, 0x58, 0x60, 0x64, 0x68, 0x70, 0x74, 0x78,
   0x7C, 0x80, 0x84, 0x88]

/- Accounting -/

/-- Add to an accounting counter of a context, 64 bits (R390). -/
def State.acctAdd (s : State) (c i n : Nat) : State :=
  s.modCtx c (fun x => { x with acct := tput 0 i ((tget 0 x.acct i + n) % 2 ^ 64) x.acct })

/-- Index of the femtojoule accumulator of R391 in `acct`. -/
def acctFj : Nat := 7

/-- `n` events of energy kind `k` in pitch `p` on behalf of context `c` (R391, R471). -/
def State.energy (s : State) (p c k n : Nat) : State :=
  let e := n * s.rdF (0xA0020 + 4 * k) 0 24
  let s := s.modCtx c (fun x => { x with acct := tput 0 acctFj (tget 0 x.acct acctFj + e) x.acct })
  s.modPitch p (fun x => { x with win := x.win + e })

/-- The staging accesses of a tile or a combine (R391): their number is a free value (log entry 41). -/
def State.staging (s : State) (p c : Nat) : State := ({ s with free := s.free + 1 } : State).energy p c 3 (Config.stagingAccesses s.free)

/-- Memory-port bytes and beats of a request of `lines` lines in class `cls` (R390, R391). -/
def State.chargeMem (s : State) (p c cls lines : Nat) : State :=
  (s.acctAdd c (1 + cls) (64 * lines)).energy p c 5 (ceilDiv (lines * 64) 512)

/-- The bytes of a read that a command performs within itself, charged to the context. -/
def State.chargeRead (s : State) (c cls a n : Nat) : State :=
  if n = 0 then s else s.chargeMem s.glb.anchor c cls (ceilDiv (a % 64 + n) 64)

/- Memory channels -/

def State.ch (s : State) (i : Nat) : MemCh := s.mem.chs.getD i MemCh.reset

def State.modCh (s : State) (i : Nat) (f : MemCh → MemCh) : State :=
  { s with mem := { s.mem with chs := lset i (f (s.ch i)) s.mem.chs } }

/-- Number of pitches of the grade. -/
def State.nPitch (s : State) : Nat := ((List.range 4).filter (fun p => bit s.glb.present p)).length

/-- A channel that carries traffic. -/
def State.chUp (s : State) (c : Nat) : Bool := !(s.ch c).iso && s.pitchUp (c / 4)

/-- Distance between pitches. -/
def dist (a b : Nat) : Nat := max a b - min a b

/-- The channel that carries a request (R46, R53). -/
def State.chanOf (s : State) (addr : Nat) : Option Nat :=
  let c := Config.stackOf addr % (4 * s.nPitch)
  let x := if c % 2 = 0 then c + 1 else c - 1
  if s.chUp c then some c
  else if s.chUp x then some x
  else
    let inPitch (p : Nat) : Option Nat := (List.range 4).findSome? (fun i => if s.chUp (4 * p + i) then some (4 * p + i) else none)
    match inPitch (c / 4) with
    | some d => some d
    | none => (sortBy (fun a b => decide (dist a (c / 4) < dist b (c / 4))) [0, 1, 2, 3]).findSome? inPitch

/-- Does any write of context `c` await its issue or its response? -/
def State.writesOut (s : State) (c : Nat) : Bool :=
  s.mem.wait.any (fun r => r.wr && decide (r.ctx = c)) ||
  s.mem.chs.any (fun ch => ch.out.any (fun o => o.req.wr && decide (o.req.ctx = c)))

/-- The same for one unit of the context. -/
def State.unitOut (s : State) (c : Nat) (u : MemUnit) : Bool :=
  s.mem.wait.any (fun r => decide (r.ctx = c ∧ r.why.unit = u)) ||
  s.mem.chs.any (fun ch => ch.out.any (fun o => decide (o.req.ctx = c ∧ o.req.why.unit = u)))

def State.modDone (s : State) (f : List MemDone → List MemDone) : State :=
  { s with mem := { s.mem with done := f s.mem.done } }

def State.modWait (s : State) (f : List MemReq → List MemReq) : State :=
  { s with mem := { s.mem with wait := f s.mem.wait } }

def State.modXch (s : State) (f : Xch → Xch) : State := { s with xch := f s.xch }

def State.modKtl (s : State) (f : Ktl → Ktl) : State := { s with ktl := f s.ktl }

/-- Take the oldest completed transfer of a unit of a context. -/
def State.takeDone (s : State) (c : Nat) (u : MemUnit) : Option (MemDone × State) :=
  match ltake (fun d => decide (d.ctx = c ∧ d.why.unit = u)) s.mem.done with
  | none => none
  | some (d, r) => some (d, { s with mem := { s.mem with done := r } })

/- Core port -/

def State.pt (s : State) (a : Nat) : CorePt := s.core.pts.getD a CorePt.reset

def State.modPt (s : State) (a : Nat) (f : CorePt → CorePt) : State :=
  { s with core := { s.core with pts := lset a (f (s.pt a)) s.core.pts } }

def State.ptUp (s : State) (a : Nat) : Bool := !(s.pt a).iso && s.pitchUp (a / 8)

/-- Working attachment points of a pitch, ascending. -/
def State.ptsOf (s : State) (p : Nat) : List Nat := ((List.range 8).map (8 * p + ·)).filter s.ptUp

/-- Lowest-numbered working attachment point of a pitch, of any pitch when it has none (R59, R394). -/
def State.firstPt (s : State) (p : Nat) : Nat :=
  ((s.ptsOf p) ++ ((List.range 32).filter s.ptUp)).headD (8 * p)

/-- The point an outbound packet takes (R59): the wanted one, or the working points of its pitch in turn. -/
def State.outPoint (s : State) (want : Nat) : Nat × State :=
  if s.ptUp want then (want, s)
  else
    let ps := s.ptsOf (want / 8)
    if ps = [] then (s.firstPt (want / 8), s)
    else (ps.getD (s.core.nextPoint % ps.length) want, { s with core := { s.core with nextPoint := s.core.nextPoint + 1 } })

/-- A word of the cue lane: a cue or a cancel (R54, R56). -/
def cueLane (bs : Bytes) : Bool := decide ((pktHeader bs).ptype = 4 ∨ (pktHeader bs).ptype = 5)

/-- Elapsed tick at which the last beat of a packet has left (R55): a bulk lane sends one beat a tick, a cue-lane word
waits for no bulk beat. -/
def CorePt.ends (p : CorePt) (el : Nat) (bs : Bytes) : Nat :=
  if cueLane bs then el + 1 else max p.busy el + max 1 (ceilDiv bs.length 640)

/-- A packet leaves on a point (R54, R55); on a point that is down it stays pending (R72). -/
def State.coreSend (s : State) (a : Nat) (bs : Bytes) : State :=
  if (s.pt a).down then s.modPt a (fun p => { p with pend := p.pend ++ [bs] })
  else
    let s := s.modPt a (fun p => { p with
      busy := if cueLane bs then p.busy else p.ends s.el bs
      fly := p.fly.filter (fun f => decide (s.el < f.1)) ++ [(p.ends s.el bs, bs)] })
    { s with core := { s.core with sent := s.core.sent ++ [⟨a, bs⟩] } }

/-- Packets of a point whose last beat has not left. -/
def CorePt.begun (p : CorePt) (el : Nat) : List Bytes := (p.fly.filter (fun f => decide (el < f.1))).map Prod.snd

/-- Core-port bytes of a packet (R390): 640 per bulk beat, 64 per cue word; beats for energy (R391). -/
def State.chargeCore (s : State) (a c n : Nat) (bulk : Bool) : State :=
  if bulk then (s.acctAdd c 5 (640 * ceilDiv n 640)).energy (a / 8) c 6 (ceilDiv n 640)
  else s.acctAdd c 5 64

/-- The hold work of an entry is charged to the context when the entry is freed (R308). -/
def State.holdWork (s : State) (h : HoldE) : State :=
  let s := (s.acctAdd h.ctx 5 (640 * h.work)).energy h.rec_.pitch h.ctx 6 h.work
  if h.lines = 0 then s else s.chargeMem h.rec_.pitch h.ctx 1 h.lines

/-- Send a packet for a context and charge it. -/
def State.sendPacket (s : State) (a c : Nat) (bs : Bytes) (bulk : Bool) : State :=
  (s.coreSend a bs).chargeCore a c bs.length bulk

/- Isolation and block faults -/

/-- Requests go back to those that wait, each at the place of its age (R50). -/
def State.waitAgain (s : State) (rs : List MemReq) : State :=
  rs.foldl (fun s r => s.modWait (insSorted (fun a b => decide (a.id < b.id)) r)) s

/-- What is outstanding on a channel waits to be issued again under new tags; the old tags stay out of use until their
last beat or response (R51). -/
def State.abandonOut (s : State) (c : Nat) (resume : Bool) : State :=
  let os := (s.ch c).out
  (s.modCh c (fun x => { x with out := [], stale := x.stale ++ os })).waitAgain
    ((os.filter (fun o => !o.dead)).map (fun o => { o.req with again := true, resume := resume || o.req.resume }))

/-- Isolate a memory channel (R43, R52, R53, R66): its requests go to the channels that remain. -/
def State.isolateMem (s : State) (c : Nat) : State :=
  let s := if (s.ch c).iso then s else s.notice 2
  (s.modCh c (fun x => { x with iso := true, lowAt := s.el })).abandonOut c false

/-- Packets begun on a point and not acknowledged whole: those whose last beat has not left, or, where a bundle phase
stalled, the last `left` packets of the point. -/
def State.unacked (s : State) (a left : Nat) : List Bytes :=
  let out := (s.core.sent.filter (fun k => decide (k.point = a))).map CorePkt.bytes
  if ((s.pt a).begun s.el).length < left then out.drop (out.length - left) else (s.pt a).begun s.el

/-- Isolate an attachment point (R43, R59, R66): packets begun on it, and those that wait, are sent whole on the points that
remain. -/
def State.isolateCore (s : State) (a left : Nat) : State :=
  let back := s.unacked a left ++ (s.pt a).pend
  let s := if (s.pt a).iso then s else s.notice 2
  let s := s.modPt a (fun x => { x with iso := true, lowAt := s.el, pend := [], busy := 0, fly := [] })
  back.foldl (fun s b => (s.outPoint a).2.coreSend (s.outPoint a).1 b) s

/-- Event and notice of a channel isolated (R43, R52): class 0 memory, 1 core, 2 link. -/
def State.stuckEvent (s : State) (cls i : Nat) : State :=
  (s.notice 2).event 0x03 0 (cls * 2 ^ 24 + i) 0

end Sys2Proof.Machine
end

