-- ==== Sys2Proof/Machine/Record.lean ====
section
/-! DEFINITION. Record mode (R414 to R418): the record log and the step digests. -/

namespace Sys2Proof.Machine

/-- DET_CTL, as word `w` has it, asks for the inputs of context `c`; `none` is an input that concerns every context (R414). -/
def State.recBy (s : State) (w : Nat) (c : Option Nat) : Bool :=
  bit w 2 && decide (s.rd 0xF0018 ≠ 0) &&
  (match c with
   | none => true
   | some c => decide (bits w 8 12 = 0xFFF) || decide (bits w 8 12 = c))

def State.recWanted (s : State) (c : Option Nat) : Bool := s.recBy (s.rd 0xF0000) c

/-- Recording and digests for an input of context `c` (R420): as its running step sampled them, or as
DET_CTL stands. -/
def State.recMode (s : State) (c : Option Nat) : Bool × Bool :=
  match (match c with | none => none | some c => s.step? c) with
  | some st => (st.samp.rec_, st.samp.dig)
  | none => (s.recWanted c, bit (s.rd 0xF0000) 3)

/-- Bytes of the record ring (R414). -/
def State.recRing (s : State) : Nat := s.rd 0xF0018 * 65536

/-- A write of bytes at any multiple of 32, in requests of at most 64 lines (R46). -/
def State.memWriteAny (ctx cls : Nat) (why : MemWhy) : Nat → Nat → Bytes → State → State
  | 0, _, _, s => s
  | n + 1, a, bs, s =>
    if bs.length = 0 then s
    else State.memWriteAny ctx cls why n (a + 4032) (bs.drop 4032) (s.memWriteWords ctx cls a (bs.take 4032) why)

/-- The header of an entry (R414). -/
def recHeader (ekind eflags src ctx epoch tick num len aux : Nat) : Bytes :=
  withCrc (le 1 ekind ++ le 1 eflags ++ le 2 src ++ le 2 (ctx % 4096) ++ le 1 epoch ++ zeros 1 ++ le 8 tick ++
    le 4 num ++ le 4 len ++ le 4 aux)

/-- Bytes of the log that wait for their write to be issued (R417). -/
def State.logWait (s : State) : Nat :=
  ((s.mem.wait.filter (fun r => decide (r.why.unit = .recordOut))).map (fun r => r.data.length)).foldl (· + ·) 0

/-- The log is behind (R417; log entry 46). -/
def State.logBehind (s : State) : Bool := decide (s.logWait ≠ 0) && decide (Config.logMark < s.logWait)

/-- Withheld until the log catches up (R417): the memory requests and answer reads of recorded contexts. -/
def State.withheld (s : State) (r : MemReq) : Bool := decide (r.ctx ≠ 0) && s.logBehind && (s.recMode (some r.ctx)).1

/-- A link or core-port input that finds no room in the log's staging buffer (R417; log entry 46). -/
def State.noRoom (s : State) (ekind size : Nat) : Bool :=
  [3, 4, 6].contains ekind && decide (s.logWait ≠ 0) && decide (Config.logRoom < s.logWait + size)

/-- Append an entry to the log (R414, R415, R417). -/
def State.recPut (s : State) (ekind src ctx epoch tick aux : Nat) (pay : Bytes) (dig : Bool) : State :=
  let pay := if dig then le 4 (crcN pay) else pay
  let size := 32 + roundUp 32 pay.length
  let wrap := bit (s.rd 0xF0000) 4
  let past := decide (s.recRing < s.det.head + size)
  if s.det.full then s
  else if s.recRing < size ∨ s.noRoom ekind size then
    { s.countSat 0xF000C 16 16 1 with det := { s.det with lost := true } }
  else if past && !wrap then ({ (s.setBit 0xF000C 1) with det := { s.det with full := true } }).event 0x0B 0 0 0
  else
    let at_ := if past then 0 else s.det.head
    let h := recHeader ekind (b2n dig + 2 * b2n s.det.lost) src ctx epoch tick s.det.num pay.length aux
    let s := { s with det := { s.det with head := at_ + size, num := (s.det.num + 1) % 2 ^ 32, lost := false } }
    let bs := h ++ padTo 32 pay
    State.memWriteAny 0 3 ⟨.recordOut, 0⟩ (ceilDiv bs.length 4032) (s.rd2 0xF0010 + at_) bs s

/-- Record an input of context `c` (R414). `bulk`: its payload may be a digest (R415). -/
def State.record (s : State) (ekind src : Nat) (c : Option Nat) (epoch tick aux : Nat) (pay : Bytes) (bulk : Bool) : State :=
  let m := s.recMode c
  if m.1 then s.recPut ekind src (c.getD 0) epoch tick aux pay (bulk && m.2) else s

/-- Record a control-port write (R414). -/
def State.recWrite (s : State) (a v : Nat) : State := s.record 8 0 none 0 s.now a (le 4 v) false

/-- Clear the check field of the tag at every `step` bytes from `off` (R416). -/
def blankTags (off step : Nat) (bs : Bytes) : Bytes :=
  bs.zipIdx.map (fun p => if off ≤ p.2 ∧ (p.2 - off) % (max 1 step) = 0 then 0#8 else p.1)

/-- Add an item to a digest of a recorded step (R418). -/
def State.digest (s : State) (c k idx : Nat) (bs : Bytes) : State :=
  s.modStep c (fun st => if st.samp.rec_ then
      { st with digs := lset k (Nat.xor (st.digs.getD k 0) (crcN (le 4 idx ++ bs))) st.digs }
    else st)

/-- The 64-byte lines of a region as digest items, indexed from `off` (R418). -/
def State.digestLines (s : State) (c k off : Nat) (bs : Bytes) : State :=
  (List.range (ceilDiv bs.length 64)).foldl (fun s i => s.digest c k (off / 64 + i) (sub bs (64 * i) 64)) s

/-- Query record with the fields of R404 zero. -/
def blankQuery (q : Query) : Query :=
  { q with tLaunch := 0, tRun := 0, qWait := 0, missed := 0, nRchk := 0, mver := 0, tver := 0, qflags := q.qflags &&& 0xFA0C }

/-- The step digest of a step whose query record is answered (R418). -/
def State.recDigest (s : State) (c : Nat) : State :=
  match s.step? c with
  | none => s
  | some st =>
    match st.qrec with
    | none => s
    | some q =>
      if st.samp.rec_ then
        let d := (List.range 3).map (fun i => st.digs.getD i 0) ++ [crcN (le 4 0 ++ encQuery (blankQuery q))]
        s.recPut 9 0 c st.epoch s.now q.seq (d.flatMap (le 4) ++ zeros 16) false
      else s

end Sys2Proof.Machine
end

