-- ==== Sys2Proof/Machine/Net.lean ====
section
/-! DEFINITION. Routing and queueing on the links: working ports of a direction (R20, R93, R95), the
direction and port of a hop (R253, R254), blocked routes (R255), the flits of a chunk (R248), the chunk
table (R260), short and membership flits (R285, R286, R434), acknowledgements and credits (R81 to R89). -/

namespace Sys2Proof.Machine

def State.port (s : State) (n : Nat) : Port := s.links.ports.getD n Port.reset

def State.modPort (s : State) (n : Nat) (f : Port → Port) : State :=
  { s with links := { s.links with ports := lset n (f (s.port n)) s.links.ports } }

/-- Pitch of a link port (R20). -/
def portPitch (n : Nat) : Nat := if n < 60 then n / 15 else if n < 64 then n - 60 else (n - 64) / 2

/-- Active port that drives index `i` of pitch `p` (R73). -/
def activeOf (p i : Nat) : Nat := if i = 15 then 60 + p else 15 * p + i

/-- Index of an active port within its pitch (R73). -/
def indexOf (n : Nat) : Nat := if n < 60 then n % 15 else 15

/-- The active port whose channel a port carries: itself, or the one a spare is steered to (R73, R93). -/
def State.channelOf (s : State) (n : Nat) : Option Nat :=
  if n < 64 then some n
  else if (s.port n).steer = 31 then none else some (activeOf (portPitch n) (s.port n).steer)

/-- Direction of a port: 0 to 5, or 6 for an uplink (R20, R91). -/
def State.portDir (s : State) (n : Nat) : Option Nat :=
  (s.channelOf n).map (fun a => if a < 60 then a % 6 else 6)

def State.linkEnt (s : State) (n : Nat) : LinkEnt :=
  match s.channelOf n with
  | none => default
  | some a => tget default s.links.tab a

def isUplink (s : State) (n : Nat) : Bool := decide (s.portDir n = some 6)

/-- Working ports in a direction, ascending (R254). A port restricted by R101 takes traffic, which waits there, only when the
direction has no other. -/
def State.workPorts (s : State) (d : Nat) : List Nat :=
  let ps := (List.range 72).filter (fun n => decide ((s.port n).st = 2) && !(s.port n).iso && decide (s.portDir n = some d))
  let free := ps.filter (fun n => !(s.port n).restricted)
  if free = [] then ps else free

/-- Flits queued on a port, of one channel or of all. -/
def Port.queued (p : Port) : Nat := (p.queue.map List.length).foldl (· + ·) 0

def Port.queuedVc (p : Port) (vc : Nat) : Nat := (p.queue.getD vc []).length

def State.strict (s : State) : Bool := bit (s.rd 8) 0

/-- The value of a mode register as a sample at this tick sees it (R498): the value before the writes
of the present tick. -/
def State.rdMode (s : State) (a : Nat) : Nat :=
  match s.ctl.fresh.find? (fun e => decide (e.1 = a)) with
  | none => s.rd a
  | some e => e.2

/-- Routes are fixed: strict mode, or adaptive choice turned off (R253, R407). -/
def State.fixedRoutes (s : State) : Bool := bit (s.rdMode 8) 0 || !(bit (s.rdMode 0x50000) 0)

/-- The membership table of a version, by its value modulo 1,024 (R98, R100). -/
def State.tabFor (s : State) (mver : Nat) : Table Nat :=
  if mver % 1024 = s.memb.ver % 1024 then s.memb.live
  else if mver % 1024 = (s.memb.ver + 65535) % 65536 % 1024 then s.memb.prev
  else if s.memb.armed && decide (mver % 1024 = s.memb.sver % 1024) then s.memb.staged
  else s.memb.live

/-- A position that a route may pass (R255, R435). -/
def State.passOk (s : State) (tab : Table Nat) (p : Pos) : Bool :=
  match memberAt tab p with
  | none => false
  | some c => !(s.memb.lost.contains c)

/-- Where chip `c` sits, by a table. -/
def posOf (tab : Table Nat) (c : Nat) : Option Pos :=
  let e := tget 0 tab c
  if entState e = 0 then none else some (entPos e)

/-- A hop: axis and direction. -/
structure Hop where
  axis : Nat
  plus : Bool
  deriving DecidableEq, Repr, Inhabited

def Hop.dir (h : Hop) : Nat := 2 * h.axis + (if h.plus then 0 else 1)

/-- Coordinates passed on a stage, the last one its end. -/
def stageCoords (n c : Nat) (plus : Bool) (c1 : Nat) : List Nat :=
  let o := (if plus then c1 + n - c % n else c % n + n - c1 % n) % n
  (List.range o).map (fun i => if plus then (c + i + 1) % n else (c + n - (i + 1) % n) % n)

/-- A stage path is free (R255). `here`: it starts at this chip. -/
def State.stageOk (s : State) (tab : Table Nat) (p dst : Pos) (h : Hop) (here : Bool) : Bool :=
  (stageCoords (s.torus.at_ h.axis) (p.at_ h.axis) h.plus (dst.at_ h.axis)).all (fun c =>
    let q := p.set h.axis c
    decide (q = dst) || s.passOk tab q) &&
  (!here || decide (s.workPorts h.dir ≠ []))

/-- The direction of R253 on an axis where the offset is not zero. -/
def State.prefDir (s : State) (vc : Nat) (p dst : Pos) (a : Nat) (here : Bool) : Bool :=
  match ringDir (s.torus.at_ a) (p.at_ a) (dst.at_ a) with
  | (some d, false) => d
  | (some _, true) =>
    if !here || s.fixedRoutes then true
    else
      let load (d : Nat) : Nat := ((s.workPorts d).map (fun n => (s.port n).queuedVc vc)).foldl (· + ·) 0
      decide (load (2 * a) ≤ load (2 * a + 1))
  | (none, _) => true

/-- Follow a dimension order from `p` to `dst` (R252, R253, R255): none when a stage is blocked both
ways, otherwise the first hop, none of it when nothing is left to travel. -/
def State.routeOn (s : State) (tab : Table Nat) (vc : Nat) (dst : Pos) : List Nat → Pos → Bool → Option (Option Hop)
  | [], _, _ => some none
  | a :: r, p, here =>
    if p.at_ a = dst.at_ a then s.routeOn tab vc dst r p here
    else
      let d := s.prefDir vc p dst a here
      let pick := if s.stageOk tab p dst ⟨a, d⟩ here then some d
        else if s.stageOk tab p dst ⟨a, !d⟩ here then some (!d) else none
      match pick with
      | none => none
      | some d =>
        match s.routeOn tab vc dst r (p.set a (dst.at_ a)) false with
        | none => none
        | some _ => some (some ⟨a, d⟩)

/-- The order and first hop a source takes (R252, R255). -/
def State.route (s : State) (tab : Table Nat) (vc code : Nat) (dst : Pos) : Option (Nat × Option Hop) :=
  ([code, 0, 1, 2, 3, 4, 5].findSome? (fun o =>
    (s.routeOn tab vc dst (orderAxes o) s.own true).map (fun h => (o, h))))

/-- The port of a hop (R254). -/
def State.choosePort (s : State) (d chunk : Nat) : Option Nat :=
  let ps := s.workPorts d
  if ps = [] then none
  else if s.fixedRoutes then ps[chunk % ps.length]?
  else
    let best := (ps.map (fun n => (s.port n).queued)).foldl min ((s.port (ps.headD 0)).queued)
    ps.find? (fun n => decide ((s.port n).queued = best))

/-- Queue flits on a port's virtual channel. -/
def State.enqueue (s : State) (n vc : Nat) (qs : List QFlit) : State :=
  s.modPort n (fun p => { p with
    queue := lset vc (p.queue.getD vc [] ++ qs) p.queue
    ready := if p.queue.getD vc [] = [] then lset vc s.el p.ready else p.ready })

/-- Payloads of the flits of a chunk (R248). -/
def chunkPays : Nat → Bytes → List Bytes
  | 0, _ => []
  | n + 1, bs => bs.take 236 :: chunkPays n (bs.drop 236)

/-- Flits of a chunk's content (R248). -/
def chunkFlits (h : FlitH) (content : Bytes) (slot : Nat) : List QFlit :=
  let n := max 16 (ceilDiv content.length 236)
  (chunkPays n content).zipIdx.map (fun p =>
    { h := { h with ftype := 1, index := p.2, last := decide (p.2 + 1 = n), plen := p.1.length }
      pay := p.1, slot := slot })

/-- Header of a flit of a step (R79, R248). -/
def flitOf (vc ctx epoch src dst chunk mver : Nat) : FlitH :=
  { ftype := 1, vc := vc, seq := 0, ackSeq := 0, ackV := false, nak := false, crVc := 0, crCnt := 0, dst := dst,
    src := src, ctx := ctx, epoch := epoch, chunk := chunk, index := 0, last := false, stage := 0, plen := 0,
    mver := mver }

/-- Entries of the chunk table in use, and those of classes 1 to 3 (R260). -/
def State.chunksUsed (s : State) : Nat := s.xch.table.length

def State.chunksLow (s : State) : Nat :=
  (s.xch.table.filter (fun e => match e.2 with | some x => decide (x.cls ≠ 0) | none => false)).length

def State.chunksOf (s : State) (c : Nat) : Nat :=
  (s.xch.table.filter (fun e => match e.2 with | some x => decide (x.ctx = c) | none => false)).length

/-- The context page's CHUNK_CAP, 0 for no limit (R260, R525). -/
def State.chunkCap (s : State) (c : Nat) : Nat := if c = 0 then 0 else min 16384 (s.page c 0x3C)

/-- Is an entry available to a chunk of class `cls` of context `c` (R260)? -/
def State.chunkFree (s : State) (c cls : Nat) : Bool :=
  decide (s.chunksUsed < 16384) && (decide (cls = 0) || decide (s.chunksLow < 15360)) &&
  (decide (s.chunkCap c = 0) || decide (s.chunksOf c < s.chunkCap c))

/-- The next free number at or after `n`. -/
def freeFrom (t : Table (Option ChunkE)) : Nat → Nat → Nat
  | 0, n => n
  | k + 1, n => if tget none t n = none then n else freeFrom t k ((n + 1) % 16384)

/- Formations that wait for an entry -/

/-- Something of a waiting formation is still to be formed. -/
def State.formLive (s : State) (w : FormWait) : Bool :=
  if w.what = 0 then s.xch.retq.any (fun r => decide (r.ctx = w.ctx))
  else if w.what = 1 then s.xch.xfers.any (fun p => decide (p.ctx = w.ctx ∧ p.cls = w.cls))
  else match s.step? w.ctx with
  | none => false
  | some st =>
    if w.what = 2 then !st.cancelled && !st.ended && st.rt.list.any (fun e => !e.ret && (!e.snt || e.again)) else decide (st.insts ≠ [])

/-- A waiting formation could take an entry now. -/
def State.formReady (s : State) (w : FormWait) : Bool := s.formLive w && s.chunkFree w.ctx w.cls

/-- A chunk may take an entry (R260): one is available to it, and none of those that wait and could take it goes before: first
the return chunks, then every other, each in the order in which they began to wait. -/
def State.mayForm (s : State) (w : FormWait) : Bool :=
  let first (p : FormWait → Bool) : Option FormWait := s.xch.waitq.find? (fun v => p v && s.formReady v)
  let ahead := match first (fun v => decide (v.what = 0)) with
    | some v => some v
    | none => if w.what = 0 then none else first (fun v => decide (v.what ≠ 0))
  s.chunkFree w.ctx w.cls && (match ahead with | none => true | some v => decide (v = w))

/-- A formation begins to wait, or goes on waiting in its place. -/
def State.waitForm (s : State) (w : FormWait) : State :=
  let q := s.xch.waitq.filter s.formLive
  { s with xch := { s.xch with waitq := if q.contains w then q else q ++ [w] } }

/-- A formation waits no longer. -/
def State.endWait (s : State) (w : FormWait) : State :=
  { s with xch := { s.xch with waitq := s.xch.waitq.filter (fun v => decide (v ≠ w)) } }

/-- Take a chunk-table entry (R260); the new number is in the pair. -/
def State.takeChunk (s : State) (e : ChunkE) : Nat × State :=
  let n := freeFrom s.xch.table (s.xch.table.length + 1) s.xch.nextChunk
  let s := { s with xch := { s.xch with table := tput none n (some e) s.xch.table, nextChunk := (n + 1) % 16384 } }
  (n, s.wrF 0x50010 16 16 (max (s.rdF 0x50010 16 16) s.chunksUsed))

/-- Release a chunk-table entry. -/
def State.freeChunk (s : State) (n : Nat) : State :=
  { s with xch := { s.xch with table := tdel n s.xch.table } }

/-- Membership version a context's traffic carries (R79, R98): its step's, or the live one. -/
def State.mverOf (s : State) (c : Nat) : Nat :=
  match s.step? c with
  | some st => st.bind.mver
  | none => s.memb.ver

/-- First hop of a chunk on its recorded order, at this chip (R252 to R255). -/
def State.nextHop (s : State) (tab : Table Nat) (vc order dst : Nat) : Option Hop :=
  match posOf tab dst with
  | none => none
  | some p =>
    match s.routeOn tab vc p (orderAxes order) s.own true with
    | some h => h
    | none => none

/-- A landed chunk for this chip goes to its unit. -/
def State.landHere (s : State) (l : Landed) : State := { s with xch := { s.xch with inbox := s.xch.inbox ++ [l] } }

/-- A chunk that no first hop is to accept: its entry goes, unless its kind holds it until an answer or a completion
comes (R260). -/
def State.unsent (s : State) (n : Nat) : State :=
  match tget none s.xch.table n with
  | some e => if (e.kind = 1 ∧ e.steep = false) ∨ e.kind = 4 then s else s.freeChunk n
  | none => s

/-- No dimension order gives a route to a chip (R255), or it has no position. -/
def State.noWay (s : State) (tab : Table Nat) (dst : Nat) : Bool :=
  match posOf tab dst with
  | none => true
  | some p => (s.route tab 2 0 p).isNone

/-- Start a chunk on its route (R248, R252 to R255). A chunk for this chip lands at once. One whose destination has no route
is treated as bound for a lost chip: it is dropped (R247, R255). `order` is the default of its kind. -/
def State.launchChunk (s : State) (ctx epoch dst chunk vc order mver : Nat) (ch : ChunkH) (data : Bytes) : State :=
  if dst = s.glb.chip then (s.landHere ⟨s.glb.chip, ctx, epoch, chunk, ch, data, s.glb.anchor, vc, false⟩).unsent chunk
  else
    let tab := s.tabFor mver
    match (match posOf tab dst with
      | none => none
      | some p => s.route tab vc order p) with
    | some (o, some h) =>
      match s.choosePort h.dir chunk with
      | none => s.unsent chunk
      | some n =>
        s.enqueue n vc (chunkFlits { flitOf vc ctx epoch s.glb.chip dst chunk mver with stage := h.axis }
          (encChunkH { ch with order := o } ++ data) 0)
    | _ => s.unsent chunk

/-- Start a chunk towards an upper-level endpoint on an uplink port (R102). -/
def State.launchUp (s : State) (ctx epoch dst chunk vc mver : Nat) (ch : ChunkH) (data : Bytes) : State :=
  match s.choosePort 6 chunk with
  | none => s.unsent chunk
  | some n =>
    s.enqueue n vc (chunkFlits { flitOf vc ctx epoch (s.linkEnt n).chip dst chunk mver with stage := 3 }
      (encChunkH ch ++ data) 0)

/-- First hop of a short message from this chip (R286): those of a phase along its axis only, in the direction of R253; the
others in the order X, Y, Z with the detours of R255. The message holds no order, so every forwarder finds its own (DEDUCED,
log entry 183). -/
def State.shortHop (s : State) (tab : Table Nat) (m : MsgH) (p : Pos) : Option Hop :=
  if m.mkind = 1 ∨ m.mkind = 4 then
    if s.own.at_ m.axis = p.at_ m.axis then none else some ⟨m.axis, s.prefDir 0 s.own p m.axis true⟩
  else (s.route tab 0 0 p).bind Prod.snd

/-- Queue a short flit towards its destination; dropped where no way exists (R286, R429). `pool`: the pitch whose short pool
holds it, 4 for none; `slot`: its place in a landing region. -/
def State.shortOut (s : State) (h : FlitH) (pay : Bytes) (fin pool slot : Nat) : State :=
  let tab := s.tabFor h.mver
  match (posOf tab h.dst).bind (s.shortHop tab (decMsg pay)) with
  | none => { s with xch := { s.xch with pool := s.xch.pool.filter (fun x => decide (slot = 0 ∨ x.id ≠ slot)) } }
  | some hop =>
    match s.choosePort hop.dir h.chunk with
    | none => { s with xch := { s.xch with pool := s.xch.pool.filter (fun x => decide (slot = 0 ∨ x.id ≠ slot)) } }
    | some n => s.enqueue n 0 [{ h := { h with stage := hop.axis }, pay := pay, slot := slot, fin := fin, pool := pool }]

/-- Send a collective-short message (R285, R286). A message for this chip arrives at once. -/
def State.sendShort (s : State) (ctx epoch dst mver : Nat) (pay : Bytes) (fin : Nat) : State :=
  if dst = s.glb.chip then { s with xch := { s.xch with shorts := s.xch.shorts ++ [⟨dst, ctx, epoch, pay⟩] } }
  else s.shortOut { flitOf 0 ctx epoch s.glb.chip dst 0 mver with ftype := 2, plen := pay.length } pay fin 4 0

/-- Send a short message to an upper-level endpoint (R102). -/
def State.sendShortUp (s : State) (ctx epoch dst mver : Nat) (pay : Bytes) : State :=
  match s.choosePort 6 0 with
  | none => s
  | some n =>
    s.enqueue n 0 [{ h := { flitOf 0 ctx epoch (s.linkEnt n).chip dst 0 mver with
      ftype := 2, plen := pay.length, stage := 3 }, pay := pay, slot := 0 }]

/-- Queue a membership flit on a port (R434). -/
def State.sendMembership (s : State) (n : Nat) (pay : Bytes) : State :=
  s.enqueue n 6 [{ h := { flitOf 6 0 0 s.glb.chip 0 0 s.memb.ver with ftype := 3, plen := pay.length }, pay := pay, slot := 0 }]

/- Acknowledgements and credits -/

/-- Receive buffers of the virtual channels, in flits (R87). -/
def vcBuf (vc : Nat) : Nat := [16, 32, 56, 56, 16, 8, 8, 0].getD vc 0

/-- Flits that an ack_seq acknowledges (R81, R84); none when it points outside the window. -/
def Port.ackCount (p : Port) (ackSeq : Nat) : Option Nat :=
  let first := (p.tx + 256 - p.retry.length % 256) % 256
  let n := (ackSeq + 257 - first) % 256
  if n ≤ p.retry.length then some n else none

/-- Release what an acknowledged flit held: a forwarding slot, or the chunk-table entry of a chunk whose
kind releases at the first hop (R258, R260). -/
def State.ackFlit (s : State) (q : QFlit) : State :=
  if q.h.ftype ≠ 2 ∧ (q.h.last = false ∨ q.h.ftype ≠ 1) then s
  else if q.slot ≠ 0 then
    { s with xch := { s.xch with pool := s.xch.pool.filter (fun x => decide (x.id ≠ q.slot)) } }
  else if q.h.ftype = 2 then s
  else match tget none s.xch.table q.h.chunk with
  | some e =>
    if (e.kind = 1 ∧ e.steep = false) ∨ e.kind = 4 ∨ e.ctx ≠ q.h.ctx ∨ e.epoch ≠ q.h.epoch then s else s.freeChunk q.h.chunk
  | none => s

/-- Kept flits without those of the chunks whose last flit is listed (R94). -/
def dropChunks (lasts kept : List QFlit) : List QFlit :=
  kept.filter (fun q => !(lasts.any (fun l => decide (l.h.src = q.h.src ∧ l.h.chunk = q.h.chunk ∧ l.h.vc = q.h.vc))))

/-- Apply a cumulative acknowledgement of `n` flits; the second component lists the flits released. -/
def State.applyAck (s : State) (port n : Nat) : State × List QFlit :=
  let p := s.port port
  let done := p.retry.take n
  let s := s.modPort port (fun p => { p with
    retry := p.retry.drop n
    kept := dropChunks (done.filter (fun q => q.h.last)) p.kept
    rs := p.rs.map (· - n)
    ackAt := if n = 0 then p.ackAt else s.el })
  (done.foldl State.ackFlit s, done)

/-- Apply returned credits (R88, R89): the flag is false for a return past the buffer size. -/
def State.applyCredit (s : State) (port vc n : Nat) : State × Bool :=
  let c := (s.port port).credit.getD vc 0
  let c' := min (c + n) (vcBuf vc)
  (s.modPort port (fun p => { p with
      credit := lset vc c' p.credit
      ready := if c = 0 ∧ 0 < c' then lset vc s.el p.ready else p.ready }), decide (c + n ≤ vcBuf vc))

end Sys2Proof.Machine
end

