-- ==== Sys2Proof/Machine/Frames.lean ====
section
/-! DEFINITION. Tents, frames and share order (R376 to R386): which cores and frames a tent has, who gets
a frame, eviction and re-admission. -/

namespace Sys2Proof.Machine

def tentAddr (n : Nat) : Nat := 0xA0100 + 4 * n

def tentCount (w : Nat) : Nat := bits w 8 9

def tentFirst (w : Nat) : Nat := bits w 0 7

/-- Effective FRAMES (R376). -/
def tentFrames (w : Nat) : Nat := max 1 (min 8 (bits w 17 4))

def tentRt (w : Nat) : Nat := bits w 21 3

def tentStage (w : Nat) : Nat := bits w 24 8

/-- Logical cores of the grade (R18). -/
def State.nCores (s : State) : Nat := 32 * s.nPitch

/-- Logical cores of a tent (R377). -/
def tentCores (w : Nat) : List Nat := rangeFrom (tentFirst w) (tentFirst w + tentCount w)

/-- Pitches a tent's range touches. -/
def tentPitches (w : Nat) : List Nat := (List.range 4).filter (fun p => (tentCores w).any (fun c => decide (c / 32 = p)))

def State.tentWord (s : State) (n : Nat) : Nat := s.rd (tentAddr n)

/-- Tent of a context. -/
def State.tentOf (s : State) (c : Nat) : Nat := s.tentWord (s.ctx c).tent

/-- A logical core that can take tiles (R23, R377). -/
def State.coreOk (s : State) (c : Nat) : Bool := s.pitchUp (c / 32) && !(s.ktl.gone.contains c)

/-- Allocating pitch of a context's steps (R171). -/
def State.allocPitch (s : State) (c : Nat) : Nat := (tentPitches (s.tentOf c)).headD s.glb.anchor

/-- Bytes of a frame in one pitch (R378). -/
def frameBytes (w : Nat) : Nat := tentStage w * 65536 / tentFrames w / 64 * 64

/-- Contexts, in ascending number, whose step meets `p`. -/
def State.stepsWhere (s : State) (p : Nat → Ctx → Step → Bool) : List Nat :=
  tkeys (fun c x => match x.step with | none => false | some st => p c x st) s.ctxs

/-- Frames of tent `n` that no step or visit holds. -/
def State.freeFrames (s : State) (n : Nat) : List Nat :=
  (List.range (tentFrames (s.tentWord n))).filter (fun f =>
    s.stepsWhere (fun _ x st => decide (x.tent = n ∧ st.frame = some f)) = [] ∧
    tkeys (fun _ x => decide (x.tent = n ∧ x.vframe = some f)) s.ctxs = [])

/-- Free frames outside the reserved ones (R380). -/
def State.freeShared (s : State) (n : Nat) : List Nat :=
  (s.freeFrames n).filter (fun f => decide (tentRt (s.tentWord n) ≤ f))

/-- Share order (R381). -/
def State.shareLt (s : State) (a b : Nat) : Bool :=
  decide ((s.ctx a).v < (s.ctx b).v) || (decide ((s.ctx a).v = (s.ctx b).v) && decide (a < b))

/-- A step within an open atom (R10, R284). -/
def Step.inAtom (st : Step) : Bool := decide (st.openAtoms ≠ [])

/-- Tiles of a context in progress. -/
def State.tilesOf (s : State) (c : Nat) : List Nat := tkeys (fun _ r => r.busy && decide (r.ctx = c)) s.ktl.cores

/-- Frame state of a step, in bytes (R386): requantised rows, scores and bounds. -/
def Step.liveBytes (st : Step) : Nat :=
  let d := 32 * st.bind.dir.d32
  let n := st.sc.toks.length
  let w := elemBits (pairFmt st.bind.dir.lfmt)
  let row := if st.bind.dir.lfmt = 1 then 0 else d * w / 8 + d / 32 + d / 8 + d / 256
  n * row + 8 * n * (st.bind.dir.nExp + b2n st.bind.dir.exitHead)

/-- t_sw of R386, in ticks of 1 ns, for the frame state and the chains of a step that move. -/
def Step.switchTicks (st : Step) : Nat :=
  800 + ceilDiv st.liveBytes 256 + 50 * (st.chains.filter (fun h => decide (h.st ≠ 3))).length

/-- Write the frame state of a victim to its save area (R384, R385). -/
def State.saveFrame (s : State) (c : Nat) (st : Step) : State :=
  (s.memWrite c 1 (s.page2 c 0x60) (exactly st.liveBytes (Config.saveArea s.free)) ⟨.saveOut, 0⟩)

/-- Read it back (R384). -/
def State.readFrame (s : State) (c : Nat) (st : Step) : State :=
  (rangeFrom 0 (ceilDiv st.liveBytes 4096)).foldl
    (fun s i => s.memPost (readReq c 1 (s.page2 c 0x60 + 4096 * i) (min 4096 (st.liveBytes - 4096 * i)) ⟨.saveRead, i⟩)) s

/-- Real-time steps of tent `n` that wait for a frame, in ascending launch tick (R379, R380). -/
def State.rtWaiting (s : State) (n : Nat) : List Nat :=
  sortBy (fun a b => decide ((s.ctx a).launch < (s.ctx b).launch) ||
      (decide ((s.ctx a).launch = (s.ctx b).launch) && decide (a < b)))
    (s.stepsWhere (fun _ x st => decide (x.tent = n) && x.rt && decide (st.frame = none) && !st.cancelled && !st.ended))

/-- Evicted steps of tent `n`, in share order (R384). -/
def State.evictedIn (s : State) (n : Nat) : List Nat :=
  sortBy s.shareLt (s.stepsWhere (fun _ x st => decide (x.tent = n) && st.evicted && !st.cancelled))

/-- Give free frames to those that wait (R380, R384): real-time steps first, then evicted steps. DEDUCED (log entry 187): a
reserved frame stays with real-time steps, an evicted step is re-admitted to the first other frame that frees. -/
def State.grantFrames (n : Nat) : Nat → State → State
  | 0, s => s
  | k + 1, s =>
    match s.rtWaiting n, s.freeFrames n with
    | c :: _, f :: _ => State.grantFrames n k (s.modStep c (fun st => { st with frame := some f }))
    | _, _ =>
      match s.evictedIn n, s.freeShared n, s.rtWaiting n with
      | c :: _, f :: _, [] =>
        match s.step? c with
        | none => s
        | some st =>
          State.grantFrames n k ((s.readFrame c st).modStep c (fun st =>
            { st with frame := some f, evicted := false, moving := true, victim := c, swEnd := s.el + st.switchTicks }))
      | _, _, _ => s

/-- Complete the eviction of a leaving step with no tile in progress (R384): its frame passes to the first
real-time step that waits. An atom that opened since defers it (R10, R284). The save area still holds the frame state of a step
whose own switch is not complete. -/
def State.passFrame (s : State) (c : Nat) : State :=
  match s.step? c with
  | none => s
  | some st =>
    if !st.leaving || st.inAtom || decide (s.tilesOf c ≠ []) then s
    else
      let n := (s.ctx c).tent
      let s := (if st.moving then s else s.saveFrame c st).modStep c (fun st => { st with
        leaving := false
        evicted := true
        moving := false
        frame := none
        cnt := { st.cnt with qflags := st.cnt.qflags ||| 128 } })
      let s := { s with free := s.free + 1 }
      match s.rtWaiting n with
      | [] => State.grantFrames n 8 s
      | r :: _ => s.modStep r (fun x => { x with
          frame := st.frame
          moving := true
          victim := c
          swEnd := s.el + (if st.moving then 800 else st.switchTicks) })

/-- Choose victims while real-time steps wait without a frame on its way (R384). -/
def State.evictFor (n : Nat) : Nat → State → State
  | 0, s => s
  | k + 1, s =>
    let leaving := (s.stepsWhere (fun _ x st => decide (x.tent = n) && st.leaving)).length
    if (s.rtWaiting n).length ≤ leaving then s
    else
      let cand := s.stepsWhere (fun _ x st => decide (x.tent = n) && !x.rt && st.frame.isSome && !st.leaving &&
        !st.inAtom && !st.cancelled)
      match (sortBy (fun a b => s.shareLt b a) cand) with
      | [] => s
      | c :: _ => State.evictFor n k ((s.modStep c (fun st => { st with leaving := true })).passFrame c)

/-- Settle the frames of a tent after a frame frees, an atom closes or a step is accepted. -/
def State.frames (s : State) (n : Nat) : State :=
  State.evictFor n 8 (((s.stepsWhere (fun _ x st => decide (x.tent = n) && st.leaving)).foldl State.passFrame (State.grantFrames n 8 s)))

/-- v_min of R381 for a context that enters Ready. -/
def State.vMin (s : State) (c : Nat) : Nat :=
  let x := s.ctx c
  let others := tkeys (fun d y => decide (d ≠ c) && y.enable && !y.rt && decide (y.tent = x.tent) &&
    (decide (y.st = .ready) || y.vframe.isSome || (match y.step with | some st => st.frame.isSome | none => false))) s.ctxs
  match others with
  | [] => x.v
  | d :: r => r.foldl (fun m e => min m (s.ctx e).v) (s.ctx d).v

/-- The context's step no longer counts in a HOLD field (R370, R441), and no longer holds its table copy (R178). -/
def State.unhold (s : State) (c : Nat) : State :=
  let keep (d : Nat) : Bool := decide (d ≠ c)
  { s with
    ktl := { s.ktl with tabs := s.ktl.tabs.map (fun t => { t with held := t.held.filter keep }) }
    bal := { s.bal with old := s.bal.old.filter keep }
    rsl := { s.rsl with wswOld := s.rsl.wswOld.filter keep } }

/-- A context enters Ready (R127, R381). -/
def State.enterReady (s : State) (c : Nat) : State :=
  let v := if (s.ctx c).rt then (s.ctx c).v else max (s.ctx c).v (s.vMin c)
  s.modCtx c (fun x => { x with st := .ready, v := v })

/-- Charge a tile's ticks (R381, R390). -/
def State.chargeTicks (s : State) (c e : Nat) : State :=
  let sh := max 1 (s.page c 4 % 65536)
  (s.modCtx c (fun x => { x with v := (x.v + e * 65536 / sh) % 2 ^ 64 })).acctAdd c 0 e

end Sys2Proof.Machine
end

