-- ==== Sys2Proof/Machine/Images.lean ====
section
/-! DEFINITION. The router region of the Caddy (R149 to R152): room for images, their loads, who holds them. -/

namespace Sys2Proof.Machine

/-- Length of an image in bytes. -/
def Img.len (i : Img) : Nat := imageBytes i.lfmt i.cols i.d32

/-- 64 KiB units of an image (R149). -/
def Img.units (i : Img) : Nat := ceilDiv i.len 65536

/-- Units of the router region of a pitch (R149, R152). -/
def State.regionUnits (s : State) (p : Nat) : Nat := 8 * (s.rdF 0x20010 0 6 - tget 0 s.ktl.lostBanks p)

/-- Units in use in a pitch. -/
def State.unitsUsed (s : State) (p : Nat) : Nat :=
  ((s.ktl.imgs.filter (fun i => decide (i.pitch = p))).map Img.units).foldl (· + ·) 0

/-- Two images are the same image of one pitch. -/
def Img.same (a b : Img) : Bool :=
  decide (a.pitch = b.pitch ∧ a.addr = b.addr ∧ a.lfmt = b.lfmt ∧ a.cols = b.cols ∧ a.d32 = b.d32 ∧ a.icheck = b.icheck ∧
    a.shadow = b.shadow)

/-- The image that R151 frees next in a pitch. -/
def State.freeNext (s : State) (p : Nat) : Option Img :=
  let free := s.ktl.imgs.filter (fun i => decide (i.pitch = p ∧ i.held = []))
  let older (a b : Img) : Bool := decide (a.used < b.used)
  match leastBy older (free.filter (fun i => !i.pin)) with
  | some i => some i
  | none => leastBy older free

/-- Free images until `n` units fit (R151); at most `k` of them. -/
def State.makeRoom (p n : Nat) : Nat → State → State
  | 0, s => s
  | k + 1, s =>
    if s.unitsUsed p + n ≤ s.regionUnits p then s
    else match s.freeNext p with
    | none => s
    | some i => State.makeRoom p n k (s.modKtl (fun x => { x with imgs := x.imgs.filter (fun j => decide (j.id ≠ i.id)) }))

/-- Number of a part of an image's load in its memory requests. -/
def imgIdx (id part : Nat) : Nat := id * 65536 + part

/-- Ask for every part of an image (R150), in traffic class 1 for its loader. -/
def State.postImage (s : State) (i : Img) : State :=
  (List.range (ceilDiv i.len 4096)).foldl (fun s k =>
    s.memPost (readReq i.loader 1 (i.addr + 4096 * k) (min 4096 (i.len - 4096 * k)) ⟨.imageRead, imgIdx i.id k⟩)) s

/-- Context `c` wants an image in a pitch, which is loaded where the pitch lacks it (R150); `hold`: its step has started a
tile (R151). The flag says that it does not fit and the tiles run streamed (R152). -/
def State.wantImage (s : State) (c : Nat) (want : Img) (hold : Bool) : State × Bool :=
  if s.ktl.imgs.any (fun i => i.same want) then
    (s.modKtl (fun x => { x with imgs := x.imgs.map (fun i =>
      if i.same want then { i with held := if i.held.contains c || !hold then i.held else i.held ++ [c], used := s.el } else i) }), false)
  else
    let s := State.makeRoom want.pitch want.units s.ktl.imgs.length s
    if s.unitsUsed want.pitch + want.units ≤ s.regionUnits want.pitch then
      let i := { want with id := s.ktl.nextImg, loader := c, held := if hold then [c] else [], used := s.el }
      ((s.modKtl (fun x => { x with imgs := x.imgs ++ [i], nextImg := x.nextImg + 1 })).postImage i, false)
    else (s, true)

/-- Start an image's load again under a new number, for its loader `c`. -/
def State.reloadImage (s : State) (i : Img) (c tries : Nat) : State :=
  let j := { i with id := s.ktl.nextImg, loader := c, tries := tries, usable := false, bytes := [] }
  (s.modKtl (fun x => { x with
    imgs := x.imgs.map (fun k => if k.id = i.id then j else k)
    nextImg := x.nextImg + 1 })).postImage j

/-- The images a step's tiles use on a pitch: its scoring image and, for another format than BF16, its shadow
(R150, R168). -/
def wantsOf (l : LDir) (shadow : Bool) (p : Nat) : Img :=
  { id := 0, pitch := p, addr := if shadow then l.saddr else l.waddr, lfmt := if shadow then 1 else l.lfmt,
    cols := l.nExp + b2n l.exitHead, d32 := l.d32, icheck := if shadow then 0 else l.icheck, shadow := shadow, pin := l.pin }

/-- The images of a running step on a pitch, each with the mark of a shadow. -/
def Step.wants (st : Step) (p : Nat) : List (Bool × Img) :=
  if st.desc.kind ≠ 1 ∧ st.desc.kind ≠ 2 then []
  else (false, wantsOf st.bind.dir false p) :: (if st.bind.dir.lfmt = 1 then [] else [(true, wantsOf st.bind.dir true p)])

/-- The step has tiles to run yet, beside those in progress (R151). -/
def Step.tilesLeft (st : Step) : Bool :=
  !st.rt.alloc || decide (st.sc.pairs ≠ []) || decide (st.sc.rjobs ≠ []) || decide (st.sc.gjobs ≠ [])

/-- Running steps that want an image, in ascending context number. -/
def State.wanters (s : State) (i : Img) : List Nat :=
  s.stepsWhere (fun d _ st => !st.cancelled && !st.ended && (st.tilesLeft || i.held.contains d) && (tentPitches (s.tentOf d)).contains i.pitch &&
    (st.wants i.pitch).any (fun w => i.same w.2))

/-- The holds of a context end (R151). A load that it made passes to another step that wants the image. -/
def State.dropImages (s : State) (c : Nat) : State :=
  let drop (i : Img) : Img := if i.held.contains c then { i with held := i.held.filter (fun d => decide (d ≠ c)), used := s.el } else i
  let heir (i : Img) : Option Nat := ((s.wanters i).filter (fun d => decide (d ≠ c))).head?
  let keep (i : Img) : Bool := i.usable || decide (i.loader ≠ c) || (heir i).isSome
  let s := s.modKtl (fun x => { x with imgs := (x.imgs.map drop).filter keep })
  (s.ktl.imgs.filter (fun i => !i.usable && decide (i.loader = c))).foldl (fun s i => s.reloadImage i ((heir i).getD 0) i.tries) s

/-- The step's tiles on a pitch run streamed from here on (R152). -/
def State.streamOn (s : State) (c p : Nat) (shadow : Bool) : State :=
  match s.step? c with
  | none => s
  | some st =>
    let s := s.modStep c (fun st => { st with sc := { st.sc with
      stream := if shadow then st.sc.stream else st.sc.stream ++ [p]
      streamSh := if shadow then st.sc.streamSh ++ [p] else st.sc.streamSh } })
    if (st.sc.stream ++ st.sc.streamSh).contains p then s else s.count 0x20030 1

/-- Streamed mode holds for an image of the step on a pitch. -/
def Step.streams (st : Step) (shadow : Bool) (p : Nat) : Bool := (if shadow then st.sc.streamSh else st.sc.stream).contains p

/-- The images that a step lacks on a pitch are loaded, or its tiles there run streamed (R150 to R152). -/
def State.needImages (s : State) (c p : Nat) : State :=
  match s.step? c with
  | none => s
  | some st =>
    (st.wants p).foldl (fun s w =>
      if st.streams w.1 p then s
      else
        let r := s.wantImage c w.2 st.sc.tiled
        if r.2 then r.1.streamOn c p w.1 else r.1) s

/-- A tile of the step starts: the step holds its copies from its first tile on (R151). -/
def State.holdImages (s : State) (c : Nat) : State :=
  match s.step? c with
  | none => s
  | some st =>
    let mine (i : Img) : Bool := (st.wants i.pitch).any (fun w => i.same w.2)
    (s.modStep c (fun st => { st with sc := { st.sc with tiled := true } })).modKtl (fun x => { x with imgs := x.imgs.map (fun i =>
      if mine i then { i with held := if i.held.contains c then i.held else i.held ++ [c], used := s.el } else i) })

/-- A router region that has lost a bank is too small for its images (R152): held images that no longer fit go, the least
recently used first (DESIGN CHOICE, log entry 180), and the steps that use them run streamed. At most `k` of them. -/
def State.shrinkRegion (p : Nat) : Nat → State → State
  | 0, s => s
  | k + 1, s =>
    if s.unitsUsed p ≤ s.regionUnits p then s
    else match leastBy (fun a b => decide (a.used < b.used)) (s.ktl.imgs.filter (fun i => decide (i.pitch = p))) with
    | none => s
    | some i =>
      let cs := s.wanters i
      State.shrinkRegion p k (cs.foldl (fun s c => s.streamOn c p i.shadow)
        (s.modKtl (fun x => { x with imgs := x.imgs.filter (fun j => decide (j.id ≠ i.id)) })))

/-- The scoring image, or the shadow image, of context `c`'s step in pitch `p`, when its copy is usable. -/
def State.usableImg (s : State) (l : LDir) (shadow : Bool) (p : Nat) : Option Img :=
  s.ktl.imgs.find? (fun i => i.usable && i.same (wantsOf l shadow p))

end Sys2Proof.Machine
end

