-- ==== Sys2Proof/Machine/Cancel.lean ====
section
/-! DEFINITION. Query records as they are requested (R105, R123), cancelling a step and the drain of its epoch (R237 to
R240, R393), cancel words (R394). -/

namespace Sys2Proof.Machine

/-- Entry of the ask ring for sequence number `q` (R122). -/
def State.askAddr (s : State) (c q : Nat) : Nat := s.page2 c 0x20 + 128 * (q % 2 ^ (s.page c 0x1C % 16))

/-- Request the write of a query record (R105, R106, R123): the sequence number is that of ASK_SEQ for a
start record and one more otherwise. `q` gives the other fields. -/
def State.postQuery (s : State) (c kind : Nat) (q : Query) : State :=
  let x := s.ctx c
  let seq := if kind = 2 then s.page c 0x0C else (s.page c 0x0C + 1) % 2 ^ 32
  let q := { q with
    seq := seq
    qkind := kind
    missed := if kind = 2 ∨ kind = 5 then 0 else x.missed
    qflags := if kind = 2 ∨ kind = 5 then 0 else q.qflags ||| (if x.ask.late then 1024 else 0) }
  let rec_ := encQuery q
  let s := s.modCtx c (fun x => { x with missed := 0, ask := { pend := kind } })
  let s := s.modStep c (fun st => { st with qrec := some q })
  s.memPost (writeReq c 1 (s.askAddr c seq) rec_ ⟨.query, seq⟩)

/-- No field filled in. -/
def query0 : Query := ⟨0, 0, 0, 0, 0, 0, 0, 0, 0, 0, 0, 0, 0, 0, 0, 0, 0, 0⟩

/-- Tokens scored so far (R123). -/
def Step.scored (st : Step) : Nat := (st.sc.st.filter (fun e => decide (e.2.ph ≠ 0))).length

/-- t_run and the budget flag of a step's record at elapsed tick `el` (R118, R123): ticks from its launch. -/
def Step.timed (st : Step) (el : Nat) (q : Query) : Query :=
  let run := if st.launched then el - st.cnt.elLaunch else 0
  { q with
    tRun := run
    qflags := q.qflags ||| (if st.desc.budget ≠ 0 ∧ st.desc.budget < run then 2 else 0) }

/-- Send a cancel word (R394). -/
def State.sendCancel (s : State) (ctx epoch scope why fin : Nat) : State :=
  let id := s.core.nextCancel
  let s := s.sendPacket (s.firstPt s.glb.anchor) ctx (cancelWord ctx epoch scope why id) false
  { s with core := { s.core with
      nextCancel := if id ≥ 0xFFFFFFFF then 1 else id + 1
      cancels := s.core.cancels ++ [⟨id, ctx, fin, s.el⟩] } }

/-- Fields of the record of a done or cancelled step (R123). -/
def State.stepQuery (s : State) (c : Nat) (st : Step) (cancelled : Bool) : Query :=
  let x := s.ctx c
  let n := st.cnt
  st.timed s.el { query0 with
    epoch := st.epoch
    qflags := n.qflags
    descIndex := x.go.desc
    nTok := st.scored
    nExit := if cancelled then 0 else n.exits
    nOver := if cancelled then 0 else n.ovr
    nDrop := if cancelled then 0 else n.drop
    nRchk := n.rchk
    tLaunch := if st.launched then n.tLaunch else x.launch
    qWait := (if st.launched then n.tLaunch else x.launch) - x.go.taken
    mver := st.bind.mver
    tver := st.bind.tver
    cookie := st.desc.cookie }

/-- The frame and the held images of a step become free. -/
def State.dropFrame (s : State) (c : Nat) : State :=
  let s := s.dropImages c
  (s.modStep c (fun st => { st with frame := none, evicted := false, leaving := false, moving := false })).frames (s.ctx c).tent

/-- A cancelled step's record is written once its cancel done has come and its writes are answered (R393). -/
def State.cancelCheck (s : State) (c : Nat) : State :=
  match s.step? c with
  | none => s
  | some st =>
    if st.cancelled && !st.ended && !(s.core.cancels.any (fun w => decide (w.ctx = c ∧ w.fin = 0))) && !(s.writesOut c) then
      let q := s.stepQuery c st true
      (s.modStep c (fun st => { st with ended := true })).postQuery c 4 q
    else s

/-- Copies of a step that are out (R237). -/
def Step.outCopies (st : Step) : List (Nat × Nat) :=
  (st.rt.list.filter (fun e => e.snt && !e.ret)).map (fun e => (e.e.t, e.e.rank))

/-- The running step is marked cancelled (R238, R393): its copies that are out enter the drain table, its requests not yet
issued and its fired chains go. -/
def State.cancelMark (s : State) (c : Nat) (st : Step) : State :=
  let out := st.outCopies
  let s := if out = [] then s
    else { s with drain := s.drain ++ [⟨c, st.epoch, out, s.el, 32 * st.bind.dir.d32⟩] }
  let s := { s with
    mem := { s.mem with wait := s.mem.wait.filter (fun r => decide (r.ctx ≠ c) || decide (r.tries ≠ 0)) }
    xch := { s.xch with fired := s.xch.fired.filter (fun f => decide (f.1 ≠ c)) } }
  let s := s.modCtx c (fun x => { x with
    heldCancel := false
    waitDrain := false
    cancelled := if out = [] then x.cancelled else x.cancelled ++ [st.epoch]
    tracked := if out = [] then x.tracked.filter (fun e => decide (e ≠ st.epoch)) else x.tracked })
  s.modStep c (fun st => { st with cancelled := true, openAtoms := [] })

/-- Cancel the running step now (R238, R393). -/
def State.cancelNow (s : State) (c : Nat) (st : Step) : State :=
  let s := s.cancelMark c st
  let s := if s.tilesOf c = [] then s.dropFrame c else s
  (s.sendCancel c st.epoch 0 0 0).cancelCheck c

/-- The drain table has no entry for the copies of a step that are out (R240). -/
def State.drainFull (s : State) (st : Step) : Bool := decide (1024 ≤ s.drain.length) && !(decide (st.outCopies = []))

/-- A cancel is held (R240, R393): the first time that it waits for an entry of the drain table, it is counted. -/
def State.holdCancel (s : State) (c : Nat) (full : Bool) : State :=
  let s := if full && !(s.ctx c).waitDrain then s.countSat 0x40004 0 16 1 else s
  s.modCtx c (fun x => { x with heldCancel := true, waitDrain := x.waitDrain || full })

/-- Cancel the running step, or hold the cancel until its atom closes or the drain table has room (R240, R393). -/
def State.cancelStep (s : State) (c : Nat) : State :=
  match s.step? c with
  | none => s
  | some st =>
    if st.cancelled || st.ended then s
    else if st.inAtom then s.holdCancel c false
    else if s.drainFull st then s.holdCancel c true
    else s.cancelNow c st

/-- Cancel the running step for the loss of a chip (R436): its open atoms end with it, but it waits for the drain table
(R240). -/
def State.cancelLoss (s : State) (c : Nat) : State :=
  match s.step? c with
  | none => s
  | some st =>
    if st.cancelled || st.ended then s
    else if s.drainFull st then (s.modStep c (fun st => { st with openAtoms := [] })).holdCancel c true
    else s.cancelNow c st

/-- A held cancel applies when what it waited for has come (R393). -/
def State.heldCheck (s : State) (c : Nat) : State := if (s.ctx c).heldCancel then s.cancelStep c else s

/-- Atom of an instance (R284): its own, or the one that it joined. -/
def Step.atomOf (st : Step) (k : Nat) : Nat := tget k st.atoms k

/-- The step sends or consumes a message of instance `k`: its atom is open (R284). -/
def State.openAtom (s : State) (c k : Nat) : State :=
  s.modStep c (fun st => if st.openAtoms.contains (st.atomOf k) then st else { st with openAtoms := st.openAtoms ++ [st.atomOf k] })

/-- An atom goes on: one of its instances is open, or a collective that has fired and has not read its descriptor may join it
(R284; DEDUCED, log entry 82). -/
def Step.atomLives (st : Step) (a : Nat) : Bool :=
  st.insts.any (fun x => decide (st.atomOf x.cinst = a)) ||
  (decide (st.prevColl.map st.atomOf = some a) && st.chains.any (fun h => decide (h.c.op = 3 ∧ h.st = 1)))

/-- Atoms whose last collective is complete close (R284): cancels and victims that waited for them go on (R384, R393). -/
def State.atomCheck (s : State) (c : Nat) : State :=
  match s.step? c with
  | none => s
  | some st =>
    if st.openAtoms.all st.atomLives then s
    else ((s.modStep c (fun st => { st with openAtoms := st.openAtoms.filter st.atomLives })).heldCheck c).frames (s.ctx c).tent

/-- Entries of the drain table have freed: cancels that wait go on (R240). -/
def State.heldAll (s : State) : State := (tkeys (fun _ x => x.heldCancel) s.ctxs).foldl State.heldCheck s

/-- An epoch has drained (R238): its entry goes, it leaves both sets, cancels that waited for room go on. -/
def State.drained (s : State) (c e : Nat) : State :=
  let s := { s with drain := s.drain.filter (fun d => !(decide (d.ctx = c ∧ d.epoch = e)))
                    xch := { s.xch with table := s.xch.table.filter (fun t => match t.2 with
                      | some x => !(decide (x.ctx = c ∧ x.epoch = e ∧ x.kind = 1))
                      | none => false) } }
  let s := s.modCtx c (fun x => { x with
    tracked := x.tracked.filter (fun y => decide (y ≠ e))
    cancelled := x.cancelled.filter (fun y => decide (y ≠ e)) })
  s.heldAll

end Sys2Proof.Machine
end

