-- ==== Sys2Proof/Machine/Teardown.lean ====
section
/-! DEFINITION. Aborts (R305), faults and the teardown of a context (R395 to R399). -/

namespace Sys2Proof.Machine

/-- Group of a step as this chip sees it (R277). -/
def State.grpOf (s : State) (st : Step) : Grp := mkGrp st.bind.word s.torus s.own st.bind.tab

/-- Abort an instance: a message to every other member of the group (R305). -/
def State.abortInst (s : State) (c : Nat) (st : Step) (x : CollInst) (reason : Nat) : State :=
  let g := mkGrp x.word s.torus s.own st.bind.tab
  let h : MsgH := ⟨5, 0, (g.rc s.own).x, 0, x.cinst, x.attempt, 0, x.digest, true⟩
  (g.members.filter (fun m => decide (m ≠ s.glb.chip))).foldl
    (fun s m => s.sendShort c st.epoch m st.bind.mver (encMsg h (le 4 reason)) 0) s

/-- Abort every open instance of a step. -/
def State.abortAll (s : State) (c : Nat) (st : Step) (reason : Nat) : State :=
  st.insts.foldl (fun s x => s.abortInst c st x reason) s

/-- What a context has in the block's queues, tables and cores goes, and its own state with it (R397 steps 2, 4 and 6). -/
def State.clearOwn (s : State) (c : Nat) : State :=
  let s := s.count 0x70018 (s.hold.filter (fun e => decide (e.ctx = c) && decide (e.st ≠ 3))).length
  let s := { s with
    xch := { s.xch with
      table := s.xch.table.filter (fun e => match e.2 with | some x => decide (x.ctx ≠ c) | none => false)
      pool := s.xch.pool.filter (fun x => decide (x.ctx ≠ c))
      pend := s.xch.pend.filter (fun x => decide (x.ctx ≠ c))
      retq := s.xch.retq.filter (fun x => decide (x.ctx ≠ c))
      xfers := s.xch.xfers.filter (fun x => decide (x.ctx ≠ c))
      rxPuts := s.xch.rxPuts.filter (fun x => decide (x.ctx ≠ c))
      fired := s.xch.fired.filter (fun x => decide (x.1 ≠ c)) }
    drain := s.drain.filter (fun e => decide (e.ctx ≠ c))
    hold := s.hold.filter (fun e => decide (e.ctx ≠ c))
    col := ⟨s.col.kept.filter (fun e => decide (e.1.ctx ≠ c)), s.col.keptRing.filter (fun e => decide (e.1.ctx ≠ c))⟩
    ktl := { s.ktl with cores := s.ktl.cores.filter (fun e => decide (e.2.ctx ≠ c)) }
    stp := { s.stp with fetchq := s.stp.fetchq.filter (fun d => decide (d ≠ c)) }
    mem := { s.mem with
      wait := s.mem.wait.filter (fun r => decide (r.ctx ≠ c) || decide (r.tries ≠ 0))
      done := s.mem.done.filter (fun d => decide (d.ctx ≠ c)) } }
  s.modCtx c (fun x => { x with
    key := 0#64
    tracked := []
    cancelled := []
    counters := []
    step := none
    vframe := none
    cand := none
    waitEpoch := false
    heldCancel := false
    waitDrain := false
    ask := {}
    go := {} })

/-- Release everything that a context holds on this chip (R397): images, table copies and the frame go to those that wait
for them, and so does the room in the drain table. -/
def State.release (s : State) (c : Nat) : State :=
  (((((s.clearOwn c).dropImages c).unhold c).frames (s.ctx c).tent)).heldAll

/-- A teardown or disable completes when its cancel done has come and no write is outstanding (R397). -/
def State.downCheck (s : State) (c : Nat) : State :=
  if (s.ctx c).tdown && !(s.core.cancels.any (fun w => decide (w.ctx = c ∧ w.fin = 1))) && !(s.writesOut c) then
    s.modCtx c (fun x => { x with enable := false, tdown := false, st := .disabled, downWait := false })
  else s

/-- The steps of R397 after the first, with `why` of the cancel word. -/
def State.tearDown (s : State) (c why : Nat) : State :=
  let s := match s.step? c with
    | none => s
    | some st => s.abortAll c st 7
  let s := s.modCtx c (fun x => { x with tdown := true, downWait := true, torn := true })
  ((s.sendCancel c 0 1 why 1).release c).downCheck c

/-- A fault charged to a context (R396 to R398). For context 0 it is a block fault (R52). -/
def State.ctxFault (s : State) (c code : Nat) : State :=
  if c = 0 then s
  else if (s.ctx c).active then
    let s := s.count 0xA0008 1
    let s := s.modCtx c (fun x => { x with fault := code })
    ((s.event 0x30 c code 0).notice 1).tearDown c 1
  else s.count 0xA0008 1

/-- A memory fault (R52): a teardown, or a block fault for context 0. -/
def State.memFault (s : State) (c code ch : Nat) : State :=
  if c = 0 then (s.notice 2).event 0x0D 0 code ch else s.ctxFault c code

/-- The fault path of an instance (R305): aborts, then the teardown with the fault's code of R396. -/
def State.collFault (s : State) (c : Nat) (x : CollInst) (reason code : Nat) : State :=
  match s.step? c with
  | none => s
  | some st =>
    ((s.abortInst c st x reason).modStep c (fun st => { st with insts := st.insts.filter (fun y => decide (y.cinst ≠ x.cinst)) })).ctxFault c code

end Sys2Proof.Machine
end

