-- ==== Sys2Proof/Machine/Ask.lean ====
section
/-! DEFINITION. Answers to query records (R125 to R127), the end of a step's cycle (R104). -/

namespace Sys2Proof.Machine

/-- The record that leaves with a write request (R123): t_run counts to the request. -/
def State.stampQuery (s : State) (r : MemReq) : State × MemReq :=
  match s.step? r.ctx with
  | none => (s, r)
  | some st =>
    match st.qrec with
    | none => (s, r)
    | some q =>
      let q := st.timed s.el q
      (s.modStep r.ctx (fun st => { st with qrec := some q }), { r with data := encQuery q })

/-- Lead of the deadline of the record whose write response arrives (R125). An ASK_LEAD written before that counts (R517). -/
def State.leadOf (s : State) (c : Nat) : Nat :=
  let x := s.ctx c
  if (x.ask.pend = 1 ∨ x.ask.pend = 4) ∧ x.go.lead ≠ 0xFFFFFFFF then x.go.lead else s.page c 0x28

/-- Read the answer half (R125). -/
def State.readAnswer (s : State) (c : Nat) : State :=
  let s := s.modCtx c (fun x => { x with ask := { x.ask with reading := true, retry := s.el + s.rdMin 0x18024 1 } })
  s.memPost (readReq c 1 (s.askAddr c (s.page c 0x0C) + 64) 64 ⟨.answer, 0⟩)

/-- Has the deadline or re-read tick of a context come (R125, R127)? -/
def State.askDue (s : State) (x : Ctx) : Bool :=
  x.active && x.ask.set_ && !x.ask.reading && x.ask.came.isNone &&
  (if x.ask.abs then decide (x.ask.due ≤ s.now) else decide (x.ask.due ≤ s.el))

/-- The deadline or re-read tick comes: the answer half is read, grace runs from here (R125 to R127). -/
def State.askCome (s : State) (c : Nat) : State :=
  (s.modCtx c (fun x => { x with ask := { x.ask with came := some s.el } })).readAnswer c

/-- Is the answer half an answer to the present query (R125)? -/
def State.answerOk (s : State) (c : Nat) (b : Bytes) : Bool :=
  let a := parseAnswer b
  crcOk 64 b && decide (a.seq = s.page c 0x0C) && decide (1 ≤ a.verb ∧ a.verb ≤ 3) &&
  decide ((s.ctx c).ask.rev ≠ some a.rev)

/-- Take an answer (R127). -/
def State.takeAnswer (s : State) (c : Nat) (a : Answer) : State :=
  if a.verb = 1 then
    (s.modCtx c (fun x => { x with
      go := ⟨a.descIndex, a.lead, a.at_, s.now⟩
      ask := { late := x.ask.late } })).enterReady c
  else if a.verb = 2 then
    s.modCtx c (fun x => { x with
      st := .waiting
      ask := { x.ask with
        reading := false
        rev := some a.rev
        came := none
        set_ := true
        abs := decide (s.now < a.at_)
        due := if s.now < a.at_ then a.at_ else s.el + s.rdMin 0x18024 1 } })
  else s.modCtx c (fun x => { x with st := .stopped, ask := { late := x.ask.late } })

/- The commands -/

/-- Messages kept for instances that the step never issued go with its epoch (R287). -/
def State.pruneKept (s : State) (c e : Nat) : State :=
  let old (m : Short × Nat) : Bool := decide (m.1.ctx = c ∧ m.1.epoch = e)
  let oldR (l : Landed × Nat) : Bool := decide (l.1.ctx = c ∧ l.1.epoch = e)
  let gone := s.col.kept.filter old
  let aborts := (gone.filter (fun m => decide ((decMsg m.1.bytes).mkind = 5))).length
  let s := (s.count 0x6401C aborts).count 0x64018 (gone.length - aborts + (s.col.keptRing.filter oldR).length)
  { s with col := ⟨s.col.kept.filter (fun m => !(old m)), s.col.keptRing.filter (fun l => !(oldR l))⟩ }

/-- QUERY_WRITE_RESPONSE. -/
def queryWritten (c : Nat) (s : State) : State :=
  match s.takeDone c .query with
  | none => s
  | some (_, s) =>
    let x := s.ctx c
    let k := x.ask.pend
    let s := if k = 1 ∨ k = 4 then
        match s.step? c with
        | none => s
        | some st =>
          let s := (((s.recDigest c).dropFrame c).unhold c).pruneKept c st.epoch
          s.modCtx c (fun x => { x with
            step := none
            tracked := if k = 1 then x.tracked.filter (fun e => decide (e ≠ st.epoch)) else x.tracked })
      else s
    let s := if x.st = .asking ∨ x.st = .fetching ∨ x.st = .running then
        s.modCtx c (fun x => { x with
          st := .asking
          ask := { x.ask with pend := 0, set_ := true, abs := false, due := s.el + s.leadOf c } })
      else s
    s.downCheck c

def execQueryWriteResponse (ctx : Nat) (s : State) : Host.Outcome State Fault Refusal :=
  .next (if s.alive then queryWritten ctx s else s)

/-- ASK_DEADLINE (R125). -/
def askDeadlineOp (c : Nat) (s : State) : State :=
  if s.askDue (s.ctx c) && decide ((s.ctx c).st = .asking) then s.askCome c else s

def execAskDeadline (ctx : Nat) (s : State) : Host.Outcome State Fault Refusal :=
  .next (if s.alive then askDeadlineOp ctx s else s)

/-- ASK_REREAD_TICK (R127). -/
def askRereadOp (c : Nat) (s : State) : State :=
  if s.askDue (s.ctx c) && decide ((s.ctx c).st = .waiting) then s.askCome c else s

def execAskRereadTick (ctx : Nat) (s : State) : Host.Outcome State Fault Refusal :=
  .next (if s.alive then askRereadOp ctx s else s)

/-- ASK_RETRY_TIMER (R126). -/
def askRetryOp (c : Nat) (s : State) : State :=
  let x := s.ctx c
  if x.active && x.ask.set_ && x.ask.came.isSome && !x.ask.reading && decide (x.ask.retry ≤ s.el) then s.readAnswer c
  else s

def execAskRetryTimer (ctx : Nat) (s : State) : Host.Outcome State Fault Refusal :=
  .next (if s.alive then askRetryOp ctx s else s)

/-- ANSWER_READ (R125 to R127). -/
def answerReadOp (c : Nat) (s : State) : State :=
  match s.takeDone c .answer with
  | none => s
  | some (d, s) =>
    if !((s.ctx c).active && (s.ctx c).ask.reading) then s
    else if s.answerOk c d.data then
      (s.record 1 0 (some c) 0 s.now (parseAnswer d.data).seq d.data false).takeAnswer c (parseAnswer d.data)
    else s.modCtx c (fun x => { x with ask := { x.ask with reading := false, late := true } })

def execAnswerRead (ctx : Nat) (s : State) : Host.Outcome State Fault Refusal :=
  .next (if s.alive then answerReadOp ctx s else s)

/-- ASK_GRACE_EXPIRE (R126). -/
def askGraceOp (c : Nat) (s : State) : State :=
  let x := s.ctx c
  match x.ask.came with
  | none => s
  | some t => if x.active && x.ask.set_ && decide (t + s.rd 0x18028 ≤ s.el) then s.ctxFault c 0x06 else s

def execAskGraceExpire (ctx : Nat) (s : State) : Host.Outcome State Fault Refusal :=
  .next (if s.alive then askGraceOp ctx s else s)

end Sys2Proof.Machine
end

