-- ==== Sys2Proof/Machine/Contexts.lean ====
section
/-! DEFINITION. Commands on contexts: enable (R105, R526), disable (R395), cancel (R393), tent writes
(R377), frame switches (R386), cancel timeouts (R394), context-page CTL writes (R375). -/

namespace Sys2Proof.Machine

/-- Enable a context (R105, R235, R375, R381, R390, R526). -/
def State.enableCtx (s : State) (c : Nat) : State :=
  let x := s.ctx c
  if x.tdown then s.ignored (pageAt c 0)
  else if x.enable then s
  else if s.page2 c 0x20 / 128 = 0 ∨ s.page c 0x1C = 0 ∨ 12 < s.page c 0x1C then s.ignored (pageAt c 0)
  else
    let key := Config.tagKey s.free
    let s := { s with free := s.free + 1 }
    let s := s.modCtx c (fun x => { ({} : Ctx) with
      enable := true
      rt := x.rt
      tent := x.tent
      st := .asking
      epoch := x.epoch
      key := key })
    s.postQuery c 2 query0

/-- Disable a context (R395). -/
def State.disableCtx (s : State) (c : Nat) : State :=
  let x := s.ctx c
  if x.enable && !x.tdown then s.tearDown c 2 else s

/-- A write of one to CANCEL (R393). -/
def State.cancelCtx (s : State) (c : Nat) : State :=
  let x := s.ctx c
  if !x.active then s
  else if x.st = .running then s.cancelStep c
  else if x.st = .fetching ∧ x.waitEpoch = true then s.modCtx c (fun x => { x with heldCancel := true })
  else s

/-- A job context, by number (R373). -/
def isJob (c : Nat) : Bool := decide (1 ≤ c) && decide (c < 4096)

/-- A control-port command can act: the block is alive, and the start is complete with no shut-down
complete (R487), or in minimal mode (R61). -/
def State.portOpen (s : State) : Bool :=
  s.alive && (decide (s.start.phase = .done ∧ s.start.shut ≠ 3) || decide (s.start.phase = .minimal))

/-- CTL as a write of its fields carries it (R375). -/
def State.ctlWord (s : State) (c en ca : Nat) : Nat :=
  let x := s.ctx c
  x.tent % 64 * 2 ^ 8 + b2n x.rt * 8 + ca * 2 + en

/-- Such a write is recorded (R414) and acknowledged. -/
def State.ctlWrote (s : State) (c en ca : Nat) : State :=
  let s := s.recWrite (pageAt c 0) (s.ctlWord c en ca)
  { s with ctl := { s.ctl with rdata := 0#32, rpar := 0#4, err := false } }

def contextEnableOp (c : Nat) (s : State) : State := if s.portOpen && isJob c then (s.enableCtx c).ctlWrote c 1 0 else s

def execContextEnable (ctx : Nat) (s : State) : Host.Outcome State Fault Refusal :=
  .next (contextEnableOp ctx s)

def contextDisableOp (c : Nat) (s : State) : State := if s.portOpen && isJob c then (s.disableCtx c).ctlWrote c 0 0 else s

def execContextDisable (ctx : Nat) (s : State) : Host.Outcome State Fault Refusal :=
  .next (contextDisableOp ctx s)

def contextCancelOp (c : Nat) (s : State) : State := if s.portOpen && isJob c then (s.cancelCtx c).ctlWrote c 1 1 else s

def execContextCancel (ctx : Nat) (s : State) : Host.Outcome State Fault Refusal :=
  .next (contextCancelOp ctx s)

/-- A write of `w` to the CTL word of a context's page (R375, R393, R395, R398). -/
def State.writeCtl (s : State) (c w : Nat) : State :=
  let x := s.ctx c
  let rt := bit w 3
  let tent := bits w 8 6
  let s := if decide (rt = x.rt) && decide (tent = x.tent) then s
    else if x.enable || x.tdown then s.ignored (pageAt c 0)
    else s.modCtx c (fun x => { x with rt := rt, tent := tent })
  if bit w 0 then
    let s := s.enableCtx c
    if bit w 1 && x.enable then s.cancelCtx c else s
  else if x.enable then s.disableCtx c
  else s

/-- Staging that other tents and `w` would take in pitch `p`. -/
def State.stageSum (s : State) (n w p : Nat) : Nat :=
  ((List.range 64).map (fun m =>
    let v := if m = n then w else s.tentWord m
    if tentCount v ≠ 0 ∧ (tentPitches v).contains p then tentStage v else 0)).foldl (· + ·) 0

/-- CTX_STAGE_MAX (R520). -/
def State.stageMax (s : State) : Nat := 240 - (s.rd 0x5000C + s.rd 0x70004 + s.rd 0x80004)

/-- The cases of R377. -/
def State.tentBad (s : State) (n w : Nat) : Bool :=
  decide (tkeys (fun _ x => (x.enable || x.tdown) && decide (x.tent = n)) s.ctxs ≠ []) ||
  (decide (tentCount w ≠ 0) && decide (s.nCores < tentFirst w + tentCount w)) ||
  (List.range 64).any (fun m => decide (m ≠ n) && decide (tentCount w ≠ 0) &&
    (tentCores (s.tentWord m)).any (fun c => decide (tentFirst w ≤ c ∧ c < tentFirst w + tentCount w))) ||
  decide (tentFrames w ≤ tentRt w) ||
  (tentPitches w).any (fun p => decide (s.stageMax < s.stageSum n w p))

/-- TENT_WRITE (R377). -/
def tentWriteOp (n : Nat) (w : W32) (s : State) : State :=
  if !s.portOpen then s
  else
    let s := if s.tentBad n w.toNat then s.ignored (tentAddr n) else s.wr (tentAddr n) (w.toNat &&& 0xFFFFFF7F)
    let s := s.recWrite (tentAddr n) w.toNat
    { s with ctl := { s.ctl with rdata := 0#32, rpar := 0#4, err := false } }

def execTentWrite (tent : Nat) (data : W32) (s : State) : Host.Outcome State Fault Refusal :=
  .next (tentWriteOp tent data s)

/-- The answer to a cancel word has come, or is not waited for longer (R393, R394, R397). -/
def State.cancelFin (s : State) (w : CancelWait) : State :=
  let s := { s with core := { s.core with cancels := s.core.cancels.filter (fun v => decide (v.id ≠ w.id)) } }
  if w.fin = 1 then s.downCheck w.ctx else s.cancelCheck w.ctx

/-- CANCEL_DONE_TIMEOUT (R394). -/
def cancelTimeoutOp (id : Nat) (s : State) : State :=
  match s.core.cancels.find? (fun w => decide (w.id = id)) with
  | none => s
  | some w =>
    if s.on && decide (w.at_ + s.rd 0xA000C ≤ s.el) then
      ((s.event 0x31 w.ctx id 0).notice 2).cancelFin w
    else s

def execCancelDoneTimeout (id : Nat) (s : State) : Host.Outcome State Fault Refusal :=
  .next (cancelTimeoutOp id s)

/-- FRAME_SWITCH_DONE (R386): t_sw is over, and the state that moves has been written out and read back. -/
def frameSwitchOp (n : Nat) (s : State) : State :=
  match s.stepsWhere (fun c x st => decide (x.tent = n) && st.moving && decide (st.swEnd ≤ s.el) && !(s.unitOut st.victim .saveOut) &&
      !(s.unitOut c .saveRead)) with
  | [] => s
  | c :: _ =>
    s.modStep c (fun st => { st with moving := false })

def execFrameSwitchDone (tent : Nat) (s : State) : Host.Outcome State Fault Refusal :=
  .next (if s.alive then frameSwitchOp tent s else s)

end Sys2Proof.Machine
end

