-- ==== Sys2Proof/Machine/Control.lean ====
section
/-! DEFINITION. The control port: reading and writing registers (R14, R15, R60, R61, R514 to R527), write
ones to clear (R468), latched reads (R515). -/

namespace Sys2Proof.Machine

/-- Number of the state in STS (R525). -/
def cstateCode : CState → Nat
  | .disabled => 0
  | .asking => 1
  | .waiting => 2
  | .ready => 3
  | .fetching => 4
  | .running => 5
  | .stopped => 6

/-- A mask of the numbers below `n` that meet `p`. -/
def maskOf (n : Nat) (p : Nat → Bool) : Nat := ((List.range n).map (fun i => b2n (p i) * 2 ^ i)).foldl (· + ·) 0

/-- Contexts whose step is bound to a version other than the live one (R99, R178). -/
def State.oldMember (s : State) : Nat := (s.stepsWhere (fun _ _ st => decide (st.bind.mver ≠ s.memb.ver))).length

def State.oldTable (s : State) : Nat := (s.stepsWhere (fun _ _ st => decide (st.bind.tver ≠ s.stn.ver))).length

/-- CTX_SLOW_TOP (R392). -/
def State.slowTop (s : State) : Nat :=
  let cs := tkeys (fun c x => decide (0 < c) && x.enable && !x.rt) s.ctxs
  match cs.foldl (fun (m : Option Nat) c => match m with
      | none => some c
      | some b => if (s.ctx b).slowAvg < (s.ctx c).slowAvg then some c else some b) none with
  | none => 0
  | some c => c * 2 ^ 16 + (s.ctx c).slowAvg

/-- GLB_START_STS (R484, R496). -/
def State.startSts (s : State) : Nat :=
  b2n (decide (s.start.phase = .done)) * 2 ^ 31 + b2n (decide (s.start.phase = .minimal)) * 2 ^ 30 +
  s.start.fails % 4 * 2 ^ 28 + maskOf 4 (fun p => s.pitchUp p) * 2 ^ 24 + s.start.tested % 16 * 2 ^ 20 +
  s.start.reason % 256 * 2 ^ 8 + s.start.note % 256

/-- Layer at the front of a router copy (R372): that of the next piece to be read. -/
def State.rinfFront (s : State) : Nat :=
  let n := (s.xch.xfers.filter (fun p => decide (p.ctx = 0 ∧ p.ref = 256))).length
  s.rsl.rinf.layers.getD (s.rsl.rinf.layers.length - n) (s.rsl.rinf.layers.getLastD 0)

/-- GLB_SHUT_STS (R496). -/
def State.shutSts (s : State) : Nat :=
  s.start.shutFailed % 16 * 16 + s.start.shutPitch % 4 * 4 + b2n s.start.hrFail * 2 + b2n (decide (s.start.shut = 3))

/-- The accounting counters of a context page, by k (R390, R391). -/
def Ctx.account (x : Ctx) (k : Nat) : Nat :=
  if k = 6 then tget 0 x.acct acctFj / 10 ^ 6 % 2 ^ 64 else tget 0 x.acct k

/-- Fields of a context page that the block keeps outside the register file (R375, R525). -/
def State.pageField (s : State) (c off : Nat) : Option Nat :=
  let x := s.ctx c
  if 0xA0 ≤ off ∧ off < 0xD8 then
    some (if off % 8 = 0 then x.account ((off - 0xA0) / 8) % 2 ^ 32 else x.account ((off - 0xA0) / 8) / 2 ^ 32)
  else if c = 0 then some 0
  else if off = 0 then some (x.fault % 256 * 2 ^ 16 + x.tent % 64 * 2 ^ 8 + b2n x.tdown * 16 + b2n x.rt * 8 + b2n x.enable)
  else if off = 8 then some (x.epoch % 256 * 2 ^ 16 +
    b2n (match x.step with | some st => decide (st.frame = none) | none => false) * 8 + cstateCode x.st)
  else if off = 0x2C then some (x.tagFail % 65536 * 2 ^ 16 + x.missed % 256)
  else if off = 0x8C then some (x.affObs % 256)
  else if off = 0x90 then some (x.slowAvg % 65536 * 2 ^ 16 + x.slowNow % 65536)
  else none

/-- Registers whose value the block forms from its state. -/
def State.derived (s : State) (a : Nat) : Option Nat :=
  if a = 0x0C then some (s.glb.anchor * 16 + s.glb.present)
  else if a = 0x10 then some (s.now % 2 ^ 32)
  else if a = 0x14 then some (s.now / 2 ^ 32)
  else if a = 0x18 then some (s.own.z * 2 ^ 24 + s.own.y * 2 ^ 20 + s.own.x * 2 ^ 16 + s.glb.chip)
  else if a = 0x1C then some ((s.glb.nz - 1) * 256 + (s.glb.ny - 1) * 16 + (s.glb.nx - 1))
  else if a = 0x44 then some (maskOf 16 (fun c => (s.ch c).iso && bit s.glb.present (c / 4)))
  else if a = 0x48 then some (maskOf 32 (fun c => (s.pt c).iso && bit s.glb.present (c / 8)))
  else if a = 0x50 then some s.startSts
  else if a = 0x5C then some s.shutSts
  else if a = 0x18014 then some (b2n s.stp.armed * 2 + b2n s.stp.live)
  else if a = 0x30004 then some (s.stn.ver * 2 ^ 16 + s.oldTable % 4096 * 16 + b2n s.stn.stage.armed)
  else if a = 0x40004 then some (s.rd a % 2 ^ 16 + s.drain.length * 2 ^ 16)
  else if a = 0x50010 then some (s.rdF a 16 16 * 2 ^ 16 + s.chunksUsed)
  else if a = 0x50014 then some (s.rdF a 16 16 * 2 ^ 16 + s.xch.pend.length)
  else if a = 0x5004C then some (s.oldMember % 4096 * 2 ^ 20 + s.rdF a 4 16 * 16 + b2n s.memb.armed)
  else if a = 0x50050 then some (s.memb.sver * 2 ^ 16 + s.memb.ver)
  else if 0x50100 ≤ a ∧ a < 0x50220 then
    let n := (a - 0x50100) / 4
    some (s.rdF a 16 16 * 2 ^ 16 + (s.port n).steer % 32 * 256 + (s.port n).st % 16)
  else if 0x54000 ≤ a ∧ a < 0x58000 then some (tget 0 s.memb.live ((a - 0x54000) / 4))
  else if a = 0x9001C then some (s.bal.old.length % 4096 * 16 + b2n s.bal.rsw.isSome)
  else if a = 0xC005C then some (s.rsl.wswOld.length % 4096 * 16 + b2n s.rsl.wsw.isSome)
  else if a = 0xC006C then some (s.rsl.einf.entry % 65536 * 2 ^ 16 + s.rdF a 1 2 * 2 + b2n s.rsl.einf.busy)
  else if a = 0xC007C then some (s.rinfFront % 256 * 256 + s.rdF a 1 2 * 2 + b2n s.rsl.rinf.busy)
  else if a = 0xC003C then some (s.memb.lost.length % 8192 * 2 ^ 16 + s.rd a % 4096)
  else if a = 0xC0024 then some (s.rd a / 2 * 2 + b2n s.rsl.snap.busy)
  else if a = 0xA0000 then some s.stageMax
  else if a = 0xA0004 then some s.slowTop
  else if a = 0xB0014 then some s.lnt.ents.length
  else if a = 0xB001C then some (s.rd a % 4 + b2n s.lnt.bivOff * 4)
  else if a = 0xE5008 then some (s.fnc.buf.length % 2048 * 16 + s.rd a % 16 / 2 * 2 + b2n s.fnc.pend.isSome)
  else if a = 0xF001C then some s.det.head
  else if a = 0xF000C then some (s.rd a / 2 * 2 + b2n (s.pitchesUp ≠ [] ∧ s.pitchesUp.all (fun p => (s.pitch p).locked)))
  else if a < pageBase then none
  else s.pageField ((a - pageBase) / 0x1000) (a % 0x1000)

/-- A per-pitch register whose pitch is absent or held (R516). -/
def State.pitchHidden (s : State) (a : Nat) : Bool :=
  decide (0xD0000 ≤ a ∧ a < 0xD0400) && !(s.pitchLive ((a - 0xD0000) / 0x100))

/-- What a read returns, before latches and clearing (R14, R516). -/
def State.regValue (s : State) (a : Nat) : Nat :=
  if s.pitchHidden a || (regRow a).isNone then 0
  else match s.derived a with
    | some v => v % 2 ^ 32
    | none => s.rd a

/-- An access outside the GLB_ region needs a completed start (R61). -/
def State.ctlOpen (s : State) (a : Nat) : Bool := s.portOpen || decide (a < 0x10000)

/-- Even parity of the four bytes of a word (R60). -/
def bytePar (v : Nat) : BitVec 4 := BitVec.ofNat 4 (maskOf 4 (fun i => decide (parity 8 (bits v (8 * i) 8) = 1)))

/-- The outputs of a read (R60). -/
def State.answer (s : State) (v : Nat) : State :=
  { s with ctl := { s.ctl with rdata := BitVec.ofNat 32 v, rpar := bytePar v, err := false } }

/-- The outputs of an access that is not performed (R61). -/
def State.refuse (s : State) : State := { s with ctl := { s.ctl with rdata := 0#32, rpar := 0#4, err := true } }

/-- A write's outputs. -/
def State.ackWrite (s : State) : State := { s with ctl := { s.ctl with rdata := 0#32, rpar := 0#4, err := false } }

/-- Remember the value a register had before the first write of this tick (R498). -/
def State.fresh (s : State) (a : Nat) : State :=
  if s.ctl.fresh.any (fun e => decide (e.1 = a)) then s
  else { s with ctl := { s.ctl with fresh := (a, s.rd a) :: s.ctl.fresh } }

/-- Model resident (R144). -/
def State.resident (s : State) (m : Nat) : Bool := bit (s.rd2 0x20000) m

/-- The write guards of R522 outside the CTL words and the fields of other commands. -/
def State.guarded (s : State) (a : Nat) : Bool :=
  if 0x10000 ≤ a ∧ a < 0x14000 ∨ a = 0x18000 then !s.stp.live
  else if 0x14000 ≤ a ∧ a < 0x18000 ∨ a = 0x18004 then s.stp.live
  else if 0x20100 ≤ a ∧ a < 0x20300 then s.resident ((a - 0x20100) / 8)
  else if 0x20300 ≤ a ∧ a < 0x20400 then s.resident ((a - 0x20300) / 4)
  else if 0x90100 ≤ a ∧ a < 0x90200 then s.resident ((a - 0x90100) / 4)
  else if 0x90200 ≤ a ∧ a < 0x90400 then s.resident ((a - 0x90200) / 8)
  else if 0xC0100 ≤ a ∧ a < 0xC0300 then s.resident ((a - 0xC0100) / 8)
  else if a = 0xF0010 ∨ a = 0xF0014 ∨ a = 0xF0018 then bit (s.rd 0xF0000) 2
  else if pageBase ≤ a then
    let x := s.ctx ((a - pageBase) / 0x1000)
    pageGuarded (a % 0x1000) && (x.enable || x.tdown)
  else false

/-- A write that is a command of its own: to a trigger, one that gives it its value (a bit of the register, or the word
one); to MODEL_SET, MODEL_CLR, LOST_DECL, DET_CTL, a tent or a TP field, any. -/
def ownWrite (a v : Nat) : Bool :=
  ([0x54, 0x58, 0xB0000].contains a && bit v 0) ||
  ([0x18010, 0x3001C, 0x50044, 0x90018, 0xC0034, 0xC0058, 0xC0068, 0xC0078].contains a && decide (v = 1)) ||
  (decide (a = 0xE5000) && (bit v 0 || bit v 1)) || (decide (a = 0xC0020) && bit v 1) ||
  [0x20008, 0x2000C, 0xC0038, 0xF0000].contains a ||
  decide (0xA0100 ≤ a ∧ a < 0xA0200) || decide (0xE0000 ≤ a ∧ a < 0xE5000)

/-- The store of the fields that a mask admits. -/
def State.store (s : State) (a mask v : Nat) : State :=
  (s.fresh a).wr a ((s.rd a &&& (ones ^^^ mask)) ||| (v &&& mask))

/-- Perform a write (R14, R15, R516, R521, R522, R527). -/
def State.writeReg (s : State) (a v : Nat) : State :=
  if pageBase ≤ a ∧ a < pageBase + 0x1000 then s.ignored a
  else match regRow a with
  | none => s
  | some r =>
    if s.pitchHidden a then s
    else if pageBase ≤ a ∧ a % 0x1000 = 0 then s.writeCtl ((a - pageBase) / 0x1000) v
    else if r.rw ≠ 0 then
      if s.guarded a then s.ignored a
      else if !(regInRange a (v &&& r.rw)) then s.ignored a
      else s.store a r.rw v
    else if r.lk ≠ 0 then
      if s.start.lock then s.ignored a
      else if !(regInRange a (v &&& r.lk)) then s.ignored a
      else s.store a r.lk v
    else s

/-- Is the register's write a matter of its W1C bits? -/
def isW1c (a : Nat) : Bool := match regRow a with | some r => decide (r.w1c ≠ 0) | none => false

/-- CONTROL_WRITE (R60, R61). -/
def controlWriteOp (addr : BitVec 23) (data : W32) (apar : Bool) (wpar : BitVec 4) (s : State) : State :=
  let a := 4 * addr.toNat
  let v := data.toNat
  if !s.alive then s
  else if decide (parity 23 addr.toNat ≠ 1 - b2n apar) || decide (bytePar v ≠ wpar) then
    (s.event 0x01 0 a 1).refuse
  else if !(s.ctlOpen a) then s.refuse
  else if a = 0xE5000 ∧ v % 4 = 3 then (s.ignored a).ackWrite
  else if ownWrite a v || isW1c a then s
  else ((s.writeReg a v).recWrite a v).ackWrite

def execControlWrite (addr : BitVec 23) (data : W32) (apar : Bool) (wpar : BitVec 4) (s : State) :
    Host.Outcome State Fault Refusal :=
  .next (controlWriteOp addr data apar wpar s)

/-- W1C_WRITE (R468): `hwSet` lists the bits that hardware sets within the arbitration window. -/
def w1cWriteOp (addr : BitVec 23) (data hwSet : W32) (s : State) : State :=
  let a := 4 * addr.toNat
  if !s.alive || !(s.ctlOpen a) || s.pitchHidden a then s
  else match regRow a with
  | none => s
  | some r =>
    if r.w1c = 0 then s
    else (s.wr a (s.rd a &&& (ones ^^^ (data.toNat &&& r.w1c)) ||| (hwSet.toNat &&& r.w1c))).recWrite a data.toNat |>.ackWrite

def execW1cWrite (addr : BitVec 23) (data hwSet : W32) (s : State) : Host.Outcome State Fault Refusal :=
  .next (w1cWriteOp addr data hwSet s)

/-- Return the RC fields of a register to their reset value (R15). -/
def State.clearRc (s : State) (a : Nat) : State :=
  match regRow a with
  | none => s
  | some r => if r.rc = 0 then s else s.wr a ((s.rd a &&& (ones ^^^ r.rc)) ||| (r.rst &&& r.rc))

/-- A read that is no read of LNT_READ0 and latches nothing (R15, R515). -/
def rcReadOp (addr : BitVec 23) (s : State) : State :=
  let a := 4 * addr.toNat
  if !s.alive || !(s.ctlOpen a) || decide (a = 0xB0004) || isLatchLow a then s
  else if isLatchLow (a - 4) && decide (4 ≤ a) then s.answer (tget 0 s.ctl.latch a)
  else if s.pitchHidden a then s.answer 0
  else (s.clearRc a).answer (s.regValue a)

def execRcRead (addr : BitVec 23) (s : State) : Host.Outcome State Fault Refusal :=
  .next (rcReadOp addr s)

/-- LOW_WORD_LATCH_READ (R515). -/
def latchReadOp (addr : BitVec 23) (s : State) : State :=
  let a := 4 * addr.toNat
  if !s.alive || !(s.ctlOpen a) || !(isLatchLow a) then s
  else
    let v := s.regValue a
    let h := s.regValue (a + 4)
    ({ s with ctl := { s.ctl with latch := tput 0 (a + 4) h s.ctl.latch } }).answer v

def execLowWordLatchRead (addr : BitVec 23) (s : State) : Host.Outcome State Fault Refusal :=
  .next (latchReadOp addr s)

/-- CTL_ERR_READ (R61). -/
def ctlErrReadOp (addr : BitVec 23) (apar : Bool) (s : State) : State :=
  let a := 4 * addr.toNat
  if !s.alive then s
  else if parity 23 addr.toNat ≠ b2n apar then (s.event 0x01 0 a 0).refuse
  else if !(s.ctlOpen a) then s.refuse
  else s

def execCtlErrRead (addr : BitVec 23) (apar : Bool) (s : State) : Host.Outcome State Fault Refusal :=
  .next (ctlErrReadOp addr apar s)

end Sys2Proof.Machine
end

