-- ==== Sys2Proof/Machine/Lantern.lean ====
section
/-! DEFINITION. The Lantern queue's commands (R462 to R466), and the bookkeeping of detections, remaps and
checkpoint advice (R31, R432, R446, R519). -/

namespace Sys2Proof.Machine

/-- Level, width and position of a resource's field in RSL_SPARE_p, and the spares of a pitch (R453). -/
def spareField (res : Nat) : Nat × Nat × Nat :=
  match res with
  | 0 => (26, 6, 34)
  | 1 => (24, 2, 2)
  | 2 => (22, 2, 2)
  | 3 => (0, 8, 256)
  | 4 => (8, 8, 256)
  | 5 => (16, 4, 8)
  | _ => (20, 2, 2)

/-- Advise a checkpoint, at most once in a window (R446). -/
def State.advise (s : State) (why : Nat) : State :=
  if s.rsl.advised then s
  else
    let n := s.rsl.det
    (({ s with rsl := { s.rsl with advised := true, advGo := s.rsl.advGo || (bit (s.rd 0xC0020) 0 && !s.rsl.snap.busy) } }).notice 3).event 0x40 0 n why

/-- Count a detection (R432, R446). -/
def State.detect (s : State) : State :=
  let s := s.count 0xC0010 1
  let s := { s with rsl := { s.rsl with det := s.rsl.det + 1 } }
  if s.rsl.det = s.rdF 0xC001C 0 16 then s.advise 0 else s

/-- Count `n` detections. -/
def State.detects (s : State) (n : Nat) : State := (List.range n).foldl (fun s _ => s.detect) s

/-- Words of the remap list (R519). -/
def State.remapList (s : State) : List Nat := (List.range (s.rdF 0xC0080 0 9)).map (fun k => s.rd (0xC0400 + 4 * k))

/-- Physical indices of the spares of a kind that the list shows in use in pitch `p`. -/
def State.sparesUsed (s : State) (p res : Nat) : List Nat :=
  (s.remapList.filter (fun w => decide (bits w 28 4 = res ∧ bits w 26 2 = p))).map (fun w => bits w 0 12)

/-- List a remap and count it (R477, R519). -/
def State.listRemap (s : State) (p res logical phys : Nat) : State :=
  let f := spareField res
  let n := s.rdF 0xC0080 0 9
  let s := s.countSat (0xC0000 + 4 * p) f.1 f.2.1 1
  let lanes := s.ktl.lanes
  let lanes := if res = 0 then tput 0 (logical / 16) (tget 0 lanes (logical / 16) + 1) lanes
    else if res = 1 then tput 0 logical 0 lanes else lanes
  let s := s.modKtl (fun x => { x with lanes := lanes })
  let s := if n < 256 then s.wr (0xC0400 + 4 * n) (res * 2 ^ 28 + p * 2 ^ 26 + logical % 4096 * 2 ^ 12 + phys % 4096) else s
  s.wr 0xC0080 (min 256 (n + 1))

/-- Remap a resource of pitch `p` onto the spare `phys` (R31, R432, R519): record, count, event, advice when the last
spare of the kind is taken. -/
def State.remapAt (s : State) (p res logical phys : Nat) : State :=
  let f := spareField res
  let used := s.rdF (0xC0000 + 4 * p) f.1 f.2.1
  let s := (s.listRemap p res logical phys).eventAt p 0x09 0 res logical
  if used + 1 = f.2.2 ∧ s.rdF 0xC001C 16 1 = 1 then s.advise 1 else s

/-- Remap a resource onto the lowest-numbered spare of its kind that the list does not show in use. -/
def State.remap (s : State) (p res logical : Nat) : State := s.remapAt p res logical (freeUnit (s.sparesUsed p res))

/-- LANTERN_READ (R462, R464): `bad` marks the words that fail parity. -/
def lanternReadOp (bad : BitVec 4) (s : State) : State :=
  if !s.alive || !(s.ctlOpen 0xB0004) then s
  else if s.lnt.ents = [] then (((s.wr 0xB0008 0).wr 0xB000C 0).wr 0xB0010 0).answer 0
  else
    let l := (s.lnt.ents.map LEntry.level).foldl min 3
    match ltake (fun e => decide (e.level = l)) s.lnt.ents with
    | none => s
    | some (e, r) =>
      if e.place ≠ .pool ∧ e.place ≠ .head then s.lntRefillAll.answer (2 ^ 24)
      else
        let w (i : Nat) : Nat := e.words.getD i 0
        let n := bad.toNat % 2 + bad.toNat / 2 % 2 + bad.toNat / 4 % 2 + bad.toNat / 8 % 2
        let s := (s.modEnts (fun _ => r)).lntRefillAll
        let s := (((s.wr 0xB0008 (w 1)).wr 0xB000C (w 2)).wr 0xB0010 (w 3)).count 0xB002C n
        let s := if n = 0 then s else (s.detect).remap s.glb.anchor 3 0
        s.answer (2 ^ 31 + l * 2 ^ 29 + bad.toNat * 2 ^ 25 + w 0)

def execLanternRead (bad : BitVec 4) (s : State) : Host.Outcome State Fault Refusal :=
  .next (lanternReadOp bad s)

/-- Take the Bivouac's waiting requests away (R458, R466): writes already issued complete. -/
def State.dropBiv (s : State) : State :=
  s.modWait (fun ws => ws.filter (fun r =>
    decide (r.why.unit ≠ .bivRead) && (decide (r.why.unit ≠ .bivWrite) || (r.wr && decide (r.tries ≠ 0)))))

/-- LANTERN_FLUSH (R466). -/
def lanternFlushOp (s : State) : State :=
  if !s.alive || !(s.ctlOpen 0xB0000) then s
  else (((((s.modEnts (fun _ => [])).dropBiv.wr 0xB0008 0).wr 0xB000C 0).wr 0xB0010 0).recWrite 0xB0000 1).ackWrite

def execLanternFlush (s : State) : Host.Outcome State Fault Refusal := .next (lanternFlushOp s)

/-- A memory fault on the Bivouac (R458): out of service until the next start; its entries are lost. -/
def State.bivFail (s : State) : State :=
  if !s.lnt.biv then s
  else
    let lost := s.lnt.ents.filter LEntry.inBiv
    let keep := (s.lnt.ents.filter (fun e => !e.inBiv)).map (fun e => { e with place := LPlace.pool })
    let s : State := { s with lnt := { s.lnt with ents := keep, biv := false, bivOff := true } }
    let s := lost.foldl (fun (s : State) e => s.lntLost e.level 1) (s.setBit 0xB001C 1).dropBiv
    s.event 0x0C 0 lost.length 0

/-- Words of a Bivouac entry as read. -/
def bivWords (b : Bytes) : List Nat := [fld b 0 4, fld b 4 4, fld b 8 4, fld b 12 4]

/-- A Bivouac read has brought entry `id` back (R457). -/
def State.bivBack (s : State) (id : Nat) (b : Bytes) : State :=
  match s.lnt.ents.find? (fun e => decide (e.id = id) && decide (e.place = .fromBiv)) with
  | none => s
  | some e =>
    let o := (s.bivAddr e.slot) % 64
    s.modEnts (fun es => es.map (fun x => if x.id = id then { x with words := bivWords (sub b o 16), place := .head } else x))

/-- A Bivouac write of entry `id` is answered (R457). -/
def State.bivGone (s : State) (id : Nat) : State :=
  (s.modEnts (fun es => es.map (fun x => if x.id = id ∧ x.place = .toBiv then { x with place := .biv } else x))).lntRefillAll

end Sys2Proof.Machine
end

