-- ==== Sys2Proof/Machine/Trig.lean ====
section
/-! DEFINITION. The Fence table's tests (R490, R491), trigger counters and the firing of chains (R267 to
R271). -/

namespace Sys2Proof.Machine

/-- Profile of a context (R490). -/
def State.profile (s : State) (c : Nat) : Nat := s.rdF (0xE4000 + 4 * (c / 4)) (8 * (c % 4)) 6

def State.profWord (s : State) (c w : Nat) : Nat := s.rd (0xE0000 + 0x100 * s.profile c + 4 * w)

/-- Right bits of a window (R490). -/
def rightRd : Nat := 0
def rightWr : Nat := 1
def rightRput : Nat := 2
def rightRget : Nat := 3

/-- A range is admitted with a right (R491). -/
def State.fenceOk (s : State) (c a n right : Nat) : Bool :=
  (List.range 15).any (fun i =>
    let lo := s.profWord c (2 + 4 * i) + s.profWord c (3 + 4 * i) * 2 ^ 32
    let sz := s.profWord c (4 + 4 * i) * 4096
    decide (sz ≠ 0) && bit (s.profWord c (5 + 4 * i)) right && decide (lo ≤ a) && decide (a + n ≤ lo + sz))

/-- A chip is admitted by its position (R490, R491). -/
def State.fencePeer (s : State) (c : Nat) (tab : Table Nat) (chip : Nat) : Bool :=
  let g := mkGrp (s.profWord c 1) s.torus s.own tab
  g.inBox (g.rc (entPos (tget 0 tab chip)))

/-- A traffic class is admitted on the links (R491). -/
def State.fenceClass (s : State) (c k : Nat) : Bool := bit (s.profWord c 0) k

def State.fenceUp (s : State) (c : Nat) : Bool := bit (s.profWord c 0) 4

/-- Group word of a number (R276). -/
def State.groupWord (s : State) (n : Nat) : Nat := s.rd (0x60000 + 4 * (n % 4096))

/-- The tests of a chain when it fires (R269, R279). -/
def State.chainBad (s : State) (c : Nat) (st : Step) (d : Chain) : Bool :=
  let move := decide (d.op = 1) || decide (d.op = 2)
  let links := decide (d.op ≤ 4) && !(decide (d.op ≠ 3 ∧ d.peer = s.glb.chip))
  (move && (decide (d.laddr % 64 ≠ 0) || decide (d.raddr % 64 ≠ 0) || decide (d.len % 64 ≠ 0))) ||
  (decide (d.op = 1) && decide (d.len ≠ 0) && !(s.fenceOk c d.laddr d.len rightRd)) ||
  (decide (d.op = 2) && decide (d.len ≠ 0) && !(s.fenceOk c d.laddr d.len rightWr)) ||
  (decide (d.op = 5) && !(s.fenceOk c d.laddr 36 rightRd)) ||
  (links && !(s.fenceClass c d.cls)) ||
  (links && decide (d.op ≠ 3) && !(s.fencePeer c st.bind.tab d.peer)) ||
  (decide (d.op = 3) && (mkGrp (s.groupWord d.peer) s.torus s.own st.bind.tab).members.any (fun m => !(s.fencePeer c st.bind.tab m)))

/-- Value of a trigger counter (R268). -/
def Ctx.ctr (x : Ctx) (i : Nat) : Nat := tget 0 x.counters i

/-- Fire the chains whose counter has reached its threshold, in index order (R267, R269). -/
def State.fireChains (s : State) (c : Nat) : State :=
  match s.step? c with
  | none => s
  | some st =>
    if st.cancelled then s
    else
      let x := s.ctx c
      let due := (st.chains.zipIdx.filter (fun p => decide (p.1.st = 0) && decide (p.1.c.thresh ≤ x.ctr p.1.c.trig)))
      match due.find? (fun p => s.chainBad c st p.1.c) with
      | some _ => s.ctxFault c 0x08
      | none =>
        let ix := due.map Prod.snd
        let s := s.modStep c (fun st => { st with
          chains := st.chains.zipIdx.map (fun p => if ix.contains p.2 then { p.1 with st := 1, word := s.groupWord p.1.c.peer } else p.1) })
        s.modXch (fun x => { x with fired := x.fired ++ ix.map (fun i => (c, i)) })

/-- Add to a trigger counter (R268) and fire what it reaches. -/
def State.bump (s : State) (c i n : Nat) : State :=
  (s.modCtx c (fun x => { x with counters := tput 0 i ((x.ctr i + n) % 2 ^ 32) x.counters })).fireChains c

/-- A chain completes (R269): its done counter, its event. A cancelled step's chain applies no increment (R271). -/
def State.chainDone (s : State) (c i : Nat) : State :=
  match s.step? c with
  | none => s
  | some st =>
    match st.chains[i]? with
    | none => s
    | some ch =>
      if ch.st = 3 then s
      else
        let s := s.modStep c (fun st => { st with chains := lset i { ch with st := 3 } st.chains })
        let s := if ch.c.ev then s.event 0x32 c i st.epoch else s
        if ch.c.done = 0xFF ∨ st.cancelled = true then s else s.bump c ch.c.done 1

/-- Link agents of a pitch (R267): one for each of its link ports, 15 torus ports, an uplink and two spares (R20). -/
def agents : Nat := 18

/-- Chains running on a pitch's agents. -/
def State.chainsRunning (s : State) (p : Nat) : Nat :=
  ((s.stepsWhere (fun c _ _ => decide (s.allocPitch c = p))).map (fun c =>
    match s.step? c with
    | none => 0
    | some st => (st.chains.filter (fun h => decide (h.st = 2))).length)).foldl (· + ·) 0

/-- The fired chain `i` of context `c` is next for an agent and one is free (R267). -/
def State.chainTurn (s : State) (c i : Nat) : Bool :=
  let p := s.allocPitch c
  let parked (d : Nat) : Bool := match s.step? d with | some st => st.evicted | none => false
  let q := s.xch.fired.filter (fun f => decide (s.allocPitch f.1 = p) && !(parked f.1))
  decide (q.head? = some (c, i)) && decide (s.chainsRunning p < agents)

/-- The chain takes an agent (R267). -/
def State.chainStart (s : State) (c i : Nat) (left : Nat) : State :=
  (s.modXch (fun x => { x with fired := x.fired.filter (fun f => decide (f ≠ (c, i))) })).modStep c (fun st =>
    { st with chains := st.chains.zipIdx.map (fun p => if p.2 = i then { p.1 with st := 2, left := left, at_ := s.el } else p.1) })

end Sys2Proof.Machine
end

