-- ==== Sys2Proof/Machine/Backups.lean ====
section
/-! DEFINITION. The ends of Infuser copies (R369, R445) and snapshots (R451), and the shut-down that waits for a snapshot
(R485). -/

namespace Sys2Proof.Machine

/-- Reference of a piece of a router copy; of an entry of an expert copy, its image and its version word; of a snapshot. -/
def refRouter : Nat := 256
def refExpert (i : Nat) : Nat := 0x10000 + 2 * i
def refWord (i : Nat) : Nat := 0x10000 + 2 * i + 1
def refSnap : Nat := 0xFFFF

/-- The reference belongs to the copy: the router's, or the experts'. -/
def isCopyRef (expert : Bool) (r : Nat) : Bool := if expert then decide (0x10000 ≤ r) else decide (r = refRouter)

/-- Drop the pieces and put data of context 0 whose reference meets `p`. -/
def State.dropRefs (s : State) (p : Nat → Bool) : State :=
  s.modXch (fun x => { x with
    xfers := x.xfers.filter (fun q => !(decide (q.ctx = 0) && p q.ref))
    table := x.table.filter (fun e => match e.2 with
      | some k => !(decide (k.ctx = 0) && (decide (k.kind = 4) || decide (k.kind = 8)) && p k.ref)
      | none => false) })

def State.copy (s : State) (expert : Bool) : Infu := if expert then s.rsl.einf else s.rsl.rinf

def State.modCopy (s : State) (expert : Bool) (f : Infu → Infu) : State :=
  { s with rsl := if expert then { s.rsl with einf := f s.rsl.einf } else { s.rsl with rinf := f s.rsl.rinf } }

/-- Register of a copy's status. -/
def copySts (expert : Bool) : Nat := if expert then 0xC006C else 0xC007C

/-- Fail an Infuser copy (R369, R445, R485): 0 router, 1 expert. -/
def State.infFail (s : State) (expert : Bool) : State :=
  let i := s.copy expert
  if !i.busy then s
  else
    (((s.modCopy expert (fun x => { x with busy := false })).dropRefs (isCopyRef expert)).setBit (copySts expert) 2).event
      0x25 0 (b2n expert) i.dchip

/-- An Infuser copy is complete (R369, R445). -/
def State.infDone (s : State) (expert : Bool) : State :=
  ((s.modCopy expert (fun x => { x with busy := false })).setBit (copySts expert) 1).event 0x24 0 (b2n expert) (s.copy expert).dchip

/-- Steps 2 and 3 of R485, and the first pitch to be tested (R486). -/
def State.shutDown (s : State) : State :=
  let s := s.wr (if s.stp.live then 0x18004 else 0x18000) 0
  let s := { s with links := { s.links with ports := s.links.ports.map (fun p => { p with en := false, st := if p.st = 5 then 5 else 0 }) } }
  let s := (List.range 16).foldl State.isolateMem s
  let s := (List.range 32).foldl (fun s a => s.isolateCore a 0) s
  let last := s.pitchesUp.getLastD 0
  let other := (s.pitchesUp.filter (fun p => decide (p ≠ last))).headD s.glb.anchor
  { s with
    glb := { s.glb with anchor := if s.glb.anchor = last then other else s.glb.anchor }
    start := { s.start with shut := 1, shutPitch := last, shutFailed := 0, shutDone := 0, hrFail := false, hrTries := 0 } }

/-- A snapshot ends (R451): its fields at rest, and the shut-down that waited for it goes on (R485). -/
def State.snapEnd (s : State) : State :=
  let s := { s with rsl := { s.rsl with snap := {} } }
  if s.start.shut = 4 then s.shutDown else s

/-- A snapshot fails (R451). -/
def State.snapFail (s : State) : State :=
  if !s.rsl.snap.busy then s
  else (((s.dropRefs (fun r => decide (r = refSnap))).setBit 0xC0024 2).event 0x42 0 0 0).snapEnd

/-- Pool of snapshots (R447): chip or endpoint, whether on the upper level, base. -/
def State.poolChip (s : State) : Nat := s.rdF 0xC0028 0 12
def State.poolUp (s : State) : Bool := bit (s.rd 0xC0028) 12
def State.poolBase (s : State) : Nat := s.rd2 0xC002C

/-- Copies to a chip that is lost or leaves membership fail (R369, R445); so does a snapshot whose pool's chip is lost
(R451). -/
def State.copiesLost (s : State) (gone : Nat → Bool) (lost : Bool) : State :=
  let s := if gone s.rsl.rinf.dchip then s.infFail false else s
  let s := if gone s.rsl.einf.dchip then s.infFail true else s
  if lost && !s.poolUp && gone s.poolChip then s.snapFail else s

/-- A copy or snapshot makes progress (R369, R451). -/
def State.refProgress (s : State) (r : Nat) : State :=
  if r = refSnap then { s with rsl := { s.rsl with snap := { s.rsl.snap with at_ := s.el } } }
  else if r = refRouter ∨ 0x10000 ≤ r then s.modCopy (decide (0x10000 ≤ r)) (fun x => { x with at_ := s.el })
  else s

end Sys2Proof.Machine
end

