-- ==== Sys2Proof/Machine/Versions.lean ====
section
/-! DEFINITION. What goes live at a tick: residency of models (R144, R518), the step rota (R107 to R112), the
membership table (R96 to R99), table sets (R172, R176), router switches (R370) and expert weight switches
(R441). -/

namespace Sys2Proof.Machine

/-- A control-port write to a register with a command of its own is recorded (R414) and acknowledged. -/
def State.wrote (s : State) (a v : Nat) : State := (s.recWrite a v).ackWrite

/- Models -/

def modelBase (m : Nat) : Nat := 0x20100 + 8 * m

def State.modelLayers (s : State) (m : Nat) : Nat := s.rd (0x20300 + 4 * m)

/-- Residency of a model changes (R144): steps accepted from here on see the change. -/
def State.resGen (s : State) (m : Nat) : State :=
  { s with ktl := { s.ktl with gens := tput 0 m (tget 0 s.ktl.gens m + 1) s.ktl.gens } }

/-- MODEL_SET (R144, R518). -/
def modelSetOp (m : Nat) (s : State) : State :=
  if !s.portOpen then s
  else
    let s' := if s.resident m || decide (s.modelLayers m = 0 ∨ 256 < s.modelLayers m ∨ s.rd2 (modelBase m) = 0)
      then s.ignored 0x20008
      else (s.wr2 0x20000 (s.rd2 0x20000 + 2 ^ m)).resGen m
    s'.wrote 0x20008 m

def execModelSet (model : Nat) (s : State) : Host.Outcome State Fault Refusal := .next (modelSetOp model s)

/-- MODEL_CLR (R144, R518). -/
def modelClrOp (m : Nat) (s : State) : State :=
  if !s.portOpen then s
  else
    let s' := if s.resident m then (s.wr2 0x20000 (s.rd2 0x20000 - 2 ^ m)).resGen m else s
    s'.wrote 0x2000C m

def execModelClr (model : Nat) (s : State) : Host.Outcome State Fault Refusal := .next (modelClrOp model s)

/- The rota -/

/-- Address of word `w` of slot `i` of a copy (R107). -/
def rotaAddr (b : Bool) (i w : Nat) : Nat := (if b then 0x14000 else 0x10000) + 16 * i + 4 * w

/-- Active slots of a copy. -/
def State.rotaLen (s : State) (b : Bool) : Nat := s.rdF (if b then 0x18004 else 0x18000) 0 11

def State.slotWidth (s : State) (b : Bool) (i : Nat) : Nat := s.rdF (rotaAddr b i 0) 0 20

def State.slotFill (s : State) (b : Bool) (i : Nat) : Bool := bit (s.rd (rotaAddr b i 0)) 31

/-- Pinned context of a pin word, 0 for none, and its offset. -/
def State.pinOf (s : State) (b : Bool) (i w : Nat) : Nat × Nat :=
  (s.rdF (rotaAddr b i w) 20 12, s.rdF (rotaAddr b i w) 0 20)

/-- Start of slot `i` within the cycle (R110); with `i` the number of slots, the period. -/
def State.slotStart (s : State) (b : Bool) (i : Nat) : Nat :=
  ((List.range i).map (s.slotWidth b)).foldl (· + ·) 0

def State.rotaPeriod (s : State) (b : Bool) : Nat := s.slotStart b (s.rotaLen b)

/-- STP_ROTA_T0. -/
def State.rotaT0 (s : State) : Nat := s.rd2 0x18018

/-- The refusal case of R109. -/
def State.rotaBad (s : State) : Option Nat :=
  let b := !s.stp.live
  let is := List.range (s.rotaLen b)
  if s.rd2 0x18008 < s.now + 65536 then some 0
  else if is.any (fun i => decide (s.slotWidth b i < 256)) then some 1
  else if is.any (fun i => [1, 2, 3].any (fun w =>
      decide ((s.pinOf b i w).1 ≠ 0 ∧ s.slotWidth b i ≤ (s.pinOf b i w).2))) then some 2
  else none

/-- ROTA_ARM (R109). -/
def rotaArmOp (s : State) : State :=
  if !s.portOpen then s
  else
    let s' := match s.rotaBad with
      | some k => s.event 0x20 0 k 0
      | none => { s with stp := { s.stp with armed := true, at_ := s.rd2 0x18008 } }
    s'.wrote 0x18010 1

def execRotaArm (s : State) : Host.Outcome State Fault Refusal := .next (rotaArmOp s)

/-- The tick at which the armed copy becomes live (R109). -/
def State.rotaDue (s : State) : Nat :=
  let p := s.rotaPeriod s.stp.live
  if p = 0 then s.stp.at_
  else s.rotaT0 + ceilDiv (s.stp.at_ - s.rotaT0) p * p

/-- ROTA_GO_LIVE (R109). -/
def rotaGoLiveOp (s : State) : State :=
  let t := s.rotaDue
  if s.on && s.stp.armed && decide (t ≤ s.now) then
    { s.wr2 0x18018 t with stp := { s.stp with live := !s.stp.live, armed := false } }
  else s

def execRotaGoLive (s : State) : Host.Outcome State Fault Refusal := .next (rotaGoLiveOp s)

/-- Ticks since the start of the present cycle of the live copy; none when the rota is off (R111). -/
def State.rotaPhase (s : State) : Option Nat :=
  let p := s.rotaPeriod s.stp.live
  if p = 0 then none else some ((s.now - s.rotaT0) % p)

/-- Slot fill of copy `b` at phase `t` of its cycle. -/
def State.fillIn (s : State) (b : Bool) (t : Nat) : Bool :=
  (List.range (s.rotaLen b)).any (fun i => decide (s.slotStart b i ≤ t ∧ t < s.slotStart b (i + 1)) && s.slotFill b i)

/-- Share-based contexts may launch steps at tick `t` (R111): by the live copy, or by the armed one from its switch on. -/
def State.fillAt (s : State) (t : Nat) : Bool :=
  let onArmed := s.stp.armed && decide (s.rotaDue ≤ t)
  let b := if onArmed then !s.stp.live else s.stp.live
  let p := s.rotaPeriod b
  decide (p = 0) || s.fillIn b ((t - (if onArmed then s.rotaDue else s.rotaT0)) % p)

/- Membership -/

/-- A membership table as read, reserved bits ignored (R13, R96). -/
def readMembers (hv : HostView) (a : Nat) : Table Nat :=
  (List.range 4096).filterMap (fun c =>
    let e := fld (hv1 hv (a + 4 * c) 4) 0 4 % 2 ^ 14
    if e = 0 then none else some (c, e))

/-- The refusal case of R97. -/
def State.memberBad (s : State) (t : Table Nat) : Option Nat :=
  let own (u : Table Nat) : Bool := decide (entState (tget 0 u s.glb.chip) = 0)
  if s.rd 0x50038 % 65536 ≠ (s.memb.ver + 1) % 65536 then some 0
  else if s.rd2 0x5003C < s.now + s.rdMin 0x50048 0x1000 then some 1
  else if own s.memb.live && own t then some 2
  else if s.memb.armed then some 3
  else none

/-- Ports to a chip that joins by a staged table, and that had failed, are brought up again (R99): they leave isolation, and
lnk_en rises with that (ISOLATION_RELEASE). -/
def State.joinLinks (s : State) (t : Table Nat) : State :=
  let joins (c : Nat) : Bool := decide (entState (tget 0 s.memb.live c) = 0) && decide (entState (tget 0 t c) = 1)
  let up (n : Nat) (p : Port) : Port :=
    if p.st = 3 ∧ isUplink s n = false ∧ (s.linkEnt n).conn = true ∧ joins (s.linkEnt n).chip = true then { p with st := 1 } else p
  { s with links := { s.links with ports := s.links.ports.zipIdx.map (fun p => up p.2 p.1) } }

/-- MEMBER_ARM (R97). A memory fault of its reads is a block fault (R52), and nothing is staged. -/
def memberArmOp (hv : HostView) (s : State) : State :=
  if !s.portOpen then s
  else
    let a := s.rd2 0x50030
    let t := readMembers hv a
    let s' := match s.memberBad t with
      | some k => s.event 0x12 0 (s.rd 0x50038 % 65536) k
      | none =>
        let s := s.chargeRead 0 3 a 16384
        if hv.fault ≠ 0 then s.memFault 0 hv.fault ((s.chanOf a).getD 0)
        else { s.joinLinks t with memb := { s.memb with
          staged := t
          sver := s.rd 0x50038 % 65536
          at_ := s.rd2 0x5003C
          armed := true } }
    s'.wrote 0x50044 1

def execMemberArm (hv : HostView) (s : State) : Host.Outcome State Fault Refusal := .next (memberArmOp hv s)

/-- MEMBER_GO_LIVE (R98, R101, R434, R435). -/
def memberGoLiveOp (s : State) : State :=
  let m := s.memb
  if s.on && m.armed && decide (m.at_ ≤ s.now) then
    let absent (c : Nat) : Bool := decide (entState (tget 0 m.staged c) = 0)
    let s := { s with memb := { m with
      live := m.staged
      ver := m.sver
      staged := []
      armed := false
      prev := m.live
      goneLive := s.el
      lost := m.lost.filter (fun c => !(absent c))
      past := (m.past ++ m.lost).filter absent
      outcast := if m.outcast = 1 ∧ absent s.glb.chip = true then 2
        else if m.outcast = 2 ∧ absent s.glb.chip = false then 0 else m.outcast } }
    let s := s.copiesLost (fun c => decide (entState (tget 0 m.staged c) ≠ 1)) false
    { s with links := { s.links with
      ports := s.links.ports.map (fun p => if p.st = 2 then { p with helloDue := true } else p) } }
  else s

def execMemberGoLive (s : State) : Host.Outcome State Fault Refusal := .next (memberGoLiveOp s)

/- Table sets -/

/-- The refusal case of R176 but the directory's. -/
def State.tableBad (s : State) : Option Nat :=
  if s.rd 0x30010 % 65536 ≠ (s.stn.ver + 1) % 65536 then some 0
  else if s.rd2 0x30014 < s.now + 65536 then some 1
  else if s.oldTable ≠ 0 then some 3
  else if s.stn.stage.armed then some 4
  else none

/-- Entry `m` of a table-set directory (R172), read again once when its check fails. -/
def tableEntry (hv : HostView) (dir m : Nat) : Option Bytes := readChecked hv (dir + 16 * m) 16

/-- TABLE_SET_ARM (R176). -/
def tableSetArmOp (hv : HostView) (s : State) : State :=
  if !s.portOpen then s
  else
    let a := s.rd2 0x30008
    let s' := match s.tableBad with
      | some k => s.event 0x21 0 k 0
      | none =>
        let s := s.chargeRead 0 3 a 1024
        if hv.fault ≠ 0 then (s.memFault 0 hv.fault ((s.chanOf a).getD 0)).event 0x21 0 2 0
        else if (List.range 64).any (fun m => (tableEntry hv a m).isNone) then s.event 0x21 0 2 0
        else { s with stn := { s.stn with stage := ⟨true, s.rd2 0x30014, s.rd 0x30010 % 65536, a⟩ } }
    s'.wrote 0x3001C 1

def execTableSetArm (hv : HostView) (s : State) : Host.Outcome State Fault Refusal := .next (tableSetArmOp hv s)

/-- TABLE_SET_GO_LIVE (R176). -/
def tableGoLiveOp (s : State) : State :=
  let g := s.stn.stage
  if s.on && g.armed && decide (g.at_ ≤ s.now) then { s with stn := ⟨g.ver, g.addr, {}⟩ } else s

def execTableSetGoLive (s : State) : Host.Outcome State Fault Refusal := .next (tableGoLiveOp s)

/- Router and weight switches -/

/-- Model `m` is owned (R346), and its owner. -/
def State.owned (s : State) (m : Nat) : Bool := bit (s.rd (0x90100 + 4 * m)) 31

def State.ownerOf (s : State) (m : Nat) : Nat := s.rdF (0x90100 + 4 * m) 0 12

def State.ldirOf (s : State) (m : Nat) : Nat := s.rd2 (0x90200 + 8 * m)

/-- Contexts with a step of model `m` accepted. -/
def State.boundTo (s : State) (m : Nat) : List Nat := s.stepsWhere (fun _ _ st => decide (st.desc.model = m))

/-- ROUTER_SWITCH_ARM (R370). -/
def routerArmOp (hv : HostView) (s : State) : State :=
  if !s.portOpen then s
  else
    let a := s.rd2 0x90010
    let b := hv1 hv a 64
    let m := fld b 0 1
    let at_ := fld b 24 8
    let s := s.chargeRead 0 3 a 64
    let s := if hv.fault ≠ 0 then s.memFault 0 hv.fault ((s.chanOf a).getD 0) else s
    let s' := if hv.fault ≠ 0 ∨ crcOk 64 b = false ∨ s.resident m = false ∨ 63 < m ∨ s.owned m = true ∨
        at_ < s.now + 65536 ∨ s.bal.rsw.isSome = true ∨ s.bal.old ≠ [] then s.event 0x22 0 0 m
      else { s with bal := { s.bal with rsw := some ⟨m, at_, fld b 8 8, fld b 16 8, 0⟩ } }
    s'.wrote 0x90018 1

def execRouterSwitchArm (hv : HostView) (s : State) : Host.Outcome State Fault Refusal := .next (routerArmOp hv s)

/-- ROUTER_SWITCH_AT (R370): a step checked before the tick and accepted at it or later takes the new directories (log
entry 179). -/
def routerSwitchOp (s : State) : State :=
  match s.bal.rsw with
  | none => s
  | some w =>
    if s.on && decide (w.at_ ≤ s.now) then
      let old := s.boundTo w.model
      { ((s.wr2 (modelBase w.model) w.base).wr2 (0x90200 + 8 * w.model) w.ldir).resGen w.model with bal := ⟨none, old⟩ }
    else s

def execRouterSwitchAt (s : State) : Host.Outcome State Fault Refusal := .next (routerSwitchOp s)

def wverAt (m : Nat) : Nat := 0xC0300 + 4 * m

/-- WEIGHT_SWITCH_ARM (R441). -/
def weightArmOp (hv : HostView) (s : State) : State :=
  if !s.portOpen then s
  else
    let a := s.rd2 0xC0050
    let b := hv1 hv a 64
    let m := fld b 0 1
    let v := fld b 4 4
    let at_ := fld b 8 8
    let s := s.chargeRead 0 3 a 64
    let s := if hv.fault ≠ 0 then s.memFault 0 hv.fault ((s.chanOf a).getD 0) else s
    let s' := if hv.fault ≠ 0 ∨ crcOk 64 b = false ∨ 63 < m ∨ v ≠ (s.rd (wverAt m) + 1) % 2 ^ 32 ∨
        at_ < s.now + 65536 ∨ s.rsl.wsw.isSome = true ∨ s.rsl.wswOld ≠ [] then s.event 0x22 0 1 m
      else { s with rsl := { s.rsl with wsw := some ⟨m, at_, 0, 0, v⟩ } }
    s'.wrote 0xC0058 1

def execWeightSwitchArm (hv : HostView) (s : State) : Host.Outcome State Fault Refusal := .next (weightArmOp hv s)

/-- WEIGHT_SWITCH_AT (R441). -/
def weightSwitchOp (s : State) : State :=
  match s.rsl.wsw with
  | none => s
  | some w =>
    if s.on && decide (w.at_ ≤ s.now) then
      let old := s.boundTo w.model
      { s.wr (wverAt w.model) w.ver with rsl := { s.rsl with wsw := none, wswOld := old } }
    else s

def execWeightSwitchAt (s : State) : Host.Outcome State Fault Refusal := .next (weightSwitchOp s)

end Sys2Proof.Machine
end

