-- ==== Sys2Proof/Machine/Visit.lean ====
section
/-! DEFINITION. Visits (R111 to R115): pins of the rota, share-based visits, the order of the fetches they
begin. -/

namespace Sys2Proof.Machine

/-- STP_LAUNCH_OFS. -/
def State.launchOfs (s : State) : Nat := s.rdMin 0x18020 256

/-- Pin word that stands for a share-based visit: after every pin (R115). -/
def sharePin : Nat := 4096

/-- Order in which visits begin their fetches (R115): by tick, pins by slot and word, then share-based visits in share
order, whatever their tents (R381). -/
def State.visitLt (s : State) (c d : Nat) : Bool :=
  let x := s.ctx c
  let y := s.ctx d
  decide (x.visit < y.visit) || (decide (x.visit = y.visit) &&
    (decide (x.pin < y.pin) || (decide (x.pin = sharePin ∧ y.pin = sharePin) && s.shareLt c d)))

/-- A visit (R113 to R115): the context enters Fetching and keeps its launch tick; its fetch waits its turn. -/
def State.visit (s : State) (c pin : Nat) : State :=
  let s := s.modCtx c (fun x => { x with
    st := .fetching
    visit := s.now
    launch := s.now + s.launchOfs
    pin := pin })
  { s with stp := { s.stp with fetchq := insSorted s.visitLt c s.stp.fetchq } }

/-- No visit is made while the tick is lost (R511). -/
def State.visitsOn (s : State) : Bool := s.on && !s.clk.lost

/-- A real-time context in Ready is visited at this pin tick (R113). -/
def State.pinReady (s : State) (x : Ctx) : Bool :=
  decide (x.go.taken ≤ s.now) && (decide (x.go.at_ = 0) || decide (x.go.at_ ≤ s.now + s.launchOfs))

/-- This tick is the pin tick of word `w` of slot `i` of the live copy (R110). -/
def State.pinNow (s : State) (i w : Nat) : Bool :=
  let b := s.stp.live
  match s.rotaPhase with
  | none => false
  | some t => decide (i < s.rotaLen b) && decide (1 ≤ w ∧ w ≤ 3) &&
      decide (t = s.slotStart b i + (s.pinOf b i w).2)

/-- PIN_TICK (R112, R113). -/
def pinTickOp (i w : Nat) (s : State) : State :=
  let c := (s.pinOf s.stp.live i w).1
  let x := s.ctx c
  if !s.visitsOn || !(s.pinNow i w) || decide (c = 0) || !x.active || !x.rt || decide (x.st = .stopped) then s
  else if x.st = .ready then
    if s.pinReady x then s.visit c (i * 4 + w) else s
  else (s.count 0x18030 1).modCtx c (fun x => { x with missed := min 255 (x.missed + 1) })

def execPinTick (slot word : Nat) (s : State) : Host.Outcome State Fault Refusal := .next (pinTickOp slot word s)

/-- A share-based context is eligible (R113). -/
def State.eligible (s : State) (c : Nat) : Bool :=
  let x := s.ctx c
  x.active && !x.rt && decide (x.st = .ready) && decide (x.go.taken ≤ s.now) &&
  (decide (x.go.at_ = 0) || decide (x.go.at_ ≤ s.now + s.launchOfs))

/-- The Ready share-based context of a tent that comes first in share order (R380). -/
def State.firstReady (s : State) (n : Nat) : Option Nat :=
  (sortBy s.shareLt (tkeys (fun _ x => x.active && !x.rt && decide (x.st = .ready) && decide (x.tent = n)) s.ctxs)).head?

/-- SHARE_VISIT (R111, R113, R380): a visit takes a frame outside the reserved ones. DEDUCED (log entry 177): R111 speaks
of the launch, so the slot that must have its fill bit set is that of the launch tick. -/
def shareVisitOp (c : Nat) (s : State) : State :=
  let n := (s.ctx c).tent
  if !s.visitsOn || !(s.eligible c) || !(s.fillAt (s.now + s.launchOfs)) || decide (s.evictedIn n ≠ []) || decide (s.firstReady n ≠ some c) then s
  else match s.freeShared n with
  | [] => s
  | f :: _ => (s.modCtx c (fun x => { x with vframe := some f })).visit c sharePin

def execShareVisit (ctx : Nat) (s : State) : Host.Outcome State Fault Refusal := .next (shareVisitOp ctx s)

end Sys2Proof.Machine
end

