-- ==== Sys2Proof/Machine/Fetch.lean ====
section
/-! DEFINITION. The checks of a fetched descriptor (R116, R529, with R147, R182, R242, R327, R339, R347,
R360, R385) and what follows from them. -/

namespace Sys2Proof.Machine

/-- Reading of a layer-directory entry (R146). -/
def parseLDir (b : Bytes) : LDir :=
  { lfmt := fld b 0 1, exitHead := bit (fld b 1 1) 0, pin := bit (fld b 1 1) 1, nExp := fld b 2 2, d32 := fld b 4 2,
    waddr := fld b 8 8, saddr := fld b 16 8, icheck := fld b 24 4 }

/-- The entry's own tests (R147). -/
def LDir.ok (l : LDir) : Bool :=
  [1, 3, 4, 5, 6, 7, 8].contains l.lfmt && decide (1 ≤ l.nExp ∧ l.nExp ≤ 1024) && decide (1 ≤ l.d32 ∧ l.d32 ≤ 512)

/-- Hidden width. -/
def LDir.d (l : LDir) : Nat := 32 * l.d32

/-- Scored columns: the experts and the exit head. -/
def LDir.cols (l : LDir) : Nat := l.nExp + b2n l.exitHead

/-- Row slot in a landing area (R327). -/
def rrow (f d : Nat) : Nat := roundUp 64 (rowBytes f d)

/-- An output row with its padding (R334). -/
def outLen (f d : Nat) : Nat := roundUp 64 (rowBytes f d)

/-- Shared experts of a step (R327, R344). -/
def State.nShared (s : State) (d : Desc) : Nat := if d.flag 4 then min 8 (s.rdMode (0x80100 + 4 * d.model)) else 0

/-- Size of a keep area (R338). -/
def keepBytes (n k rr : Nat) : Nat := 64 + 64 * n + n * k * rr

/-- Route-ledger header (R241). -/
structure LedH where
  lver : Nat
  model : Nat
  layer : Nat
  choice : Nat
  nRec : Nat
  nCopy : Nat
  c0 : Nat
  askSeq : Nat
  fmt : Nat
  cookie : Nat
  deriving DecidableEq, Repr, Inhabited

def parseLed (b : Bytes) : LedH :=
  { lver := fld b 0 1, model := fld b 1 1, layer := fld b 2 1, choice := fld b 3 1, nRec := fld b 8 4, nCopy := fld b 12 4,
    c0 := fld b 16 4, askSeq := fld b 20 4, fmt := bits (fld b 25 1) 0 4, cookie := fld b 32 8 }

/-- Keep header (R338). -/
structure KeepH where
  kver : Nat
  k : Nat
  fmt : Nat
  n : Nat
  askSeq : Nat
  cookie : Nat
  deriving DecidableEq, Repr, Inhabited

def parseKeep (b : Bytes) : KeepH :=
  { kver := fld b 0 1, k := fld b 1 1, fmt := bits (fld b 2 1) 0 4, n := fld b 4 4, askSeq := fld b 12 4, cookie := fld b 16 8 }

namespace Desc
/-- Kinds that have tokens. -/
def tokens (d : Desc) : Bool := decide (1 ≤ d.kind ∧ d.kind ≤ 3)
/-- A router update that accumulates from a recorded step (R360). -/
def gathers (d : Desc) : Bool := decide (d.kind = 4) && decide (d.ledgerAddr ≠ 0)
def usesIn (d : Desc) : Bool := d.tokens || d.gathers
def usesSeq (d : Desc) : Bool := (decide (d.kind = 1) || decide (d.kind = 2)) && decide (d.nDec ≠ 0)
def usesLedger (d : Desc) : Bool :=
  decide (d.kind = 2) || decide (d.kind = 3) || d.gathers || (decide (d.kind = 1) && decide (d.ledgerSize ≠ 0))
def usesGrad (d : Desc) : Bool :=
  decide (d.gradAddr ≠ 0) && (decide (d.kind = 2) || decide (d.kind = 3) || d.gathers)
end Desc

/-- Check 4 but the learning record (R116, R147, R376). -/
def State.check4a (s : State) (c : Nat) (d : Desc) : Bool :=
  s.resident d.model && decide (d.layer < s.modelLayers d.model) && decide (tentCount (s.tentOf c) ≠ 0)

/-- The cases of R347 without the record. -/
def State.check4b (s : State) (c : Nat) (d : Desc) : Bool :=
  !(s.owned d.model && decide (s.ownerOf d.model ≠ c)) && !(decide (d.kind = 4) && !s.owned d.model) &&
  !(s.owned d.model && decide (s.ldirOf d.model = 0))

/-- The layer's learning record (R347 to R349): none where it fails; no record where BAL_LDIR_m is zero. -/
def State.readLearn (s : State) (hv : HostView) (d : Desc) (l : LDir) : Option (Option LearnRec) :=
  if s.ldirOf d.model = 0 then some none
  else match readChecked hv (s.ldirOf d.model + 64 * d.layer) 64 with
  | none => none
  | some b =>
    let r := parseLearn b
    if s.owned d.model && !(learnOk r l.nExp l.d d.kind) then none else some (some r)

/-- Check 5 (R116, R182, R360). -/
def check5 (hv : HostView) (d : Desc) (l : LDir) : Bool :=
  (!d.tokens || decide (1 ≤ d.n ∧ d.n ≤ 1048576)) && decide (d.k ≤ l.nExp) &&
  (!(d.flag 1) || (isFin32 (BitVec.ofNat 32 d.noiseScale) && fle 0#32 (BitVec.ofNat 32 d.noiseScale))) &&
  (!(d.flag 2) || isFin32 (BitVec.ofNat 32 d.exitThresh)) &&
  (!d.gathers ||
    (decide (d.nPre = 0) &&
     (match readChecked hv d.ledgerAddr 64, readChecked hv d.gradAddr 64 with
      | some lb, some kb =>
        let lh := parseLed lb
        let kh := parseKeep kb
        decide (lh.lver = 1 ∧ lh.model = d.model ∧ lh.layer = d.layer) &&
        decide (kh.askSeq = lh.askSeq ∧ kh.cookie = lh.cookie ∧ d.nDec = kh.n)
      | _, _ => false)))

/-- Check 6 (R119). -/
def check6 (d : Desc) : Bool :=
  [1, 3, 4].contains d.inFmt && [1, 3, 4].contains d.payFmt && [1, 2, 3, 4].contains d.outFmt

/-- The chain descriptors of a step. -/
def readChains (hv : HostView) (d : Desc) : List Chain :=
  (List.range d.chainN).map (fun i => parseChain (hv1 hv (d.chainAddr + 32 * i) 32))

/-- Check 7 but the chains themselves (R116). -/
def check7a (d : Desc) : Bool := decide (d.chainN ≤ 256) && (decide (d.chainN = 0) || decide (d.chainAddr % 32 = 0))

/-- Check 8 (R529, R147, R327, R385). -/
def State.check8 (s : State) (c : Nat) (d : Desc) (l : LDir) : Bool :=
  let al (use : Bool) (a : Nat) : Bool := !use || decide (a % 64 = 0)
  let rt := (s.ctx c).rt
  let w := s.tentOf c
  al d.usesIn d.inAddr && al d.usesIn d.inStride && al d.tokens d.outAddr && al d.tokens d.outStride &&
  al d.usesSeq d.seqmapAddr && al true d.exitAddr && al d.usesLedger d.ledgerAddr && al d.usesGrad d.gradAddr &&
  al (d.flag 6) d.statsAddr &&
  (!d.usesIn || decide (rowBytes d.inFmt l.d ≤ d.inStride)) &&
  (!d.tokens ||
    (decide (d.n * (d.k + s.nShared d) * rrow d.payFmt l.d ≤ s.page c 0x58 * 65536) &&
     decide (outLen d.outFmt l.d ≤ d.outStride))) &&
  (rt || decide (frameBytes w * (tentPitches w).length + 8192 ≤ s.page c 0x68 * 65536))

/-- SRT_LIST_CAP in bytes, as check 9 samples it (R242). -/
def State.listCap (s : State) : Nat := s.rdMode 0x40000 % 256 * 65536

/-- Check 9 (R242, R339). -/
def State.check9 (s : State) (hv : HostView) (d : Desc) : Bool :=
  let size := d.ledgerSize * 4096
  let list := 16 * d.k * d.n
  if d.kind = 2 then decide (64 + 128 * d.n + list ≤ size)
  else if d.kind = 1 then decide (list ≤ size) || decide (list ≤ s.listCap)
  else if d.kind = 3 then
    match readChecked hv d.ledgerAddr 64 with
    | none => false
    | some b =>
      let h := parseLed b
      decide (h.lver = 1 ∧ h.model = d.model ∧ h.layer = d.layer) && decide (64 + 128 * h.nRec + 16 * h.nCopy ≤ size) &&
      (decide (d.gradAddr = 0) ||
        (match readChecked hv d.gradAddr 64 with
         | none => false
         | some kb =>
           let g := parseKeep kb
           decide (g.kver = 1 ∧ g.askSeq = h.askSeq ∧ g.cookie = h.cookie ∧ g.n = d.n) &&
           decide (g.k = bits h.choice 0 3 + 1 ∧ g.fmt = h.fmt)))
  else true

/-- Check 10 (R529, R279, R312, R338). DESIGN CHOICE (log entry 178): the keep area that it tests is that of the
descriptor's k and payload_fmt, also where a keep header (kinds 3 and 4) gives others. -/
def State.check10 (s : State) (c : Nat) (d : Desc) (l : LDir) : Bool :=
  let ok (use : Bool) (a n : Nat) (rights : List Nat) : Bool := !use || rights.all (s.fenceOk c a n)
  let g := mkGrp (s.groupWord d.group) s.torus s.own s.memb.live
  let others := g.members.filter (fun m => decide (m ≠ s.glb.chip))
  let order := s.page c 0x88
  ok d.usesIn d.inAddr ((d.n - 1) * d.inStride + rowBytes d.inFmt l.d) [rightRd] &&
  ok d.tokens d.outAddr ((d.n - 1) * d.outStride + outLen d.outFmt l.d) [rightWr] &&
  ok d.usesSeq d.seqmapAddr (4 * d.nDec) [rightRd] &&
  ok (decide (d.exitAddr ≠ 0)) d.exitAddr (ceilDiv d.n 512 * 64) [rightRd, rightWr] &&
  ok d.usesLedger d.ledgerAddr (d.ledgerSize * 4096) (if d.kind = 4 then [rightRd] else [rightRd, rightWr]) &&
  ok d.usesGrad d.gradAddr (keepBytes d.n d.k (rrow d.payFmt l.d))
    (if d.kind = 2 then [rightWr] else if d.kind = 3 then [rightRd, rightWr] else [rightRd]) &&
  ok ((decide (d.kind = 1) || decide (d.kind = 2)) && decide (1 ≤ order ∧ order ≤ 20)) (s.page2 c 0x80) (32 * 2 ^ order) [rightWr] &&
  g.members.all (s.fencePeer c s.memb.live) &&
  (decide (others = []) || (s.fenceClass c 0 && s.fenceClass c 1))

/-- Outcome of the checks. -/
inductive Checked where
  | refused (reason : Nat)
  | fault (code : Nat)
  | passed (st : Step)
  deriving DecidableEq, Repr

/-- Checks 2 to 10 on a descriptor with a correct dcheck (R116). -/
def State.checkDesc (s : State) (c : Nat) (hv : HostView) (raw : Bytes) : Checked :=
  let d := parseDesc raw
  if d.ver ≠ 2 then .refused 0x02
  else if d.kind = 0 ∨ 5 < d.kind then .refused 0x03
  else if s.check4a c d = false then .refused 0x04
  else if hv.fault ≠ 0 then .fault hv.fault
  else match readChecked hv (s.rd2 (modelBase d.model) + 32 * d.layer) 32 with
  | none => .refused 0x04
  | some lb =>
    let l := parseLDir lb
    if l.ok = false ∨ s.check4b c d = false then .refused 0x04
    else match s.readLearn hv d l with
    | none => .refused 0x04
    | some learn =>
      if check5 hv d l = false then .refused 0x05
      else if check6 d = false then .refused 0x06
      else if check7a d = false ∨ (readChains hv d).all chainOk = false then .refused 0x07
      else if s.check8 c d l = false then .refused 0x08
      else if s.check9 hv d = false then .refused 0x09
      else if s.check10 c d l = false then .fault 0x05
      else .passed
        { desc := d
          epoch := 0
          raw := raw
          bind := { dir := l, learn := learn, owned := s.owned d.model, gen := tget 0 s.ktl.gens d.model }
          samp := { listCap := s.listCap }
          chains := (readChains hv d).map (fun x => { c := x }) }

/-- Ranges read for a structure with a check word: twice where the first copy fails it. -/
def checkedRanges (hv : HostView) (a n : Nat) : List (Nat × Nat) :=
  if crcOk n (hv1 hv a n) then [(a, n)] else [(a, n), (a, n)]

/-- Ranges that the checks of a descriptor read beside it, each only once the checks before it have passed (R116, R121). -/
def State.checkReads (s : State) (c : Nat) (hv : HostView) (d : Desc) : List (Nat × Nat) :=
  let a := s.rd2 (modelBase d.model) + 32 * d.layer
  if d.ver ≠ 2 ∨ d.kind = 0 ∨ 5 < d.kind ∨ s.check4a c d = false then []
  else checkedRanges hv a 32 ++
    match readChecked hv a 32 with
    | none => []
    | some lb =>
      let l := parseLDir lb
      if l.ok = false ∨ s.check4b c d = false then []
      else (if s.ldirOf d.model = 0 then [] else checkedRanges hv (s.ldirOf d.model + 64 * d.layer) 64) ++
        if s.readLearn hv d l = none then []
        else (if d.gathers ∧ d.nPre = 0 then checkedRanges hv d.ledgerAddr 64 ++ checkedRanges hv d.gradAddr 64 else []) ++
          if check5 hv d l = false ∨ check6 d = false ∨ check7a d = false then []
          else (if d.chainN = 0 then [] else [(d.chainAddr, 32 * d.chainN)]) ++
            if (readChains hv d).all chainOk = false ∨ s.check8 c d l = false ∨ d.kind ≠ 3 then []
            else checkedRanges hv d.ledgerAddr 64 ++ (if d.gradAddr = 0 then [] else checkedRanges hv d.gradAddr 64)

/-- The reads of the checks are charged (R106, R390). -/
def State.chargeChecks (s : State) (c : Nat) (hv : HostView) (d : Desc) : State :=
  (s.checkReads c hv d).foldl (fun s r => s.chargeRead c 1 r.1 r.2) s

/-- The frame of a visit is given up. -/
def State.dropVisit (s : State) (c : Nat) : State :=
  (s.modCtx c (fun x => { x with vframe := none, heldCancel := false, cand := none, waitEpoch := false })).frames (s.ctx c).tent

/-- A refused step (R116, R123). -/
def State.refuseStep (s : State) (c reason cookie : Nat) : State :=
  (s.dropVisit c).postQuery c 3 { query0 with reason := reason, descIndex := (s.ctx c).go.desc, cookie := cookie }

/-- Address of the descriptor of a visit (R114). -/
def State.descAddr (s : State) (c : Nat) : Nat := s.page2 c 0x10 + 256 * ((s.ctx c).go.desc % 2 ^ s.page c 0x18)

/-- The fetch of a descriptor (R114, R116). -/
def State.fetchDesc (s : State) (c again : Nat) : State := s.memPost (readReq c 1 (s.descAddr c) 256 ⟨.desc, again⟩)

/-- Epoch of the context's next step (R11). -/
def Ctx.nextEpoch (x : Ctx) : Nat := x.seqNo % 256

/-- DESCRIPTOR_FETCHED (R116, R117). -/
def descFetchedOp (c : Nat) (hv : HostView) (s : State) : State :=
  match s.takeDone c .desc with
  | none => s
  | some (m, s) =>
    let raw := m.data.take 256
    if (s.ctx c).st ≠ .fetching then s
    else if crcOk 256 raw = false then
      if m.why.idx = 0 then s.fetchDesc c 1 else s.refuseStep c 0x01 0
    else
      match s.checkDesc c hv raw with
      | .refused r => (s.chargeChecks c hv (parseDesc raw)).refuseStep c r (parseDesc raw).cookie
      | .fault k => (s.chargeChecks c hv (parseDesc raw)).ctxFault c k
      | .passed st =>
        let wait := (s.ctx c).tracked.contains (s.ctx c).nextEpoch
        (s.chargeChecks c hv st.desc).modCtx c (fun x => { x with
          cand := some { st with cnt := { st.cnt with qflags := if wait then 256 else 0 } }
          waitEpoch := wait })

def execDescriptorFetched (ctx : Nat) (hv : HostView) (s : State) : Host.Outcome State Fault Refusal :=
  .next (if s.alive then descFetchedOp ctx hv s else s)

end Sys2Proof.Machine
end

