-- ==== Sys2Proof/Machine/Accept.lean ====
section
/-! DEFINITION. Acceptance of a checked step (R117): what it binds to and samples (R98, R178 to R180, R197,
R277, R420, R437, R498), counters and chains (R268, R271), images (R150), frame (R380). -/

namespace Sys2Proof.Machine

/-- A layer table as one of the two fetches reads it, when its tcheck agrees (R173, R178). -/
def tableAt (get : Nat → Nat → Bytes) (a : Nat) : Option Bytes :=
  let h := get a 32
  let b := get a (tableLen (fld h 0 2) (fld h 2 2))
  if tableCheck b then some b else none

/-- The layer table of a step as its directory entry, index and table are read (R178); none is the routing-table fault. -/
def State.bindTable (s : State) (hv : HostView) (d : Desc) (l : LDir) : Option LTable :=
  match tableEntry hv s.stn.dir d.model with
  | none => none
  | some e =>
    if fld e 0 8 = 0 ∨ fld e 8 2 ≠ s.modelLayers d.model then none
    else
      let a := fld (hv1 hv (fld e 0 8 + 8 * d.layer) 8) 0 8
      match (match tableAt (hv1 hv) a with | some b => some b | none => tableAt (hv2 hv) a) with
      | none => none
      | some b => if tableOk (parseTable b) l.nExp then some (parseTable b) else none

/-- Ranges that those reads cover: a structure whose check fails is read twice. -/
def State.tableReads (s : State) (hv : HostView) (d : Desc) : List (Nat × Nat) :=
  checkedRanges hv (s.stn.dir + 16 * d.model) 16 ++
    match tableEntry hv s.stn.dir d.model with
    | none => []
    | some e =>
      if fld e 0 8 = 0 ∨ fld e 8 2 ≠ s.modelLayers d.model then []
      else
        let at_ := fld e 0 8 + 8 * d.layer
        let a := fld (hv1 hv at_ 8) 0 8
        let n (h : Bytes) : Nat := tableLen (fld h 0 2) (fld h 2 2)
        (at_, 8) :: (a, n (hv1 hv a 32)) :: (if (tableAt (hv1 hv) a).isSome then [] else [(a, n (hv2 hv a 32))])

/-- The copy of a step's layer table in the table region of its allocating pitch (R171, R178). -/
def State.tabOf (s : State) (c : Nat) (d : Desc) : Option Tab :=
  s.ktl.tabs.find? (fun t => decide (t.pitch = s.allocPitch c ∧ t.model = d.model ∧ t.layer = d.layer ∧ t.ver = s.stn.ver))

/-- Bytes of a copy. -/
def Tab.len (t : Tab) : Nat := tableLen t.table.nExp t.table.nSlot

/-- Bytes of the table region of a pitch (R149), of its 48 banks, and bytes in use in it. -/
def State.tabRoom (s : State) : Nat := (48 - s.rdF 0x20010 0 6) * 524288
def State.tabsUsed (s : State) (p : Nat) : Nat :=
  ((s.ktl.tabs.filter (fun t => decide (t.pitch = p))).map Tab.len).foldl (· + ·) 0

/-- Free copies that no step holds, least recently used first, until `n` bytes fit (R178); at most `k` of them. -/
def State.makeTabRoom (p n : Nat) : Nat → State → State
  | 0, s => s
  | k + 1, s =>
    if s.tabsUsed p + n ≤ s.tabRoom then s
    else match leastBy (fun a b => decide (a.used < b.used)) (s.ktl.tabs.filter (fun t => decide (t.pitch = p ∧ t.held = []))) with
    | none => s
    | some t => State.makeTabRoom p n k (s.modKtl (fun x => { x with tabs := x.tabs.filter (fun u => decide (u ≠ t)) }))

/-- Context `c` holds the copy of its table (R178). DESIGN CHOICE (log entry 74): a table that does not fit beside the copies
that are held stays with the step alone. -/
def State.holdTab (s : State) (c : Nat) (d : Desc) (table : LTable) : State :=
  match s.tabOf c d with
  | some t => s.modKtl (fun x => { x with tabs := x.tabs.map (fun u =>
      if u = t then { u with held := if u.held.contains c then u.held else u.held ++ [c], used := s.el } else u) })
  | none =>
    let t : Tab := { pitch := s.allocPitch c, model := d.model, layer := d.layer, ver := s.stn.ver, table := table, held := [c], used := s.el }
    let s := State.makeTabRoom t.pitch t.len s.ktl.tabs.length s
    if s.tabsUsed t.pitch + t.len ≤ s.tabRoom then s.modKtl (fun x => { x with tabs := x.tabs ++ [t] }) else s

/-- The Balancer's state that a step reads at its acceptance (R180, R351). -/
def readBal (hv : HostView) (learn : Option LearnRec) (e : Nat) : Option BalState :=
  learn.map (fun r => parseBal e (hv1 hv r.stateAddr (stateOff e 32 0 8)))

/-- The step runs in expert choice because a chip was lost (R437). -/
def State.ecForced (s : State) (c : Nat) : Bool :=
  decide (s.rdF 0xC0040 1 1 = 1) &&
  (s.ctx c).lastMem.any (fun m => s.memb.past.contains m && decide (entState (tget 0 s.memb.live m) = 0))

/-- What a step binds to (R98, R117, R175, R277, R442). -/
def State.bindStep (s : State) (c : Nat) (st : Step) (table : LTable) (bal : Option BalState) : Bind :=
  let word := s.groupWord st.desc.group
  let mem := (mkGrp word s.torus s.own s.memb.live).members
  { st.bind with
    mver := s.memb.ver
    tver := s.stn.ver
    wver := s.rd (wverAt st.desc.model)
    word := word
    tab := s.memb.live
    table := table
    bias := if table.biases && (decide (st.desc.kind = 1) || decide (st.desc.kind = 2)) then (match bal with | some b => b.bias | none => []) else []
    bal := bal
    idx := (mem.filter (fun m => decide (m < s.glb.chip))).length
    mem := mem
    serve := mem.filter (fun m => !(s.memb.lost.contains m))
    seq := s.page c 0x0C }

/-- What a step samples (R197, R200, R218, R345, R410, R420, R498). -/
def State.sampStep (s : State) (c : Nat) (st : Step) : Samp :=
  let d := st.desc
  let forced := s.ecForced c && (decide (d.kind = 1) || decide (d.kind = 2))
  { st.samp with
    strict := bit (s.rdMode 8) 0
    w1 := bit (s.rdMode 0x100000) 0
    exitZero := bit (s.rdMode 0x80000) 0
    nSh := s.nShared d
    ec := (d.ec || bit (s.rdMode 0x30000) 0 || forced) && (decide (d.kind = 1) || decide (d.kind = 2))
    ecForced := forced
    spc := s.rdMode 0x70000
    plock := bit (s.rdMode 0xF0000) 0
    quant := max 256 (s.rdMode 0xF0004 % 65536)
    rec_ := s.recBy (s.rdMode 0xF0000) (some c)
    dig := bit (s.rdMode 0xF0000) 3 }

/-- Pending counter adds of an epoch are applied (R271). -/
def State.applyAdds (s : State) (c e : Nat) : State :=
  let mine := s.xch.pend.filter (fun p => decide (p.ctx = c ∧ p.epoch = e))
  let s := s.modXch (fun x => { x with pend := x.pend.filter (fun p => !(decide (p.ctx = c ∧ p.epoch = e))) })
  mine.foldl (fun s p => s.bump c p.ctr p.inc) s

/-- Load what the step's tiles need in each pitch of its tent (R150, R152, R168). -/
def State.loadImages (s : State) (c : Nat) : State :=
  ((tentPitches (s.tentOf c)).filter s.pitchUp).foldl (fun s p => s.needImages c p) s

/-- Free the unmatched held entries of a context and epoch (R319). -/
def State.freeHeld (s : State) (c e : Nat) : State :=
  let gone (h : HoldE) : Bool := decide (h.ctx = c ∧ h.epoch = e ∧ h.st ≠ 3)
  { s.count 0x70018 (s.hold.filter gone).length with hold := s.hold.filter (fun h => !(gone h)) }

/-- The step becomes the context's running step. Held entries of the epoch's last use go (R319). -/
def State.beginStep (s : State) (c : Nat) (st : Step) (table : LTable) (bal : Option BalState) : State :=
  let x := s.ctx c
  let e := x.nextEpoch
  let b := s.bindStep c st table bal
  let m := s.sampStep c st
  let st := { st with
    epoch := e
    bind := b
    samp := m
    frame := x.vframe
    at_ := ⟨x.v, x.acct, x.slowAvg, x.affObs, recOffs.map (s.page c)⟩
    cnt := { st.cnt with
      qflags := st.cnt.qflags ||| (if m.ecForced then 512 else 0) ||| b2n (decide (x.launch < s.now))
      prog := s.el
      quiet := s.el } }
  let s := s.modCtx c (fun x => { x with
    st := .running
    seqNo := x.seqNo + 1
    epoch := e
    tracked := x.tracked ++ [e]
    counters := []
    vframe := none
    cand := none
    waitEpoch := false
    lastMem := b.mem
    past := ((e, st.desc.model, st.desc.layer) :: x.past).take 2
    step := some st })
  let s := (((s.freeHeld c e).loadImages c).applyAdds c e).fireChains c
  (s.frames (s.ctx c).tent).heldCheck c

/-- Kinds that score and so read the Balancer's biases (R180). -/
def Desc.scores (d : Desc) : Bool := decide (d.kind = 1) || decide (d.kind = 2)

/-- Accept a checked step: its group (R277), layer table (R178), stats range (R529) and biases (R180). -/
def State.acceptGo (s : State) (c : Nat) (hv : HostView) (st : Step) : State :=
  let d := st.desc
  let l := st.bind.dir
  let copy := s.tabOf c d
  let learns := (d.scores || decide (d.kind = 4)) && st.bind.learn.isSome
  if d.tokens && !(mkGrp (s.groupWord d.group) s.torus s.own s.memb.live).valid then s.ctxFault c 0x12
  else if (copy.isNone || learns) && decide (hv.fault ≠ 0) then s.ctxFault c hv.fault
  else
    let s := if copy.isNone then (s.tableReads hv d).foldl (fun s r => s.chargeRead c 1 r.1 r.2) s else s
    match (match copy with
      | some t => if t.table.nExp = l.nExp then some t.table else none
      | none => s.bindTable hv d l) with
    | none => s.ctxFault c 0x0A
    | some t =>
      let bal := if learns then readBal hv st.bind.learn l.nExp else none
      let biases := match bal with | some b => if t.biases && d.scores then b.bias else [] | none => []
      if d.flag 6 = true ∧ s.fenceOk c d.statsAddr (4 * t.nSlot) rightWr = false then s.ctxFault c 0x05
      else if biases.any isNan32 then s.ctxFault c 0x0A
      else (s.holdTab c d t).beginStep c st t bal

/-- STEP_ACCEPT (R117). A change of the model's residency since the checks applies to the step (R144): they are made again
(DEDUCED, log entry 179). -/
def stepAcceptOp (c : Nat) (hv : HostView) (s : State) : State :=
  let x := s.ctx c
  match x.cand with
  | none => s
  | some st =>
    if !x.active || decide (x.st ≠ .fetching) || x.tracked.contains x.nextEpoch then s
    else if tget 0 s.ktl.gens st.desc.model = st.bind.gen then s.acceptGo c hv st
    else
      let s' := s.chargeChecks c hv st.desc
      match s.checkDesc c hv st.raw with
      | .refused r => s'.refuseStep c r st.desc.cookie
      | .fault k => s'.ctxFault c k
      | .passed st' => s'.acceptGo c hv { st' with cnt := st.cnt }

def execStepAccept (ctx : Nat) (hv : HostView) (s : State) : Host.Outcome State Fault Refusal := .next (if s.alive then stepAcceptOp ctx hv s else s)

end Sys2Proof.Machine
end

