-- ==== Sys2Proof/Machine/Score.lean ====
section
/-! DEFINITION. The margin guard on a running step's data (R143, R153, R160 to R169), what happens to each
token (R183, R197, R199): functions of the step alone. -/

namespace Sys2Proof.Machine

/-- What of the context and of the mode registers the guard reads (R166, R167, R181). -/
structure GuardIn where
  ctx : Nat
  seed : Nat
  force : Bool
  tgt : Bool
  deriving DecidableEq, Repr, Inhabited

def canonNaN : W32 := 0x7FC00000#32

/-- Place of a token and column in the accumulators. -/
def accKey (t j : Nat) : Nat := t * 2048 + j

/-- Change the scoring state of a token. -/
def Step.modTok (st : Step) (t : Nat) (f : TokSt → TokSt) : Step :=
  { st with sc := { st.sc with st := tmod {} t f st.sc.st } }

def Step.tok (st : Step) (t : Nat) : TokSt := tget {} st.sc.st t

/-- The parts of a row of `n` bytes (R46). -/
def rowParts (n : Nat) : Nat := ceilDiv n 4096

/-- Place of a part of a row, with the step's epoch, in its memory request. -/
def rowIdx (e t part : Nat) : Nat := (e * 2 ^ 24 + t) * 16 + part

/-- The delivered row of a token, once all of it has come (R136). -/
def Step.row (st : Step) (t : Nat) : Option Bytes :=
  let n := rowBytes st.desc.inFmt st.bind.dir.d
  let ps := (List.range (rowParts n)).map (fun i => tget [] st.sc.rows (t * 16 + i))
  if ps.all (fun p => decide (p ≠ [])) then some (ps.flatten.take n) else none

/-- A delivered row holds a value named non-finite in R132 (R143). -/
def Step.rowBad (st : Step) (t : Nat) : Bool :=
  match st.row t with
  | none => false
  | some r => rowNonfinite st.desc.inFmt st.bind.dir.d r

/-- A clamp bit of the row is one (R157). -/
def Step.clamped (st : Step) (t : Nat) : Bool :=
  decide (st.bind.dir.lfmt ≠ 1) &&
  (match st.row t with
   | none => false
   | some r => (requant st.bind.dir.lfmt st.desc.inFmt st.bind.dir.d r).any QBlock.clamp)

/-- Selection offset of a column (R180, R181). -/
def Step.offset (st : Step) (gi : GuardIn) (t j : Nat) : W32 :=
  let bias := st.bind.bias.getD j 0#32
  let nz := if st.desc.flag 1 then noise gi.seed gi.ctx st.bind.seq t j (BitVec.ofNat 32 st.desc.noiseScale) else 0#32
  fadd bias nz

/-- Reference score of a pair whose rescoring is complete (R153); a BF16 router's scores are the reference. -/
def Step.ref (st : Step) (t j : Nat) : W32 :=
  if st.bind.dir.lfmt = 1 ∧ (st.tok t).full = false then (tget acc0 st.sc.acc (accKey t j)).s
  else tget 0#32 st.sc.racc (accKey t j)

/-- Score and bound of a column as the tests see them (R137, R158, R165, R166). -/
def Step.pair (st : Step) (clamp : Bool) (t j : Nat) : Acc :=
  let x := st.tok t
  if x.full || x.amb.contains j then ⟨st.ref t j, 0#32⟩
  else
    let a := tget acc0 st.sc.acc (accKey t j)
    if st.bind.dir.lfmt = 1 then ⟨a.s, 0#32⟩ else if clamp then ⟨a.s, inf32⟩ else a

/-- The exit decision is evaluated (R162, R182). -/
def Step.exits (st : Step) : Bool := st.desc.flag 2 && st.bind.dir.exitHead

/-- Intervals of the ranked columns of a token (R160). -/
def Step.ivls (st : Step) (gi : GuardIn) (t : Nat) : List Ivl :=
  let cl := st.clamped t
  (List.range st.bind.dir.nExp).map (fun j =>
    let a := st.pair cl t j
    ivl j a.s a.b (st.offset gi t j))

/-- Interval of the exit column. -/
def Step.exitIvl (st : Step) (t : Nat) : Ivl :=
  let a := st.pair (st.clamped t) t st.bind.dir.nExp
  ivl st.bind.dir.nExp a.s a.b 0#32

def Step.thresh (st : Step) : W32 := BitVec.ofNat 32 st.desc.exitThresh

/-- Overflow candidates of a token (R153): at most `reach` after the first `k`. -/
def Step.nCand (st : Step) : Nat := min st.desc.reach (st.bind.dir.nExp - st.desc.k)

/-- Columns in the order of R153 by exact reference value. -/
def Step.rankRef (st : Step) (gi : GuardIn) (t : Nat) (js : List Nat) : List Nat :=
  rankVals (js.map (fun j => (j, fvAdd (dec32 (st.ref t j)) (dec32 (st.offset gi t j)))))

/-- Settle a token without choices. -/
def Step.settle (st : Step) (t : Nat) (o : TokOut) : Step :=
  st.modTok t (fun x => { x with ph := 4, left := 0, tr := { tokR0 with out := o } })

/-- A non-finite token (R143, R165): every score of it becomes the canonical NaN. -/
def Step.nonfinite (st : Step) (t : Nat) : Step :=
  let st := st.settle t .nonfinite
  let js := List.range st.bind.dir.cols
  { st with sc := { st.sc with
    nonfin := st.sc.nonfin + 1
    acc := js.foldl (fun a j => tput acc0 (accKey t j) ⟨canonNaN, (tget acc0 a (accKey t j)).b⟩ a) st.sc.acc
    racc := js.foldl (fun a j => tput 0#32 (accKey t j) canonNaN a) st.sc.racc } }

/-- The row of a scored token has come (R143): a non-finite one goes to the Strainer at once. -/
def Step.rowIn (st : Step) (t : Nat) : Step :=
  if st.rowBad t && decide ((st.tok t).ph = 0) then st.nonfinite t else st

/-- Tokens whose delivered row the guard's work needs (R136, R168). -/
def Step.guardToks (st : Step) : List Nat :=
  st.sc.rjobs.flatMap RJob.toks ++ st.sc.pairs.map GPair.t ++ st.sc.gjobs.flatMap (fun j => j.pairs.map GPair.t)

/-- Set bit `t` of a mask (R184). -/
def maskSet (m : Bytes) (t : Nat) : Bytes := lset (t / 8) (m.getD (t / 8) 0#8 ||| (1#8 <<< (t % 8))) m

def maskBit (m : Bytes) (t : Nat) : Bool := (m.getD (t / 8) 0#8).getLsbD (t % 8)

/-- A token exits (R183). -/
def Step.exitTok (st : Step) (t : Nat) : Step :=
  let st := st.settle t .exits
  { st with
    sc := { st.sc with mask := maskSet st.sc.mask t }
    cnt := { st.cnt with exits := st.cnt.exits + 1 } }

/-- Picks of a chosen set in its choice ranks (R163, R183). -/
def Step.picks (st : Step) (gi : GuardIn) (t : Nat) (js : List Nat) : List Pick :=
  (st.rankRef gi t js).map (fun j => ⟨j, st.ref t j, 0#32, 0, j, 0⟩)

/-- The token's ranks are in: it is decided (R163, R183; R199 keeps the first `k` in expert choice). -/
def Step.ranked (st : Step) (gi : GuardIn) (t : Nat) : Step :=
  let x := st.tok t
  let ps := st.picks gi t x.set_
  let kept := ps.take st.desc.k
  let cs := x.cands.map (fun e => Cand.mk e 0 (if x.full ∨ st.bind.dir.lfmt = 1 then st.ref t e else 0#32))
  let st := st.modTok t (fun x => { x with ph := 4, left := 0, tr := { out := .takes, picks := kept, cands := cs, norm := one32 } })
  { st with cnt := { st.cnt with drop := st.cnt.drop + (ps.length - kept.length) } }

/-- Ask for gather pairs (R168). -/
def Step.addPairs (st : Step) (ps : List GPair) : Step := { st with sc := { st.sc with pairs := st.sc.pairs ++ ps } }

/-- Token choice: the chosen set and the candidates are known (R183). `known`: so are the reference scores. -/
def Step.choose (st : Step) (gi : GuardIn) (t : Nat) (chosen cands : List Nat) (known : Bool) : Step :=
  let nulls := (chosen.filter (isNull st.bind.table)).length
  if st.desc.flag 3 ∧ st.bind.table.skipNulls ≠ 0 ∧ st.bind.table.skipNulls ≤ nulls then
    let st := st.settle t .skips
    { st with cnt := { st.cnt with skips := st.cnt.skips + 1 } }
  else
    let st := st.modTok t (fun x => { x with set_ := chosen, cands := cands })
    if known then st.ranked gi t
    else
      let need := chosen.filter (fun j => !((st.tok t).amb.contains j))
      if need = [] then st.ranked gi t
      else
        (st.modTok t (fun x => { x with ph := 3, left := need.length })).addPairs (need.map (fun j => ⟨t, j, 0⟩))

/-- A token whose every column has its reference score (R165). -/
def Step.fullDone (st : Step) (gi : GuardIn) (t : Nat) : Step :=
  let l := st.bind.dir
  let st := st.modTok t (fun x => { x with full := true })
  let js := List.range l.nExp
  let bad := (List.range l.cols).any (fun j => isNan32 (st.ref t j)) || js.any (fun j => opposite (st.ref t j) (st.offset gi t j))
  if bad then st.nonfinite t
  else if st.exits && fgt (st.ref t l.nExp) st.thresh then st.exitTok t
  else if st.samp.ec then st.modTok t (fun x => { x with ph := 5 })
  else
    let r := st.rankRef gi t js
    st.choose gi t (r.take st.desc.k) ((r.drop st.desc.k).take st.nCand) true

/-- A full recheck begins (R165, R168, R170). -/
def Step.fullRecheck (st : Step) (t : Nat) : Step :=
  let st := st.modTok t (fun x => { x with ph := 1 })
  { st with cnt := { st.cnt with rchk := st.cnt.rchk + 1, qflags := st.cnt.qflags ||| 16 } }

/-- A targeted recheck begins (R166). -/
def Step.targeted (st : Step) (t : Nat) (amb : List Nat) : Step :=
  let st := (st.modTok t (fun x => { x with ph := 2, left := amb.length, amb := amb })).addPairs (amb.map (fun j => ⟨t, j, 2⟩))
  { st with cnt := { st.cnt with tgt := st.cnt.tgt + 1, qflags := st.cnt.qflags ||| 16 } }

/-- The tests of a token in token choice (R160 to R163, R166, R167); `again`: repeated after a targeted
recheck. -/
def Step.testTok (st : Step) (gi : GuardIn) (t : Nat) (again : Bool) : Step :=
  let xs := st.ivls gi t
  let ex := st.exitIvl t
  let bad := xs.any (fun x => !x.ok) || (st.exits && !ex.ok)
  let r := rankIvls xs
  let k := st.desc.k
  let fails := failing r k st.desc.reach
  let exitOk := !st.exits || exitPass st.thresh ex
  if bad || (gi.force && !again) then st.fullRecheck t
  else if fails = [] ∧ exitOk = true then
    if st.exits && fvLt (dec32 st.thresh) ex.lo then st.exitTok t
    else st.choose gi t ((r.take k).map Ivl.j) (((r.drop k).take st.nCand).map Ivl.j) (decide (st.bind.dir.lfmt = 1))
  else
    let amb := ambiguous r fails
    let allOk := xs.all (fun x => x.ok) && (!st.bind.dir.exitHead || ex.ok)
    if !again && !st.samp.strict && gi.tgt && exitOk && allOk && decide (amb.length ≤ 4) &&
        decide (st.sc.pairs.length + amb.length ≤ 4096) then st.targeted t amb
    else st.fullRecheck t

/-- The tests of a token before any column ranks it, in expert choice (R162, R164, R167). -/
def Step.testTokEc (st : Step) (gi : GuardIn) (t : Nat) : Step :=
  let ex := st.exitIvl t
  let bad := (st.ivls gi t).any (fun x => !x.ok && !(isNull st.bind.table x.j)) || (st.exits && !ex.ok)
  if bad || gi.force || (st.exits && !(exitPass st.thresh ex)) then st.fullRecheck t
  else if st.exits && fvLt (dec32 st.thresh) ex.lo then st.exitTok t
  else st.modTok t (fun x => { x with ph := 5 })

/-- Count a token whose bound reached +∞ (R170). -/
def Step.countInf (st : Step) (t : Nat) : Step :=
  let cl := st.clamped t
  if (List.range st.bind.dir.cols).any (fun j => isInf32 (st.pair cl t j).b) then
    { st with sc := { st.sc with inf := st.sc.inf + 1 } }
  else st

/-- Recheck tiles for those tokens of group `g` that await a full recheck and have none (R168). -/
def Step.addRJob (st : Step) (g : Nat) (ts : List Nat) : Step :=
  if ts = [] then st
  else { st with sc := { st.sc with
    rjobs := st.sc.rjobs ++ [⟨st.sc.nextJob, g, ts, []⟩]
    nextJob := st.sc.nextJob + 1 } }

/-- Tokens of token group `g` (R140). -/
def Step.group (st : Step) (g : Nat) : List Nat := (st.sc.toks.drop (64 * g)).take 64

def Step.nGroups (st : Step) : Nat := ceilDiv st.sc.toks.length 64

/-- Depth cap of a full-depth tile, in blocks of 32 elements (R140). -/
def depthBlocks (lfmt : Nat) : Nat := if lfmt = 7 ∨ lfmt = 8 then 128 else if lfmt = 1 then 16 else 64

/-- Depth slices of a layer (R140). -/
def LDir.slices (l : LDir) (lfmt : Nat) : Nat := ceilDiv l.d32 (depthBlocks lfmt)

def LDir.colGroups (l : LDir) : Nat := ceilDiv l.cols 64

/-- Place of a token group and column group in the slice counts. -/
def tileKey (g c : Nat) : Nat := g * 32 + c

/-- Every slice of the group's tiles is complete, or every row of it is non-finite (R142, R143). -/
def Step.groupScored (st : Step) (g : Nat) : Bool :=
  let ts := st.group g
  ts.all (fun t => (st.row t).isSome) &&
  (ts.all st.rowBad ||
    (List.range st.bind.dir.colGroups).all (fun c =>
      decide (tget 0 st.sc.done (tileKey g c) = st.bind.dir.slices st.bind.dir.lfmt)))

/-- The tests of a token group once its scores are complete. -/
def Step.testGroup (st : Step) (gi : GuardIn) (g : Nat) : Step :=
  let st := { st with sc := { st.sc with tested := st.sc.tested ++ [g] } }
  let st := (st.group g).foldl (fun st t =>
    if st.rowBad t then st.rowIn t
    else
      let st := st.countInf t
      if st.samp.ec then st.testTokEc gi t else st.testTok gi t false) st
  st.addRJob g ((st.group g).filter (fun t => decide ((st.tok t).ph = 1)))

/-- Test every group that is complete and not yet tested. -/
def Step.testGroups (st : Step) (gi : GuardIn) : Step :=
  ((List.range st.nGroups).filter (fun g => !(st.sc.tested.contains g) && st.groupScored g)).foldl
    (fun st g => st.testGroup gi g) st

/-- Every token's demand is known: nothing awaits a recheck (R164, R189, R197). -/
def Step.demandKnown (st : Step) : Bool :=
  st.sc.toks.all (fun t => decide (3 ≤ (st.tok t).ph))

/-- Every take-part token has its ranks (R185). -/
def Step.allRanked (st : Step) : Bool := st.sc.toks.all (fun t => decide ((st.tok t).ph = 4))

/- Expert choice -/

/-- Tokens that columns rank (R197, R198). -/
def Step.eligible (st : Step) : List Nat := st.sc.toks.filter (fun t => decide ((st.tok t).ph = 5))

/-- Intervals of the eligible tokens in a column. -/
def Step.colIvls (st : Step) (gi : GuardIn) (j : Nat) (ts : List Nat) : List Ivl :=
  ts.map (fun t =>
    let a := st.pair (st.clamped t) t j
    ivl t a.s a.b (st.offset gi t j))

/-- The ambiguous tokens of a column (R164). -/
def Step.colAmb (st : Step) (gi : GuardIn) (j : Nat) (q : Option Nat) (ts : List Nat) : List Nat :=
  match q with
  | none => []
  | some c => (ecRank (st.colIvls gi j ts) c).2

/-- The tokens a column takes (R164, R198). -/
def Step.colTake (st : Step) (gi : GuardIn) (j : Nat) (q : Option Nat) (ts : List Nat) : List Nat :=
  match q with
  | none => ts
  | some c => ecTake (st.colIvls gi j ts) c (fun t => fvAdd (dec32 (st.ref t j)) (dec32 (st.offset gi t j)))

/-- Full rechecks of tokens, by their groups. -/
def Step.recheckAll (st : Step) (ts : List Nat) : Step :=
  let st := ts.foldl Step.fullRecheck st
  (List.range st.nGroups).foldl (fun st g => st.addRJob g ((st.group g).filter ts.contains)) st

/-- Expert choice once quotas are known and nothing awaits a recheck (R164, R199): ambiguous tokens are
rechecked, or every column takes its tokens. `quota` gives each expert's quota, or none when it has none. -/
def Step.ecSettle (st : Step) (gi : GuardIn) (quotas : List (Nat × Option Nat)) : Step :=
  let ts := st.eligible
  let amb := (quotas.flatMap (fun q => st.colAmb gi q.1 q.2 ts))
  let todo := ts.filter (fun t => amb.contains t && !(st.tok t).full)
  if todo ≠ [] then st.recheckAll todo
  else
    let takes := quotas.map (fun q => (q.1, st.colTake gi q.1 q.2 ts))
    let st := { st with rt := { st.rt with ecTest := true } }
    ts.foldl (fun st t =>
      let js := (takes.filter (fun q => q.2.contains t)).map Prod.fst
      if js = [] then
        let st := st.settle t .skips
        { st with rt := { st.rt with untaken := st.rt.untaken + 1 } }
      else
        let st := st.modTok t (fun x => { x with set_ := js })
        if (st.tok t).full || decide (st.bind.dir.lfmt = 1) then st.ranked gi t
        else (st.modTok t (fun x => { x with ph := 3, left := js.length })).addPairs (js.map (fun j => ⟨t, j, 0⟩))) st

/-- A gather pair is complete (R168, R169). -/
def Step.pairDone (st : Step) (gi : GuardIn) (p : GPair) : Step :=
  if p.why = 1 then
    st.modTok p.t (fun x => { x with tr := { x.tr with
      cands := x.tr.cands.map (fun c => if c.e = p.j then { c with score := st.ref p.t p.j } else c) } })
  else
    let st := st.modTok p.t (fun x => { x with left := x.left - 1 })
    let x := st.tok p.t
    if x.left ≠ 0 then st
    else if x.ph = 3 then st.ranked gi p.t
    else if x.ph = 2 then
      let st := st.testTok gi p.t true
      if (st.tok p.t).ph = 1 then
        st.addRJob (((List.range st.nGroups).find? (fun g => (st.group g).contains p.t)).getD 0) [p.t]
      else st
    else st

end Sys2Proof.Machine
end

