-- ==== Sys2Proof/Machine/Counts.lean ====
section
/-! DEFINITION. Counts of a step as functions of the step: demand (R189, R224), the words of the count
exchange (R290, R291), capacity, quotas and bases (R190 to R192, R198), slot depth (R225), route counts
along the axes (R230). -/

namespace Sys2Proof.Machine

/-- Resolved slots of an expert (R175, R435). -/
def Step.res (st : Step) (e : Nat) : List Nat := resolved st.bind.table st.bind.serve.contains e

/-- Non-null experts in ascending order. -/
def Step.reals (st : Step) : List Nat := (List.range st.bind.table.nExp).filter (fun e => !(isNull st.bind.table e))

/-- Demand of this source (R189, R224), from the chosen sets. -/
def Step.demandOf (st : Step) : Table Nat :=
  st.sc.toks.foldl (fun d t =>
    let x := st.tok t
    let es := if x.ph = 3 then x.set_ else if x.tr.out = .takes then x.tr.picks.map Pick.e else []
    es.foldl (fun d e => if isNull st.bind.table e then d else tput 0 e (tget 0 d e + 1) d) d) []

/-- Tokens counted in T (R189, R197). -/
def Step.takeCount (st : Step) : Nat :=
  (st.sc.toks.filter (fun t =>
    let x := st.tok t
    decide (x.ph = 3 ∨ x.ph = 5) || (decide (x.ph = 4) && decide (x.tr.out = .takes)))).length

/-- Words of the header round (R290). -/
def Step.headerWords (st : Step) : List Nat :=
  let key := st.bind.tver + 2 ^ 16 * b2n st.samp.ec + 2 ^ 17 * b2n st.samp.w1
  [st.takeCount, key, key]

/-- Owners of the transpose (R291): N'. -/
def Step.owners (st : Step) : Nat := min st.bind.mem.length st.reals.length

/-- Experts of the owner with source index `o` (R291). -/
def Step.ownedBy (st : Step) (o : Nat) : List Nat :=
  (st.reals.zipIdx.filter (fun p => decide (p.2 % max 1 st.owners = o))).map Prod.fst

/-- Cut a list into parts of at most `n`. -/
def partsOf {α : Type} (n : Nat) : Nat → List α → List (List α)
  | 0, _ => []
  | f + 1, xs => if xs = [] then [] else xs.take n :: partsOf n f (xs.drop n)

/- Capacity -/

/-- Base capacity of a slot (R190). -/
def Step.c0 (st : Step) : Option Nat := baseCap st.desc.capField st.desc.k st.rt.t (nReal st.bind.table)

/-- Capacity of an expert (R190). -/
def Step.capacity (st : Step) (e : Nat) : Option Nat := capOf st.c0 (st.res e).length

/-- Tokens that the sources before this one count in a step of expert choice (R192, R225): with unlimited capacity every
counted token takes every column. The exchange of R197 brings their total only, which fixes the first and the last source's;
between them it is a free value (log entry 12). -/
def Step.ecPrefix (st : Step) : Nat :=
  let rest := st.rt.t - st.rt.own
  if st.bind.idx = 0 then 0
  else if st.bind.idx + 1 = st.rt.n then rest
  else min (Config.ecPrefix st.cnt.elLaunch st.bind.seq st.bind.idx) rest

/-- Quota and base of this source for an expert (R191, R192, R198). -/
def Step.quotaBase (st : Step) (e : Nat) : Option Nat × Nat :=
  let s := st.bind.idx
  if st.samp.ec then
    match st.capacity e with
    | none => (none, st.ecPrefix)
    | c => quotaEc c s st.rt.n
  else
    let w := tget 0 st.rt.wpre e
    quota (st.capacity e) (tget 0 st.rt.dmd e) w (tget 0 st.rt.dtot e + st.rt.n) s

/-- Depth of the slots of an expert (R225); in expert choice every counted token takes every column. -/
def Step.depth (st : Step) (e : Nat) : Nat :=
  slotDepth st.c0 (if st.samp.ec then st.rt.t else tget 0 st.rt.dtot e) (st.res e).length

/-- A slot depth past 2^24 (R225). -/
def Step.depthBad (st : Step) : Bool :=
  st.reals.any (fun e => decide (st.res e ≠ []) && decide (2 ^ 24 < st.depth e))

/-- Quotas of the non-null experts (R198). -/
def Step.quotas (st : Step) : List (Nat × Option Nat) := st.reals.map (fun e => (e, (st.quotaBase e).1))

/- Route counts -/

/-- Copies of the send list for the chips of a predicate. -/
def Step.copiesTo (st : Step) (p : Nat → Bool) : Nat := (st.rt.list.filter (fun e => p e.e.chip)).length

/-- Ring coordinates of a member in a group. -/
def Grp.ofChip (g : Grp) (c : Nat) : Pos := g.rc (entPos (tget 0 g.tab c))

/-- Phase X vector for the chips of X coordinate `x` (R230, R292): 256 counts, that of destination (x, y1, z1) at place
16 y1 + z1 (DEDUCED, log entry 182: coordinates of the torus, y1 first). In weights-to-tokens every copy is this chip's own. -/
def Step.vecX (st : Step) (g : Grp) (x : Nat) : List Nat :=
  (List.range 256).map (fun i =>
    let p : Pos := ⟨x, i / 16, i % 16⟩
    if st.ext.w2t then (if p = g.own then st.rt.list.length else 0) else st.copiesTo (fun c => decide (entPos (tget 0 g.tab c) = p)))

def addLists (a b : List Nat) : List Nat := (a.zip b).map (fun p => p.1 + p.2)

/-- Members on the line of `o` along axis `a`, without `o` itself. -/
def Grp.peers (g : Grp) (o : Pos) (a : Nat) : List Nat :=
  (List.range (g.ext.at_ a)).filter (fun c => decide (c ≠ o.at_ a) && (g.chip (o.set a c)).isSome)

/-- Flits of a vector of `n` counts. -/
def vecFlits (n : Nat) : Nat := max 1 (ceilDiv n 16)

/-- The vector that the peer at `c` sent in the phase of axis `a`, once all its flits are there. -/
def routeGot (ms : List ShortIn) (a c n : Nat) : Option (List Nat) :=
  let fl := (List.range (vecFlits n)).map (fun f =>
    ms.find? (fun m => decide (m.h.mkind = 4 ∧ m.h.axis = a ∧ m.h.coord = c ∧ m.h.fidx = f)))
  if fl.all Option.isSome then
    some (((fl.filterMap id).flatMap (fun m => readElems 9 (m.data.length / 4) m.data)).take n)
  else none

/-- Torus coordinate on axis `a` of ring coordinate `c`. -/
def Grp.coord (g : Grp) (a c : Nat) : Nat := (g.org.at_ a + c) % g.size.at_ a

/-- A route-count phase (R230). -/
structure RouteSum where
  /-- the chip's holdings, its own included -/
  hold : List Nat
  /-- copies that arrive, by the sender's ring coordinate (R231) -/
  lay : List Nat

/-- The peers' vectors and the chip's own, summed when all have come (R230, R231). -/
def routeSum (g : Grp) (o : Pos) (ms : List ShortIn) (a : Nat) (own : List Nat) : Option RouteSum :=
  let gs := (g.peers o a).map (fun c => (c, routeGot ms a c own.length))
  if gs.all (fun q => q.2.isSome) then
    let vs := gs.filterMap (fun q => q.2.map (fun v => (q.1, v)))
    let lay (c : Nat) : Nat :=
      if c = o.at_ a then own.foldl (· + ·) 0
      else (((vs.find? (fun v => decide (v.1 = c))).map Prod.snd).getD []).foldl (· + ·) 0
    some ⟨(vs.map Prod.snd).foldl addLists own, (List.range (g.ext.at_ a)).map lay⟩
  else none

/-- What the route-count exchange has reached (R230 to R232, R292). -/
structure RouteRun where
  /-- vectors to send, by axis and peer coordinate -/
  send : List (Nat × Nat × List Nat) := []
  /-- copies that arrive in stages X and Y, by the sender's ring coordinate (R231) -/
  layX : List Nat := []
  layY : List Nat := []
  /-- the chip's total arrivals, once phase Z is complete -/
  total : Option Nat := none
  /-- a sum passes 2^32 − 1 (R232) -/
  big : Bool := false

def Step.routeRun (st : Step) (g : Grp) (ms : List ShortIn) : RouteRun :=
  let o := g.rc g.own
  let sx := (g.peers o 0).map (fun c => (0, c, st.vecX g (g.coord 0 c)))
  let big (v : List Nat) : Bool := v.any (fun n => decide (2 ^ 32 ≤ n))
  match routeSum g o ms 0 (st.vecX g g.own.x) with
  | none => { send := sx }
  | some hx =>
    let row (y : Nat) : List Nat := (hx.hold.drop (16 * y)).take 16
    let sy := (g.peers o 1).map (fun c => (1, c, row (g.coord 1 c)))
    match routeSum g o ms 1 (row g.own.y) with
    | none => { send := sx ++ sy, layX := hx.lay, big := big hx.hold }
    | some hy =>
      let sz := (g.peers o 2).map (fun c => (2, c, [hy.hold.getD (g.coord 2 c) 0]))
      match routeSum g o ms 2 [hy.hold.getD g.own.z 0] with
      | none => { send := sx ++ sy ++ sz, layX := hx.lay, layY := hy.lay, big := big hx.hold || big hy.hold }
      | some a =>
        { send := sx ++ sy ++ sz, layX := hx.lay, layY := hy.lay, total := some (a.hold.headD 0)
          big := big hx.hold || big hy.hold || big a.hold }

end Sys2Proof.Machine
end

