-- ==== Sys2Proof/Machine/Dest.lean ====
section
/-! DEFINITION. The final destination of copies (R259 to R262): landing by slot and row, token-batch packets,
the completion of a step's dispatch. -/

namespace Sys2Proof.Machine

/-- A copy record (R249): header and row, padded to a multiple of 16. -/
def copyRecord (h : CopyH) (row : Bytes) : Bytes := encCopyH h ++ padTo 16 row

/-- Copies of the slot are computed on this chip from pulled weights (R264, R265). -/
def Step.pulled (st : Step) (own slot : Nat) : Bool :=
  st.ext.w2t && decide ((st.bind.table.slots.getD slot default).chip ≠ own)

/-- Body of a token-batch packet (R261). -/
def Step.batchBody (st : Step) (own slot : Nat) : Bytes :=
  let sl := st.bind.table.slots.getD slot default
  le 1 st.desc.model ++ le 1 st.desc.layer ++ le 1 st.desc.payFmt ++ le 1 (b2n (st.pulled own slot)) ++ le 2 sl.loc ++
    le 2 sl.chip ++ le 4 st.bind.wver

/-- Undelivered records of a slot in ascending row. -/
def Step.slotRecs (st : Step) (slot : Nat) : List LandRec :=
  sortBy (fun a b => decide (a.row < b.row)) (st.dst.recs.filter (fun r => decide (r.slot = slot)))

/-- The weights of a pulled slot have been sent to the host cores (R265). -/
def Step.slotOpen (st : Step) (own slot : Nat) : Bool :=
  let sl := st.bind.table.slots.getD slot default
  !(st.pulled own slot) || st.ext.have_.contains (sl.chip, sl.loc)

/-- The answer to a confirmed copy has come (R262). -/
def State.answered (s : State) (c e tag : Nat) : State :=
  s.modStep c (fun st =>
    if st.epoch = e then { st with dst := { st.dst with owed := st.dst.owed.filter (fun g => decide (g ≠ tag / 256)) } } else st)

/-- Queue a return record for another chip (R262). -/
def State.queueRet (s : State) (r : RetRec) : State :=
  (s.modXch (fun x => { x with retq := x.retq ++ [r] })).answered r.ctx r.epoch (decCopyH r.bytes).tag

/-- Token-batch packet of records of a slot, for point `a` (R261). -/
def Step.batch (st : Step) (own a c slot : Nat) (rs : List LandRec) : Bytes :=
  let pay := rs.flatMap LandRec.bytes
  let h : PktH := ⟨if st.desc.kind = 3 then 3 else 1, c, st.epoch, pay.length, slot, a, rs.length⟩
  mkPktH h (st.batchBody own slot) ++ pay

/-- Send records of a slot in a token-batch packet (R261). -/
def State.packetOut (s : State) (c slot : Nat) (rs : List LandRec) : State :=
  match s.step? c, rs with
  | some st, r :: _ =>
    let q := s.outPoint (8 * r.pitch + slot % 8)
    q.2.sendPacket q.1 c (st.batch s.glb.chip q.1 c slot rs) true
  | _, _ => s

/-- Send one token-batch packet of a slot (R261): at most 64 records. -/
def State.sendBatch (s : State) (c slot : Nat) : State :=
  match s.step? c with
  | none => s
  | some st =>
    let rs := if st.cancelled then [] else (st.slotRecs slot).take 64
    let gone (x : LandRec) : Bool := decide (x.slot = slot) && rs.any (fun y => decide (y.row = x.row))
    (s.modStep c (fun st => { st with dst := { st.dst with recs := st.dst.recs.filter (fun x => !(gone x)) } })).packetOut c slot rs

/-- Held entries of a slot that have not been delivered (R317). -/
def State.heldSlot (s : State) (c e slot : Nat) : List HoldE :=
  s.hold.filter (fun h => decide (h.ctx = c ∧ h.epoch = e ∧ h.rec_.slot = slot ∧ h.st = 0))

/-- Deliver held entries of a slot in one packet (R317), whose beats are hold work of the first of them (R308). -/
def State.sendHeld (s : State) (c slot : Nat) (st : Step) (h0 : HoldE) (hs : List HoldE) : State :=
  let q := s.outPoint (8 * h0.rec_.pitch + slot % 8)
  let b := st.batch s.glb.chip q.1 c slot (hs.map HoldE.rec_)
  let mark (h : HoldE) : HoldE :=
    if hs.contains h then { h with st := 1, work := if h = h0 then ceilDiv b.length 640 else 0 } else h
  ({ q.2 with hold := q.2.hold.map mark } : State).coreSend q.1 b

/-- Send one packet of steeped records (R317). -/
def State.sendSteeped (s : State) (c slot : Nat) : State :=
  match s.step? c with
  | none => s
  | some st =>
    let hs := if st.cancelled then [] else (s.heldSlot c st.epoch slot).take 64
    match hs.head? with
    | none => s
    | some h => s.sendHeld c slot st h hs

/- The weight-version check -/

/-- The batches of a step for `key`: a slot, or 4,096 more for its steeped records. -/
def State.sendKey (s : State) (c key : Nat) : State :=
  if key < 4096 then s.sendBatch c key else s.sendSteeped c (key - 4096)

/-- RSL_EWDIR of a model (R440). -/
def State.ewdir (s : State) (m : Nat) : Nat := s.rd2 (0xC0100 + 8 * m)

/-- A read of the check of R442. -/
def State.expertRead (s : State) (c e key stage a n : Nat) : State :=
  (s.modStep c (fun st => { st with dst := { st.dst with chk := tput 0 key (a + 1) st.dst.chk } })).memPost
    (readReq c 1 a n ⟨.expertRead, (e * 8192 + key) * 4 + stage⟩)

/-- Deliver a batch, after the check of R442 where the chip keeps a directory of the model and the weights are its own. -/
def State.requestBatch (s : State) (c key : Nat) : State :=
  match s.step? c with
  | none => s
  | some st =>
    if s.ewdir st.desc.model = 0 ∨ st.pulled s.glb.chip (key % 4096) = true then s.sendKey c key
    else if tget 0 st.dst.chk key ≠ 0 then s
    else s.expertRead c st.epoch key 1 (s.ewdir st.desc.model + 16 * st.desc.layer) 16

/-- An expert weight entry holds a version (R440, R442). -/
def entryHolds (b : Bytes) (wver : Nat) : Bool := decide (fld b (20 + 4 * (wver % 2)) 4 = wver)

/-- The check of a batch failed (R442, R320): a steeped batch is discarded without a fault. -/
def State.badBatch (s : State) (c key : Nat) : State :=
  match s.step? c with
  | none => s
  | some st =>
    if key < 4096 then s.ctxFault c 0x11
    else
      let hs := (s.heldSlot c st.epoch (key - 4096)).take 64
      let s := s.modStep c (fun st => { st with dst := { st.dst with chk := tput 0 key 0 st.dst.chk } })
      { s.count 0x7001C hs.length with hold := s.hold.filter (fun h => !(hs.contains h)) }

/-- A read of the check of R442 has come. -/
def State.expertBack (s : State) (c idx : Nat) (data : Bytes) : State :=
  match s.step? c with
  | none => s
  | some st =>
    let stage := idx % 4
    let key := idx / 4 % 8192
    let a := tget 0 st.dst.chk key - 1
    let b := sub data (a % 64) 32
    let loc := (st.bind.table.slots.getD (key % 4096) default).loc
    if st.epoch ≠ idx / 4 / 8192 ∨ tget 0 st.dst.chk key = 0 then s
    else if stage = 1 then
      if fld b 8 2 ≤ loc then s.badBatch c key else s.expertRead c st.epoch key 2 (fld b 0 8 + 32 * loc) 32
    else
      let s' := s.modStep c (fun st => { st with dst := { st.dst with chk := tput 0 key 0 st.dst.chk } })
      if crcOk 32 b = false then
        if stage = 2 then s.expertRead c st.epoch key 3 a 32 else s'.badBatch c key
      else if entryHolds b st.bind.wver then s'.sendKey c key
      else s'.badBatch c key

/-- Send every packet of a slot that is due (R261): full ones, or all when the dispatch is complete. -/
def State.flushSlot (c slot : Nat) : Nat → State → State
  | 0, s => s
  | n + 1, s =>
    match s.step? c with
    | none => s
    | some st =>
      let k := (st.slotRecs slot).length
      if k ≠ 0 ∧ st.cancelled = false ∧ st.slotOpen s.glb.chip slot = true ∧ (64 ≤ k ∨ st.dst.complete = true) then
        let s' := s.requestBatch c slot
        match s'.step? c with
        | none => s'
        | some st' => if tget 0 st'.dst.chk slot = 0 then State.flushSlot c slot n s' else s'
      else s

/-- Slots with undelivered records. -/
def Step.openSlots (st : Step) : List Nat :=
  (st.dst.recs.map LandRec.slot).foldl (fun a i => if a.contains i then a else a ++ [i]) []

def State.flushAll (s : State) (c : Nat) : State :=
  match s.step? c with
  | none => s
  | some st => st.openSlots.foldl (fun s i => State.flushSlot c i (st.dst.recs.length + 1) s) s

/-- Deliver held entries of a slot once 64 of them have landed (R261, R317). -/
def State.flushHeld (s : State) (c slot : Nat) : State :=
  match s.step? c with
  | none => s
  | some st => if 64 ≤ (s.heldSlot c st.epoch slot).length then s.requestBatch c (4096 + slot) else s

/-- A held entry that fails staging parity is discarded; the confirmed copy that it had matched is served in its place
(R320). -/
def State.loseHeld (s : State) (h : HoldE) : State :=
  let s : State := { s.count 0x7001C 1 with hold := s.hold.filter (fun x => decide (x ≠ h)) }
  match h.conf with
  | none => s
  | some r => (s.modStep h.ctx (fun st =>
      if st.epoch = h.epoch then { st with dst := { st.dst with recs := st.dst.recs ++ [r] } } else st)).flushAll h.ctx

/-- The hold work of the entries that a dispatch completion frees (R308, R319). -/
def State.chargeHeld (s : State) (c e : Nat) : State :=
  (s.hold.filter (fun h => decide (h.ctx = c ∧ h.epoch = e ∧ h.st ≠ 3))).foldl State.holdWork s

/-- The dispatch is complete on this chip (R230, R261, R319): counter 1 rises and the open batches go. -/
def State.destCheck (s : State) (c : Nat) : State :=
  match s.step? c with
  | none => s
  | some st =>
    if st.dst.known && !st.cancelled && !st.dst.complete && decide (st.dst.total ≤ st.dst.landed) then
      ((((s.modStep c (fun st => { st with dst := { st.dst with complete := true } })).chargeHeld c st.epoch).freeHeld c st.epoch).flushAll
        c).bump c 1 1
    else s

/-- Progress of a step (R425, R509). -/
def State.progress (s : State) (c : Nat) : State :=
  s.modStep c (fun st => { st with cnt := { st.cnt with prog := s.el, progOther := st.cnt.tOther } })

/-- The slot is one that its chip serves in the step's own resolution (R426). -/
def Step.serves (st : Step) (slot : Nat) : Bool :=
  (List.range st.bind.table.nExp).any (fun e => (resolved st.bind.table st.bind.serve.contains e).contains slot)

/-- Key of a copy for the match of R318: source, token, slot, local, dchip. -/
def recKey (r : LandRec) : Nat × Nat × Nat × Nat × Nat :=
  let h := decCopyH r.bytes
  (tagSrc r.tag, tagTok r.tag, r.slot, h.loc, h.dchip)

/-- The return that a held answer makes for a confirmed copy (R318): the copy's tag, every other header field zero, the answer
packet's format and kind (R325). -/
def heldReturn (c e pitch tag fmt : Nat) (back : Bool) (ans : Bytes) : RetRec :=
  { src := tagSrc tag, ctx := c, epoch := e, fmt := fmt, bytes := encCopyH ⟨tag, 0, 0, 0, 0, false, false⟩ ++ ans,
    pitch := pitch, back := back }

/-- A confirmed copy meets the steep hold (R318). The flag says that it is still to be delivered. -/
def State.matchHeld (s : State) (c e : Nat) (r : LandRec) : Bool × State :=
  if (decCopyH r.bytes).ovr then (true, s)
  else match s.hold.find? (fun h => decide (h.ctx = c ∧ h.epoch = e ∧ h.st ≠ 3 ∧ recKey h.rec_ = recKey r)) with
  | none => (true, s)
  | some h =>
    let rest := s.hold.filter (fun x => decide (x ≠ h))
    if h.st = 0 then (true, { s with hold := rest })
    else if h.st = 1 then
      (false, { s.count 0x70014 1 with hold := s.hold.map (fun x => if x = h then { h with st := 3, tag := r.tag, conf := some r } else x) })
    else (false, (({ s.count 0x70014 1 with hold := rest } : State).holdWork h).queueRet (heldReturn c e h.rec_.pitch r.tag h.afmt h.aback h.ans))

/-- One confirmed record lands (R261, R426). `again`: its chunk is a resend. -/
def State.landRec (s : State) (c : Nat) (r : LandRec) (again : Bool) : State :=
  match s.step? c with
  | none => s
  | some st =>
    let old := st.dst.seen.contains (r.slot, r.row)
    if old && !again then s
    else
      let m := (s.modStep c (fun st => { st with dst := { st.dst with
        owed := if old then st.dst.owed else st.dst.owed ++ [r.tag / 256] } })).matchHeld c st.epoch r
      m.2.modStep c (fun st => { st with dst := { st.dst with
        recs := st.dst.recs.filter (fun x => decide (x.slot ≠ r.slot ∨ x.row ≠ r.row)) ++ (if m.1 then [r] else [])
        seen := if old then st.dst.seen else st.dst.seen ++ [(r.slot, r.row)]
        served := if (decCopyH r.bytes).ovr then st.dst.served else st.dst.served ++ [(tagSrc r.tag, tagTok r.tag, r.slot)]
        landed := st.dst.landed + b2n (!old && st.serves r.slot) } })

/-- Land records at their final destination (R261). -/
def State.landRecs (s : State) (c : Nat) (rs : List LandRec) (again : Bool) : State :=
  ((rs.foldl (fun s r => s.landRec c r again) s).flushAll c).destCheck c

/-- BATCH_WAIT_EXPIRE (R261, R317). -/
def batchWaitOp (c slot : Nat) (s : State) : State :=
  match s.step? c with
  | none => s
  | some st =>
    let due (r : LandRec) : Bool := decide (r.at_ + s.rd 0x50020 ≤ s.el)
    if !(s.ctx c).active then s
    else if st.slotOpen s.glb.chip slot && (st.slotRecs slot).any due then s.requestBatch c slot
    else if (s.heldSlot c st.epoch slot).any (fun h => due h.rec_) then s.requestBatch c (4096 + slot)
    else s

def execBatchWaitExpire (ctx slot : Nat) (s : State) : Host.Outcome State Fault Refusal := .next (if s.alive then batchWaitOp ctx slot s else s)

end Sys2Proof.Machine
end

