-- ==== Sys2Proof/Machine/Colls.lean ====
section
/-! DEFINITION. Collectives on the state (R281 to R306): opening an instance, messages and chunks that arrive,
what each evaluation sends, the closing lap and recomputation, completion, timers and the fault path. -/

namespace Sys2Proof.Machine

/-- The open instance `k` of a step. -/
def Step.inst? (st : Step) (k : Nat) : Option CollInst := st.insts.find? (fun x => decide (x.cinst = k))

def State.inst? (s : State) (c k : Nat) : Option CollInst :=
  match s.step? c with
  | none => none
  | some st => st.inst? k

def State.modInst (s : State) (c k : Nat) (f : CollInst → CollInst) : State :=
  s.modStep c (fun st => { st with insts := st.insts.map (fun x => if x.cinst = k then f x else x) })

/-- Epochs whose messages a member keeps (R287): the running step's and the next one's; DEDUCED: also the first
epoch of a job context that was never enabled here, since a member enables it at its own time (R280). After a
teardown everything is discarded (R398). -/
def State.keepsEpoch (s : State) (c e : Nat) : Bool :=
  let x := s.ctx c
  (x.active || (!x.enable && !x.torn && decide (c ≠ 0))) && (decide (e = x.nextEpoch) || (match x.step with | some st => decide (e = st.epoch) | none => false))

/-- COL_DROP_CNT, COL_ABORT_CNT, COL_RESIDUE_CNT, COL_RECOMP_CNT. -/
def colRecomp : Nat := 0x64010
def colResidue : Nat := 0x64014
def colDrop : Nat := 0x64018
def colAbort : Nat := 0x6401C

/-- A message has no use (R285, R287, R305). -/
def State.dropMsg (s : State) (kind : Nat) : State := s.count (if kind = 5 then colAbort else colDrop) 1

/-- Take the oldest accepted message of kind `k`; messages of a reserved kind are discarded (R285). -/
def State.takeShort (s : State) (k : Nat) : Option (Short × State) :=
  let odd (m : Short) : Bool := decide ((decMsg m.bytes).mkind = 0 ∨ 7 < (decMsg m.bytes).mkind)
  let s := (s.modXch (fun x => { x with shorts := x.shorts.filter (fun m => !(odd m)) })).count colDrop (s.xch.shorts.filter odd).length
  match ltake (fun m => decide ((decMsg m.bytes).mkind = k)) s.xch.shorts with
  | none => none
  | some (m, r) => some (m, s.modXch (fun x => { x with shorts := r }))

/- Sending -/

/-- Send the short messages of an instance that have not been sent (R288, R429). -/
def State.sendShorts (s : State) (c k : Nat) (ms : List (List Nat × Nat × Bytes)) : State :=
  ms.foldl (fun s m =>
    match s.step? c, s.inst? c k with
    | some st, some x =>
      if x.keys.contains m.1 then s
      else
        ((s.sendShort c st.epoch m.2.1 st.bind.mver m.2.2 0).modInst c k (fun x => { x with
          keys := x.keys ++ [m.1]
          sent := x.sent ++ [(m.2.1, m.2.2)] })).openAtom c k
    | _, _ => s) s

/-- Digest of the messages of an instance (R283): its closing lap is an internal collective (R300). -/
def CollInst.digestOf (x : CollInst) (subk : Nat) : Nat :=
  if subk = 1 then intDigest x.word (cinstWord x.cinst 0 1) else x.digest

/-- Messages of the phases that a short reduction has reached (R288), one for each played position. -/
def shortMsgs (g : Grp) (own : Nat) (x : CollInst) (subk ty : Nat) (ps : List (Nat × List Nat)) : List (List Nat × Nat × Bytes) :=
  ps.flatMap (fun p => (shortDests g own p.1).map (fun d =>
    ([subk, x.attempt, p.1, d.pos, d.target], d.chip,
      encMsg ⟨1, p.1, d.coord, 0, x.cinst, x.attempt, subk, x.digestOf subk, true⟩ (elemBytes ty p.2))))

/-- Evaluate a short reduction: messages to send, result (R288). -/
def evalShort (g : Grp) (own : Nat) (x : CollInst) (subk ty : Nat) (reds input : List Nat) :
    List (List Nat × Nat × Bytes) × Option (List Nat) :=
  let o := g.rc g.own
  let r := shortRun g o reds ty (shortGot g o ty input.length x.attempt subk x.shorts) g.axes input
  (shortMsgs g own x subk ty r.1, r.2)

/-- Chunks of a ring segment (R297): key, destination, header, data. -/
def ringChunks (ports : Nat → Nat) (ty : Nat) (o : RingOut) : List (List Nat × Nat × RingH × Bytes) :=
  let dir := 2 * o.h.axis + b2n o.h.minus
  o.segs.flatMap (fun sg =>
    let n := sg.2.2.length
    let cs := cutCounts n (cutParts (n * tyBytes ty) (ports dir))
    (cs.foldl (fun (a : Nat × List (List Nat × Nat × RingH × Bytes)) k =>
      let h := { o.h with eoff := sg.1 + a.1, ecount := k, cw := sg.2.1 }
      let key := [h.subk, h.attempt, h.axis, b2n h.gather, b2n h.minus, h.round, h.coord, h.slice, h.eoff]
      (a.1 + k, if k = 0 then a.2 else a.2 ++ [(key, o.dst, h, elemBytes ty ((sg.2.2.drop a.1).take k))])) (0, [])).2)

/-- Form a chunk of ring data (R260, R297) under `key`: kind 0x7, class 0. `up`: for an upper-level endpoint (R102). -/
def State.formRing (s : State) (c k : Nat) (key : List Nat) (dst : Nat) (up : Bool) (data : Bytes) : State :=
  let w : FormWait := ⟨3, c, 0⟩
  match s.step? c, s.inst? c k with
  | some st, some x =>
    if x.keys.contains key then s
    else if !(s.mayForm w) then s.waitForm w
    else
      let ch : ChunkH := ⟨7, false, 5, false, 0, data.length, 0, 0, 0, 0, 0⟩
      let r := (s.endWait w).takeChunk
        { ctx := c, epoch := st.epoch, kind := 7, cls := 0, left := [], steep := false, dst := if up then 8192 + dst else dst }
      let s := if up then r.2.launchUp c st.epoch dst r.1 1 st.bind.mver ch data
        else r.2.launchChunk c st.epoch dst r.1 1 5 st.bind.mver ch data
      (s.modInst c k (fun x => { x with keys := x.keys ++ [key] })).openAtom c k
  | _, _ => s

/-- Send the ring chunks of an instance that have not been sent (R297). -/
def State.sendRing (s : State) (c k : Nat) (cs : List (List Nat × Nat × RingH × Bytes)) : State :=
  cs.foldl (fun s m => s.formRing c k m.1 m.2.1 false (encRing m.2.2.1 ++ m.2.2.2)) s

/- Ring collectives -/

/-- Positions whose part this chip does on the rings (R278, R294). -/
def Grp.ringPlays (g : Grp) (own : Nat) : List Nat :=
  (List.range g.count).filter (fun i => decide (g.player (g.ofIdx i) = some own))

/-- What a ring stage has reached. -/
structure RingEval where
  outs : List RingOut := []
  /-- pieces of the upper-level stage to send: position, bad, values (R296, R299) -/
  ups : List (Nat × Bool × List Nat) := []
  pieces : Option (List Piece) := none
  miss : List RingIn := []
  deriving DecidableEq, Repr, Inhabited

/-- Narrow pieces of the other pods for a position, once they cover it (R296). -/
def upGot (x : CollInst) (pods : List Nat) (n : Nat) : Option (List (Nat × List Nat) × Bool) :=
  let got (p : Nat) := assemble x.rx (fun r => decide (r.src = p ∧ r.h.axis = 3 ∧ r.h.attempt = x.attempt)) n
  let gs := pods.map (fun p => (p, got p))
  if gs.all (fun q => q.2.isSome) then
    some (gs.filterMap (fun q => q.2.map (fun v => (q.1, v.1.map (fun w => w.getD 0)))),
      gs.any (fun q => match q.2 with | some v => v.2 || v.1.any Option.isNone | none => false))
  else none

/-- The upper-level sum of a piece (R296). -/
def upSum (fmt pod : Nat) (own : List Nat) (others : List (Nat × List Nat)) : List Nat :=
  let mine := (pod, widen fmt own.length (narrow fmt own))
  let all := (sortBy (fun a b => decide (a.1 < b.1)) (mine :: others)).map Prod.snd
  match all with
  | [] => own
  | v :: r => r.foldl (fun a b => (a.zip b).map (fun p => (fadd (BitVec.ofNat 32 p.1) (BitVec.ofNat 32 p.2)).toNat)) v

/-- Evaluate an all-reduce (R293 to R296). -/
def evalReduce (g : Grp) (own : Nat) (x : CollInst) (pod npod : Nat) : RingEval :=
  let l := x.cd.n
  let me := g.idx (g.rc g.own)
  let plays := g.ringPlays own
  let cons := plays.map (fun i => (i, if i = me then (⟨x.input.zipIdx.map (fun p => (p.2, some p.1)), false⟩ : Con) else ⟨[], false⟩))
  let (fin, s1) := reduceRun g x l [] g.axes cons
  if fin.length ≠ plays.length then { outs := s1, miss := reduceMiss g x l [] g.axes cons }
  else
    let useUp := x.cd.up && decide (1 < npod)
    let pods := (List.range npod).filter (fun p => decide (p ≠ pod))
    let vals (c : Con) : List Nat := c.vals.map (fun v => v.2.getD 0)
    let done : List (Nat × List Nat × Bool × Bool) := fin.map (fun f =>
      let v := vals f.2
      if useUp && decide (v ≠ []) then
        match upGot x pods v.length with
        | none => (f.1, v, f.2.bad, false)
        | some (os, b) => (f.1, upSum x.cd.upFmt pod v os, f.2.bad || b, true)
      else (f.1, v, f.2.bad, true))
    let ups := if useUp then fin.map (fun f => (f.1, f.2.bad, vals f.2)) else []
    if done.any (fun d => !d.2.2.2) then { outs := s1, ups := ups }
    else
      let hs := done.map (fun d =>
        (d.1, if inRedo x.redo d.1 then [ownPiece x.cd.oty d.1 (d.2.1.map (toOut (partTy x.cd.ity) x.cd.oty)) d.2.2.1] else []))
      let len (i : Nat) : Nat := (rangeOf g l g.axes (g.ofIdx i)).2
      let (fs, s2) := gatherRun g x 0 len [] g.axes.reverse hs
      { outs := s1 ++ s2, ups := ups
        pieces := (fs.find? (fun f => decide (f.1 = me))).map Prod.snd
        miss := gatherMiss g x 0 len [] g.axes.reverse hs }

/-- Evaluate an all-gather, or its sizes round with `subk` 2 (R295). -/
def evalGather (g : Grp) (own : Nat) (x : CollInst) (subk : Nat) : RingEval :=
  let me := g.idx (g.rc g.own)
  let len (i : Nat) : Nat :=
    if subk = 2 then b2n (g.chip (g.ofIdx i)).isSome
    else ((x.sizes.find? (fun z => decide (z.1 = i))).map Prod.snd).getD 0
  let mine := if subk = 2 then ownPiece 9 me [x.cd.n] false else ownPiece x.cd.oty me x.input false
  let hs := (g.ringPlays own).map (fun i =>
    (i, if inRedo x.redo i then [if i = me then mine else ⟨i, [], 0, false⟩] else []))
  let (fs, s2) := gatherRun g x subk len [] g.axes hs
  { outs := s2
    pieces := (fs.find? (fun f => decide (f.1 = me))).map Prod.snd
    miss := gatherMiss g x subk len [] g.axes hs }

/-- Values of the result in the order in which they are written (R281, R293, R295). -/
def resultOf (g : Grp) (x : CollInst) : List Nat :=
  let at_ (i : Nat) : List Nat := ((x.pieces.find? (fun p => decide (p.idx = i))).map Piece.vals).getD []
  if x.cd.cop = 3 then
    (sortBy (fun a b => decide ((rangeOf g x.cd.n g.axes (g.ofIdx a)).1 < (rangeOf g x.cd.n g.axes (g.ofIdx b)).1))
      (List.range g.count)).flatMap at_
  else g.members.flatMap (fun m => at_ (g.idx (g.ofChip m)))

/-- Pieces of a recomputation replace those held (R303). -/
def mergePieces (old new : List Piece) : List Piece :=
  old.filter (fun p => !(new.any (fun q => decide (q.idx = p.idx)))) ++ new

/- Completion -/

/-- Modes and keys that the guard reads. -/
def State.guardIn (s : State) (c : Nat) : GuardIn := ⟨c, s.page2 c 0x30, bit (s.rd 0x20014) 1, bit (s.rd 0x20014) 0⟩

/-- Ask for a token's row (R136), in parts of 4 KiB. -/
def State.readRow (c : Nat) (st : Step) (s : State) (t : Nat) : State :=
  let a := st.desc.inAddr + t * st.desc.inStride
  let n := rowBytes st.desc.inFmt st.bind.dir.d
  (List.range (rowParts n)).foldl (fun s k =>
    s.memPost (readReq c 1 (a + 4096 * k) (min 4096 (n - 4096 * k)) ⟨.row, rowIdx st.epoch t k⟩)) s

/-- Reread the rows that guard work needs and staging does not hold (R136). -/
def State.reread (s : State) (c : Nat) : State :=
  match s.step? c with
  | none => s
  | some st =>
    let ts := (st.sc.away.filter (fun t => st.guardToks.contains t)).filter (fun t => !(st.sc.want.contains t))
    ts.foldl (State.readRow c st) (s.modStep c (fun st => { st with sc := { st.sc with want := st.sc.want ++ ts } }))

/-- Let the guard work on a step; the block-wide counters follow (R170). -/
def State.guard (s : State) (c : Nat) (f : Step → Step) : State :=
  match s.step? c with
  | none => s
  | some st =>
    let st' := f st
    (((((s.modStep c (fun _ => st')).count 0x20020 (st'.sc.nonfin - st.sc.nonfin)).count 0x20024 (st'.cnt.rchk - st.cnt.rchk)).count
      0x20028 (st'.cnt.tgt - st.cnt.tgt)).count 0x2002C (st'.sc.inf - st.sc.inf)).reread c

/-- Expert choice goes on when the counts are in and nothing awaits a recheck (R164, R197). -/
def State.ecCheck (s : State) (c : Nat) : State :=
  match s.step? c with
  | none => s
  | some st =>
    if st.samp.ec && st.rt.counts && !st.rt.ecTest && !st.cancelled && st.demandKnown then
      s.guard c (fun st => st.ecSettle (s.guardIn c) st.quotas)
    else s

/-- Size of the cache, where the step runs in weights-to-tokens but for the cache's room (R264). -/
def State.w2tWant (s : State) (c : Nat) (st : Step) : Option Nat :=
  let limit := s.rdMode (pageAt c 0x7C) % 65536
  let line (m : Nat) : Bool :=
    let p := entPos (tget 0 st.bind.tab m)
    decide (p.y = s.own.y ∧ p.z = s.own.z)
  if st.desc.flag 5 && (decide (st.desc.kind = 1) || decide (st.desc.kind = 2)) && decide (limit ≠ 0) && st.bind.mem.all line &&
      decide ((st.rt.dmd.map Prod.snd).foldl (· + ·) 0 ≤ limit * nReal st.bind.table) then some (s.page c 0x78 * 65536)
  else none

/-- The count exchange is complete (R225, R264, R290, R291). -/
def State.countsCheck (s : State) (c : Nat) : State :=
  match s.step? c with
  | none => s
  | some st =>
    if st.rt.counts || !st.rt.hdr || !(st.samp.ec || st.doneInsts.contains 0x101) then s
    else if st.depthBad then s.ctxFault c 0x0C
    else (s.modStep c (fun st => { st with rt := { st.rt with counts := true }, ext := { st.ext with want := s.w2tWant c st } })).ecCheck c

/-- Close an instance that is complete, and what follows from it (R269, R284, R301). -/
def State.closeInst (s : State) (c k : Nat) : State :=
  let s := s.modStep c (fun st => { st with
    insts := st.insts.filter (fun x => decide (x.cinst ≠ k))
    doneInsts := st.doneInsts ++ [k] })
  let s := if k < 256 then s.chainDone c k
    else if k = 0x102 then s.destCheck c
    else s.countsCheck c
  s.atomCheck c

/-- Is a memory request of `c` for `why` waiting or outstanding? -/
def State.whyOut (s : State) (c : Nat) (why : MemWhy) : Bool :=
  s.mem.wait.any (fun r => decide (r.ctx = c ∧ r.why = why)) ||
  s.mem.chs.any (fun ch => ch.out.any (fun o => decide (o.req.ctx = c ∧ o.req.why = why)))

/-- Write a result to out_addr (R301); nothing is written for an empty one. -/
def State.writeResult (s : State) (c : Nat) (x : CollInst) (vals : List Nat) : State :=
  let bs := elemBytes x.cd.oty vals
  let s := s.modInst c x.cinst (fun x => { x with stage := 3, result := vals })
  State.memWriteAny c 0 ⟨.ringOut, x.cinst⟩ (ceilDiv bs.length 4032) x.cd.outAddr bs s

/-- Mark the step of an instance (R432). -/
def State.redo (s : State) (c : Nat) : State := s.modStep c Step.redone

/-- Elements of this member's own input that the first phase draws before anything arrives (R294). -/
def firstReads (g : Grp) (x : CollInst) : Nat :=
  let p := g.rc g.own
  match g.axes with
  | [] => x.cd.n
  | a :: _ =>
    let n := g.ext.at_ a
    let c := p.at_ a
    let alone (j : Nat) (minus : Bool) : Bool :=
      let m := (if minus then j + n - c - 1 else c + n - j - 1) % n + 1
      (List.range (m - 1)).all (fun k => g.emptyAt a (p.set a (if minus then (j + 2 * n - (k + 1)) % n else (j + k + 1) % n)))
    ((List.range n).flatMap (fun j => [false, true].map (fun mi => if alone j mi then (segElems g x.cd.n x.redo [] a p j mi).length else 0))).foldl
      (· + ·) 0

/-- Input drawn by an all-reduce as it begins, or begins again (R298, R303). -/
def State.drawFirst (s : State) (c : Nat) (g : Grp) (x : CollInst) : State :=
  if x.cd.cop = 3 then s.chargeMem (s.allocPitch c) c 0 (ceilDiv (firstReads g x * tyBytes x.cd.ity) 64) else s

/-- Input that a chunk of the first reduce phase is combined with: it is read through the memory channels of the pitch at
whose port the chunk arrived (R298). -/
def State.drawInput (s : State) (c : Nat) (g : Grp) (x : CollInst) (h : RingH) (i pitch : Nat) : State :=
  if x.cd.cop = 3 ∧ h.gather = false ∧ g.axes.head? = some h.axis ∧ i = g.idx (g.rc g.own) then
    s.chargeMem pitch c 0 (ceilDiv (h.ecount * tyBytes x.cd.ity) 64)
  else s

/-- The lap failed (R303): the pieces are recomputed, or the attempts are spent. A piece that failed its cw is a
detection (R432). -/
def State.lapFailed (s : State) (c : Nat) (x : CollInst) (g : Grp) (w : List Nat) : State :=
  if s.rdF 0x64000 0 4 ≤ x.attempt then s.collFault c x 3 0x14
  else
    let all := decide (w.getD 2 0 = 0)
    let lo := if all then 0 else w.getD 3 0
    let hi := if all then g.count - 1 else w.getD 4 0
    ((((s.redo c).count colRecomp (hi + 1 - lo)).detects (x.pieces.filter (fun q => !q.bad && pieceBad x.cd.oty q)).length).modInst c x.cinst (fun x => { x with
      attempt := x.attempt + 1
      stage := 1
      redo := if all then none else some (lo, hi)
      disc := false })).drawFirst c g { x with redo := if all then none else some (lo, hi) }

/- The transpose and the route counts -/

/-- Messages of the transpose that this source sends (R291): to each owner its experts' counts. -/
def transposeMsgs (st : Step) (x : CollInst) : List (List Nat × Nat × Bytes) :=
  (List.range st.owners).flatMap (fun o =>
    let vs := (st.ownedBy o).map (fun e => tget 0 st.rt.dmd e)
    let parts := partsOf 16 (vs.length + 1) vs
    parts.zipIdx.map (fun p =>
      ([2, o, p.2], st.bind.mem.getD o 0,
        encMsg ⟨2, 0, 0, p.2, x.cinst, 0, 0, x.digest, decide (p.2 + 1 = parts.length)⟩ (elemBytes 9 p.1))))

/-- Counts that source `m` sent to this owner, once all of its flits are there. -/
def ownerGot (x : CollInst) (kind m n per : Nat) : Option (List Nat) :=
  let fl := (List.range (ceilDiv n per)).map (fun f =>
    x.shorts.find? (fun q => decide (q.src = m ∧ q.h.mkind = kind ∧ q.h.fidx = f)))
  if fl.all Option.isSome then some ((fl.filterMap id).flatMap (fun q => readElems 9 (q.data.length / 4) q.data)) else none

/-- What the owner returns (R291): messages, and whether a sum is out of range. -/
def ownerMsgs (st : Step) (x : CollInst) : List (List Nat × Nat × Bytes) × Bool :=
  let mine := st.ownedBy st.bind.idx
  let got := st.bind.mem.map (fun m => ownerGot x 2 m mine.length 16)
  if mine = [] ∨ got.any Option.isNone = true then ([], false)
  else
    let vs := got.filterMap id
    let at_ (v : List Nat) (i : Nat) : Nat := v.getD i 0
    let pair (s i : Nat) : Nat × Nat :=
      ((vs.map (fun v => at_ v i)).foldl (· + ·) 0, ((vs.take s).map (fun v => at_ v i + 1)).foldl (· + ·) 0)
    let big := (List.range mine.length).any (fun i => (List.range st.bind.mem.length).any (fun s =>
      decide (2 ^ 32 ≤ (pair s i).1) || decide (2 ^ 32 ≤ (pair s i).2)))
    (st.bind.mem.zipIdx.flatMap (fun m =>
      let ps := (List.range mine.length).flatMap (fun i => [(pair m.2 i).1, (pair m.2 i).2])
      let parts := partsOf 16 (ps.length + 1) ps
      parts.zipIdx.map (fun p =>
        ([3, m.1, p.2], m.1,
          encMsg ⟨3, 0, 0, p.2, x.cinst, 0, 0, x.digest, decide (p.2 + 1 = parts.length)⟩ (elemBytes 9 p.1)))), big)

/-- Dtot and Wpre of an owner's experts, once returned (R291). -/
def returned (st : Step) (x : CollInst) (o : Nat) : Option (List (Nat × Nat × Nat)) :=
  let es := st.ownedBy o
  (ownerGot x 3 (st.bind.mem.getD o 0) (2 * es.length) 16).map (fun v =>
    es.zipIdx.map (fun p => (p.1, v.getD (2 * p.2) 0, v.getD (2 * p.2 + 1) 0)))

/-- Messages of the route-count phases reached (R292). -/
def routeMsgs (g : Grp) (x : CollInst) (vs : List (Nat × Nat × List Nat)) : List (List Nat × Nat × Bytes) :=
  let o := g.rc g.own
  vs.flatMap (fun v =>
    match g.chip (o.set v.1 v.2.1) with
    | none => []
    | some d =>
      let parts := partsOf 16 (v.2.2.length + 1) v.2.2
      parts.zipIdx.map (fun p =>
        ([4, v.1, v.2.1, p.2], d,
          encMsg ⟨4, v.1, o.at_ v.1, p.2, x.cinst, 0, 0, x.digest, decide (p.2 + 1 = parts.length)⟩ (elemBytes 9 p.1))))

/- Evaluation -/

/-- Working ports of a direction (R297). -/
def State.portCount (s : State) (d : Nat) : Nat := (s.workPorts d).length

/-- Cut of an upper-level piece: 16,384 elements a chunk; a bad piece is marked on all of it (R299). -/
def upChunks (x : CollInst) (i : Nat) (bad : Bool) (vals : List Nat) : List (List Nat × RingH × Bytes) :=
  (partsOf 16384 (vals.length + 1) vals).zipIdx.map (fun p =>
    let h := { ringBase x 0 with axis := 3, round := 1, slice := i % 16, eoff := 16384 * p.2, ecount := p.1.length, bad := bad }
    ([9, x.attempt, i, p.2], h, narrow x.cd.upFmt p.1))

/-- Send pieces to the other pods (R296, R102). -/
def State.sendUps (s : State) (c k : Nat) (pods : List Nat) (ups : List (Nat × Bool × List Nat)) : State :=
  ups.foldl (fun s u =>
    match s.inst? c k with
    | none => s
    | some x =>
      (upChunks x u.1 u.2.1 u.2.2).foldl (fun s m => pods.foldl (fun s d =>
        s.formRing c k (d :: m.1) d true (encRing m.2.1 ++ m.2.2)) s) s) s

/-- Evaluate instance `k` of context `c` until it waits (R288 to R303). -/
def State.advance (c k : Nat) : Nat → State → State
  | 0, s => s
  | fuel + 1, s =>
    match s.step? c, s.inst? c k with
    | some st, some x =>
      let g := mkGrp x.word s.torus s.own st.bind.tab
      let own := s.glb.chip
      let pod := s.rdF 0x64008 0 8
      let npod := s.rdF 0x64008 8 8
      let pods := (List.range npod).filter (fun p => decide (p ≠ pod))
      let chunks (ty : Nat) (e : RingEval) := e.outs.flatMap (ringChunks s.portCount ty)
      let split (os : List RingOut) (gat : Bool) := os.filter (fun o => decide (o.h.gather = gat))
      if st.cancelled || st.ended then s
      else if k = 0x101 then
        let om := ownerMsgs st x
        if om.2 then s.collFault c x 5 0x0C
        else
          let s := s.sendShorts c k (transposeMsgs st x ++ om.1)
          let rs := (List.range st.owners).map (returned st x)
          if rs.all Option.isSome && (decide (st.ownedBy st.bind.idx = []) || decide (om.1 ≠ [])) then
            let ps := (rs.filterMap id).flatten
            (s.modStep c (fun st => { st with rt := { st.rt with
              dtot := ps.foldl (fun d p => tput 0 p.1 p.2.1 d) []
              wpre := ps.foldl (fun d p => tput 0 p.1 p.2.2 d) [] } })).closeInst c k
          else s
      else if k = 0x102 then
        let r := st.routeRun g x.shorts
        if r.big then s.collFault c x 5 0x0C
        else
          let s := (s.sendShorts c k (routeMsgs g x r.send)).modStep c (fun st => { st with dst := { st.dst with
            layX := r.layX
            layY := r.layY } })
          match r.total with
          | none => s
          | some a => (s.modStep c (fun st => { st with dst := { st.dst with known := true, total := a } })).closeInst c k
      else if x.stage = 2 then
        let ws := lapWords x.cd.oty x.pieces
        let r := evalShort g own x 1 9 lapReds ws
        let s := s.sendShorts c k r.1
        match r.2 with
        | none => s
        | some w =>
          if w.getD 0 0 = w.getD 1 0 ∧ w.getD 2 0 = 0 then State.advance c k fuel (s.writeResult c x (resultOf g x))
          else State.advance c k fuel (s.lapFailed c x g w)
      else if x.stage = 3 then
        if s.whyOut c ⟨.ringOut, k⟩ then s else s.closeInst c k
      else if k = 0x100 then
        let r := evalShort g own x 0 9 x.reds x.input
        let s := s.sendShorts c k r.1
        match r.2 with
        | none => s
        | some w =>
          if w.getD 1 0 ≠ w.getD 2 0 then s.ctxFault c 0x0B
          else (s.modStep c (fun st => { st with rt := { st.rt with hdr := true, n := st.bind.mem.length, t := w.getD 0 0 } })).closeInst c k
      else if x.cd.cop ≤ 2 then
        let ty := if x.cd.cop = 1 then 9 else partTy x.cd.ity
        let r := evalShort g own x 0 ty x.reds x.input
        let s := s.sendShorts c k r.1
        match r.2 with
        | none => s
        | some w =>
          if x.cd.cop = 1 then s.closeInst c k
          else State.advance c k fuel (s.writeResult c x (w.map (toOut (partTy x.cd.ity) x.cd.oty)))
      else if x.stage = 0 then
        let e := evalGather g own x 2
        let s := s.sendRing c k (chunks 9 e)
        match e.pieces with
        | none => s
        | some ps =>
          let sizes := ps.map (fun p => (p.idx, p.vals.headD 0))
          if x.cd.outLen < (sizes.map Prod.snd).foldl (· + ·) 0 * tyBytes x.cd.oty then s.collFault c x 4 0x15
          else State.advance c k fuel (s.modInst c k (fun x => { x with sizes := sizes, stage := 1 }))
      else
        let e := if x.cd.cop = 3 then evalReduce g own x pod npod else evalGather g own x 0
        let s := s.sendRing c k ((split e.outs false).flatMap (ringChunks s.portCount (partTy x.cd.ity)))
        let s := s.sendUps c k pods e.ups
        let s := s.sendRing c k ((split e.outs true).flatMap (ringChunks s.portCount x.cd.oty))
        match e.pieces with
        | none => s
        | some ps => State.advance c k fuel (s.modInst c k (fun x => { x with pieces := mergePieces x.pieces ps, stage := 2 }))
    | _, _ => s

/-- Evaluations that one arrival can need: every stage of every attempt. -/
def advFuel : Nat := 80

def State.go (s : State) (c k : Nat) : State := State.advance c k advFuel s

/- Arrivals -/

/-- Messages already held under the same source, cinst, phase and position (R429). -/
def CollInst.holds (x : CollInst) (src : Nat) (h : MsgH) : Bool :=
  x.shorts.any (fun m => decide (m.src = src ∧ m.h.mkind = h.mkind ∧ m.h.axis = h.axis ∧ m.h.coord = h.coord ∧ m.h.fidx = h.fidx ∧
    m.h.attempt = h.attempt ∧ m.h.subk = h.subk))

/-- Something of an open instance has arrived (R304, R428, R429). -/
def State.instHeard (s : State) (c k : Nat) : State := s.modInst c k (fun x => { x with last := s.el, quiet := s.el })

/-- An open instance consumes a message (R283, R287, R289, R304, R305, R429). One whose lap or last combine has passed takes
nothing more: it completes. -/
def State.consumeShort (s : State) (c k : Nat) (m : Short) (fails : Nat) : State :=
  match s.inst? c k with
  | none => s
  | some x =>
    let h := decMsg m.bytes
    if 3 ≤ x.stage then s.dropMsg h.mkind
    else if h.mkind = 5 then s.collFault c x 6 0x17
    else if h.digest ≠ x.digestOf h.subk then s.collFault c x 2 0x13
    else if h.attempt < x.attempt || x.holds m.src h then (s.instHeard c k).dropMsg h.mkind
    else
      let s := ((s.instHeard c k).count colResidue fails).detects fails
      if 3 ≤ fails then s.collFault c x 3 0x14
      else
        (((s.modInst c k (fun x => { x with shorts := x.shorts ++ [⟨m.src, h, m.bytes.drop 16⟩] })).openAtom c k).progress c).go c k

/-- A message for an instance: consumed, kept or discarded (R287, R305). -/
def State.instMsg (s : State) (m : Short) (fails : Nat) : State :=
  let h := decMsg m.bytes
  if !(s.keepsEpoch m.ctx m.epoch) then s.dropMsg h.mkind
  else
    let running := match s.step? m.ctx with | some st => decide (st.epoch = m.epoch) | none => false
    match s.step? m.ctx with
    | some st =>
      if running && st.doneInsts.contains h.inst then s.dropMsg h.mkind
      else if running && (st.inst? h.inst).isSome then s.consumeShort m.ctx h.inst m fails
      else { s with col := { s.col with kept := s.col.kept ++ [(m, fails)] } }
    | none => { s with col := { s.col with kept := s.col.kept ++ [(m, fails)] } }

/-- Take a message of kind `k` for an instance. -/
def instMsgOp (k fails : Nat) (s : State) : State :=
  if !s.on then s
  else match s.takeShort k with
  | none => s
  | some (m, s) => s.instMsg m fails

/-- The same for a message of counts: the command says nothing of its additions, and how many fail their check (R299) is a
free value (log entry 188). -/
def instSumOp (k : Nat) (s : State) : State := instMsgOp k (Config.sumFails s.free) { s with free := s.free + 1 }

/-- PHASE_PARTIAL (R288). -/
def execPhasePartial (fails : Nat) (s : State) : Host.Outcome State Fault Refusal := .next (instMsgOp 1 fails s)

/-- COUNTS_TO_OWNER (R291, R299). -/
def execCountsToOwner (s : State) : Host.Outcome State Fault Refusal := .next (instSumOp 2 s)

/-- COUNTS_FROM_OWNER (R291). -/
def execCountsFromOwner (s : State) : Host.Outcome State Fault Refusal := .next (instMsgOp 3 0 s)

/-- ROUTE_COUNTS (R292, R299). -/
def execRouteCounts (s : State) : Host.Outcome State Fault Refusal := .next (instSumOp 4 s)

/-- COLLECTIVE_ABORT (R287, R305). -/
def execCollectiveAbort (s : State) : Host.Outcome State Fault Refusal := .next (instMsgOp 5 0 s)

/-- The played position for which a ring chunk comes (R294, R295): the first whose neighbour on the ring the
sender plays and that has no such chunk. -/
def ringPos (g : Grp) (own src : Nat) (x : CollInst) (h : RingH) : Option Nat :=
  (g.ringPlays own).find? (fun i =>
    let p := g.ofIdx i
    decide (stepCoord (g.ext.at_ h.axis) (p.at_ h.axis) (!h.minus) = h.coord) &&
    decide (g.player (p.set h.axis h.coord) = some src) &&
    !(x.rx.any (fun r => decide (r.pos = i ∧ { r.h with bad := h.bad, cw := h.cw } = h))))

/-- An open instance consumes a ring chunk (R294 to R300, R304). -/
def State.consumeRing (s : State) (c k : Nat) (l : Landed) (fails : Nat) : State :=
  match s.step? c, s.inst? c k with
  | some st, some x =>
    let h := decRing (l.data.take 32)
    let g := mkGrp x.word s.torus s.own st.bind.tab
    let bs := l.data.drop 32
    let ty := if h.subk = 2 then 9 else if h.gather then x.cd.oty else partTy x.cd.ity
    let pos := if h.axis = 3 then (if x.rx.any (fun r => decide (r.src = l.src ∧ r.h = h)) then none else some 0)
      else ringPos g s.glb.chip l.src x h
    if 3 ≤ x.stage then s.count colDrop 1
    else if h.digest ≠ x.digest then s.collFault c x 2 0x13
    else if h.attempt < x.attempt then (s.instHeard c k).count colDrop 1
    else match pos with
    | none => (s.instHeard c k).count colDrop 1
    | some i =>
      let vals := if h.axis = 3 then widen x.cd.upFmt h.ecount bs else readElems ty h.ecount bs
      let e : RingIn := ⟨l.src, i, h, some vals, h.bad || decide (2 ≤ fails)⟩
      let s := (s.instHeard c k).drawInput c g x h i l.pitch
      (((((s.count colResidue fails).detects fails).modInst c k (fun x => { x with rx := x.rx ++ [e] })).openAtom c k).progress c).go c k
  | _, _ => s

/-- RING_DATA_CHUNK (R287, R294, R297). -/
def ringChunkOp (fails : Nat) (s : State) : State :=
  if !s.on then s
  else match ltake (fun l : Landed => decide (l.ch.ckind = 7)) s.xch.inbox with
  | none => s
  | some (l, r) =>
    let s := s.modXch (fun x => { x with inbox := r })
    let h := decRing (l.data.take 32)
    if !(s.keepsEpoch l.ctx l.epoch) then s.count colDrop 1
    else
      match s.step? l.ctx with
      | some st =>
        if st.epoch = l.epoch ∧ st.doneInsts.contains h.inst = true then s.count colDrop 1
        else if st.epoch = l.epoch ∧ (st.inst? h.inst).isSome = true then s.consumeRing l.ctx h.inst l fails
        else { s with col := { s.col with keptRing := s.col.keptRing ++ [(l, fails)] } }
      | none => { s with col := { s.col with keptRing := s.col.keptRing ++ [(l, fails)] } }

def execRingDataChunk (fails : Nat) (s : State) : Host.Outcome State Fault Refusal := .next (ringChunkOp fails s)

/- Opening -/

/-- A kept message is consumed, or discarded where its instance is complete by now (R287). -/
def State.consumeKept (s : State) (c k : Nat) (m : Short × Nat) : State :=
  if (s.inst? c k).isSome then s.consumeShort c k m.1 m.2
  else if (s.step? c).isSome then s.dropMsg (decMsg m.1.bytes).mkind
  else s

def State.consumeKeptRing (s : State) (c k : Nat) (l : Landed × Nat) : State :=
  if (s.inst? c k).isSome then s.consumeRing c k l.1 l.2
  else if (s.step? c).isSome then s.count colDrop 1
  else s

/-- Issue an instance (R287): it takes the messages kept for it, an abort among them first. -/
def State.openInst (s : State) (c : Nat) (x : CollInst) : State :=
  match s.step? c with
  | none => s
  | some st =>
    let mineS (m : Short × Nat) : Bool := decide (m.1.ctx = c ∧ m.1.epoch = st.epoch ∧ (decMsg m.1.bytes).inst = x.cinst)
    let mineR (l : Landed × Nat) : Bool := decide (l.1.ctx = c ∧ l.1.epoch = st.epoch ∧ (decRing (l.1.data.take 32)).inst = x.cinst)
    let ms := s.col.kept.filter mineS
    let ls := s.col.keptRing.filter mineR
    let s : State := { s with col := ⟨s.col.kept.filter (fun m => !(mineS m)), s.col.keptRing.filter (fun l => !(mineR l))⟩ }
    let s := s.modStep c (fun st => { st with insts := st.insts ++ [{ x with last := s.el, quiet := s.el }] })
    if ms.any (fun m => decide ((decMsg m.1.bytes).mkind = 5)) then s.collFault c x 6 0x17
    else
      let s := (s.drawFirst c (mkGrp x.word s.torus s.own st.bind.tab) x).go c x.cinst
      let s := ms.foldl (fun s m => s.consumeKept c x.cinst m) s
      (ls.foldl (fun s l => s.consumeKeptRing c x.cinst l) s).atomCheck c

/-- Issue a collective of a chain (R281, R284): with cdflags bit 0 it joins the atom of the collective issued before it. -/
def State.openColl (s : State) (c : Nat) (x : CollInst) : State :=
  let join (st : Step) : Table Nat := match st.prevColl with
    | some p => if bit x.cd.flags 0 then tput x.cinst x.cinst (st.atomOf p) st.atoms else st.atoms
    | none => st.atoms
  (s.modStep c (fun st => { st with atoms := join st, prevColl := some x.cinst })).openInst c x

/-- An internal instance of a step (R283, R290 to R292). -/
def intInst (st : Step) (k : Nat) : CollInst :=
  { cinst := k, cd := ⟨2, 0, 9, 9, 0, 0, 0, 0, 0⟩, word := st.bind.word, digest := intDigest st.bind.word k, mver := st.bind.mver }

/-- The count exchange opens once every take-part token is counted (R224, R290). -/
def State.countStart (s : State) (c : Nat) : State :=
  match s.step? c with
  | none => s
  | some st =>
    let opened := (st.inst? 0x100).isSome || st.doneInsts.contains 0x100
    if st.cancelled || !st.launched || opened || !(decide (st.desc.kind = 1) || decide (st.desc.kind = 2)) || !st.demandKnown then s
    else
      let s := s.modStep c (fun st => { st with
        rt := { st.rt with dmd := st.demandOf, own := st.takeCount }
        atoms := tput 0x101 0x101 0x100 st.atoms })
      let s := s.openInst c { intInst st 0x100 with input := st.headerWords, reds := [1, 3, 2] }
      if st.samp.ec then s else s.openInst c (intInst st 0x101)

/- Timers -/

/-- COLLECTIVE_TIMEOUT (R304). -/
def collTimeoutOp (c k : Nat) (s : State) : State :=
  match s.inst? c k with
  | none => s
  | some x => if s.on && decide (x.stage < 3) && decide (x.last + s.rd 0x64004 ≤ s.el) then s.collFault c x 1 0x16 else s

def execCollectiveTimeout (ctx inst : Nat) (s : State) : Host.Outcome State Fault Refusal := .next (collTimeoutOp ctx inst s)

/-- An instance whose present stage is a short one (R429). -/
def CollInst.short (x : CollInst) : Bool := decide (256 ≤ x.cinst) || decide (x.cd.cop ≤ 2) || decide (x.stage = 2)

/-- SHORT_QUIET_EXPIRE (R428, R429). -/
def shortQuietOp (c k : Nat) (s : State) : State :=
  match s.step? c, s.inst? c k with
  | some st, some x =>
    if !s.on || decide (3 ≤ x.stage) || decide (s.el < x.quiet + s.rd 0xC0018) then s
    else if x.short then
      let s := if x.sent = [] then s else s.redo c
      (x.sent.foldl (fun s m => s.sendShort c st.epoch m.1 st.bind.mver m.2 0) s).modInst c k (fun x => { x with quiet := s.el })
    else if x.disc then
      let g := mkGrp x.word s.torus s.own st.bind.tab
      let e := if x.stage = 0 then evalGather g s.glb.chip x 2
        else if x.cd.cop = 3 then evalReduce g s.glb.chip x (s.rdF 0x64008 0 8) (s.rdF 0x64008 8 8)
        else evalGather g s.glb.chip x 0
      (s.modInst c k (fun x => { x with rx := x.rx ++ e.miss, quiet := s.el })).go c k
    else s
  | _, _ => s

def execShortQuietExpire (ctx inst : Nat) (s : State) : Host.Outcome State Fault Refusal := .next (shortQuietOp ctx inst s)

end Sys2Proof.Machine
end

