-- ==== Sys2Proof/Machine/Grads.lean ====
section
/-! DEFINITION. Router updates as functions of a step and of host memory (R360 to R365): what an accumulation reads, its
gradient tiles, the update rules over a layer, the images rewritten. -/

namespace Sys2Proof.Machine

/-- 32-bit words of an array in host memory. -/
def hvWords (hv : HostView) (a n : Nat) : List W32 :=
  let b := hv1 hv a (4 * n)
  (List.range n).map (fun i => BitVec.ofNat 32 (fld b (4 * i) 4))

def wordBytes (ws : List W32) : Bytes := ws.flatMap (fun w => le 4 w.toNat)

/- Accumulation -/

/-- Token records of a ledger (R241, R360). -/
def readLedger (hv : HostView) (a : Nat) : List (Nat × Bool × TokR) :=
  let h := parseLed (hv1 hv a 64)
  (List.range h.nRec).map (fun i => parseLedgerRec (hv1 hv (a + 64 + 128 * i) 128))

/-- Score gradients of a token in a keep area's gradient section (R342), for `n` ranks. -/
def readGs (hv : HostView) (a t n : Nat) : List W32 := hvWords hv (a + 64 + 64 * t + 32) n

/-- The learning record bound, zeros where the model has none. -/
def Step.learn (st : Step) : LearnRec := st.bind.learn.getD (parseLearn [])

/-- The z-loss term is added (R361). -/
def Step.zOn (st : Step) : Bool := bit st.learn.lflags 1

/-- Score gradients of every token recorded, z-loss included (R361). -/
def Step.readGrads (st : Step) (hv : HostView) (ls : List (Nat × Bool × TokR)) : Table (List W32) :=
  ls.foldl (fun g l =>
    tput [] l.1 (gradOf st.samp.w1 st.zOn st.learn.zc (l.2.2.picks.map Pick.score) (readGs hv st.desc.gradAddr l.1 l.2.2.picks.length)) g) []

/-- What the special functions of the z-loss count (R221): the soft maximum and the z-loss term of R214. -/
def Step.zCount (st : Step) (ls : List (Nat × Bool × TokR)) : SfnCnt :=
  if st.zOn && !(feq st.learn.zc 0#32) then
    ls.foldl (fun a l =>
      let xs := l.2.2.picks.map Pick.score
      sfnAdd a (sfnCount xs (softmax st.samp.w1 xs ++ [zLoss st.samp.w1 xs]))) ⟨0, 0⟩
  else ⟨0, 0⟩

/-- A pair of a gradient tile. -/
structure GradPair where
  t : Nat
  e : Nat
  g : W32
  deriving DecidableEq, Repr, Inhabited

/-- Pairs of a column group in ascending token, then rank (R362). -/
def Step.gradPairs (st : Step) (cg : Nat) : List GradPair :=
  st.rt.ledger.flatMap (fun l => l.2.2.picks.zipIdx.filterMap (fun p =>
    if p.1.e / 64 = cg then some ⟨l.1, p.1.e, (tget [] st.por.gs l.1).getD p.2 0#32⟩ else none))

/-- Pairs of tile `k` of a column group. -/
def Step.gradBatch (st : Step) (cg k : Nat) : List GradPair := ((st.gradPairs cg).drop (4096 * k)).take 4096

/-- Spans of 512 hidden elements (R362). -/
def LDir.spans (l : LDir) : Nat := ceilDiv l.d 512

/-- Address of an array of the layer's state area (R350). -/
def Step.stateAt (st : Step) (i : Nat) : Nat := st.learn.stateAddr + stateOff st.bind.dir.nExp st.bind.dir.d st.learn.rule i

/-- One column of a gradient tile (R362): the accumulators of a span after the column's pairs. -/
def gradCol (x : Nat → List FVal) (ps : List GradPair) (acc : List W32) : List W32 :=
  ps.foldl (fun acc p => (acc.zip (x p.t)).map (fun q => ffmaV p.g q.2 q.1)) acc

/-- What a gradient tile stores (R362): address and bytes by column. -/
def Step.gradTile (st : Step) (hv : HostView) (sp cg k : Nat) : List (Nat × Bytes) :=
  let l := st.bind.dir
  let n := min 512 (l.d - 512 * sp)
  let ps := st.gradBatch cg k
  let x (t : Nat) : List FVal := ((landedVals st.desc.inFmt l.d ((st.row t).getD [])).drop (512 * sp)).take n
  (rangeFrom (64 * cg) (min l.nExp (64 * cg + 64))).map (fun e =>
    let a := st.stateAt 6 + 4 * (e * l.d + 512 * sp)
    (a, wordBytes (gradCol x (ps.filter (fun p => decide (p.e = e))) (hvWords hv a n))))

/-- Every gradient tile has stored its accumulators. -/
def Step.gradsDone (st : Step) : Bool :=
  (List.range (ceilDiv st.bind.dir.nExp 64)).all (fun cg =>
    (List.range st.bind.dir.spans).all (fun sp => decide (st.gradBatch cg (tget 0 st.sc.done (tileKey sp cg)) = [])))

/- Update -/

/-- Arrays of a layer's state (R350) and what an apply leaves of them. -/
structure UpdArr where
  r : List W32
  c : List W32
  wm : List W32
  m : List W32
  nonfin : Nat
  cnt : SfnCnt
  deriving DecidableEq, Repr, Inhabited

/-- The update rule over every element (R363, R364); `t` is the count after the step. -/
def applyRule (l : LearnRec) (w1 : Bool) (t e d : Nat) (g : List W32) (a : UpdArr) : UpdArr :=
  let two := decide (l.rule = 2)
  let r2 := if two then rule2Stats l w1 t e d (fun k i => g.getD (k * d + i) 0#32) (a.r.getD · 0#32) (a.c.getD · 0#32)
    else ((a.r, a.c), ([], []))
  let u (k : Nat) (x : W32) : W32 := if two then fmul (fmul x (r2.2.1.getD (k % d) 0#32)) (r2.2.2.getD (k / d) 0#32) else 0#32
  let new := ((g.zip a.wm).zip a.m).zipIdx.map (fun p =>
    let o := updElem l l.rule p.1.1.1 p.1.1.2 p.1.2 (u p.2 p.1.1.1)
    if isFin32 p.1.1.1 && isFin32 o.1 && isFin32 o.2 then (o, 0) else ((p.1.1.2, p.1.2), 1))
  let half : W32 := 0xBF000000#32
  let c2 := fsub one32 (powM w1 l.b2 (ofNat32 t))
  let rbar := meanW r2.1.1
  let cnt := if two then
      sfnAdd (powCount w1 (ofNat32 t) l.b2) ((r2.1.1 ++ r2.1.2.map (fun x => fdiv (fdiv x rbar) c2)).foldl
        (fun a x => sfnAdd a (powCount w1 half x)) ⟨0, 0⟩)
    else ⟨0, 0⟩
  { r := r2.1.1
    c := r2.1.2
    wm := new.map (fun p => p.1.1)
    m := new.map (fun p => p.1.2)
    nonfin := (new.map Prod.snd).foldl (· + ·) 0
    cnt := cnt }

/-- BF16 codes of block `b` of column `e` of the master weights (R365). -/
def bfBlock (wm : List W32) (d e b : Nat) : List Nat :=
  (List.range 32).map (fun i => roundBf16 (dec32 (wm.getD (e * d + 32 * b + i) 0#32)))

/-- A block of an image converted from the shadow (R132, R134, R365). -/
def imageBlock (lfmt : Nat) (bf : List Nat) : QBlock :=
  if lfmt ≠ 1 ∧ bf.any (fun q => !(fvFinite (decBf16 q))) = true then
    let b := Config.nonfiniteBlock lfmt bf
    ⟨b.1, b.2, [], false⟩
  else scoreBlock lfmt bf

/-- A column of a stored line, kept as it stands (R365). -/
def keptBlock (lfmt : Nat) (line : Bytes) (k : Nat) : QBlock := let b := lineBlock lfmt line k; ⟨b.1, b.2, [], false⟩

/-- An image of the layer rewritten from the master weights (R148, R365): the columns past the experts stay. -/
def newImage (l : LDir) (lfmt : Nat) (old : Bytes) (wm : List W32) : Bytes :=
  (List.range (ceilDiv l.cols 64)).flatMap (fun cg =>
    (List.range l.d32).flatMap (fun b =>
      let line := sub old (lineOff lfmt l.d32 (64 * cg) b) (lineBytes lfmt)
      mkLine lfmt ((List.range 64).map (fun k =>
        let j := 64 * cg + k
        if j < l.nExp then imageBlock lfmt (bfBlock wm l.d j b) else keptBlock lfmt line k))))

end Sys2Proof.Machine
end

