-- ==== Sys2Proof/Machine/Loss.lean ====
section
/-! DEFINITION. Declaring a chip lost (R433 to R436): the lost set, the notices, what becomes of running
steps and of chunks bound for the lost chip. -/

namespace Sys2Proof.Machine

/-- Payload of a loss notice (R434). -/
def lossPayload (lost decl ver tick : Nat) : Bytes :=
  let b := le 2 1 ++ le 2 (lost % 4096) ++ le 2 (decl % 4096) ++ le 2 ver ++ le 8 tick
  withCrc b ++ zeros 12

/-- Forward a loss notice on one working port of each torus direction but the arrival's (R433). -/
def State.spreadNotice (s : State) (pay : Bytes) (from_ : Option Nat) : State :=
  ([0, 1, 2, 3, 4, 5].filter (fun d => decide (some d ≠ from_))).foldl
    (fun s d => match s.workPorts d with
      | [] => s
      | n :: _ => s.sendMembership n pay) s

/-- Chunks and messages bound for a lost chip are dropped wherever they wait (R247, R436), steeped copies among them counted
(R320). What goes to or comes from the upper level names endpoints, not chips (R102). An entry of confirmed copies goes only
as they are resent (R260). -/
def State.dropFor (s : State) (l : Nat) : State :=
  let keep (q : QFlit) : Bool := decide (q.h.ftype = 3) || decide (q.h.dst ≠ l)
  let clean (n : Nat) (p : Port) : Port := if isUplink s n then p else { p with queue := p.queue.map (fun q => q.filter keep) }
  let ports := s.links.ports.zipIdx.map (fun p => clean p.2 p.1)
  let parts := s.links.parts.filter (fun p => isUplink s p.port || decide (p.h.dst ≠ l))
  let mine (k : ChunkE) : Bool := decide (k.dst = l) && k.steep
  let steeped := ((s.xch.pool.filter (fun p => decide (p.h.dst = l))).map PoolSlot.steep ++
    s.xch.table.filterMap (fun e => e.2.bind (fun k => if mine k then some k.len else none))).foldl (· + ·) 0
  let s : State := { s.count 0x7001C steeped with links := { s.links with ports := ports, parts := parts } }
  s.modXch (fun x => { x with
    pool := x.pool.filter (fun p => decide (p.h.dst ≠ l))
    table := x.table.filter (fun e => match e.2 with | some k => decide (k.dst ≠ l ∨ (k.kind = 1 ∧ k.steep = false)) | none => false) })

/-- A slot's shadow, when its chip may serve the step (R175, R245). -/
def State.shadowOf (s : State) (st : Step) (slot : Nat) : Option Nat :=
  let sl := st.bind.table.slots.getD slot default
  let sh := st.bind.table.slots.getD sl.shadow default
  if sl.shadow = 0xFFF then none
  else if (st.bind.mem.contains sh.chip) && !(s.memb.lost.contains sh.chip) then some sl.shadow else none

/-- Rewrite of the send list for a lost chip (R245, R247): unsent copies and those without a return go to the
slot's shadow. -/
def State.rewriteFor (s : State) (st : Step) (l : Nat) : Step :=
  { st with rt := { st.rt with
      list := st.rt.list.map (fun e =>
        if e.e.chip = l ∧ e.ret = false then
          match s.shadowOf st e.e.slot with
          | none => e
          | some i =>
            let sl := st.bind.table.slots.getD i default
            { e with
              e := { e.e with slot := i, chip := sl.chip, loc := sl.loc, shad := true }
              again := e.snt
              moved := e.snt }
        else e) } }

/-- What a declaration does to the running step of context `c` (R436). -/
def State.lossStep (s : State) (l c : Nat) : State :=
  match s.step? c with
  | none => s
  | some st =>
    let inGroup (w : Nat) : Bool := (mkGrp w s.torus s.own st.bind.tab).members.contains l
    -- open instances of groups that hold the lost chip are abandoned without aborts (R306)
    let s := s.modStep c (fun st => { st with insts := st.insts.filter (fun x => !(inGroup x.word)) })
    if st.ended then s
    else if st.bind.mem.contains l then
      if s.rdF 0xC0040 0 1 = 1 then s.cancelLoss c else s.ctxFault c 0x1A
    else if st.chains.any (fun h => if h.c.op = 3 then inGroup (s.groupWord h.c.peer)
        else decide (h.c.op ≠ 5) && decide (h.c.peer = l)) then s.ctxFault c 0x1A
    else if st.ext.w2t then s
    else if st.rt.list.any (fun e => decide (e.e.chip = l) && !e.ret && (s.shadowOf st e.e.slot).isNone) then s.ctxFault c 0x1A
    else
      let again (st : Step) : Step := if st.rt.list.any SendSt.again then st.redone else st
      s.modStep c (fun st => again (s.rewriteFor st l))

/-- Declare chip `l` lost (R433, R435, R436). -/
def State.declareLost (s : State) (l decl : Nat) (pay : Bytes) (from_ : Option Nat) : State :=
  if s.memb.lost.contains l then s
  else
    let s := { s with memb := { s.memb with lost := s.memb.lost ++ [l] } }
    let s := (s.event 0x14 0 l decl).notice 2
    let s := (s.wr 0xC003C l).copiesLost (fun c => decide (c = l)) true
    let s := (s.spreadNotice pay from_).dropFor l
    let s := s.count 0x7001C (s.hold.filter (fun e => decide (e.src = l))).length
    let s : State := { s with hold := s.hold.filter (fun e => decide (e.src ≠ l)) }
    (tkeys (fun _ x => x.step.isSome) s.ctxs).foldl (fun s c => s.lossStep l c) s

/-- Declare on this chip's own finding (R95, R433). -/
def State.declareOwn (s : State) (l : Nat) : State :=
  s.declareLost l s.glb.chip (lossPayload l s.glb.chip s.memb.ver s.now) none

/-- LOST_DECL_WRITE (R433). -/
def lostDeclOp (w : W32) (s : State) : State :=
  if s.on then ((s.declareOwn (w.toNat % 4096)).recWrite 0xC0038 w.toNat).ackWrite else s

def execLostDeclWrite (data : W32) (s : State) : Host.Outcome State Fault Refusal := .next (lostDeclOp data s)

/-- A notice that names this chip (R434). -/
def State.castOut (s : State) : State :=
  let s := { s with memb := { s.memb with outcast := if s.memb.outcast = 0 then 1 else s.memb.outcast } }
  (tkeys (fun _ x => x.enable) s.ctxs).foldl (fun s c => s.ctxFault c 0x1A) s

/-- LOSS_NOTICE (R433, R434). -/
def lossNoticeOp (s : State) : State :=
  match s.xch.notices with
  | [] => s
  | (n, pay) :: r =>
    let s := s.modXch (fun x => { x with notices := r })
    if fld pay 0 2 ≠ 1 ∨ crcOk 20 pay = false then s
    else
      let l := fld pay 2 2 % 4096
      if l = s.glb.chip then s.castOut
      else if s.memb.lost.contains l then s
      else s.detect.declareLost l (fld pay 4 2 % 4096) pay (s.portDir n)

def execLossNotice (s : State) : Host.Outcome State Fault Refusal := .next (if s.alive then lossNoticeOp s else s)

end Sys2Proof.Machine
end

