-- ==== Sys2Proof/Machine/Transit.lean ====
section
/-! DEFINITION. Landing and forwarding of chunks and messages that arrive on the links (R256 to R259, R286),
and the failure and sparing of ports (R86, R93 to R95). -/

namespace Sys2Proof.Machine

/-- 64 KiB units that landing places overlap. -/
def unitsOf (xs : List PoolSlot) : List Nat :=
  xs.flatMap (fun x => rangeFrom (x.off / 65536) (ceilDiv (x.off + x.size) 65536))

/-- Units of the forwarding pool in use in a pitch (R257). -/
def State.poolUnits (s : State) (p : Nat) : List Nat := unitsOf (s.xch.pool.filter (fun x => decide (x.where_ = 0 ∧ x.pitch = p)))

/-- The forwarding pool of a pitch has no free slot. -/
def State.poolFull (s : State) (p : Nat) : Bool := decide (s.rd 0x5000C ≤ freeUnit (s.poolUnits p))

/-- The context's running step has the epoch on this chip (R257, R390). -/
def State.runsHere (s : State) (c e : Nat) : Bool :=
  (s.ctx c).enable && (match s.step? c with | some st => decide (st.epoch = e) | none => false)

/-- A place of `size` bytes at `off`: `where_` as in a landing slot, with the header that its region leaves out. -/
structure Place where
  where_ : Nat
  off : Nat
  size : Nat
  hdr : Bytes := []
  deriving DecidableEq, Repr, Inhabited

def sumN (xs : List Nat) : Nat := xs.foldl (· + ·) 0

/-- First 64 KiB unit of the landing region beyond a step's R231 positions (R257): past the forwarding pool, in records of
`rb` bytes. -/
def State.freeBase (s : State) (st : Step) (rb : Nat) : Nat :=
  ceilDiv ((sumN st.dst.layX + sumN st.dst.layY) * rb - 65536 * s.rd 0x5000C) 65536

/-- Landing-region units of a context in use (R257). -/
def State.landUnits (s : State) (c : Nat) : List Nat := unitsOf (s.xch.pool.filter (fun x => decide (x.where_ = 1 ∧ x.ctx = c)))

/-- A place in the landing region of a context is taken: LAND_PEAK follows (R257). -/
def State.landPeak (s : State) (c : Nat) (x : Place) : State :=
  let used := (s.landUnits c ++ rangeFrom (x.off / 65536) (ceilDiv (x.off + x.size) 65536)).eraseDups.length
  s.wr (pageAt c 0x4C) (max (s.page c 0x4C) used)

/-- A place of 64 KiB outside the pool (R257): the landing region beyond the step's R231 positions, or the transit region. -/
def State.regionPlace (s : State) (h : FlitH) : State × Option Place :=
  if s.runsHere h.ctx h.epoch then
    let base := match s.step? h.ctx with
      | some st => s.freeBase st (recordBytes (rowBytes st.desc.payFmt (32 * st.bind.dir.d32)))
      | none => 0
    let u := base + freeUnit ((s.landUnits h.ctx).filterMap (fun v => if base ≤ v then some (v - base) else none))
    let x : Place := { where_ := 1, off := 65536 * u, size := 65536 }
    if u < s.page h.ctx 0x48 then (s.landPeak h.ctx x, some x) else (s.ctxFault h.ctx 0x0F, none)
  else
    let u := freeUnit (unitsOf (s.xch.pool.filter (fun x => decide (x.where_ = 2))))
    if u < s.rd 0x5005C then (s, some { where_ := 2, off := 65536 * u, size := 65536 }) else (s.count 0x50060 1, none)

/-- Where a transit chunk lands (R257): pool, landing region or transit region. -/
def State.transitPlace (s : State) (p : Nat) (h : FlitH) : State × Option Place :=
  if s.poolFull p then s.regionPlace h else (s, some { where_ := 0, off := 65536 * freeUnit (s.poolUnits p), size := 65536 })

/-- Bytes of a record of a chunk, from its header. -/
def recordBytes' (c : ChunkH) : Nat := if c.nrec = 0 then c.bytes else c.bytes / c.nrec

/-- Record position of a chunk that completes stage X or Y here and turns (R231): its sender's offset, then the records of that
sender placed before (DESIGN CHOICE, log entry 24: in their order of landing, stage Y behind stage X). None for a chunk that
the route counts do not count. -/
def turnPos (st : Step) (own : Pos) (size : Pos) (stage src : Nat) : Option (Nat × Nat) :=
  let g := mkGrp st.bind.word size own st.bind.tab
  let lay := if stage = 0 then st.dst.layX else st.dst.layY
  let c := (g.rc (entPos (tget 0 st.bind.tab src))).at_ stage
  let key := 16 * stage + c
  if lay = [] ∨ 2 ≤ stage then none
  else some (key, (if stage = 1 then sumN st.dst.layX else 0) + sumN (lay.take c) + tget 0 st.dst.placed key)

/-- Where a chunk that this chip forwards lands (R257, R426): a dispatch chunk that turns into the next stage takes its R231
position in the landing space, the forwarding pool and then the context's landing region; every other is in transit. -/
def State.landingPlace (s : State) (p : Nat) (h : FlitH) (ch : ChunkH) (hop : Hop) (hdr : Bytes) : State × Option Place :=
  let turns := decide (ch.ckind = 1 ∧ ch.order = 0 ∧ hop.axis ≠ h.stage) && !ch.resend && s.runsHere h.ctx h.epoch
  match (if turns then (s.step? h.ctx).bind (fun st => turnPos st s.own s.torus h.stage h.src) else none) with
  | none => s.transitPlace p h
  | some (key, pos) =>
    let rb := recordBytes' ch
    let cap := 65536 * s.rd 0x5000C
    let size := ch.nrec * rb
    let s := s.modStep h.ctx (fun st => { st with dst := { st.dst with placed := tput 0 key (tget 0 st.dst.placed key + ch.nrec) st.dst.placed } })
    if pos * rb < cap then
      let mine := rangeFrom (pos * rb / 65536) (ceilDiv (pos * rb + size) 65536)
      let others := unitsOf (s.xch.pool.filter (fun x => decide (x.where_ = 0 ∧ x.pitch = p ∧ (x.ctx ≠ h.ctx ∨ x.size = 65536))))
      if mine.any others.contains then s.transitPlace p h else (s, some { where_ := 0, off := pos * rb, size := size })
    else
      let x : Place := { where_ := 1, off := pos * rb - cap, size := size, hdr := hdr }
      if x.off + size ≤ 65536 * s.page h.ctx 0x48 then (s.landPeak h.ctx x, some x) else (s.ctxFault h.ctx 0x0F, none)

/-- Address of a landed chunk in a region (R257). -/
def State.regionAddr (s : State) (x : PoolSlot) : Nat :=
  (if x.where_ = 1 then s.page2 x.ctx 0x40 else s.rd2 0x50054) + x.off

/-- Take a landing place. -/
def State.takeSlot (s : State) (p : Nat) (x : Place) (h : FlitH) (steep kind : Nat) : Nat × State :=
  let id := s.xch.nextSlot + 1
  (id, s.modXch (fun y => { y with nextSlot := id, pool := y.pool ++ [⟨id, p, x.where_, h.ctx, h, 0, x.off, x.size, x.hdr, steep, kind⟩] }))

def State.dropSlot (s : State) (id : Nat) : State :=
  s.modXch (fun x => { x with pool := x.pool.filter (fun y => decide (y.id ≠ id)) })

/-- A port without the flits of forwarding slot `id` that it has not sent. -/
def Port.dropSlot (p : Port) (id : Nat) : Port :=
  let gone (q : QFlit) : Bool := decide (q.slot = id)
  { p with queue := p.queue.map (fun qs => qs.filter (fun q => !(gone q))), kept := p.kept.filter (fun q => !(gone q)) }

/-- A chunk on its way through this chip is given up: its slot, and its flits that have not been sent. -/
def State.purgeSlot (s : State) (id : Nat) : State :=
  if id = 0 then s
  else
    let s := s.dropSlot id
    { s with links := { s.links with ports := s.links.ports.map (fun p => p.dropSlot id) } }

/-- ccheck and ckind of a chunk's first flit pass (R256). -/
def headOk (pay : Bytes) : Bool :=
  decide (32 ≤ pay.length) && crcOk 32 (sub pay 0 32) && decide (1 ≤ (decChunkH pay).ckind ∧ (decChunkH pay).ckind ≤ 8)

/-- A chunk of steeped copies, by its first record's tag, which names the flit's context, epoch and source (R315); the kind
says no more where its check fails. -/
def steepedChunk (h : FlitH) (pay : Bytes) : Bool :=
  let g := (decCopyH (sub pay 32 16)).tag
  (!(headOk pay) || decide ((decChunkH pay).ckind = 1)) &&
  decide (h.vc = 2 ∧ tagCtx g = h.ctx ∧ tagEpoch g = h.epoch ∧ tagSrc g = h.src) && tagSteeped g

/-- Records of a chunk of steeped copies; 0 for any other. -/
def steepedRecs (h : FlitH) (pay : Bytes) : Nat := if steepedChunk h pay then (decChunkH pay).nrec else 0

/-- A chunk is discarded on its first flit: a steeped one that fails ccheck or ckind counts in SPC_DROP, any other in
XCH_CHUNK_BAD (R256, R316). -/
def State.badChunk (s : State) (h : FlitH) (pay : Bytes) : State :=
  if steepedChunk h pay && !(headOk pay) then s.count 0x7001C (decChunkH pay).nrec else s.count 0x50024 1

/-- A chunk of kind 7 is discarded (R428): open ring instances of its context and epoch note it. -/
def State.noteDiscard (s : State) (h : FlitH) (kind : Nat) : State :=
  if kind = 7 ∧ s.runsHere h.ctx h.epoch = true then
    s.modStep h.ctx (fun st => { st with insts := st.insts.map (fun x => { x with disc := true }) })
  else s

/-- The first flit of a chunk decides what becomes of it (R256 to R258): the new part. -/
def State.openPart (s : State) (port : Nat) (h : FlitH) (pay : Bytes) : State × Part :=
  let mk (out : Nat) (drop : Bool) (slot : Nat) : Part := 
    { port := port, vc := h.vc, h := h, next := 0, bytes := [], out := out, drop := drop, slot := slot, at_ := s.now }
  if !(chunkOk pay) then ((s.detect.badChunk h pay).noteDiscard h (decChunkH pay).ckind, mk 72 true 0)
  else if isUplink s port = false ∧ s.memb.lost.contains h.dst = true then (s, mk 72 true 0)
  else if h.dst = s.glb.chip ∨ isUplink s port = true then (s, mk 72 (decide (s.memb.outcast = 1)) 0)
  else
    match s.nextHop (s.tabFor h.mver) h.vc (decChunkH pay).order h.dst with
    | none => (s, mk 72 true 0)
    | some hop =>
      match s.choosePort hop.dir h.chunk with
      | none => (s, mk 72 true 0)
      | some n =>
        let steep := steepedRecs h pay
        match (if steep ≠ 0 ∧ s.poolFull (portPitch port) = true then (s.count 0x7001C steep, none)
          else s.landingPlace (portPitch port) h (decChunkH pay) hop (pay.take 32)) with
        | (s, none) => (s, mk 72 true 0)
        | (s, some x) =>
          let (id, s) := s.takeSlot (portPitch port) x h steep (decChunkH pay).ckind
          (s, { mk n false id with h := { h with stage := hop.axis } })

/-- A chunk's flits, or a short flit, leave a region, read back whole (R258, R286). -/
def State.forwardRegion (s : State) (id : Nat) (bytes : Bytes) : State :=
  match s.xch.pool.find? (fun x => decide (x.id = id)) with
  | none => s
  | some x =>
    if x.h.ftype = 2 then s.shortOut x.h (bytes.take x.h.plen) 0 4 id
    else
      let bytes := x.hdr ++ bytes
      match s.nextHop (s.tabFor x.h.mver) x.h.vc (decChunkH bytes).order x.h.dst with
      | none => s.dropSlot id
      | some hop =>
        match s.choosePort hop.dir x.h.chunk with
        | none => s.dropSlot id
        | some n =>
          let len := 32 + (decChunkH bytes).bytes
          s.enqueue n x.h.vc (chunkFlits { x.h with stage := hop.axis } (bytes.take len) id)

/-- Write what has landed to its region place (R258): a chunk's records alone where the slot keeps the header. -/
def State.regionWrite (s : State) (x : PoolSlot) (bytes : Bytes) : State :=
  let bs := if x.hdr = [] then bytes else sub bytes 32 x.size
  let c := if x.where_ = 1 then x.ctx else 0
  let u := if x.where_ = 1 then MemUnit.landOut else MemUnit.transitOut
  let s := s.modXch (fun y => { y with pool := y.pool.map (fun z => if z.id = x.id then { z with len := bs.length } else z) })
  if x.hdr = [] then s.memWrite c 1 (s.regionAddr x) bs ⟨u, x.id⟩
  else State.memWriteAny c 1 ⟨u, x.id⟩ (ceilDiv bs.length 4032) (s.regionAddr x) bs s

/-- An arrival for this chip on a port is numbered and recorded (R414). -/
def State.arrival (s : State) (ekind port : Nat) (h : FlitH) (tick : Nat) (pay : Bytes) : State :=
  let n := (s.port port).arr
  (s.modPort port (fun p => { p with arr := n + 1 })).record ekind port (some h.ctx) h.epoch tick n pay (decide (ekind = 3))

/-- A whole chunk has arrived (R256 to R258). -/
def State.closePart (s : State) (p : Part) (bytes : Bytes) : State :=
  if p.drop then s
  else if p.out = 72 then
    let c := decChunkH bytes
    let s := s.arrival 3 p.port p.h p.at_ (if c.ckind ≤ 2 then blankTags 32 (recordBytes' c) bytes else bytes)
    s.landHere ⟨p.h.src, p.h.ctx, p.h.epoch, p.h.chunk, c, sub bytes 32 c.bytes, portPitch p.port, p.h.vc, isUplink s p.port⟩
  else match s.xch.pool.find? (fun x => decide (x.id = p.slot)) with
  | none => s
  | some x =>
    if x.where_ = 0 then s else s.regionWrite x bytes

/-- Key of a part: flits of one chunk on one port. -/
def Part.same (p : Part) (port : Nat) (h : FlitH) : Bool :=
  decide (p.port = port ∧ p.vc = h.vc ∧ p.h.src = h.src ∧ p.h.chunk = h.chunk)

/-- A copy of the same chunk, on any port (R94). -/
def Part.copyOf (p : Part) (h : FlitH) : Bool :=
  decide (p.vc = h.vc ∧ p.h.src = h.src ∧ p.h.chunk = h.chunk ∧ p.h.ctx = h.ctx ∧ p.h.epoch = h.epoch)

def State.setParts (s : State) (f : List Part → List Part) : State :=
  { s with links := { s.links with parts := f s.links.parts } }

/-- A chunk begins anew: partial copies of it are discarded (R94). -/
def State.dropPartial (s : State) (port : Nat) (h : FlitH) : State :=
  let old (p : Part) : Bool := p.same port h || p.copyOf h
  ((s.links.parts.filter old).foldl (fun s p => s.purgeSlot p.slot) s).setParts (fun ps => ps.filter (fun p => !(old p)))

/-- Land an accepted data flit (R256 to R258). -/
def State.landFlit (s : State) (port : Nat) (h : FlitH) (pay : Bytes) : State :=
  let old := s.links.parts.find? (fun p => p.same port h)
  let s := if h.index = 0 then s.dropPartial port h else s
  let (s, part) : State × Option Part :=
    if h.index = 0 then
      let r := s.openPart port h pay
      (r.1, some r.2)
    else (s, old)
  match part with
  | none => s
  | some p =>
    if p.next ≠ h.index then s.setParts (fun ps => ps.filter (fun q => !(q.same port h)))
    else
      let pooled := s.xch.pool.any (fun x => decide (x.id = p.slot ∧ x.where_ = 0))
      let s := if !p.drop && decide (p.out ≠ 72) && pooled then
          s.enqueue p.out h.vc [{ h := { h with stage := p.h.stage }, pay := pay, slot := p.slot }]
        else s
      let p' := { p with next := h.index + 1, bytes := if p.drop then [] else p.bytes ++ pay }
      let s := s.setParts (fun ps => ps.filter (fun q => !(q.same port h)))
      if h.last then s.closePart p' p'.bytes else s.setParts (fun ps => ps ++ [p'])

/-- Flits in the short pool of a pitch (R286): they leave it as they are sent. -/
def State.shortsIn (s : State) (p : Nat) : Nat :=
  sumN (s.links.ports.map (fun q => sumN (q.queue.map (fun fs => (fs.filter (fun f => decide (f.pool = p))).length))))

/-- A short flit is forwarded from the short pool of its pitch or, when that is full, from a landing region (R286). -/
def State.passShort (s : State) (p : Nat) (h : FlitH) (pay : Bytes) : State :=
  if s.shortsIn p < 256 then s.shortOut h pay 0 p 0
  else match s.regionPlace h with
  | (s, none) => s
  | (s, some x) =>
    let (id, s) := s.takeSlot p x h 0 0
    match s.xch.pool.find? (fun y => decide (y.id = id)) with
    | none => s
    | some y => s.regionWrite y pay

/-- An accepted collective-short flit (R286). -/
def State.landShort (s : State) (port : Nat) (h : FlitH) (pay : Bytes) : State :=
  if isUplink s port = false ∧ s.memb.lost.contains h.dst = true then s
  else if h.dst = s.glb.chip ∨ isUplink s port = true then
    if s.memb.outcast = 1 then s
    else (s.arrival 4 port h s.now pay).modXch (fun x => { x with shorts := x.shorts ++ [⟨h.src, h.ctx, h.epoch, pay⟩] })
  else s.passShort (portPitch port) h pay

/- Failure and sparing -/

/-- Flits that a port holds, whole chunks first (R94): by virtual channel. -/
def Port.held (p : Port) : List (Nat × List QFlit) :=
  (List.range 7).map (fun v =>
    (v, p.kept.filter (fun q => decide (q.h.vc = v)) ++
      p.retry.filter (fun q => decide (q.h.vc = v ∧ q.h.ftype ≠ 1)) ++ p.queue.getD v []))

/-- A chunk, and the port that its flits go to. -/
structure ChunkTo where
  vc : Nat
  src : Nat
  chunk : Nat
  port : Nat
  deriving DecidableEq, Repr, Inhabited

/-- Give the flits of a port to other ports of a direction, whole chunks each to one port (R94, R95); the second component
tells which. -/
def State.moveFlits (s : State) (d : Nat) (fs : List QFlit) : State × List ChunkTo :=
  let r := fs.foldl (fun (a : State × Option Nat × List ChunkTo) q =>
    let n := if q.h.ftype = 1 ∧ q.h.index ≠ 0 then a.2.1 else a.1.choosePort d q.h.chunk
    match n with
    | none => (a.1, none, a.2.2)
    | some n => (a.1.enqueue n q.h.vc [{ q with resends := 0 }], some n,
        if q.h.ftype = 1 ∧ q.h.index = 0 then ⟨q.h.vc, q.h.src, q.h.chunk, n⟩ :: a.2.2 else a.2.2)) (s, none, [])
  (r.1, r.2.2)

def Port.empty (p : Port) : Port := { p with queue := List.replicate 7 [], retry := [], kept := [], rs := none }

/-- The port that the rest of a transit chunk takes when its own has gone. -/
def State.partOut (s : State) (d : Nat) (tos : List ChunkTo) (p : Part) : Part :=
  match (match tos.find? (fun t => decide (t.vc = p.vc ∧ t.src = p.h.src ∧ t.chunk = p.h.chunk)) with
    | some t => some t.port
    | none => s.choosePort d p.h.chunk) with
  | some m => { p with out := m }
  | none => { p with drop := true }

/-- What a port holds goes to other ports of its direction, and so does the rest of the chunks that come in for it (R94,
R95). -/
def State.spread (s : State) (n d : Nat) : State :=
  let fs := (s.port n).held.flatMap Prod.snd
  let r := (s.modPort n Port.empty).moveFlits d fs
  r.1.setParts (fun ps => ps.map (fun p => if p.out = n then r.1.partOut d r.2 p else p))

/-- Resend what a port holds on other ports of its direction; a direction without any working port means
that the neighbour is unreachable (R94, R95). -/
def State.reroutePort (s : State) (n : Nat) : State :=
  match s.portDir n with
  | none => s
  | some d =>
    let l := (s.linkEnt n).chip
    let s := s.spread n d
    if s.workPorts d = [] ∧ d < 6 ∧ s.memb.lost.contains l = false then s.detect.declareOwn l else s

/-- A retry buffer that fails parity while its port is not up is abandoned: the chunks it held are resent whole on the ports
of the direction that work, or, with none, on the port itself (R93, R94). -/
def State.retryLost (s : State) (n : Nat) : State :=
  match s.portDir n with
  | none => s
  | some d =>
    if s.workPorts d ≠ [] then s.spread n d
    else s.modPort n (fun p => { p.empty with queue := p.held.map Prod.snd })

/-- The lowest-numbered free spare of a pitch (R93). -/
def State.freeSpare (s : State) (p : Nat) : Option Nat :=
  [64 + 2 * p, 65 + 2 * p].find? (fun n => decide ((s.port n).st = 0 ∧ (s.port n).steer = 31) && !(s.port n).iso)

/-- A failed port out of service: lnk_en low, isolated (R78, R93). -/
def Port.off (p : Port) (el : Nat) : Port := { p with st := 3, en := false, iso := true, lowAt := el, failAt := el, phy := false }

/-- A spare that takes the channel of a failed port `p` of index `i` (R93): its retry buffer, numbers and credits pass on. -/
def Port.takeOver (q p : Port) (i el : Nat) : Port :=
  { p with
    st := 1
    phy := q.phy
    phyAt := q.phyAt
    en := true
    enAt := el
    iso := q.iso
    steer := i
    rs := none
    failAt := el
    helloDue := false
    helloGot := false
    resTimes := []
    protoTimes := [] }

/-- A port goes out of service (R66, R78, R93, R95): a spare takes its channel, and what is in arrival or on its way there;
or its direction has one port fewer. -/
def State.linkDown (s : State) (n : Nat) : State :=
  let p := s.port n
  let s := if p.iso then s else s.notice 2
  match (if n < 64 then s.freeSpare (portPitch n) else none) with
  | some m =>
    let s := (s.modPort n (fun q => { (q.off s.el).empty with st := 4 })).modPort m (fun q => q.takeOver p (indexOf n) s.el)
    let s := s.setParts (fun ps => ps.map (fun x => { x with
      port := if x.port = n then m else x.port
      out := if x.out = n then m else x.out }))
    s.remapAt (portPitch n) 6 n ((m - 64) % 2)
  | none => ((s.modPort n (fun q => q.off s.el)).reroutePort n).modPort n (fun q => { q with steer := 31 })

/-- A port is declared failed (R86). -/
def State.linkFail (s : State) (n cause : Nat) : State :=
  ((s.detect).eventAt (portPitch n) 0x10 0 n cause).linkDown n

/-- A protocol error on a port (R84, R86, R89). -/
def State.linkProto (s : State) (n : Nat) : State :=
  let ts := s.el :: recent (2 ^ 20) s.el (s.port n).protoTimes
  let s := s.modPort n (fun p => { p with protoTimes := ts })
  if 16 ≤ ts.length then s.linkFail n 3 else s

end Sys2Proof.Machine
end

