-- ==== Sys2Proof/Machine/Kettle.lean ====
section
/-! DEFINITION. Kettle tiles (R140 to R142, R168, R379), images in the Caddy (R150 to R152), faults found in lanes,
cores and storage (R31 to R33, R141, R240, R258). -/

namespace Sys2Proof.Machine

/- Images -/

/-- The parts of an image's present load, when all of them have come (R150). -/
def State.loadedImage (s : State) (i : Img) : Option Bytes :=
  let part (k : Nat) : Option Bytes :=
    (s.mem.done.find? (fun d => decide (d.ctx = i.loader ∧ d.why = ⟨.imageRead, imgIdx i.id k⟩))).map (fun d =>
      sub d.data ((i.addr + 4096 * k) % 64) (min 4096 (i.len - 4096 * k)))
  let ps := (List.range (ceilDiv i.len 4096)).map part
  if ps.all Option.isSome then some (ps.filterMap id).flatten else none

/-- Drop the transfers of an image's load. -/
def State.dropLoad (s : State) (i : Img) : State :=
  s.modDone (fun ds => ds.filter (fun d =>
    !(decide (d.why.unit = .imageRead ∧ d.why.idx / 65536 = i.id ∧ d.ctx = i.loader))))

/-- IMAGE_LOAD_DONE (R150): check, refetch once, fault 0x09 or usable. -/
def imageLoadDoneOp (c p : Nat) (s : State) : State :=
  let mine (i : Img) : Bool := decide (i.loader = c ∧ i.pitch = p) && !i.usable && (s.loadedImage i).isSome
  match s.ktl.imgs.find? mine with
  | none => s
  | some i =>
    match s.loadedImage i with
    | none => s
    | some bs =>
      let s := s.dropLoad i
      if i.shadow = false ∧ crcN bs ≠ i.icheck then
        if i.tries < 2 then s.reloadImage i c 2 else s.ctxFault c 0x09
      else if imageBad i.lfmt i.cols i.d32 bs then s.ctxFault c 0x09
      else s.modKtl (fun x => { x with imgs := x.imgs.map (fun j =>
        if j.id = i.id then { j with usable := true, bytes := bs } else j) })

def execImageLoadDone (ctx pitch : Nat) (s : State) : Host.Outcome State Fault Refusal := .next (if s.alive then imageLoadDoneOp ctx pitch s else s)

/- Ready tiles -/

/-- A tile of the step is in progress on some core. -/
def State.tileRuns (s : State) (c : Nat) (st : Step) (kind g cg : Nat) : Bool :=
  s.ktl.cores.any (fun e => e.2.busy && decide (e.2.ctx = c ∧ e.2.epoch = st.epoch ∧ e.2.kind = kind ∧ e.2.g = g ∧ e.2.c = cg))

/-- Tokens of a group that have tile work (R143). -/
def Step.goodGroup (st : Step) (g : Nat) : List Nat := (st.group g).filter (fun t => !(st.rowBad t))

/-- The step's tiles read their image in a pitch: its usable copy, or the lines streamed from host memory (R150, R152). -/
def State.canRead (s : State) (st : Step) (shadow : Bool) (p : Nat) : Bool :=
  st.streams shadow p || (s.usableImg st.bind.dir shadow p).isSome

/-- Delivered rows that are at hand (R136). -/
def Step.rowsHere (st : Step) (ts : List Nat) : Bool := ts.all (fun t => !(st.sc.away.contains t))

/-- The next recheck tile (R168): jobs in ascending token group, column groups ascending. -/
def State.nextRecheck (s : State) (c : Nat) (st : Step) : Option (Nat × Nat × Nat) :=
  let js := sortBy (fun a b => decide (a.g < b.g) || (decide (a.g = b.g) && decide (a.id < b.id))) st.sc.rjobs
  (js.filter (fun (j : RJob) => st.rowsHere j.toks)).findSome? (fun (j : RJob) =>
    (List.range st.bind.dir.colGroups).findSome? (fun cg =>
      if tget 0 j.next cg < st.bind.dir.slices 1 ∧ s.tileRuns c st 1 j.id cg = false then some (j.id, cg, tget 0 j.next cg) else none))

/-- Rank of a gather pair in its token's order (R168). -/
def Step.pairRank (st : Step) (p : GPair) : Nat :=
  let x := st.tok p.t
  let pos (xs : List Nat) : Nat := (xs.findIdx? (fun j => decide (j = p.j))).getD xs.length
  if p.why = 0 then pos x.set_ else if p.why = 2 then pos x.amb else x.set_.length + pos x.cands

/-- Form a gather tile from waiting pairs (R168) when every tile formed before is in progress. -/
def State.formGather (s : State) (c : Nat) (st : Step) : Step :=
  if st.sc.pairs = [] ∨ st.sc.gjobs.any (fun j => !(s.tileRuns c st 2 j.id 0)) = true then st
  else
    let lt (a b : GPair) : Bool := decide (a.t < b.t) || (decide (a.t = b.t) && decide (st.pairRank a < st.pairRank b))
    let ps := sortBy lt st.sc.pairs
    { st with sc := { st.sc with
      gjobs := st.sc.gjobs ++ [⟨st.sc.nextJob, ps.take 4096, 0⟩]
      nextJob := st.sc.nextJob + 1
      pairs := ps.drop 4096 } }

/-- The next gather tile (R168). -/
def State.nextGather (s : State) (c : Nat) (st : Step) : Option (Nat × Nat × Nat) :=
  (st.sc.gjobs.find? (fun j => decide (j.next < st.bind.dir.slices 1) && st.rowsHere (j.pairs.map GPair.t) && !(s.tileRuns c st 2 j.id 0))).map (fun j => (j.id, 0, j.next))

/-- The next ordinary tile (R142): groups whose rows have come. -/
def State.nextOrdinary (s : State) (c : Nat) (st : Step) : Option (Nat × Nat × Nat) :=
  (List.range st.nGroups).findSome? (fun g =>
    if (st.group g).all (fun t => (st.row t).isSome) && decide (st.goodGroup g ≠ []) then
      (List.range st.bind.dir.colGroups).findSome? (fun cg =>
        let k := tget 0 st.sc.done (tileKey g cg)
        if k < st.bind.dir.slices st.bind.dir.lfmt ∧ s.tileRuns c st 0 g cg = false then some (g, cg, k) else none)
    else none)

/-- The next gradient tile (R362): tiles of one column group and span run in series, each from the accumulators that
the one before has stored. -/
def State.nextGrad (s : State) (c : Nat) (st : Step) : Option (Nat × Nat × Nat) :=
  (List.range (ceilDiv st.bind.dir.nExp 64)).findSome? (fun cg =>
    (List.range st.bind.dir.spans).findSome? (fun sp =>
      let k := tget 0 st.sc.done (tileKey sp cg)
      let b := st.gradBatch cg k
      if b ≠ [] ∧ s.tileRuns c st 3 sp cg = false ∧ s.whyOut c ⟨.gaccOut, tileKey sp cg⟩ = false ∧
          b.all (fun q => (st.row q.t).isSome) = true then some (sp, cg, k) else none))

/-- The tile that a step would start in pitch `p` (R142, R168): kind, group or job, column group, slice, and the step
with a gather tile formed for it. -/
def State.nextTile (s : State) (c : Nat) (st : Step) (p : Nat) : Option (Step × Nat × Nat × Nat × Nat) :=
  let sh := decide (st.bind.dir.lfmt ≠ 1)
  let ref := s.canRead st sh p
  let st' := s.formGather c st
  if st.desc.kind = 4 then (s.nextGrad c st).map (fun t => (st, 3, t))
  else match (if ref then s.nextRecheck c st else none) with
  | some t => some (st, 1, t)
  | none =>
    match (if ref then s.nextGather c st' else none) with
    | some t => some (st', 2, t)
    | none =>
      if s.canRead st false p then (s.nextOrdinary c st).map (fun t => (st, 0, t)) else none

/-- A step may start tiles (R142, R379, R384, R393). -/
def State.mayTile (s : State) (c : Nat) (st : Step) : Bool :=
  (s.ctx c).active && st.launched && !st.cancelled && !st.ended && st.frame.isSome && !st.moving && !st.leaving && !st.evicted

/-- The governor lets a pitch start tiles (R471, R472). -/
def State.pitchGo (s : State) (p : Nat) : Bool := !(s.pitch p).droop && decide ((s.pitch p).win ≤ (s.pitch p).iLim)

/-- A free core (R23, R31). -/
def State.coreFree (s : State) (k : Nat) : Bool := s.coreOk k && !((tget {} s.ktl.cores k).busy) && s.pitchGo (k / 32)

/-- Steps of a tent in the order in which they take its cores (R379). -/
def State.tileOrder (s : State) (n : Nat) : List Nat :=
  let lt (a b : Nat) : Bool :=
    let x := s.ctx a
    let y := s.ctx b
    if x.rt && y.rt then decide (x.launch < y.launch) || (decide (x.launch = y.launch) && decide (a < b))
    else if x.rt != y.rt then x.rt
    else s.shareLt a b
  sortBy lt (s.stepsWhere (fun c x st => decide (x.tent = n) && s.mayTile c st))

/-- The tent that holds a core (R376). -/
def State.tentWith (s : State) (k : Nat) : Option Nat :=
  (List.range 64).find? (fun n => (tentCores (s.tentWord n)).contains k)

/-- The tile that core `k` of tent `n` would take. -/
def State.tileFor (s : State) (n k : Nat) : Option (Nat × Step × Nat × Nat × Nat × Nat) :=
  (s.tileOrder n).findSome? (fun c =>
    match s.step? c with
    | none => none
    | some st => (s.nextTile c st (k / 32)).map (fun t => (c, t)))

/-- Columns of a column group. -/
def LDir.groupCols (l : LDir) (cg : Nat) : List Nat := rangeFrom (64 * cg) (min l.cols (64 * cg + 64))

/-- First block and end of a slice (R140). -/
def LDir.sliceEnds (l : LDir) (lfmt k : Nat) : Nat × Nat := (k * depthBlocks lfmt, min l.d32 ((k + 1) * depthBlocks lfmt))

/-- Pairs of a recheck or gather tile. -/
def Step.tilePairs (st : Step) (r : Run) : List (Nat × Nat) :=
  if r.kind = 1 then
    match st.sc.rjobs.find? (fun j => decide (j.id = r.g)) with
    | none => []
    | some j => j.toks.flatMap (fun t => (st.bind.dir.groupCols r.c).map (fun c => (t, c)))
  else match st.sc.gjobs.find? (fun j => decide (j.id = r.g)) with
    | none => []
    | some j => j.pairs.map (fun q => (q.t, q.j))

/-- Format of a tile's arithmetic. -/
def tileFmt (st : Step) (r : Run) : Nat := if r.kind = 0 then st.bind.dir.lfmt else 1

/-- A tile reads the shadow image (R168). -/
def Step.tileShadow (st : Step) (r : Run) : Bool := decide (r.kind ≠ 0) && decide (st.bind.dir.lfmt ≠ 1)

/-- Blocks of a tile's slice. -/
def Step.tileEnds (st : Step) (r : Run) : Nat × Nat := st.bind.dir.sliceEnds (tileFmt st r) r.s

/-- Column groups whose lines a tile consumes. -/
def Step.tileGroups (st : Step) (r : Run) : List Nat :=
  if r.kind = 2 then (List.range st.bind.dir.colGroups).filter (fun cg => (st.tilePairs r).any (fun q => decide (q.2 / 64 = cg)))
  else [r.c]

/-- Number of a line in the requests of tile `id`: block `b` of the layer, column group `cg`. -/
def lineIdx (id b cg : Nat) : Nat := (id * 512 + b) * 32 + cg

/-- Tile of a line's request. -/
def lineRun (i : Nat) : Nat := i / 32 / 512

/-- The lines of a tile's first block. -/
def Step.firstLines (st : Step) (r : Run) : List Nat := (st.tileGroups r).map (lineIdx r.id (st.tileEnds r).1)

/-- Lines of a streamed tile, with the address of each (R148, R152). -/
def Step.tileLines (st : Step) (r : Run) : List (Nat × Nat) :=
  let l := st.bind.dir
  let f := if st.tileShadow r then 1 else l.lfmt
  (rangeFrom (st.tileEnds r).1 (st.tileEnds r).2).flatMap (fun b => (st.tileGroups r).map (fun cg =>
    (lineIdx r.id b cg, (if st.tileShadow r then l.saddr else l.waddr) + lineOff f l.d32 (64 * cg) b)))

/-- A streamed tile asks for its lines in traffic class 1 (R152). -/
def State.postLines (s : State) (c : Nat) (st : Step) (r : Run) : State :=
  let n := lineBytes (if st.tileShadow r then 1 else st.bind.dir.lfmt)
  (st.tileLines r).foldl (fun s x => s.memPost (readReq c 1 x.2 n ⟨.lineRead, x.1⟩)) s

/-- Drop the lines of a tile. -/
def State.dropLines (s : State) (r : Run) : State :=
  if r.str then s.modDone (fun ds => ds.filter (fun d => !(decide (d.why.unit = .lineRead ∧ lineRun d.why.idx = r.id)))) else s

/-- Start a tile on core `k` (R142, R151, R152, R168). -/
def State.startTile (s : State) (k c : Nat) (st : Step) (kind g cg sl : Nat) : State :=
  let r : Run := { busy := true, ctx := c, epoch := st.epoch, kind := kind, g := g, c := cg, s := sl, start := s.el, id := s.ktl.nextTile }
  let str := decide (kind ≠ 3) && st.streams (st.tileShadow r) (k / 32)
  let r := { r with str := str, wait := str }
  let s := ((s.modStep c (fun _ => st)).holdImages c).modKtl (fun x => { x with
    cores := tput {} k r x.cores
    nextTile := x.nextTile + 1 })
  if str then s.postLines c st r else s

/-- The first step that would take core `k` and whose image is not there loads it again, or runs streamed (R150 to R152). -/
def State.needFor (s : State) (n k : Nat) : State :=
  let lacks (c : Nat) : Bool := match s.step? c with
    | none => false
    | some st => (st.wants (k / 32)).any (fun w => !(st.streams w.1 (k / 32)) && !(s.ktl.imgs.any (fun i => i.same w.2)))
  match (s.tileOrder n).find? lacks with
  | none => s
  | some c => s.needImages c (k / 32)

/-- TILE_START (R142, R168, R379): the lowest free core of the tent with a tile takes it. -/
def tileStartOp (k : Nat) (s : State) : State :=
  match (if s.on && s.coreFree k then s.tentWith k else none) with
  | none => s
  | some n =>
    if ((tentCores (s.tentWord n)).filter (fun j => decide (j < k))).any (fun j => s.coreFree j && (s.tileFor n j).isSome) then s
    else match s.tileFor n k with
    | none => s.needFor n k
    | some (c, st, kind, g, cg, sl) => s.startTile k c st kind g cg sl

def execTileStart (core : Nat) (s : State) : Host.Outcome State Fault Refusal := .next (tileStartOp core s)

/- Tile results -/

/-- The line of block `b` and column `j` that a tile of context `c` consumes: from the Caddy, or streamed (R148, R152). -/
def State.lineOf (s : State) (c : Nat) (st : Step) (p : Nat) (r : Run) (j b : Nat) : Nat × List Nat :=
  let l := st.bind.dir
  let f := if st.tileShadow r then 1 else l.lfmt
  if r.str then
    match s.mem.done.find? (fun d => decide (d.ctx = c ∧ d.why = ⟨.lineRead, lineIdx r.id b (j / 64)⟩)) with
    | some d => lineBlock f d.data (j % 64)
    | none => default
  else match s.usableImg l (st.tileShadow r) p with
  | some i => imgBlock f l.d32 i.bytes j b
  | none => default

/-- What a tile consumes is at hand: its lines when it runs streamed (R152), or the pitch's copy. -/
def State.linesHere (s : State) (c : Nat) (st : Step) (p : Nat) (r : Run) : Bool :=
  if r.str then (st.tileLines r).all (fun x => s.mem.done.any (fun d => decide (d.ctx = c ∧ d.why = ⟨.lineRead, x.1⟩)))
  else (s.usableImg st.bind.dir (st.tileShadow r) p).isSome

/-- An ordinary tile (R137, R140, R141, R158). -/
def State.runOrdinary (s : State) (c : Nat) (st : Step) (p : Nat) (r : Run) : Step :=
  let l := st.bind.dir
  let e := l.sliceEnds l.lfmt r.s
  let w := s.lineOf c st p r
  let acc := (st.goodGroup r.g).foldl (fun acc t =>
    let row := (st.row t).getD []
    let qs := requant l.lfmt st.desc.inFmt l.d row
    let xs := rowVals st.desc.inFmt l.d row
    (l.groupCols r.c).foldl (fun acc j =>
      let a := if r.s = 0 then acc0 else tget acc0 acc (accKey t j)
      let v := if l.lfmt = 1 then ⟨refBlocks xs (fun b => (w j b).2) e.1 e.2 a.s, 0#32⟩
        else mxBlocks l.lfmt (boundG l.d) qs (w j) e.1 e.2 a
      tput acc0 (accKey t j) v acc) acc) st.sc.acc
  { st with sc := { st.sc with acc := acc, done := tput 0 (tileKey r.g r.c) (r.s + 1) st.sc.done } }

/-- Reference accumulation of pairs over a slice (R153, R168). -/
def State.runRef (s : State) (c : Nat) (st : Step) (p : Nat) (r : Run) (ps : List (Nat × Nat)) : Step :=
  let l := st.bind.dir
  let e := l.sliceEnds 1 r.s
  let w := s.lineOf c st p r
  let acc := ps.foldl (fun acc q =>
    let a := if r.s = 0 then 0#32 else tget 0#32 acc (accKey q.1 q.2)
    tput 0#32 (accKey q.1 q.2) (refBlocks (rowVals st.desc.inFmt l.d ((st.row q.1).getD [])) (fun b => (w q.2 b).2) e.1 e.2 a) acc)
    st.sc.racc
  { st with sc := { st.sc with racc := acc } }

/-- A recheck tile's slice is complete (R165, R168). -/
def Step.recheckDone (st : Step) (gi : GuardIn) (r : Run) : Step :=
  let n := st.bind.dir.slices 1
  let up (j : RJob) : RJob := if j.id = r.g then { j with next := tput 0 r.c (r.s + 1) j.next } else j
  let st := { st with sc := { st.sc with rjobs := st.sc.rjobs.map up } }
  match st.sc.rjobs.find? (fun j => decide (j.id = r.g)) with
  | none => st
  | some j =>
    if (List.range st.bind.dir.colGroups).all (fun cg => decide (tget 0 j.next cg = n)) then
      let st := { st with sc := { st.sc with rjobs := st.sc.rjobs.filter (fun (i : RJob) => decide (i.id ≠ r.g)) } }
      j.toks.foldl (fun st t => st.fullDone gi t) st
    else st

/-- A gather tile's slice is complete (R168, R169). -/
def Step.gatherDone (st : Step) (gi : GuardIn) (r : Run) : Step :=
  let up (j : GJob) : GJob := if j.id = r.g then { j with next := r.s + 1 } else j
  let st := { st with sc := { st.sc with gjobs := st.sc.gjobs.map up } }
  match st.sc.gjobs.find? (fun j => decide (j.id = r.g)) with
  | none => st
  | some j =>
    if j.next = st.bind.dir.slices 1 then
      let st := { st with sc := { st.sc with gjobs := st.sc.gjobs.filter (fun (i : GJob) => decide (i.id ≠ r.g)) } }
      j.pairs.foldl (fun st q => st.pairDone gi q) st
    else st

/-- Lane cycles of a slice of `n` blocks and their energy kind (R140, R391). -/
def laneCycles (lfmt n : Nat) : Nat × Nat :=
  let rate := if lfmt = 8 then 512 else if lfmt = 7 then 256 else if lfmt = 1 then 32 else 128
  (if lfmt = 7 ∨ lfmt = 8 then 0 else if lfmt = 1 then 2 else 1, 16 * ceilDiv (256 * 32 * n) rate)

/-- Lines that a streamed, recheck or gather tile consumes hold a load refusal, in any column of theirs (R150). -/
def State.tileBad (s : State) (c : Nat) (st : Step) (p : Nat) (r : Run) : Bool :=
  let f := if st.tileShadow r then 1 else st.bind.dir.lfmt
  let e := st.tileEnds r
  (decide (r.kind ≠ 0) || r.str) &&
  (st.tileGroups r).any (fun cg => (rangeFrom (64 * cg) (64 * cg + 64)).any (fun j =>
    (rangeFrom e.1 e.2).any (fun b => blockBad f (s.lineOf c st p r j b))))

/-- Every tile that the step can have is complete (R151). -/
def State.tilesOver (s : State) (c : Nat) (st : Step) : Bool :=
  !st.tilesLeft && decide (s.tilesOf c = [])

/-- The images go once no tile is left. -/
def State.endTiles (s : State) (c : Nat) : State :=
  match s.step? c with
  | none => s
  | some st => if s.tilesOver c st then s.dropImages c else s

/-- What follows when scores or ranks of a step may be complete. -/
def State.afterScore (s : State) (c : Nat) : State :=
  ((s.guard c (fun st => st.testGroups (s.guardIn c))).countStart c).ecCheck c

/-- Free a core. -/
def State.freeCore (s : State) (k : Nat) : State :=
  (s.modKtl (fun x => { x with cores := tput {} k {} x.cores })).dropLines (tget {} s.ktl.cores k)

/-- A completed tile of the running step stores its results (R142, R168). -/
def State.storeTile (s : State) (k c : Nat) (st : Step) (r : Run) : State :=
  let gi := s.guardIn c
  let p := k / 32
  let st' := if r.kind = 0 then s.runOrdinary c st p r else s.runRef c st p r (st.tilePairs r)
  let s := (s.freeCore k).guard c (fun _ => if r.kind = 1 then st'.recheckDone gi r else if r.kind = 2 then st'.gatherDone gi r else st')
  ((s.progress c).afterScore c).endTiles c

/-- A gradient tile has loaded, updated and stored its accumulators of G (R141, R362). -/
def State.storeGrads (s : State) (c : Nat) (st : Step) (p : Nat) (hv : HostView) (r : Run) : State :=
  let ws := st.gradTile hv r.g r.c r.s
  let s := ws.foldl (fun s w => (s.chargeMem p c 1 (ceilDiv w.2.length 64)).memWrite c 1 w.1 w.2 ⟨.gaccOut, tileKey r.g r.c⟩)
    (s.modStep c (fun st => { st with sc := { st.sc with done := tput 0 (tileKey r.g r.c) (r.s + 1) st.sc.done } }))
  s.progress c

/-- The staging accesses and lane cycles of a completed tile (R140, R362, R391). -/
def State.chargeTile (s : State) (c : Nat) (st : Step) (p : Nat) (r : Run) : State :=
  let s := s.staging p c
  if r.kind = 3 then s.energy p c 2 (16 * (st.gradBatch c r.s).length)
  else
    let e := st.tileEnds r
    let lc := laneCycles (tileFmt st r) (e.2 - e.1)
    s.energy p c lc.1 lc.2

/-- TILE_COMPLETE (R141, R142, R168, R362, R381, R384, R393). A streamed tile completes once all its lines have come (R152);
one whose image has gone from the Caddy since is abandoned and runs again (R10, R32). -/
def tileCompleteOp (k : Nat) (hv : HostView) (s : State) : State :=
  let r := tget {} s.ktl.cores k
  let p := k / 32
  if !s.alive || !r.busy || r.wait then s
  else
    let c := r.ctx
    match s.step? c with
    | none => (s.freeCore k).chargeTicks c (s.el - r.start)
    | some st =>
      if st.epoch ≠ r.epoch then (s.freeCore k).chargeTicks c (s.el - r.start)
      else if st.cancelled then
        let s := ((s.freeCore k).chargeTicks c (s.el - r.start)).chargeTile c st p r
        if s.tilesOf c = [] then s.dropFrame c else s
      else if r.kind = 3 then
        let s := ((s.freeCore k).chargeTicks c (s.el - r.start)).chargeTile c st p r
        if hv.fault ≠ 0 then s.ctxFault c hv.fault else (s.storeGrads c st p hv r).passFrame c
      else if s.linesHere c st p r = false then (if r.str then s else (s.freeCore k).passFrame c)
      else
        let s := (s.chargeTicks c (s.el - r.start)).chargeTile c st p r
        if s.tileBad c st p r then (s.freeCore k).ctxFault c 0x09 else (s.storeTile k c st r).passFrame c

def execTileComplete (core : Nat) (hv : HostView) (s : State) : Host.Outcome State Fault Refusal := .next (tileCompleteOp core hv s)

/- Faults found in arithmetic and storage -/

/-- A fault of lane `l` of a core (R31, R32): the core's spare lane takes its place, then a spare core of the pitch;
without one the logical core is unavailable. -/
def State.spareLane (s : State) (k l : Nat) : State :=
  let p := k / 32
  if tget 0 s.ktl.lanes k = 0 then s.remap p 0 (16 * k + l % 16)
  else if s.rdF (0xC0000 + 4 * p) 24 2 < 2 then s.remap p 1 k
  else s.modKtl (fun x => { x with gone := if x.gone.contains k then x.gone else x.gone ++ [k] })

/-- TILE_CHECK_FAIL (R10, R32): the tile's partial result is never used; its lane is spared where it is faulty, and the
tile starts again at once on the core as remapped, or becomes ready again where no core is left behind its number. -/
def tileCheckFailOp (k l : Nat) (spared : Bool) (s : State) : State :=
  let r := tget {} s.ktl.cores k
  if !s.alive || !r.busy then s
  else
    let s := if spared then s.detect.spareLane k l else s.detect
    match s.step? r.ctx with
    | none => s.freeCore k
    | some st =>
      if st.cancelled then
        let s := s.freeCore k
        if s.tilesOf r.ctx = [] then s.dropFrame r.ctx else s
      else if s.coreOk k then s.modKtl (fun x => { x with cores := tput {} k { r with start := s.el } x.cores })
      else (s.freeCore k).passFrame r.ctx

def execTileCheckFail (core lane : Nat) (spared : Bool) (s : State) : Host.Outcome State Fault Refusal :=
  .next (tileCheckFailOp core lane spared s)

/-- A tile in progress is abandoned, to be run again from its start (R10, R32). -/
def State.abandon (s : State) (k : Nat) : State :=
  let r := tget {} s.ktl.cores k
  if r.busy then (s.freeCore k).passFrame r.ctx else s

/-- The accumulators that a tile was to load are lost (R141): its slices run again from the first. -/
def State.loseAcc (s : State) (k : Nat) : State :=
  let r := tget {} s.ktl.cores k
  if !r.busy then s
  else
    let rj (j : RJob) : RJob := if j.id = r.g then { j with next := tput 0 r.c 0 j.next } else j
    let gj (j : GJob) : GJob := if j.id = r.g then { j with next := 0 } else j
    ((s.modStep r.ctx (fun st =>
      if st.epoch ≠ r.epoch then st
      else { st with sc := { st.sc with
        done := if r.kind = 0 then tput 0 (tileKey r.g r.c) 0 st.sc.done else st.sc.done
        rjobs := if r.kind = 1 then st.sc.rjobs.map rj else st.sc.rjobs
        gjobs := if r.kind = 2 then st.sc.gjobs.map gj else st.sc.gjobs } })).abandon k)

/-- A bank's contents are reloaded from host memory (R33): every image of the pitch that a step wants, since the spec does
not say which bank holds which image; the others go. -/
def State.reloadRegion (s : State) (p : Nat) : State :=
  let here (x : Img) : Bool := x.usable && decide (x.pitch = p)
  (s.ktl.imgs.filter (fun x => here x && decide (s.wanters x ≠ []))).foldl (fun s x =>
    s.reloadImage x (((s.wanters x).head?).getD x.loader) x.tries)
    (s.modKtl (fun x => { x with imgs := x.imgs.filter (fun y => !(here y && decide (s.wanters y = []))) }))

/-- A bank is lost, its spares exhausted (R152). DESIGN CHOICE (log entry 180): it is always a bank of the router region,
since the spec does not say which bank numbers hold images. -/
def State.loseBank (s : State) (p : Nat) : State :=
  let s := s.modKtl (fun x => { x with lostBanks := tput 0 p (tget 0 x.lostBanks p + 1) x.lostBanks })
  (State.shrinkRegion p s.ktl.imgs.length (State.makeRoom p 0 s.ktl.imgs.length s)).reloadRegion p

/-- A piece of a ring collective that a staging row holds fails parity (R300): the chunk at place `i` of the instance is bad. -/
def State.badPiece (s : State) (c k i : Nat) : State :=
  s.modInst c k (fun x => { x with rx := x.rx.zipIdx.map (fun r =>
    if r.2 = i ∧ x.stage = 1 ∧ r.1.h.gather = true then { r.1 with bad := true } else r.1) })

/-- STORAGE_PARITY_FAIL (R33, R141, R152, R240, R258, R300, R320). `kind`: 0 a Caddy row of image number `index`, read by the
tile on core `sub`; 1 a staging row of the accumulators of the tile on core `index`; 2 the hot record of context
`index`; 3 the forwarding-pool slot `index`; 4 the drain-table entry of context `index` and epoch `sub`; 5 Caddy bank
`index`, beyond its spare rows; 6 the held entry at place `index` of the steep hold; 7 the retry buffer of link port
`index`, which is not up; 8 a piece that the gather half of context `index`'s instance `sub` mod 512 holds, at place
`sub` ÷ 512 of what it has received. -/
def parityFailOp (kind p i sub : Nat) (s : State) : State :=
  let row (s : State) : State := (s.detect).remap p 3 i
  let alone := decide (s.pitchesUp.length ≤ 1)
  if !s.alive || !(s.pitchLive p) then s
  else match kind with
  | 0 =>
    match s.ktl.imgs.find? (fun x => decide (x.id = i ∧ x.pitch = p) && x.usable) with
    | none => s
    | some x => ((row s).abandon sub).reloadImage x (((s.wanters x).head?).getD x.loader) x.tries
  | 1 => if (tget {} s.ktl.cores i).busy && decide (i / 32 = p) then (row s).loseAcc i else s
  | 2 => if alone then (row s).ctxFault i 0x18 else row s
  | 3 =>
    match s.xch.pool.find? (fun x => decide (x.id = i ∧ x.where_ = 0 ∧ x.pitch = p)) with
    | none => s
    | some x =>
      let s := (if x.steep = 0 then (row s).count 0x50024 1 else (row s).count 0x7001C x.steep).purgeSlot i
      (s.noteDiscard x.h x.kind).setParts (fun ps => ps.filter (fun y => decide (y.slot ≠ i)))
  | 4 =>
    if s.drain.any (fun d => decide (d.ctx = i ∧ d.epoch = sub)) then
      if alone then (row s).ctxFault i 0x0E else row s
    else s
  | 5 => if s.rdF (0xC0000 + 4 * p) 22 2 < 2 then ((s.detect).remap p 2 i).reloadRegion p else (s.detect).loseBank p
  | 7 =>
    if (s.port i).st ≠ 2 ∧ (s.port i).retry ≠ [] ∧ portPitch i = p then (row s).retryLost i else s
  | 6 =>
    match s.hold[i]? with
    | none => s
    | some h => if h.rec_.pitch = p then ((row s).loseHeld h) else s
  | 8 => (row s).badPiece i (sub % 512) (sub / 512)
  | _ => s

def execStorageParityFail (kind pitch index sub : Nat) (s : State) : Host.Outcome State Fault Refusal :=
  .next (parityFailOp kind pitch index sub s)

end Sys2Proof.Machine
end

