-- ==== Sys2Proof/Machine/Returns.lean ====
section
/-! DEFINITION. What comes back from the host cores and from other chips: the checks of inbound packets (R58, R325),
of returns (R236, R328) and of shared rows (R329), cue dones (R263, R427), cancel dones (R394), drains (R238), the
steep hold's timer (R319). -/

namespace Sys2Proof.Machine

/- Inbound packets -/

/-- A packet of type `ty` passes the checks of R58: word parity, hcheck, beats against length. -/
def pktOk (p : Bytes) (par : List Bool) : Bool :=
  let n := 64 + (pktHeader p).length
  wordsParOk p par && crcOk 64 (p.take 64) && decide (n ≤ p.length) && decide (ceilDiv p.length 640 = ceilDiv n 640)

/-- A cue-lane word passes them: a header without payload (R54). -/
def wordOk (p : Bytes) (par : List Bool) : Bool :=
  wordsParOk p par && crcOk 64 (p.take 64) && decide (p.length = 64) && decide ((pktHeader p).length = 0)

/-- An inbound packet on point `a` is discarded (R58): counted, and noted by the cues that wait (R427). -/
def State.discardIn (s : State) (a : Nat) : State :=
  let s := s.countSat 0x40 16 16 1
  (s.stepsWhere (fun c _ st => st.por.cue.sent && !st.por.cue.done && (tentPitches (s.tentOf c)).contains (a / 8))).foldl
    (fun s c => s.modStep c (fun st => { st with por := { st.por with cue := { st.por.cue with disc := true } } })) s

/-- A packet that fails its parity or hcheck is lost: a detection (R424, R432). -/
def State.lostIn (s : State) (a : Nat) : State := s.detect.discardIn a

/-- An inbound packet is taken and recorded with its hcheck zero (R414); `tags`: places of its tags (R416). -/
def State.recordIn (s : State) (a : Nat) (p : Bytes) (tags : Option Nat) : State :=
  let h := pktHeader p
  let q := p.take 60 ++ zeros 4 ++ sub p 64 h.length
  s.record 6 a (some h.ctx) h.epoch s.now h.ptype (match tags with | some n => blankTags 64 n q | none => q) true

/-- Types that an inbound packet may have (R57); any other is reserved or Walik-2's own (R58). -/
def hostType (ty : Nat) : Bool := [8, 9, 12, 13].contains ty

/- Returns -/

/-- Counters of R328 and R329. -/
def porCancel : Nat := 0x80010
def porStale : Nat := 0x80014
def porBad : Nat := 0x80018
def porStray : Nat := 0x8001C
def porDup : Nat := 0x80020

/-- The epoch is the context's running step's. -/
def State.runs (s : State) (c e : Nat) : Option Step :=
  match s.step? c with
  | some st => if st.epoch = e then some st else none
  | none => none

/-- Model and layer of a context's step of an epoch, while they are known (R248, R265). -/
def State.modelOf (s : State) (c e : Nat) : Nat × Nat :=
  (((s.ctx c).past.find? (fun p => decide (p.1 = e))).map Prod.snd).getD (0, 0)

/-- A copy has had its first return: its chunk-table entry loses it, and goes when it was the last (R260). -/
def State.chunkReturn (s : State) (c e t r : Nat) : State :=
  let less (k : ChunkE) : ChunkE :=
    if k.ctx = c ∧ k.epoch = e ∧ k.kind = 1 then { k with left := k.left.filter (fun x => decide (x ≠ (t, r))) } else k
  let live (k : ChunkE) : Bool := decide (k.ctx ≠ c ∨ k.epoch ≠ e ∨ k.kind ≠ 1 ∨ k.steep = true ∨ k.left ≠ [])
  s.modXch (fun x => { x with table := (tmap none (fun _ o => o.map less) x.table).filter (fun k =>
    match k.2 with | some k => live k | none => false) })

/-- The count of a cancelled epoch falls by a copy's first return (R238). -/
def State.drainReturn (s : State) (c e t r : Nat) : State :=
  match s.drain.find? (fun d => decide (d.ctx = c ∧ d.epoch = e)) with
  | none => s
  | some d =>
    let left := d.left.filter (fun x => decide (x ≠ (t, r)))
    if left = [] then s.drained c e
    else { s with drain := s.drain.map (fun x => if x = d then { d with left := left } else x) }

/-- Slots of a row in the step's payload format. -/
def Step.rrow (st : Step) : Nat := Sys2Proof.Machine.rrow st.desc.payFmt st.bind.dir.d

/-- Bytes of a record of the step. -/
def Step.recBytes (st : Step) : Nat := recordBytes (rowBytes st.desc.payFmt st.bind.dir.d)

/-- Address of the kept row of a copy (R338). -/
def Step.keptAddr (st : Step) (t r : Nat) : Nat :=
  st.desc.gradAddr + 64 + 64 * st.desc.n + (t * st.desc.k + r - 1) * st.rrow

/-- A kept row is written (R338). -/
def State.keepRow (s : State) (c : Nat) (st : Step) (t r : Nat) (row : Bytes) : State :=
  if st.desc.kind = 2 ∧ st.desc.gradAddr ≠ 0 then
    let bs := exactly st.rrow row
    (s.memWrite c 1 (st.keptAddr t r) bs ⟨.keepOut, t * 8 + r - 1⟩).digestLines c 2 (st.keptAddr t r - st.desc.gradAddr) bs
  else s

/- Landing slots -/

/-- The pitch whose Pour unit combines token `t` (R323). -/
def State.pourPitch (s : State) (c t : Nat) : Nat :=
  let ps := tentPitches (s.tentOf c)
  ps.getD (t / 64 % max 1 ps.length) s.glb.anchor

/-- Landing slots of a token (R327): its shared rows', then its ranks'. -/
def Step.sharedSlot (st : Step) (t j : Nat) : Nat := t * (st.desc.k + st.samp.nSh) + j
def Step.rankSlot (st : Step) (t r : Nat) : Nat := t * (st.desc.k + st.samp.nSh) + st.samp.nSh + r - 1

/-- Slots in which a token's rows have landed. -/
def Step.slotsOf (st : Step) (t : Nat) : List Nat :=
  (((List.range 8).filter (fun j => decide (tget [] st.por.shared (t * 8 + j) ≠ []))).map (st.sharedSlot t)) ++
  (((List.range 8).filter (fun i => decide (tget [] st.por.rows (t * 8 + i) ≠ []))).map (fun i => st.rankSlot t (i + 1)))

/-- Slots of a step that a pitch's return cache holds (R327): landed, not combined, not spilled. -/
def State.cacheUse (s : State) (c : Nat) (st : Step) (p : Nat) : Nat :=
  (((List.range st.desc.n).filter (fun t => decide (s.pourPitch c t = p) && !(st.por.comb.contains t))).map (fun t =>
    ((st.slotsOf t).filter (fun i => !(st.por.spilled.contains i))).length)).foldl (· + ·) 0

/-- Bytes in the return cache of a pitch. -/
def State.cacheBytes (s : State) (p : Nat) : Nat :=
  ((s.stepsWhere (fun _ _ st => !st.cancelled && !st.ended)).map (fun c =>
    match s.step? c with
    | some st => s.cacheUse c st p * st.rrow
    | none => 0)).foldl (· + ·) 0

/-- A row has landed in slot `i` of token `t`: past the return cache of its pitch it spills to the context's pour region (R327;
DESIGN CHOICE, log entry 185: the slot that finds no room is the one that spills). -/
def State.slotLanded (s : State) (c t i : Nat) (row : Bytes) : State :=
  match s.step? c with
  | none => s
  | some st =>
    let p := s.pourPitch c t
    if s.cacheBytes p ≤ 65536 * s.rd 0x80004 then s
    else (s.modStep c (fun st => { st with por := { st.por with spilled := st.por.spilled ++ [i] } })).memWrite c 1
      (s.page2 c 0x50 + i * st.rrow) (exactly st.rrow row) ⟨.pourOut, i⟩

/-- A return lands in its slot (R328 row 6, R237, R268). -/
def State.landReturn (s : State) (c : Nat) (st : Step) (t r : Nat) (row : Bytes) : State :=
  let hit (e : SendSt) : Bool := decide (e.e.t = t ∧ e.e.rank = r)
  let s := s.modStep c (fun st => { st with
    rt := { st.rt with
      list := st.rt.list.map (fun e => if hit e then { e with ret := true } else e)
      outst := st.rt.outst - 1 }
    por := { st.por with rows := tput [] (t * 8 + r - 1) row st.por.rows }
    cnt := { st.cnt with quiet := s.el } })
  let s := (((s.slotLanded c t (st.rankSlot t r) row).keepRow c st t r row).chunkReturn c st.epoch t r).progress c
  if st.rt.outst = 1 then s.bump c 2 1 else s

/-- Outcome of a return of an active context at the Pour unit (R328). -/
def State.pourReturn (s : State) (c e t r fmt : Nat) (back : Bool) (rec_ : Bytes) : State :=
  if (s.ctx c).cancelled.contains e then (s.count porCancel 1).drainReturn c e t r
  else if !((s.ctx c).tracked.contains e) then s.count porStale 1
  else match s.runs c e with
  | none => s.count porStale 1
  | some st =>
    if back ≠ decide (st.desc.kind = 3) ∨ fmt ≠ st.desc.payFmt ∨ rec_.length ≠ st.recBytes then s.count porBad 1
    else match st.rt.list.find? (fun x => decide (x.e.t = t ∧ x.e.rank = r) && x.snt) with
    | none => s.count porStray 1
    | some x =>
      if x.ret then s.count porDup 1
      else s.landReturn c st t r (sub rec_ 16 (rowBytes st.desc.payFmt st.bind.dir.d))

/-- A tag check failed (R236). -/
def State.badTag (s : State) (c : Nat) : State :=
  let ts := s.el :: recent (2 ^ 20) s.el (s.ctx c).tagTimes
  let s := (s.count 0x40010 1).detect.modCtx c (fun x => { x with tagFail := satAdd 16 x.tagFail 1, tagTimes := ts })
  if s.rd 0x40008 ≤ ts.length then s.ctxFault c 0x0D else s

/-- A return reaches the chip that sent its copy (R236, R320). -/
def State.takeReturn (s : State) (fmt : Nat) (back : Bool) (rec_ : Bytes) : State :=
  let g := (decCopyH rec_).tag
  let c := tagCtx g
  if tagSteeped g then s.count 0x7001C 1
  else if !(s.ctx c).active then s.count porStale 1
  else if tagSrc g ≠ s.glb.chip then (s.count 0x40010 1).detect
  else if tagCheck (s.ctx c).key g ≠ g % 256 then s.badTag c
  else s.pourReturn c (tagEpoch g) (tagTok g) (tagRank g) fmt back rec_

/-- Beats of an answer packet: of steeped answers they are hold work of the first answer's entry (R308), else the
context is charged (R390). -/
def State.chargeAnswer (s : State) (a c e n : Nat) (g : Option Nat) : State :=
  match g with
  | some g =>
    if tagSteeped g then
      { s with hold := s.hold.map (fun h =>
          if h.ctx = c ∧ h.epoch = e ∧ h.rec_.tag = g then { h with work := h.work + ceilDiv n 640 } else h) }
    else s.chargeCore a c n true
  | none => s.chargeCore a c n true

/-- An answer to a steeped copy goes to its entry in the hold, with its packet's format and kind (R317, R318, R325). -/
def State.heldAnswer (s : State) (c e fmt : Nat) (back : Bool) (g : Nat) (row : Bytes) : State :=
  match s.hold.find? (fun h => decide (h.ctx = c ∧ h.epoch = e ∧ h.rec_.tag = g ∧ (h.st = 1 ∨ h.st = 3))) with
  | none => s.count 0x7001C 1
  | some h =>
    if h.st = 1 then { s with hold := s.hold.map (fun x => if x = h then { h with st := 2, ans := row, afmt := fmt, aback := back } else x) }
    else (({ s with hold := s.hold.filter (fun x => decide (x ≠ h)) } : State).holdWork h).queueRet
      (heldReturn c e h.rec_.pitch h.tag fmt back row)

/-- One record of an answer packet (R262). -/
def State.answerRec (s : State) (a c e fmt : Nat) (back : Bool) (rec_ : Bytes) : State :=
  let g := (decCopyH rec_).tag
  if tagSteeped g then s.heldAnswer c e fmt back g (rec_.drop 16)
  else if tagSrc g = s.glb.chip then (s.answered c e g).takeReturn fmt back rec_
  else s.queueRet ⟨tagSrc g, c, e, fmt, encCopyH ⟨g, 0, 0, 0, 0, false, false⟩ ++ rec_.drop 16, a / 8, back⟩

/-- One shared row (R329). -/
def State.sharedRow (s : State) (c e j t fmt : Nat) (row : Bytes) : State :=
  let x := s.ctx c
  if x.active ∧ x.cancelled.contains e = true then s.count porCancel 1
  else match (if x.active && x.tracked.contains e then s.runs c e else none) with
  | none => s.count porStale 1
  | some st =>
    if j < 8 ∧ tget [] st.por.shared (t * 8 + j) ≠ [] then s.count porDup 1
    else if st.por.cue.sent = false ∨ st.samp.nSh ≤ j ∨ st.desc.n ≤ t ∨ fmt ≠ st.desc.payFmt ∨ st.por.cue.done = true then
      s.count porStray 1
    else
      let row := row.take (rowBytes fmt st.bind.dir.d)
      ((s.modStep c (fun st => { st with por := { st.por with
        shared := tput [] (t * 8 + j) row st.por.shared
        shIn := st.por.shIn + 1
        shAt := s.el } })).slotLanded c t (st.sharedSlot t j) row).progress c

/-- The items of a payload, `n` of `k` bytes. -/
def itemsOf (n k : Nat) (bs : Bytes) : List Bytes := (List.range n).map (fun i => sub bs (k * i) k)

/-- Row width of the step with an epoch: the running one, or a cancelled one that has not drained (R325). None where this chip
knows no such step: every such packet is discarded by its context or epoch. -/
def State.widthOf (s : State) (c e : Nat) : Option Nat :=
  match s.runs c e with
  | some st => some st.bind.dir.d
  | none => (s.drain.find? (fun d => decide (d.ctx = c ∧ d.epoch = e))).map DrainE.d

/-- Answers for a context that is not active or an epoch that is not tracked (R58, R328): those to steeped copies find no entry
(R317). -/
def State.staleAnswers (s : State) (items : List Bytes) : State :=
  let n := (items.filter (fun r => tagSteeped (decCopyH r).tag)).length
  (s.count 0x7001C n).count porStale (items.length - n)

/-- A packet of expert outputs or input gradients of type `ty` arrives (R58, R262, R324, R325). -/
def State.answers (s : State) (ty a : Nat) (p : Bytes) (par : List Bool) : State :=
  let h := pktHeader p
  if !s.on || !(s.ptUp a) then s
  else if !(pktOk p par) then s.lostIn a
  else if !(hostType h.ptype) then s.discardIn a
  else if h.ptype ≠ ty then s
  else
    let shared := bit (fld p 16 1) 0
    let fmt := fld p 18 1
    let d := s.widthOf h.ctx h.epoch
    let k := match d with
      | some d => if shared then roundUp 16 (rowBytes fmt d) else recordBytes (rowBytes fmt d)
      | none => h.length / max 1 h.count
    if h.length ≠ h.count * k then s.discardIn a
    else
      let s := s.recordIn a p (if shared then none else some k)
      let items := itemsOf h.count k (sub p 64 h.length)
      let s := s.chargeAnswer a h.ctx h.epoch (64 + h.length) (if shared then none else items.head?.map (fun r => (decCopyH r).tag))
      if shared then
        items.zipIdx.foldl (fun s q => s.sharedRow h.ctx h.epoch (fld p 17 1) (fld p 20 4 + q.2) fmt q.1) s
      else if !((s.ctx h.ctx).active) || !((s.ctx h.ctx).tracked.contains h.epoch || (s.ctx h.ctx).cancelled.contains h.epoch) then
        s.staleAnswers items
      else items.foldl (fun s r => s.answerRec a h.ctx h.epoch fmt (decide (ty = 9)) r) s

/-- EXPERT_OUTPUTS. -/
def execExpertOutputs (point : Nat) (packet : Bytes) (par : List Bool) (s : State) : Host.Outcome State Fault Refusal :=
  .next (s.answers 8 point packet par)

/-- EXPERT_INPUT_GRADIENTS. -/
def execExpertInputGradients (point : Nat) (packet : Bytes) (par : List Bool) (s : State) : Host.Outcome State Fault Refusal :=
  .next (s.answers 9 point packet par)

/-- RETURN_CHUNK_LANDED (R236, R328). -/
def returnChunkOp (s : State) : State :=
  if !s.on then s
  else match ltake (fun l : Landed => decide (l.ch.ckind = 2)) s.xch.inbox with
  | none => s
  | some (l, r) =>
    (itemsOf l.ch.nrec (recordBytes' l.ch) l.data).foldl (fun s x => s.takeReturn l.ch.fmt l.ch.back x)
      (s.modXch (fun x => { x with inbox := r }))

def execReturnChunkLanded (s : State) : Host.Outcome State Fault Refusal := .next (returnChunkOp s)

/-- RETURN_DRAIN_TIMEOUT (R238). -/
def drainTimeoutOp (c e : Nat) (s : State) : State :=
  if s.on && s.drain.any (fun d => decide (d.ctx = c ∧ d.epoch = e ∧ d.at_ + s.rd 0x4000C ≤ s.el)) then s.ctxFault c 0x0E else s

def execReturnDrainTimeout (ctx epoch : Nat) (s : State) : Host.Outcome State Fault Refusal := .next (drainTimeoutOp ctx epoch s)

/-- STEEP_HOLD_TIMEOUT (R319): the oldest entries whose time is over are freed. -/
def holdTimeoutOp (s : State) : State :=
  let ovr (h : HoldE) : Bool := decide (h.st ≠ 3) && decide (h.at_ + s.rd 0x70008 ≤ s.el)
  if s.on then { s.count 0x70018 (s.hold.filter ovr).length with hold := s.hold.filter (fun h => !(ovr h)) } else s

def execSteepHoldTimeout (s : State) : Host.Outcome State Fault Refusal := .next (holdTimeoutOp s)

/- Cues -/

/-- A cue word (R263): its body's 36 bytes and the cue_id. -/
def cueBytes (c e pt id : Nat) (body : Bytes) : Bytes :=
  mkPktH ⟨4, c, e, 0, 0xFFF, pt, 0⟩ (exactly 36 body ++ le 4 id)

/-- Body of the shared-expert cue (R263). -/
def Step.cueBody (st : Step) : Bytes :=
  let d := st.desc
  le 8 d.inAddr ++ le 4 d.inStride ++ le 4 d.n ++ le 1 d.model ++ le 1 d.layer ++ le 1 d.inFmt

/-- Send the shared-expert cue of a step that has not sent it (R263). -/
def State.stepCue (s : State) (c : Nat) : State :=
  match s.step? c with
  | none => s
  | some st =>
    if !(st.desc.flag 4) || st.por.cue.sent || st.cancelled then s
    else
      let pt := s.firstPt (s.allocPitch c)
      let w := cueBytes c st.epoch pt 0xFFFFFFFF st.cueBody
      (s.modStep c (fun st => { st with por := { st.por with
        cue := { id := 0xFFFFFFFF, sent := true, at_ := s.el, word := w, point := pt } } })).sendPacket pt c w false

/-- Send the cue again with the same body, or raise the shared-expert fault after two resends (R427). -/
def State.cueAgain (s : State) (c : Nat) (st : Step) : State :=
  let q := st.por.cue
  if 2 ≤ q.resends then s.ctxFault c 0x10
  else
    let pt := if s.ptUp q.point then q.point else s.firstPt (q.point / 8)
    (s.modStep c (fun st => Step.redone { st with por := { st.por with cue := { q with
      resends := q.resends + 1
      disc := false
      at_ := s.el } } })).sendPacket pt c q.word false

/-- CUE_DONE (R58, R263, R268, R270, R329, R427). -/
def cueDoneOp (a : Nat) (p : Bytes) (par : List Bool) (s : State) : State :=
  let h := pktHeader p
  let c := h.ctx
  let id := fld p 16 4
  let bad := decide (fld p 20 1 ≠ 0)
  if !s.on || !(s.ptUp a) then s
  else if !(wordOk p par) then s.lostIn a
  else if !(hostType h.ptype) then s.discardIn a
  else if h.ptype ≠ 12 then s
  else match (if (s.ctx c).active then s.runs c h.epoch else none) with
  | none => s.discardIn a
  | some st =>
    let chain := match st.chains[id]? with
      | some ch => decide (ch.c.op = 5 ∧ ch.st = 2)
      | none => false
    let q := st.por.cue
    if id = 0xFFFFFFFF ∧ q.sent = true ∧ q.done = false ∧ st.cancelled = false then
      let s := (s.recordIn a p none).chargeCore a c 64 false
      if bad then s.ctxFault c 0x10
      else if st.por.shIn < st.desc.n * st.samp.nSh then
        if q.disc then s.cueAgain c st else s.ctxFault c 0x10
      else (s.modStep c (fun st => { st with por := { st.por with cue := { q with done := true } } })).bump c 3 1
    else if id ≠ 0xFFFFFFFF ∧ chain = true then
      let s := (s.recordIn a p none).chargeCore a c 64 false
      if bad then s.ctxFault c 0x10
      else if st.cancelled then s.chainDone c id else (s.bump c 3 1).chainDone c id
    else s.discardIn a

def execCueDone (point : Nat) (word : Bytes) (par : List Bool) (s : State) : Host.Outcome State Fault Refusal :=
  .next (cueDoneOp point word par s)

/-- CANCEL_DONE (R58, R394). -/
def cancelDoneOp (a : Nat) (p : Bytes) (par : List Bool) (s : State) : State :=
  let id := fld p 16 4
  if !s.alive || !(s.ptUp a) then s
  else if !(wordOk p par) then s.lostIn a
  else if !(hostType (pktHeader p).ptype) then s.discardIn a
  else if (pktHeader p).ptype ≠ 13 then s
  else match s.core.cancels.find? (fun w => decide (w.id = id)) with
  | none => s.discardIn a
  | some w =>
    let s := (s.recordIn a p none).chargeCore a w.ctx 64 false
    (if fld p 20 1 ≠ 0 then s.event 0x33 w.ctx id (fld p 20 1) else s).cancelFin w

def execCancelDone (point : Nat) (word : Bytes) (par : List Bool) (s : State) : Host.Outcome State Fault Refusal :=
  .next (cancelDoneOp point word par s)

/-- CUE_QUIET_EXPIRE (R427). -/
def cueQuietOp (c : Nat) (s : State) : State :=
  match s.step? c with
  | none => s
  | some st =>
    let q := st.por.cue
    if s.on && (s.ctx c).active && q.sent && !q.done && !st.cancelled && decide (max q.at_ st.por.shAt + s.rd 0xC0014 ≤ s.el) then
      s.cueAgain c st
    else s

def execCueQuietExpire (ctx : Nat) (s : State) : Host.Outcome State Fault Refusal := .next (cueQuietOp ctx s)

end Sys2Proof.Machine
end

