-- ==== Sys2Proof/Machine/Pours.lean ====
section
/-! DEFINITION. The combine of a token and the writing of its row (R323, R330 to R342), special functions counted
(R221, R391). -/

namespace Sys2Proof.Machine

/-- The governor of a pitch lets new work begin (R471). -/
def State.paceOk (s : State) (p : Nat) : Bool := decide ((s.pitch p).win ≤ (s.pitch p).iLim)

/-- `n` special-function operations in pitch `p` for context `c`, with their NaN and infinity counts (R221, R391). -/
def State.sfn (s : State) (p c n : Nat) (k : SfnCnt) : State :=
  ((s.count 0x100004 k.nan).count 0x100008 k.inf).energy p c 7 n

/-- Every shared row of a token has landed (R330). -/
def Step.sharedIn (st : Step) (t : Nat) : Bool :=
  (List.range st.samp.nSh).all (fun j => decide (tget [] st.por.shared (t * 8 + j) ≠ []))

/-- A landed row as exact values (R326). -/
def Step.landed (st : Step) (bs : Bytes) : List FVal := landedVals st.desc.payFmt st.bind.dir.d bs

/-- Shared rows of a token, each with weight 1 (R331). -/
def Step.sharedVals (st : Step) (t : Nat) : List (W32 × List FVal) :=
  (List.range st.samp.nSh).map (fun j => (one32, st.landed (tget [] st.por.shared (t * 8 + j))))

/-- Served choices of a token in ascending served expert, with their ranks (R331). -/
def servedOf (tr : TokR) : List (Nat × Pick) :=
  sortBy (fun a b => decide (a.2.via < b.2.via)) ((tr.picks.zipIdx.filter (fun p => decide (p.1.st ≤ 1))).map (fun p => (p.2 + 1, p.1)))

/-- The copy of a rank: none where the step could send none (R243), else whether its return has landed. -/
def Step.copyIn (st : Step) (t r : Nat) : Option Bool :=
  (st.rt.list.find? (fun x => decide (x.e.t = t ∧ x.e.rank = r))).map SendSt.ret

/-- The accumulators of a token with choices, once everything has landed (R330, R331, R339). -/
def Step.servedRow (st : Step) (t : Nat) (tr : TokR) : Option (List W32) :=
  let sv := (servedOf tr).filter (fun q => (st.copyIn t q.1).isSome)
  if st.sharedIn t && sv.all (fun q => decide (st.copyIn t q.1 = some true)) then
    some (combineRows st.bind.dir.d (st.sharedVals t ++
      sv.map (fun q => (q.2.w, st.landed (tget [] st.por.rows (t * 8 + q.1 - 1))))))
  else none

/-- The shared sum of a token, once its rows have landed (R330). -/
def Step.sharedSum (st : Step) (t : Nat) : Option (List W32) :=
  if st.sharedIn t then some (combineRows st.bind.dir.d (st.sharedVals t)) else none

/-- The output of a token (R330): none while something is awaited, otherwise its accumulators; none of those where its
row is not written. -/
def Step.pourRow (st : Step) (t : Nat) : Option (Option (List W32)) :=
  let d := st.bind.dir.d
  if maskBit st.sc.mask0 t then
    some (if st.samp.exitZero then some (List.replicate d 0#32) else none)
  else if st.desc.kind = 3 then
    match st.rt.ledger.find? (fun l => decide (l.1 = t)) with
    | none => (st.sharedSum t).map some
    | some l => if st.rt.alloc then (st.servedRow t l.2.2).map some else none
  else if (st.tok t).ph ≠ 4 then none
  else match (st.tok t).tr.out with
  | .pending => none
  | .nonfinite => some (some (List.replicate d canonNaN))
  | .exits => (st.sharedSum t).map some
  | .skips => (st.sharedSum t).map some
  | .takes => if st.rt.alloc then (st.servedRow t (st.tok t).tr).map some else none

/-- The gradient entry of a token (R340 to R342): gw and gs, and what the special functions counted. -/
def Step.gradients (st : Step) (hv : HostView) (t : Nat) : List W32 × List W32 × SfnCnt :=
  match st.rt.ledger.find? (fun l => decide (l.1 = t)) with
  | none => ([], [], ⟨0, 0⟩)
  | some l =>
    let d := st.bind.dir.d
    let tr := l.2.2
    let dy := landedVals st.desc.inFmt d ((st.row t).getD [])
    let gw := tr.picks.zipIdx.map (fun p =>
      if p.1.st ≤ 1 then weightGrad dy (st.landed (hv1 hv (st.keptAddr t (p.2 + 1)) (rowBytes st.desc.payFmt d))) else 0#32)
    let sc := tr.picks.map Pick.score
    (gw, scoreGrads st.samp.w1 l.2.1 st.desc.zeroMode tr gw, sfnCount sc (softmax st.samp.w1 sc))

/-- A gradient entry's 64 bytes (R342). -/
def gradBytes (gw gs : List W32) : Bytes :=
  exactly 32 (gw.flatMap (fun w => le 4 w.toNat)) ++ exactly 32 (gs.flatMap (fun w => le 4 w.toNat))

/-- A backward step that writes gradients (R342). -/
def Step.writesGrads (st : Step) : Bool := decide (st.desc.kind = 3) && decide (st.desc.gradAddr ≠ 0)

/-- Write a token's gradient entry. -/
def State.writeGrad (s : State) (c t : Nat) (st : Step) (hv : HostView) : State :=
  if !st.writesGrads then s
  else
    let g := st.gradients hv t
    let bs := gradBytes g.1 g.2.1
    let off := 64 + 64 * t
    let s := g.1.zipIdx.foldl (fun s q => s.chargeRead c 1 (st.keptAddr t (q.2 + 1)) (rowBytes st.desc.payFmt st.bind.dir.d)) s
    let s := s.sfn (s.pourPitch c t) c g.1.length g.2.2
    (s.memWrite c 1 (st.desc.gradAddr + off) bs ⟨.gradOut, t⟩).digestLines c 2 off bs

/-- Write a token's output row (R334). -/
def State.writeRow (s : State) (c t : Nat) (st : Step) (acc : List W32) : State :=
  let bs := outBytes st.desc.outFmt acc
  ((s.staging (s.pourPitch c t) c).memWrite c 1 (st.desc.outAddr + t * st.desc.outStride) bs ⟨.outRow, t⟩).digest c 0 t bs

/-- A token's turn has come (R335): in strict mode, after every lower token. -/
def Step.pourTurn (st : Step) (t : Nat) : Bool :=
  decide (t < st.desc.n) && !(st.por.comb.contains t) &&
  (!st.samp.strict || (List.range t).all st.por.comb.contains)

/-- Spilled slots of a token that its combine needs and that have not been read back (R327). -/
def Step.spilledOf (st : Step) (t : Nat) : List Nat := (st.slotsOf t).filter (fun i => st.por.spilled.contains i && !(st.por.back.contains i))

/-- Number of a spilled slot's read. -/
def slotIdx (e i : Nat) : Nat := e * 2 ^ 32 + i

/-- Read a slot of the pour region back (R327), in traffic class 1 and parts of 4 KiB. -/
def State.readSlot (c : Nat) (st : Step) (s : State) (i : Nat) : State :=
  (List.range (ceilDiv st.rrow 4096)).foldl (fun s k =>
    s.memPost (readReq c 1 (s.page2 c 0x50 + i * st.rrow + 4096 * k) (min 4096 (st.rrow - 4096 * k)) ⟨.pourRead, slotIdx st.epoch i⟩)) s

/-- Ask for the spilled slots of a token that have not been asked for. -/
def State.readSlots (s : State) (c t : Nat) (st : Step) : State :=
  let is := (st.spilledOf t).filter (fun i => !(st.por.asked.contains i))
  is.foldl (State.readSlot c st) (s.modStep c (fun st => { st with por := { st.por with asked := st.por.asked ++ is } }))

/-- POUR_COMBINE (R327, R330 to R335, R339 to R342). -/
def pourCombineOp (c t : Nat) (hv : HostView) (s : State) : State :=
  match s.step? c with
  | none => s
  | some st =>
    let rowOk := !st.writesGrads || (st.row t).isSome || (st.rt.ledger.all (fun l => decide (l.1 ≠ t)))
    if !s.on || !(s.ctx c).active || !st.launched || st.cancelled || st.ended || !st.desc.tokens || !(st.pourTurn t) || !rowOk ||
        (st.writesGrads && !(s.paceOk (s.pourPitch c t))) then s
    else match st.pourRow t with
    | none => s
    | some o =>
      if st.spilledOf t ≠ [] then s.readSlots c t st
      else if hv.fault ≠ 0 then s.ctxFault c hv.fault
      else
        let s := match o with
          | some acc => s.writeRow c t st acc
          | none => s
        (s.writeGrad c t st hv).modStep c (fun st => { st with por := { st.por with comb := st.por.comb ++ [t] } })

def execPourCombine (ctx token : Nat) (hv : HostView) (s : State) : Host.Outcome State Fault Refusal :=
  .next (pourCombineOp ctx token hv s)

end Sys2Proof.Machine
end

