-- ==== Sys2Proof/Machine/Allocate.lean ====
section
/-! DEFINITION. Allocation of a step (R185 to R199), its send list and spill (R225 to R228, R244), the decision for
weights-to-tokens with its cache (R264, R265), the opening of the route counts (R230, R292). -/

namespace Sys2Proof.Machine

/- Allocation -/

/-- Tokens with choices, in ascending index. -/
def Step.takers (st : Step) : List (Nat × TokR) :=
  (st.sc.toks.map (fun t => (t, (st.tok t).tr))).filter (fun x => decide (x.2.out = .takes))

/-- Positions in expert choice (R199): seats of a column by ascending token index, those of released pairs included. -/
def Step.ecSeats (st : Step) (ts : List (Nat × TokR)) : List (Nat × TokR) :=
  ts.map (fun x => (x.1, { x.2 with picks := x.2.picks.map (fun p =>
    { p with
      st := 0
      via := p.e
      pos := (st.quotaBase p.e).2 + (ts.filter (fun y => decide (y.1 < x.1) && (st.tok y.1).set_.contains p.e)).length }) }))

/-- The allocation of a step (R186, R187, R193, R199). -/
def Step.allocated (st : Step) : List (Nat × TokR) × Table Nat :=
  let ts := st.takers.map (fun x => (x.1, firstWeights st.samp.w1 x.2))
  if st.samp.ec then (st.ecSeats ts, [])
  else
    let qb := st.reals.map (fun e => (e, st.quotaBase e))
    let at_ (e : Nat) : Option Nat × Nat := ((qb.find? (fun x => decide (x.1 = e))).map Prod.snd).getD (some 0, 0)
    let r := allocRanks (isNull st.bind.table) (fun e => (at_ e).1) (fun e => (at_ e).2) st.desc.reach st.desc.k 1 ts []
    (r.1.map (fun x => (x.1, finalWeights st.desc.zeroMode x.2)), r.2)

/-- Choices of a state (R187). -/
def picksIn (ts : List (Nat × TokR)) (k : Nat) : Nat :=
  (ts.map (fun x => (x.2.picks.filter (fun p => decide (p.st = k))).length)).foldl (· + ·) 0

/-- What the special functions of the weights counted (R221). -/
def weightCounts (ts : List (Nat × TokR)) (w1 : Bool) : Nat × SfnCnt :=
  ts.foldl (fun a x =>
    let sc := x.2.picks.map Pick.score
    if sc.length ≤ 1 then a else (a.1 + sc.length, sfnAdd a.2 (sfnCount sc (softmax w1 sc)))) (0, ⟨0, 0⟩)

/-- Gather pairs of the candidates that allocation gave a choice (R168, R169). -/
def Step.candPairs (st : Step) (ts : List (Nat × TokR)) : List GPair :=
  if st.bind.dir.lfmt = 1 then []
  else ts.flatMap (fun x =>
    if (st.tok x.1).full then []
    else (x.2.cands.filter (fun c => decide (c.rank ≠ 0) && !((st.tok x.1).amb.contains c.e))).map (fun c => ⟨x.1, c.e, 1⟩))

/-- A taken candidate whose score a targeted recheck has given (R166). -/
def Step.knownCands (st : Step) (t : Nat) (tr : TokR) : TokR :=
  if st.bind.dir.lfmt = 1 then tr
  else { tr with cands := tr.cands.map (fun c => if (st.tok t).amb.contains c.e then { c with score := st.ref t c.e } else c) }

/-- Positions taken of an expert's capacity: in expert choice, those of released seats among them (R192, R199). -/
def Step.usedOf (st : Step) (used : Table Nat) (e : Nat) : Nat :=
  if st.samp.ec then (st.takers.filter (fun x => (st.tok x.1).set_.contains e)).length else tget 0 used e

/-- Rows [lo, hi) of each resolved slot of each expert, as (slot, first row, rows): R226's count and first row. -/
def Step.slotRows (st : Step) (used : Table Nat) : List (Nat × Nat × Nat) :=
  (st.reals.filter (fun e => decide (0 < st.usedOf used e))).flatMap (fun e =>
    let base := (st.quotaBase e).2
    let d := st.depth e
    (st.res e).zipIdx.map (fun x =>
      let lo := max base (x.2 * d)
      let hi := min (base + st.usedOf used e) ((x.2 + 1) * d)
      (x.1, lo - x.2 * d, hi - lo)))

/-- The step with its allocation, slot counts and send list (R193, R226, R227). -/
def Step.allocate (st : Step) : Step :=
  let a := st.allocated
  let rows := st.slotRows a.2
  let ovr := picksIn a.1 1
  let drop := picksIn a.1 3
  let pairs := st.candPairs a.1
  let st := a.1.foldl (fun st x => st.modTok x.1 (fun k => { k with tr := st.knownCands x.1 x.2 })) st
  let list := (sendList st.bind.table st.res st.depth a.1).map (fun e => ({ e := e } : SendSt))
  let filled (i : Nat) : Nat := (list.filter (fun e => decide (e.e.slot = i))).length
  { st.addPairs pairs with
    rt := { st.rt with
      used := a.2
      alloc := true
      cnt := rows.foldl (fun t r => tput 0 r.1 (if st.samp.ec then filled r.1 else r.2.2) t) []
      first := rows.foldl (fun t r => tput 0 r.1 r.2.1 t) []
      list := list }
    cnt := { st.cnt with
      ovr := st.cnt.ovr + ovr
      drop := st.cnt.drop + drop
      qflags := st.cnt.qflags ||| (if st.cnt.ovr + ovr = 0 then 0 else 4) ||| (if st.cnt.drop + drop = 0 then 0 else 8) } }

/- Weights to tokens -/

/-- The image a cache entry keys (R265). -/
def W2tE.isFor (w : W2tE) (st : Step) (x : Nat × Nat) : Bool :=
  decide (w.model = st.desc.model ∧ w.layer = st.desc.layer ∧ w.owner = x.1 ∧ w.loc = x.2 ∧ w.wver = st.bind.wver)

/-- Lowest offset of a cache of `size` bytes at which `len` bytes are free. -/
def w2tGap (es : List W2tE) (size len : Nat) : Option Nat :=
  let offs := sortBy (fun a b => decide (a < b)) (0 :: es.map (fun w => w.off + roundUp 64 w.len))
  offs.find? (fun o => decide (o + len ≤ size) && es.all (fun w => decide (o + roundUp 64 len ≤ w.off ∨ w.off + w.len ≤ o)))

/-- Make room for one image (R265): the least recently used entries that `keep` does not name go first. -/
def w2tFit (size len : Nat) (keep : W2tE → Bool) : Nat → List W2tE → Option (Nat × List W2tE)
  | 0, es => (w2tGap es size len).map (fun o => (o, es))
  | n + 1, es =>
    match w2tGap es size len with
    | some o => some (o, es)
    | none =>
      match leastBy (fun a b => decide (a.used < b.used)) (es.filter (fun w => !(keep w))) with
      | none => none
      | some v => w2tFit size len keep n (es.filter (fun w => decide (w ≠ v)))

/-- Place the images that a step needs (R265); none where they do not fit at once. -/
def w2tPlace (size now : Nat) (st : Step) (need : List (Nat × Nat)) (es : List W2tE) : Option (List W2tE) :=
  let keep (w : W2tE) : Bool := need.any (w.isFor st)
  let es := (es.filter (fun w => decide (w.got = w.len))).map (fun w => if keep w then { w with used := now } else w)
  need.foldl (fun o x =>
    match o with
    | none => none
    | some es =>
      if es.any (fun w => w.isFor st x) then some es
      else
        let len := Config.pullSize x.1 x.2 st.desc.model st.desc.layer st.bind.wver
        (w2tFit size len keep es.length es).map (fun r =>
          r.2 ++ [{ model := st.desc.model, layer := st.desc.layer, owner := x.1, loc := x.2, wver := st.bind.wver,
                    off := r.1, len := len, used := now }])) (some es)

/-- Remote experts with copies of this source, each once (R264, R265). -/
def Step.remotes (st : Step) (own : Nat) : List (Nat × Nat) :=
  (st.rt.list.filter (fun e => decide (e.e.chip ≠ own))).foldl (fun a e =>
    if a.contains (e.e.chip, e.e.loc) then a else a ++ [(e.e.chip, e.e.loc)]) []

/-- First byte of the context's cache (R265). -/
def State.w2tBase (s : State) (c : Nat) : Nat := s.page2 c 0x70

/-- Read an image of the cache for the host cores (R265), in parts of 4 KiB. -/
def State.readTile (s : State) (c i : Nat) (w : W2tE) : State :=
  (List.range (ceilDiv w.len 4096)).foldl (fun s k =>
    s.memPost (readReq c 1 (s.w2tBase c + w.off + 4096 * k) (min 4096 (w.len - 4096 * k)) ⟨.tileRead, i * 2 ^ 20 + k⟩)) s

/-- Request of a pull (R265). -/
def pullReq (loc laddr : Nat) : Bytes := le 1 2 ++ zeros 1 ++ le 2 loc ++ zeros 4 ++ le 8 laddr

/-- Begin weights-to-tokens: pulls of what the cache lacks, tiles of what it holds (R265). -/
def State.startW2t (s : State) (c : Nat) (st : Step) (need : List (Nat × Nat)) (es : List W2tE) : State :=
  let s := s.modCtx c (fun x => { x with w2t := es })
  let s := s.modStep c (fun st => { st with ext := { st.ext with w2t := true, need := need } })
  need.zipIdx.foldl (fun s x =>
    match es.find? (fun w => w.isFor st x.1) with
    | none => s
    | some w =>
      if w.got = w.len then
        (s.modStep c (fun st => { st with ext := { st.ext with tiles := tput 0 x.2 1 st.ext.tiles } })).readTile c x.2 w
      else
        let p : OutPiece := ⟨c, st.epoch, x.1.1, false, 5, 2, 1, 0, st.bind.wver, pullReq x.1.2 (s.w2tBase c + w.off), 256⟩
        s.modXch (fun y => { y with xfers := y.xfers ++ [p] })) s

/-- Decide between weights-to-tokens and tokens-to-weights (R264): the counts' completion left the cache's size where the
other cases hold. -/
def State.decideW2t (s : State) (c : Nat) : State :=
  match s.step? c with
  | none => s
  | some st =>
    match st.ext.want with
    | none => s
    | some size =>
      let need := st.remotes s.glb.chip
      match w2tPlace size s.el st need (s.ctx c).w2t with
      | none => s
      | some es => s.startW2t c st need es

/- The send list in memory, the exit mask -/

/-- First byte of the send list's region in host memory (R244): the ledger's copy section, or ledger_addr in kind 1. -/
def Step.listBase (st : Step) : Nat :=
  let nrec := if st.desc.kind = 3 then st.rt.ledger.length else st.takers.length
  st.desc.ledgerAddr + (if st.desc.kind = 1 then 0 else 64 + 128 * nrec)

/-- Spill of a list longer than the sampled SRT_LIST_CAP holds (R242, R244): the entries past it are written, in order, to
host memory. A backward step's list stands in its ledger already. -/
def State.spillList (s : State) (c : Nat) : State :=
  match s.step? c with
  | none => s
  | some st =>
    let n := st.samp.listCap / 16
    let rest := st.rt.list.drop n
    if rest = [] then s
    else
      let s := (s.count 0x40014 1).modStep c (fun st => { st with rt := { st.rt with staged := some n } })
      let bs := rest.flatMap (fun e => sendBytes c st.epoch s.glb.chip e.e)
      if st.desc.kind = 3 then s else State.memWriteAny c 1 ⟨.spillOut, 0⟩ (ceilDiv bs.length 4032) (st.listBase + 16 * n) bs s

/-- Write the lines of the exit mask that changed (R184). -/
def State.writeExits (s : State) (c : Nat) : State :=
  match s.step? c with
  | none => s
  | some st =>
    if st.desc.exitAddr = 0 then s
    else (List.range (ceilDiv st.desc.n 512)).foldl (fun s i =>
      let l := sub st.sc.mask (64 * i) 64
      if l = sub st.sc.mask0 (64 * i) 64 then s
      else (s.memWrite c 1 (st.desc.exitAddr + 64 * i) l ⟨.exitOut, i⟩).digest c 1 i l) s

/-- Steeped copies' link bytes are charged at their tokens' pour (R308). -/
def State.chargeSteeped (s : State) (c : Nat) (st : Step) : State :=
  let n := (st.ext.flits.map Prod.snd).foldl (· + ·) 0
  (s.acctAdd c 2 (256 * n)).energy (s.allocPitch c) c 4 n

/-- The route counts open, and what a list without remote copies does (R230, R263). -/
def State.listDone (s : State) (c : Nat) : State :=
  match s.step? c with
  | none => s
  | some st =>
    let s := s.openInst c (intInst st 0x102)
    let remote := !st.ext.w2t && st.rt.list.any (fun e => decide (e.e.chip ≠ s.glb.chip))
    if remote then s else s.stepCue c

/-- STRAINER_ALLOCATE (R185 to R199, R225 to R230, R264). -/
def allocateOp (c : Nat) (s : State) : State :=
  match s.step? c with
  | none => s
  | some st =>
    let due := st.launched && !st.cancelled && !st.ended && !st.rt.alloc && (decide (st.desc.kind = 1) || decide (st.desc.kind = 2)) &&
      st.rt.counts && st.allRanked && (!st.samp.ec || st.rt.ecTest)
    if !s.on || !(s.ctx c).active || !due || !(s.paceOk (s.allocPitch c)) then s
    else
      let st' := st.allocate
      let w := weightCounts st.takers st.samp.w1
      let s := (s.modStep c (fun _ => st')).sfn (s.allocPitch c) c w.1 w.2
      ((((s.chargeSteeped c st').writeExits c).decideW2t c).spillList c).listDone c |>.endTiles c

def execStrainerAllocate (ctx : Nat) (s : State) : Host.Outcome State Fault Refusal := .next (allocateOp ctx s)

end Sys2Proof.Machine
end

