-- ==== Sys2Proof/Machine/Sends.lean ====
section
/-! DEFINITION. Formation of chunks (R247 to R251, R260, R262), replay (R425), steeped copies (R308 to R316), copy chunks
at their destination (R261, R317), expert weight data (R265). -/

namespace Sys2Proof.Machine

/-- Most content of a chunk (R250). -/
def chunkMax : Nat := 60416

/-- A step's chunk has been formed (R425, R509). -/
def State.formed (s : State) (c : Nat) (replay : Bool) : State :=
  let s := s.modStep c (fun st => { st with cnt := { st.cnt with quiet := s.el } })
  if replay then s else s.progress c

/- Returns -/

/-- Length of the prefix of records that fits in a chunk. -/
def fitRecs : Nat → List Bytes → Nat
  | _, [] => 0
  | used, b :: r => if used + b.length ≤ chunkMax then 1 + fitRecs (used + b.length) r else 0

/-- Form a return chunk of context `c` (R250, R262), or let it wait for an entry (R260). The flag says that one was formed. -/
def State.formReturns (s : State) (c : Nat) : State × Bool :=
  let w : FormWait := ⟨0, c, 1⟩
  match s.xch.retq.find? (fun r => decide (r.ctx = c)) with
  | none => (s, false)
  | some r0 =>
    let same (r : RetRec) : Bool := decide (r.ctx = c ∧ r.epoch = r0.epoch ∧ r.src = r0.src ∧ r.fmt = r0.fmt ∧ r.back = r0.back)
    let rs := s.xch.retq.filter same
    let rs := rs.take (fitRecs 32 (rs.map RetRec.bytes))
    if s.mayForm w then
      let d := s.modelOf c r0.epoch
      let data := rs.flatMap RetRec.bytes
      let left := rs.length
      let drop (q : List RetRec) : List RetRec := (q.foldl (fun (a : Nat × List RetRec) r =>
        if same r && decide (a.1 < left) then (a.1 + 1, a.2) else (a.1, a.2 ++ [r])) (0, [])).2
      let t := (s.endWait w).takeChunk { ctx := c, epoch := r0.epoch, kind := 2, cls := 1, left := [], steep := false, dst := r0.src }
      let s := t.2.modXch (fun x => { x with retq := drop x.retq })
      ((s.launchChunk c r0.epoch r0.src t.1 3 5 (s.mverOf c)
        ⟨2, r0.back, 5, false, rs.length, data.length, 0, d.1, d.2, r0.fmt, 0⟩ data).formed c false, true)
    else (s.waitForm w, false)

/- Raw data and requests -/

/-- What a waiting piece waits for. -/
def OutPiece.wait (p : OutPiece) : FormWait := ⟨1, p.ctx, p.cls⟩

/-- Send a piece that has its entry's leave (R260, R270). -/
def State.sendPiece (s : State) (p : OutPiece) : State :=
  let c := p.ctx
  let d := s.modelOf c p.epoch
  let w := decide (p.kind = 3)
  let h : ChunkH := ⟨p.kind, false, 5, false, 0, p.data.length, p.addr, if w then d.1 else 0, if w then d.2 else 0, 0, p.wver⟩
  let t := (s.endWait p.wait).takeChunk
    { ctx := c, epoch := p.epoch, kind := p.kind, cls := p.cls, left := [], steep := false, dst := if p.up then 8192 + p.dst else p.dst
      ref := p.ref, len := p.data.length }
  let mver := s.mverOf c
  let s := if p.up then t.2.launchUp c p.epoch p.dst t.1 p.vc mver h p.data
    else t.2.launchChunk c p.epoch p.dst t.1 p.vc 5 mver h p.data
  (if c = 0 then s.refProgress p.ref else s).formed c false

/-- Form the chunk of the oldest waiting piece of context `c` that an entry is there for; the others wait (R260). The flag says
that one was formed. -/
def State.formPiece (s : State) (c : Nat) : State × Bool :=
  match ltake (fun p : OutPiece => decide (p.ctx = c) && s.mayForm p.wait) s.xch.xfers with
  | some (p, rest) => ((s.modXch (fun x => { x with xfers := rest })).sendPiece p, true)
  | none => ((s.xch.xfers.filter (fun p => decide (p.ctx = c))).foldl (fun s p => s.waitForm p.wait) s, false)

/- Copies -/

/-- Chip to which a copy goes: this chip itself in weights-to-tokens (R264). -/
def Step.chipOf (st : Step) (own : Nat) (e : SendE) : Nat := if st.ext.w2t then own else e.chip

/-- A copy that waits for its chunk, or for its resend. -/
def SendSt.waits (e : SendSt) : Bool := !e.ret && (!e.snt || e.again)

/-- Row of a copy in the payload format (R249). -/
def Step.payRow (st : Step) (t : Nat) : Option Bytes :=
  let d := st.bind.dir.d
  (st.row t).map (fun r =>
    if st.desc.payFmt = st.desc.inFmt then r
    else if st.desc.payFmt ≠ 1 ∧ rowNonfinite st.desc.inFmt d r = true then Config.nonfiniteRow st.desc.payFmt r
    else encRow st.desc.payFmt (rowVals st.desc.inFmt d r))

/-- A confirmed copy's record (R233 to R235, R249). -/
def State.copyOf (s : State) (c : Nat) (st : Step) (e : SendE) (row : Bytes) : Bytes :=
  copyRecord ⟨keyTag (s.ctx c).key (mkTag c st.epoch s.glb.chip e.t e.rank false), e.row, e.chip, e.slot, e.loc, e.shad, e.ovr⟩ row

/-- Copies that a shadow takes over leave the chunk that carried them, as they are sent again (R247, R260). -/
def State.leaveChunks (s : State) (c : Nat) (st : Step) (es : List SendSt) : State :=
  (es.filter SendSt.moved).foldl (fun s e => s.chunkReturn c st.epoch e.e.t e.e.rank) s

/-- Mark copies as sent in chunk `n` (R237): resends do not count again. -/
def State.markSent (s : State) (c n : Nat) (es : List SendSt) : State :=
  let hit (e : SendSt) : Bool := es.any (fun x => decide (x.e.t = e.e.t ∧ x.e.rank = e.e.rank))
  let news := (es.filter (fun e => !e.snt)).length
  s.modStep c (fun st => { st with rt := { st.rt with
    list := st.rt.list.map (fun e => if hit e then { e with
      snt := true
      chunk := n
      resends := e.resends + b2n e.snt
      again := false
      moved := false } else e)
    outst := st.rt.outst + news } })

/-- A record to land on this chip. -/
def landRecOf (bs : Bytes) (back : Bool) (fmt now pitch : Nat) : LandRec :=
  let h := decCopyH bs
  { slot := h.slot, row := h.row, tag := h.tag, bytes := bs, back := back, fmt := fmt, at_ := now, pitch := pitch }

/-- Entry `i` of the send list is at hand: staging holds it, or its part of the spilled list has been read back (R244). -/
def Step.listAt (st : Step) (i : Nat) : Bool :=
  match st.rt.staged with
  | none => true
  | some n => decide (i < n) || st.rt.back.contains ((i - n) / 256)

/-- Read back the part of the spilled list that holds entry `i` (R244): 256 entries, in traffic class 1. -/
def State.askList (s : State) (c : Nat) (st : Step) (i : Nat) : State :=
  match st.rt.staged with
  | none => s
  | some n =>
    let k := (i - n) / 256
    if i < n ∨ st.rt.asked.contains k = true then s
    else (s.modStep c (fun st => { st with rt := { st.rt with asked := st.rt.asked ++ [k] } })).memPost
      (readReq c 1 (st.listBase + 16 * (n + 256 * k)) (min 4096 (16 * (st.rt.list.length - n - 256 * k))) ⟨.spillRead, st.epoch * 2 ^ 20 + k⟩)

/-- Waiting copies for this chip, by place in the list. -/
def State.localWait (s : State) (st : Step) : List (SendSt × Nat) :=
  st.rt.list.zipIdx.filter (fun e => e.1.waits && decide (st.chipOf s.glb.chip e.1.e = s.glb.chip))

/-- Those of them whose rows and entries are there. -/
def State.localCopies (s : State) (st : Step) : List SendSt :=
  ((s.localWait st).filter (fun e => (st.payRow e.1.e.t).isSome && st.listAt e.2)).map Prod.fst

/-- The copies for this chip pass directly to the core port (R251, R261). -/
def State.sendLocal (s : State) (c : Nat) (st : Step) (es : List SendSt) : State :=
  let rec_ (e : SendSt) : LandRec := landRecOf (s.copyOf c st e.e ((st.payRow e.e.t).getD [])) (decide (st.desc.kind = 3)) st.desc.payFmt s.el (s.allocPitch c)
  let s := s.markSent c 0 es
  let s := (s.landRecs c ((es.filter (fun e => !e.again)).map rec_) false)
  s.landRecs c ((es.filter SendSt.again).map rec_) true

/-- Rotated order of destinations (R251). -/
def State.rotation (s : State) (tab : Table Nat) (d : Nat) : Nat :=
  let p := entPos (tget 0 tab d)
  let f (a : Nat) : Nat := (p.at_ a + s.torus.at_ a - s.own.at_ a % s.torus.at_ a) % s.torus.at_ a
  (f 0 * 16 + f 1) * 16 + f 2

/-- Consecutive copies of one chunk (R250), from a list with places: those that have been sent stand between. -/
def copyRun (rb dst own : Nat) (st : Step) (again : Bool) : Nat → List (SendSt × Nat) → List SendSt
  | _, [] => []
  | used, e :: r =>
    if e.1.waits = false then copyRun rb dst own st again used r
    else if st.chipOf own e.1.e = dst ∧ e.1.again = again ∧ used + rb ≤ chunkMax ∧ (st.payRow e.1.e.t).isSome = true ∧ st.listAt e.2 = true then
      e.1 :: copyRun rb dst own st again (used + rb) r
    else []

/-- The copy with which a step's next dispatch chunk begins, with its place: by the rotated order of destinations (R251), in a
backward step in the order of the copy section (R243, R275). -/
def State.nextCopy (s : State) (st : Step) : Option (SendSt × Nat) :=
  let own := s.glb.chip
  let wait := st.rt.list.zipIdx.filter (fun e => e.1.waits && decide (st.chipOf own e.1.e ≠ own))
  if st.desc.kind = 3 then wait.head?
  else leastBy (fun a b => decide (s.rotation st.bind.tab a.1.e.chip < s.rotation st.bind.tab b.1.e.chip)) wait

/-- Copies of a step's next dispatch chunk (R250, R251). -/
def State.nextChunk (s : State) (st : Step) : List SendSt :=
  match s.nextCopy st with
  | none => []
  | some e => copyRun st.recBytes e.1.e.chip s.glb.chip st e.1.again 32 (st.rt.list.zipIdx.drop e.2)

/-- A chip that no dimension order reaches is treated as lost (R247, R255): its copies go to the slots' shadows. -/
def State.lostFor (s : State) (c : Nat) (st : Step) (l : Nat) : State :=
  if st.rt.list.any (fun e => decide (e.e.chip = l) && !e.ret && (s.shadowOf st e.e.slot).isNone) then s.ctxFault c 0x1A
  else s.modStep c (fun st => if st.rt.list.any SendSt.again then (s.rewriteFor st l).redone else s.rewriteFor st l)

/-- Form the next dispatch chunk of a step (R250 to R252, R263). -/
def State.sendRemote (s : State) (c : Nat) (st : Step) : State :=
  match s.nextChunk st with
  | [] => s
  | e0 :: r =>
    let es := e0 :: r
    let w : FormWait := ⟨2, c, 1⟩
    let data := es.flatMap (fun e => s.copyOf c st e.e ((st.payRow e.e.t).getD []))
    let t := ((s.leaveChunks c st es).endWait w).takeChunk
      { ctx := c, epoch := st.epoch, kind := 1, cls := 1, left := es.map (fun e => (e.e.t, e.e.rank)), steep := false, dst := e0.e.chip }
    let s := (t.2.markSent c t.1 es).launchChunk c st.epoch e0.e.chip t.1 2 0 st.bind.mver
      ⟨1, decide (st.desc.kind = 3), 0, e0.again, es.length, data.length, 0, st.desc.model, st.desc.layer, st.desc.payFmt, 0⟩ data
    (s.formed c e0.again).stepCue c

/-- The step may send copies: its route counts are in (R230, R238). -/
def Step.maySend (st : Step) : Bool := st.rt.alloc && st.dst.known && !st.cancelled && !st.ended

/-- A dispatch chunk of the step could be formed now (R251, R260, R471): its local copies are gone. -/
def State.sendReady (s : State) (c : Nat) (st : Step) : Bool :=
  (s.ctx c).active && st.maySend && decide (s.localCopies st = []) && decide (s.nextChunk st ≠ []) && s.mayForm ⟨2, c, 1⟩ &&
  s.paceOk (s.allocPitch c)

/-- The order of steps by launch tick (R251); ties by context. -/
def turnLt (a b : Nat × Nat) : Bool := decide (a.1 < b.1) || (decide (a.1 = b.1) && decide (a.2 < b.2))

/-- Launch tick and number of a context with a step. -/
def State.turnKey (s : State) (c : Nat) : Nat × Nat :=
  match s.step? c with
  | some st => (st.cnt.tLaunch, c)
  | none => (0, c)

/-- The context whose step is in turn for a dispatch chunk (R251): the next after the one that formed the last, of those that
could form one. -/
def State.turnOf (s : State) : Option Nat :=
  let cs := s.stepsWhere (fun c _ st => s.sendReady c st)
  let lt (a b : Nat) : Bool := turnLt (s.turnKey a) (s.turnKey b)
  match leastBy lt (cs.filter (fun c => turnLt s.xch.turn (s.turnKey c))) with
  | some c => some c
  | none => leastBy lt cs

/-- What a step's dispatch lacks, or its chunk when its turn has come (R244, R251, R255, R260). -/
def State.dispatch (s : State) (c : Nat) (st : Step) : State :=
  match s.nextCopy st with
  | none => s
  | some e =>
    if s.noWay (s.tabFor st.bind.mver) e.1.e.chip then s.lostFor c st e.1.e.chip
    else if !(st.listAt e.2) then s.askList c st e.2
    else if s.nextChunk st = [] then s
    else if !(s.mayForm ⟨2, c, 1⟩) then s.waitForm ⟨2, c, 1⟩
    else if s.turnOf = some c then (s.modXch (fun x => { x with turn := s.turnKey c })).sendRemote c st
    else s

/-- Copies of a running step: local ones first (R251). -/
def State.sendCopies (s : State) (c : Nat) (st : Step) : State :=
  if !st.maySend then s
  else
    let es := s.localCopies st
    if es ≠ [] then (s.sendLocal c st es).formed c (es.all SendSt.again)
    else match (s.localWait st).find? (fun e => !(st.listAt e.2)) with
    | some e => (s.askList c st e.2).dispatch c st
    | none => s.dispatch c st

/-- Ring segments that waited for an entry, then the copies of the running step. -/
def State.formStep (s : State) (c : Nat) : State :=
  match s.step? c with
  | none => s
  | some st =>
    let s := st.insts.foldl (fun s x => s.go c x.cinst) s
    match s.step? c with
    | none => s
    | some st => s.sendCopies c st

/-- CHUNK_FORM (R250, R251, R260, R262, R471): returns first, then waiting raw data, local copies, one dispatch chunk;
ring segments that waited for an entry. -/
def chunkFormOp (c : Nat) (s : State) : State :=
  let act := decide (c = 0) || (s.ctx c).active
  if !s.on || !act || !(s.paceOk (s.allocPitch c)) then s
  else
    let r := s.formReturns c
    if r.2 then r.1
    else
      let p := r.1.formPiece c
      if p.2 then p.1 else p.1.formStep c

def execChunkForm (ctx : Nat) (_hv : HostView) (s : State) : Host.Outcome State Fault Refusal := .next (chunkFormOp ctx s)

/-- REPLAY_QUIET_EXPIRE (R425): every copy without a return goes again. The timer is one of the detectors of R424 (R432). -/
def replayOp (c : Nat) (s : State) : State :=
  match s.step? c with
  | none => s
  | some st =>
    if s.on && (s.ctx c).active && !st.cancelled && !st.ended && decide (st.rt.outst ≠ 0) && st.rt.list.all SendSt.snt &&
        decide (st.cnt.quiet + s.rd 0xC0014 ≤ s.el) then
      s.detect.modStep c (fun st => Step.redone { st with
        rt := { st.rt with list := st.rt.list.map (fun e => if e.ret then e else { e with again := true }) }
        cnt := { st.cnt with
          quiet := s.el
          replays := st.cnt.replays + 1 } })
    else s

def execReplayQuietExpire (ctx : Nat) (s : State) : Host.Outcome State Fault Refusal := .next (replayOp ctx s)

/- Steeped copies -/

/-- The mix of R181 that places an affinity entry (R311). -/
def State.affAddr (s : State) (c q m l : Nat) : Nat :=
  s.page2 c 0x80 + 32 * ((mix64 (BitVec.ofNat 64 (Nat.xor (Nat.xor q (m * 2 ^ 40)) (l * 2 ^ 48)))).toNat % 2 ^ s.page c 0x88)

/-- An affinity entry (R310). -/
structure AffE where
  count : Nat
  stamp : Nat
  experts : List Nat
  deriving DecidableEq, Repr, Inhabited

/-- Reading of an affinity entry for a key (R311); none is absent. -/
def parseAff (b : Bytes) (q m l : Nat) : Option AffE :=
  let v := fld b 6 1
  if crcOk 32 b = true ∧ fld b 0 4 = q ∧ bits (fld b 4 1) 0 6 = m ∧ fld b 5 1 = l ∧ bits v 0 4 ≠ 0 then
    some ⟨bits v 0 4, fld b 8 4, (List.range (min 8 (bits v 4 4))).map (fun i => fld b (12 + 2 * i) 2)⟩
  else none

/-- Order of prediction (R313). -/
def votes (a b : List Nat) : List Nat :=
  let all := (a ++ b).foldl (fun xs e => if xs.contains e then xs else xs ++ [e]) []
  let pos (xs : List Nat) (e : Nat) : Nat := (xs.findIdx? (fun y => decide (y = e))).getD 99
  let v (e : Nat) : Nat := b2n (a.contains e) + b2n (b.contains e)
  let key (e : Nat) : Nat := ((2 - v e) * 128 + pos a e) * 128 + pos b e
  sortBy (fun x y => decide (key x < key y) || (decide (key x = key y) && decide (x < y))) all

/-- Steep quota of an expert (R314). -/
def Step.steepQuota (st : Step) : Nat := st.desc.steepField * st.desc.k * st.desc.nDec / (256 * nReal st.bind.table)

/-- The slot to which a steeped copy of an expert goes (R314). -/
def Step.steepSlot (st : Step) (e : Nat) : Option Nat :=
  let rs := st.res e
  rs[st.bind.idx * rs.length / max 1 st.bind.mem.length]?

/-- The prediction of a token (R313), as expert and slot. -/
def State.predict (s : State) (c : Nat) (st : Step) (hv : HostView) (q : Nat) : List (Nat × Nat) :=
  let m := st.desc.model
  let l := st.desc.layer
  let get (l : Nat) : Option AffE := parseAff (hv1 hv (s.affAddr c q m l) 32) q m l
  let a := get l
  let b := if l = 0 then none else
    match a, get (l - 1) with
    | some x, some y => if y.stamp ≤ x.stamp then none else some y
    | _, y => y
  let ex (o : Option AffE) : List Nat := match o with | some x => x.experts | none => []
  let w := bits st.samp.spc 12 4
  let width := min 8 (max 1 w)
  ((votes (ex a) (ex b)).filterMap (fun e =>
    if st.bind.table.nExp ≤ e ∨ isNull st.bind.table e = true ∨ st.steepQuota ≤ tget 0 st.ext.quota e then none
    else match st.steepSlot e with
    | none => none
    | some i => if (st.bind.table.slots.getD i default).chip = s.glb.chip then none else some (e, i))).take (min width st.desc.k)

/-- The step steeps (R309). -/
def State.steepOn (s : State) (c : Nat) (st : Step) : Bool :=
  decide (st.desc.kind = 1) && st.desc.flag 0 && bit st.samp.spc 0 && decide (1 ≤ s.page c 0x88 ∧ s.page c 0x88 ≤ 20) &&
  decide (bits st.samp.spc 4 8 ≤ (s.ctx c).affObs) && decide (st.desc.steepField ≠ 0) && !st.samp.ec && !st.ext.w2t && !st.rt.alloc &&
  st.launched && !st.cancelled

/-- Tokens that may be steeped (R309), ascending. -/
def State.steepable (s : State) (c : Nat) (st : Step) : List Nat :=
  if s.steepOn c st then st.sc.toks.filter (fun t => decide (t < st.desc.nDec) && !(st.ext.steeped.contains t) && (st.row t).isSome && !(st.rowBad t)) else []

/-- A confirmed copy of some step waits for formation (R310). -/
def State.copyWaits (s : State) : Bool :=
  s.stepsWhere (fun _ _ st => st.maySend && st.rt.list.any SendSt.waits) ≠ []

/-- Chip of a predicted copy. -/
def Step.steepChip (st : Step) (p : Nat × Nat × Nat × Nat) : Nat := (st.bind.table.slots.getD p.2.2.2 default).chip

/-- A steeped copy's record (R315). -/
def State.steepRec (s : State) (c : Nat) (st : Step) (p : Nat × Nat × Nat × Nat) : Bytes :=
  let sl := st.bind.table.slots.getD p.2.2.2 default
  copyRecord ⟨keyTag (s.ctx c).key (mkTag c st.epoch s.glb.chip p.1 (p.2.1 + 1) true), 0, sl.chip, p.2.2.2, sl.loc, decide (sl.kind = 2), false⟩
    ((st.payRow p.1).getD [])

/-- Link flits of a steeped chunk, charged to the tokens of its records (R308): each record's share, the rest to the first. -/
def steepFlits (n : Nat) (ps : List (Nat × Nat × Nat × Nat)) (t : Table Nat) : Table Nat :=
  let k := n / ps.length
  match ps with
  | [] => t
  | p :: _ => tput 0 p.1 (tget 0 (shares k) p.1 + (n - k * ps.length)) (shares k)
where
  /-- the same share for each record -/
  shares (k : Nat) : Table Nat := ps.foldl (fun t p => tput 0 p.1 (tget 0 t p.1 + k) t) t

/-- One chunk of steeped copies for one chip (R310, R315, R316). One for a chip with no route is dropped (R320). -/
def State.steepChunk (s : State) (c : Nat) (st : Step) (dst : Nat) (ps : List (Nat × Nat × Nat × Nat)) : State :=
  if s.noWay (s.tabFor st.bind.mver) dst then s.count 0x7001C ps.length
  else
    let data := ps.flatMap (s.steepRec c st)
    let k := s.takeChunk { ctx := c, epoch := st.epoch, kind := 1, cls := 1, left := [], steep := true, dst := dst, len := ps.length }
    let s := k.2.launchChunk c st.epoch dst k.1 2 0 st.bind.mver
      ⟨1, false, 0, false, ps.length, data.length, 0, st.desc.model, st.desc.layer, st.desc.payFmt, 0⟩ data
    let s := (s.count 0x70010 ps.length).modStep c (fun st => { st with
      ext := { st.ext with flits := steepFlits (max 16 (ceilDiv (32 + data.length) 236)) ps st.ext.flits }
      cnt := { st.cnt with qflags := st.cnt.qflags ||| 32 } })
    s.formed c false

/-- Predicted copies of one chunk (R250): consecutive ones for one chip, as many as fit. -/
def steepRun (st : Step) (dst : Nat) : Nat → List (Nat × Nat × Nat × Nat) → List (Nat × Nat × Nat × Nat)
  | _, [] => []
  | used, p :: r =>
    if st.steepChip p = dst ∧ used + st.recBytes ≤ chunkMax then p :: steepRun st dst (used + st.recBytes) r else []

/-- Predict the copies of the next token (R310, R313, R314): they follow those that wait. -/
def State.steepNext (s : State) (c : Nat) (hv : HostView) (st : Step) (t : Nat) : Step :=
  let ps := s.predict c st hv (st.sc.seqs.getD t 0)
  { st with ext := { st.ext with
    steeped := st.ext.steeped ++ [t]
    spend := st.ext.spend ++ ps.zipIdx.map (fun p => (t, p.2, p.1.1, p.1.2))
    quota := ps.foldl (fun q p => tput 0 p.1 (tget 0 q p.1 + 1) q) st.ext.quota } }

/-- Predict token after token while the next chunk could take more (R250, R310). -/
def State.steepFill (s : State) (c : Nat) (hv : HostView) : List Nat → Step → Step
  | [], st => st
  | t :: r, st =>
    let whole := match st.ext.spend with
      | [] => true
      | p :: _ => decide ((steepRun st (st.steepChip p) 32 st.ext.spend).length = st.ext.spend.length)
    if whole then State.steepFill s c hv r (s.steepNext c hv st t) else st

/-- STEEPED_COPY_SEND (R309 to R316): one chunk of the copies of the lowest tokens not yet steeped, formed after every waiting
formation of other chunks (R260, R310). -/
def steepSendOp (c : Nat) (hv : HostView) (s : State) : State :=
  match s.step? c with
  | none => s
  | some st =>
    if !s.on || !(s.ctx c).active || !(s.steepOn c st) || s.copyWaits || !(s.mayForm ⟨9, c, 1⟩) || !(s.paceOk (s.allocPitch c)) ||
        decide (hv.fault ≠ 0) then s
    else
      let st' := s.steepFill c hv (s.steepable c st) st
      match st'.ext.spend with
      | [] => s.modStep c (fun _ => st')
      | p :: _ =>
        let d := st'.steepChip p
        let ps := steepRun st' d 32 st'.ext.spend
        let st' := { st' with ext := { st'.ext with spend := st'.ext.spend.drop ps.length } }
        (s.modStep c (fun _ => st')).steepChunk c st' d ps

def execSteepedCopySend (ctx : Nat) (hv : HostView) (s : State) : Host.Outcome State Fault Refusal := .next (steepSendOp ctx hv s)

/- At the destination -/

/-- Bytes that a held entry reserves: its record and its answer (R317). -/
def HoldE.size (h : HoldE) : Nat := 2 * h.rec_.bytes.length

/-- A steeped copy lands in the hold of its pitch, or is discarded (R317, R318). -/
def State.holdCopy (s : State) (c e src : Nat) (r : LandRec) : State :=
  let used := ((s.hold.filter (fun h => decide (h.rec_.pitch = r.pitch))).map HoldE.size).foldl (· + ·) 0
  match s.runs c e with
  | none => s.count 0x7001C 1
  | some st =>
    if st.cancelled || decide (s.rd 0x70004 * 65536 < used + 2 * r.bytes.length) ||
        st.dst.served.contains (tagSrc r.tag, tagTok r.tag, r.slot) || decide (tagEpoch r.tag ≠ e) then s.count 0x7001C 1
    else { s with hold := s.hold ++ [{ ctx := c, epoch := e, rec_ := { r with steep := true }, src := src, at_ := s.el }] }

/-- COPY_CHUNK_LANDED (R261, R317, R426). -/
def copyChunkOp (s : State) : State :=
  if !s.on then s
  else match ltake (fun l : Landed => decide (l.ch.ckind = 1)) s.xch.inbox with
  | none => s
  | some (l, r) =>
    let s := s.modXch (fun x => { x with inbox := r })
    let recs := (itemsOf l.ch.nrec (recordBytes' l.ch) l.data).map (fun b => landRecOf b l.ch.back l.ch.fmt s.el l.pitch)
    let steep := recs.filter (fun r => tagSteeped r.tag)
    let firm := recs.filter (fun r => !(tagSteeped r.tag))
    let act := (s.ctx l.ctx).active
    let s := steep.foldl (fun s r => if act then s.holdCopy l.ctx l.epoch l.src r else s.count 0x7001C 1) s
    let s := steep.foldl (fun s r => s.flushHeld l.ctx r.slot) s
    match (if act then s.runs l.ctx l.epoch else none) with
    | none => s
    | some st => if st.cancelled || decide (firm = []) then s else s.landRecs l.ctx firm l.ch.resend

def execCopyChunkLanded (s : State) : Host.Outcome State Fault Refusal := .next (copyChunkOp s)

/-- Images whose pull is complete are read for the host cores (R265). -/
def State.w2tReady (s : State) (c : Nat) : State :=
  match s.step? c with
  | none => s
  | some st =>
    if s.unitOut c .w2tOut then s
    else st.ext.need.zipIdx.foldl (fun s x =>
      match (s.ctx c).w2t.find? (fun w => w.isFor st x.1) with
      | none => s
      | some w =>
        if w.got < w.len ∨ st.ext.have_.contains x.1 = true ∨ tget 0 st.ext.tiles x.2 ≠ 0 then s
        else (s.modStep c (fun st => { st with ext := { st.ext with tiles := tput 0 x.2 1 st.ext.tiles } })).readTile c x.2 w) s

/-- WEIGHT_DATA_CHUNK (R265): the data go to the cache entry that the address names. -/
def weightDataOp (s : State) : State :=
  if !s.on then s
  else match ltake (fun l : Landed => decide (l.ch.ckind = 3)) s.xch.inbox with
  | none => s
  | some (l, r) =>
    let s := s.modXch (fun x => { x with inbox := r })
    let off := l.ch.addr - s.w2tBase l.ctx
    let hit (w : W2tE) : Bool := decide (w.got < w.len ∧ w.owner = l.src ∧ w.wver = l.ch.wver ∧ s.w2tBase l.ctx ≤ l.ch.addr ∧
      w.off ≤ off ∧ off + l.data.length ≤ w.off + w.len)
    match (if (s.ctx l.ctx).active then s.runs l.ctx l.epoch else none) with
    | none => s
    | some _ =>
      if (s.ctx l.ctx).w2t.any hit then
        let s := s.modCtx l.ctx (fun x => { x with w2t := x.w2t.map (fun w => if hit w then { w with got := w.got + l.data.length } else w) })
        s.memWrite l.ctx 1 l.ch.addr l.data ⟨.w2tOut, 0⟩
      else s

def execWeightDataChunk (s : State) : Host.Outcome State Fault Refusal := .next (weightDataOp s)

/-- A part of an image has been read from the cache: its packet of type 0x2 goes out (R265). -/
def State.tileBack (s : State) (c idx a : Nat) (data : Bytes) : State :=
  match s.step? c with
  | none => s
  | some st =>
    let i := idx / 2 ^ 20
    let k := idx % 2 ^ 20
    match st.ext.need[i]? with
    | none => s
    | some x =>
      match (s.ctx c).w2t.find? (fun w => w.isFor st x) with
      | none => s
      | some w =>
        let o := (s.w2tBase c + w.off + 4096 * k) - a
        let bs := sub data o (min 4096 (w.len - 4096 * k))
        let slot := ((st.rt.list.find? (fun e => decide (e.e.chip = x.1 ∧ e.e.loc = x.2))).map (fun e => e.e.slot)).getD 0xFFF
        let q := s.outPoint (8 * s.allocPitch c + slot % 8)
        let body := le 1 st.desc.model ++ le 1 st.desc.layer ++ le 2 x.2 ++ le 2 x.1 ++ zeros 2 ++ le 4 st.bind.wver ++ le 8 (4096 * k) ++ le 4 w.len
        let s := q.2.sendPacket q.1 c (mkPktH ⟨2, c, st.epoch, bs.length, slot, q.1, 1⟩ body ++ bs) true
        let more (r : MemReq) : Bool := decide (r.ctx = c ∧ r.why.unit = .tileRead ∧ r.why.idx / 2 ^ 20 = i)
        if s.mem.wait.any more || s.mem.chs.any (fun ch => ch.out.any (fun o => more o.req)) then s
        else (s.modStep c (fun st => { st with ext := { st.ext with have_ := st.ext.have_ ++ [x] } })).flushAll c

end Sys2Proof.Machine
end

