-- ==== Sys2Proof/Machine/Chains.lean ====
section
/-! DEFINITION. The chains' operations (R121, R269 to R272, R281) and what their chunks and messages do at the peer:
put, get and background data, requests (R265, R447), counter adds (R271). -/

namespace Sys2Proof.Machine

/- Traffic classes -/

/-- Channel of a class (R272): the second one is that of chunks of kind 0x6. -/
def vcOfCls (cls : Nat) (get : Bool) : Nat :=
  if cls = 0 then 1 else if cls = 1 then (if get then 3 else 2) else if cls = 2 then 4 else 5

/-- Class of a channel (R272). -/
def clsOfVc (vc : Nat) : Nat := if vc ≤ 1 then 0 else if vc ≤ 3 then 1 else if vc = 4 then 2 else 3

/-- Raw bytes of a chunk (R250). -/
def rawMax : Nat := 60352

/-- Raw data cut into the pieces of chunks (R248, R250): `p` gives everything but address and bytes. -/
def cutPieces (p : OutPiece) (a : Nat) (bs : Bytes) : List OutPiece :=
  (partsOf rawMax (bs.length + 1) bs).zipIdx.map (fun x => { p with addr := a + rawMax * x.2, data := x.1 })

/-- Pieces wait for their chunks (R260). -/
def State.postPieces (s : State) (ps : List OutPiece) : State := s.modXch (fun x => { x with xfers := x.xfers ++ ps })

/- Chains -/

/-- Chain `i` of context `c`, with its step, when its op is `op` and an agent takes it now (R267). -/
def State.chainGo (s : State) (c i op : Nat) : Option (Step × Chn) :=
  match s.step? c with
  | none => none
  | some st =>
    match st.chains[i]? with
    | none => none
    | some ch => if s.on && (s.ctx c).active && decide (ch.c.op = op) && s.chainTurn c i then some (st, ch) else none

/-- CHAIN_PUT (R270). -/
def chainPutOp (c i : Nat) (hv : HostView) (s : State) : State :=
  match s.chainGo c i 1 with
  | none => s
  | some (st, ch) =>
    let d := ch.c
    let s := s.chainStart c i d.len
    if d.len = 0 then s.chainDone c i
    else if hv.fault ≠ 0 then s.ctxFault c hv.fault
    else
      let p : OutPiece := ⟨c, st.epoch, d.peer, false, 4, vcOfCls d.cls false, d.cls, 0, 0, [], i⟩
      (s.chargeRead c d.cls d.laddr d.len).postPieces (cutPieces p d.raddr (hv1 hv d.laddr d.len))

def execChainPut (ctx index : Nat) (hv : HostView) (s : State) : Host.Outcome State Fault Refusal := .next (chainPutOp ctx index hv s)

/-- Request of a get (R265). -/
def getReq (len laddr : Nat) : Bytes := le 1 1 ++ zeros 1 ++ le 2 0 ++ le 4 len ++ le 8 laddr

/-- CHAIN_GET (R270). -/
def chainGetOp (c i : Nat) (s : State) : State :=
  match s.chainGo c i 2 with
  | none => s
  | some (st, ch) =>
    let d := ch.c
    let s := s.chainStart c i d.len
    if d.len = 0 then s.chainDone c i
    else s.postPieces [⟨c, st.epoch, d.peer, false, 5, vcOfCls d.cls false, d.cls, d.raddr, 0, getReq d.len d.laddr, 256⟩]

def execChainGet (ctx index : Nat) (s : State) : Host.Outcome State Fault Refusal := .next (chainGetOp ctx index s)

/-- The group of a collective takes it (R277, R296). -/
def collGroupOk (g : Grp) (up : Bool) : Bool :=
  g.valid && (!up || decide (g.members.length = g.count))

/-- The instance of a chain (R281, R283, R295). -/
def collInst (i : Nat) (ch : Chn) (cd : CollDesc) (mver : Nat) (input : Bytes) : CollInst :=
  { cinst := i
    cd := cd
    reds := List.replicate cd.n cd.red
    word := ch.word
    digest := collDigest cd ch.word
    mver := mver
    stage := if cd.cop = 4 then 0 else 1
    input := if cd.cop = 1 then [] else cd.readInput input }

/-- CHAIN_COLLECTIVE (R277, R279, R281). -/
def chainCollOp (c i : Nat) (hv : HostView) (s : State) : State :=
  match s.chainGo c i 3 with
  | none => s
  | some (st, ch) =>
    let s := (s.chainStart c i 0).chargeRead c 1 ch.c.raddr 32
    if hv.fault ≠ 0 then s.ctxFault c hv.fault
    else match readChecked hv ch.c.raddr 32 with
    | none => s.ctxFault c 0x08
    | some b =>
      let cd := parseColl b
      let n := if cd.cop = 1 then 0 else cd.n * tyBytes cd.ity
      if collOk cd = false then s.ctxFault c 0x08
      else if collGroupOk (mkGrp ch.word s.torus s.own st.bind.tab) cd.up = false then s.ctxFault c 0x12
      else
        let s := if cd.cop = 3 then s else s.chargeRead c 0 cd.inAddr n
        s.openColl c (collInst i ch cd st.bind.mver (hv1 hv cd.inAddr n))

def execChainCollective (ctx index : Nat) (hv : HostView) (s : State) : Host.Outcome State Fault Refusal :=
  .next (chainCollOp ctx index hv s)

/-- The message of a counter add (R270, R285). -/
def addMsg (i : Nat) (d : Chain) : Bytes :=
  encMsg ⟨7, 0, 0, 0, i, 0, 0, 0, true⟩ (le 1 (bits d.raddr 32 5) ++ zeros 3 ++ le 4 (d.raddr % 2 ^ 32))

/-- CHAIN_COUNTER_ADD (R270): it completes with the first hop's acceptance, on this chip at once. -/
def chainAddOp (c i : Nat) (s : State) : State :=
  match s.chainGo c i 4 with
  | none => s
  | some (st, ch) =>
    let s := (s.chainStart c i 0).sendShort c st.epoch ch.c.peer st.bind.mver (addMsg i ch.c) (i + 1)
    if ch.c.peer = s.glb.chip then s.chainDone c i else s

def execChainCounterAdd (ctx index : Nat) (s : State) : Host.Outcome State Fault Refusal := .next (chainAddOp ctx index s)

/-- CHAIN_CUE (R270). -/
def chainCueOp (c i : Nat) (hv : HostView) (s : State) : State :=
  match s.chainGo c i 5 with
  | none => s
  | some (st, ch) =>
    let s := (s.chainStart c i 0).chargeRead c ch.c.cls ch.c.laddr 36
    if hv.fault ≠ 0 then s.ctxFault c hv.fault
    else
      let pt := s.firstPt (s.allocPitch c)
      s.sendPacket pt c (cueBytes c st.epoch pt i (hv1 hv ch.c.laddr 36)) false

def execChainCue (ctx index : Nat) (hv : HostView) (s : State) : Host.Outcome State Fault Refusal := .next (chainCueOp ctx index hv s)

/-- The chain stall timer of a step has run out (R121). -/
def State.chainStalled (s : State) (c : Nat) : Bool :=
  match s.step? c with
  | none => false
  | some st =>
    match st.cnt.rest with
    | none => false
    | some t => !st.cancelled && !st.ended && st.chains.any (fun h => decide (h.st = 0)) && decide (t + s.rd 0x1802C ≤ s.el)

/-- CHAIN_STALL_TIMEOUT (R121). -/
def chainStallOp (c : Nat) (s : State) : State := if s.on && (s.ctx c).active && s.chainStalled c then s.ctxFault c 0x07 else s

def execChainStallTimeout (ctx : Nat) (s : State) : Host.Outcome State Fault Refusal := .next (chainStallOp ctx s)

/- At the peer -/

/-- An add for a context and epoch (R271). -/
def State.addTo (s : State) (c e ctr inc : Nat) : State :=
  if (s.ctx c).active ∧ (s.runs c e).isSome then s.bump c ctr inc
  else if (s.ctx c).active ∧ e = (s.ctx c).nextEpoch ∧ s.xch.pend.length < 1024 then
    s.modXch (fun x => { x with pend := x.pend ++ [⟨c, e, ctr, inc⟩] })
  else s.countSat 0x50014 16 16 1

/-- COUNTER_ADD (R271). -/
def counterAddOp (s : State) : State :=
  if !s.on then s
  else match s.takeShort 7 with
  | none => s
  | some (m, s) =>
    let d := m.bytes.drop 16
    s.addTo m.ctx m.epoch (fld d 0 1 % 32) (fld d 4 4)

def execCounterAdd (s : State) : Host.Outcome State Fault Refusal := .next (counterAddOp s)

/-- Take the oldest landed chunk of kind `k`. -/
def State.takeChunkOf (s : State) (k : Nat) : Option (Landed × State) :=
  match ltake (fun l : Landed => decide (l.ch.ckind = k)) s.xch.inbox with
  | none => none
  | some (l, r) => some (l, s.modXch (fun x => { x with inbox := r }))

/-- A context that takes traffic from the links (R398); context 0 always does. -/
def State.takes (s : State) (c : Nat) : Bool := decide (c = 0) || (s.ctx c).active

/-- Write raw data of a chunk under completion `id`. -/
def State.rawWrite (s : State) (l : Landed) (c cls id : Nat) : State :=
  if l.ch.addr % 64 = 0 ∧ l.data.length % 64 = 0 then s.memWrite c cls l.ch.addr l.data ⟨.putOut, id⟩
  else State.memWriteAny c cls ⟨.putOut, id⟩ (ceilDiv l.data.length 4032) l.ch.addr l.data s

/-- Write raw data of context 0, each chunk with a completion of its own (R369, R445, R447; log entry 94). -/
def State.rxWrite (s : State) (l : Landed) (c cls idx : Nat) : State :=
  let id := s.xch.nextPut
  (s.modXch (fun x => { x with
    rxPuts := x.rxPuts ++ [⟨id, c, l.epoch, l.src, idx, l.up, l.data.length, l.data.length⟩]
    nextPut := id + 1 })).rawWrite l c cls id

/-- The chain of a put and its bytes. The chunk's header names neither (R248): for a put of this chip itself they are its chain's,
for another's they are free values (log entry 13). -/
def State.putRef (s : State) (l : Landed) : Nat × Nat :=
  let own := if l.src = s.glb.chip ∧ l.up = false then tget none s.xch.table l.chunk else none
  match own with
  | some e => (min e.ref 256, match (s.runs l.ctx l.epoch).bind (fun st => st.chains[e.ref]?) with | some h => h.c.len | none => l.data.length)
  | none =>
    let i := Config.putIndex l.src l.ctx l.epoch l.chunk
    (i, Config.putBytes l.src l.ctx l.epoch i)

/-- Write the data of a put (R270): one completion goes back once every byte of the put has its write response. -/
def State.putWrite (s : State) (l : Landed) : State :=
  let r := s.putRef l
  let mine (p : RxPut) : Bool := decide (p.ctx = l.ctx ∧ p.epoch = l.epoch ∧ p.src = l.src ∧ p.idx = r.1 ∧ p.up = l.up)
  match s.xch.rxPuts.find? mine with
  | some p =>
    (s.modXch (fun x => { x with rxPuts := x.rxPuts.map (fun q => if q = p then { p with got := p.got + l.data.length } else q) })).rawWrite l l.ctx
      (clsOfVc l.vc) p.id
  | none =>
    let id := s.xch.nextPut
    (s.modXch (fun x => { x with
      rxPuts := x.rxPuts ++ [⟨id, l.ctx, l.epoch, l.src, r.1, l.up, l.data.length, r.2⟩]
      nextPut := id + 1 })).rawWrite l l.ctx (clsOfVc l.vc) id

/-- PUT_DATA_CHUNK (R270, R445, R491). -/
def putDataOp (s : State) : State :=
  if !s.on then s
  else match s.takeChunkOf 4 with
  | none => s
  | some (l, s') =>
    if !(s'.takes l.ctx) then s'
    else if !(s'.fenceOk l.ctx l.ch.addr l.data.length rightRput) then s'.ctxFault l.ctx 0x05
    else if l.ctx = 0 then s'.rxWrite l 0 (clsOfVc l.vc) 256
    else s'.putWrite l

def execPutDataChunk (s : State) : Host.Outcome State Fault Refusal := .next (putDataOp s)

/-- BACKGROUND_COPY_CHUNK (R447). -/
def backCopyOp (s : State) : State :=
  if !s.on then s
  else match s.takeChunkOf 8 with
  | none => s
  | some (l, s) => s.rxWrite l 0 3 0xFFFF

def execBackgroundCopyChunk (s : State) : Host.Outcome State Fault Refusal := .next (backCopyOp s)

/-- The entry of an expert in a chip's directory (R440), when it is whole. -/
def expertEntry (hv : HostView) (ewdir layer loc : Nat) : Option Bytes :=
  let d := hv1 hv (ewdir + 16 * layer) 16
  if fld d 8 2 ≤ loc then none else readChecked hv (fld d 0 8 + 32 * loc) 32

/-- Buffer and size of version `v` in an entry (R440). -/
def entryBuf (b : Bytes) (v : Nat) : Nat × Nat := (fld b (8 * (v % 2)) 8, fld b 16 4)

/-- A weight pull at the owner (R265). The request names neither model nor layer: they are those of the owner's own step of that
epoch (R280); an owner that knows no such step cannot supply the version. -/
def State.pullAnswer (s : State) (l : Landed) (hv : HostView) : State :=
  match (s.ctx l.ctx).past.find? (fun p => decide (p.1 = l.epoch)) with
  | none => s.ctxFault l.ctx 0x11
  | some (_, model, layer) =>
    let dir := s.ewdir model
    let loc := fld l.data 2 2
    let v := l.ch.wver
    if hv.fault ≠ 0 then s.ctxFault l.ctx hv.fault
    else match (if dir = 0 then none else expertEntry hv dir layer loc) with
    | none => s.ctxFault l.ctx 0x11
    | some b =>
      let q := entryBuf b v
      if entryHolds b v = false then s.ctxFault l.ctx 0x11
      else
        let p : OutPiece := ⟨l.ctx, l.epoch, l.src, false, 3, 3, 1, 0, v, [], 256⟩
        ((s.chargeRead l.ctx 1 (dir + 16 * layer) 16).chargeRead l.ctx 1 q.1 q.2).postPieces
          (cutPieces p (fld l.data 8 8) (hv1 hv q.1 q.2))

/-- REQUEST_CHUNK (R265, R270). -/
def requestOp (hv : HostView) (s : State) : State :=
  if !s.on then s
  else match s.takeChunkOf 5 with
  | none => s
  | some (l, s) =>
    let kind := fld l.data 0 1
    let len := fld l.data 4 4
    let cls := clsOfVc l.vc
    if !(s.takes l.ctx) then s
    else if kind = 1 then
      if !(s.fenceOk l.ctx l.ch.addr len rightRget) then s.ctxFault l.ctx 0x05
      else if hv.fault ≠ 0 then s.ctxFault l.ctx hv.fault
      else
        let p : OutPiece := ⟨l.ctx, l.epoch, l.src, false, 6, vcOfCls cls true, cls, 0, 0, [], 256⟩
        (s.chargeRead l.ctx cls l.ch.addr len).postPieces (cutPieces p (fld l.data 8 8) (hv1 hv l.ch.addr len))
    else if kind = 2 then s.pullAnswer l hv
    else s

def execRequestChunk (hv : HostView) (s : State) : Host.Outcome State Fault Refusal := .next (requestOp hv s)

/-- The running get of a step that the data of a chunk belong to (R270). -/
def Step.getOf (st : Step) (l : Landed) : Option Nat :=
  st.chains.findIdx? (fun h => decide (h.c.op = 2 ∧ h.st = 2 ∧ h.c.peer = l.src ∧ h.c.laddr ≤ l.ch.addr ∧
    l.ch.addr + l.data.length ≤ h.c.laddr + h.c.len ∧ l.data.length ≤ h.left))

/-- GET_DATA_CHUNK (R270). -/
def getDataOp (s : State) : State :=
  if !s.on then s
  else match s.takeChunkOf 6 with
  | none => s
  | some (l, s) =>
    match (if (s.ctx l.ctx).active then s.runs l.ctx l.epoch else none) with
    | none => s
    | some st =>
      match st.getOf l with
      | none => s
      | some i =>
        (s.modStep l.ctx (fun st => { st with chains := st.chains.zipIdx.map (fun p =>
          if p.2 = i then { p.1 with left := p.1.left - l.data.length } else p.1) })).memWrite l.ctx (clsOfVc l.vc) l.ch.addr l.data
          ⟨.getOut, l.epoch * 256 + i⟩

def execGetDataChunk (s : State) : Host.Outcome State Fault Refusal := .next (getDataOp s)

/- Write responses -/

/-- A write of put or background data has its response (R270, R447): the completion goes when it was the last byte's. -/
def State.putWritten (s : State) (c id : Nat) : State :=
  if s.whyOut c ⟨.putOut, id⟩ then s
  else match s.xch.rxPuts.find? (fun p => decide (p.id = id)) with
  | none => s
  | some p =>
    if p.got < p.len then s
    else
    let m := encMsg ⟨6, 0, 0, 0, p.idx % 256, 0, 0, 0, true⟩ (le 2 p.idx)
    let s := s.modXch (fun x => { x with rxPuts := x.rxPuts.filter (fun q => decide (q.id ≠ id)) })
    if p.up then s.sendShortUp c p.epoch p.src (s.mverOf c) m else s.sendShort c p.epoch p.src (s.mverOf c) m 0

/-- A write of a get has its response (R270): the chain is complete when it was the last byte. -/
def State.getWritten (s : State) (c idx : Nat) : State :=
  match s.runs c (idx / 256) with
  | none => s
  | some st =>
    match st.chains[idx % 256]? with
    | none => s
    | some h => if h.left = 0 ∧ h.st = 2 ∧ s.whyOut c ⟨.getOut, idx⟩ = false then s.chainDone c (idx % 256) else s

end Sys2Proof.Machine
end

