-- ==== Sys2Proof/Machine/Link.lean ====
section
/-! DEFINITION. The link ports' commands (R76 to R101): received flits, transmit slots, bring-up, timeouts. -/

namespace Sys2Proof.Machine

/-- CRC-32 of the live membership table (R91). DESIGN CHOICE (log entry 172): over its 4,096 entries in ascending order, as
four bytes each, the reserved bits 31:14 zero. -/
def State.memDigest (s : State) : Nat := crcN ((List.range 4096).flatMap (fun c => le 4 (tget 0 s.memb.live c % 2 ^ 14)))

/-- A port that can carry flits: enabled, not isolated. -/
def Port.usable (p : Port) : Bool := p.en && !p.iso

/-- Versions a receiver accepts (R100). -/
def State.verOk (s : State) (mver : Nat) : Bool :=
  decide (mver = s.memb.ver % 1024) || decide (mver = (s.memb.ver + 65535) % 65536 % 1024) ||
  (s.memb.armed && decide (mver = s.memb.sver % 1024))

/-- The first hop has accepted flits: counter adds among them complete their chains (R270). -/
def State.finChains (s : State) (qs : List QFlit) : State :=
  qs.foldl (fun s q => if q.fin = 0 then s else
    (if s.runsHere q.h.ctx q.h.epoch then s.chainDone q.h.ctx (q.fin - 1) else s)) s

/-- Apply the acknowledgement, nak and credit fields of a flit (R84, R88, R89); none for a flit to be ignored. -/
def State.applyFields (s : State) (n : Nat) (h : FlitH) : Option State :=
  let p := s.port n
  match (if h.ackV then p.ackCount h.ackSeq else some 0) with
  | none => none
  | some k =>
    let (s, done) := s.applyAck n k
    let s := s.finChains done
    let s := if h.nak && !((s.port n).retry = []) then s.modPort n (fun p => { p with rs := some 0 }) else s
    if h.crCnt = 0 then some s
    else
      let (s, ok) := s.applyCredit n h.crVc h.crCnt
      some (if ok then s else s.linkProto n)

/-- A flit is discarded; the first discard sets nak (R82). -/
def State.discardFlit (s : State) (n : Nat) : State :=
  s.modPort n (fun p => if p.nakSent || p.nakDue then p else { p with nakDue := true })

/-- A flit passes R77: lr_err low, word parity, CRC-32. -/
def flitOk (f : Bytes) (par : List Bool) (lrErr : Bool) : Bool := !lrErr && wordsParOk f par && flitCrcOk f

/-- A received flit is acknowledged, one a tick at the most (R76). -/
def State.flitTaken (s : State) (n : Nat) : State := s.modPort n (fun p => { p with rcvAt := s.el + 1 })

/-- The port can take a flit at this tick. -/
def State.canTake (s : State) (n : Nat) : Bool := s.alive && (s.port n).usable && decide ((s.port n).rcvAt ≤ s.el)

/-- LINK_FLIT_ACCEPT (R76, R77, R79, R82, R84, R88, R100). DESIGN CHOICE (log entry 173): the acknowledgement, nak and credit
fields of a flit that is discarded for its number are applied all the same. -/
def linkFlitOp (n : Nat) (f : Bytes) (par : List Bool) (lrErr : Bool) (s : State) : State :=
  if !(s.canTake n) || decide ((s.port n).st ≠ 2) then s
  else
    let s := s.flitTaken n
    let h := flitHeader f
    if !(flitOk f par lrErr) then s.discardFlit n
    else if h.ftype = 0 ∨ h.ftype = 4 then s
    else if 4 < h.ftype then s.linkProto n
    else match s.applyFields n h with
    | none => s.linkProto n
    | some s =>
      if h.seq ≠ (s.port n).rx ∨ 6 < h.vc ∨ ((s.port n).restricted = true ∧ h.ftype ≠ 3) then s.discardFlit n
      else
        let s := s.modPort n (fun p => { p with
          rx := (p.rx + 1) % 256
          nakSent := false
          ackDue := true
          owed := lset h.vc (p.owed.getD h.vc 0 + 1) p.owed })
        let pay := flitPayload f
        let bad := !(isUplink s n) && (!(s.verOk h.mver) || decide (entState (tget 0 (s.tabFor h.mver) h.src) = 0))
        if h.ftype = 3 then s.modXch (fun x => { x with notices := x.notices ++ [(n, pay)] })
        else if bad then (s.countSat 0x5004C 4 16 1).event 0x13 0 h.src h.mver
        else if h.ftype = 1 then s.landFlit n h pay
        else s.landShort n h pay

def execLinkFlitAccept (port : Nat) (flit : RxFlit) (s : State) : Host.Outcome State Fault Refusal :=
  .next (linkFlitOp port flit.bytes flit.par flit.err s)

/-- CONTROL_FLIT (R76, R77, R84, R89). -/
def controlFlitOp (n : Nat) (f : Bytes) (par : List Bool) (lrErr : Bool) (s : State) : State :=
  if !(s.canTake n) || decide ((s.port n).st ≠ 2) then s
  else
    let s := s.flitTaken n
    if !(flitOk f par lrErr) then s.discardFlit n
    else if (flitHeader f).ftype ≠ 0 then s
    else match s.applyFields n (flitHeader f) with
    | none => s.linkProto n
    | some s => s

def execControlFlit (port : Nat) (flit : RxFlit) (s : State) : Host.Outcome State Fault Refusal :=
  .next (controlFlitOp port flit.bytes flit.par flit.err s)

/-- Hello payload (R91). -/
structure Hello where
  chip : Nat
  port : Nat
  dir : Nat
  ver : Nat
  rxNext : Nat
  free : List Nat
  digest : Nat
  deriving DecidableEq, Repr, Inhabited

def encHello (h : Hello) : Bytes :=
  le 2 (h.chip % 4096) ++ le 1 h.port ++ le 1 h.dir ++ le 2 h.ver ++ le 1 h.rxNext ++ zeros 1 ++
  (List.range 8).flatMap (fun i => le 1 (h.free.getD i 0)) ++ le 4 h.digest ++ zeros 44

def decHello (b : Bytes) : Hello :=
  { chip := fld b 0 2 % 4096, port := fld b 2 1, dir := fld b 3 1, ver := fld b 4 2, rxNext := fld b 6 1,
    free := (List.range 8).map (fun i => fld b (8 + i) 1), digest := fld b 16 4 }

/-- The hello of a port (R91): this end's numbers and free slots. An accepted flit leaves its buffer at once (R256), so all
slots are free. -/
def State.helloOf (s : State) (n : Nat) : Hello :=
  { chip := s.glb.chip, port := n, dir := (s.portDir n).getD 0, ver := s.memb.ver, rxNext := (s.port n).rx,
    free := (List.range 8).map vcBuf, digest := s.memDigest }

/-- Does a hello match the link table (R92)? -/
def State.helloOk (s : State) (n : Nat) (h : Hello) : Bool :=
  match s.portDir n with
  | none => false
  | some d => decide (h.chip = (s.linkEnt n).chip) && decide (h.dir = (if d = 6 then 6 else if d % 2 = 0 then d + 1 else d - 1))

/-- The retry buffer as the neighbour's rx_next leaves it (R92): flits that it has received are discarded. -/
def State.resumeFrom (s : State) (n rxNext : Nat) : State :=
  let p := s.port n
  let k := (rxNext + 256 - (p.tx + 256 - p.retry.length % 256) % 256) % 256
  let s := if k ≤ p.retry.length then (let r := s.applyAck n k; r.1.finChains r.2) else s
  s.modPort n (fun p => { p with
    rs := if p.retry = [] then none else some 0
    tx := if p.retry = [] then rxNext else p.tx })

/-- The port comes up on a matching hello (R92). -/
def State.linkUp (s : State) (n : Nat) (h : Hello) (agree : Bool) : State :=
  let up := (s.port n).wasUp
  let s := s.modPort n (fun p => { p with
    st := 2
    credit := (List.range 7).map (fun v => min (vcBuf v) (h.free.getD v 0))
    ready := List.replicate 7 s.el
    helloDue := true
    helloGot := true
    peer := some (h.ver, h.digest)
    restricted := p.restricted && !agree
    ackAt := s.el
    tmoAt := s.el
    wasUp := true })
  if up then s.resumeFrom n h.rxNext else s.modPort n (fun p => { p with tx := 0, rx := 0, retry := [], rs := none })

/-- HELLO_FLIT (R76, R77, R84, R88, R91, R92, R101). DESIGN CHOICE (log entry 174): a matching hello on a port that is up, the
one more of R91, sets no credits and resends nothing of itself; its acknowledgement, nak and credit fields act as in any
flit. -/
def helloFlitOp (n : Nat) (f : Bytes) (par : List Bool) (lrErr : Bool) (s : State) : State :=
  if !(s.canTake n) || !(s.port n).phy then s
  else
    let s := s.flitTaken n
    let up := decide ((s.port n).st = 2)
    if !(flitOk f par lrErr) then (if up then s.discardFlit n else s)
    else if (flitHeader f).ftype ≠ 4 ∨ (flitHeader f).plen ≠ 64 then s
    else
      let h := decHello (flitPayload f)
      if !(s.helloOk n h) then
        ((s.modPort n (fun p => { p with st := 6 })).eventAt (portPitch n) 0x11 0 n h.chip).notice 2
      else
        let agree := decide (h.ver = s.memb.ver ∧ h.digest = s.memDigest)
        if up then
          match s.applyFields n (flitHeader f) with
          | none => s.linkProto n
          | some s => s.modPort n (fun p => { p with peer := some (h.ver, h.digest), restricted := p.restricted && !agree })
        else s.linkUp n h agree

def execHelloFlit (port : Nat) (flit : RxFlit) (s : State) : Host.Outcome State Fault Refusal :=
  .next (helloFlitOp port flit.bytes flit.par flit.err s)

/- Transmit slots -/

/-- Traffic class of a virtual channel (R87). -/
def vcClass (v : Nat) : Nat := if v ≤ 1 then 0 else if v ≤ 3 then 1 else if v = 4 then 2 else 3

/-- Context charged for a sequenced flit (R390). -/
def State.flitCtx (s : State) (h : FlitH) : Nat :=
  if h.src = s.glb.chip then h.ctx else if s.runsHere h.ctx h.epoch then h.ctx else 0

/-- A flit of a chunk of steeped copies (R308): those of this chip are charged at their tokens' pour, those that it forwards
to no context (log entry 186). -/
def State.steepFlit (s : State) (q : QFlit) : Bool :=
  decide (q.h.ftype = 1) &&
  (if q.slot ≠ 0 then s.xch.pool.any (fun x => decide (x.id = q.slot ∧ x.steep ≠ 0))
   else decide (q.h.src = s.glb.chip) && (match tget none s.xch.table q.h.chunk with
    | some e => e.steep
    | none => false))

/-- A channel ready to send: a flit and a credit (R90). -/
def Port.vcReady (p : Port) (v : Nat) : Bool := !(p.queue.getD v [] = []) && decide (p.credit.getD v 0 ≠ 0)

/-- The channel of step 4 of R90 (R273, R274); the port's arbitration state with it. -/
def State.arbitrate (s : State) (p : Port) : Option (Nat × Nat × Nat) :=
  let w (v : Nat) : Nat := max 1 (bits (s.rdMode 0x50004) (4 * v) 4)
  if bit (s.rdMode 0x50000) 1 then
    if p.arbVc < 6 ∧ p.vcReady p.arbVc = true ∧ p.arbUsed < w p.arbVc then some (p.arbVc, p.arbVc, p.arbUsed + 1)
    else
      ((List.range 6).map (fun i => (p.arbVc + 1 + i) % 6)).findSome? (fun v =>
        if p.vcReady v then some (v, v, 1) else none)
  else
    let starve := (List.range 6).find? (fun v => p.vcReady v && decide (p.ready.getD v 0 + s.rd 0x50008 % 65536 ≤ s.el))
    match starve with
    | some v => some (v, p.arbVc, p.arbUsed)
    | none => ([0, 1, 3, 2, 4, 5].find? p.vcReady).map (fun v => (v, p.arbVc, p.arbUsed))

/-- The acknowledgement and credit fields of the next flit a port sends (R82, R83, R88). -/
def Port.stamp (p : Port) (h : FlitH) : FlitH × Port :=
  let v := ([0, 1, 2, 3, 4, 5, 6].map (fun i => (p.crNext + i) % 7)).find? (fun v => decide (p.owed.getD v 0 ≠ 0))
  let h := { h with ackSeq := (p.rx + 255) % 256, ackV := true, nak := p.nakDue }
  let p := { p with nakSent := p.nakSent || p.nakDue, nakDue := false, ackDue := false }
  match v with
  | none => ({ h with crVc := 0, crCnt := 0 }, p)
  | some v => ({ h with crVc := v, crCnt := p.owed.getD v 0 }, { p with owed := lset v 0 p.owed, crNext := (v + 1) % 7 })

/-- Put a flit on the wire of port `n` (R76). -/
def State.wireOut (s : State) (n : Nat) (h : FlitH) (pay : Bytes) : State :=
  { s with links := { s.links with wire := (n, mkFlit h pay) :: s.links.wire } }

/-- Resend the flit at place `i` of the retry buffer (R84, R86). -/
def State.sendAgain (s : State) (n i : Nat) (q : QFlit) : State :=
  let p := s.port n
  let (h, p) := p.stamp q.h
  let ts := s.el :: recent (2 ^ 20) s.el p.resTimes
  let s := s.modPort n (fun _ => { p with
    retry := lset i { q with resends := q.resends + 1 } p.retry
    rs := if i + 1 < p.retry.length then some (i + 1) else none
    sentAt := s.el + 1
    resTimes := ts })
  let s' := (s.wireOut n h q.pay).countSat (0x50100 + 4 * n) 16 16 1
  let s := if s.steepFlit q then s' else s'.energy (portPitch n) (s.flitCtx q.h) 4 1
  if 8 ≤ q.resends + 1 then s.linkFail n 1 else if 1024 ≤ ts.length then s.linkFail n 2 else s

/-- First transmission of the flit at the head of channel `v` (R81, R88, R390). -/
def State.sendNew (s : State) (n v a u : Nat) : State :=
  let p := s.port n
  match p.queue.getD v [] with
  | [] => s
  | q :: r =>
    let (h, p) := p.stamp { q.h with seq := p.tx, vc := v, mver := if q.h.ftype = 3 then s.memb.ver % 1024 else q.h.mver % 1024 }
    let q' := { q with h := h, at_ := s.el, pool := 4 }
    let s := s.modPort n (fun _ => { p with
      tx := (p.tx + 1) % 256
      queue := lset v r p.queue
      credit := lset v (p.credit.getD v 0 - 1) p.credit
      retry := p.retry ++ [q']
      kept := if h.ftype = 1 then p.kept ++ [q'] else p.kept
      ackAt := if p.retry = [] then s.el else p.ackAt
      tmoAt := if p.retry = [] then s.el else p.tmoAt
      ready := lset v s.el p.ready
      sentAt := s.el + 1
      arbVc := a
      arbUsed := u })
    let c := s.flitCtx h
    let steep := s.steepFlit q
    let s := s.wireOut n h q.pay
    if steep then s else (if v = 6 then s else s.acctAdd c (1 + vcClass v) 256).energy (portPitch n) c 4 1

/-- Header of an unsequenced flit (R79): a control flit has no transport fields; a hello carries this end's membership version
and the two ends of the link (on an uplink, endpoints: R102). -/
def State.plainH (s : State) (n ft len : Nat) : FlitH :=
  let e := (s.linkEnt n).chip
  if ft = 4 then { flitOf 0 0 0 (if isUplink s n then e else s.glb.chip) e 0 (s.memb.ver % 1024) with ftype := 4, plen := len }
  else { flitOf 0 0 0 0 0 0 0 with ftype := ft, plen := len }

/-- Send an unsequenced flit (R79, R83, R89, R91). -/
def State.sendPlain (s : State) (n ft : Nat) (pay : Bytes) : State :=
  let r := (s.port n).stamp (s.plainH n ft pay.length)
  let s := s.modPort n (fun _ => { r.2 with sentAt := s.el + 1, helloDue := if ft = 4 then false else r.2.helloDue })
  s.wireOut n r.1 pay

/-- The flit to be resent next: none while the port is not up, and a restricted port resends membership flits only (R84,
R101). -/
def Port.toResend (p : Port) : Option (Nat × QFlit) :=
  match (if p.st = 2 then p.rs else none) with
  | none => none
  | some i =>
    match p.retry[i]? with
    | none => none
    | some q => if p.restricted && decide (q.h.ftype ≠ 3) then none else some (i, q)

/-- LINK_TRANSMIT_SLOT (R76, R90). -/
def transmitOp (n : Nat) (s : State) : State :=
  let p := s.port n
  if !s.alive || !p.usable || !p.phy || decide (s.el < p.sentAt) then s
  else match p.toResend with
  | some (i, q) => s.sendAgain n i q
  | none =>
    if p.helloDue then s.sendPlain n 4 (encHello (s.helloOf n))
    else if p.st ≠ 2 then s
    else
      let room := decide (p.retry.length < 64)
      if room && p.vcReady 6 then s.sendNew n 6 p.arbVc p.arbUsed
      else match (if room && !p.restricted then s.arbitrate p else none) with
      | some (v, a, u) => s.sendNew n v a u
      | none => if p.ackDue || p.owed.any (fun k => decide (k ≠ 0)) then s.sendPlain n 0 [] else s

def execLinkTransmitSlot (port : Nat) (s : State) : Host.Outcome State Fault Refusal := .next (transmitOp port s)

/-- ACK_TIMEOUT (R84). -/
def ackTimeoutOp (n : Nat) (s : State) : State :=
  let p := s.port n
  if s.alive && p.usable && decide (p.st = 2) && !(p.retry = []) && p.rs.isNone &&
      decide (max p.ackAt p.tmoAt + max 0x40 (s.rd 0x50018 % 65536) ≤ s.el) then
    s.modPort n (fun p => { p with rs := some 0, tmoAt := s.el })
  else s

def execAckTimeout (port : Nat) (s : State) : Host.Outcome State Fault Refusal := .next (ackTimeoutOp port s)

/-- PHY_UP_RISE (R91). -/
def phyUpOp (n : Nat) (s : State) : State :=
  let p := s.port n
  if s.alive && p.usable then
    s.modPort n (fun p => { p with
      phy := true
      phyAt := s.el
      st := 1
      owed := List.replicate 7 0
      helloDue := true
      helloGot := false
      helloAt := s.el })
  else s

def execPhyUpRise (port : Nat) (s : State) : Host.Outcome State Fault Refusal := .next (phyUpOp port s)

/-- HELLO_TIMER (R91). -/
def helloTimerOp (n : Nat) (s : State) : State :=
  let p := s.port n
  if s.alive && p.usable && p.phy && decide (p.st = 1 ∨ p.st = 6) && decide (p.helloAt + 1000 ≤ s.el) then
    s.modPort n (fun p => { p with helloDue := true, helloAt := s.el })
  else s

def execHelloTimer (port : Nat) (s : State) : Host.Outcome State Fault Refusal := .next (helloTimerOp port s)

/-- PHY_DOWN_TIMEOUT (R86): phy_up has been low for `low` ticks, 10,000 at the least, all of them with lnk_en high and after
its last rise. -/
def phyDownOp (n low : Nat) (s : State) : State :=
  let p := s.port n
  if s.alive && p.usable && decide (10000 ≤ low) && decide (max p.phyAt p.enAt + low ≤ s.el) then s.linkFail n 4 else s

def execPhyDownTimeout (low : PhyLow) (s : State) : Host.Outcome State Fault Refusal := .next (phyDownOp low.port low.ticks s)

/-- RETRY_BOUND_EXPIRE (R86). -/
def retryBoundOp (n : Nat) (s : State) : State :=
  let p := s.port n
  if s.alive && p.usable && !(p.retry = []) && decide (p.ackAt + 16384 ≤ s.el) then s.linkFail n 0 else s

def execRetryBoundExpire (port : Nat) (s : State) : Host.Outcome State Fault Refusal := .next (retryBoundOp port s)

/-- SPARE_TIMEOUT (R94). -/
def spareTimeoutOp (n : Nat) (s : State) : State :=
  let p := s.port n
  if s.alive && decide (64 ≤ n) && p.usable && decide (p.st = 1) && !((p.held.flatMap Prod.snd) = []) &&
      decide (p.failAt + s.rd 0x5001C ≤ s.el) then s.reroutePort n
  else s

def execSpareTimeout (port : Nat) (s : State) : Host.Outcome State Fault Refusal := .next (spareTimeoutOp port s)

/-- MEMBER_DISAGREE_TIMEOUT (R101). DESIGN CHOICE (log entry 175): uplink ports are exempt, as they are from the checks of R100
(R102). -/
def disagreeOp (n : Nat) (s : State) : State :=
  let p := s.port n
  match p.peer with
  | none => s
  | some (v, d) =>
    if s.alive && decide (p.st = 2) && !(isUplink s n) && !p.restricted && decide (s.memb.goneLive + 10000 ≤ s.el) &&
        !(decide (v = s.memb.ver) && decide (d = s.memDigest)) then
      (s.modPort n (fun p => { p with restricted := true })).notice 2
    else s

def execMemberDisagreeTimeout (port : Nat) (s : State) : Host.Outcome State Fault Refusal := .next (disagreeOp port s)

/- Channels of every class -/

/-- PORT_STUCK_TIMEOUT (R43, R59): isolation, notice, event; work moves on. `left`: packets of a point that its partner has not
acknowledged whole. -/
def stuckOp (cls i left : Nat) (s : State) : State :=
  let up := if cls = 0 then s.chUp i else if cls = 1 then s.ptUp i else (s.port i).usable
  if !s.alive || !up || decide (s.el < s.rdMin 0x30 0x400) then s
  else
    let s := (s.countSat 0x40 8 8 1).detect
    if cls = 0 then (s.isolateMem i).stuckEvent 0 i
    else if cls = 1 then (s.isolateCore i left).stuckEvent 1 i
    else (s.linkDown i).stuckEvent 2 i

def execPortStuckTimeout (cls : Nat) (at_ : StuckAt) (s : State) : Host.Outcome State Fault Refusal :=
  .next (stuckOp cls at_.index at_.left s)

/-- ISOLATION_RELEASE (R71, R78). -/
def isoReleaseOp (cls i : Nat) (s : State) : State :=
  if !s.alive then s
  else if cls = 0 then
    if (s.ch i).iso && s.pitchUp (i / 4) && decide ((s.ch i).lowAt + 16 ≤ s.el) then s.modCh i (fun x => { x with iso := false }) else s
  else if cls = 1 then
    if (s.pt i).iso && s.pitchUp (i / 8) && decide ((s.pt i).lowAt + 16 ≤ s.el) then s.modPt i (fun x => { x with iso := false }) else s
  else if (s.port i).iso && s.pitchUp (portPitch i) && decide ((s.port i).st ≤ 1) && decide ((s.port i).lowAt + 16 ≤ s.el) then
    s.modPort i (fun x => { x with
      iso := false
      en := x.en || decide (x.st = 1)
      enAt := if x.en || decide (x.st ≠ 1) then x.enAt else s.el })
  else s

def execIsolationRelease (cls index : Nat) (s : State) : Host.Outcome State Fault Refusal := .next (isoReleaseOp cls index s)

end Sys2Proof.Machine
end

