-- ==== Sys2Proof/Machine/Pitches.lean ====
section
/-! DEFINITION. Pitches: guy lines (R24 to R29), pitch loss (R431), power and temperature (R470 to R473),
the pace meter (R37). -/

namespace Sys2Proof.Machine

/- Pitch loss -/

/-- A port is isolated with its pitch (R66, R95, R431). -/
def State.portGone (s : State) (n : Nat) : State :=
  let s := if (s.port n).iso then s else s.notice 2
  (s.modPort n (fun p => { p with st := 5, en := false, iso := true, lowAt := s.el, phy := false })).reroutePort n

/-- The ports, channels and points of a pitch leave service (R53, R59, R95, R431, R480). -/
def State.pitchPorts (s : State) (p : Nat) : State :=
  let s := ((List.range 4).map (4 * p + ·)).foldl State.isolateMem s
  let s := ((List.range 8).map (8 * p + ·)).foldl (fun s a => s.isolateCore a 0) s
  ((List.range 72).filter (fun n => decide (portPitch n = p))).foldl State.portGone s

/-- The ports of a pitch are in reset (R71) while nothing else runs that could take their traffic. -/
def State.pitchDark (s : State) (p : Nat) : State :=
  let s := ((List.range 4).map (4 * p + ·)).foldl (fun s c => s.modCh c (fun x => { x with iso := true, lowAt := s.el })) s
  let s := ((List.range 8).map (8 * p + ·)).foldl (fun s a => s.modPt a (fun x => { x with iso := true, lowAt := s.el })) s
  ((List.range 72).filter (fun n => decide (portPitch n = p))).foldl
    (fun s n => s.modPort n (fun x => { x with st := 5, en := false, iso := true, lowAt := s.el, phy := false })) s

/-- The anchor's entry registers are lost with it (R459): the entries in them are counted as lost, those of the Bivouac stay in
their order. -/
def State.entriesLost (s : State) : State :=
  let gone := s.lnt.ents.filter (fun e => !e.inBiv)
  ((gone.foldl (fun (s : State) e => s.lntLost e.level 1) s).modEnts (fun es => es.filter LEntry.inBiv)).lntRefillAll

/-- Pitch `p` is lost (R431, R459): held in reset, its anchor's functions and its traffic moved, the contexts
that touch it torn down; without any pitch left the block stops (R470). -/
def State.losePitch (s : State) (p : Nat) : State :=
  if !(s.pitchUp p) then s
  else
    let s := s.modPitch p (fun x => { x with held := true, lost := true })
    match s.pitchesUp with
    | [] => let s := s.pitchDark p
      { s with start := { s.start with stopped := true } }
    | q :: _ =>
      let s := if s.glb.anchor = p then ({ s with glb := { s.glb with anchor := q } } : State).entriesLost else s
      let s := ((s.event 0x08 0 p 0).notice 2).pitchPorts p
      let s := s.modKtl (fun k => { k with imgs := k.imgs.filter (fun i => decide (i.pitch ≠ p)) })
      (tkeys (fun _ x => x.enable && !x.tdown && (tentPitches (s.tentWord x.tent)).contains p) s.ctxs).foldl
        (fun s c => s.ctxFault c 0x1A) s

/- Guy lines -/

/-- Key of a guy line. -/
def guyKey (boundary : Nat) (up : Bool) (line : Nat) : Nat := boundary * 200 + b2n up * 100 + line

/-- A guy line that nothing has touched: 96 active and 4 spare (R24). -/
def guyReset (k : Nat) : GuyLine := { st := if k % 100 < 96 then 0 else 1 }

def State.guy (s : State) (k : Nat) : GuyLine := tget (guyReset k) s.guys.lines k

def State.modGuy (s : State) (k : Nat) (f : GuyLine → GuyLine) : State :=
  { s with guys := { s.guys with lines := tput (guyReset k) k (f (s.guy k)) s.guys.lines } }

/-- Guy lines of the boundary and direction of `k` with a status. -/
def State.guysIn (s : State) (k st : Nat) : List Nat :=
  ((List.range 100).map (k / 100 * 100 + ·)).filter (fun j => decide ((s.guy j).st = st))

/-- A boundary with no guy line in service in one direction loses its pitches (R431). -/
def State.guyCheck (s : State) (k : Nat) : State :=
  if s.guysIn k 0 = [] then (s.losePitch (k / 200)).losePitch (k / 200 + 1) else s

/-- A command names a guy line: a boundary of the grade and one of its 100 lines (R18, R24). -/
def State.guyOk (s : State) (boundary line : Nat) : Bool := decide (boundary + 1 < s.nPitch ∧ line < 100)

/-- Take a guy line out of service: its in-flight words, and those it had still to take over, are resent on another line
of the boundary and direction, in their order (R27). DESIGN CHOICE (log entry 166): the other line is the lowest-numbered
one in service. -/
def State.guyOut (s : State) (k : Nat) : State :=
  let ws := (s.guy k).buf ++ (s.guy k).wait
  let s := s.modGuy k (fun g => { g with st := 2, buf := [], again := 0, wait := [], skipping := false })
  match s.guysIn k 0 with
  | [] => s
  | j :: _ => s.modGuy j (fun g => { g with wait := g.wait ++ ws.map (fun w => { w with rejects := 0 }) })

/-- GUY_ACK (R27). -/
def guyAckOp (boundary : Nat) (up : Bool) (line : Nat) (reject : Bool) (s : State) : State :=
  let k := guyKey boundary up line
  let g := s.guy k
  match g.buf with
  | [] => s
  | w :: r =>
    if !s.alive || !(s.guyOk boundary line) || decide (g.st ≠ 0) || decide (g.buf.length ≤ g.again) then s
    else if !reject then s.modGuy k (fun g => { g with buf := r })
    else
      let ts := s.el :: recent (2 ^ 20) s.el g.rejTimes
      let s := s.modGuy k (fun g => { g with
        buf := { w with rejects := w.rejects + 1 } :: r
        again := g.buf.length
        skipping := false
        rejTimes := ts })
      if 8 ≤ w.rejects + 1 ∨ 64 ≤ ts.length then s.detect.guyOut k |>.guyCheck k else s

def execGuyAck (boundary : Nat) (up : Bool) (line : Nat) (reject : Bool) (s : State) : Host.Outcome State Fault Refusal :=
  .next (guyAckOp boundary up line reject s)

/-- Key of a direction of a boundary. -/
def guyDirKey (boundary : Nat) (up : Bool) : Nat := boundary * 2 + b2n up

def State.guyDir (s : State) (d : Nat) : GuyDir := tget {} s.guys.dirs d

def State.modGuyDir (s : State) (d : Nat) (f : GuyDir → GuyDir) : State :=
  { s with guys := { s.guys with dirs := tput {} d (f (s.guyDir d)) s.guys.dirs } }

/-- The even parity of each 32-bit word agrees with its parity wire (R24). -/
def guyParOk (got : Bytes) (par : BitVec 8) : Bool :=
  (List.range 8).all (fun i => decide (parity 32 (fld got (4 * i) 4) = b2n (par.getLsbD i)))

/-- Words of a transfer that are next in its order are delivered (R29), at most `n` of them. -/
def deliverGuy (x : Nat) : Nat → GuyDir → GuyDir
  | 0, d => d
  | n + 1, d =>
    let t := tget {} d.xfers x
    match ltake (fun w => decide (w.seq = t.dlv)) t.held with
    | none => d
    | some (w, r) => deliverGuy x n { xfers := tput {} x { t with dlv := t.dlv + 1, held := r } d.xfers, out := d.out ++ [w] }

/-- A good word arrives at the far side (R29): one that has arrived before is dropped, one that is ahead of its order
waits for the words before it (DEDUCED, log entry 167). -/
def GuyDir.take (d : GuyDir) (w : GuyWord) : GuyDir :=
  let t := tget {} d.xfers w.xfer
  if w.seq < t.dlv ∨ t.held.any (fun v => decide (v.seq = w.seq)) = true then d
  else deliverGuy w.xfer (t.held.length + 1) { d with xfers := tput {} w.xfer { t with held := t.held ++ [w] } d.xfers }

/-- The word that a guy line carries next (R27): one to be resent; one taken over from a line out of service; or the new
word, when the replay buffer has room and its transfer is not complete. The flag says that it is new. -/
def State.guyNext (s : State) (k : Nat) (xfer : Nat) (word : Bytes) (last : Bool) : Option (GuyWord × Bool) :=
  let g := s.guy k
  let t := tget {} (s.guyDir (k / 100)).xfers xfer
  if g.again ≠ 0 then some (g.buf.getD (g.buf.length - g.again) default, false)
  else if 16 ≤ g.buf.length then none
  else match g.wait with
    | w :: _ => some (w, false)
    | [] => if t.fin then none else some (⟨xfer, t.sent, word, last, 0⟩, true)

/-- The sender's side of a word (R27): a resent word is already in the replay buffer, any other enters it. -/
def State.guySend (s : State) (k : Nat) (w : GuyWord) (new : Bool) : State :=
  let s := s.modGuy k (fun g =>
    if g.again ≠ 0 then { g with again := g.again - 1 }
    else { g with buf := g.buf ++ [w], wait := g.wait.drop 1 })
  if new then s.modGuyDir (k / 100) (fun d => { d with
      xfers := tmod {} w.xfer (fun t => { t with sent := t.sent + 1, fin := w.last }) d.xfers })
  else s

/-- GUY_LINE_WORD_RECEIVED (R24, R27, R29): a word crosses; `got` is its data and parity wires as the receiver
finds them. -/
def guyWordOp (boundary : Nat) (up : Bool) (line : Nat) (sent : GuySend) (got : GuyGot) (s : State) : State :=
  let k := guyKey boundary up line
  if !s.alive || !(s.guyOk boundary line) || decide ((s.guy k).st ≠ 0) || decide (sent.word.length ≠ 32 ∨ got.bytes.length ≠ 32) then s
  else match s.guyNext k sent.xfer sent.word sent.last with
  | none => s
  | some (w, new) =>
    let s := s.guySend k w new
    if (s.guy k).skipping then s
    else if guyParOk got.bytes got.par then s.modGuyDir (k / 100) (fun d => d.take { w with word := got.bytes })
    else s.modGuy k (fun g => { g with skipping := true })

def execGuyLineWordReceived (boundary : Nat) (up : Bool) (line : Nat) (sent : GuySend) (got : GuyGot) (s : State) :
    Host.Outcome State Fault Refusal :=
  .next (guyWordOp boundary up line sent got s)

/-- Group of an active wire (R25). -/
def wireGroup (w : Nat) : Nat := min 13 (w / 20)

/-- Retire a guy line and bring in a spare one (R28). DESIGN CHOICE (log entry 168): the spare is the lowest-numbered one
left. -/
def State.guyRetire (s : State) (k : Nat) : State :=
  let s := s.modGuy k (fun g => { g with st := 3 })
  match s.guysIn k 1 with
  | [] => s
  | j :: _ => (s.modGuy j (fun g => { g with st := 0 })).remapAt (k / 200) 5 (k % 200) (k / 100 % 2 * 4 + (j % 100 - 96))

/-- GUY_LINE_TEST_DONE (R25, R28): `failing` lists the wires that fail, spare wires (268 + group) among them. A spare wire
that fails leaves its group without a spare (DEDUCED, log entry 169). -/
def guyTestOp (boundary : Nat) (up : Bool) (line : Nat) (failing : List Nat) (s : State) : State :=
  let k := guyKey boundary up line
  let g := s.guy k
  let gs := ((failing.filter (fun w => decide (w < 268))).eraseDups).map wireGroup
  let dead := (failing.filter (fun w => decide (268 ≤ w))).map (· - 268)
  if !s.alive || !(s.guyOk boundary line) || decide (g.st ≠ 2) then s
  else if gs.Nodup ∧ gs.all (fun x => !(g.groups.contains x)) = true ∧ dead.all (fun x => !((g.groups ++ gs).contains x)) = true then
    gs.foldl (fun s x => s.remapAt boundary 4 (k % 200) (k % 200 * 14 + x))
      (s.modGuy k (fun g => { g with st := 0, groups := g.groups ++ gs }))
  else (s.guyRetire k).guyCheck k

def execGuyLineTestDone (boundary : Nat) (up : Bool) (line : Nat) (failing : List Nat) (s : State) :
    Host.Outcome State Fault Refusal :=
  .next (guyTestOp boundary up line failing s)

/- Power, temperature, pace -/

/-- Byte address of a register of pitch `p` in the PWR_ region (R516). -/
def pwrAt (p off : Nat) : Nat := 0xD0000 + 0x100 * p + off

/-- Peak current of a pitch in the units of the governor: 45 A (R472). -/
def peakAmps : Nat := 45 * 48000000

/-- The cap in the governor's units; none without a cap. -/
def capOfSignal (cap : Nat) : Option Nat := if cap = 0 then none else some (peakAmps / 8 * cap)

/-- Next I_lim (R471): towards the estimate plus one rise step, within the step limits; the cap comes last.
The flag says that the cap bound. -/
def governor (up dn lim est : Nat) (cap : Option Nat) : Nat × Bool :=
  let goal := est + up * 768000
  let x := if lim < goal then min goal (lim + up * 768000) else max goal (lim - dn * 768000)
  match cap with
  | none => (x, false)
  | some c => (min x c, decide (c < x))

/-- GOVERNOR_WINDOW (R471, R472). -/
def governorOp (p cap : Nat) (s : State) : State :=
  if !s.alive || !(s.pitchLive p) then s
  else
    let x := s.pitch p
    let w := s.rd (pwrAt p 8)
    let r := governor (bits w 8 8) (bits w 0 8) x.iLim x.win (capOfSignal cap)
    let lim := if x.droop then (match capOfSignal cap with | none => x.iLim | some c => min c x.iLim) else r.1
    let s := s.modPitch p (fun x => { x with est := x.win, win := 0, cap := cap, iLim := lim })
    if r.2 then (s.setBit (pwrAt p 0x10) 1).notice 5 else s

def execGovernorWindow (pitch cap : Nat) (s : State) : Host.Outcome State Fault Refusal := .next (governorOp pitch cap s)

/-- DROOP_RISE (R472). -/
def droopRiseOp (p : Nat) (s : State) : State :=
  if !s.alive || !(s.pitchLive p) || (s.pitch p).droop then s
  else ((s.modPitch p (fun x => { x with droop := true, iLim := x.est / 2 })).setBit (pwrAt p 0x10) 0).notice 5

def execDroopRise (pitch : Nat) (s : State) : Host.Outcome State Fault Refusal := .next (droopRiseOp pitch s)

/-- DROOP_FALL (R472). -/
def droopFallOp (p : Nat) (s : State) : State :=
  if s.alive then s.modPitch p (fun x => { x with droop := false }) else s

def execDroopFall (pitch : Nat) (s : State) : Host.Outcome State Fault Refusal := .next (droopFallOp pitch s)

/-- JUNCTION_HOT (R473): `reading` in °C + 40, as PWR_TEMP holds it. -/
def junctionOp (p reading : Nat) (s : State) : State :=
  if !s.alive || !(s.pitchLive p) then s
  else
    let r := min 255 reading
    let s := s.wr (pwrAt p 0xC) (max r (s.rdF (pwrAt p 0xC) 8 8) * 256 + r)
    if 145 < r ∧ (s.pitch p).hot = false then
      ((s.modPitch p (fun x => { x with hot := true })).setBit (pwrAt p 0x10) 2).notice 5
    else if r < 140 then s.modPitch p (fun x => { x with hot := false })
    else s

def execJunctionHot (pitch reading : Nat) (s : State) : Host.Outcome State Fault Refusal := .next (junctionOp pitch reading s)

/-- Pitch of the start controller (R478): the lowest-numbered one that takes part, the anchor once the block runs. -/
def State.controller (s : State) : Nat :=
  match s.start.phase with
  | .done | .minimal => s.glb.anchor
  | _ => ((List.range 4).find? (fun p => bit s.start.part p)).getD 0

/-- POWER_GOOD_FALL (R470, R482): the count of failed starts runs from the rise of good on the controller's pitch. -/
def goodFallOp (p : Nat) (s : State) : State :=
  if !s.alive then s
  else
    let s := { s with start := { s.start with
      low := s.start.low ||| 2 ^ p
      fails := if p = s.controller then 0 else s.start.fails } }
    let s := if s.start.phase = .done then s.losePitch p else s
    if s.glb.present &&& s.start.low = s.glb.present then { s with start := { s.start with stopped := true } } else s

def execPowerGoodFall (pitch : Nat) (s : State) : Host.Outcome State Fault Refusal := .next (goodFallOp pitch s)

/-- PITCH_RESET_ASSERTED (R30, R71): the pitch is held and its ports are in reset; a running pitch is lost
with them. The control port's outputs are low, when they are this pitch's to drive (R21). -/
def pitchResetOp (p : Nat) (s : State) : State :=
  if !s.alive then s
  else
    let s := if s.glb.anchor = p then { s with ctl := { s.ctl with rdata := 0#32, rpar := 0#4, err := false } } else s
    let s := if s.start.phase = .done then s.losePitch p else s.pitchDark p
    s.modPitch p (fun x => { x with
      held := true
      iLim := 0
      est := 0
      win := 0
      hot := false
      offOk := false
      locked := false })

def execPitchResetAsserted (pitch : Nat) (s : State) : Host.Outcome State Fault Refusal := .next (pitchResetOp pitch s)

/-- PACE_WINDOW_END (R37, R38, R408). -/
def paceWindowOp (p count : Nat) (s : State) : State :=
  if !s.alive || !(s.pitchLive p) || s.clk.silent then s
  else
    let n := if (s.pitch p).locked then 1600 else count % 65536
    let s := s.wr (pwrAt p 0) n
    if n < s.rd (pwrAt p 4) then s.wr (pwrAt p 4) n else s

def execPaceWindowEnd (pitch count : Nat) (s : State) : Host.Outcome State Fault Refusal := .next (paceWindowOp pitch count s)

/-- TICK_LOSS (R38, R65, R511): no strobe for `ring` ticks of the reference ring, 2^16 at the least; every timer advances by
the ring's estimate. -/
def tickLossOp (ring : Nat) (s : State) : State :=
  if !s.alive || decide (ring < 65536) then s
  else { s with clk := { s.clk with el := s.clk.el + ring, lost := true, silent := true } }.notice 2

def execTickLoss (ring : Nat) (s : State) : Host.Outcome State Fault Refusal := .next (tickLossOp ring s)

/-- Contexts other than 0 with a step in progress (R64). -/
def State.stepsOn (s : State) : List Nat := s.stepsWhere (fun c _ _ => decide (c ≠ 0))

/-- A tick load is accepted (R64). -/
def State.loadOk (s : State) : Bool :=
  match s.start.phase with
  | .idle => false
  | .testing | .ready | .failing | .waiting | .minimal => true
  | .done => decide (s.stepsOn = [])

/-- TICK_LOAD (R63, R64). DESIGN CHOICE (log entry 176): a load accepted before the 64th edge of an earlier one takes its
place. -/
def tickLoadOp (val : W64) (par : BitVec 8) (s : State) : State :=
  if !s.alive || decide (s.start.phase = .idle) then s
  else if par ≠ BitVec.ofNat 8 (maskOf 8 (fun i => decide (parity 8 (bits val.toNat (8 * i) 8) = 1))) then s.event 0x05 0 0 0
  else if !s.loadOk then s.event 0x05 0 1 0
  else { s with clk := { s.clk with load := some ⟨val, 64⟩, lost := false } }

def execTickLoad (val : W64) (par : BitVec 8) (s : State) : Host.Outcome State Fault Refusal := .next (tickLoadOp val par s)

/-- Every copy takes a value (R63). -/
def State.setTicks (s : State) (v : W64) : State := { s with pitches := s.pitches.map (fun p => { p with tick := v }) }

/-- TICK_LOAD_APPLY (R63): at the 64th strobe edge after E0. -/
def tickApplyOp (s : State) : State :=
  match s.clk.load with
  | none => s
  | some l =>
    if !s.alive || decide (l.left ≠ 0) then s
    else
      let s := ({ s with clk := { s.clk with load := none } }).setTicks l.val
      s.record 7 0 none 0 s.now 0 (le 8 l.val.toNat) false

def execTickLoadApply (s : State) : Host.Outcome State Fault Refusal := .next (tickApplyOp s)

end Sys2Proof.Machine
end

