-- ==== Sys2Proof/Machine/Determ.lean ====
section
/-! DEFINITION. Pace lock and record mode (R408, R409, R414, R420). -/

namespace Sys2Proof.Machine

/-- PLOCK_WRITE (R408, R420). -/
def plockOp (on : Bool) (s : State) : State :=
  if !s.portOpen then s
  else
    let s := (s.recWrite 0xF0000 (setField (s.rd 0xF0000) 0 1 (b2n on))).ackWrite
    let s := s.fresh 0xF0000 |>.wrF 0xF0000 0 1 (b2n on)
    let s := { s with pitches := s.pitches.map (fun p => { p with locked := on }) }
    if on then [0, 1, 2, 3].foldl (fun s p => s.wr (pwrAt p 0) 1600) s else s

def execPlockWrite (on : Bool) (s : State) : Host.Outcome State Fault Refusal := .next (plockOp on s)

/-- RECORD_CTL_WRITE (R414, R420): the fields of DET_CTL but PLOCK. Setting REC restarts the ring. -/
def recordCtlOp (data : W32) (s : State) : State :=
  if !s.portOpen then s
  else
    let old := s.rd 0xF0000
    let s := (s.recWrite 0xF0000 data.toNat).ackWrite
    let s := (s.fresh 0xF0000).wr 0xF0000 (data.toNat &&& 0xFFF1C ||| old % 2)
    if !(bit old 2) && bit data.toNat 2 then { s with det := { s.det with head := 0, full := false } } else s

def execRecordCtlWrite (data : W32) (s : State) : Host.Outcome State Fault Refusal := .next (recordCtlOp data s)

/-- PACE_LOCK_SLIP (R409). -/
def slipOp (p : Nat) (s : State) : State :=
  if !s.alive || !(s.pitchLive p) || !((s.pitch p).locked) then s
  else s.slip p

def execPaceLockSlip (pitch : Nat) (s : State) : Host.Outcome State Fault Refusal := .next (slipOp pitch s)

end Sys2Proof.Machine
end

