-- ==== Sys2Proof/Machine/Fences.lean ====
section
/-! DEFINITION. The two-party change of the Fence table (R492 to R495). -/

namespace Sys2Proof.Machine

/-- Length of the countersign window (R495). -/
def signWindow : Nat := 1000000

/-- FENCE_TP_WRITE (R492, R521). -/
def fenceTpOp (addr : BitVec 23) (data : W32) (s : State) : State :=
  let a := 4 * addr.toNat
  match regRow a with
  | none => s
  | some r =>
    if !s.portOpen || decide (r.tp = 0) then s
    else
      let s := (s.recWrite a data.toNat).ackWrite
      let v := data.toNat &&& r.tp
      let old := s.fnc.buf.any (fun e => decide (e.1 = a))
      if s.fnc.pend.isSome || decide (0xE0000 ≤ a ∧ a < 0xE0100) || (!old && decide (1024 ≤ s.fnc.buf.length)) then s.ignored a
      else { s with fnc := { s.fnc with
          buf := if old then s.fnc.buf.map (fun e => if e.1 = a then (a, v) else e) else s.fnc.buf ++ [(a, v)] } }

def execFenceTpWrite (addr : BitVec 23) (data : W32) (s : State) : Host.Outcome State Fault Refusal := .next (fenceTpOp addr data s)

/-- PROPOSAL_CLEAR (R492). -/
def proposalClearOp (s : State) : State :=
  if !s.portOpen then s
  else
    let s := (s.recWrite 0xE5000 1).ackWrite
    if s.fnc.pend.isSome then s.ignored 0xE5000 else { s with fnc := { s.fnc with buf := [] } }

def execProposalClear (s : State) : Host.Outcome State Fault Refusal := .next (proposalClearOp s)

/-- The table with every word of the buffer applied (R495). -/
def State.applyProposal (s : State) : State := s.fnc.buf.foldl (fun s e => s.wr e.1 e.2) s

/-- A window of a profile: first byte, size, rights (R490). -/
def State.window (s : State) (n i : Nat) : Nat × Nat × Nat :=
  let w (k : Nat) : Nat := s.rd (0xE0000 + 0x100 * n + 4 * (2 + 4 * i + k))
  (w 0 + w 1 * 2 ^ 32, w 2 * 4096, w 3)

/-- Coordinates a peer box holds on an axis (R490). -/
def boxCoords (word : Nat) (size own : Pos) (a : Nat) : List Nat :=
  let b := axisBox word size own a
  (List.range b.2).map (fun i => (b.1 + i) % size.at_ a)

/-- Profile `n` narrows from `s` to `t` (R493). -/
def narrows (s t : State) (n : Nat) : Bool :=
  let w0 (u : State) : Nat := u.rd (0xE0000 + 0x100 * n)
  let box (u : State) : Nat := u.rd (0xE0004 + 0x100 * n)
  (List.range 15).any (fun i => (List.range 4).any (fun r =>
    let o := s.window n i
    decide (o.2.1 ≠ 0) && bit o.2.2 r && !((List.range 15).any (fun j =>
      let v := t.window n j
      decide (v.2.1 ≠ 0) && bit v.2.2 r && decide (v.1 ≤ o.1) && decide (o.1 + o.2.1 ≤ v.1 + v.2.1))))) ||
  (List.range 5).any (fun b => bit (w0 s) b && !(bit (w0 t) b)) ||
  [0, 1, 2].any (fun a => (boxCoords (box s) s.torus s.own a).any (fun c => !((boxCoords (box t) s.torus s.own a).contains c)))

/-- Contexts whose profile must not narrow (R493). -/
def State.fenced (s : State) : List Nat := tkeys (fun c x => decide (c ≠ 0) && (x.enable || x.tdown)) s.ctxs

/-- R493 refuses a submit. -/
def State.submitBad (s : State) : Bool :=
  let t := s.applyProposal
  decide (s.fnc.buf = []) ||
  s.fenced.any (fun c => narrows s t (s.profile c) || decide (t.profile c ≠ s.profile c))

/-- The proposal stream but its digest (R494), as 64-bit words. -/
def proposalWords (num : Nat) (buf : List (Nat × Nat)) : List Nat :=
  (num + buf.length * 2 ^ 32) :: buf.map (fun e => e.1 * 2 ^ 32 + e.2)

def proposalDigest (num : Nat) (buf : List (Nat × Nat)) : Nat := crcN ((proposalWords num buf).flatMap (le 8))

/-- PROPOSAL_SUBMIT (R492 to R494). -/
def proposalSubmitOp (s : State) : State :=
  if !s.portOpen then s
  else
    let s := (s.recWrite 0xE5000 2).ackWrite
    if s.fnc.pend.isSome then s.ignored 0xE5000
    else if s.submitBad then s.setBit 0xE5008 3
    else
      let n := (s.rd 0xE5004 + 1) % 2 ^ 32
      let d := proposalDigest n s.fnc.buf
      let s := { s with fnc := { s.fnc with pend := some ⟨n, d, s.el⟩, sent := s.fnc.sent ++ proposalWords n s.fnc.buf ++ [d] } }
      ((s.wr 0xE5004 n).notice 4).event 0x50 0 n s.fnc.buf.length

def execProposalSubmit (s : State) : Host.Outcome State Fault Refusal := .next (proposalSubmitOp s)

/-- Nothing is pending any more. -/
def State.unpend (s : State) : State := { s with fnc := { s.fnc with pend := none } }

/-- RANGER_VERDICT (R494, R495). -/
def verdictOp (word : W64) (s : State) : State :=
  let w := word.toNat
  if !s.portOpen then s
  else match s.fnc.pend with
  | none => s.count 0xE5010 1
  | some p =>
    if bits w 1 32 ≠ p.num ∨ bits w 33 31 ≠ p.digest % 2 ^ 31 ∨ p.at_ + signWindow < s.el then s.count 0xE5010 1
    else if bit w 0 then s.applyProposal.unpend.setBit 0xE500C 0
    else s.unpend.setBit 0xE5008 1

def execRangerVerdict (word : W64) (s : State) : Host.Outcome State Fault Refusal := .next (verdictOp word s)

/-- COUNTERSIGN_EXPIRE (R495). -/
def signExpireOp (s : State) : State :=
  match s.fnc.pend with
  | none => s
  | some p =>
    if s.portOpen && decide (p.at_ + signWindow ≤ s.el) then
      ((s.unpend.setBit 0xE5008 2).notice 4).event 0x51 0 p.num 0
    else s

def execCountersignExpire (s : State) : Host.Outcome State Fault Refusal := .next (signExpireOp s)

end Sys2Proof.Machine
end

