-- ==== Sys2Proof/Machine/Launch.lean ====
section
/-! DEFINITION. The launch of a step (R114, R120, R134, R136, R243, R360 to R365) and the end of its work: what is written
back (R196, R241, R312, R338, R352 to R358), its query record (R123, R201, R392, R410). -/

namespace Sys2Proof.Machine

/- Launch -/

/-- Bytes of the exit mask of a step. -/
def Desc.maskLen (d : Desc) : Nat := 64 * ceilDiv d.n 512

/-- The exit mask at launch (R120); no bit is set without one. -/
def launchMask (hv : HostView) (d : Desc) : Bytes :=
  if d.exitAddr = 0 ∨ d.tokens = false then zeros d.maskLen else hv1 hv d.exitAddr d.maskLen

/-- Read the exit mask (R120). -/
def State.launchExits (s : State) (c : Nat) (st : Step) (hv : HostView) : State :=
  let m := launchMask hv st.desc
  let s := s.modStep c (fun st => { st with sc := { st.sc with mask0 := m, mask := m } })
  if st.desc.exitAddr = 0 ∨ st.desc.tokens = false then s else s.chargeRead c 1 st.desc.exitAddr st.desc.maskLen

/-- Forward steps (R120, R136): sequence identifiers, rows of the tokens to score. -/
def State.launchScored (s : State) (c : Nat) (st : Step) (hv : HostView) : State :=
  let d := st.desc
  let m := launchMask hv d
  let toks := (List.range d.n).filter (fun t => !(maskBit m t))
  let seqs := if d.usesSeq then (hvWords hv d.seqmapAddr d.nDec).map BitVec.toNat else []
  let s := if d.usesSeq then s.chargeRead c 1 d.seqmapAddr (4 * d.nDec) else s
  let s := s.modStep c (fun st => { st with sc := { st.sc with toks := toks, seqs := seqs } })
  (toks.foldl (State.readRow c st) s).afterScore c

/-- A recorded copy in the backward step's membership (R175, R243). -/
def State.backCopy (s : State) (st : Step) (e : SendE) : Option SendE :=
  if st.bind.serve.contains e.chip then some e
  else
    (s.shadowOf st e.slot).map (fun i =>
      let sl := st.bind.table.slots.getD i default
      { e with slot := i, chip := sl.chip, loc := sl.loc, shad := true })

/-- Copy section of a ledger (R241). -/
def readCopies (hv : HostView) (a : Nat) : List SendE :=
  let h := parseLed (hv1 hv a 64)
  (List.range h.nCopy).map (fun i => parseSend (hv1 hv (a + 64 + 128 * h.nRec + 16 * i) 16))

/-- Bytes of a ledger that a step reads. -/
def ledgerLen (hv : HostView) (a : Nat) (copies : Bool) : Nat :=
  let h := parseLed (hv1 hv a 64)
  64 + 128 * h.nRec + (if copies then 16 * h.nCopy else 0)

/-- Backward steps (R243): tokens and routes from the ledger. -/
def State.launchBackward (s : State) (c : Nat) (st : Step) (hv : HostView) : State :=
  let a := st.desc.ledgerAddr
  let ls := readLedger hv a
  let cs := readCopies hv a
  let sent := cs.filterMap (s.backCopy st)
  let s := (s.chargeRead c 1 a (ledgerLen hv a true)).count 0x40018 (cs.length - sent.length)
  let s := s.modStep c (fun st => { st with rt := { st.rt with
    ledger := ls
    alloc := true
    list := sent.map (fun e => ({ e := e } : SendSt)) } })
  (((ls.map Prod.fst).foldl (State.readRow c st) s).spillList c).listDone c

/-- Router updates that accumulate (R360, R361): token records, score gradients, rows. -/
def State.launchGather (s : State) (c : Nat) (st : Step) (hv : HostView) : State :=
  let a := st.desc.ledgerAddr
  let ls := readLedger hv a
  let s := (s.chargeRead c 1 a (ledgerLen hv a false)).chargeRead c 1 (st.desc.gradAddr + 64) (64 * st.desc.n)
  let st' := { st with rt := { st.rt with ledger := ls } }
  let ops := if st.zOn && !(feq st.learn.zc 0#32) then (ls.map (fun l => l.2.2.picks.length + 1)).foldl (· + ·) 0 else 0
  let s := (s.sfn (s.allocPitch c) c ops (st'.zCount ls)).modStep c (fun st => { st with
    rt := { st.rt with ledger := ls }
    por := { st.por with gs := st'.readGrads hv ls } })
  (ls.map Prod.fst).foldl (State.readRow c st) s

/-- Writes of an apply that wait for no other (R363 to R365), with what BAL_NONFIN and the special functions count. -/
structure Applied where
  writes : List (MemUnit × Nat × Bytes)
  icheck : Nat
  nonfin : Nat
  cnt : SfnCnt
  deriving DecidableEq, Repr, Inhabited

/-- The update of a layer's router (R363 to R365). -/
def Step.applied (st : Step) (hv : HostView) : Applied :=
  let l := st.bind.dir
  let r := st.learn
  let b := st.bind.bal.getD (parseBal l.nExp [])
  let n := l.nExp * l.d
  let g := hvWords hv (st.stateAt 6) n
  let u := applyRule r st.samp.w1 (b.t + 1) l.nExp l.d g
    ⟨hvWords hv (st.stateAt 3) l.d, hvWords hv (st.stateAt 4) l.nExp, hvWords hv (st.stateAt 5) n, hvWords hv (st.stateAt 7) n, 0, ⟨0, 0⟩⟩
  let img (f a : Nat) : Bytes := newImage l f (hv1 hv a (imageBytes f l.cols l.d32)) u.wm
  let w := img l.lfmt l.waddr
  { writes :=
      [(.balOut, r.stateAddr, balHeader { b with t := (b.t + 1) % 2 ^ 32, nAcc := 0 })] ++
      (if r.rule = 2 then [(.balOut, st.stateAt 3, wordBytes u.r), (.balOut, st.stateAt 4, wordBytes u.c)] else []) ++
      [(.balOut, st.stateAt 5, wordBytes u.wm), (.balOut, st.stateAt 6, zeros (4 * n)), (.balOut, st.stateAt 7, wordBytes u.m)] ++
      (if l.lfmt = 1 then [] else [(.shadowOut, l.saddr, img 1 l.saddr)]) ++
      [(.shadowOut, l.waddr, w)]
    icheck := crcN w
    nonfin := u.nonfin
    cnt := u.cnt }

/-- icheck and echeck of the rewritten layer-directory entry (R146, R365). -/
def entryTail (hv : HostView) (a icheck : Nat) : Bytes :=
  let b := hv1 hv a 24 ++ le 4 icheck
  le 4 icheck ++ le 4 (crcN b)

/-- Router updates that apply (R363 to R365). -/
def State.launchApply (s : State) (c : Nat) (st : Step) (hv : HostView) : State :=
  let l := st.bind.dir
  let u := st.applied hv
  let a := s.rd2 (modelBase st.desc.model) + 32 * st.desc.layer
  let passes := if st.learn.rule = 2 then 2 else 1
  let s := (s.sfn (s.allocPitch c) c (l.nExp * l.d * passes) u.cnt).count 0x90008 u.nonfin
  let s := (s.chargeRead c 1 (st.stateAt 3) (st.stateAt 8 - st.stateAt 3)).chargeRead c 1 l.waddr (imageBytes l.lfmt l.cols l.d32)
  let s := u.writes.foldl (fun s w => s.memWrite c 1 w.2.1 w.2.2 ⟨w.1, 0⟩) s
  let mine (i : Img) : Bool := decide (i.held = []) && (decide (i.addr = l.waddr) || decide (i.addr = l.saddr))
  (s.modKtl (fun x => { x with imgs := x.imgs.filter (fun i => !(mine i)) })).modStep c (fun st =>
    { st with last := [(.shadowOut, a + 24, entryTail hv a u.icheck)] })

/-- What a step does first, by its kind (R118). -/
def State.launchWork (s : State) (c : Nat) (st : Step) (hv : HostView) : State :=
  if st.desc.kind = 1 ∨ st.desc.kind = 2 then s.launchScored c st hv
  else if st.desc.kind = 3 then s.launchBackward c st hv
  else if st.desc.kind = 4 then
    if st.desc.gathers then s.launchGather c st hv else s.launchApply c st hv
  else s

/-- A step may launch now (R114); one of a share-based context only while the rota permits it (R111), a late one too
(DEDUCED, log entry 177). -/
def State.launchDue (s : State) (c : Nat) (st : Step) : Bool :=
  let x := s.ctx c
  (x.rt || s.fillAt s.now) &&
  s.on && x.active && decide (x.st = .running) && !st.launched && !st.cancelled && !st.ended && decide (x.launch ≤ s.now)

/-- STEP_LAUNCH (R114, R268, R414). -/
def stepLaunchOp (c : Nat) (hv : HostView) (s : State) : State :=
  match s.step? c with
  | none => s
  | some st =>
    if !(s.launchDue c st) then s
    else if hv.fault ≠ 0 then s.ctxFault c hv.fault
    else
      let s := s.record 2 0 (some c) st.epoch s.now (s.ctx c).go.desc [] false
      let s := s.modStep c (fun st => { st with
        launched := true
        cnt := { st.cnt with tLaunch := s.now, elLaunch := s.el, prog := s.el, quiet := s.el } })
      ((s.launchExits c st hv).bump c 0 1).launchWork c { st with launched := true } hv

def execStepLaunch (ctx : Nat) (hv : HostView) (s : State) : Host.Outcome State Fault Refusal := .next (stepLaunchOp ctx hv s)

/- End -/

/-- The tokens of a step are over: every one combined, its dispatch complete on this chip, every copy that landed here
answered (R230, R262, R330). -/
def Step.tokensOver (st : Step) : Bool :=
  !st.desc.tokens ||
  ((List.range st.desc.n).all st.por.comb.contains && st.rt.alloc && st.dst.complete && decide (st.dst.owed = []) &&
    (!(st.desc.flag 4) || st.por.cue.done))

/-- All work of a step but its chains is complete (R121, R123). -/
def State.workOver (s : State) (c : Nat) (st : Step) : Bool :=
  st.launched && st.tokensOver && decide (st.insts = []) && decide (st.sc.pairs = []) && decide (st.sc.gjobs = []) &&
  decide (st.sc.rjobs = []) && decide (s.tilesOf c = []) && (!st.desc.gathers || st.gradsDone) &&
  s.xch.retq.all (fun r => !(decide (r.ctx = c ∧ r.epoch = st.epoch)))

/-- All work of a step is complete. -/
def State.workDone (s : State) (c : Nat) (st : Step) : Bool :=
  s.workOver c st && st.chains.all (fun h => decide (h.st = 3)) && !st.cancelled && !st.ended

/-- Counts per slot of the stats area (R196). -/
def Step.statCounts (st : Step) : Bytes :=
  (List.range st.bind.table.nSlot).flatMap (fun i => le 4 (st.rt.list.filter (fun e => decide (e.e.slot = i))).length)

/-- Write the stats area (R196). -/
def State.writeStats (s : State) (c : Nat) (st : Step) : State :=
  if st.desc.flag 6 then
    let bs := st.statCounts
    State.memWriteAny c 1 ⟨.statsOut, 0⟩ (ceilDiv bs.length 4032) st.desc.statsAddr bs s
  else s

/-- Header of the route ledger (R241). -/
def Step.ledgerHeader (st : Step) (nRec : Nat) : Bytes :=
  let d := st.desc
  withCrc (le 1 1 ++ le 1 d.model ++ le 1 d.layer ++ le 1 d.choice ++ le 2 st.bind.tver ++ le 2 st.bind.mver ++ le 4 nRec ++
    le 4 st.rt.list.length ++ le 4 (st.c0.getD 0xFFFFFFFF) ++ le 4 st.bind.seq ++ le 1 st.epoch ++ le 1 d.payFmt ++ zeros 2 ++
    le 4 st.scored ++ le 8 d.cookie ++ zeros 20)

/-- Header of the keep area (R338). -/
def Step.keepHeader (st : Step) : Bytes :=
  let d := st.desc
  withCrc (le 1 1 ++ le 1 d.k ++ le 1 d.payFmt ++ zeros 1 ++ le 4 d.n ++ le 4 (st.rrow / 64) ++ le 4 st.bind.seq ++ le 8 d.cookie ++
    le 1 st.epoch ++ zeros 35)

/-- A later write of a step, with its place in the digest of R418 where it has one. -/
def State.postLast (s : State) (c : Nat) (w : MemUnit × Nat × Bytes) : State :=
  s.modStep c (fun st => { st with last := st.last ++ [w] })

/-- Write the ledger of a kind 0x2 step but its header (R241). -/
def State.writeLedger (s : State) (c : Nat) (st : Step) : State :=
  if st.desc.kind ≠ 2 then s
  else
    let d := st.desc
    let recs := st.takers.flatMap (fun x => ledgerRec st.samp.ec x.1 x.2)
    let copies := st.rt.list.flatMap (fun e => sendBytes c st.epoch s.glb.chip e.e)
    let off := 64 + recs.length
    let s := (s.memWrite c 1 (d.ledgerAddr + 64) recs ⟨.ledgerOut, 0⟩).digestLines c 2 64 recs
    let s := (State.memWriteAny c 1 ⟨.ledgerOut, 1⟩ (ceilDiv copies.length 4032) (d.ledgerAddr + off) copies s).digestLines c 2 off copies
    let h := st.ledgerHeader st.takers.length
    let s := (s.postLast c (.ledgerOut, d.ledgerAddr, h)).digestLines c 2 0 h
    if d.gradAddr = 0 then s
    else (s.postLast c (.keepOut, d.gradAddr, st.keepHeader)).digestLines c 2 0 st.keepHeader

/-- An affinity entry (R312): count and chosen set. -/
def affBytes (q m l cn stamp : Nat) (es : List Nat) : Bytes :=
  withCrc (le 4 q ++ le 1 m ++ le 1 l ++ le 1 (cn + 16 * es.length) ++ zeros 1 ++ le 4 stamp ++
    (List.range 8).flatMap (fun i => le 2 (es.getD i 0xFFFF)))

/-- Decode tokens that took part, with their sequences and chosen sets (R312). -/
def Step.affTokens (st : Step) : List (Nat × List Nat) :=
  (st.takers.filter (fun x => decide (x.1 < st.desc.nDec))).map (fun x => (st.sc.seqs.getD x.1 0, x.2.picks.map Pick.e))

/-- Write the affinity entries (R312), of token choice only; two of one place count in turn. -/
def State.writeAff (s : State) (c : Nat) (st : Step) (hv : HostView) : State :=
  let order := s.page c 0x88
  let d := st.desc
  if (d.kind = 1 ∨ d.kind = 2) ∧ 1 ≤ order ∧ order ≤ 20 ∧ st.affTokens ≠ [] ∧ st.samp.ec = false then
    let r := st.affTokens.foldl (fun (a : State × Table Bytes) x =>
      let ad := a.1.affAddr c x.1 d.model d.layer
      let old := tget [] a.2 ad
      let b := if old = [] then hv1 hv ad 32 else old
      let cn := match parseAff b x.1 d.model d.layer with
        | some _ => min 15 (bits (fld b 6 1) 0 4 + 1)
        | none => 1
      let w := affBytes x.1 d.model d.layer cn st.bind.seq x.2
      ((a.1.chargeRead c 1 ad 32).memWriteWords c 1 ad w ⟨.affOut, 0⟩, tput [] ad w a.2)) (s, [])
    r.1.modCtx c (fun x => { x with affObs := satAdd 8 x.affObs 1 })
  else s

/-- The step is observed (R352). -/
def Step.observed (st : Step) : Bool :=
  let d := st.desc
  st.bind.owned && d.flag 7 && (decide (d.kind = 1) || decide (d.kind = 2)) && !st.samp.ec && decide (st.learn.win ≠ 0)

/-- A window close has a proposal due (R355). -/
def propDue (l : LearnRec) (b : BalState) : Bool := bit l.lflags 2 && decide (l.rev ≠ 0) && decide (b.wins % l.rev = 0)

/-- The Balancer's observation (R352 to R358). -/
def State.observeLoad (s : State) (c : Nat) (st : Step) : State :=
  match st.bind.bal with
  | none => s
  | some b =>
    if !st.observed then s
    else
      let l := st.learn
      let t := st.bind.table
      let r := observe (isNull t) (nReal t) l (fun e => tget 0 st.rt.dtot e) b
      let s := s.memWrite c 1 l.stateAddr (balBytes r.1) ⟨.balOut, 0⟩
      if !r.2 then s
      else
        let s := s.count 0x90000 1
        if !(propDue l r.1) then s
        else
          let p := proposalBytes st.desc.model st.desc.layer st.bind.tver st.samp.w1 t st.bind.tab r.1 (proposal t st.bind.tab l r.1)
          let s := s.sfn (s.allocPitch c) c (propRow t r.1).length (propCount st.samp.w1 t r.1)
          let s := s.modStep c (fun st => { st with prop := true })
          (s.memWrite c 1 (l.propAddr + 64) (p.drop 64) ⟨.propOut, 0⟩).postLast c (.propOut, l.propAddr, p.take 64)

/-- n_acc of an accumulation (R362). -/
def State.writeAcc (s : State) (c : Nat) (st : Step) : State :=
  if !st.desc.gathers then s
  else
    let b := st.bind.bal.getD (parseBal st.bind.dir.nExp [])
    s.memWrite c 1 st.learn.stateAddr (balHeader { b with nAcc := (b.nAcc + st.rt.ledger.length) % 2 ^ 32 }) ⟨.balOut, 0⟩

/-- First part of the end: everything that need not go last is written. -/
def State.writeBack (s : State) (c : Nat) (st : Step) (hv : HostView) : State :=
  let s := (((s.writeStats c st).writeLedger c st).writeAff c st hv).observeLoad c st
  (s.writeAcc c st).modStep c (fun st => { st with por := { st.por with wrote := 1 } })

/-- A write that goes last. -/
def State.writeOne (c : Nat) (s : State) (w : MemUnit × Nat × Bytes) : State :=
  if w.2.1 % 64 = 0 then s.memWrite c 1 w.2.1 w.2.2 ⟨w.1, 1⟩ else s.memWriteWords c 1 w.2.1 w.2.2 ⟨w.1, 1⟩

/-- Second part: the writes that go last (R241, R338, R358, R365). -/
def State.writeLast (s : State) (c : Nat) (st : Step) : State :=
  (st.last.foldl (State.writeOne c) s).modStep c (fun st => { st with last := [], por := { st.por with wrote := 2 } })

/-- The record's tick has come under pace lock (R410). -/
def State.quantNow (s : State) (st : Step) : Bool :=
  !st.samp.plock || (decide ((s.now - st.cnt.tLaunch) % st.samp.quant = 0) && decide (st.cnt.tLaunch < s.now))

/-- DET_MARGIN takes the slack of a record (R410). -/
def State.margin (s : State) (st : Step) : State :=
  if st.samp.plock then s.wr 0xF0008 (min (s.rd 0xF0008) (s.now - st.cnt.whole.getD s.now)) else s

/-- SLOW_NOW and SLOW_AVG (R392). -/
def slowNext (x : Ctx) (run other : Nat) : Ctx :=
  let n := min 0xFFFF (256 * run / max 1 (run - other))
  let d : Int := (Int.ofNat n - Int.ofNat x.slowAvg).tdiv 16
  { x with slowNow := n, slowAvg := if x.slowSet then (Int.ofNat x.slowAvg + d).toNat else n, slowSet := true }

/-- Counters that a done step adds (R196, R201). -/
def State.doneCounts (s : State) (st : Step) : State :=
  (((s.count 0x30020 st.cnt.ovr).count 0x30024 st.cnt.drop).count 0x30028 st.cnt.skips).count 0x3002C st.rt.untaken

/-- Tokens that the done record reports (R123, R362). -/
def Step.reported (st : Step) (q : Query) : Query := if st.desc.gathers then { q with nTok := st.rt.ledger.length } else q

/-- Last part: the query record (R123, R201, R355, R392). -/
def State.finish (s : State) (c : Nat) (st : Step) : State :=
  let run := s.el - st.cnt.elLaunch
  let s := (s.margin st).doneCounts st
  let s := if st.prop then (s.count 0x90004 1).event 0x26 c st.desc.layer st.desc.model else s
  let s := s.modCtx c (fun x => slowNext x run st.cnt.tOther)
  let s := s.modStep c (fun st => { st with ended := true })
  s.postQuery c 1 (st.reported (s.stepQuery c st false))

/-- The end of a step goes on as far as its writes have their responses (R123, R241), up to its record (R410). -/
def State.endGo (c : Nat) : Nat → State → State
  | 0, s => s
  | n + 1, s =>
    match s.step? c with
    | none => s
    | some st =>
      if !(s.ctx c).active || st.cancelled || st.ended || s.writesOut c then s
      else if st.por.wrote = 1 then State.endGo c n (s.writeLast c st)
      else if st.por.wrote = 2 then
        let st := { st with cnt := { st.cnt with whole := some (st.cnt.whole.getD s.now) } }
        let s := s.modStep c (fun _ => st)
        if s.quantNow st then s.finish c st else s
      else s

/-- STEP_DONE (R123, R241, R410). -/
def stepDoneOp (c : Nat) (hv : HostView) (s : State) : State :=
  match s.step? c with
  | none => s
  | some st =>
    if !s.on || !(s.ctx c).active || !(s.workDone c st) then s
    else if st.por.wrote ≠ 0 then State.endGo c 2 s
    else if hv.fault ≠ 0 then s.ctxFault c hv.fault
    else State.endGo c 2 (s.writeBack c st hv)

def execStepDone (ctx : Nat) (hv : HostView) (s : State) : Host.Outcome State Fault Refusal := .next (stepDoneOp ctx hv s)

end Sys2Proof.Machine
end

