-- ==== Sys2Proof/Machine/Infuse.lean ====
section
/-! DEFINITION. The Infuser's copies (R366 to R369, R444, R445), put completions (R270), checkpoint advice and snapshots
(R446 to R451), restores (R452, R524). -/

namespace Sys2Proof.Machine

/-- Infuser pieces for a chip (R367, R445): traffic class 2, kind 0x4, context 0. -/
def infPieces (dchip a ref : Nat) (bs : Bytes) : List OutPiece := cutPieces ⟨0, 0, dchip, false, 4, 4, 2, 0, 0, [], ref⟩ a bs

/-- A chip is a member of the live version. -/
def State.isMember (s : State) (c : Nat) : Bool := decide (entState (tget 0 s.memb.live c) = 1)

/- Router copies -/

/-- What the Infuser writes of a layer (R367): images and state area, with their sizes rounded up to 64 bytes. -/
structure LayerCopy where
  entry : Bytes
  rec_ : Bytes
  score : Bytes
  shadow : Bytes
  state : Bytes
  deriving DecidableEq, Repr, Inhabited

/-- Header, bias and ema of a source layer (R350, R367); zeros for a model without learning records. -/
def stateFront (hv : HostView) (a e : Nat) : Bytes :=
  let n := 64 + 2 * roundUp 64 (4 * e)
  if a = 0 then zeros n else hv1 hv a n

/-- Read a layer of the source model (R146, R348, R366). -/
def readLayer (hv : HostView) (base ldir k : Nat) : LayerCopy :=
  let en := hv1 hv (base + 32 * k) 32
  let l := parseLDir en
  let rc := if ldir = 0 then zeros 64 else hv1 hv (ldir + 64 * k) 64
  { entry := en
    rec_ := rc
    score := hv1 hv l.waddr (imageBytes l.lfmt l.cols l.d32)
    shadow := if l.lfmt = 1 then [] else hv1 hv l.saddr (imageBytes 1 l.cols l.d32)
    state := stateFront hv (fld rc 40 8) l.nExp }

/-- Bytes of a layer's structures in the destination region. -/
def LayerCopy.size (l : LayerCopy) : Nat := roundUp 64 l.score.length + roundUp 64 l.shadow.length + roundUp 64 l.state.length

/-- The layer-directory entry for the destination: images at `a` and `b` (R367). -/
def destEntry (l : LayerCopy) (a b : Nat) : Bytes :=
  withCrc (l.entry.take 8 ++ le 8 a ++ (if l.shadow = [] then sub l.entry 16 8 else le 8 b) ++ sub l.entry 24 4)

/-- The learning record for the destination (R367): rule, win, rev and prop_addr zero, bit 0 of lflags, state area at `a`. -/
def destRecord (l : LayerCopy) (a : Nat) : Bytes :=
  withCrc (le 1 0 ++ le 1 (fld l.rec_ 1 1 % 2) ++ zeros 2 ++ sub l.rec_ 4 36 ++ le 8 a ++ zeros 8 ++ sub l.rec_ 56 4)

/-- Places of the layers' structures from `a`. -/
def layerPlaces : Nat → List LayerCopy → List (LayerCopy × Nat)
  | _, [] => []
  | a, l :: r => (l, a) :: layerPlaces (a + l.size) r

/-- Size of the layout of R367. -/
def routerSize (ls : List LayerCopy) : Nat :=
  roundUp 64 (32 * ls.length) + 64 * ls.length + (ls.map LayerCopy.size).foldl (· + ·) 0

/-- Pieces of a router copy with the layer of each, in the order of R367. -/
def routerPieces (dchip base : Nat) (ls : List LayerCopy) : List (OutPiece × Nat) :=
  let ldir := base + roundUp 64 (32 * ls.length)
  let ps := layerPlaces (ldir + 64 * ls.length) ls
  let sh (p : LayerCopy × Nat) : Nat := p.2 + roundUp 64 p.1.score.length
  let st (p : LayerCopy × Nat) : Nat := sh p + roundUp 64 p.1.shadow.length
  let go (k a : Nat) (bs : Bytes) : List (OutPiece × Nat) := (infPieces dchip a refRouter bs).map (fun q => (q, k))
  ps.zipIdx.flatMap (fun p => go p.2 p.1.2 p.1.1.score ++ go p.2 (sh p.1) p.1.1.shadow ++ go p.2 (st p.1) p.1.1.state) ++
  go (ls.length - 1) ldir (ps.flatMap (fun p => destRecord p.1 (st p))) ++
  go (ls.length - 1) base (ps.flatMap (fun p => destEntry p.1 p.2 (sh p)))

/-- The start of a copy is refused (R366, R444). -/
def State.infRefuse (s : State) (expert : Bool) : State := s.event 0x23 0 (b2n expert) 0

/-- A memory fault of a copy's reads is a block fault of context 0 (R52). -/
def State.zeroFault (s : State) (hv : HostView) (a : Nat) : State := s.memFault 0 hv.fault ((s.chanOf a).getD 0)

/-- Take up a router copy (R366, R367). -/
def State.routerCopy (s : State) (hv : HostView) (b : Bytes) : State :=
  let m := fld b 1 1
  let dchip := fld b 2 2 % 4096
  let base := s.rd2 (modelBase m)
  let ldir := s.ldirOf m
  let ls := (List.range (s.modelLayers m)).map (readLayer hv base ldir)
  if fld b 0 1 ≠ 1 ∨ 63 < m ∨ s.resident m = false ∨ s.isMember dchip = false ∨ fld b 4 4 * 65536 < routerSize ls then s.infRefuse false
  else
    let ps := routerPieces dchip (fld b 8 8) ls
    let n := (ps.map (fun p => p.1.data.length)).foldl (· + ·) 0
    let s := s.modCopy false (fun _ => { busy := true, dchip := dchip, left := n, layers := ps.map Prod.snd, at_ := s.el })
    let s := (s.chargeMem s.glb.anchor 0 2 (ceilDiv n 64)).postPieces (ps.map Prod.fst)
    if n = 0 then s.infDone false else s

/-- ROUTER_COPY_GO (R366). -/
def routerGoOp (hv : HostView) (s : State) : State :=
  if !s.portOpen then s
  else
    let a := s.rd2 0xC0070
    let s := s.chargeRead 0 2 a 64
    let s' := if s.rsl.rinf.busy then s.infRefuse false
      else if hv.fault ≠ 0 then (s.zeroFault hv a).infRefuse false
      else match readChecked hv a 64 with
      | none => s.infRefuse false
      | some b => s.routerCopy hv b
    s'.wrote 0xC0078 1

def execRouterCopyGo (hv : HostView) (s : State) : Host.Outcome State Fault Refusal := .next (routerGoOp hv s)

/- Expert copies -/

/-- An entry of an expert copy's list (R444): layer, source local index, destination buffer, version-word address. -/
structure CopyEnt where
  layer : Nat
  loc : Nat
  buf : Nat
  word : Nat
  deriving DecidableEq, Repr, Inhabited

def parseCopyEnt (b : Bytes) : CopyEnt := ⟨fld b 0 1, fld b 2 2, fld b 8 8, fld b 16 8⟩

/-- The source entry of a list entry, when it holds the version (R440, R444). -/
def State.sourceEntry (s : State) (hv : HostView) (m v : Nat) (e : CopyEnt) : Option Bytes :=
  if s.ewdir m = 0 ∨ s.modelLayers m ≤ e.layer then none
  else match expertEntry hv (s.ewdir m) e.layer e.loc with
  | none => none
  | some b => if entryHolds b v then some b else none

/-- Send the version word of entry `i` of the expert copy (R445). -/
def State.sendWord (s : State) (i a : Nat) : State :=
  let x := s.rsl.einf
  s.postPieces (infPieces x.dchip a (refWord i) (le 4 x.ver))

/-- Take up an expert copy (R444, R445). -/
def State.expertCopy (s : State) (hv : HostView) (b : Bytes) : State :=
  let m := fld b 1 1
  let dchip := fld b 2 2 % 4096
  let v := fld b 4 4
  let n := fld b 16 2
  let es := (List.range n).map (fun i => parseCopyEnt (hv1 hv (fld b 8 8 + 32 * i) 32))
  let src := es.map (s.sourceEntry hv m v)
  if fld b 0 1 ≠ 2 ∨ 63 < m ∨ s.resident m = false ∨ s.isMember dchip = false ∨ n = 0 ∨ src.all Option.isSome = false then s.infRefuse true
  else
    let imgs := (es.zip (src.filterMap id)).map (fun p => (p.1, hv1 hv (entryBuf p.2 v).1 (entryBuf p.2 v).2))
    let total := (imgs.map (fun p => p.2.length)).foldl (· + ·) 0
    let s := s.modCopy true (fun _ =>
      { busy := true, dchip := dchip, ver := v, ents := imgs.map (fun p => (p.2.length, p.1.word)), at_ := s.el })
    let s := (s.chargeRead 0 2 (fld b 8 8) (32 * n)).chargeMem s.glb.anchor 0 2 (ceilDiv total 64)
    imgs.zipIdx.foldl (fun s p =>
      if p.1.2 = [] then s.sendWord p.2 p.1.1.word else s.postPieces (infPieces dchip p.1.1.buf (refExpert p.2) p.1.2)) s

/-- EXPERT_COPY_GO (R444). -/
def expertGoOp (hv : HostView) (s : State) : State :=
  if !s.portOpen then s
  else
    let a := s.rd2 0xC0060
    let s := s.chargeRead 0 2 a 64
    let s' := if s.rsl.einf.busy then s.infRefuse true
      else if hv.fault ≠ 0 then (s.zeroFault hv a).infRefuse true
      else match readChecked hv a 64 with
      | none => s.infRefuse true
      | some b => s.expertCopy hv b
    s'.wrote 0xC0068 1

def execExpertCopyGo (hv : HostView) (s : State) : Host.Outcome State Fault Refusal := .next (expertGoOp hv s)

/-- INFUSION_STALL (R369). -/
def infStallOp (router : Bool) (s : State) : State :=
  let x := s.copy (!router)
  if s.on && x.busy && decide (x.at_ + 2 ^ 22 ≤ s.el) then s.infFail (!router) else s

def execInfusionStall (router : Bool) (s : State) : Host.Outcome State Fault Refusal := .next (infStallOp router s)

/- Snapshots -/

/-- Addresses of the register part of the block section (R523), ascending, with the bits that it carries. -/
def partRegs : List (Nat × Nat) :=
  let out (a : Nat) : Bool := decide (0x10000 ≤ a ∧ a < 0x18008) || decide (0x60000 ≤ a ∧ a < 0x64000)
  sortBy (fun a b => decide (a.1 < b.1)) (regRows.flatMap (fun r =>
    let m := r.rw ||| r.lk ||| r.tp
    if m = 0 then [] else ((List.range r.n).map (fun i => (r.lo + i * r.step, m))).filter (fun x => !(out x.1))))

/-- Words of the register part (R523). -/
def State.partWord (s : State) (x : Nat × Nat) : Nat :=
  if 0xD0000 ≤ x.1 ∧ x.1 < 0xD0400 ∧ bit s.glb.present ((x.1 - 0xD0000) / 0x100) = false then 0 else s.rd x.1 &&& x.2

/-- LEN and slot words of a rota copy (R523). -/
def State.rotaWords (s : State) (b : Bool) : List Nat :=
  s.rotaLen b :: (List.range 4096).map (fun i => s.rd ((if b then 0x14000 else 0x10000) + 4 * i))

/-- The block section (R448, R523). -/
def State.blockSection (s : State) : Bytes :=
  let ws := partRegs.map s.partWord ++ s.rotaWords s.stp.live ++ s.rotaWords (!s.stp.live) ++
    [s.memb.ver] ++ (List.range 4096).map (tget 0 s.memb.live) ++ (List.range 4096).map s.groupWord ++
    [s.stn.ver % 65536, s.rd 0x20000, s.rd 0x20004] ++ (List.range 64).map (fun m => s.rd (wverAt m))
  exactly (2 ^ 20) (ws.flatMap (le 4))

/-- Sequence number of the last query record written (R449): one less while a record's response is awaited. -/
def State.lastAsk (s : State) (c : Nat) : Nat :=
  let q := s.page c 0x0C
  let out := s.mem.chs.any (fun ch => ch.out.any (fun o => decide (o.req.ctx = c ∧ o.req.why = ⟨.query, q⟩)))
  if out && decide ((s.ctx c).ask.pend ≠ 2) then (q + 2 ^ 32 - 1) % 2 ^ 32 else q

/-- The record of a context (R449). -/
def State.ctxRecord (s : State) (c : Nat) : Bytes :=
  let x := s.ctx c
  let run := decide (x.st = .running)
  let at_ : AtAccept := match x.step with
    | some st => if run then st.at_ else ⟨x.v, x.acct, x.slowAvg, x.affObs, []⟩
    | none => ⟨x.v, x.acct, x.slowAvg, x.affObs, []⟩
  let ask := match x.step with
    | some st => if run then st.bind.seq else s.lastAsk c
    | none => s.lastAsk c
  let p (off : Nat) : Nat := if run then at_.regs.getD (recOffs.idxOf off) 0 else s.page c off
  let p2 (off : Nat) : Nat := p off + p (off + 4) * 2 ^ 32
  withCrc (le 2 c ++ le 1 (b2n x.enable + b2n x.rt * 2 + b2n run * 4) ++ le 1 x.tent ++ le 4 (p 4) ++ le 4 ask ++
    le 4 (x.seqNo - b2n run) ++ le 8 (p2 0x30) ++ le 1 at_.affObs ++ le 1 (p 0x18) ++ le 1 (p 0x1C) ++ le 1 (p 0x88) ++
    le 4 (p 0x28) ++ le 8 (p2 0x10) ++ le 8 (p2 0x20) ++ le 8 at_.v ++
    (List.range 6).flatMap (fun k => le 8 (tget 0 at_.acct k)) ++ le 8 (tget 0 at_.acct acctFj) ++ le 2 at_.slowAvg ++
    le 2 (p 0x3C) ++ le 4 (p 0x7C) ++ le 4 (p 0x38) ++ zeros 4 ++ le 8 (p2 0x40) ++ le 4 (p 0x48) ++ le 4 (p 0x58) ++
    le 8 (p2 0x50) ++ le 8 (p2 0x60) ++ le 4 (p 0x68) ++ le 4 (p 0x78) ++ le 8 (p2 0x70) ++ le 8 (p2 0x80) ++ zeros 68)

/-- The context section (R448). -/
def State.ctxSection (s : State) : Bytes := (List.range 4096).flatMap s.ctxRecord

/-- Offset of a slot, of its Cairn (R448). -/
def slotOff (k : Nat) : Nat := k * 0x201000
def cairnOff (k : Nat) : Nat := slotOff k + 0x200000

/-- gen of slot `k`'s Cairn where it is valid (R450, R451). -/
def cairnGen (hv : HostView) (base k : Nat) : Option Nat :=
  let b := hv1 hv (base + cairnOff k) 64
  let x := base + slotOff k
  if crcOk 64 b && decide (fld b 0 4 = 0x4E524143 ∧ fld b 4 2 = 1 ∧ fld b 6 1 = k ∧
      fld b 32 4 = crcN (hv1 hv x (2 ^ 20)) ∧ fld b 36 4 = crcN (hv1 hv (x + 2 ^ 20) (2 ^ 20))) then some (fld b 8 8)
  else none

/-- The newest valid Cairn of a pool: slot and gen (R451). -/
def newestCairn (hv : HostView) (base : Nat) : Option (Nat × Nat) :=
  match cairnGen hv base 0, cairnGen hv base 1 with
  | none, none => none
  | some g, none => some (0, g)
  | none, some g => some (1, g)
  | some g, some h => if g < h then some (1, h) else some (0, g)

/-- The Cairn of a snapshot taken now (R450). -/
def State.cairn (s : State) (slot gen : Nat) (blk ctx : Bytes) : Bytes :=
  withCrc (le 4 0x4E524143 ++ le 2 1 ++ le 1 slot ++ zeros 1 ++ le 8 gen ++ le 8 s.now ++
    le 4 (tkeys (fun c x => isJob c && x.enable) s.ctxs).length ++ le 2 s.glb.chip ++ le 2 s.memb.ver ++
    le 4 (crcN blk) ++ le 4 (crcN ctx) ++ le 4 (s.rd 4) ++ le 4 s.nPitch ++ zeros 12)

/-- Write a part of the snapshot (R447), in chunks that await their completions. -/
def State.snapWrite (s : State) (off : Nat) (bs : Bytes) : State :=
  let ps := cutPieces ⟨0, 0, s.poolChip, s.poolUp, 8, 5, 3, 0, 0, [], refSnap⟩ (s.poolBase + off) bs
  ({ s with rsl := { s.rsl with snap := { s.rsl.snap with out := s.rsl.snap.out + ps.length } } } : State).postPieces ps

/-- The next part of a snapshot (R448). -/
def State.snapNext (s : State) : State :=
  let x := s.rsl.snap
  let up (k : Nat) : State := { s with rsl := { s.rsl with snap := { x with phase := k } } }
  if x.phase = 1 then ((up 2).snapWrite (slotOff x.slot) x.block).snapWrite (slotOff x.slot + 2 ^ 20) x.ctxs
  else if x.phase = 2 then (up 3).snapWrite (cairnOff x.slot) x.cairn
  else
    let s := s.wr 0xC0024 (setField (setField (s.rd 0xC0024) 16 16 (x.gen % 65536)) 3 1 x.slot)
    ((s.setBit 0xC0024 1).event 0x41 0 x.gen x.slot).snapEnd

/-- Start a snapshot (R446, R448, R449). -/
def State.snapStart (s : State) (hv : HostView) : State :=
  let n := newestCairn hv s.poolBase
  let slot := match n with
    | some (k, _) => 1 - k
    | none => 0
  let gen := match n with
    | some (_, g) => g + 1
    | none => 1
  let blk := s.blockSection
  let cs := s.ctxSection
  ({ s with rsl := { s.rsl with snap :=
    { busy := true, gen := gen, slot := slot, block := blk, ctxs := cs, cairn := s.cairn slot gen blk cs, at_ := s.el, phase := 1 } } } : State).snapWrite
    (cairnOff slot) (zeros 64)

/-- A start of a snapshot (R446): ignored with an event while one is in progress. -/
def State.snapGo (s : State) (hv : HostView) : State :=
  if s.rsl.snap.busy then s.event 0x43 0 0 0
  else if hv.fault ≠ 0 then ((s.zeroFault hv s.poolBase).setBit 0xC0024 2).event 0x42 0 0 0
  else s.snapStart hv

/-- SNAPSHOT_GO (R446): a write of RSL_CKPT_CTL that sets GO, which stores ARM with it; or the start that advice brings
with ARM set. -/
def snapshotGoOp (advice : Bool) (data : W32) (hv : HostView) (s : State) : State :=
  if !s.portOpen then s
  else if advice then
    if s.rsl.advGo then
      let s : State := { s with rsl := { s.rsl with advGo := false } }
      if s.rsl.snap.busy then s else s.snapGo hv
    else s
  else if bit data.toNat 1 then ((s.store 0xC0020 1 data.toNat).wrote 0xC0020 data.toNat).snapGo hv
  else s

def execSnapshotGo (go : SnapCause) (s : State) : Host.Outcome State Fault Refusal :=
  .next (snapshotGoOp go.advice go.data go.hv s)

/-- SNAPSHOT_STALL (R451). -/
def snapStallOp (s : State) : State :=
  if s.alive && s.rsl.snap.busy && decide (s.rsl.snap.at_ + 2 ^ 22 ≤ s.el) then s.snapFail else s

def execSnapshotStall (s : State) : Host.Outcome State Fault Refusal := .next (snapStallOp s)

/-- ADVISE_WINDOW_END (R446): windows follow one another every 2^24 ticks. -/
def adviseEndOp (s : State) : State :=
  if s.alive && decide (s.rsl.winAt + 2 ^ 24 ≤ s.el) then { s with rsl := { s.rsl with det := 0, advised := false, winAt := s.rsl.winAt + 2 ^ 24 } }
  else s

def execAdviseWindowEnd (s : State) : Host.Outcome State Fault Refusal := .next (adviseEndOp s)

/- Put completions -/

/-- A chunk of an Infuser copy has its completion (R369, R445). -/
def State.infCompleted (s : State) (ref len : Nat) : State :=
  if ref = refRouter then
    let s := s.modCopy false (fun x => { x with left := x.left - len, at_ := s.el })
    if s.rsl.rinf.busy && decide (s.rsl.rinf.left = 0) then s.infDone false else s
  else
    let i := (ref - 0x10000) / 2
    let e := s.rsl.einf.ents.getD i (0, 0)
    if !s.rsl.einf.busy then s
    else if ref % 2 = 1 then
      let s := s.modCopy true (fun x => { x with entry := x.entry + 1, at_ := s.el })
      if s.rsl.einf.entry = s.rsl.einf.ents.length then s.infDone true else s
    else
      let s := s.modCopy true (fun x => { x with ents := lset i (e.1 - len, e.2) x.ents, at_ := s.el })
      if e.1 ≤ len then s.sendWord i e.2 else s

/-- The lowest-numbered put data of context 0 in flight to a chip. -/
def State.putChunk (s : State) (m : Short) : Option (Nat × ChunkE) :=
  (s.xch.table.filterMap (fun e => e.2.map (fun k => (e.1, k)))).find? (fun e =>
    decide (e.2.kind = 4 ∧ e.2.ctx = 0 ∧ e.2.dst = m.src))

/-- The put of chain `i` has its completion (R270): its chunk-table entries go (R260), the chain is complete. -/
def State.putCompleted (s : State) (m : Short) (i : Nat) : State :=
  let mine (k : ChunkE) : Bool := decide (k.kind = 4 ∧ k.ctx = m.ctx ∧ k.epoch = m.epoch ∧ k.dst = m.src ∧ k.ref = i)
  let s := s.modXch (fun x => { x with table := x.table.filter (fun e => match e.2 with | some k => !(mine k) | none => false) })
  match s.runs m.ctx m.epoch with
  | none => s
  | some st =>
    match st.chains[i]? with
    | none => s
    | some ch => if ch.st = 2 ∧ ch.c.op = 1 ∧ ch.c.peer = m.src then (s.progress m.ctx).chainDone m.ctx i else s

/-- PUT_COMPLETION (R270, R369, R445, R447). -/
def putCompletionOp (s : State) : State :=
  if !s.alive then s
  else match s.takeShort 6 with
  | none => s
  | some (m, s) =>
    let idx := fld m.bytes 16 2
    if m.ctx = 0 ∧ idx = 0xFFFF then
      if !s.rsl.snap.busy then s
      else
        let n := s.rsl.snap.out - 1
        let s : State := { s with rsl := { s.rsl with snap := { s.rsl.snap with out := n, at_ := s.el } } }
        if n = 0 then s.snapNext else s
    else if m.ctx ≠ 0 then s.putCompleted m idx
    else match s.putChunk m with
    | none => s
    | some (k, e) => (s.freeChunk k).infCompleted e.ref e.len

def execPutCompletion (s : State) : Host.Outcome State Fault Refusal := .next (putCompletionOp s)

/- Restores -/

/-- Word `i` of a section at `a`. -/
def secWord (hv : HostView) (a i : Nat) : Nat := fld (hv1 hv (a + 4 * i) 4) 0 4

/-- Load the RW fields of a register (R524). -/
def State.loadReg (s : State) (a v : Nat) : State :=
  match regRow a with
  | none => s
  | some r => s.wr a ((s.rd a &&& (ones ^^^ r.rw)) ||| (v &&& r.rw))

/-- Index in `partRegs` of a register. -/
def partIdx (a : Nat) : Nat := (partRegs.findIdx? (fun x => decide (x.1 = a))).getD 0

/-- A tent that the section records passes the last logical core (R452). -/
def State.tentPast (s : State) (hv : HostView) (a : Nat) : Bool :=
  (List.range 64).any (fun n =>
    let w := secWord hv a (partIdx (tentAddr n))
    decide (tentCount w ≠ 0) && decide (s.nCores < tentFirst w + tentCount w))

/-- Load the block section (R452, R524). -/
def State.loadBlock (s : State) (hv : HostView) (a : Nat) : State :=
  let n := partRegs.length
  let w (i : Nat) : Nat := secWord hv a i
  let s := partRegs.zipIdx.foldl (fun s x => s.loadReg x.1.1 (w x.2)) s
  let s := (s.wr 0x18000 (w n % 2 ^ 11)).wr 0x18004 0
  let s := (List.range 4096).foldl (fun s i => s.loadReg (0x10000 + 4 * i) (w (n + 1 + i))) s
  let g := n + 2 * 4097 + 1
  let live : Table Nat := (List.range 4096).filterMap (fun c => let e := w (g + c) % 2 ^ 14; if e = 0 then none else some (c, e))
  let s := (List.range 4096).foldl (fun s i => s.loadReg (0x60000 + 4 * i) (w (g + 4096 + i))) s
  let v := g + 8192
  let s := ((List.range 64).foldl (fun s m => s.wr (wverAt m) (w (v + 3 + m))) s).wr 0x20000 (w (v + 1)) |>.wr 0x20004 (w (v + 2))
  { s with
    stp := { s.stp with live := true, armed := false }
    memb := { s.memb with live := live, ver := w (g - 1) % 65536, prev := s.memb.live, goneLive := s.el, lost := [], past := [] }
    stn := { s.stn with ver := w v % 65536, dir := s.rd2 0x30008 }
    pitches := s.pitches.map (fun p => { p with locked := bit (s.rd 0xF0000) 0 }) }

/-- Load a context record (R449, R452). -/
def State.loadCtx (s : State) (c : Nat) (b : Bytes) : State :=
  let f (o n : Nat) : Nat := fld b o n
  let s := s.modCtx c (fun x => { x with
    rt := bit (f 2 1) 1
    tent := f 3 1 % 64
    seqNo := f 12 4
    affObs := f 24 1
    v := f 48 8
    acct := (List.range 6).foldl (fun t k => tput 0 k (f (56 + 8 * k) 8) t) (tput 0 acctFj (f 104 8) [])
    slowAvg := f 112 2 })
  if c = 0 then s
  else
    let ps : List (Nat × Nat) :=
      [(4, f 4 4), (0x0C, f 8 4), (0x30, f 16 4), (0x34, f 20 4), (0x18, f 25 1), (0x1C, f 26 1), (0x88, f 27 1), (0x28, f 28 4),
       (0x10, f 32 4), (0x14, f 36 4), (0x20, f 40 4), (0x24, f 44 4), (0x3C, f 114 2), (0x7C, f 116 4), (0x38, f 120 4),
       (0x40, f 128 4), (0x44, f 132 4), (0x48, f 136 4), (0x58, f 140 4), (0x50, f 144 4), (0x54, f 148 4), (0x60, f 152 4),
       (0x64, f 156 4), (0x68, f 160 4), (0x78, f 164 4), (0x70, f 168 4), (0x74, f 172 4), (0x80, f 176 4), (0x84, f 180 4)]
    ps.foldl (fun s x => s.loadReg (pageAt c x.1) x.2) s

/-- A recorded context comes back (R452): new tag key, enabled, its resumed record. -/
def State.resumeCtx (s : State) (c : Nat) : State :=
  let key := Config.tagKey s.free
  let s := { s with free := s.free + 1 }
  (s.modCtx c (fun x => { ({} : Ctx) with
    enable := true
    rt := x.rt
    tent := x.tent
    st := .asking
    seqNo := x.seqNo
    epoch := x.epoch
    affObs := x.affObs
    v := x.v
    acct := x.acct
    slowAvg := x.slowAvg
    key := key })).postQuery c 5 query0

/-- Take the record of context `c` (R452 step 2); the list collects the contexts to enable. -/
def takeCtxRecord (x : State × List Nat) (c : Nat) (b : Bytes) : State × List Nat :=
  if crcOk 256 b then (x.1.loadCtx c b, if isJob c && bit (fld b 2 1) 0 then x.2 ++ [c] else x.2)
  else (x.1.event 0x44 0 c 0, x.2)

/-- Load the context records whose rcheck passes, in ascending context number (R452). -/
def State.loadCtxs (s : State) (hv : HostView) (a : Nat) : State :=
  let r := (List.range 4096).foldl (fun x c => takeCtxRecord x c (hv1 hv (a + 256 * c) 256)) (s, [])
  r.2.foldl State.resumeCtx r.1

/-- The restore itself (R452). -/
def State.restore (s : State) (hv : HostView) : State :=
  let base := s.poolBase
  match newestCairn hv base with
  | none => s.event 0x43 0 1 0
  | some (k, _) =>
    let b := hv1 hv (base + cairnOff k) 64
    let a := base + slotOff k
    if fld b 28 2 % 4096 ≠ s.glb.chip then s.event 0x43 0 2 0
    else if fld b 40 4 / 65536 ≠ s.rd 4 / 65536 then s.event 0x43 0 3 0
    else if s.tentPast hv a then s.event 0x43 0 4 0
    else (s.loadBlock hv a).loadCtxs hv (a + 2 ^ 20)

/-- RESTORE_GO (R452). -/
def restoreGoOp (hv : HostView) (s : State) : State :=
  if !s.portOpen then s
  else
    let s := s.wrote 0xC0034 1
    if s.rsl.snap.busy then s.event 0x43 0 0 0
    else if tkeys (fun c x => decide (c ≠ 0) && (x.enable || x.tdown)) s.ctxs ≠ [] then s.event 0x43 0 0 0
    else if hv.fault ≠ 0 then s.zeroFault hv s.poolBase
    else s.restore hv

def execRestoreGo (hv : HostView) (s : State) : Host.Outcome State Fault Refusal := .next (restoreGoOp hv s)

end Sys2Proof.Machine
end

