-- ==== Sys2Proof/Machine/Deliver.lean ====
section
/-! DEFINITION. What the end of a memory request brings to the unit that made it (R48, R52). -/

namespace Sys2Proof.Machine

/-- A completed transfer waits for its unit's command. -/
def State.keepDone (s : State) (r : MemReq) (data : Bytes) : State :=
  s.modDone (fun ds => ds ++ [⟨r.ctx, r.why, r.addr, data⟩])

/-- Bytes of delivered rows that the staging of a pitch holds, for steps allocated there, until their selection is complete
(R136). -/
def State.rowsHeld (s : State) (p : Nat) : Nat :=
  ((s.stepsWhere (fun d _ _ => decide (s.allocPitch d = p))).map (fun d =>
    match s.step? d with
    | none => 0
    | some st =>
      (st.sc.toks.filter (fun t => (st.row t).isSome && !(st.sc.away.contains t) && decide ((st.tok t).ph < 4))).length *
        rowBytes st.desc.inFmt st.bind.dir.d)).foldl (· + ·) 0

/-- A token's row is complete (R136, R143). DESIGN CHOICE (log entry 181): staging that no tent takes holds the delivered
rows; one that finds no room there is reread from in_addr for the guard's work. A BF16 router's tiles read it as delivered. -/
def State.rowDone (s : State) (c t : Nat) : State :=
  match s.step? c with
  | none => s
  | some st =>
    if st.sc.want.contains t then
      s.modStep c (fun st => { st with sc := { st.sc with
        away := st.sc.away.filter (fun u => decide (u ≠ t))
        want := st.sc.want.filter (fun u => decide (u ≠ t)) } })
    else
      let p := s.allocPitch c
      let s := s.guard c (fun st => st.rowIn t)
      if st.bind.dir.lfmt = 1 ∨ s.rowsHeld p ≤ (s.stageMax - s.stageSum 64 0 p) * 65536 then s
      else s.modStep c (fun st => { st with sc := { st.sc with away := st.sc.away ++ [t] } })

/-- A part of a token's row has come (R136). -/
def State.rowBack (s : State) (c idx : Nat) (data : Bytes) : State :=
  match s.runs c (idx / 16 / 2 ^ 24) with
  | none => s
  | some st =>
    let t := idx / 16 % 2 ^ 24
    let k := idx % 16
    let n := rowBytes st.desc.inFmt st.bind.dir.d
    let a := st.desc.inAddr + t * st.desc.inStride + 4096 * k
    let part := sub data (a % 64) (min 4096 (n - 4096 * k))
    let s := s.modStep c (fun st => { st with sc := { st.sc with rows := tput [] (t * 16 + k) part st.sc.rows } })
    if st.desc.kind = 1 ∨ st.desc.kind = 2 then
      let whole := (List.range (rowParts n)).all (fun j => !(s.whyOut c ⟨.row, rowIdx st.epoch t j⟩))
      ((if whole then s.rowDone c t else s).afterScore c)
    else s

/-- A line that a streamed tile reads has come (R152). The tile starts once its lines for the first block have. -/
def State.lineBack (s : State) (r : MemReq) (data : Bytes) : State :=
  match s.ktl.cores.find? (fun e => e.2.busy && e.2.str && decide (e.2.id = lineRun r.why.idx ∧ e.2.ctx = r.ctx)) with
  | none => s
  | some (k, run) =>
    let s := s.keepDone r data
    match s.step? r.ctx with
    | none => s
    | some st =>
      if run.wait && (st.firstLines run).all (fun i => s.mem.done.any (fun d => decide (d.ctx = r.ctx ∧ d.why = ⟨.lineRead, i⟩))) then
        s.modKtl (fun x => { x with cores := tput {} k { run with wait := false, start := s.el } x.cores })
      else s

/-- A part of an image is kept while the load that asked for it goes on (R150). -/
def State.imagePart (s : State) (r : MemReq) (data : Bytes) : State :=
  if s.ktl.imgs.any (fun i => decide (i.id = r.why.idx / 65536 ∧ i.loader = r.ctx) && !i.usable) then s.keepDone r data else s

/-- Bytes of a chunk that a region holds, in a part of at most 4 KiB. -/
def PoolSlot.part (x : PoolSlot) (k : Nat) : Nat := min 4096 (x.len - 4096 * k)

/-- Number of the parts in which a region's chunk is read back (R258). -/
def PoolSlot.parts (x : PoolSlot) : Nat := ceilDiv x.len 4096

/-- A chunk written to a region is read back once every byte is written (R258). -/
def State.regionWritten (s : State) (r : MemReq) (u : MemUnit) : State :=
  match s.xch.pool.find? (fun x => decide (x.id = r.why.idx)) with
  | none => s
  | some x =>
    if s.whyOut r.ctx r.why then s
    else (List.range x.parts).foldl (fun s k =>
      s.memPost (readReq r.ctx 1 (s.regionAddr x + 4096 * k) (x.part k) ⟨u, x.id * 16 + k⟩)) s

/-- Drop the parts of a region's chunk. -/
def State.dropParts (s : State) (u : MemUnit) (id : Nat) : State :=
  s.modDone (fun ds => ds.filter (fun d => !(decide (d.why.unit = u ∧ d.why.idx / 16 = id))))

/-- A part of a region's chunk has been read back; the whole chunk is forwarded (R258). -/
def State.regionRead (s : State) (r : MemReq) (u : MemUnit) (data : Bytes) : State :=
  let id := r.why.idx / 16
  match s.xch.pool.find? (fun x => decide (x.id = id)) with
  | none => s.dropParts u id
  | some x =>
    let s := s.keepDone r data
    let ps := (List.range x.parts).map (fun k =>
      (s.mem.done.find? (fun d => decide (d.why = ⟨u, id * 16 + k⟩))).map (fun d =>
        sub d.data ((s.regionAddr x + 4096 * k) % 64) (x.part k)))
    if ps.all Option.isSome then (s.dropParts u id).forwardRegion id (ps.filterMap (fun p => p)).flatten else s

/-- A part of a spilled send list has been read back (R244). -/
def State.listBack (s : State) (c idx : Nat) : State :=
  s.modStep c (fun st => if st.epoch = idx / 2 ^ 20 then
      { st with rt := { st.rt with back := st.rt.back ++ [idx % 2 ^ 20] } } else st)

/-- A spilled slot has been read back (R327). -/
def State.slotBack (s : State) (c idx : Nat) : State :=
  if s.whyOut c ⟨.pourRead, idx⟩ then s
  else s.modStep c (fun st => if st.epoch = idx / 2 ^ 32 then
      { st with por := { st.por with back := st.por.back ++ [idx % 2 ^ 32] } } else st)

/-- What a completed request brings to its unit. -/
def State.unitDone (s : State) (r : MemReq) (data : Bytes) : State :=
  let c := r.ctx
  let i := r.why.idx
  match r.why.unit with
  | .row => s.rowBack c i data
  | .imageRead => s.imagePart r data
  | .lineRead => s.lineBack r data
  | .landOut => s.regionWritten r .landRead
  | .transitOut => s.regionWritten r .transitRead
  | .landRead => s.regionRead r .landRead data
  | .transitRead => s.regionRead r .transitRead data
  | .ringOut => s.go c i
  | .putOut => s.putWritten c i
  | .getOut => s.getWritten c i
  | .w2tOut => s.w2tReady c
  | .tileRead => s.tileBack c i r.addr data
  | .expertRead => s.expertBack c i data
  | .spillRead => s.listBack c i
  | .pourRead => s.slotBack c i
  | .desc => s.keepDone r data
  | .query => s.keepDone r data
  | .answer => s.keepDone r data
  | _ => s

/-- A completed request (R48): its unit takes it, the step's stall timer restarts (R509), and what waited for the
context's writes goes on (R123, R393, R397). Data for a context that is not active go nowhere. -/
def State.deliver (s : State) (r : MemReq) (data : Bytes) : State :=
  match r.why.unit with
  | .bivRead => s.bivBack r.why.idx data
  | .bivWrite => s.bivGone r.why.idx
  | _ =>
    let s := if r.ctx ≠ 0 ∧ (s.ctx r.ctx).active = false then s else (s.progress r.ctx).unitDone r data
    if r.wr then State.endGo r.ctx 2 ((s.downCheck r.ctx).cancelCheck r.ctx) else s

/-- A request that ended in a fault (R52). -/
def State.memUnitFault (s : State) (r : MemReq) (code ch : Nat) : State :=
  match r.why.unit with
  | .bivRead => (s.memFault r.ctx code ch).bivFail
  | .bivWrite => (s.memFault r.ctx code ch).bivFail
  | .saveOut => s.ctxFault r.ctx 0x19
  | .saveRead => s.ctxFault r.ctx 0x19
  | .expertRead =>
    -- nothing that concerns a steeped copy raises a fault (R320)
    if 4096 ≤ r.why.idx / 4 % 8192 then s.badBatch r.ctx (r.why.idx / 4 % 8192)
    else (s.memFault r.ctx code ch).downCheck r.ctx
  | .transitOut => (s.memFault r.ctx code ch).dropSlot r.why.idx
  | .transitRead => ((s.memFault r.ctx code ch).dropSlot (r.why.idx / 16)).dropParts .transitRead (r.why.idx / 16)
  | _ => (s.memFault r.ctx code ch).downCheck r.ctx

end Sys2Proof.Machine
end

