-- ==== Sys2Proof/Machine/Memory.lean ====
section
/-! DEFINITION. The memory port's commands (R46 to R53, R72). -/

namespace Sys2Proof.Machine

def beatsOf (lines : Nat) : Nat := ceilDiv (lines * 64) 512

/-- Do the lines of two requests overlap (R49)? -/
def overlap (a b : MemReq) : Bool := decide (a.addr < b.addr + 64 * b.lines) && decide (b.addr < a.addr + 64 * a.lines)

/-- A write that has been issued on some channel and has had no response overlaps the request (R49). An attempt whose tag
is quarantined or abandoned counts until another attempt of the same write is answered. -/
def State.blockedBy (s : State) (r : MemReq) : Bool :=
  let hits (w : MemReq) : Bool := w.wr && decide (w.id ≠ r.id) && overlap w r
  s.mem.wait.any (fun w => decide (w.iss ≠ 0) && hits w) ||
  s.mem.chs.any (fun ch => ch.out.any (fun o => hits o.req) || (ch.quar ++ ch.stale).any (fun o => !o.dead && hits o.req))

/-- Requests that channel `c` is to carry and that neither a write nor the record log holds back (R46, R49, R53, R417). -/
def State.forChan (s : State) (c : Nat) : List MemReq :=
  s.mem.wait.filter (fun r => decide (s.chanOf r.addr = some c) && !(s.blockedBy r) && !(s.withheld r))

/-- The request a channel issues next (R50, R72): those pending when mem_down fell in order of original issue, then lowest
class, then oldest. -/
def State.nextReq (s : State) (c : Nat) : Option MemReq :=
  match leastBy (fun a b => decide (a.iss < b.iss)) ((s.forChan c).filter MemReq.resume) with
  | some r => some r
  | none => [0, 1, 2, 3].findSome? (fun k => (s.forChan c).find? (fun r => decide (r.cls = k)))

/-- The channel's allowance covers the request (R50). -/
def MemCh.covers (ch : MemCh) (r : MemReq) : Bool := decide (128 * beatsOf r.lines ≤ (if r.wr then ch.wr else ch.rd))

/-- Requests that hold a tag of the channel (R51, R52). -/
def MemCh.tagged (ch : MemCh) : List MemOut := ch.out ++ ch.quar ++ ch.stale

/-- Next free tag at or after `n` (R51). -/
def freeTag (ch : MemCh) : Nat → Nat → Nat
  | 0, n => n
  | k + 1, n => if ch.tagged.any (fun o => decide (o.tag = n)) then freeTag ch k ((n + 1) % 1024) else n

/-- The request as its bundle carries it (R46): parity over op and length; over address bits 51:28; over bits 27:6; over tag,
class and context. -/
def memCmd (c tag : Nat) (r : MemReq) : MemCmd :=
  let op := if r.wr then (if r.mask.isNone then 1 else 2) else 0
  { ch := c, op := op, addr := r.addr / 64, len := r.lines - 1, tag := tag, cls := r.cls, ctx := r.ctx
    par := parity 9 (op + 8 * (r.lines - 1)) + 2 * parity 24 (r.addr / 2 ^ 28) + 4 * parity 22 (r.addr / 64) +
      8 * parity 24 (tag % 1024 + r.cls * 2 ^ 10 + r.ctx * 2 ^ 12) }

/-- The write-data beats of a request, in order (R46, R47): packed from byte 0, zeros past its length. -/
def memBeats (c tag : Nat) (r : MemReq) : List MemBeat :=
  if !r.wr then []
  else (List.range (beatsOf r.lines)).map (fun k =>
    let d := exactly 512 (sub (r.data.take (64 * r.lines)) (512 * k) 512)
    { ch := c, tag := tag, data := d
      wm := (List.range 128).map (fun i => match r.mask with | none => true | some m => m.getD (128 * k + i) false)
      par := (List.range 128).map (fun i => decide (parity 32 (fld d (4 * i) 4) = 1))
      last := decide (k + 1 = beatsOf r.lines) })

/-- Issue a request of channel `c` under tag `t` (R46, R47, R50, R51). -/
def State.issueReq (s : State) (c t : Nat) (r : MemReq) : State :=
  let b := 128 * beatsOf r.lines
  let r' := { r with
    tries := if r.again then r.tries else r.tries + 1
    again := false
    resume := false
    iss := if r.iss = 0 then s.mem.nextIss else r.iss }
  let s := (s.modWait (fun ws => ws.filter (fun w => decide (w.id ≠ r.id)))).modCh c (fun x => { x with
    rd := if r.wr then x.rd else x.rd - b
    wr := if r.wr then x.wr - b else x.wr
    out := x.out ++ [⟨t, r', 0, [], s.el, false⟩]
    nextTag := (t + 1) % 1024 })
  { s with mem := { s.mem with
    nextIss := if r.iss = 0 then s.mem.nextIss + 1 else s.mem.nextIss
    cmds := s.mem.cmds ++ [memCmd c t r]
    beats := s.mem.beats ++ memBeats c t r } }

/-- The slot, past 4,095, of a read that checks a steeped batch (R442). -/
def steepedRead (r : MemReq) : Option Nat :=
  if r.why.unit = .expertRead ∧ 4096 ≤ r.why.idx / 4 % 8192 then some (r.why.idx / 4 % 8192 - 4096) else none

/-- An issued request is charged (R390): a read for a steeped batch is hold work of its first entry (R308). -/
def State.chargeIssue (s : State) (c : Nat) (r : MemReq) : State :=
  match steepedRead r with
  | none => s.chargeMem (c / 4) r.ctx r.cls r.lines
  | some slot =>
    match s.heldSlot r.ctx (r.why.idx / 4 / 8192) slot with
    | [] => s
    | h :: _ => { s with hold := s.hold.map (fun x => if x = h then { h with lines := h.lines + r.lines } else x) }

/-- Requests of channel `c` that are withheld: under pace lock, each counts as a slip (R417, R500). -/
def State.withhold (s : State) (c : Nat) : State :=
  let due (r : MemReq) : Bool := decide (s.chanOf r.addr = some c) && s.withheld r && !r.lag
  let n := (s.mem.wait.filter due).length
  let s' := s.modWait (fun ws => ws.map (fun r => if due r then { r with lag := true } else r))
  if bit (s.rd 0xF0000) 0 && bit (s.rd 0xF0000) 2 then (List.range n).foldl (fun s _ => s.slip s.glb.anchor) s' else s'

/-- MEM_REQUEST_ISSUE (R50, R51, R105, R390). -/
def memIssueOp (c : Nat) (s : State) : State :=
  let s := if !s.alive || !(s.chUp c) || (s.ch c).down then s else s.withhold c
  if !s.alive || !(s.chUp c) || (s.ch c).down || decide (1024 ≤ (s.ch c).tagged.length) then s
  else match s.nextReq c with
  | none => s
  | some r =>
    if !((s.ch c).covers r) then s
    else
      let q := if r.why.unit = .query ∧ r.iss = 0 then s.stampQuery r else (s, r)
      let s := q.1.issueReq c (freeTag (s.ch c) 1024 (s.ch c).nextTag) q.2
      if r.iss ≠ 0 then s
      else (if r.why.unit = .query then s.wr (pageAt r.ctx 0x0C) r.why.idx else s).chargeIssue c r

def execMemRequestIssue (ch : Nat) (s : State) : Host.Outcome State Fault Refusal := .next (memIssueOp ch s)

/-- A memory-protocol event (R52): 16 within 2^20 ticks isolate the channel. -/
def State.memProto (s : State) (c tag : Nat) : State :=
  let s := (s.countSat 0x40 0 8 1).event 0x04 0 c tag
  let ts := s.el :: recent (2 ^ 20) s.el (s.ch c).proto
  let s := s.modCh c (fun x => { x with proto := ts })
  if 16 ≤ ts.length then (s.isolateMem c).stuckEvent 0 c else s

/-- A request goes back to be issued again (R52), at the place of its age (R50). -/
def State.reissue (s : State) (r : MemReq) : State := s.waitAgain [r]

/-- A response failed (R52): reissue within four attempts, or the fault. `code` is the fault's code;
`spent` says that no further attempt is allowed for this cause. -/
def State.memRetry (s : State) (c : Nat) (r : MemReq) (spent : Bool) (code : Nat) : State :=
  if spent || decide (4 ≤ r.tries) then (s.detect).memUnitFault r code c else (s.detect).reissue r

/-- Take an outstanding request out of its channel. -/
def State.memEnd (s : State) (c tag : Nat) : State :=
  s.modCh c (fun x => { x with out := x.out.filter (fun o => decide (o.tag ≠ tag)) })

/-- End a request whose answer failed: its tag stays until its last beat has come. -/
def State.memFail (s : State) (c tag : Nat) (last : Bool) : State :=
  if last then s.memEnd c tag
  else s.modCh c (fun x => { x with out := x.out.map (fun o => if o.tag = tag then { o with dead := true, got := [], beat := o.beat + 1 } else o) })

def parityOk (w v : Nat) (p : Bool) : Bool := decide (parity w v = b2n p)

/-- A late response under a quarantined tag is discarded and releases the tag (R52). DESIGN CHOICE (log entry 164): the first
late beat of a read releases it. -/
def State.unquarantine (s : State) (c tag : Nat) : State :=
  s.modCh c (fun x => { x with quar := x.quar.filter (fun o => decide (o.tag ≠ tag)) })

/-- The last beat, or the response, under an abandoned tag frees it (R51). -/
def State.unstale (s : State) (c tag : Nat) : State :=
  s.modCh c (fun x => { x with stale := x.stale.filter (fun o => decide (o.tag ≠ tag)) })

/-- A write has been answered: its quarantined and abandoned attempts hold nothing back any more (R49). -/
def State.writeAnswered (s : State) (id : Nat) : State :=
  let mark (o : MemOut) : MemOut := if o.req.id = id then { o with dead := true } else o
  { s with mem := { s.mem with chs := s.mem.chs.map (fun x => { x with quar := x.quar.map mark, stale := x.stale.map mark }) } }

/-- MEM_READ_BEAT (R47, R48, R51, R52). DESIGN CHOICE (log entry 165): a status that is not good is looked at before the
word parity of the beat. -/
def memBeatOp (c tag beat : Nat) (last : Bool) (sts : Nat) (data : Bytes) (par : List Bool) (hpar : Bool) (s : State) : State :=
  if !s.alive || !(s.chUp c) then s
  else if (s.ch c).quar.any (fun o => decide (o.tag = tag)) then s.unquarantine c tag
  else if (s.ch c).stale.any (fun o => decide (o.tag = tag) && !o.req.wr) then (if last then s.unstale c tag else s)
  else match (s.ch c).out.find? (fun o => decide (o.tag = tag)) with
  | none => s.memProto c tag
  | some o =>
    if o.req.wr then s.memProto c tag
    else if o.dead then
      if last then s.memEnd c tag else s
    else if !(parityOk 16 (tag % 1024 + beat % 8 * 2 ^ 10 + b2n last * 2 ^ 13 + sts % 4 * 2 ^ 14) hpar) then
      (s.memFail c tag last).memRetry c o.req false 0x01
    else if beat ≠ o.beat ∨ last ≠ decide (beat + 1 = beatsOf o.req.lines) then s.memProto c tag
    else if 2 ≤ sts then (s.memFail c tag last).memUnitFault o.req 0x03 c
    else if sts = 1 then
      (s.memFail c tag last).memRetry c { o.req with poisoned := true } o.req.poisoned 0x02
    else if !(wordsParOk (exactly 512 data) (par ++ List.replicate (128 - par.length) false)) then
      (s.memFail c tag last).memRetry c o.req false 0x01
    else
      let got := o.got ++ exactly 512 data
      let all := got.take (64 * o.req.lines)
      if last then
        ((s.memEnd c tag).record 5 c (some o.req.ctx) 0 s.now tag (le 8 o.req.addr ++ all) true).deliver o.req all
      else s.modCh c (fun x => { x with out := x.out.map (fun q => if q.tag = tag then { q with beat := q.beat + 1, got := got } else q) })

def execMemReadBeat (ch tag beat : Nat) (last : Bool) (sts : Nat) (data : Bytes) (par : List Bool) (hpar : Bool) (s : State) :
    Host.Outcome State Fault Refusal :=
  .next (memBeatOp ch tag beat last sts data par hpar s)

/-- MEM_WRITE_RESPONSE (R48, R52). -/
def memWriteRespOp (c tag sts : Nat) (hpar : Bool) (s : State) : State :=
  if !s.alive || !(s.chUp c) then s
  else if (s.ch c).quar.any (fun o => decide (o.tag = tag)) then s.unquarantine c tag
  else if (s.ch c).stale.any (fun o => decide (o.tag = tag) && o.req.wr) then s.unstale c tag
  else match (s.ch c).out.find? (fun o => decide (o.tag = tag)) with
  | none => s.memProto c tag
  | some o =>
    if !o.req.wr then s.memProto c tag
    else if !(parityOk 12 (tag % 1024 + sts % 4 * 2 ^ 10) hpar) then (s.memEnd c tag).memRetry c o.req false 0x01
    else
      let s := (s.memEnd c tag).writeAnswered o.req.id
      if 2 ≤ sts then s.memUnitFault o.req 0x03 c
      else if sts = 1 then s.memRetry c { o.req with poisoned := true } o.req.poisoned 0x02
      else s.deliver o.req []

def execMemWriteResponse (ch tag sts : Nat) (hpar : Bool) (s : State) : Host.Outcome State Fault Refusal :=
  .next (memWriteRespOp ch tag sts hpar s)

/-- MEM_ANSWER_TIMEOUT (R52). -/
def memTimeoutOp (c tag : Nat) (s : State) : State :=
  match (s.ch c).out.find? (fun o => decide (o.tag = tag)) with
  | none => s
  | some o =>
    if s.alive && s.chUp c && decide (o.at_ + s.rdMin 0x34 0x1000 ≤ s.el) then
      let s := (s.memEnd c tag).modCh c (fun x => { x with quar := x.quar ++ [o] })
      let s := if o.dead then s else s.memRetry c { o.req with silent := true } o.req.silent 0x04
      if 256 < (s.ch c).quar.length then (s.isolateMem c).stuckEvent 0 c else s
    else s

def execMemAnswerTimeout (ch tag : Nat) (s : State) : Host.Outcome State Fault Refusal :=
  .next (memTimeoutOp ch tag s)

/-- MEM_DOWN_RISE (R72). -/
def memDownRiseOp (c : Nat) (s : State) : State := s.modCh c (fun x => { x with down := true })

def execMemDownRise (ch : Nat) (s : State) : Host.Outcome State Fault Refusal := .next (memDownRiseOp ch s)

/-- MEM_DOWN_FALL (R72): every request that has been issued and is not answered is issued again under a new tag, in order
of original issue. -/
def memDownFallOp (c : Nat) (s : State) : State :=
  if !(s.ch c).down then s
  else
    let s := (s.modCh c (fun x => { x with down := false })).abandonOut c true
    s.modWait (fun ws => ws.map (fun r => if r.iss ≠ 0 ∧ s.chanOf r.addr = some c then { r with resume := true } else r))

def execMemDownFall (ch : Nat) (s : State) : Host.Outcome State Fault Refusal := .next (memDownFallOp ch s)

/-- CORE_DOWN_RISE (R72): packets whose last beat has not left stay pending. -/
def coreDownRiseOp (a : Nat) (s : State) : State :=
  s.modPt a (fun x => { x with down := true, pend := x.begun s.el ++ x.pend, fly := [], busy := 0 })

def execCoreDownRise (point : Nat) (s : State) : Host.Outcome State Fault Refusal := .next (coreDownRiseOp point s)

/-- CORE_DOWN_FALL (R72): the pending packets are sent. -/
def coreDownFallOp (a : Nat) (s : State) : State :=
  if !(s.pt a).down then s
  else
    let ps := (s.pt a).pend
    ps.foldl (fun s b => s.coreSend a b) (s.modPt a (fun x => { x with down := false, pend := [] }))

def execCoreDownFall (point : Nat) (s : State) : Host.Outcome State Fault Refusal := .next (coreDownFallOp point s)

end Sys2Proof.Machine
end

