-- ==== Sys2Proof/Machine/Startup.lean ====
section
/-! DEFINITION. Start, shut-down and scan (R474 to R489): reading the Chroub image and the health records,
the phases of a start, minimal mode, the shut-down self-test. -/

namespace Sys2Proof.Machine

/- The Chroub image -/

/-- A structure in flash whose last four bytes check it, read again once (R478). -/
def flashChecked (h : HostView) (a n : Nat) (ok : Bytes → Bool) : Option Bytes :=
  if ok (hv1 h a n) then some (hv1 h a n) else if ok (hv2 h a n) then some (hv2 h a n) else none

/- The NVM port -/

/-- Offset of the parameter table `id` that an SFDP header lists (R68). PRESUMED (log entry 170): the layout of JESD216. -/
def sfdpTable (b : Bytes) (id : Nat) : Option Nat :=
  (List.range (fld b 6 1 + 1)).findSome? (fun i =>
    if fld b (8 + 8 * i) 1 = id % 256 ∧ fld b (15 + 8 * i) 1 = id / 256 then some (fld b (12 + 8 * i) 3) else none)

/-- The flash exceeds 16 MiB, by its density word: bits less one, or a power of two. -/
def flashBig (w : Nat) : Bool := if bit w 31 then decide (27 < bits w 0 31) else decide (2 ^ 27 < bits w 0 31 + 1)

/-- The read mode that R69 chooses: the first of 1-4-4, 1-1-4, 1-1-2 and 1-1-1 that the Basic Flash Parameter Table lists;
none without the signature or the table (R68). PRESUMED (log entry 170): the fields of JESD216. -/
def chooseMode (b : Bytes) : Option ReadMode :=
  if fld b 0 4 ≠ 0x50444653 then none
  else match sfdpTable b 0xFF00 with
  | none => none
  | some t =>
    let d1 := fld b t 4
    let d3 := fld b (t + 8) 4
    let d4 := fld b (t + 12) 4
    let big := flashBig (fld b (t + 4) 4)
    let four := match sfdpTable b 0xFF84 with | none => 0 | some u => fld b u 4
    let mk (k op op4 dummy : Nat) : ReadMode :=
      { opcode := if big && bit four k then op4 else op, abytes := if big then 4 else 3, dummy := dummy, enter4 := big && !bit four k }
    some (if bit d1 21 then mk 5 (bits d3 8 8) 0xEC (bits d3 0 5 + bits d3 5 3)
      else if bit d1 22 then mk 4 (bits d3 24 8) 0x6C (bits d3 16 5 + bits d3 21 3)
      else if bit d1 16 then mk 2 (bits d4 8 8) 0x3C (bits d4 0 5 + bits d4 5 3)
      else mk 0 0x03 0x13 0)

/-- A read in a mode. -/
def ReadMode.read (m : ReadMode) (a n : Nat) : NvmOp := .read m.opcode m.abytes a n

/-- The reads of a structure that carries a check: one, or two when the first copy fails (R478). -/
def checkedReads (m : ReadMode) (h : HostView) (a n : Nat) (ok : Bytes → Bool) : List NvmOp :=
  if ok (hv1 h a n) then [m.read a n] else [m.read a n, m.read a n]

/-- Write commands (R70): each after Write Enable, and with a Read Status behind it. -/
def nvmWrite (op : NvmOp) : List NvmOp := [.writeEnable, op, .status]

/-- The check of a header (R474, code 0x03). -/
def headerOk (b : Bytes) : Bool :=
  decide (fld b 0 4 = 0x42524843) && decide (fld b 4 2 = 1) && decide (crcN (sub b 0 60) = fld b 60 4)

/-- Fields of the header within their ranges (R474, code 0x05): `n` pitches present. -/
def headerInRange (n : Nat) (b : Bytes) : Bool :=
  let nx := fld b 18 1
  let ny := fld b 19 1
  let nz := fld b 20 1
  let p := entPos (fld b 22 2)
  decide (2 ≤ fld b 7 1 ∧ fld b 7 1 ≤ n) && decide (fld b 6 1 ≤ 4) &&
  decide (1 ≤ nx ∧ nx ≤ 16) && decide (1 ≤ ny ∧ ny ≤ 16) && decide (1 ≤ nz ∧ nz ≤ 16) &&
  decide (p.x < nx ∧ p.y < ny ∧ p.z < nz)

/-- A directory entry (R474): type, offset, length, check. -/
structure DirEnt where
  stype : Nat
  off : Nat
  len : Nat
  chk : Nat
  deriving DecidableEq, Repr, Inhabited

def parseDir (b : Bytes) : DirEnt := ⟨fld b 0 2, fld b 4 4, fld b 8 4, fld b 12 4⟩

/-- The directory as a read of the flash gives it. -/
def directory (rd : Nat → Nat → Bytes) (n : Nat) : List DirEnt := (List.range n).map (fun i => parseDir (rd (64 + 16 * i) 16))

/-- The sections a directory may hold (R475). -/
def dirOk (es : List DirEnt) : Bool :=
  let cnt (t : Nat) : Nat := (es.filter (fun e => decide (e.stype = t))).length
  es.all (fun e => decide (1 ≤ e.stype ∧ e.stype ≤ 6)) &&
  decide (cnt 1 = 1 ∧ cnt 2 = 1 ∧ cnt 5 = 1) && decide (cnt 3 ≤ 1 ∧ cnt 4 ≤ 1 ∧ cnt 6 ≤ 1)

/-- Each section's bytes by type; none when one fails its check twice (R475, R478). -/
def readSections (h : HostView) : List DirEnt → Option (List (Nat × Bytes))
  | [] => some []
  | e :: r =>
    match flashChecked h e.off e.len (fun b => decide (crcN b = e.chk)) with
    | none => none
    | some b =>
      match readSections h r with
      | none => none
      | some l => some ((e.stype, b) :: l)

def sect? (ss : List (Nat × Bytes)) (t : Nat) : Option Bytes := (ss.find? (fun s => decide (s.1 = t))).map Prod.snd

/-- A table of `n` words, entries of `keep` zero left out. -/
def wordTable (n : Nat) (f : Nat → Nat) : Table Nat := (List.range n).filterMap (fun i => if f i = 0 then none else some (i, f i))

/-- The image of a header and its sections (R474, R475). -/
def mkImage (b : Bytes) (ss : List (Nat × Bytes)) : Image :=
  let sec (t : Nat) : Bytes := (sect? ss t).getD []
  { pitches := fld b 7 1
    chip := fld b 16 2 % 4096
    nx := fld b 18 1
    ny := fld b 19 1
    nz := fld b 20 1
    pos := fld b 22 2
    hrAddr := fld b 24 4
    hrSect := fld b 28 4
    igen := fld b 32 8
    pairs := (List.range ((sec 1).length / 8)).map (fun i => (fld (sec 1) (8 * i) 4, fld (sec 1) (8 * i + 4) 4))
    links := (List.range ((sec 2).length / 8)).map (fun i => let o := 8 * i
      (fld (sec 2) o 1, fld (sec 2) (o + 1) 1, fld (sec 2) (o + 2) 2 % 4096, fld (sec 2) (o + 4) 1, fld (sec 2) (o + 5) 1))
    member := (sect? ss 3).map (fun m => (fld m 0 2, wordTable 4096 (fun c => fld m (4 + 4 * c) 4 % 2 ^ 14)))
    groups := wordTable 4096 (fun n => if n = 0 then 0 else fld (sec 4) (4 * (n - 1)) 4)
    spares := (List.range ((sec 5).length / 4)).map (fun i => fld (sec 5) (4 * i) 4)
    trims := sec 6 }

/-- Registers an image pair may name without effect: read-only fields set from the image (R520). -/
def imageRo (a : Nat) : Bool :=
  decide (a = 0x18 ∨ a = 0x1C ∨ a = 0x50050 ∨ a = 0xA0000 ∨ a = 0xC0080) ||
  decide (0x54000 ≤ a ∧ a < 0x58000) || decide (0x50100 ≤ a ∧ a < 0x50220) || decide (0xC0000 ≤ a ∧ a < 0xC0010) ||
  decide (0xC0400 ≤ a ∧ a < 0xC0800)

/-- Registers an image pair may set (R476). -/
def imageRw (a : Nat) : Bool :=
  decide (a % 4 = 0) &&
  ([0x8, 0x24, 0x30, 0x34, 0x38].contains a || decide (0xA0100 ≤ a ∧ a < 0xA0200) ||
    (decide (a < pageBase) && (match regRow a with | some r => decide (r.lk ≠ 0) | none => false)))

/-- Bits that an image pair sets. -/
def imageMask (a : Nat) : Nat :=
  match regRow a with
  | none => 0
  | some r => if r.lk ≠ 0 then r.lk else r.rw

/-- Apply the pairs that a filter admits (R476). -/
def State.applyPairs (s : State) (ps : List (Nat × Nat)) (ok : Nat → Bool) : State :=
  ps.foldl (fun s p => if imageRw p.1 && ok p.1 then s.wr p.1 ((s.rd p.1 &&& (ones ^^^ imageMask p.1)) ||| (p.2 &&& imageMask p.1)) else s) s

/-- The limits of the values that the pairs leave (R377, R476, R520); `s` has an empty register file but
for them. -/
def State.pairsInRange (s : State) (ps : List (Nat × Nat)) : Bool :=
  let order := s.bivOrder
  ps.all (fun p => !(imageRw p.1) || regInRange p.1 (p.2 &&& imageMask p.1)) &&
  decide (s.rd 0x5000C + s.rd 0x70004 + s.rd 0x80004 ≤ 240) &&
  decide (s.rdF 0x64008 0 8 < s.rdF 0x64008 8 8) &&
  !(decide (4 ≤ order ∧ order ≤ 20) && decide (s.rd2 0xB0034 = 0)) &&
  !(decide (s.rd 0x5005C ≠ 0) && decide (s.rd2 0x50054 = 0)) &&
  (List.range 4).all (fun p => decide (1 ≤ s.rdF (pwrAt p 8) 8 8) && decide (1 ≤ s.rdF (pwrAt p 8) 0 8)) &&
  (List.range 64).all (fun n => decide (s.tentWord n = 0) || !(s.tentBad n (s.tentWord n)))

/-- The pairs of an image are allowed (R476, code 0x06). -/
def State.pairsOk (s : State) (ps : List (Nat × Nat)) : Bool :=
  ps.all (fun p => imageRo p.1 || imageRw p.1) &&
  (({ s with regs := [], ctxs := [] }).applyPairs ps (fun _ => true)).pairsInRange ps

/-- Spares of a kind in a pitch that a remap record can name (R477, code 0x07): of wires 14 on each of the 200 guy lines of
the boundary, of guy lines 4 in each direction. -/
def spareCount (res : Nat) : Nat := [34, 2, 2, 4096, 2800, 8, 2, 0].getD res 0

def remapFields (w : Nat) : Nat × Nat × Nat × Nat := (bits w 28 4, bits w 26 2, bits w 12 12, bits w 0 12)

/-- The spares map names spares that exist, each once (code 0x07). -/
def State.sparesOk (s : State) (ws : List Nat) : Bool :=
  ws.all (fun w => let f := remapFields w
    decide (f.1 ≤ 6) && bit s.glb.present f.2.1 && decide (f.2.2.2 < spareCount f.1)) &&
  decide ((ws.map (fun w => let f := remapFields w; (f.1, f.2.1, f.2.2.2))).Nodup)

/- Health records -/

/-- A valid health record (R477): its check takes the consumed byte as 0xFF. -/
def hrValid (b : Bytes) : Bool :=
  decide (fld b 0 4 = 0x48544C48) && decide (crcN (b.take 14 ++ [0xFF#8] ++ sub b 15 237) = fld b 252 4)

def hrSeq (b : Bytes) : Nat := fld b 4 4

/-- Pages of the health-record area. -/
def Image.pages (i : Image) : Nat := 16 * min 16 i.hrSect

/-- The valid records of the area, with their pages (R477). -/
def healthRecords (h : HostView) (i : Image) : List (Nat × Bytes) :=
  ((List.range i.pages).map (fun k => (k, hv1 h (i.hrAddr + 256 * k) 256))).filter (fun r => hrValid r.2)

/-- The record with the highest number (R477). -/
def newestRecord (rs : List (Nat × Bytes)) : Option (Nat × Bytes) := leastBy (fun a b => decide (hrSeq b.2 < hrSeq a.2)) rs

/-- Records whose consumed byte reads 0xFF. -/
def unconsumed (rs : List (Nat × Bytes)) : List (Nat × Bytes) := rs.filter (fun r => decide (fld r.2 14 1 = 0xFF))

/-- Phase 5 is needed (R479). -/
def needTest (i : Image) (rs : List (Nat × Bytes)) : Bool :=
  match newestRecord rs with
  | none => true
  | some n => decide (unconsumed rs = []) || decide (fld n.2 16 8 ≠ i.igen) || decide (fld n.2 15 1 = 0xFF)

/-- Remap records of a health record. -/
def hrMap (b : Bytes) : List Nat := (List.range (min 56 (fld b 15 1))).map (fun k => fld b (24 + 4 * k) 4)

/- The start -/

/-- Masks as lists of pitches. -/
def inMask (m : Nat) : List Nat := (List.range 4).filter (fun p => bit m p)

def toMask (ps : List Nat) : Nat := (ps.map (fun p => 2 ^ p)).foldl (· + ·) 0

/-- The largest run of consecutive pitches of a set, the lowest of equals (R30). -/
def bestRun (ok : Nat → Bool) : List Nat :=
  let run (p : Nat) : List Nat := (List.range 4).map (p + ·) |>.takeWhile (fun q => decide (q < 4) && ok q)
  ((List.range 4).map run).foldl (fun b r => if b.length < r.length then r else b) []

/-- The rounds of phase 5 (R481). -/
def testRounds (n part : Nat) : List Nat :=
  ((if n = 4 then [5, 10] else if n = 3 then [5, 2] else [1, 2]).map (· &&& part)).filter (fun m => decide (m ≠ 0))

/-- Pitches that start (R30, R479): of those that take part, the ones not failed; where a bypass strip failed, the best run
of them. -/
def upMask (bypass part failed : Nat) : Nat :=
  let ok := part &&& (15 ^^^ failed)
  if bypass = 0 then ok else toMask (bestRun (bit ok))

/-- Outcome of phases 1 to 4: a failing code, or what the rest of the start needs. -/
inductive StartRead where
  | fails (code : Nat)
  | reads (image : Image) (record : Option (Nat × Bytes)) (part : Nat) (notes : List Nat) (failed : Nat) (test : Bool)
  deriving DecidableEq, Repr, Inhabited

/-- Phases 3 and 4, once the header is read (R475 to R480): the outcome, and the commands on the NVM port. DESIGN CHOICE
(log entry 171): a pitch whose own bypass strip failed is not healthy in the sense of R30. -/
def State.readBody (s : State) (i : StartInput) (m : ReadMode) (b : Bytes) : StartRead × List NvmOp :=
  let n := fld b 12 2
  let d1 := directory (hv1 i.flash) n
  let d := if dirOk d1 then d1 else directory (hv2 i.flash) n
  let ops := if dirOk d1 then [m.read 64 (16 * n)] else [m.read 64 (16 * n), m.read 64 (16 * n)]
  if n = 0 ∨ 64 < n then (.fails 0x04, [])
  else if dirOk d = false then (.fails 0x04, ops)
  else
    let ops := ops ++ d.flatMap (fun e => checkedReads m i.flash e.off e.len (fun b => decide (crcN b = e.chk)))
    match readSections i.flash d with
    | none => (.fails 0x04, ops)
    | some ss =>
      let im := mkImage b ss
      if !(s.pairsOk im.pairs) then (.fails 0x06, ops)
      else if !(s.sparesOk im.spares) then (.fails 0x07, ops)
      else
        let pres := s.glb.present
        let ready := pres &&& i.ready.toNat
        let bad := pres &&& i.bypassBad.toNat
        let rs := healthRecords i.flash im
        let rec_ := newestRecord rs
        let unc := newestRecord (unconsumed rs)
        let ops := ops ++ (List.range im.pages).map (fun k => m.read (im.hrAddr + 256 * k) 256) ++
          (match unc with | none => [] | some r => nvmWrite (.program (im.hrAddr + 256 * r.1 + 14) [0#8]))
        let test := needTest im rs
        let part := ready &&& (2 ^ im.pitches - 1) &&& (15 ^^^ bad)
        let hrBad := if test then 0 else match rec_ with
          | none => 0
          | some r => part &&& toMask ((List.range 4).filter (fun p => decide (fld r.2 (8 + p) 1 = 2)))
        let notes := (if bad = 0 then [] else [0x10]) ++ (if ready = pres then [] else [0x12]) ++
          (if im.pitches < s.nPitch then [0x13] else []) ++ (if unc.isSome && !i.consume then [0x21] else []) ++
          (if test then [0x20] else []) ++ (if hrBad = 0 then [] else [0x11])
        if upMask bad part hrBad = 0 then (.fails 0x09, ops) else (.reads im rec_ part notes hrBad test, ops)

/-- Phases 1 to 4 (R67 to R70, R478 to R480, R484): the outcome, and the NVM port with the commands it has had. -/
def State.startRead (s : State) (i : StartInput) : StartRead × Nvm :=
  let ready := s.glb.present &&& i.ready.toNat
  if !i.strobes then (.fails 0x08, {})
  else if upMask (s.glb.present &&& i.bypassBad.toNat) (ready &&& (15 ^^^ i.bypassBad.toNat)) 0 = 0 then (.fails 0x09, {})
  else match chooseMode i.sfdp with
  | none => (.fails 0x01, { ops := [.sfdp] })
  | some m =>
    let nvm (ops : List NvmOp) : Nvm := { mode := some m, ops := .sfdp :: (if m.enter4 then [.enter4] else []) ++ ops }
    let first := checkedReads m i.flash 0 64 headerOk
    if !i.data then (.fails 0x02, nvm [])
    else match flashChecked i.flash 0 64 headerOk with
    | none => (.fails 0x03, nvm first)
    | some b =>
      if !(headerInRange s.nPitch b) then (.fails 0x05, nvm first)
      else
        let r := s.readBody i m b
        (r.1, nvm (first ++ r.2))

/-- The state that phase 1 of a start leaves (R478, R504): everything at reset, but for what the start
controller keeps, the tick copies, the levels of input pins (R71, R472), the model's own fields and the traces. -/
def State.fresh0 (s : State) : State :=
  { State.reset with
    pending := s.pending
    glb := { State.reset.glb with present := s.glb.present }
    clk := { s.clk with load := none }
    pitches := s.pitches.map (fun p => { Pitch.reset with tick := p.tick, droop := p.droop })
    start := { StartSt.reset with fails := s.start.fails, reason := s.start.reason }
    mem := { State.reset.mem with
      chs := s.mem.chs.map (fun c => { MemCh.reset with down := c.down })
      cmds := s.mem.cmds
      beats := s.mem.beats }
    core := { State.reset.core with pts := s.core.pts.map (fun p => { CorePt.reset with down := p.down }), sent := s.core.sent }
    links := { State.reset.links with wire := s.links.wire }
    fnc := { State.reset.fnc with sent := s.fnc.sent }
    free := s.free }

/-- A start from phase 1 (R478). -/
def State.begin_ (s : State) (i : StartInput) : State :=
  let s := s.fresh0
  let r := s.startRead i
  match r.1 with
  | .fails c => { s with start := { s.start with phase := .failing, code := c, part := s.glb.present &&& i.ready.toNat, nvm := r.2 } }
  | .reads im rec_ part notes bad test =>
    { s with start := { s.start with
        phase := if test then .testing else .ready
        part := part
        bypass := s.glb.present &&& i.bypassBad.toNat
        failed := bad
        rounds := if test then testRounds s.nPitch part else []
        note := notes.headD 0
        image := some im
        record := rec_.map Prod.snd
        page := rec_.map Prod.fst
        nvm := r.2 } }

/-- START_BEGIN (R478): from reset, from a restart, after a stop or a scan. -/
def startBeginOp (i : StartInput) (s : State) : State :=
  if s.start.phase = .idle ∨ s.alive = false then s.begin_ i else s

def execStartBegin (input : StartInput) (s : State) : Host.Outcome State Fault Refusal := .next (startBeginOp input s)

/-- SELF_TEST_ROUND_DONE (R481). -/
def selfTestOp (failed : BitVec 4) (s : State) : State :=
  if !s.alive || decide (s.start.phase ≠ .testing) then s
  else match s.start.rounds with
  | [] => s
  | m :: r =>
    let bad := m &&& failed.toNat
    let f := s.start.failed ||| bad
    let dead := decide (upMask s.start.bypass s.start.part f = 0)
    { s with start := { s.start with
        rounds := r
        tested := s.start.tested ||| m
        failed := f
        note := if s.start.note = 0 ∧ bad ≠ 0 then 0x11 else s.start.note
        phase := if r ≠ [] then .testing else if dead then .failing else .ready
        code := if r = [] ∧ dead = true then 0x09 else s.start.code } }

def execSelfTestRoundDone (failed : BitVec 4) (s : State) : Host.Outcome State Fault Refusal := .next (selfTestOp failed s)

/-- The resource of a remap record gives way to its spare (R25, R28, R31, R93); lanes and cores do so in the remap list. -/
def State.useSpare (s : State) (w : Nat) : State :=
  let f := remapFields w
  let p := f.2.1
  let l := f.2.2.1
  let x := f.2.2.2
  if f.1 = 4 then s.modGuy (p * 200 + l % 200) (fun g => { g with groups := g.groups ++ [x % 14] })
  else if f.1 = 5 then
    (s.modGuy (p * 200 + l % 200) (fun g => { g with st := 3 })).modGuy (p * 200 + x / 4 * 100 + 96 + x % 4) (fun g => { g with st := 0 })
  else if f.1 = 6 ∧ l < 64 ∧ portPitch l = p then
    let q := s.port l
    (s.modPort (64 + 2 * p + x) (fun _ => { q with steer := indexOf l })).modPort l (fun _ => { Port.reset with st := 4, iso := q.iso })
  else s

/-- Apply one remap record of the spares map or the health record (R31, R519). -/
def State.applyRemap (s : State) (w : Nat) : State :=
  let f := remapFields w
  (s.useSpare w).listRemap f.2.1 f.1 f.2.2.1 f.2.2.2

/-- Membership that a start makes live (R475). -/
def imageMemb (im : Image) : Memb :=
  let own := (entPos im.pos).z * 256 + (entPos im.pos).y * 16 + (entPos im.pos).x + 4096
  let m := im.member.getD (0, tput 0 im.chip own [])
  { live := m.2, ver := m.1, staged := [], sver := 0, at_ := 0, armed := false, prev := [], goneLive := 0, lost := [] }

/-- Group words of the image in the register file. -/
def State.loadGroups (s : State) (t : Table Nat) : State := t.foldl (fun s e => s.wr (0x60000 + 4 * e.1) (e.2 &&& 0xE0FFFFFF)) s

/-- Link ports after a start (R71, R78, R91, R475): those of a started pitch leave isolation, and a connected active one is
enabled. -/
def imagePorts (im : Image) (up el : Nat) : List Port :=
  (List.range 72).map (fun n =>
    if !(bit up (portPitch n)) then { Port.reset with st := 5 }
    else match im.links.find? (fun l => decide (l.1 = n)) with
    | some l => if l.2.1 = 1 ∧ n < 64 then { Port.reset with iso := false, en := true, st := 1, enAt := el, phyAt := el }
      else { Port.reset with iso := false }
    | none => { Port.reset with iso := false })

def imageLinks (im : Image) : Table LinkEnt :=
  (List.range 72).filterMap (fun n => match im.links.find? (fun l => decide (l.1 = n)) with
    | some l => if l.2.1 = 1 then some (n, ⟨true, l.2.2.1, l.2.2.2.1, l.2.2.2.2⟩) else none
    | none => none)

/-- START_COMPLETE (R478): phases 6 and 7. -/
def startCompleteOp (duration : Nat) (s : State) : State :=
  match s.start.image with
  | none => s
  | some im =>
    if !s.alive || decide (s.start.phase ≠ .ready) then s
    else
      let up := upMask s.start.bypass s.start.part s.start.failed
      let anchor := (inMask up).headD 0
      let note := s.start.note
      let s : State := { s with
        glb := { s.glb with anchor := anchor, chip := im.chip, pos := im.pos, nx := im.nx, ny := im.ny, nz := im.nz }
        pitches := s.pitches.zipIdx.map (fun p => { p.1 with held := !(bit up p.2), tick := (s.pitch anchor).tick })
        memb := imageMemb im
        mem := { s.mem with chs := s.mem.chs.zipIdx.map (fun c => { c.1 with iso := !(bit up (c.2 / 4)) }) }
        core := { s.core with pts := s.core.pts.zipIdx.map (fun c => { c.1 with iso := !(bit up (c.2 / 8)) }) }
        links := { s.links with ports := imagePorts im up s.el, tab := imageLinks im } }
      let hidden (a : Nat) : Bool := decide (0xD0000 ≤ a ∧ a < 0xD0400) && !(bit up ((a - 0xD0000) / 0x100))
      let s := (s.applyPairs im.pairs (fun a => !(hidden a))).loadGroups im.groups
      let s := (im.spares ++ (match s.start.record with | some r => hrMap r | none => [])).foldl State.applyRemap s
      let o := s.bivOrder
      let s : State := { s with
        lnt := { s.lnt with biv := decide (4 ≤ o ∧ o ≤ 20), bivOff := false }
        start := { s.start with phase := .done, lock := true, started := up, before := s.start.fails, fails := 0, code := 0 } }
      (s.notice 6).event 0x52 0 (up + s.start.tested * 16 + note * 256) duration

def execStartComplete (duration : Nat) (s : State) : Host.Outcome State Fault Refusal := .next (startCompleteOp duration s)

/-- Minimal mode (R483). -/
def State.minimal (s : State) : State :=
  let a := (inMask s.start.part).headD ((inMask s.glb.present).headD 0)
  let s : State := { s with
    glb := { s.glb with anchor := a }
    pitches := s.pitches.zipIdx.map (fun p => { p.1 with held := decide (p.2 ≠ a) })
    start := { s.start with phase := .minimal, lock := true, started := 0 } }
  (s.notice 6).event 0x53 0 s.start.reason s.start.fails

/-- START_FAIL (R482). -/
def startFailOp (s : State) : State :=
  if !s.alive || decide (s.start.phase ≠ .failing) then s
  else
    let n := s.start.fails + 1
    let s := { s with start := { s.start with fails := n, reason := s.start.code, failAt := s.el, phase := .waiting, image := none } }
    if 3 ≤ n then s.minimal else s

def execStartFail (s : State) : Host.Outcome State Fault Refusal := .next (startFailOp s)

/-- START_RETRY (R482): 1 ms after the failure. -/
def startRetryOp (i : StartInput) (s : State) : State :=
  if s.alive && decide (s.start.phase = .waiting) && decide (s.start.failAt + 1000000 ≤ s.el) then s.begin_ i else s

def execStartRetry (input : StartInput) (s : State) : Host.Outcome State Fault Refusal := .next (startRetryOp input s)

/-- RESTART_WRITE (R483): the start itself is START_BEGIN, with what it finds. -/
def restartOp (s : State) : State :=
  if !s.portOpen && !(s.alive && decide (s.start.shut = 3)) then s
  else if s.start.phase = .minimal ∨ s.start.shut = 3 then
    ({ s with start := { s.start with phase := .idle, fails := 0 } }).ackWrite
  else (s.ignored 0x54).ackWrite

def execRestartWrite (s : State) : Host.Outcome State Fault Refusal := .next (restartOp s)

/- Shut-down -/

/-- SHUT_GO (R485). -/
def shutGoOp (s : State) : State :=
  if !s.portOpen then s
  else if s.start.phase = .done ∧ s.start.shut = 0 ∧ tkeys (fun c x => decide (c ≠ 0) && (x.enable || x.tdown)) s.ctxs = [] then
    let s := ((s.recWrite 0x58 1).infFail false).infFail true
    if s.rsl.snap.busy then ({ s with start := { s.start with shut := 4 } }).ackWrite else s.shutDown.ackWrite
  else (s.ignored 0x58).ackWrite

def execShutGo (s : State) : Host.Outcome State Fault Refusal := .next (shutGoOp s)

/-- SHUT_PITCH_TESTED (R486): `remaps` are the faults covered by spares, as remap records. -/
def shutTestedOp (passed : Bool) (remaps : List W32) (s : State) : State :=
  if !s.alive || decide (s.start.shut ≠ 1) then s
  else
    let p := s.start.shutPitch
    let s := remaps.foldl (fun s w => let f := remapFields w.toNat; s.remapAt p f.1 f.2.2.1 f.2.2.2) s
    let st := { s.start with
      shutFailed := if passed then s.start.shutFailed else s.start.shutFailed ||| 2 ^ p
      shutDone := s.start.shutDone ||| 2 ^ p }
    match (s.pitchesUp.filter (fun q => decide (q < p))).getLast? with
    | none => { s with start := { st with shut := 2 } }
    | some q =>
      let other := (s.pitchesUp.filter (fun r => decide (r ≠ q))).headD s.glb.anchor
      { s with
        glb := { s.glb with anchor := if s.glb.anchor = q then other else s.glb.anchor }
        start := { st with shutPitch := q } }

def execShutPitchTested (passed : Bool) (remaps : List W32) (s : State) : Host.Outcome State Fault Refusal :=
  .next (shutTestedOp passed remaps s)

/-- Remaps that the block listed after the spares map of its image (R31, R487). -/
def State.ownRemaps (s : State) : List Nat := s.remapList.drop ((s.start.image.map (fun i => i.spares.length)).getD 0)

/-- The health record of a shut-down (R477, R487). -/
def State.healthRecord (s : State) : Bytes :=
  let old := s.start.record.getD []
  let ws := s.ownRemaps
  let res (p : Nat) : Nat := if bit s.start.shutDone p then (if bit s.start.shutFailed p then 2 else 1) else 0
  withCrc (le 4 0x48544C48 ++ le 4 (hrSeq old + 1) ++ (List.range 4).flatMap (fun p => le 1 (res p)) ++
    le 1 (min 255 s.start.before) ++ le 1 s.start.reason ++ [0xFF#8] ++ le 1 (if ws.length ≤ 56 then ws.length else 0xFF) ++
    le 8 ((s.start.image.map Image.igen).getD 0) ++ exactly 224 (if ws.length ≤ 56 then ws.flatMap (le 4) else []) ++ zeros 4)

/-- The page that the next record goes into (R487): the one after the newest record's, or after the one that failed. -/
def State.recordPage (s : State) (i : Image) : Nat :=
  ((match s.start.page with | none => 0 | some k => k + 1) + s.start.hrTries) % max 1 i.pages

/-- The commands of a health-record write (R70, R487): the sector is erased before its first page, unless it holds the
newest valid record; then the page, and the read-back. -/
def State.recordOps (s : State) : List NvmOp :=
  match s.start.image, s.start.nvm.mode with
  | some i, some m =>
    let k := s.recordPage i
    let a := i.hrAddr + 256 * k
    (if k % 16 = 0 ∧ s.start.page.map (· / 16) ≠ some (k / 16) then nvmWrite (.erase (i.hrAddr + 4096 * (k / 16))) else []) ++
      nvmWrite (.program a s.healthRecord) ++ [m.read a 256]
  | _, _ => []

/-- HEALTH_RECORD_WRITTEN (R487): a failed read-back is repeated once in the next page. -/
def healthOp (ok : Bool) (s : State) : State :=
  if !s.alive || decide (s.start.shut ≠ 2) then s
  else
    let nvm := { s.start.nvm with ops := s.start.nvm.ops ++ s.recordOps }
    if ok || decide (s.start.hrTries = 1) then
      { s with
        start := { s.start with
          shut := 3
          hrFail := !ok
          record := if ok then some s.healthRecord else s.start.record
          page := if ok then s.start.image.map s.recordPage else s.start.page
          nvm := nvm }
        pitches := s.pitches.map (fun p => { p with offOk := true }) }
    else { s with start := { s.start with hrTries := 1, nvm := nvm } }

def execHealthRecordWritten (ok : Bool) (s : State) : Host.Outcome State Fault Refusal := .next (healthOp ok s)

/-- SCAN_EN (R489). -/
def scanEnOp (s : State) : State :=
  if !s.alive then s
  else
    let s := (tkeys (fun _ x => x.enable && !x.tdown) s.ctxs).foldl State.disableCtx s
    let s := { s with core := { s.core with cancels := [] } }
    let s := { s with ctxs := tmap Ctx.reset (fun _ (x : Ctx) => if x.tdown then
        { x with enable := false, tdown := false, st := .disabled, downWait := false, key := 0#64 } else { x with key := 0#64 }) s.ctxs }
    { s with start := { s.start with keysCleared := true, scan := true } }

def execScanEn (s : State) : Host.Outcome State Fault Refusal := .next (scanEnOp s)

end Sys2Proof.Machine
end

