-- ==== Sys2Proof/Machine/Ticks.lean ====
section
/-! DEFINITION. The tick strobe (R22, R50, R62, R63, R65, R392, R410, R430) and the step-stall timer (R509, R510). -/

namespace Sys2Proof.Machine

/- Copies of the counter -/

/-- The value that more than half of the working pitches' copies hold (R430), else the anchor's. -/
def State.copyVote (s : State) : W64 :=
  let ps := s.pitchesUp
  let count (v : W64) : Nat := (ps.filter (fun p => decide ((s.pitch p).tick = v))).length
  match ps.find? (fun p => decide (ps.length < 2 * count (s.pitch p).tick)) with
  | some p => (s.pitch p).tick
  | none => (s.pitch s.glb.anchor).tick

/-- A copy that differs is loaded (R430). -/
def State.reloadCopy (v : W64) (s : State) (p : Nat) : State :=
  if (s.pitch p).tick = v then s
  else (s.detect.modPitch p (fun x => { x with tick := v })).eventAt s.glb.anchor 0x07 0 p 0

/-- The comparison of the copies at a tick (R430). -/
def State.compareCopies (s : State) : State := s.pitchesUp.foldl (State.reloadCopy s.copyVote) s

/-- Every copy advances by one (R62), and those of `upset` are then flipped. -/
def advanceCopy (upset : BitVec 4) (flip : W64) (p : Nat) (x : Pitch) : Pitch :=
  { x with tick := if upset.getLsbD p then (x.tick + 1#64) ^^^ flip else x.tick + 1#64 }

def State.advanceCopies (s : State) (upset : BitVec 4) (flip : W64) : State :=
  { s with
    pitches := s.pitches.zipIdx.map (fun x => advanceCopy upset flip x.2 x.1)
    clk := { s.clk with el := s.clk.el + 1, silent := false, load := s.clk.load.map (fun l => { l with left := l.left - 1 }) } }

/-- Both allowances of a channel grow (R50), in 1/128 beat. -/
def MemCh.grow (c : MemCh) : MemCh := { c with rd := min 16384 (c.rd + 125), wr := min 16384 (c.wr + 125) }

/- What the running steps see of a tick -/

/-- A ready tile of the step finds every core of its tent with another context (R392). -/
def State.coresTaken (s : State) (c : Nat) (st : Step) : Bool :=
  let ks := (tentCores (s.tentOf c)).filter s.coreOk
  s.mayTile c st && decide (ks ≠ []) &&
  ks.all (fun k => (tget {} s.ktl.cores k).busy && decide ((tget {} s.ktl.cores k).ctx ≠ c)) &&
  (tentPitches (s.tentOf c)).any (fun p => (s.nextTile c st p).isSome)

/-- Chunk formation of the step waits for entries of other contexts (R260, R392). -/
def State.entriesTaken (s : State) (c : Nat) (st : Step) : Bool :=
  st.maySend && st.rt.list.any (fun e => e.waits && decide (st.chipOf s.glb.chip e.e ≠ s.glb.chip) && (st.payRow e.e.t).isSome) &&
  (decide (16384 ≤ s.chunksUsed) || decide (15360 ≤ s.chunksLow)) && decide (s.chunksOf c < s.chunksUsed)

/-- The tick counts in t_other (R392). -/
def State.heldUp (s : State) (c : Nat) (st : Step) : Bool :=
  decide (st.frame = none) || st.evicted || s.coresTaken c st || s.entriesTaken c st

/-- Launched steps whose record is not yet requested. -/
def State.stepsGoing (s : State) : List Nat := s.stepsWhere (fun _ _ st => st.launched && !st.ended)

/-- Some chain has not fired, and every chain that has is complete (R121). -/
def Step.waitsChain (st : Step) : Bool :=
  st.chains.any (fun h => decide (h.st = 0)) && st.chains.all (fun h => decide (h.st = 0 ∨ h.st = 3))

/-- A tick of a running step: t_other (R392), and the tick since which only chains are incomplete (R121). -/
def State.tickStep (s : State) (c : Nat) : State :=
  match s.step? c with
  | none => s
  | some st =>
    let other := st.cnt.tOther + b2n (s.heldUp c st)
    let rest := if s.workOver c st && st.waitsChain then some (st.cnt.rest.getD s.el) else none
    s.modStep c (fun st => { st with cnt := { st.cnt with tOther := other, rest := rest } })

/-- The oldest descriptor fetch that is due begins (R115). -/
def State.beginFetch (s : State) : State :=
  match s.stp.fetchq with
  | [] => s
  | c :: r => ({ s with stp := { s.stp with fetchq := r } } : State).fetchDesc c 0

/-- What the tick brings to the units (R115, R392, R410). -/
def State.tickUnits (s : State) : State :=
  let s := s.beginFetch
  let s := s.stepsGoing.foldl State.tickStep s
  (s.stepsWhere (fun _ _ st => st.cnt.whole.isSome && !st.ended)).foldl (fun s c => State.endGo c 2 s) s

/-- TICK_STROBE (R22, R50, R62, R63, R65, R430). -/
def tickStrobeOp (gap interval : Nat) (upset : BitVec 4) (flip : W64) (s : State) : State :=
  if !s.alive then s
  else
    let s := (tickApplyOp s).compareCopies
    let s := s.advanceCopies upset flip
    let s := { s with
      mem := { s.mem with chs := s.mem.chs.map MemCh.grow }
      ctl := { s.ctl with fresh := [] } }
    let s := if gap ≠ 0 then s.event 0x06 0 interval 0 else s
    if s.on then s.tickUnits else s

def execTickStrobe (gap interval : Nat) (upset : BitVec 4) (flip : W64) (s : State) : Host.Outcome State Fault Refusal :=
  .next (tickStrobeOp gap interval upset flip s)

/- The step-stall timer -/

/-- The timer of R509 has run out: ticks since the last progress, less those of t_other. -/
def State.stepStalled (s : State) (st : Step) : Bool :=
  decide (s.rdMin 0x38 0x400000 ≤ (s.el - st.cnt.prog) - (st.cnt.tOther - st.cnt.progOther))

/-- A request of the context is silent (R52, R510). -/
def State.memSilent (s : State) (c : Nat) : Option (Nat × Nat) :=
  (List.range 16).findSome? (fun ch =>
    ((s.ch ch).out.find? (fun o => decide (o.req.ctx = c) && o.req.silent && decide (o.at_ + s.rdMin 0x34 0x1000 ≤ s.el))).map
      (fun o => (ch, o.tag)))

/-- An instance of the step whose timer has run out (R304, R510). -/
def State.collSilent (s : State) (st : Step) : Option Nat :=
  (st.insts.find? (fun x => decide (x.stage < 3) && decide (x.last + s.rd 0x64004 ≤ s.el))).map CollInst.cinst

/-- A drain-table entry of the context whose time is over (R238, R510). -/
def State.drainOver (s : State) (c : Nat) : Option Nat :=
  (s.drain.find? (fun d => decide (d.ctx = c ∧ d.at_ + s.rd 0x4000C ≤ s.el))).map DrainE.epoch

/-- STEP_STALL_TIMEOUT (R509, R510): a more specific timer that has run out too takes its place. -/
def stepStallOp (c : Nat) (s : State) : State :=
  match s.step? c with
  | none => s
  | some st =>
    if !s.on || decide (c = 0) || !(s.ctx c).active || !(s.stepStalled st) then s
    else match s.memSilent c, s.collSilent st with
    | some (ch, tag), _ => memTimeoutOp ch tag s
    | none, some k => collTimeoutOp c k s
    | none, none =>
      if s.chainStalled c then chainStallOp c s
      else match s.drainOver c with
      | some e => drainTimeoutOp c e s
      | none => s.ctxFault c 0x1B

def execStepStallTimeout (ctx : Nat) (s : State) : Host.Outcome State Fault Refusal := .next (stepStallOp ctx s)

end Sys2Proof.Machine
end

