-- ==== Sys2Proof/Machine/Dispatch.lean ====
section
/-! DEFINITION. One arm per command: a direct call of its meaning. -/

namespace Sys2Proof.Machine

def exec (i : Instr) (s : State) : Host.Outcome State Fault Refusal :=
  match i with
  | .controlWrite addr data apar wpar => Sys2Proof.Machine.execControlWrite addr data apar wpar s
  | .w1cWrite addr data hwSet => Sys2Proof.Machine.execW1cWrite addr data hwSet s
  | .rcRead addr => Sys2Proof.Machine.execRcRead addr s
  | .lowWordLatchRead addr => Sys2Proof.Machine.execLowWordLatchRead addr s
  | .lanternRead bad => Sys2Proof.Machine.execLanternRead bad s
  | .lanternFlush => Sys2Proof.Machine.execLanternFlush s
  | .contextEnable ctx => Sys2Proof.Machine.execContextEnable ctx s
  | .contextDisable ctx => Sys2Proof.Machine.execContextDisable ctx s
  | .contextCancel ctx => Sys2Proof.Machine.execContextCancel ctx s
  | .tentWrite tent data => Sys2Proof.Machine.execTentWrite tent data s
  | .modelSet model => Sys2Proof.Machine.execModelSet model s
  | .modelClr model => Sys2Proof.Machine.execModelClr model s
  | .rotaArm => Sys2Proof.Machine.execRotaArm s
  | .rotaGoLive => Sys2Proof.Machine.execRotaGoLive s
  | .pinTick slot word => Sys2Proof.Machine.execPinTick slot word s
  | .memberArm hv => Sys2Proof.Machine.execMemberArm hv s
  | .memberGoLive => Sys2Proof.Machine.execMemberGoLive s
  | .tableSetArm hv => Sys2Proof.Machine.execTableSetArm hv s
  | .tableSetGoLive => Sys2Proof.Machine.execTableSetGoLive s
  | .routerSwitchArm hv => Sys2Proof.Machine.execRouterSwitchArm hv s
  | .routerSwitchAt => Sys2Proof.Machine.execRouterSwitchAt s
  | .weightSwitchArm hv => Sys2Proof.Machine.execWeightSwitchArm hv s
  | .weightSwitchAt => Sys2Proof.Machine.execWeightSwitchAt s
  | .routerCopyGo hv => Sys2Proof.Machine.execRouterCopyGo hv s
  | .expertCopyGo hv => Sys2Proof.Machine.execExpertCopyGo hv s
  | .infusionStall router => Sys2Proof.Machine.execInfusionStall router s
  | .snapshotGo go => Sys2Proof.Machine.execSnapshotGo go s
  | .snapshotStall => Sys2Proof.Machine.execSnapshotStall s
  | .restoreGo hv => Sys2Proof.Machine.execRestoreGo hv s
  | .lostDeclWrite data => Sys2Proof.Machine.execLostDeclWrite data s
  | .restartWrite => Sys2Proof.Machine.execRestartWrite s
  | .shutGo => Sys2Proof.Machine.execShutGo s
  | .shutPitchTested passed remaps => Sys2Proof.Machine.execShutPitchTested passed remaps s
  | .healthRecordWritten ok => Sys2Proof.Machine.execHealthRecordWritten ok s
  | .plockWrite on => Sys2Proof.Machine.execPlockWrite on s
  | .recordCtlWrite data => Sys2Proof.Machine.execRecordCtlWrite data s
  | .fenceTpWrite addr data => Sys2Proof.Machine.execFenceTpWrite addr data s
  | .proposalClear => Sys2Proof.Machine.execProposalClear s
  | .proposalSubmit => Sys2Proof.Machine.execProposalSubmit s
  | .rangerVerdict word => Sys2Proof.Machine.execRangerVerdict word s
  | .countersignExpire => Sys2Proof.Machine.execCountersignExpire s
  | .scanEn => Sys2Proof.Machine.execScanEn s
  | .tickStrobe gap interval upset flip => Sys2Proof.Machine.execTickStrobe gap interval upset flip s
  | .tickLoad val par => Sys2Proof.Machine.execTickLoad val par s
  | .tickLoadApply => Sys2Proof.Machine.execTickLoadApply s
  | .tickLoss ring => Sys2Proof.Machine.execTickLoss ring s
  | .paceWindowEnd pitch count => Sys2Proof.Machine.execPaceWindowEnd pitch count s
  | .governorWindow pitch cap => Sys2Proof.Machine.execGovernorWindow pitch cap s
  | .paceLockSlip pitch => Sys2Proof.Machine.execPaceLockSlip pitch s
  | .droopRise pitch => Sys2Proof.Machine.execDroopRise pitch s
  | .droopFall pitch => Sys2Proof.Machine.execDroopFall pitch s
  | .powerGoodFall pitch => Sys2Proof.Machine.execPowerGoodFall pitch s
  | .junctionHot pitch reading => Sys2Proof.Machine.execJunctionHot pitch reading s
  | .startBegin input => Sys2Proof.Machine.execStartBegin input s
  | .selfTestRoundDone failed => Sys2Proof.Machine.execSelfTestRoundDone failed s
  | .startComplete duration => Sys2Proof.Machine.execStartComplete duration s
  | .startFail => Sys2Proof.Machine.execStartFail s
  | .startRetry input => Sys2Proof.Machine.execStartRetry input s
  | .memRequestIssue ch => Sys2Proof.Machine.execMemRequestIssue ch s
  | .memReadBeat ch tag beat last sts data par hpar => Sys2Proof.Machine.execMemReadBeat ch tag beat last sts data par hpar s
  | .memWriteResponse ch tag sts hpar => Sys2Proof.Machine.execMemWriteResponse ch tag sts hpar s
  | .memAnswerTimeout ch tag => Sys2Proof.Machine.execMemAnswerTimeout ch tag s
  | .portStuckTimeout cls at_ => Sys2Proof.Machine.execPortStuckTimeout cls at_ s
  | .isolationRelease cls index => Sys2Proof.Machine.execIsolationRelease cls index s
  | .memDownRise ch => Sys2Proof.Machine.execMemDownRise ch s
  | .memDownFall ch => Sys2Proof.Machine.execMemDownFall ch s
  | .coreDownRise point => Sys2Proof.Machine.execCoreDownRise point s
  | .coreDownFall point => Sys2Proof.Machine.execCoreDownFall point s
  | .expertOutputs point packet par => Sys2Proof.Machine.execExpertOutputs point packet par s
  | .expertInputGradients point packet par => Sys2Proof.Machine.execExpertInputGradients point packet par s
  | .cueDone point word par => Sys2Proof.Machine.execCueDone point word par s
  | .cancelDone point word par => Sys2Proof.Machine.execCancelDone point word par s
  | .cancelDoneTimeout id => Sys2Proof.Machine.execCancelDoneTimeout id s
  | .linkFlitAccept port flit => Sys2Proof.Machine.execLinkFlitAccept port flit s
  | .controlFlit port flit => Sys2Proof.Machine.execControlFlit port flit s
  | .helloFlit port flit => Sys2Proof.Machine.execHelloFlit port flit s
  | .lossNotice => Sys2Proof.Machine.execLossNotice s
  | .linkTransmitSlot port => Sys2Proof.Machine.execLinkTransmitSlot port s
  | .ackTimeout port => Sys2Proof.Machine.execAckTimeout port s
  | .phyUpRise port => Sys2Proof.Machine.execPhyUpRise port s
  | .helloTimer port => Sys2Proof.Machine.execHelloTimer port s
  | .phyDownTimeout low => Sys2Proof.Machine.execPhyDownTimeout low s
  | .retryBoundExpire port => Sys2Proof.Machine.execRetryBoundExpire port s
  | .spareTimeout port => Sys2Proof.Machine.execSpareTimeout port s
  | .memberDisagreeTimeout port => Sys2Proof.Machine.execMemberDisagreeTimeout port s
  | .guyAck boundary up line reject => Sys2Proof.Machine.execGuyAck boundary up line reject s
  | .guyLineTestDone boundary up line failing => Sys2Proof.Machine.execGuyLineTestDone boundary up line failing s
  | .shareVisit ctx => Sys2Proof.Machine.execShareVisit ctx s
  | .descriptorFetched ctx hv => Sys2Proof.Machine.execDescriptorFetched ctx hv s
  | .stepAccept ctx hv => Sys2Proof.Machine.execStepAccept ctx hv s
  | .frameSwitchDone tent => Sys2Proof.Machine.execFrameSwitchDone tent s
  | .stepLaunch ctx hv => Sys2Proof.Machine.execStepLaunch ctx hv s
  | .chainPut ctx index hv => Sys2Proof.Machine.execChainPut ctx index hv s
  | .chainGet ctx index => Sys2Proof.Machine.execChainGet ctx index s
  | .chainCollective ctx index hv => Sys2Proof.Machine.execChainCollective ctx index hv s
  | .chainCounterAdd ctx index => Sys2Proof.Machine.execChainCounterAdd ctx index s
  | .chainCue ctx index hv => Sys2Proof.Machine.execChainCue ctx index hv s
  | .chainStallTimeout ctx => Sys2Proof.Machine.execChainStallTimeout ctx s
  | .stepDone ctx hv => Sys2Proof.Machine.execStepDone ctx hv s
  | .queryWriteResponse ctx => Sys2Proof.Machine.execQueryWriteResponse ctx s
  | .askDeadline ctx => Sys2Proof.Machine.execAskDeadline ctx s
  | .answerRead ctx => Sys2Proof.Machine.execAnswerRead ctx s
  | .askRetryTimer ctx => Sys2Proof.Machine.execAskRetryTimer ctx s
  | .askRereadTick ctx => Sys2Proof.Machine.execAskRereadTick ctx s
  | .askGraceExpire ctx => Sys2Proof.Machine.execAskGraceExpire ctx s
  | .imageLoadDone ctx pitch => Sys2Proof.Machine.execImageLoadDone ctx pitch s
  | .tileStart core => Sys2Proof.Machine.execTileStart core s
  | .tileComplete core hv => Sys2Proof.Machine.execTileComplete core hv s
  | .tileCheckFail core lane spared => Sys2Proof.Machine.execTileCheckFail core lane spared s
  | .storageParityFail kind pitch index sub => Sys2Proof.Machine.execStorageParityFail kind pitch index sub s
  | .phasePartial fails => Sys2Proof.Machine.execPhasePartial fails s
  | .countsToOwner => Sys2Proof.Machine.execCountsToOwner s
  | .countsFromOwner => Sys2Proof.Machine.execCountsFromOwner s
  | .strainerAllocate ctx => Sys2Proof.Machine.execStrainerAllocate ctx s
  | .routeCounts => Sys2Proof.Machine.execRouteCounts s
  | .collectiveAbort => Sys2Proof.Machine.execCollectiveAbort s
  | .putCompletion => Sys2Proof.Machine.execPutCompletion s
  | .counterAdd => Sys2Proof.Machine.execCounterAdd s
  | .collectiveTimeout ctx inst => Sys2Proof.Machine.execCollectiveTimeout ctx inst s
  | .chunkForm ctx hv => Sys2Proof.Machine.execChunkForm ctx hv s
  | .steepedCopySend ctx hv => Sys2Proof.Machine.execSteepedCopySend ctx hv s
  | .copyChunkLanded => Sys2Proof.Machine.execCopyChunkLanded s
  | .batchWaitExpire ctx slot => Sys2Proof.Machine.execBatchWaitExpire ctx slot s
  | .steepHoldTimeout => Sys2Proof.Machine.execSteepHoldTimeout s
  | .returnChunkLanded => Sys2Proof.Machine.execReturnChunkLanded s
  | .weightDataChunk => Sys2Proof.Machine.execWeightDataChunk s
  | .putDataChunk => Sys2Proof.Machine.execPutDataChunk s
  | .requestChunk hv => Sys2Proof.Machine.execRequestChunk hv s
  | .getDataChunk => Sys2Proof.Machine.execGetDataChunk s
  | .ringDataChunk fails => Sys2Proof.Machine.execRingDataChunk fails s
  | .backgroundCopyChunk => Sys2Proof.Machine.execBackgroundCopyChunk s
  | .replayQuietExpire ctx => Sys2Proof.Machine.execReplayQuietExpire ctx s
  | .shortQuietExpire ctx inst => Sys2Proof.Machine.execShortQuietExpire ctx inst s
  | .returnDrainTimeout ctx epoch => Sys2Proof.Machine.execReturnDrainTimeout ctx epoch s
  | .pourCombine ctx token hv => Sys2Proof.Machine.execPourCombine ctx token hv s
  | .stepStallTimeout ctx => Sys2Proof.Machine.execStepStallTimeout ctx s
  | .adviseWindowEnd => Sys2Proof.Machine.execAdviseWindowEnd s
  | .guyLineWordReceived boundary up line sent got => Sys2Proof.Machine.execGuyLineWordReceived boundary up line sent got s
  | .pitchResetAsserted pitch => Sys2Proof.Machine.execPitchResetAsserted pitch s
  | .cueQuietExpire ctx => Sys2Proof.Machine.execCueQuietExpire ctx s
  | .ctlErrRead addr apar => Sys2Proof.Machine.execCtlErrRead addr apar s

end Sys2Proof.Machine
end

