-- ==== Sys2Proof/Safety.lean ====
section
/-! DEFINITION. What counts as a safe step, in the terms claims use: the step answers a next state. What counts as
a state of the block's shape: its tables in canonical form, its registers of 32 bits, its ports and pitches all
there. -/

namespace Sys2Proof

/-- The step from `s` answers a next state. -/
def Completes (s : Machine.State) : Prop := ∃ t, Machine.step s = .next t

namespace Machine

/-- The register file is canonical from address `lo`: addresses rising, every value of 32 bits (R60), none equal to
the register's reset value. -/
def regsWf : Nat → Table Nat → Bool
  | _, [] => true
  | lo, (a, v) :: r => decide (lo ≤ a ∧ v < 2 ^ 32 ∧ v ≠ resetWord a) && regsWf (a + 1) r

/-- The block's shape: a canonical register file and context table; 4 pitches, 16 memory channels, 32 attachment
points, and 72 link ports (R20). -/
structure State.Ok (s : State) : Prop where
  regs : regsWf 0 s.regs = true
  ctxs : twf Ctx.reset 0 s.ctxs = true
  pitches : s.pitches.length = 4
  chs : s.mem.chs.length = 16
  pts : s.core.pts.length = 32
  ports : s.links.ports.length = 72

/-- The state but for what events, counters, register writes and the record log touch: the register file, the Lantern
queue, the record log and the requests that wait for memory with the number of the next. -/
def State.still (s : State) : State := { s with regs := [], lnt := {}, det := {}, mem := { s.mem with wait := [], nextId := 0 } }

/-- Requests as they wait once they have been posted in this order, the first under number `n`. -/
def numbered (n : Nat) (rs : List MemReq) : List MemReq := (rs.zipIdx n).map (fun p => { p.1 with id := p.2 })

/-- Registers that an event can change: the notice word, the level status and count, the lost counts (R465, R467). -/
def lntRegs : List Nat := [0x20, 0xB001C, 0xB0020, 0xB0024, 0xB0028]

/-- `t` holds every stored register as `s` does, but for those at the addresses of `xs`. -/
def State.KeepsRegs (s t : State) (xs : List Nat) : Prop := ∀ a, a ∉ xs → t.rd a = s.rd a

end Machine

end Sys2Proof
end

