-- ==== Sys2Proof/Certificates/Slice0/Obligations.lean ====
section
/-! DEFINITION. The statements about the model that are to be proved. -/

section
open Sys2Proof Sys2Proof.Machine Host

/-- A step takes the command at the front of the queue and runs it on the state with the queue's rest; on an empty
queue the block idles (the idling is the model's choice, log entry 2). Every command answers a next state in every
state: no command ends in a fault or a refusal, and one whose event cannot happen changes nothing (log entry 4). -/
def Obligations.StepRunsFrontCommand : Prop :=
  (∀ (c : Instr) (r : List Instr) (s : State), s.pending = c :: r → step s = exec c { s with pending := r }) ∧
  (∀ s : State, s.pending = [] → step s = .next s) ∧
  (∀ (c : Instr) (s : State), ∃ t, exec c s = .next t)

/-- The state after reset has the block's shape. -/
def Obligations.ResetHasShape : Prop :=
  State.reset.Ok

/-- Every step keeps the block's shape: the register file stays canonical and of 32-bit values (R60, R515), the
context table canonical, the pitches, channels, points and ports all there (R20). -/
def Obligations.StepKeepsShape : Prop :=
  ∀ s t : State, s.Ok → step s = .next t → t.Ok

/-- What a read returns after reset, for registers whose map states a Reset value (R517 to R519, R496, R419). -/
def Obligations.ResetRegisterValues : Prop :=
  (∀ e ∈ [(0x0, 0x57414C4B), (0x4, 0x00020400), (0x8, 0), (0x20, 0), (0x24, 0), (0x30, 0x10000), (0x34, 0x100000),
          (0x38, 0x2000000), (0x18000, 0), (0x18020, 0x400), (0x18024, 0x100), (0x18028, 0x100000),
          (0x1802C, 0x400000), (0x20014, 1), (0x30000, 0), (0x40000, 0x20), (0x40008, 0x40), (0x4000C, 0x400000),
          (0x50000, 1), (0x50004, 0x126648), (0x50008, 0x1000), (0x50018, 0x400), (0x64000, 3), (0x64004, 0x100000),
          (0x70000, 0x8041), (0x80000, 1), (0xB0014, 0), (0xB0018, 0x40), (0xC0014, 0x10000), (0xC0018, 0x4000),
          (0xC001C, 0x10040), (0xF0000, 0xFFF00), (0xF0004, 0x800), (0x100000, 0)],
      State.reset.regValue e.1 = e.2) ∧
  State.reset.ctxs = [] ∧ State.reset.lnt.ents = [] ∧ State.reset.start.phase = .idle

/-- CONTROL_WRITE of right parity to a register that no other command owns, where the access is open (R60, R61). An RW
register that no guard stops (R522), with a value in its range (R516): the writable bits take the data, the other bits and
every other register keep their values (R15, R515); the write then enters the record log where the log is on (`recWrite`,
R414), and is acknowledged without ctl_err and with no read data. A guarded register, a value out of range, or an LK field
after the start: no register takes the data, event 0x02 with the address is recorded, and the write is acknowledged.

CONTROL_WRITE that is refused: a failing ctl_apar or ctl_wpar raises ctl_err, is recorded as event 0x01 and writes
nothing; an access outside GLB_ before the start completes raises ctl_err, and nothing else changes (R61). -/
def Obligations.ControlWritesStoreOrAreRefused : Prop :=
  (∀ (addr : BitVec 23) (data : W32) (apar : Bool) (wpar : BitVec 4) (s : State) (r : RegRow) (a : Nat),
    a = 4 * addr.toNat → s.alive = true → parity 23 addr.toNat = 1 - b2n apar → bytePar data.toNat = wpar →
    s.ctlOpen a = true → regRow a = some r → r.w1c = 0 → ownWrite a data.toNat = false →
    (a < pageBase ∨ pageBase + 0x1000 ≤ a ∧ a % 0x1000 ≠ 0) → s.pitchHidden a = false →
    (r.rw ≠ 0 → s.guarded a = false → regInRange a (data.toNat &&& r.rw) = true →
      ∃ u t, exec (.controlWrite addr data apar wpar) s = .next t ∧ t = (u.recWrite a data.toNat).ackWrite ∧
        u = { s with regs := u.regs, ctl := u.ctl } ∧ s.KeepsRegs u [a] ∧
        u.rd a = (s.rd a &&& (ones ^^^ r.rw)) ||| (data.toNat &&& r.rw) ∧ t.rd a = u.rd a ∧
        t.ctl.err = false ∧ t.ctl.rdata = 0#32) ∧
    (r.rw ≠ 0 ∧ (s.guarded a = true ∨ regInRange a (data.toNat &&& r.rw) = false) ∨
        r.rw = 0 ∧ r.lk ≠ 0 ∧ s.start.lock = true →
      exec (.controlWrite addr data apar wpar) s = .next (((s.ignored a).recWrite a data.toNat).ackWrite) ∧
      (∀ x, x ∉ lntRegs → (s.ignored a).rd x = s.rd x) ∧ (s.ignored a).still = s.still)) ∧
  (∀ (addr : BitVec 23) (data : W32) (apar : Bool) (wpar : BitVec 4) (s : State) (a : Nat),
    a = 4 * addr.toNat → s.alive = true →
    (parity 23 addr.toNat ≠ 1 - b2n apar ∨ bytePar data.toNat ≠ wpar →
      ∃ t, exec (.controlWrite addr data apar wpar) s = .next t ∧ t.ctl.err = true ∧ t.ctl.rdata = 0#32 ∧
        t.lnt = (s.event 0x01 0 a 1).lnt ∧ s.KeepsRegs t lntRegs ∧ t.still = ({ s with ctl := t.ctl } : State).still) ∧
    (parity 23 addr.toNat = 1 - b2n apar → bytePar data.toNat = wpar → s.ctlOpen a = false →
      ∃ t, exec (.controlWrite addr data apar wpar) s = .next t ∧ t.ctl.err = true ∧ t.ctl.rdata = 0#32 ∧
        t = { s with ctl := t.ctl }))

/-- W1C_WRITE: a one clears the addressed W1C bit unless hardware sets it within the arbitration window, in which case
it reads one; every other bit and register keeps its value (R468). The clause on the bits asks that the record of the
write in the log enters no event into the same register: recording off, or another register than those events touch. -/
def Obligations.W1cWriteClears : Prop :=
  ∀ (addr : BitVec 23) (data hwSet : W32) (s : State) (r : RegRow) (a : Nat),
    a = 4 * addr.toNat → s.alive = true → s.ctlOpen a = true → s.pitchHidden a = false → regRow a = some r →
    r.w1c ≠ 0 → (bit (s.rd 0xF0000) 2 = false ∨ a ∉ 0xF000C :: lntRegs) →
    ∃ t, exec (.w1cWrite addr data hwSet) s = .next t ∧
      (∀ i < 32, bit (t.rd a) i =
        if bit r.w1c i then bit hwSet.toNat i || (bit (s.rd a) i && !bit data.toNat i) else bit (s.rd a) i) ∧
      t.ctl.err = false ∧ s.KeepsRegs t (a :: 0xF000C :: lntRegs) ∧ t.still = ({ s with ctl := t.ctl } : State).still

/-- RC_READ: the read returns the register's value and its RC fields return to their Reset value in the same access;
the other bits, every other register and the rest of the block keep theirs (R15).

LOW_WORD_LATCH_READ: the read returns the low word and latches the high word, which the next read of the high
word returns, whatever the register has become; a read of a high word that nothing has latched returns zero (R515).

CTL_ERR_READ: a read whose ctl_apar fails raises ctl_err, returns zero and is recorded as event 0x01; a read
outside GLB_ before the start completes raises ctl_err and returns zero, and nothing else changes (R61). -/
def Obligations.ControlReadsReturn : Prop :=
  (∀ (addr : BitVec 23) (s : State) (r : RegRow) (a : Nat),
    a = 4 * addr.toNat → s.alive = true → s.ctlOpen a = true → a ≠ 0xB0004 → isLatchLow a = false →
    (isLatchLow (a - 4) = false ∨ a < 4) → s.pitchHidden a = false → regRow a = some r →
    ∃ t, exec (.rcRead addr) s = .next t ∧
      t.ctl.rdata = BitVec.ofNat 32 (s.regValue a) ∧ t.ctl.err = false ∧
      (r.rc ≠ 0 → ∀ i < 32, bit (t.rd a) i = if bit r.rc i then bit r.rst i else bit (s.rd a) i) ∧
      (r.rc = 0 → t.rd a = s.rd a) ∧
      s.KeepsRegs t [a] ∧ t = { s with regs := t.regs, ctl := t.ctl }) ∧
  (∀ (addr hi : BitVec 23) (s : State) (a : Nat),
    a = 4 * addr.toNat → hi.toNat = addr.toNat + 1 → s.alive = true → s.ctlOpen a = true → isLatchLow a = true →
    (∃ t, exec (.lowWordLatchRead addr) s = .next t ∧
      t.ctl.rdata = BitVec.ofNat 32 (s.regValue a) ∧ t.ctl.err = false ∧ t = { s with ctl := t.ctl } ∧
      ∀ u : State, u.ctl.latch = t.ctl.latch → u.alive = true → u.ctlOpen (a + 4) = true →
        ∃ v, exec (.rcRead hi) u = .next v ∧ v.ctl.rdata = BitVec.ofNat 32 (s.regValue (a + 4)) ∧ v = { u with ctl := v.ctl }) ∧
    ((∀ e ∈ s.ctl.latch, e.1 ≠ a + 4) → s.ctlOpen (a + 4) = true →
      ∃ v, exec (.rcRead hi) s = .next v ∧ v.ctl.rdata = 0#32 ∧ v = { s with ctl := v.ctl })) ∧
  (∀ (addr : BitVec 23) (apar : Bool) (s : State) (a : Nat), a = 4 * addr.toNat → s.alive = true →
    (parity 23 addr.toNat ≠ b2n apar →
      ∃ t, exec (.ctlErrRead addr apar) s = .next t ∧ t.ctl.err = true ∧ t.ctl.rdata = 0#32 ∧
        t.lnt = (s.event 0x01 0 a 0).lnt ∧ s.KeepsRegs t lntRegs ∧ t.still = ({ s with ctl := t.ctl } : State).still) ∧
    (parity 23 addr.toNat = b2n apar → s.ctlOpen a = false →
      ∃ t, exec (.ctlErrRead addr apar) s = .next t ∧ t.ctl.err = true ∧ t.ctl.rdata = 0#32 ∧ t = { s with ctl := t.ctl }))

/-- CONTEXT_ENABLE of a disabled context whose ask ring is set up: the context enters Asking with a fresh tag key (a
free value) and cleared state, and the write of a query record of kind start, with the page's ASK_SEQ, is requested
(R105, R235, R526); MODE and TENT, every other context and the rest of the block keep their values. A write of one to an
ENABLE that is one changes no context, draws no key and asks for no record. -/
def Obligations.ContextEnableStarts : Prop :=
  ∀ (c : Nat) (s : State), s.portOpen = true → isJob c = true → (s.ctx c).tdown = false →
    ((s.ctx c).enable = false → s.page2 c 0x20 / 128 ≠ 0 → 1 ≤ s.page c 0x1C → s.page c 0x1C ≤ 12 →
      ∃ t, exec (.contextEnable c) s = .next t ∧
        (t.ctx c).enable = true ∧ (t.ctx c).st = .asking ∧ (t.ctx c).key = Config.tagKey s.free ∧ t.free = s.free + 1 ∧
        (t.ctx c).rt = (s.ctx c).rt ∧ (t.ctx c).tent = (s.ctx c).tent ∧ (t.ctx c).step = none ∧ (t.ctx c).fault = 0 ∧
        (t.ctx c).counters = [] ∧ (t.ctx c).ask.pend = 2 ∧
        (∃ q : Query, q.qkind = 2 ∧ q.seq = s.page c 0x0C ∧
          { writeReq c 1 (s.askAddr c q.seq) (encQuery q) ⟨.query, q.seq⟩ with id := s.mem.nextId } ∈ t.mem.wait) ∧
        (∀ d, d ≠ c → t.ctx d = s.ctx d) ∧ s.KeepsRegs t (0xF000C :: lntRegs) ∧
        t.still = ({ s with ctl := t.ctl, ctxs := t.ctxs, free := t.free } : State).still) ∧
    ((s.ctx c).enable = true →
      ∃ t, exec (.contextEnable c) s = .next t ∧ s.KeepsRegs t (0xF000C :: lntRegs) ∧
        t.still = ({ s with ctl := t.ctl } : State).still)

/-- CONTEXT_DISABLE of an enabled context runs a teardown with why = 2 and no fault code (R395, R397), and the write is
acknowledged: TDOWN is set and ENABLE stays; the tag key and the counters are zero, no epoch is tracked, no step and no
query are left, so no query record is written; a cancel word of scope 1 and why = 2 leaves at the lowest point of the anchor
(it waits there while core_down is high) and its answer is waited for (R394).

CONTEXT_CANCEL (R393, R394): the running step, in no open atom and with room in the drain table, is cancelled at once, and
a cancel word of its epoch with why = 0 leaves and its answer is waited for; within an open atom, or while the descriptor
waits for its epoch, the cancel is held; with the drain table full it is held and marked as waiting for the table (R240).
With nothing to cancel the context stays as it was. -/
def Obligations.ContextDisableAndCancel : Prop :=
  (∀ (c : Nat) (s : State), s.portOpen = true → isJob c = true → (s.ctx c).enable = true → (s.ctx c).tdown = false →
    ∃ t, exec (.contextDisable c) s = .next t ∧ t = (s.tearDown c 2).ctlWrote c 0 0 ∧
      (t.ctx c).tdown = true ∧ (t.ctx c).enable = true ∧ (t.ctx c).fault = (s.ctx c).fault ∧ (t.ctx c).key = 0#64 ∧
      (t.ctx c).step = none ∧ (t.ctx c).cand = none ∧ (t.ctx c).counters = [] ∧ (t.ctx c).tracked = [] ∧
      (t.ctx c).cancelled = [] ∧ (t.ctx c).ask.pend = 0 ∧
      ((s.pt (s.firstPt s.glb.anchor)).down = false →
        s.core.sent ++ [⟨s.firstPt s.glb.anchor, cancelWord c 0 1 2 s.core.nextCancel⟩] <+: t.core.sent) ∧
      s.core.cancels ++ [⟨s.core.nextCancel, c, 1, s.el⟩] <+: t.core.cancels) ∧
  (∀ (c : Nat) (s : State), s.portOpen = true → isJob c = true → (s.ctx c).active = true →
    (∀ st, (s.ctx c).st = .running → s.step? c = some st → st.cancelled = false → st.ended = false →
      (st.inAtom = false → s.drainFull st = false →
        ∃ t, exec (.contextCancel c) s = .next t ∧
          ((s.pt (s.firstPt s.glb.anchor)).down = false →
            t.core.sent = s.core.sent ++ [⟨s.firstPt s.glb.anchor, cancelWord c st.epoch 0 0 s.core.nextCancel⟩]) ∧
          t.core.cancels = s.core.cancels ++ [⟨s.core.nextCancel, c, 0, s.el⟩] ∧
          ∃ st', t.step? c = some st' ∧ st'.cancelled = true ∧ st'.desc = st.desc ∧ st'.epoch = st.epoch) ∧
      (st.inAtom = true →
        ∃ t, exec (.contextCancel c) s = .next t ∧ t.ctx c = { s.ctx c with heldCancel := true } ∧
          (∀ d, d ≠ c → t.ctx d = s.ctx d) ∧ t.core = s.core) ∧
      (st.inAtom = false → s.drainFull st = true →
        ∃ t, exec (.contextCancel c) s = .next t ∧ t.ctx c = { s.ctx c with heldCancel := true, waitDrain := true } ∧
          (∀ d, d ≠ c → t.ctx d = s.ctx d) ∧ t.core = s.core)) ∧
    ((s.ctx c).st = .fetching → (s.ctx c).waitEpoch = true →
      ∃ t, exec (.contextCancel c) s = .next t ∧ t.ctx c = { s.ctx c with heldCancel := true } ∧
        (∀ d, d ≠ c → t.ctx d = s.ctx d) ∧ t.core = s.core) ∧
    ((s.ctx c).st ≠ .running → ¬ ((s.ctx c).st = .fetching ∧ (s.ctx c).waitEpoch = true) →
      exec (.contextCancel c) s = .next (s.ctlWrote c 1 1)))

/-- TENT_WRITE: outside the cases of R377 the tent takes the data (bit 7 is reserved), and every other register and the
rest of the block keep their values; in those cases no tent changes.

MODEL_SET and MODEL_CLR: a model that is not resident, with 1 to 256 layers and a base, becomes resident; a resident
model stops being resident; every other model's residency, every other register and the rest of the block stay, but for
the count of the model's changes of residency (the model's own field, log entry 179; R144, R518). -/
def Obligations.TentsAndModels : Prop :=
  (∀ (n : Nat) (w : W32) (s : State), n < 64 → s.portOpen = true →
    (s.tentBad n w.toNat = false →
      ∃ t, exec (.tentWrite n w) s = .next t ∧ s.KeepsRegs t (tentAddr n :: 0xF000C :: lntRegs) ∧
        (∀ i < 32, bit (t.tentWord n) i = (bit w.toNat i && decide (i ≠ 7))) ∧
        t.still = ({ s with ctl := t.ctl } : State).still) ∧
    (s.tentBad n w.toNat = true →
      ∃ t, exec (.tentWrite n w) s = .next t ∧ (∀ m < 64, t.tentWord m = s.tentWord m) ∧
        t.still = ({ s with ctl := t.ctl } : State).still)) ∧
  (∀ (m : Nat) (s : State), m < 64 → s.portOpen = true →
    (s.resident m = false → 1 ≤ s.modelLayers m → s.modelLayers m ≤ 256 → s.rd2 (modelBase m) ≠ 0 →
      s.Ok →
      ∃ t, exec (.modelSet m) s = .next t ∧ (∀ k < 64, t.resident k = (s.resident k || decide (k = m))) ∧
        s.KeepsRegs t (0x20000 :: 0x20004 :: 0xF000C :: lntRegs) ∧ t.ktl = (s.resGen m).ktl ∧
        t.still = ({ s with ctl := t.ctl, ktl := t.ktl } : State).still) ∧
    (s.resident m = true → s.Ok →
      ∃ t, exec (.modelClr m) s = .next t ∧ (∀ k < 64, t.resident k = (s.resident k && decide (k ≠ m))) ∧
        s.KeepsRegs t (0x20000 :: 0x20004 :: 0xF000C :: lntRegs) ∧ t.ktl = (s.resGen m).ktl ∧
        t.still = ({ s with ctl := t.ctl, ktl := t.ktl } : State).still))

/-- ROTA_ARM outside the three refusal cases of R109 arms the staged copy for STP_ROTA_AT; in each of them the rota stays
as it was and a rota-refused event of that case is recorded. No slot, register or context changes.

ROTA_GO_LIVE: an armed copy becomes live, and the tick T at which it does stands in STP_ROTA_T0: STP_ROTA_AT when
the live copy has no active slots, otherwise the first cycle boundary of the live copy at or after it (R109, R110). No
context, slot word or other register changes. -/
def Obligations.RotaArmsAndGoesLive : Prop :=
  (∀ s : State, s.portOpen = true →
    (s.now + 65536 ≤ s.rd2 0x18008 → (∀ i < s.rotaLen (!s.stp.live), 256 ≤ s.slotWidth (!s.stp.live) i) →
      (∀ i < s.rotaLen (!s.stp.live), ∀ w ∈ [1, 2, 3], (s.pinOf (!s.stp.live) i w).1 ≠ 0 →
        (s.pinOf (!s.stp.live) i w).2 < s.slotWidth (!s.stp.live) i) →
      ∃ t, exec .rotaArm s = .next t ∧ t.stp = { s.stp with armed := true, at_ := s.rd2 0x18008 } ∧
        s.KeepsRegs t (0xF000C :: lntRegs) ∧ t.still = ({ s with ctl := t.ctl, stp := t.stp } : State).still) ∧
    (∀ k, s.rotaBad = some k →
      ∃ t, exec .rotaArm s = .next t ∧ t = (s.event 0x20 0 k 0).wrote 0x18010 1 ∧ t.stp = s.stp ∧
        s.KeepsRegs t (0xF000C :: lntRegs) ∧
        t.still = ({ s with ctl := t.ctl } : State).still)) ∧
  (∀ s : State, s.on = true → s.stp.armed = true → s.rotaDue ≤ s.now → s.rotaT0 ≤ s.stp.at_ →
    ∃ t, exec .rotaGoLive s = .next t ∧ t.stp = { s.stp with live := !s.stp.live, armed := false } ∧
      s.stp.at_ ≤ t.rotaT0 ∧
      (s.rotaPeriod s.stp.live = 0 → t.rotaT0 = s.stp.at_) ∧
      (s.rotaPeriod s.stp.live ≠ 0 → s.rotaPeriod s.stp.live ∣ t.rotaT0 - s.rotaT0 ∧
        t.rotaT0 < s.stp.at_ + s.rotaPeriod s.stp.live) ∧
      s.KeepsRegs t [0x18018, 0x1801C] ∧ t = { s with regs := t.regs, stp := t.stp })

/-- PIN_TICK: at the pin tick a Ready real-time context whose answer permits it is visited: it enters Fetching with the
launch tick STP_LAUNCH_OFS later, and its fetch waits its turn; in another state than Ready or stopped the visit is
missed and counted; a pin without an enabled real-time context changes nothing (R112 to R115).

SHARE_VISIT: an eligible share-based context that is first in the share order of its tent takes a free frame outside
the reserved ones and is visited, when the rota lets share-based steps launch at the launch tick (log entry 177) and no evicted step of the tent waits
(R111, R113, R380). -/
def Obligations.VisitsBeginFetches : Prop :=
  (∀ (i w : Nat) (s : State), s.visitsOn = true → s.pinNow i w = true →
    let c := (s.pinOf s.stp.live i w).1
    (c ≠ 0 → (s.ctx c).active = true → (s.ctx c).rt = true → (s.ctx c).st = .ready → (s.ctx c).go.taken ≤ s.now →
      ((s.ctx c).go.at_ = 0 ∨ (s.ctx c).go.at_ ≤ s.now + s.launchOfs) →
      ∃ t, exec (.pinTick i w) s = .next t ∧ (t.ctx c).st = .fetching ∧ (t.ctx c).visit = s.now ∧
        (t.ctx c).launch = s.now + s.launchOfs ∧ c ∈ t.stp.fetchq ∧
        (∀ d, d ∈ s.stp.fetchq → d ∈ t.stp.fetchq) ∧ (∀ d, d ≠ c → t.ctx d = s.ctx d) ∧
        t = { s with ctxs := t.ctxs, stp := { s.stp with fetchq := t.stp.fetchq } }) ∧
    (c ≠ 0 → (s.ctx c).active = true → (s.ctx c).rt = true → (s.ctx c).st ≠ .ready → (s.ctx c).st ≠ .stopped →
      ∃ t, exec (.pinTick i w) s = .next t ∧ t.rd 0x18030 = (s.rd 0x18030 + 1) % 2 ^ 32 ∧
        t.ctx c = { s.ctx c with missed := min 255 ((s.ctx c).missed + 1) } ∧ (∀ d, d ≠ c → t.ctx d = s.ctx d) ∧
        s.KeepsRegs t [0x18030] ∧ t = { s with regs := t.regs, ctxs := t.ctxs }) ∧
    (c = 0 ∨ (s.ctx c).active = false ∨ (s.ctx c).rt = false ∨ (s.ctx c).st = .stopped →
      exec (.pinTick i w) s = .next s)) ∧
  (∀ (c f : Nat) (r : List Nat) (s : State), s.visitsOn = true → s.eligible c = true → s.fillAt (s.now + s.launchOfs) = true →
    s.evictedIn (s.ctx c).tent = [] → s.firstReady (s.ctx c).tent = some c → s.freeShared (s.ctx c).tent = f :: r →
    ∃ t, exec (.shareVisit c) s = .next t ∧ (t.ctx c).st = .fetching ∧ (t.ctx c).vframe = some f ∧
      (t.ctx c).visit = s.now ∧ (t.ctx c).launch = s.now + s.launchOfs ∧ c ∈ t.stp.fetchq ∧
      (∀ d, d ∈ s.stp.fetchq → d ∈ t.stp.fetchq) ∧ (∀ d, d ≠ c → t.ctx d = s.ctx d) ∧
      t = { s with ctxs := t.ctxs, stp := { s.stp with fetchq := t.stp.fetchq } })

/-- MEMBER_ARM: a table with the successor version, a tick at least XCH_MEMBER_LEAD away and the own chip present in the
live or the staged table is staged for its tick, while no arm is pending; the live version stays. In the refusal cases
of R97 the membership stays as it was.

MEMBER_GO_LIVE: at its tick the staged table becomes the live one, with its version; no step changes, so each keeps
the version it is bound to (R98).

TABLE_SET_ARM and TABLE_SET_GO_LIVE: outside the refusal cases of R176 the directory is staged for its tick, and at
that tick it becomes the live set with its version; no step changes. -/
def Obligations.TablesStageAndGoLive : Prop :=
  (∀ (hv : HostView) (s : State), s.portOpen = true →
    (s.rd 0x50038 % 65536 = (s.memb.ver + 1) % 65536 → s.now + s.rdMin 0x50048 0x1000 ≤ s.rd2 0x5003C →
      (entState (tget 0 s.memb.live s.glb.chip) ≠ 0 ∨
        entState (tget 0 (readMembers hv (s.rd2 0x50030)) s.glb.chip) ≠ 0) → s.memb.armed = false → hv.fault = 0 →
      ∃ t, exec (.memberArm hv) s = .next t ∧
        t.memb = { s.memb with
          staged := readMembers hv (s.rd2 0x50030)
          sver := (s.memb.ver + 1) % 65536
          at_ := s.rd2 0x5003C
          armed := true } ∧
        s.KeepsRegs t (0xF000C :: lntRegs) ∧ (∀ c, (t.ctx c).step = (s.ctx c).step)) ∧
    (∀ k, s.memberBad (readMembers hv (s.rd2 0x50030)) = some k →
      ∃ t, exec (.memberArm hv) s = .next t ∧ t.memb = s.memb)) ∧
  (∀ s : State, s.on = true → s.memb.armed = true → s.memb.at_ ≤ s.now →
    ∃ t, exec .memberGoLive s = .next t ∧ t.memb.live = s.memb.staged ∧ t.memb.ver = s.memb.sver ∧
      t.memb.armed = false ∧ t.memb.prev = s.memb.live ∧ t.ctxs = s.ctxs ∧ t.stn = s.stn ∧ t.mem.chs = s.mem.chs ∧
      t.start = s.start) ∧
  ((∀ (hv : HostView) (s : State), s.portOpen = true → s.rd 0x30010 % 65536 = (s.stn.ver + 1) % 65536 →
    s.now + 65536 ≤ s.rd2 0x30014 → s.oldTable = 0 → s.stn.stage.armed = false → hv.fault = 0 →
    (∀ m < 64, (tableEntry hv (s.rd2 0x30008) m).isSome = true) →
    ∃ t, exec (.tableSetArm hv) s = .next t ∧
      t.stn = { s.stn with stage := ⟨true, s.rd2 0x30014, (s.stn.ver + 1) % 65536, s.rd2 0x30008⟩ } ∧
      s.KeepsRegs t (0xF000C :: lntRegs) ∧ (∀ c, (t.ctx c).step = (s.ctx c).step)) ∧
  (∀ s : State, s.on = true → s.stn.stage.armed = true → s.stn.stage.at_ ≤ s.now →
    exec .tableSetGoLive s = .next { s with stn := ⟨s.stn.stage.ver, s.stn.stage.addr, {}⟩ }))

/-- ROUTER_SWITCH_ARM and ROUTER_SWITCH_AT: a valid switch record of a resident model that is not owned arms the switch;
at its tick KTL_MODEL_BASE and BAL_LDIR of the model take the record's addresses, no step changes, and HOLD counts the
contexts with a step of the model (R370).

WEIGHT_SWITCH_ARM and WEIGHT_SWITCH_AT: a valid record that names the live version plus one arms the switch; at its
tick RSL_WVER_m takes the new version and no step changes (R441). -/
def Obligations.SwitchesArmAndTakeEffect : Prop :=
  ((∀ (hv : HostView) (s : State), s.portOpen = true →
    let b := hv1 hv (s.rd2 0x90010) 64
    hv.fault = 0 → crcOk 64 b = true → fld b 0 1 ≤ 63 → s.resident (fld b 0 1) = true → s.owned (fld b 0 1) = false →
    s.now + 65536 ≤ fld b 24 8 → s.bal.rsw = none → s.bal.old = [] →
    ∃ t, exec (.routerSwitchArm hv) s = .next t ∧
      t.bal = { s.bal with rsw := some ⟨fld b 0 1, fld b 24 8, fld b 8 8, fld b 16 8, 0⟩ } ∧
      s.KeepsRegs t (0xF000C :: lntRegs) ∧ (∀ c, (t.ctx c).step = (s.ctx c).step)) ∧
  (∀ (w : Switch) (s : State), s.on = true → s.bal.rsw = some w → w.at_ ≤ s.now → w.model < 64 → w.base < 2 ^ 64 →
    w.ldir < 2 ^ 64 →
    ∃ t, exec .routerSwitchAt s = .next t ∧ t.rd2 (modelBase w.model) = w.base ∧ t.ldirOf w.model = w.ldir ∧
      t.bal = ⟨none, s.boundTo w.model⟩ ∧
      s.KeepsRegs t [modelBase w.model, modelBase w.model + 4, 0x90200 + 8 * w.model, 0x90204 + 8 * w.model] ∧
      t = { s with regs := t.regs, bal := t.bal })) ∧
  ((∀ (hv : HostView) (s : State), s.portOpen = true →
    let b := hv1 hv (s.rd2 0xC0050) 64
    hv.fault = 0 → crcOk 64 b = true → fld b 0 1 ≤ 63 → fld b 4 4 = (s.rd (wverAt (fld b 0 1)) + 1) % 2 ^ 32 →
    s.now + 65536 ≤ fld b 8 8 → s.rsl.wsw = none → s.rsl.wswOld = [] →
    ∃ t, exec (.weightSwitchArm hv) s = .next t ∧
      t.rsl = { s.rsl with wsw := some ⟨fld b 0 1, fld b 8 8, 0, 0, fld b 4 4⟩ } ∧
      s.KeepsRegs t (0xF000C :: lntRegs) ∧ (∀ c, (t.ctx c).step = (s.ctx c).step)) ∧
  (∀ (w : Switch) (s : State), s.on = true → s.rsl.wsw = some w → w.at_ ≤ s.now → w.ver < 2 ^ 32 →
    ∃ t, exec .weightSwitchAt s = .next t ∧ t.rd (wverAt w.model) = w.ver ∧
      t.rsl = { s.rsl with wsw := none, wswOld := s.boundTo w.model } ∧ s.KeepsRegs t [wverAt w.model] ∧
      t = { s with regs := t.regs, rsl := t.rsl }))

/-- ROUTER_COPY_GO and EXPERT_COPY_GO: while no copy of the kind is in progress, a descriptor that passes its check and
the cases of R366 (R444) starts a copy to its destination chip; otherwise the start is refused and no copy starts.

INFUSION_STALL: a copy with no progress for 2^22 ticks stops with FAIL set in its status register, whose other bits
stay; no context changes (R369). -/
def Obligations.CopiesStartAndStall : Prop :=
  (∀ (hv : HostView) (b : Bytes) (s : State), s.portOpen = true → hv.fault = 0 →
    (readChecked hv (s.rd2 0xC0070) 64 = some b → s.rsl.rinf.busy = false → fld b 0 1 = 1 → fld b 1 1 ≤ 63 →
      s.resident (fld b 1 1) = true → s.isMember (fld b 2 2 % 4096) = true →
      let ls := (List.range (s.modelLayers (fld b 1 1))).map
        (readLayer hv (s.rd2 (modelBase (fld b 1 1))) (s.ldirOf (fld b 1 1)))
      routerSize ls ≤ fld b 4 4 * 65536 → 0 < s.modelLayers (fld b 1 1) →
      ∃ t, exec (.routerCopyGo hv) s = .next t ∧ t.rsl.rinf.busy = true ∧ t.rsl.rinf.dchip = fld b 2 2 % 4096 ∧
        t.rsl.rinf.at_ = s.el ∧ t.rsl.einf = s.rsl.einf) ∧
    (readChecked hv (s.rd2 0xC0060) 64 = some b → s.rsl.einf.busy = false → fld b 0 1 = 2 → fld b 1 1 ≤ 63 →
      s.resident (fld b 1 1) = true → s.isMember (fld b 2 2 % 4096) = true → fld b 16 2 ≠ 0 →
      (∀ i < fld b 16 2, (s.sourceEntry hv (fld b 1 1) (fld b 4 4)
        (parseCopyEnt (hv1 hv (fld b 8 8 + 32 * i) 32))).isSome = true) →
      ∃ t, exec (.expertCopyGo hv) s = .next t ∧ t.rsl.einf.busy = true ∧ t.rsl.einf.dchip = fld b 2 2 % 4096 ∧
        t.rsl.einf.ver = fld b 4 4 ∧ t.rsl.einf.ents.length = fld b 16 2 ∧ t.rsl.rinf = s.rsl.rinf) ∧
    (readChecked hv (s.rd2 0xC0070) 64 = none ∨ s.rsl.rinf.busy = true →
      ∃ t, exec (.routerCopyGo hv) s = .next t ∧ t.rsl = s.rsl) ∧
    (readChecked hv (s.rd2 0xC0060) 64 = none ∨ s.rsl.einf.busy = true →
      ∃ t, exec (.expertCopyGo hv) s = .next t ∧ t.rsl = s.rsl)) ∧
  (∀ (router : Bool) (s : State), s.on = true → (s.copy (!router)).busy = true → (s.copy (!router)).at_ + 2 ^ 22 ≤ s.el →
    s.Ok →
    ∃ t, exec (.infusionStall router) s = .next t ∧ (t.copy (!router)).busy = false ∧ t.copy router = s.copy router ∧
      (∀ i < 32, bit (t.rd (copySts (!router))) i = (bit (s.rd (copySts (!router))) i || decide (i = 2))) ∧
      s.KeepsRegs t (copySts (!router) :: lntRegs) ∧ t.ctxs = s.ctxs ∧ t.stn = s.stn ∧ t.memb = s.memb ∧ t.links = s.links)

/-- SNAPSHOT_GO, a write of RSL_CKPT_CTL that sets GO: ARM takes its bit, and the write is recorded and acknowledged. While
no snapshot runs, a snapshot starts: BUSY, its gen one more than the newest valid Cairn's and its slot the other one (slot
0 and gen 1 when none is valid), with the block section, the context section and the Cairn as they stand (R446, R448 to
R451); the contexts, the lost set and every other register stay. A write that finds one in progress records event 0x43
with a = 0, and the snapshot goes on. SNAPSHOT_GO that advice brings with ARM set starts a snapshot in the same way while
none runs, and changes nothing else while one runs.

SNAPSHOT_STALL: a snapshot with no progress for 2^22 ticks ends with FAIL set and no context affected; with less, nothing
changes (R451). ADVISE_WINDOW_END: at the end of a window of 2^24 ticks the detection count restarts, advice is open again
and the next window begins; before, nothing changes (R446). -/
def Obligations.SnapshotsStartAndStall : Prop :=
  (∀ (data : W32) (hv : HostView) (s : State), s.portOpen = true → bit data.toNat 1 = true →
    let u := (s.store 0xC0020 1 data.toNat).wrote 0xC0020 data.toNat
    (s.rsl.snap.busy = false → hv.fault = 0 →
      ∃ (t : State) (slot gen : Nat), exec (.snapshotGo ⟨false, data, hv⟩) s = .next t ∧
        (newestCairn hv s.poolBase = none → slot = 0 ∧ gen = 1) ∧
        (∀ k g, newestCairn hv s.poolBase = some (k, g) → slot = 1 - k ∧ gen = g + 1) ∧
        t.rsl = { s.rsl with snap := { busy := true, gen := gen, slot := slot, block := u.blockSection, ctxs := u.ctxSection,
                                       cairn := u.cairn slot gen u.blockSection u.ctxSection, out := t.rsl.snap.out,
                                       at_ := s.el, phase := 1 } } ∧
        (∀ i < 32, bit (t.rd 0xC0020) i = if i = 0 then bit data.toNat 0 else bit (s.rd 0xC0020) i) ∧
        t.ctxs = s.ctxs ∧ t.memb = s.memb ∧ s.KeepsRegs t (0xC0020 :: 0xF000C :: lntRegs)) ∧
    (s.rsl.snap.busy = true →
      exec (.snapshotGo ⟨false, data, hv⟩) s = .next (u.event 0x43 0 0 0) ∧ (u.event 0x43 0 0 0).rsl = s.rsl ∧
        s.KeepsRegs (u.event 0x43 0 0 0) (0xC0020 :: 0xF000C :: lntRegs))) ∧
  (∀ (data : W32) (hv : HostView) (s : State), s.portOpen = true → s.rsl.advGo = true →
    let u : State := { s with rsl := { s.rsl with advGo := false } }
    (s.rsl.snap.busy = false → hv.fault = 0 →
      exec (.snapshotGo ⟨true, data, hv⟩) s = .next (u.snapStart hv) ∧ (u.snapStart hv).rsl.snap.busy = true ∧
        (u.snapStart hv).rsl.snap.block = s.blockSection ∧ (u.snapStart hv).rsl.snap.ctxs = s.ctxSection ∧
        (u.snapStart hv).ctxs = s.ctxs) ∧
    (s.rsl.snap.busy = true → exec (.snapshotGo ⟨true, data, hv⟩) s = .next u)) ∧
  ((∀ s : State, s.Ok → s.alive = true → s.rsl.snap.busy = true →
    (s.rsl.snap.at_ + 2 ^ 22 ≤ s.el → s.start.shut ≠ 4 →
      ∃ t, exec .snapshotStall s = .next t ∧ t.rsl = { s.rsl with snap := {} } ∧
        (∀ i < 32, bit (t.rd 0xC0024) i = (bit (s.rd 0xC0024) i || decide (i = 2))) ∧ t.ctxs = s.ctxs ∧
        s.KeepsRegs t (0xC0024 :: lntRegs)) ∧
    (s.el < s.rsl.snap.at_ + 2 ^ 22 → exec .snapshotStall s = .next s)) ∧
  (∀ s : State, s.alive = true →
    (s.rsl.winAt + 2 ^ 24 ≤ s.el → exec .adviseWindowEnd s =
      .next { s with rsl := { s.rsl with det := 0, advised := false, winAt := s.rsl.winAt + 2 ^ 24 } }) ∧
    (s.el < s.rsl.winAt + 2 ^ 24 → exec .adviseWindowEnd s = .next s)))

/-- RESTORE_GO (R452, R524): the write is recorded and acknowledged, and then it is refused, with event 0x43 and nothing
else changed but the event's registers: a = 0 while a snapshot is in progress or a job context is enabled or in teardown;
a = 1 when neither Cairn is valid; 2 when the newest Cairn names another chip, 3 another version, 4 when a recorded tent
passes the last logical core. Otherwise, where its reads meet no memory fault, the newest valid Cairn's block section is loaded (membership table and version,
with the lost set cleared; table-set version; rota copy B live, with the recorded count of the live copy in
STP_ROTA_A_LEN and STP_ROTA_B_LEN zero, so that the rota is off), and then the context section: a job context whose
record passes its check has the recorded ENABLE, entering Asking with it, and one whose record fails keeps its fields. -/
def Obligations.RestoreLoadsNewestCairn : Prop :=
  ∀ (hv : HostView) (s : State), s.portOpen = true →
    let w := s.wrote 0xC0034 1
    (s.rsl.snap.busy = true ∨ (∃ c, c ≠ 0 ∧ ((s.ctx c).enable = true ∨ (s.ctx c).tdown = true)) →
      exec (.restoreGo hv) s = .next (w.event 0x43 0 0 0)) ∧
    (∀ k, s.KeepsRegs (w.event 0x43 0 k 0) (0xF000C :: lntRegs) ∧
      (w.event 0x43 0 k 0).still = ({ s with ctl := w.ctl } : State).still) ∧
    (s.Ok → s.rsl.snap.busy = false → (∀ c, c ≠ 0 → (s.ctx c).enable = false ∧ (s.ctx c).tdown = false) → hv.fault = 0 →
      (newestCairn hv s.poolBase = none → exec (.restoreGo hv) s = .next (w.event 0x43 0 1 0)) ∧
      (∀ k g, newestCairn hv s.poolBase = some (k, g) →
        let b := hv1 hv (s.poolBase + cairnOff k) 64
        let a := s.poolBase + slotOff k
        (fld b 28 2 % 4096 ≠ s.glb.chip → exec (.restoreGo hv) s = .next (w.event 0x43 0 2 0)) ∧
        (fld b 28 2 % 4096 = s.glb.chip → fld b 40 4 / 65536 ≠ s.rd 4 / 65536 →
          exec (.restoreGo hv) s = .next (w.event 0x43 0 3 0)) ∧
        (fld b 28 2 % 4096 = s.glb.chip → fld b 40 4 / 65536 = s.rd 4 / 65536 → s.tentPast hv a = true →
          exec (.restoreGo hv) s = .next (w.event 0x43 0 4 0)) ∧
        (fld b 28 2 % 4096 = s.glb.chip → fld b 40 4 / 65536 = s.rd 4 / 65536 → s.tentPast hv a = false →
          let n := partRegs.length
          ∃ t, exec (.restoreGo hv) s = .next t ∧ t = (w.loadBlock hv a).loadCtxs hv (a + 2 ^ 20) ∧
            t.stp = { s.stp with live := true, armed := false } ∧ t.rotaLen true = 0 ∧
            t.rotaLen false = secWord hv a n % 2 ^ 11 ∧
            t.memb.ver = secWord hv a (n + 8194) % 65536 ∧
            (∀ c < 4096, tget 0 t.memb.live c = secWord hv a (n + 8195 + c) % 2 ^ 14) ∧
            t.memb.lost = [] ∧ t.stn.ver = secWord hv a (n + 16387) % 65536 ∧
            (∀ c, isJob c = true →
              let r := hv1 hv (a + 2 ^ 20 + 256 * c) 256
              (crcOk 256 r = true → (t.ctx c).enable = bit (fld r 2 1) 0 ∧
                (bit (fld r 2 1) 0 = true → (t.ctx c).st = .asking)) ∧
              (crcOk 256 r = false → t.ctx c = s.ctx c)))))

/-- LOST_DECL_WRITE: the chip is declared lost on this chip's own finding (`declareOwn`), and the write is recorded and
acknowledged. LOSS_NOTICE of another chip takes the oldest notice that has landed. In both a chip that is not yet in the
lost set enters it, and the rest of the membership, the table set, the fences, the guy wires and the clock stay as they
were; for a chip already in it nothing changes but that record and acknowledgement, and the notice taken (R433).

LOSS_NOTICE that names this chip leaves the lost set as it was, marks the chip as cast out and tears down every active job
context with code 0x1A: no step is left and its tag key is zero (R434). -/
def Obligations.LossEntersLostSet : Prop :=
  ((∀ (w : W32) (s : State), s.on = true →
    (w.toNat % 4096 ∉ s.memb.lost →
      ∃ t, exec (.lostDeclWrite w) s = .next t ∧
        t = ((s.declareOwn (w.toNat % 4096)).recWrite 0xC0038 w.toNat).ackWrite ∧
        t.memb = { s.memb with lost := s.memb.lost ++ [w.toNat % 4096] } ∧
        t.stn = s.stn ∧ t.fnc = s.fnc ∧ t.guys = s.guys ∧ t.clk = s.clk) ∧
    (w.toNat % 4096 ∈ s.memb.lost →
      ∃ t, exec (.lostDeclWrite w) s = .next t ∧ s.KeepsRegs t (0xF000C :: lntRegs) ∧
        t.still = ({ s with ctl := t.ctl } : State).still)) ∧
  (∀ (n : Nat) (pay : Bytes) (r : List (Nat × Bytes)) (s : State), s.alive = true → s.xch.notices = (n, pay) :: r →
    fld pay 0 2 = 1 →
    crcOk 20 pay = true → fld pay 2 2 % 4096 ≠ s.glb.chip →
    (fld pay 2 2 % 4096 ∉ s.memb.lost →
      ∃ t, exec .lossNotice s = .next t ∧ t.memb = { s.memb with lost := s.memb.lost ++ [fld pay 2 2 % 4096] } ∧
        t.stn = s.stn ∧ t.fnc = s.fnc ∧ t.guys = s.guys ∧ t.clk = s.clk) ∧
    (fld pay 2 2 % 4096 ∈ s.memb.lost →
      exec .lossNotice s = .next { s with xch := { s.xch with notices := r } }))) ∧
  (∀ (n : Nat) (pay : Bytes) (r : List (Nat × Bytes)) (s : State), s.alive = true → s.xch.notices = (n, pay) :: r →
    fld pay 0 2 = 1 →
    crcOk 20 pay = true → fld pay 2 2 % 4096 = s.glb.chip →
    ∃ t, exec .lossNotice s = .next t ∧ t.memb.lost = s.memb.lost ∧ t.memb.outcast ≠ 0 ∧
      ∀ c, c ≠ 0 → (s.ctx c).active = true →
        (t.ctx c).fault = 0x1A ∧ (t.ctx c).tdown = true ∧ (t.ctx c).step = none ∧ (t.ctx c).key = 0#64)

/-- START_BEGIN (before the first start, and when the block has stopped) and START_RETRY (1 ms after a failed start) run
phases 1 to 4 from a reset block: registers, contexts, Lantern and queues as after reset, every pitch held; the tick
copies, the commands that wait and the failure count are kept (R478, R482). The first of these that holds makes the start
fail with its code: 0x08 no tick strobes; 0x09 no pitch that can start; 0x01 no read mode in what the flash answers to
Read SFDP; 0x02 no data; 0x03 no good header in two reads; 0x05 a header out of range; then what the rest of the image
shows (`readBody`, codes 0x04, 0x06, 0x07 and 0x09). With none of them the start has the image and the pitches that take
part, and goes on with phase 5, or is ready where no test is due (R484).

RESTART_WRITE in minimal mode or after a completed shut-down sets the failure count to zero and leaves the block where
START_BEGIN begins a start; after a completed start it changes nothing but the event queue and its registers (R483).

SCAN_EN: every job context is disabled, every tag key is zero, and the scan chains are connected (R489). -/
def Obligations.StartsBeginAndRestart : Prop :=
  (∀ (i : StartInput) (s : State) (c : Instr),
    (c = .startBegin i ∧ (s.start.phase = .idle ∨ s.alive = false) ∨
      c = .startRetry i ∧ s.alive = true ∧ s.start.phase = .waiting ∧ s.start.failAt + 1000000 ≤ s.el) →
    let ready := s.glb.present &&& i.ready.toNat
    let bad := s.glb.present &&& i.bypassBad.toNat
    ∃ t, exec c s = .next t ∧ t.regs = [] ∧ t.ctxs = [] ∧ t.lnt = State.reset.lnt ∧ t.mem.wait = [] ∧ t.fnc.buf = [] ∧
      t.pending = s.pending ∧ t.start.fails = s.start.fails ∧ t.start.scan = false ∧ t.start.stopped = false ∧
      t.pitches.map Pitch.tick = s.pitches.map Pitch.tick ∧
      (∀ p ∈ t.pitches, p.held = true) ∧
      (i.strobes = false → t.start.phase = .failing ∧ t.start.code = 0x08) ∧
      (i.strobes = true →
        (upMask bad (ready &&& (15 ^^^ i.bypassBad.toNat)) 0 = 0 → t.start.phase = .failing ∧ t.start.code = 0x09) ∧
        (upMask bad (ready &&& (15 ^^^ i.bypassBad.toNat)) 0 ≠ 0 →
          (chooseMode i.sfdp = none → t.start.phase = .failing ∧ t.start.code = 0x01) ∧
          (∀ m, chooseMode i.sfdp = some m →
            (i.data = false → t.start.phase = .failing ∧ t.start.code = 0x02) ∧
            (i.data = true →
              (flashChecked i.flash 0 64 headerOk = none → t.start.phase = .failing ∧ t.start.code = 0x03) ∧
              (∀ b, flashChecked i.flash 0 64 headerOk = some b →
                (headerInRange s.nPitch b = false → t.start.phase = .failing ∧ t.start.code = 0x05) ∧
                (headerInRange s.nPitch b = true →
                  (∀ k, (s.fresh0.readBody i m b).1 = .fails k → t.start.phase = .failing ∧ t.start.code = k) ∧
                  (∀ im r part notes failed test, (s.fresh0.readBody i m b).1 = .reads im r part notes failed test →
                    t.start.phase = (if test then .testing else .ready) ∧ t.start.image = some im ∧
                    t.start.part = part ∧ t.start.failed = failed ∧ t.start.bypass = bad ∧
                    t.start.rounds = if test then testRounds s.nPitch part else [])))))))) ∧
  (∀ s : State, s.alive = true →
    (s.start.phase = .minimal ∨ s.start.shut = 3 →
      ∃ t, exec .restartWrite s = .next t ∧ t.start = { s.start with phase := .idle, fails := 0 } ∧
        t = { s with start := t.start, ctl := t.ctl }) ∧
    (s.start.phase = .done → s.start.shut ≠ 3 →
      ∃ t, exec .restartWrite s = .next t ∧ s.KeepsRegs t lntRegs ∧ t.lnt = (s.ignored 0x54).lnt ∧
        t.still = ({ s with ctl := t.ctl } : State).still)) ∧
  (∀ s : State, s.Ok → s.alive = true →
    ∃ t, exec .scanEn s = .next t ∧ t.start.scan = true ∧ t.start.keysCleared = true ∧
      ∀ c, (t.ctx c).key = 0#64 ∧ (t.ctx c).enable = false ∧ (t.ctx c).tdown = false)

/-- SELF_TEST_ROUND_DONE: the round's pitches count as tested, those that failed as failed; while rounds are left the
test goes on; after the last one the start is ready, or fails with code 0x09 when no pitch is left that can start
(`upMask`: those that take part and did not fail, of them the best run where a bypass strip failed; R30, R481, R484).

START_COMPLETE: the pitches that start are running with equal tick copies, the lowest-numbered of them is the anchor,
their memory channels and attachment points leave isolation, LK fields lock, the start is done with no failure counted,
and the image gives the chip's number, place, membership and links; the link ports are as the image has them where no
remap record applies (R21, R71, R475, R478).

START_FAIL: a failed start is counted with its reason, and the next one is due 1 ms later; the third makes the block
enter minimal mode: LK fields locked, no pitch started, every pitch but the anchor held (R482, R483). -/
def Obligations.StartsCompleteOrFail : Prop :=
  (∀ (failed : BitVec 4) (s : State) (m : Nat) (r : List Nat), s.alive = true → s.start.phase = .testing →
    s.start.rounds = m :: r →
    ∃ t, exec (.selfTestRoundDone failed) s = .next t ∧ t.start.rounds = r ∧ t.start.tested = s.start.tested ||| m ∧
      t.start.failed = s.start.failed ||| (m &&& failed.toNat) ∧ (r ≠ [] → t.start.phase = .testing) ∧
      (r = [] → upMask s.start.bypass s.start.part t.start.failed ≠ 0 → t.start.phase = .ready) ∧
      (r = [] → upMask s.start.bypass s.start.part t.start.failed = 0 → t.start.phase = .failing ∧ t.start.code = 0x09) ∧
      t = { s with start := t.start }) ∧
  (∀ (duration : Nat) (s : State) (im : Image), s.alive = true → s.start.phase = .ready → s.start.image = some im →
    let up := upMask s.start.bypass s.start.part s.start.failed
    ∃ t, exec (.startComplete duration) s = .next t ∧ t.start.phase = .done ∧ t.start.lock = true ∧ t.start.started = up ∧
      t.start.fails = 0 ∧ t.glb = { s.glb with anchor := (inMask up).headD 0, chip := im.chip, pos := im.pos,
                                               nx := im.nx, ny := im.ny, nz := im.nz } ∧
      t.memb = imageMemb im ∧ t.links.tab = imageLinks im ∧
      (im.spares = [] → s.start.record = none → t.links.ports = imagePorts im up s.el) ∧
      t.pitches.length = s.pitches.length ∧
      (∀ p < s.pitches.length, (t.pitch p).held = !(bit up p) ∧ (t.pitch p).tick = (s.pitch ((inMask up).headD 0)).tick) ∧
      (∀ c < s.mem.chs.length, (t.ch c).iso = !(bit up (c / 4))) ∧
      (∀ a < s.core.pts.length, (t.pt a).iso = !(bit up (a / 8))) ∧ t.ctxs = s.ctxs) ∧
  (∀ s : State, s.alive = true → s.start.phase = .failing →
    ∃ t, exec .startFail s = .next t ∧ t.start.fails = s.start.fails + 1 ∧ t.start.reason = s.start.code ∧
      t.start.failAt = s.el ∧ t.ctxs = s.ctxs ∧
      (s.start.fails < 2 → t.start.phase = .waiting ∧ t = { s with start := t.start }) ∧
      (2 ≤ s.start.fails → t.start.phase = .minimal ∧ t.start.started = 0 ∧ t.start.lock = true ∧
        t.pitches.length = s.pitches.length ∧ ∀ p < s.pitches.length, (t.pitch p).held = decide (p ≠ t.glb.anchor)))

/-- SHUT_GO with no job context enabled or in teardown and no shut-down begun: both Infuser copies stop. With no snapshot
running, the rota is off, lnk_en is low on every port, every memory channel and attachment point is isolated, and the
highest working pitch is tested first; while a snapshot runs, the shut-down waits for its end. At any other time the
write is ignored, and changes nothing but the event queue and its registers (R485, R486).

SHUT_PITCH_TESTED: the faults that spares cover are listed as remaps, and the pitch under test counts as tested, failed or
not; the next lower working pitch is tested, with the anchor's functions moved off it, and after the last one the health
record is due (R486, R487).

HEALTH_RECORD_WRITTEN: the record's commands go to the NVM port; a good read-back completes the shut-down with the new
record; a failed one is repeated once, and the second failure completes it with HR_FAIL; completion raises off_ok on every
pitch (R487). -/
def Obligations.ShutDownRunsDown : Prop :=
  (∀ s : State, s.Ok → s.portOpen = true →
    (s.start.phase = .done → s.start.shut = 0 → (∀ c, c ≠ 0 → (s.ctx c).enable = false ∧ (s.ctx c).tdown = false) →
      (s.rsl.snap.busy = false →
        ∃ t, exec .shutGo s = .next t ∧ t.start.shut = 1 ∧ t.start.shutPitch = s.pitchesUp.getLastD 0 ∧
          t.rotaLen t.stp.live = 0 ∧ (∀ n < 72, (t.port n).en = false) ∧ (∀ i < 16, (t.ch i).iso = true) ∧
          (∀ a < 32, (t.pt a).iso = true) ∧ t.rsl.einf.busy = false ∧ t.rsl.rinf.busy = false ∧ t.ctxs = s.ctxs) ∧
      (s.rsl.snap.busy = true →
        ∃ t, exec .shutGo s = .next t ∧ t.start = { s.start with shut := 4 } ∧ t.rsl.snap = s.rsl.snap ∧
          t.rsl.einf.busy = false ∧ t.rsl.rinf.busy = false ∧ t.links = s.links ∧ t.ctxs = s.ctxs)) ∧
    (s.start.phase ≠ .done ∨ s.start.shut ≠ 0 ∨ (∃ c, c ≠ 0 ∧ ((s.ctx c).enable = true ∨ (s.ctx c).tdown = true)) →
      ∃ t, exec .shutGo s = .next t ∧ s.KeepsRegs t lntRegs ∧ t.lnt = (s.ignored 0x58).lnt ∧
        t.still = ({ s with ctl := t.ctl } : State).still)) ∧
  (∀ (passed : Bool) (remaps : List W32) (s : State), s.alive = true → s.start.shut = 1 →
    let p := s.start.shutPitch
    let below := s.pitchesUp.filter (fun q => decide (q < p))
    let u := remaps.foldl (fun s w => let f := remapFields w.toNat; s.remapAt p f.1 f.2.2.1 f.2.2.2) s
    ∃ t, exec (.shutPitchTested passed remaps) s = .next t ∧ t = { u with start := t.start, glb := t.glb } ∧
      t.start.shutDone = s.start.shutDone ||| 2 ^ p ∧
      t.start.shutFailed = (if passed then s.start.shutFailed else s.start.shutFailed ||| 2 ^ p) ∧
      (below = [] → t.start.shut = 2 ∧ t.glb = s.glb) ∧
      (∀ q, below.getLast? = some q → t.start.shut = 1 ∧ t.start.shutPitch = q ∧
        (s.glb.anchor = q → t.glb.anchor = (s.pitchesUp.filter (fun r => decide (r ≠ q))).headD q) ∧
        (s.glb.anchor ≠ q → t.glb = s.glb)) ∧
      t.ctxs = s.ctxs ∧ t.pitches = s.pitches) ∧
  (∀ (ok : Bool) (s : State), s.alive = true → s.start.shut = 2 →
    let nvm := { s.start.nvm with ops := s.start.nvm.ops ++ s.recordOps }
    (ok = true ∨ s.start.hrTries = 1 →
      ∃ t, exec (.healthRecordWritten ok) s = .next t ∧ t.start.shut = 3 ∧ t.start.hrFail = !ok ∧ t.start.nvm = nvm ∧
        t.start.record = (if ok then some s.healthRecord else s.start.record) ∧
        t.pitches.length = s.pitches.length ∧
        (∀ p < s.pitches.length, t.pitch p = { s.pitch p with offOk := true }) ∧
        t = { s with start := t.start, pitches := t.pitches }) ∧
    (ok = false → s.start.hrTries ≠ 1 →
      exec (.healthRecordWritten ok) s = .next { s with start := { s.start with hrTries := 1, nvm := nvm } }))

/-- FENCE_TP_WRITE and PROPOSAL_CLEAR: a TP write outside profile 0 with no proposal pending puts its word into the
buffer, in place of an earlier one of the same address, and changes no effective value; CLEAR empties the buffer. While a
proposal is pending, or when a new address finds 1,024 words, the buffer stays (R492, R521).

PROPOSAL_SUBMIT: a proposal that R493 does not refuse takes the next number, is sent to the ranger with its digest,
and its countersign window opens; a refused one takes no number and leaves nothing pending; while one is pending the
submit is ignored. The effective table changes in none of these cases (R492 to R494). -/
def Obligations.ProposalsAreBuiltAndSubmitted : Prop :=
  ((∀ (addr : BitVec 23) (data : W32) (s : State) (r : RegRow) (a : Nat), a = 4 * addr.toNat → regRow a = some r → r.tp ≠ 0 →
    s.portOpen = true →
    (s.fnc.pend = none → ¬ (0xE0000 ≤ a ∧ a < 0xE0100) →
      ((∀ e ∈ s.fnc.buf, e.1 ≠ a) → s.fnc.buf.length < 1024 →
        ∃ t, exec (.fenceTpWrite addr data) s = .next t ∧ t.fnc = { s.fnc with buf := s.fnc.buf ++ [(a, data.toNat &&& r.tp)] } ∧
          s.KeepsRegs t (0xF000C :: lntRegs) ∧ t.still = ({ s with ctl := t.ctl, fnc := t.fnc } : State).still) ∧
      ((∃ e ∈ s.fnc.buf, e.1 = a) →
        ∃ t, exec (.fenceTpWrite addr data) s = .next t ∧ t.fnc.buf.length = s.fnc.buf.length ∧
          (a, data.toNat &&& r.tp) ∈ t.fnc.buf ∧ (∀ e ∈ t.fnc.buf, e.1 = a → e.2 = data.toNat &&& r.tp) ∧
          (∀ e, e.1 ≠ a → (e ∈ t.fnc.buf ↔ e ∈ s.fnc.buf)) ∧ s.KeepsRegs t (0xF000C :: lntRegs) ∧
          t.still = ({ s with ctl := t.ctl, fnc := t.fnc } : State).still)) ∧
    (s.fnc.pend ≠ none ∨ (0xE0000 ≤ a ∧ a < 0xE0100) ∨ (∀ e ∈ s.fnc.buf, e.1 ≠ a) ∧ 1024 ≤ s.fnc.buf.length →
      ∃ t, exec (.fenceTpWrite addr data) s = .next t ∧ t.fnc = s.fnc ∧ s.KeepsRegs t (0xF000C :: lntRegs) ∧
        t.still = ({ s with ctl := t.ctl } : State).still)) ∧
  (∀ s : State, s.portOpen = true →
    (s.fnc.pend = none →
      ∃ t, exec .proposalClear s = .next t ∧ t.fnc = { s.fnc with buf := [] } ∧ s.KeepsRegs t (0xF000C :: lntRegs) ∧
        t.still = ({ s with ctl := t.ctl, fnc := t.fnc } : State).still) ∧
    (s.fnc.pend ≠ none →
      ∃ t, exec .proposalClear s = .next t ∧ t.fnc = s.fnc ∧ s.KeepsRegs t (0xF000C :: lntRegs) ∧
        t.still = ({ s with ctl := t.ctl } : State).still))) ∧
  (∀ s : State, s.portOpen = true →
    (s.fnc.pend = none → s.submitBad = false →
      let n := (s.rd 0xE5004 + 1) % 2 ^ 32
      let d := proposalDigest n s.fnc.buf
      ∃ t, exec .proposalSubmit s = .next t ∧
        t.fnc = ⟨s.fnc.buf, some ⟨n, d, s.el⟩, s.fnc.sent ++ proposalWords n s.fnc.buf ++ [d]⟩ ∧ t.rd 0xE5004 = n ∧
        s.KeepsRegs t (0xE5004 :: 0xF000C :: lntRegs) ∧ t.still = ({ s with ctl := t.ctl, fnc := t.fnc } : State).still) ∧
    (s.fnc.pend = none → s.submitBad = true →
      ∃ t, exec .proposalSubmit s = .next t ∧ t.fnc = s.fnc ∧ bit (t.rd 0xE5008) 3 = true ∧
        s.KeepsRegs t (0xE5008 :: 0xF000C :: lntRegs) ∧ t.still = ({ s with ctl := t.ctl } : State).still) ∧
    (s.fnc.pend ≠ none →
      ∃ t, exec .proposalSubmit s = .next t ∧ t.fnc = s.fnc ∧ s.KeepsRegs t (0xF000C :: lntRegs) ∧
        t.still = ({ s with ctl := t.ctl } : State).still))

/-- RANGER_VERDICT and COUNTERSIGN_EXPIRE (R495). Within the 1,000,000 ticks from the submit, their last handshake
included, an accepting verdict of the proposal's number and digest applies every word at once, a rejecting one discards
the proposal; both clear PEND and set APPLIED or REJECTED. A verdict of another number or digest, or with nothing pending,
is ignored and counted, and the window runs on. With no matching verdict by its end, the proposal is discarded, PEND is
cleared, EXPIRED and the protection bit are set and event 0x51 with the number is recorded. -/
def Obligations.VerdictSettlesProposal : Prop :=
  (∀ (w : W64) (s : State) (p : Proposal), s.portOpen = true → s.fnc.pend = some p → s.el ≤ p.at_ + 1000000 →
    (bits w.toNat 1 32 = p.num → bits w.toNat 33 31 = p.digest % 2 ^ 31 →
      (bit w.toNat 0 = true →
        ∃ t, exec (.rangerVerdict w) s = .next t ∧ t.fnc.pend = none ∧ t.fnc.buf = s.fnc.buf ∧ bit (t.rd 0xE500C) 0 = true ∧
          (s.fnc.buf.Pairwise (fun x y => x.1 ≠ y.1) → ∀ e ∈ s.fnc.buf, e.1 ≠ 0xE500C → t.rd e.1 = e.2 % 2 ^ 32) ∧
          s.KeepsRegs t (0xE500C :: s.fnc.buf.map Prod.fst) ∧ t = { s with regs := t.regs, fnc := t.fnc }) ∧
      (bit w.toNat 0 = false →
        ∃ t, exec (.rangerVerdict w) s = .next t ∧ t.fnc = { s.fnc with pend := none } ∧ bit (t.rd 0xE5008) 1 = true ∧
          s.KeepsRegs t [0xE5008] ∧ t = { s with regs := t.regs, fnc := t.fnc })) ∧
    (bits w.toNat 1 32 ≠ p.num ∨ bits w.toNat 33 31 ≠ p.digest % 2 ^ 31 →
      ∃ t, exec (.rangerVerdict w) s = .next t ∧ t.fnc = s.fnc ∧ t.rd 0xE5010 = (s.rd 0xE5010 + 1) % 2 ^ 32 ∧
        s.KeepsRegs t [0xE5010] ∧ t = { s with regs := t.regs })) ∧
  (∀ (w : W64) (s : State), s.portOpen = true → s.fnc.pend = none →
    ∃ t, exec (.rangerVerdict w) s = .next t ∧ t.rd 0xE5010 = (s.rd 0xE5010 + 1) % 2 ^ 32 ∧ s.KeepsRegs t [0xE5010] ∧
      t = { s with regs := t.regs }) ∧
  (∀ (s : State) (p : Proposal), s.portOpen = true → s.fnc.pend = some p → p.at_ + 1000000 ≤ s.el →
    ∃ t, exec .countersignExpire s = .next t ∧ t.fnc = { s.fnc with pend := none } ∧ bit (t.rd 0xE5008) 2 = true ∧
      bit (t.rd 0x20) 4 = true ∧ (∃ u : State, u.lnt = s.lnt ∧ u.now = s.now ∧ t.lnt = (u.event 0x51 0 p.num 0).lnt) ∧
      s.KeepsRegs t (0xE5008 :: lntRegs) ∧ t.still = ({ s with fnc := t.fnc } : State).still)

/-- PLOCK_WRITE holds every pitch to the pace slots or releases them, DET_CTL.PLOCK reads so, and with it set every pace
meter reads 1,600 (R408, R420). RECORD_CTL_WRITE sets the other fields of DET_CTL, and setting REC restarts the ring at its
head. Both are recorded and acknowledged; no other register, and no context, changes (R414, R420).

PACE_LOCK_SLIP of a running pitch that is held to the pace slots adds one to DET_STS.SLIP (which saturates), raises
ntc[5]'s status bit and records event 0x0A; nothing else changes (R409). -/
def Obligations.DeterminismControlsTakeEffect : Prop :=
  ((∀ (on : Bool) (s : State), s.Ok → s.portOpen = true →
    ∃ t, exec (.plockWrite on) s = .next t ∧ t.pitches.length = s.pitches.length ∧
      (∀ p < 4, t.pitch p = { s.pitch p with locked := on }) ∧
      bit (t.rd 0xF0000) 0 = on ∧ (∀ i < 32, i ≠ 0 → bit (t.rd 0xF0000) i = bit (s.rd 0xF0000) i) ∧
      (on = true → ∀ p < 4, t.rd (pwrAt p 0) = 1600) ∧
      s.KeepsRegs t (0xF0000 :: 0xF000C :: pwrAt 0 0 :: pwrAt 1 0 :: pwrAt 2 0 :: pwrAt 3 0 :: lntRegs) ∧
      t.ctl.err = false ∧ t.still = ({ s with ctl := t.ctl, pitches := t.pitches } : State).still) ∧
  (∀ (data : W32) (s : State), s.portOpen = true →
    ∃ t, exec (.recordCtlWrite data) s = .next t ∧
      (∀ i < 32, bit (t.rd 0xF0000) i = if bit 0xFFF1C i then bit data.toNat i else decide (i = 0) && bit (s.rd 0xF0000) 0) ∧
      (bit (s.rd 0xF0000) 2 = false → bit data.toNat 2 = true → t.det.head = 0 ∧ t.det.full = false) ∧
      s.KeepsRegs t (0xF0000 :: 0xF000C :: lntRegs) ∧ t.ctl.err = false ∧
      t.still = ({ s with ctl := t.ctl } : State).still)) ∧
  (∀ (p : Nat) (s : State), s.alive = true → s.pitchLive p = true → (s.pitch p).locked = true →
    ∃ t, exec (.paceLockSlip p) s = .next t ∧ bits (t.rd 0xF000C) 2 14 = min (bits (s.rd 0xF000C) 2 14 + 1) (2 ^ 14 - 1) ∧
      bit (t.rd 0x20) 5 = true ∧ (∃ u : State, u.lnt = s.lnt ∧ u.now = s.now ∧ t.lnt = (u.event 0x0A 0 p 0).lnt) ∧
      s.KeepsRegs t (0xF000C :: lntRegs) ∧ t.still = s.still)

/-- TICK_STROBE advances every tick copy by one (those that the strobe upsets are flipped after it), the elapsed ticks by
one, brings an accepted load one edge nearer, and lets every memory channel's allowances grow by 125/128 beat up to 128
beats (R50, R62, R63). What the tick then brings to the units of a working block is `tickUnits`. -/
def Obligations.TickStrobeAdvances : Prop :=
  ∀ (gap interval : Nat) (upset : BitVec 4) (flip : W64) (s : State), s.alive = true → s.clk.load.map TickLoad.left ≠ some 0 →
    (∀ p ∈ s.pitchesUp, ∀ q ∈ s.pitchesUp, (s.pitch p).tick = (s.pitch q).tick) →
    ∃ u, exec (.tickStrobe gap interval upset flip) s = .next (if u.on then u.tickUnits else u) ∧
      u.clk.el = s.clk.el + 1 ∧ u.clk.load = s.clk.load.map (fun l => { l with left := l.left - 1 }) ∧
      u.pitches.length = s.pitches.length ∧
      (∀ p < s.pitches.length, (u.pitch p).tick =
        if upset.getLsbD p then ((s.pitch p).tick + 1#64) ^^^ flip else (s.pitch p).tick + 1#64) ∧
      u.mem.chs.length = s.mem.chs.length ∧
      (∀ c < s.mem.chs.length, (u.ch c).rd = min 16384 ((s.ch c).rd + 125) ∧ (u.ch c).wr = min 16384 ((s.ch c).wr + 125)) ∧
      u.ctxs = s.ctxs ∧ u.start = s.start ∧ s.KeepsRegs u lntRegs

/-- TICK_LOAD after a start has begun: a load of right parity that no step in progress forbids is accepted and waits for its
64th strobe edge, in place of an earlier one (the model's choice, log entry 176); a load whose parity fails, or that is
refused, is ignored and recorded as event 0x05; TICK_LOAD_APPLY at that edge gives every copy the value (R63, R64).

TICK_LOSS of 2^16 ticks of the reference ring or more sets the block-fault notice, marks the tick lost and lets every timer
run by the ring's ticks; with fewer, nothing changes (R38). PACE_WINDOW_END of a running pitch, while strobes arrive, loads
the window's pace (1,600 where the pitch is held to the pace slots) into PWR_PACE_NOW and, when lower, into PWR_PACE_MIN
(R37); with no strobes it loads nothing (R38). Both leave every other register, and everything else, as it was. -/
def Obligations.TickLoadsAndPace : Prop :=
  ((∀ (val : W64) (par : BitVec 8) (s : State), s.alive = true → s.start.phase ≠ .idle →
    (par = BitVec.ofNat 8 (maskOf 8 (fun i => decide (parity 8 (bits val.toNat (8 * i) 8) = 1))) →
      (s.loadOk = true → exec (.tickLoad val par) s = .next { s with clk := { s.clk with load := some ⟨val, 64⟩, lost := false } }) ∧
      (s.loadOk = false → exec (.tickLoad val par) s = .next (s.event 0x05 0 1 0))) ∧
    (par ≠ BitVec.ofNat 8 (maskOf 8 (fun i => decide (parity 8 (bits val.toNat (8 * i) 8) = 1))) →
      exec (.tickLoad val par) s = .next (s.event 0x05 0 0 0))) ∧
  (∀ (v : W64) (s : State), s.alive = true → s.clk.load = some ⟨v, 0⟩ →
    ∃ t, exec .tickLoadApply s = .next t ∧ (∀ p ∈ t.pitches, p.tick = v) ∧ t.pitches.length = s.pitches.length ∧
      t.clk = { s.clk with load := none } ∧ t.ctxs = s.ctxs ∧ s.KeepsRegs t (0xF000C :: lntRegs))) ∧
  ((∀ (ring : Nat) (s : State), s.alive = true →
    (65536 ≤ ring → ∃ t, exec (.tickLoss ring) s = .next t ∧
      t.clk = { s.clk with el := s.clk.el + ring, lost := true, silent := true } ∧
      bit (t.rd 0x20) 2 = true ∧ s.KeepsRegs t [0x20] ∧ t = { s with regs := t.regs, clk := t.clk }) ∧
    (ring < 65536 → exec (.tickLoss ring) s = .next s)) ∧
  (∀ (p count : Nat) (s : State), s.alive = true → s.pitchLive p = true →
    (s.clk.silent = false → count < 65536 →
      let pace := if (s.pitch p).locked then 1600 else count
      ∃ t, exec (.paceWindowEnd p count) s = .next t ∧ t.rd (pwrAt p 0) = pace ∧
        t.rd (pwrAt p 4) = min pace (s.rd (pwrAt p 4)) ∧
        s.KeepsRegs t [pwrAt p 0, pwrAt p 4] ∧ t = { s with regs := t.regs }) ∧
    (s.clk.silent = true → exec (.paceWindowEnd p count) s = .next s)))

/-- GOVERNOR_WINDOW of a running pitch: the estimate is the window's energy. Outside a droop I_lim moves towards the
estimate plus one rise step, up by at most UP steps or, but for the cap, down by at most DN steps; in a droop it stays; in
both it never exceeds the cap. A window in which the cap binds, that is lies below where I_lim would have gone, sets the
pace bit and its bit of PWR_STS; otherwise no register changes. No other pitch changes (R471, R472).

DROOP_RISE holds I_lim at half the last estimate and sets the pace bit and its bit of PWR_STS; DROOP_FALL ends the
droop (R472). JUNCTION_HOT puts the reading, and the highest reading, into PWR_TEMP, raises hot above 105 °C, with the pace
bit and its bit of PWR_STS at the rise, lowers it below 100 °C and keeps it between (readings in °C + 40, R473). -/
def Obligations.GovernorDroopAndJunction : Prop :=
  (∀ (p cap : Nat) (s : State), p < s.pitches.length → s.alive = true → s.pitchLive p = true →
    let up := bits (s.rd (pwrAt p 8)) 8 8
    let dn := bits (s.rd (pwrAt p 8)) 0 8
    let lim := (s.pitch p).iLim
    let goal := (s.pitch p).win + up * 768000
    let next := if lim < goal then min goal (lim + up * 768000) else max goal (lim - dn * 768000)
    let binds := cap ≠ 0 ∧ peakAmps / 8 * cap < next
    ∃ t, exec (.governorWindow p cap) s = .next t ∧ (t.pitch p).est = (s.pitch p).win ∧ (t.pitch p).win = 0 ∧
      (t.pitch p).cap = cap ∧
      ((s.pitch p).droop = false → (t.pitch p).iLim = (if cap = 0 then next else min next (peakAmps / 8 * cap)) ∧
        (t.pitch p).iLim ≤ lim + up * 768000 ∧ (cap = 0 → lim ≤ (t.pitch p).iLim + dn * 768000)) ∧
      ((s.pitch p).droop = true → (t.pitch p).iLim = if cap = 0 then lim else min lim (peakAmps / 8 * cap)) ∧
      (binds → bit (t.rd (pwrAt p 0x10)) 1 = true ∧ bit (t.rd 0x20) 5 = true) ∧ (¬ binds → t.regs = s.regs) ∧
      (∀ q, q ≠ p → t.pitch q = s.pitch q) ∧ s.KeepsRegs t [pwrAt p 0x10, 0x20] ∧
      t = { s with regs := t.regs, pitches := t.pitches }) ∧
  ((∀ (p : Nat) (s : State), p < s.pitches.length → s.alive = true → s.pitchLive p = true → (s.pitch p).droop = false →
    ∃ t, exec (.droopRise p) s = .next t ∧ t.pitch p = { s.pitch p with droop := true, iLim := (s.pitch p).est / 2 } ∧
      bit (t.rd (pwrAt p 0x10)) 0 = true ∧ bit (t.rd 0x20) 5 = true ∧ (∀ q, q ≠ p → t.pitch q = s.pitch q) ∧
      s.KeepsRegs t [pwrAt p 0x10, 0x20] ∧ t = { s with regs := t.regs, pitches := t.pitches }) ∧
  (∀ (p : Nat) (s : State), p < s.pitches.length → s.alive = true →
    ∃ t, exec (.droopFall p) s = .next t ∧ t.pitch p = { s.pitch p with droop := false } ∧
      (∀ q, q ≠ p → t.pitch q = s.pitch q) ∧ t = { s with pitches := t.pitches }) ∧
  (∀ (p reading : Nat) (s : State), p < s.pitches.length → s.alive = true → s.pitchLive p = true →
    ∃ t, exec (.junctionHot p reading) s = .next t ∧ bits (t.rd (pwrAt p 0xC)) 0 8 = min 255 reading ∧
      bits (t.rd (pwrAt p 0xC)) 8 8 = max (min 255 reading) (bits (s.rd (pwrAt p 0xC)) 8 8) ∧
      (145 < reading → (t.pitch p).hot = true ∧ ((s.pitch p).hot = false → bit (t.rd 0x20) 5 = true ∧ bit (t.rd (pwrAt p 0x10)) 2 = true)) ∧
      (reading < 140 → (t.pitch p).hot = false) ∧
      (140 ≤ reading → reading ≤ 145 → (t.pitch p).hot = (s.pitch p).hot) ∧
      (∀ q, q ≠ p → t.pitch q = s.pitch q) ∧ s.KeepsRegs t [pwrAt p 0xC, pwrAt p 0x10, 0x20] ∧
      t = { s with regs := t.regs, pitches := t.pitches }))

/-- An event enters the Lantern queue (R465). Below the capacity it enters at the young end and nothing is lost. At the
capacity: an arriving event of lower priority than every level present is discarded; otherwise the oldest entry of the
lowest priority present goes and the event enters; either way the count of entries stays and the lost counter of the
lost entry's level rises. A flush counts nothing as lost. -/
def Obligations.EventEntersQueue : Prop :=
  (∀ (kind ctx a b : Nat) (s : State),
    let l := kindLevel kind
    let e := entryWords kind s.glb.anchor ctx a b s.now
    let w := worstLevel s.lnt.ents
    (s.lnt.ents.length < s.lntCap →
      (s.event kind ctx a b).lnt.ents.map LEntry.words = s.lnt.ents.map LEntry.words ++ [e] ∧
      s.KeepsRegs (s.event kind ctx a b) [0x20, 0xB001C, 0xB0028]) ∧
    (s.lntCap ≤ s.lnt.ents.length →
      (s.event kind ctx a b).lnt.ents.length = s.lnt.ents.length ∧
      (w < l → (s.event kind ctx a b).lnt.ents = s.lnt.ents ∧ s.event kind ctx a b = s.lntLost l 1) ∧
      (l ≤ w → (s.event kind ctx a b).lnt.ents.map LEntry.words = (dropOldest w s.lnt.ents).map LEntry.words ++ [e] ∧
        ∀ x, (s.event kind ctx a b).rd x = (s.lntLost w 1).rd x)) ∧
    (s.event kind ctx a b).still = s.still) ∧
  (∀ s : State, s.ctlOpen 0xB0000 = true → s.alive = true → bit (s.rd 0xF0000) 2 = false →
    ∃ t, exec .lanternFlush s = .next t ∧ ∀ x ∈ [0xB001C, 0xB0020, 0xB0024, 0xB0028], t.rd x = s.rd x)

/-- LANTERN_READ (R462, R464): of an empty queue it returns zero, and words 1 to 3 zero; otherwise the oldest entry of the
highest level leaves the queue and is returned with its level, its words 1 to 3 stand in LNT_READ1 to LNT_READ3, each word
that fails parity has its POISON bit set and is counted, and the words are delivered as stored; such a failure is also a
detection, and a row of the queue's storage is remapped (R432). An entry not yet in a head register gives PEND and stays.
Nothing else changes but the places of the entries. -/
def Obligations.LanternReadGivesOldestOfHighestLevel : Prop :=
  ∀ (bad : BitVec 4) (s : State), s.alive = true → s.ctlOpen 0xB0004 = true →
    (s.lnt.ents = [] →
      ∃ t, exec (.lanternRead bad) s = .next t ∧ t.ctl.rdata = 0#32 ∧ t.rd 0xB0008 = 0 ∧ t.rd 0xB000C = 0 ∧
        t.rd 0xB0010 = 0 ∧ s.KeepsRegs t [0xB0008, 0xB000C, 0xB0010] ∧ t = { s with regs := t.regs, ctl := t.ctl }) ∧
    (∀ (e : LEntry) (p r : List LEntry), s.lnt.ents = p ++ e :: r → (∀ x ∈ s.lnt.ents, e.level ≤ x.level) →
      (∀ x ∈ p, x.level ≠ e.level) → e.level ≤ 3 →
      (e.place = .pool ∨ e.place = .head →
        ∃ u : State, exec (.lanternRead bad) s = .next ((if bad = 0#4 then u else u.detect.remap s.glb.anchor 3 0).answer
            (2 ^ 31 + e.level * 2 ^ 29 + bad.toNat * 2 ^ 25 + e.words.getD 0 0)) ∧
          u.lnt.ents.map LEntry.words = (p ++ r).map LEntry.words ∧
          u.rd 0xB0008 = e.words.getD 1 0 % 2 ^ 32 ∧ u.rd 0xB000C = e.words.getD 2 0 % 2 ^ 32 ∧
          u.rd 0xB0010 = e.words.getD 3 0 % 2 ^ 32 ∧
          u.rd 0xB002C = (s.rd 0xB002C +
            (b2n (bad.getLsbD 0) + b2n (bad.getLsbD 1) + b2n (bad.getLsbD 2) + b2n (bad.getLsbD 3))) % 2 ^ 32 ∧
          s.KeepsRegs u [0xB0008, 0xB000C, 0xB0010, 0xB002C] ∧ u.still = s.still) ∧
      (e.place ≠ .pool → e.place ≠ .head →
        ∃ t, exec (.lanternRead bad) s = .next t ∧ t.ctl.rdata = 0x1000000#32 ∧
          t.lnt.ents.map LEntry.words = s.lnt.ents.map LEntry.words ∧ s.KeepsRegs t [] ∧
          t.still = ({ s with ctl := t.ctl } : State).still))

/-- LANTERN_FLUSH empties the queue and zeroes LNT_READ1 to LNT_READ3, keeps the lost counters and LNT_STS, takes the
waiting Bivouac reads away and lets writes already issued complete; the write's own entry of the record log, if any,
enters after it (R466). -/
def Obligations.LanternFlushEmptiesQueue : Prop :=
  ∀ s : State, s.alive = true → s.ctlOpen 0xB0000 = true →
    ∃ u : State, exec .lanternFlush s = .next (u.recWrite 0xB0000 1).ackWrite ∧ u.lnt = { s.lnt with ents := [] } ∧
      u.rd 0xB0008 = 0 ∧ u.rd 0xB000C = 0 ∧ u.rd 0xB0010 = 0 ∧ s.KeepsRegs u [0xB0008, 0xB000C, 0xB0010] ∧
      (∀ r ∈ u.mem.wait, r ∈ s.mem.wait ∧ r.why.unit ≠ .bivRead ∧ (r.why.unit = .bivWrite → r.wr = true ∧ r.tries ≠ 0)) ∧
      (∀ r ∈ s.mem.wait, r.why.unit ≠ .bivRead → r.why.unit ≠ .bivWrite → r ∈ u.mem.wait) ∧
      u.mem.chs = s.mem.chs ∧ u.still = s.still

/-- POWER_GOOD_FALL of a working pitch, and PITCH_RESET_ASSERTED: the pitch is held; a running pitch is lost, the lowest
remaining one takes the anchor's place, no channel, point or port of the pitch carries traffic, and with no pitch left
the block stops (R30, R431, R470). -/
def Obligations.PitchLeavesService : Prop :=
  ∀ (p : Nat) (s : State), s.Ok → p < 4 → s.alive = true → s.start.phase = .done → s.pitchUp p = true →
    ∀ c, c = .powerGoodFall p ∨ c = .pitchResetAsserted p →
    ∃ t, exec c s = .next t ∧ (t.pitch p).held = true ∧ (t.pitch p).lost = true ∧
      (∀ q, q ≠ p → (t.pitch q).held = (s.pitch q).held ∧ (t.pitch q).tick = (s.pitch q).tick) ∧
      (∀ i < 16, i / 4 = p → (t.ch i).iso = true) ∧ (∀ i < 32, i / 8 = p → (t.pt i).iso = true) ∧
      (∀ n < 72, portPitch n = p → (t.port n).iso = true ∧ (t.port n).en = false) ∧
      ((∀ q, q ≠ p → s.pitchUp q = false) → t.start.stopped = true) ∧
      (∀ q r, s.pitchesUp.filter (fun x => decide (x ≠ p)) = q :: r →
        (s.glb.anchor = p → t.glb.anchor = q) ∧ (s.glb.anchor ≠ p → t.glb.anchor = s.glb.anchor) ∧
        (c = .pitchResetAsserted p → t.start.stopped = s.start.stopped))

/-- MEM_REQUEST_ISSUE takes the next of the requests that the channel is to carry and nothing holds back (`forChan`): those
that were pending when mem_down fell first, in order of original issue (R72), then the lowest class number, and within it
the oldest (R50). Where the allowance covers it, it goes out under a tag that no outstanding, quarantined or abandoned
request of the channel holds, its beats are deducted, a write's data beats follow those of the writes before it, packed from
byte 0 and zero past its length (R47, R51), and it waits no more. Its lines overlap those of no write, on any channel, that
has been issued and has had no response (R49). Where the allowance does not cover it, or there is none, or 1,024 tags are
held, the channel issues nothing: at most the requests that the record log holds back are marked (`withhold`); isolated or
down, it changes nothing. -/
def Obligations.MemRequestIssueTakesNext : Prop :=
  ∀ (c : Nat) (s : State), c < s.mem.chs.length → s.alive = true →
    (s.chUp c = true → (s.ch c).down = false →
      let u := s.withhold c
      (∀ r, (s.ch c).tagged.length < 1024 → (s.ch c).nextTag < 1024 → u.nextReq c = some r → (s.ch c).covers r = true →
        ∃ t tag data, exec (.memRequestIssue c) s = .next t ∧ tag < 1024 ∧ (∀ o ∈ (s.ch c).tagged, o.tag ≠ tag) ∧
          (r.why.unit ≠ .query ∨ r.iss ≠ 0 → data = r.data) ∧
          (t.ch c).out = (s.ch c).out ++
            [⟨tag, { r with
                data := data
                tries := if r.again then r.tries else r.tries + 1
                again := false
                resume := false
                iss := if r.iss = 0 then s.mem.nextIss else r.iss }, 0, [], s.el, false⟩] ∧
          t.mem.wait = u.mem.wait.filter (fun w => decide (w.id ≠ r.id)) ∧
          t.mem.beats = s.mem.beats ++ memBeats c tag { r with data := data } ∧
          t.mem.cmds = s.mem.cmds ++ [memCmd c tag r] ∧
          (∀ w ∈ s.mem.wait, w.iss ≠ 0 → w.wr = true → w.id ≠ r.id → overlap w r = false) ∧
          (∀ ch ∈ s.mem.chs, (∀ o ∈ ch.out, o.req.wr = true → o.req.id ≠ r.id → overlap o.req r = false) ∧
            (∀ o ∈ ch.quar ++ ch.stale, o.dead = false → o.req.wr = true → o.req.id ≠ r.id → overlap o.req r = false)) ∧
          (r.wr = false → 128 * beatsOf r.lines ≤ (s.ch c).rd ∧ (t.ch c).rd = (s.ch c).rd - 128 * beatsOf r.lines ∧
            (t.ch c).wr = (s.ch c).wr) ∧
          (r.wr = true → 128 * beatsOf r.lines ≤ (s.ch c).wr ∧ (t.ch c).wr = (s.ch c).wr - 128 * beatsOf r.lines ∧
            (t.ch c).rd = (s.ch c).rd) ∧
          r ∈ u.forChan c ∧
          (r.resume = true → ∀ q ∈ u.forChan c, q.resume = true → r.iss ≤ q.iss) ∧
          (r.resume = false → (∀ q ∈ u.forChan c, q.resume = false ∧ r.cls ≤ q.cls) ∧
            ∃ pre post, u.forChan c = pre ++ r :: post ∧ ∀ q ∈ pre, q.cls ≠ r.cls) ∧
          (∀ d, d ≠ c → t.ch d = s.ch d) ∧
          (r.why.unit ≠ .query → ∀ d, t.ctx d = { s.ctx d with acct := (t.ctx d).acct }) ∧
          s.KeepsRegs t (pageAt r.ctx 0x0C :: 0xF000C :: lntRegs) ∧
          t.still = ({ s with ctxs := t.ctxs, pitches := t.pitches, hold := t.hold, mem := t.mem } : State).still) ∧
      (u.nextReq c = none ∨ (∃ r, u.nextReq c = some r ∧ (s.ch c).covers r = false) ∨ 1024 ≤ (s.ch c).tagged.length →
        exec (.memRequestIssue c) s = .next u)) ∧
    (s.chUp c = false ∨ (s.ch c).down = true → exec (.memRequestIssue c) s = .next s)

/-- MEM_READ_BEAT of an outstanding read (R47, R48, R51, R52): a good beat before the last is kept; a good last beat ends
the request and delivers its data. A header that fails parity, a poisoned status or bad data makes the attempt fail (a
second poisoned one with code 0x02); a refusal faults it with code 0x03; a beat out of order, and one whose tag is not
outstanding, is a protocol fault. MEM_WRITE_RESPONSE of an outstanding write: the same, without beats. What a failed attempt
does (`memRetry`): it counts as a detection; the request waits again while fewer than four attempts were made, and faults
afterwards. A beat or response of a quarantined tag releases it, one of an abandoned tag frees it with the last beat or
the response, and neither has another effect.

MEM_ANSWER_TIMEOUT, MEM_DOWN_RISE and MEM_DOWN_FALL: a request that has had no complete answer for GLB_MEM_ANSWER_TMO is
issued once more while its tag waits in quarantine, and more than 256 such tags isolate the channel (R52); while mem_down
is high nothing is issued, and when it falls every pending request waits to be issued again, those that the port had taken
before the others (`resume`; R72). -/
def Obligations.MemRequestsEnd : Prop :=
  ((∀ (c tag beat sts : Nat) (last hpar : Bool) (data : Bytes) (par : List Bool) (s : State),
    s.alive = true → s.chUp c = true → (∀ o ∈ (s.ch c).quar, o.tag ≠ tag) →
    (∀ o ∈ (s.ch c).stale, o.tag = tag → o.req.wr = true) →
    let good := parityOk 16 (tag % 1024 + beat % 8 * 2 ^ 10 + b2n last * 2 ^ 13 + sts % 4 * 2 ^ 14) hpar
    let goodData := wordsParOk (exactly 512 data) (par ++ List.replicate (128 - par.length) false)
    (∀ o, (s.ch c).out.find? (fun x => decide (x.tag = tag)) = some o → o.req.wr = false → o.dead = false →
      (good = false → exec (.memReadBeat c tag beat last sts data par hpar) s =
        .next ((s.memFail c tag last).memRetry c o.req false 0x01)) ∧
      (good = true → beat ≠ o.beat ∨ last ≠ decide (beat + 1 = beatsOf o.req.lines) →
        exec (.memReadBeat c tag beat last sts data par hpar) s = .next (s.memProto c tag)) ∧
      (good = true → beat = o.beat → last = decide (beat + 1 = beatsOf o.req.lines) →
        (2 ≤ sts → exec (.memReadBeat c tag beat last sts data par hpar) s =
          .next ((s.memFail c tag last).memUnitFault o.req 0x03 c)) ∧
        (sts = 1 → exec (.memReadBeat c tag beat last sts data par hpar) s =
          .next ((s.memFail c tag last).memRetry c { o.req with poisoned := true } o.req.poisoned 0x02)) ∧
        (sts = 0 → goodData = false → exec (.memReadBeat c tag beat last sts data par hpar) s =
          .next ((s.memFail c tag last).memRetry c o.req false 0x01)) ∧
        (sts = 0 → goodData = true → last = false → c < s.mem.chs.length →
          ∃ t, exec (.memReadBeat c tag beat last sts data par hpar) s = .next t ∧
            (t.ch c).out.find? (fun x => decide (x.tag = tag)) =
              some { o with beat := o.beat + 1, got := o.got ++ exactly 512 data } ∧
            (∀ d, d ≠ c → t.ch d = s.ch d) ∧ t.mem.wait = s.mem.wait ∧ t = { s with mem := t.mem }) ∧
        (sts = 0 → goodData = true → last = true → c < s.mem.chs.length →
          ∃ u : State, exec (.memReadBeat c tag beat last sts data par hpar) s =
              .next (u.deliver o.req ((o.got ++ exactly 512 data).take (64 * o.req.lines))) ∧
            (∀ x ∈ (u.ch c).out, x.tag ≠ tag) ∧ (∀ d, d ≠ c → u.ch d = s.ch d) ∧
            u.still = ({ s with mem := u.mem } : State).still))) ∧
    ((∀ x ∈ (s.ch c).out, x.tag ≠ tag) →
      exec (.memReadBeat c tag beat last sts data par hpar) s = .next (s.memProto c tag))) ∧
  (∀ (c tag sts : Nat) (hpar : Bool) (s : State),
    s.alive = true → s.chUp c = true → (∀ o ∈ (s.ch c).quar, o.tag ≠ tag) →
    (∀ o ∈ (s.ch c).stale, o.tag = tag → o.req.wr = false) →
    let good := parityOk 12 (tag % 1024 + sts % 4 * 2 ^ 10) hpar
    (∀ o, (s.ch c).out.find? (fun x => decide (x.tag = tag)) = some o → o.req.wr = true →
      (good = false → exec (.memWriteResponse c tag sts hpar) s = .next ((s.memEnd c tag).memRetry c o.req false 0x01)) ∧
      (good = true →
        let u := (s.memEnd c tag).writeAnswered o.req.id
        (∀ x ∈ (u.ch c).out, x.tag ≠ tag) ∧
        (2 ≤ sts → exec (.memWriteResponse c tag sts hpar) s = .next (u.memUnitFault o.req 0x03 c)) ∧
        (sts = 1 → exec (.memWriteResponse c tag sts hpar) s =
          .next (u.memRetry c { o.req with poisoned := true } o.req.poisoned 0x02)) ∧
        (sts = 0 → exec (.memWriteResponse c tag sts hpar) s = .next (u.deliver o.req [])))) ∧
    ((∀ x ∈ (s.ch c).out, x.tag ≠ tag) → exec (.memWriteResponse c tag sts hpar) s = .next (s.memProto c tag))) ∧
  (∀ (c code : Nat) (r : MemReq) (spent : Bool) (s : State),
    (spent = true ∨ 4 ≤ r.tries → s.memRetry c r spent code = s.detect.memUnitFault r code c) ∧
    (spent = false → r.tries < 4 → r ∈ (s.memRetry c r spent code).mem.wait ∧
      (∀ q ∈ s.mem.wait, q ∈ (s.memRetry c r spent code).mem.wait) ∧
      (s.memRetry c r spent code).mem.chs = s.mem.chs ∧ (s.memRetry c r spent code).ctxs = s.ctxs)) ∧
  (∀ (c tag sts beat : Nat) (last hpar : Bool) (data : Bytes) (par : List Bool) (s : State),
    s.alive = true → s.chUp c = true → c < s.mem.chs.length →
    ((∃ o ∈ (s.ch c).quar, o.tag = tag) →
      ∀ x, x = .memReadBeat c tag beat last sts data par hpar ∨ x = .memWriteResponse c tag sts hpar →
      ∃ t, exec x s = .next t ∧ t.ch c = { s.ch c with quar := (s.ch c).quar.filter (fun o => decide (o.tag ≠ tag)) } ∧
        (∀ d, d ≠ c → t.ch d = s.ch d) ∧ t = { s with mem := t.mem }) ∧
    ((∀ o ∈ (s.ch c).quar, o.tag ≠ tag) → ∀ o ∈ (s.ch c).stale, o.tag = tag →
      ∀ x, x = .memReadBeat c tag beat last sts data par hpar ∧ o.req.wr = false ∨
          x = .memWriteResponse c tag sts hpar ∧ o.req.wr = true →
      (o.req.wr = false → last = false → exec x s = .next s) ∧
      (o.req.wr = true ∨ last = true →
        ∃ t, exec x s = .next t ∧ t.ch c = { s.ch c with stale := (s.ch c).stale.filter (fun o => decide (o.tag ≠ tag)) } ∧
          (∀ d, d ≠ c → t.ch d = s.ch d) ∧ t = { s with mem := t.mem })))) ∧
  ((∀ (c tag : Nat) (o : MemOut) (s : State), c < s.mem.chs.length → s.alive = true → s.chUp c = true →
    (s.ch c).out.find? (fun x => decide (x.tag = tag)) = some o →
    (o.at_ + s.rdMin 0x34 0x1000 ≤ s.el →
      let u := (s.memEnd c tag).modCh c (fun x => { x with quar := x.quar ++ [o] })
      let v := if o.dead then u else u.memRetry c { o.req with silent := true } o.req.silent 0x04
      (∀ x ∈ (u.ch c).out, x.tag ≠ tag) ∧ (u.ch c).quar = (s.ch c).quar ++ [o] ∧
      exec (.memAnswerTimeout c tag) s =
        .next (if 256 < (v.ch c).quar.length then (v.isolateMem c).stuckEvent 0 c else v)) ∧
    (s.el < o.at_ + s.rdMin 0x34 0x1000 → exec (.memAnswerTimeout c tag) s = .next s)) ∧
  (∀ (c : Nat) (s : State), c < s.mem.chs.length →
    (∃ t, exec (.memDownRise c) s = .next t ∧ t.ch c = { s.ch c with down := true } ∧ (∀ d, d ≠ c → t.ch d = s.ch d) ∧
      t.mem.wait = s.mem.wait ∧ exec (.memRequestIssue c) t = .next t ∧ t = { s with mem := t.mem }) ∧
    ((s.ch c).down = true →
      ∃ t, exec (.memDownFall c) s = .next t ∧
        t.ch c = { s.ch c with down := false, out := [], stale := (s.ch c).stale ++ (s.ch c).out } ∧
        (∀ o ∈ (s.ch c).out, o.dead = false → { o.req with again := true, resume := true } ∈ t.mem.wait) ∧
        (∀ r ∈ s.mem.wait, (if r.iss ≠ 0 ∧ s.chanOf r.addr = some c then { r with resume := true } else r) ∈ t.mem.wait) ∧
        (∀ d, d ≠ c → t.ch d = s.ch d) ∧ t = { s with mem := t.mem })))

/-- PORT_STUCK_TIMEOUT of a working memory channel, attachment point or link port counts it as a port fault and a
detection, isolates it, raises the notice and records the event (R43): a channel's outstanding requests wait again; a
point's packets that had not passed whole, and those that waited on it, go to a point that works; a link port goes down.
Before GLB_PORT_TMO nothing happens.

ISOLATION_RELEASE brings each of them back after 16 ticks of low handshake wires, a link port with lnk_en (R71, R78).
CORE_DOWN_RISE and CORE_DOWN_FALL: the packets whose last beat has not left, and those sent while core_down is high, wait,
and leave in their order when it falls (R72). -/
def Obligations.IsolationAndCoreDown : Prop :=
  (∀ (i left : Nat) (s : State), s.Ok → s.alive = true →
    (s.rdMin 0x30 0x400 ≤ s.el →
      let u := (s.countSat 0x40 8 8 1).detect
      (i < 16 → s.chUp i = true →
        ∃ t, exec (.portStuckTimeout 0 ⟨i, left⟩) s = .next t ∧ t = (u.isolateMem i).stuckEvent 0 i ∧
          (t.ch i).iso = true ∧ (t.ch i).out = [] ∧ (t.ch i).stale = (s.ch i).stale ++ (s.ch i).out ∧
          (∀ o ∈ (s.ch i).out, o.dead = false → { o.req with again := true } ∈ t.mem.wait) ∧
          (∀ d, d ≠ i → t.ch d = s.ch d) ∧ t.ctxs = s.ctxs ∧ bit (t.rd 0x20) 2 = true) ∧
      (i < 32 → s.ptUp i = true →
        ∃ t, exec (.portStuckTimeout 1 ⟨i, left⟩) s = .next t ∧ t = (u.isolateCore i left).stuckEvent 1 i ∧
          (t.pt i).iso = true ∧
          ((∃ j < 32, j ≠ i ∧ s.ptUp j = true) → (t.pt i).pend = [] ∧
            ∀ b ∈ s.unacked i left ++ (s.pt i).pend, ∃ j, j ≠ i ∧ (⟨j, b⟩ ∈ t.core.sent ∨ b ∈ (t.pt j).pend)) ∧
          t.mem.chs = s.mem.chs ∧ t.ctxs = s.ctxs ∧ bit (t.rd 0x20) 2 = true) ∧
      (i < 72 → (s.port i).usable = true →
        exec (.portStuckTimeout 2 ⟨i, left⟩) s = .next ((u.linkDown i).stuckEvent 2 i) ∧
          bit (((u.linkDown i).stuckEvent 2 i).rd 0x20) 2 = true)) ∧
    (s.el < s.rdMin 0x30 0x400 → ∀ k, exec (.portStuckTimeout k ⟨i, left⟩) s = .next s)) ∧
  (∀ (i : Nat) (s : State), s.Ok → s.alive = true →
    (i < 16 → (s.ch i).iso = true → s.pitchUp (i / 4) = true → (s.ch i).lowAt + 16 ≤ s.el →
      ∃ t, exec (.isolationRelease 0 i) s = .next t ∧ t.ch i = { s.ch i with iso := false } ∧
        (∀ d, d ≠ i → t.ch d = s.ch d) ∧ t = { s with mem := t.mem }) ∧
    (i < 32 → (s.pt i).iso = true → s.pitchUp (i / 8) = true → (s.pt i).lowAt + 16 ≤ s.el →
      ∃ t, exec (.isolationRelease 1 i) s = .next t ∧ t.pt i = { s.pt i with iso := false } ∧
        (∀ d, d ≠ i → t.pt d = s.pt d) ∧ t = { s with core := t.core }) ∧
    (i < 72 → (s.port i).iso = true → s.pitchUp (portPitch i) = true → (s.port i).st ≤ 1 → (s.port i).lowAt + 16 ≤ s.el →
      ∃ t, exec (.isolationRelease 2 i) s = .next t ∧ (t.port i).iso = false ∧
        (t.port i).en = ((s.port i).en || decide ((s.port i).st = 1)) ∧
        t.port i = { s.port i with iso := false, en := (t.port i).en, enAt := (t.port i).enAt } ∧
        (∀ d, d ≠ i → t.port d = s.port d) ∧ t = { s with links := t.links })) ∧
  (∀ (a : Nat) (s : State), s.Ok → a < 32 →
    (∃ t, exec (.coreDownRise a) s = .next t ∧
      t.pt a = { s.pt a with down := true, pend := (s.pt a).begun s.el ++ (s.pt a).pend, fly := [], busy := 0 } ∧
      (∀ d, d ≠ a → t.pt d = s.pt d) ∧ t = { s with core := t.core } ∧
      ∀ b : Bytes, ((t.coreSend a b).pt a).pend = (t.pt a).pend ++ [b] ∧ (t.coreSend a b).core.sent = t.core.sent) ∧
    ((s.pt a).down = true →
      ∃ t, exec (.coreDownFall a) s = .next t ∧ (t.pt a).down = false ∧ (t.pt a).pend = [] ∧
        t.core.sent = s.core.sent ++ (s.pt a).pend.map (fun b => ⟨a, b⟩) ∧ (∀ d, d ≠ a → t.pt d = s.pt d) ∧
        t = { s with core := t.core }))

/-- GUY_ACK of the oldest unacknowledged word of a guy line in service (R27): accepted, the word leaves the replay buffer;
rejected, it and every later word are to be sent again, in their order. At the eighth reject in a row of a word, or the 64th
of the line within 2^20 ticks, the line is out of service, and its words wait to be sent, in their order, on the
lowest-numbered other line in service of the boundary and direction (that line is the model's choice, log entry 166).

GUY_LINE_WORD_RECEIVED (R24, R27, R29): the word that the line carries next (`guyNext`: one to be resent, one taken over,
or the given one while the replay buffer has room for it) enters the buffer where it is not there yet; a receiver that waits
for a resent word discards it; one whose parity wires do not agree is rejected, and those after it are discarded;
otherwise it is taken in the order of its transfer. A new word of a transfer with none missing is delivered at once.

GUY_LINE_TEST_DONE of a line out of service (R28): with its failing wires in distinct groups without a remap so far, and
those groups' spare wires good, it returns to service; otherwise it is retired, and the lowest-numbered spare line of the
boundary and direction, if any is left, comes into service (the choice of the spare is the model's, log entry 168). -/
def Obligations.GuyLinesResendAndSpare : Prop :=
  (∀ (b line : Nat) (up : Bool) (w : GuyWord) (r : List GuyWord) (s : State), s.alive = true → s.guyOk b line = true →
    let k := guyKey b up line
    let g := s.guy k
    g.st = 0 → g.buf = w :: r → g.again < g.buf.length →
    (∃ t, exec (.guyAck b up line false) s = .next t ∧ t.guy k = { g with buf := r } ∧
      (∀ j, j ≠ k → t.guy j = s.guy j) ∧ t = { s with guys := t.guys }) ∧
    (w.rejects + 1 < 8 → (recent (2 ^ 20) s.el g.rejTimes).length + 1 < 64 →
      ∃ t, exec (.guyAck b up line true) s = .next t ∧
        t.guy k = { g with
          buf := { w with rejects := w.rejects + 1 } :: r
          again := g.buf.length
          skipping := false
          rejTimes := s.el :: recent (2 ^ 20) s.el g.rejTimes } ∧
        (∀ j, j ≠ k → t.guy j = s.guy j) ∧ t = { s with guys := t.guys }) ∧
    (8 ≤ w.rejects + 1 ∨ 64 ≤ (recent (2 ^ 20) s.el g.rejTimes).length + 1 →
      ∃ t, exec (.guyAck b up line true) s = .next t ∧ (t.guy k).st = 2 ∧ (t.guy k).buf = [] ∧ (t.guy k).wait = [] ∧
        t.guys.dirs = s.guys.dirs ∧
        (∀ j js, (s.guysIn k 0).filter (fun j => decide (j ≠ k)) = j :: js →
          t.guy j = { s.guy j with wait := (s.guy j).wait ++ (w :: r ++ g.wait).map (fun x => { x with rejects := 0 }) } ∧
          (∀ i, i ≠ k → i ≠ j → t.guy i = s.guy i)))) ∧
  (∀ (b line : Nat) (up : Bool) (x : GuySend) (got : GuyGot) (s : State), s.alive = true → s.guyOk b line = true →
    let k := guyKey b up line
    let g := s.guy k
    g.st = 0 → x.word.length = 32 → got.bytes.length = 32 →
    (s.guyNext k x.xfer x.word x.last = none → exec (.guyLineWordReceived b up line x got) s = .next s) ∧
    (∀ w new, s.guyNext k x.xfer x.word x.last = some (w, new) →
      let u := s.guySend k w new
      (u.guy k = (if g.again ≠ 0 then { g with again := g.again - 1 } else { g with buf := g.buf ++ [w], wait := g.wait.drop 1 })) ∧
      (∀ j, j ≠ k → u.guy j = s.guy j) ∧ u = { s with guys := u.guys } ∧
      (g.skipping = true → exec (.guyLineWordReceived b up line x got) s = .next u) ∧
      (g.skipping = false → guyParOk got.bytes got.par = true →
        exec (.guyLineWordReceived b up line x got) s =
          .next (u.modGuyDir (k / 100) (fun d => d.take { w with word := got.bytes }))) ∧
      (g.skipping = false → guyParOk got.bytes got.par = false →
        exec (.guyLineWordReceived b up line x got) s = .next (u.modGuy k (fun g => { g with skipping := true })))) ∧
    (let d := s.guyDir (k / 100)
      let f := tget {} d.xfers x.xfer
      g.again = 0 → g.buf.length < 16 → g.wait = [] → f.fin = false → f.held = [] → f.sent = f.dlv → g.skipping = false →
      guyParOk got.bytes got.par = true →
      ∃ t, exec (.guyLineWordReceived b up line x got) s = .next t ∧
        t.guy k = { g with buf := g.buf ++ [⟨x.xfer, f.sent, x.word, x.last, 0⟩] } ∧
        (t.guyDir (k / 100)).out = d.out ++ [⟨x.xfer, f.sent, got.bytes, x.last, 0⟩] ∧
        tget {} (t.guyDir (k / 100)).xfers x.xfer = { f with sent := f.sent + 1, fin := x.last, dlv := f.dlv + 1 })) ∧
  (∀ (b line : Nat) (up : Bool) (failing : List Nat) (s : State), s.alive = true → s.guyOk b line = true →
    let k := guyKey b up line
    let g := s.guy k
    let gs := ((failing.filter (fun w => decide (w < 268))).eraseDups).map wireGroup
    let dead := (failing.filter (fun w => decide (268 ≤ w))).map (· - 268)
    let fit := gs.Nodup ∧ (∀ x ∈ gs, x ∉ g.groups) ∧ ∀ x ∈ dead, x ∉ g.groups ++ gs
    g.st = 2 →
    (fit →
      ∃ t, exec (.guyLineTestDone b up line failing) s = .next t ∧ t.guy k = { g with st := 0, groups := g.groups ++ gs } ∧
        (∀ j, j ≠ k → t.guy j = s.guy j) ∧ t.ctxs = s.ctxs ∧ (gs = [] → t = { s with guys := t.guys })) ∧
    (¬ fit →
      ∃ t, exec (.guyLineTestDone b up line failing) s = .next t ∧ t.guy k = { g with st := 3 } ∧
        (s.guysIn k 1 = [] → ∀ j, j ≠ k → t.guy j = s.guy j) ∧
        (∀ j js, s.guysIn k 1 = j :: js → t.guy j = { s.guy j with st := 0 } ∧
          (∀ i, i ≠ k → i ≠ j → t.guy i = s.guy i))))

/-- LINK_FLIT_ACCEPT and CONTROL_FLIT on a port that is up and can take a flit in this tick (R76). A flit that fails a
check of R77 is discarded, and the first discard sets nak (R82). The acknowledgement, nak and credit fields take effect
(`applyFields`, R84, R88, R89; those of a flit that is then discarded too: the model's choice, log entry 173); an
acknowledgement outside the window, and a reserved type, is a protocol error. A sequenced flit that is not the next
expected, of a channel above 6, or of data on a restricted port is discarded; the next expected one is counted, its slot
owed to its channel as a credit, and the discards end (R82, R88); a notice waits to be handled; data of an accepted
version from a present chip are landed (R100, R256), others are dropped, counted and recorded as event 0x13.

HELLO_FLIT: a hello that does not match the link table puts the port in the error state with event 0x11 (R92); one that
matches brings a port up with the neighbour's free slots as credits and a hello in answer, from sequence 0 on a first
bring-up, and from the neighbour's next number otherwise (R91, R92); on a port that is up, the hello's fields take effect
and its membership view is kept (that it does no more is the model's choice, log entry 174). -/
def Obligations.LinkFlitsAndHellos : Prop :=
  (∀ (n : Nat) (x : RxFlit) (s : State), s.Ok → n < 72 → s.canTake n = true → (s.port n).st = 2 →
    let w := s.flitTaken n
    let h := flitHeader x.bytes
    let good := flitOk x.bytes x.par x.err
    (good = false → ∀ c, c = .linkFlitAccept n x ∨ c = .controlFlit n x →
      ∃ t, exec c s = .next t ∧
        t.port n = { s.port n with
          rcvAt := s.el + 1
          nakDue := (s.port n).nakDue || !(s.port n).nakSent } ∧
        (∀ m, m ≠ n → t.port m = s.port m) ∧ t = { s with links := t.links }) ∧
    (good = true → h.ftype = 0 → exec (.linkFlitAccept n x) s = .next w ∧
      (∀ u, w.applyFields n h = some u → exec (.controlFlit n x) s = .next u) ∧
      (w.applyFields n h = none → exec (.controlFlit n x) s = .next (w.linkProto n))) ∧
    (good = true → 4 < h.ftype → exec (.linkFlitAccept n x) s = .next (w.linkProto n)) ∧
    (good = true → 1 ≤ h.ftype → h.ftype ≤ 3 →
      (w.applyFields n h = none → exec (.linkFlitAccept n x) s = .next (w.linkProto n)) ∧
      (∀ u : State, w.applyFields n h = some u →
        (h.seq ≠ (u.port n).rx ∨ 6 < h.vc ∨ (u.port n).restricted = true ∧ h.ftype ≠ 3 →
          exec (.linkFlitAccept n x) s = .next (u.discardFlit n) ∧ ((u.discardFlit n).port n).rx = (u.port n).rx) ∧
        (h.seq = (u.port n).rx → h.vc ≤ 6 → (u.port n).restricted = false ∨ h.ftype = 3 →
          let v := u.modPort n (fun p => { p with
            rx := (p.rx + 1) % 256
            nakSent := false
            ackDue := true
            owed := lset h.vc (p.owed.getD h.vc 0 + 1) p.owed })
          let fits := isUplink v n = true ∨ v.verOk h.mver = true ∧ entState (tget 0 (v.tabFor h.mver) h.src) ≠ 0
          (v.port n).rx = ((u.port n).rx + 1) % 256 ∧ (∀ m, m ≠ n → v.port m = u.port m) ∧
          (h.ftype = 3 → exec (.linkFlitAccept n x) s =
            .next { v with xch := { v.xch with notices := v.xch.notices ++ [(n, flitPayload x.bytes)] } }) ∧
          (h.ftype ≠ 3 → ¬ fits → exec (.linkFlitAccept n x) s = .next ((v.countSat 0x5004C 4 16 1).event 0x13 0 h.src h.mver)) ∧
          (fits → (h.ftype = 1 → exec (.linkFlitAccept n x) s = .next (v.landFlit n h (flitPayload x.bytes))) ∧
            (h.ftype = 2 → exec (.linkFlitAccept n x) s = .next (v.landShort n h (flitPayload x.bytes)))))))) ∧
  (∀ (n : Nat) (x : RxFlit) (s : State), s.Ok → n < 72 → s.canTake n = true → (s.port n).phy = true →
    flitOk x.bytes x.par x.err = true → (flitHeader x.bytes).ftype = 4 → (flitHeader x.bytes).plen = 64 →
    let w := s.flitTaken n
    let h := decHello (flitPayload x.bytes)
    (s.helloOk n h = false →
      ∃ t, exec (.helloFlit n x) s = .next t ∧ t.port n = { s.port n with rcvAt := s.el + 1, st := 6 } ∧
        (∀ m, m ≠ n → t.port m = s.port m) ∧ bit (t.rd 0x20) 2 = true ∧
        t.lnt = (s.eventAt (portPitch n) 0x11 0 n h.chip).lnt ∧ s.KeepsRegs t lntRegs ∧
        t.still = ({ s with links := t.links } : State).still) ∧
    (s.helloOk n h = true → (s.port n).st ≠ 2 →
      ∃ u : State, (u.port n).st = 2 ∧ (u.port n).helloDue = true ∧ (u.port n).peer = some (h.ver, h.digest) ∧
        (∀ v < 7, (u.port n).credit.getD v 0 = min (vcBuf v) (h.free.getD v 0)) ∧
        (∀ m, m ≠ n → u.port m = s.port m) ∧ u = { s with links := u.links } ∧
        ((s.port n).wasUp = false → exec (.helloFlit n x) s = .next u ∧
          (u.port n).tx = 0 ∧ (u.port n).rx = 0 ∧ (u.port n).retry = []) ∧
        ((s.port n).wasUp = true → exec (.helloFlit n x) s = .next (u.resumeFrom n h.rxNext) ∧
          (u.port n).tx = (s.port n).tx ∧ (u.port n).rx = (s.port n).rx ∧ (u.port n).retry = (s.port n).retry)) ∧
    (s.helloOk n h = true → (s.port n).st = 2 →
      (w.applyFields n (flitHeader x.bytes) = none → exec (.helloFlit n x) s = .next (w.linkProto n)) ∧
      (∀ u : State, w.applyFields n (flitHeader x.bytes) = some u →
        exec (.helloFlit n x) s = .next (u.modPort n (fun p => { p with
          peer := some (h.ver, h.digest)
          restricted := p.restricted && !decide (h.ver = s.memb.ver ∧ h.digest = s.memDigest) })))))

/-- LINK_TRANSMIT_SLOT (R90) sends one flit: a flit to be resent (`toResend`) goes before a hello, a hello before a
membership notice (channel 6), that before the other channels, of those in strict-priority mode the first ready one of 0,
1, 3, 2, 4, 5 when none starves, and with none ready a control flit, where an acknowledgement or a credit is owed; else the
port sends nothing. A first transmission takes the next sequence number and a credit, leaves its queue and enters the
retry buffer (R81, R88). -/
def Obligations.TransmitSlotFollowsPriority : Prop :=
  ∀ (n : Nat) (s : State), s.Ok → n < 72 → s.alive = true → (s.port n).usable = true → (s.port n).phy = true →
    (s.port n).sentAt ≤ s.el →
    let p := s.port n
    (∀ i q, p.toResend = some (i, q) → exec (.linkTransmitSlot n) s = .next (s.sendAgain n i q) ∧
      (q.resends + 1 < 8 → (recent (2 ^ 20) s.el p.resTimes).length + 1 < 1024 →
        ∃ t b, exec (.linkTransmitSlot n) s = .next t ∧ t.links.wire = (n, b) :: s.links.wire ∧ (t.port n).tx = p.tx ∧
          (t.port n).queue = p.queue ∧ (t.port n).retry.length = p.retry.length ∧
          (t.port n).rs = (if i + 1 < p.retry.length then some (i + 1) else none) ∧ (∀ m, m ≠ n → t.port m = s.port m))) ∧
    (p.toResend = none → p.helloDue = true →
      ∃ t h, exec (.linkTransmitSlot n) s = .next t ∧ h.ftype = 4 ∧ (t.port n).helloDue = false ∧
        t.links.wire = (n, mkFlit h (encHello (s.helloOf n))) :: s.links.wire ∧
        (t.port n).queue = p.queue ∧ (t.port n).retry = p.retry ∧ (∀ m, m ≠ n → t.port m = s.port m) ∧
        t = { s with links := t.links }) ∧
    (∀ v q r, p.st = 2 → p.toResend = none → p.helloDue = false → p.retry.length < 64 → v ≤ 6 → p.queue.length = 7 →
      p.credit.length = 7 →
      p.queue.getD v [] = q :: r → p.credit.getD v 0 ≠ 0 →
      (v = 6 ∨ v ≠ 6 ∧ p.vcReady 6 = false ∧ p.restricted = false ∧ bit (s.rdMode 0x50000) 1 = false ∧
        (∀ w < 6, s.el < p.ready.getD w 0 + s.rd 0x50008 % 65536) ∧
        [0, 1, 3, 2, 4, 5].find? p.vcReady = some v) →
      ∃ t b q', exec (.linkTransmitSlot n) s = .next t ∧ t.links.wire = (n, b) :: s.links.wire ∧
        (t.port n).tx = (p.tx + 1) % 256 ∧ (t.port n).queue.getD v [] = r ∧ (t.port n).credit.getD v 0 = p.credit.getD v 0 - 1 ∧
        (t.port n).retry = p.retry ++ [q'] ∧ q'.h.seq = p.tx ∧ q'.h.vc = v ∧ q'.pay = q.pay ∧
        (∀ w, w ≠ v → (t.port n).queue.getD w [] = p.queue.getD w [] ∧ (t.port n).credit.getD w 0 = p.credit.getD w 0) ∧
        (∀ m, m ≠ n → t.port m = s.port m) ∧ ∀ a, t.rd a = s.rd a) ∧
    (p.st = 2 → p.toResend = none → p.helloDue = false → (∀ v, p.vcReady v = false) ∨ 64 ≤ p.retry.length →
      (p.ackDue = true ∨ (∃ k ∈ p.owed, k ≠ 0) →
        ∃ t h, exec (.linkTransmitSlot n) s = .next t ∧ h.ftype = 0 ∧ t.links.wire = (n, mkFlit h []) :: s.links.wire ∧
          (t.port n).ackDue = false ∧ (t.port n).queue = p.queue ∧ (t.port n).retry = p.retry ∧
          (∀ m, m ≠ n → t.port m = s.port m) ∧ t = { s with links := t.links }) ∧
      (p.ackDue = false → (∀ k ∈ p.owed, k = 0) → exec (.linkTransmitSlot n) s = .next s))

/-- The link timers of a port that can carry flits: ACK_TIMEOUT starts a resend from the oldest unacknowledged flit (R84);
PHY_UP_RISE and HELLO_TIMER have a hello sent (R91). PHY_DOWN_TIMEOUT (phy_up low for 10,000 ticks with lnk_en high) and
RETRY_BOUND_EXPIRE fail the port: a detection and event 0x10; it carries no more flits; a free spare of its pitch takes
over what it held and its numbers, and with none its direction has one port fewer, which, with no port left, declares the
neighbour's loss (R86, R93, R95). SPARE_TIMEOUT sends what the dead channel holds on other ports (R94).
MEMBER_DISAGREE_TIMEOUT restricts a port whose neighbour's view differs, an uplink excepted (the model's choice, log entry
175; R101). -/
def Obligations.LinkTimersAct : Prop :=
  ∀ (n : Nat) (s : State), s.Ok → n < 72 → s.alive = true → (s.port n).usable = true →
    let p := s.port n
    (p.st = 2 → p.retry ≠ [] → p.rs = none → max p.ackAt p.tmoAt + max 0x40 (s.rd 0x50018 % 65536) ≤ s.el →
      ∃ t, exec (.ackTimeout n) s = .next t ∧ t.port n = { p with rs := some 0, tmoAt := s.el } ∧
        (∀ m, m ≠ n → t.port m = s.port m) ∧ t = { s with links := t.links }) ∧
    (∃ t, exec (.phyUpRise n) s = .next t ∧
      t.port n = { p with phy := true, phyAt := s.el, st := 1, owed := List.replicate 7 0, helloDue := true,
                          helloGot := false, helloAt := s.el } ∧
      (∀ m, m ≠ n → t.port m = s.port m) ∧ t = { s with links := t.links }) ∧
    (p.phy = true → p.st = 1 ∨ p.st = 6 → p.helloAt + 1000 ≤ s.el →
      ∃ t, exec (.helloTimer n) s = .next t ∧ t.port n = { p with helloDue := true, helloAt := s.el } ∧
        (∀ m, m ≠ n → t.port m = s.port m) ∧ t = { s with links := t.links }) ∧
    (∀ x k, (∃ low, x = .phyDownTimeout ⟨n, low⟩ ∧ k = 4 ∧ 10000 ≤ low ∧ max p.phyAt p.enAt + low ≤ s.el) ∨
        x = .retryBoundExpire n ∧ k = 0 ∧ p.retry ≠ [] ∧ p.ackAt + 16384 ≤ s.el →
      exec x s = .next (((s.detect).eventAt (portPitch n) 0x10 0 n k).linkDown n) ∧
      ∃ t, exec x s = .next t ∧ (t.port n).usable = false ∧
        (∀ m, n < 64 → s.freeSpare (portPitch n) = some m →
          (t.port n).st = 4 ∧ t.port m = (s.port m).takeOver p (indexOf n) s.el ∧
          (∀ d, d ≠ n → d ≠ m → t.port d = s.port d) ∧ t.memb = s.memb ∧ t.ctxs = s.ctxs) ∧
        (64 ≤ n ∨ s.freeSpare (portPitch n) = none →
          (t.port n).steer = 31 ∧
          ∀ d, s.portDir n = some d → d < 6 → (∀ m < 72, m ≠ n → s.portDir m = some d → (s.port m).st ≠ 2 ∨ (s.port m).iso = true) →
            (s.linkEnt n).chip ∈ t.memb.lost)) ∧
    (64 ≤ n → p.st = 1 → p.held.flatMap Prod.snd ≠ [] → p.failAt + s.rd 0x5001C ≤ s.el → ∀ d, s.portDir n = some d →
      s.workPorts d ≠ [] →
      ∃ t, exec (.spareTimeout n) s = .next t ∧ t.port n = p.empty) ∧
    (∀ v d, p.peer = some (v, d) → p.st = 2 → isUplink s n = false → p.restricted = false →
      s.memb.goneLive + 10000 ≤ s.el → v ≠ s.memb.ver ∨ d ≠ s.memDigest →
      ∃ t, exec (.memberDisagreeTimeout n) s = .next t ∧ t.port n = { p with restricted := true } ∧
        bit (t.rd 0x20) 2 = true ∧ (∀ m, m ≠ n → t.port m = s.port m) ∧ s.KeepsRegs t [0x20] ∧
        t = { s with regs := t.regs, links := t.links })

/-- QUERY_WRITE_RESPONSE: once the record of a start or of a refused step has its response, the answer is due ASK_LEAD
ticks later; after the record of a done or cancelled step the context has no step any more, a done one's epoch is no longer
tracked, and the answer is due the lead of that step's GO later (`leadOf`; R105, R123 to R125).

ASK_DEADLINE, ASK_REREAD_TICK and ASK_RETRY_TIMER have the 64 bytes of the answer half read; grace runs from the
deadline or the re-read tick (R125 to R127). Before that tick nothing changes; a retry comes ASK_RETRY ticks after the read before it. -/
def Obligations.QueriesAndAnswerReads : Prop :=
  (∀ (c : Nat) (d : MemDone) (s u : State), s.alive = true → s.takeDone c .query = some (d, u) → (s.ctx c).tdown = false →
    (s.ctx c).st = .asking ∨ (s.ctx c).st = .fetching ∨ (s.ctx c).st = .running →
    ((s.ctx c).ask.pend ≠ 1 → (s.ctx c).ask.pend ≠ 4 →
      ∃ t, exec (.queryWriteResponse c) s = .next t ∧
        t.ctx c = { s.ctx c with
          st := .asking
          ask := { (s.ctx c).ask with pend := 0, set_ := true, abs := false, due := s.el + s.page c 0x28 } } ∧
        (∀ e, e ≠ c → t.ctx e = s.ctx e) ∧ t.mem.done.length + 1 = s.mem.done.length ∧
        t = { s with ctxs := t.ctxs, mem := t.mem }) ∧
    (∀ st, (s.ctx c).ask.pend = 1 ∨ (s.ctx c).ask.pend = 4 → s.step? c = some st →
      ∃ t, exec (.queryWriteResponse c) s = .next t ∧ (t.ctx c).step = none ∧ (t.ctx c).st = .asking ∧
        (t.ctx c).ask.set_ = true ∧ (t.ctx c).ask.due = s.el + s.leadOf c ∧
        (t.ctx c).tracked = (if (s.ctx c).ask.pend = 1 then (s.ctx c).tracked.filter (fun e => decide (e ≠ st.epoch))
          else (s.ctx c).tracked))) ∧
  (∀ (c : Nat) (x : Instr) (s : State), s.alive = true →
    let rd := readReq c 1 (s.askAddr c (s.page c 0x0C) + 64) 64 ⟨.answer, 0⟩
    ((x = .askDeadline c ∧ (s.ctx c).st = .asking ∨ x = .askRereadTick c ∧ (s.ctx c).st = .waiting) →
      (s.askDue (s.ctx c) = true →
        ∃ t, exec x s = .next t ∧ (t.ctx c).ask.came = some s.el ∧ (t.ctx c).ask.reading = true ∧
          (t.ctx c).st = (s.ctx c).st ∧ (∀ e, e ≠ c → t.ctx e = s.ctx e) ∧ t.mem.wait = s.mem.wait ++ [{ rd with id := s.mem.nextId }] ∧
          t = { s with ctxs := t.ctxs, mem := { s.mem with wait := t.mem.wait, nextId := s.mem.nextId + 1 } }) ∧
      (s.askDue (s.ctx c) = false → exec x s = .next s)) ∧
    (x = .askRetryTimer c → (s.ctx c).active = true → (s.ctx c).ask.set_ = true → (s.ctx c).ask.came.isSome = true →
      (s.ctx c).ask.reading = false → (s.ctx c).ask.retry ≤ s.el →
      ∃ t, exec x s = .next t ∧ t.ctx c = { s.ctx c with
          ask := { (s.ctx c).ask with reading := true, retry := s.el + s.rdMin 0x18024 1 } } ∧
        (∀ e, e ≠ c → t.ctx e = s.ctx e) ∧ t.mem.wait = s.mem.wait ++ [{ rd with id := s.mem.nextId }] ∧
        t = { s with ctxs := t.ctxs, mem := { s.mem with wait := t.mem.wait, nextId := s.mem.nextId + 1 } }))

/-- ANSWER_READ takes a valid answer's verb: GO makes the context Ready with the answer's descriptor, lead and tick, WAIT
keeps it waiting for the re-read tick, STOP stops it; an answer half that is no answer to the present query is read again
later, and the answer counts as late. ASK_GRACE_EXPIRE tears the context down with code 0x06 (R125 to R127). -/
def Obligations.AnswerVerbTakesEffect : Prop :=
  (∀ (c : Nat) (d : MemDone) (s u : State), s.alive = true → s.takeDone c .answer = some (d, u) →
    (s.ctx c).active = true → (s.ctx c).ask.reading = true →
    let a := parseAnswer d.data
    ∃ t, exec (.answerRead c) s = .next t ∧
      (s.answerOk c d.data = true →
        (a.verb = 1 → (t.ctx c).st = .ready ∧ (t.ctx c).go = ⟨a.descIndex, a.lead, a.at_, s.now⟩ ∧
          (t.ctx c).ask.set_ = false) ∧
        (a.verb = 2 → (t.ctx c).st = .waiting ∧ (t.ctx c).ask.rev = some a.rev ∧ (t.ctx c).ask.set_ = true ∧
          (s.now < a.at_ → (t.ctx c).ask.abs = true ∧ (t.ctx c).ask.due = a.at_) ∧
          (a.at_ ≤ s.now → (t.ctx c).ask.abs = false ∧ (t.ctx c).ask.due = s.el + s.rdMin 0x18024 1)) ∧
        (a.verb = 3 → (t.ctx c).st = .stopped)) ∧
      (s.answerOk c d.data = false →
        t.ctx c = { s.ctx c with ask := { (s.ctx c).ask with reading := false, late := true } }) ∧
      (∀ e, e ≠ c → t.ctx e = s.ctx e) ∧ s.KeepsRegs t (0xF000C :: lntRegs) ∧
      t.still = ({ s with ctxs := t.ctxs, mem := t.mem } : State).still) ∧
  (∀ (c k : Nat) (s : State), s.alive = true → c ≠ 0 → (s.ctx c).active = true → (s.ctx c).ask.set_ = true →
    (s.ctx c).ask.came = some k → k + s.rd 0x18028 ≤ s.el →
    ∃ t, exec (.askGraceExpire c) s = .next t ∧ (t.ctx c).fault = 0x06 ∧ (t.ctx c).tdown = true ∧ (t.ctx c).step = none ∧
      (t.ctx c).key = 0#64)

/-- DESCRIPTOR_FETCHED (R116): a descriptor that fails its check is fetched once more, and refused with reason 0x01 the
second time; a failing check that refuses the step has a refused-step record of its reason requested; one that is a fault
tears the context down with its code; a descriptor that passes waits for its acceptance, for its epoch too when that is
still tracked. -/
def Obligations.DescriptorIsChecked : Prop :=
  ∀ (c : Nat) (hv : HostView) (m : MemDone) (s u : State), s.alive = true → s.takeDone c .desc = some (m, u) →
    (s.ctx c).st = .fetching →
    let raw := m.data.take 256
    (crcOk 256 raw = false → m.why.idx = 0 →
      ∃ t, exec (.descriptorFetched c hv) s = .next t ∧
        t.mem.wait = s.mem.wait ++ [{ readReq c 1 (s.descAddr c) 256 ⟨.desc, 1⟩ with id := s.mem.nextId }] ∧
        t = { s with mem := t.mem }) ∧
    (∀ r, crcOk 256 raw = false ∧ m.why.idx ≠ 0 ∧ r = 0x01 ∨ crcOk 256 raw = true ∧ u.checkDesc c hv raw = .refused r →
      ∃ t q id, exec (.descriptorFetched c hv) s = .next t ∧ (t.ctx c).ask.pend = 3 ∧ (t.ctx c).cand = none ∧
        (t.ctx c).vframe = none ∧ q.qkind = 3 ∧ q.reason = r ∧ q.seq = (s.page c 0x0C + 1) % 2 ^ 32 ∧
        { writeReq c 1 (s.askAddr c q.seq) (encQuery q) ⟨.query, q.seq⟩ with id := id } ∈ t.mem.wait) ∧
    (∀ k, crcOk 256 raw = true → u.checkDesc c hv raw = .fault k → c ≠ 0 → (s.ctx c).active = true →
      ∃ t, exec (.descriptorFetched c hv) s = .next t ∧ (t.ctx c).fault = k ∧ (t.ctx c).tdown = true) ∧
    (∀ st, crcOk 256 raw = true → u.checkDesc c hv raw = .passed st →
      ∃ t, exec (.descriptorFetched c hv) s = .next t ∧ (t.ctx c).st = .fetching ∧
        (t.ctx c).waitEpoch = (s.ctx c).tracked.contains (s.ctx c).nextEpoch ∧
        (∃ st', (t.ctx c).cand = some st' ∧ st'.desc = st.desc ∧ st'.chains = st.chains ∧ st'.bind = st.bind) ∧
        (∀ e, e ≠ c → t.ctx e = s.ctx e) ∧ (∀ a, t.rd a = s.rd a))

/-- STEP_ACCEPT of a checked step whose epoch is free (R117). Where the residency or router directory of its model has
changed since the checks, they are made again and decide (R144; DEDUCED, log entry 179). Otherwise: a group that is not
valid is the collective-group fault (R277), a layer table that does not check the routing-table fault (R177, R178), a stats
range outside the fences the fence fault; with none of these the step runs: it takes the next epoch, which is tracked, and
binds to the live membership and table set, the group word, the layer table and the weight version as they stand (R98,
R117, R178, R277), and what waited for its epoch goes on.

FRAME_SWITCH_DONE: a frame's state whose switch time is over, and whose saving and restoring are done, has moved, and the
step in the frame goes on; with none such nothing changes (R386). -/
def Obligations.StepAcceptBinds : Prop :=
  (∀ (c : Nat) (hv : HostView) (st : Step) (s : State), s.alive = true → (s.ctx c).cand = some st →
    (s.ctx c).active = true → (s.ctx c).st = .fetching → (s.ctx c).tracked.contains (s.ctx c).nextEpoch = false → c ≠ 0 →
    let d := st.desc
    let e := (s.ctx c).nextEpoch
    let valid := (mkGrp (s.groupWord d.group) s.torus s.own s.memb.live).valid
    (tget 0 s.ktl.gens d.model ≠ st.bind.gen →
      (∀ r, s.checkDesc c hv st.raw = .refused r →
        exec (.stepAccept c hv) s = .next ((s.chargeChecks c hv d).refuseStep c r d.cookie)) ∧
      (∀ k, s.checkDesc c hv st.raw = .fault k →
        exec (.stepAccept c hv) s = .next ((s.chargeChecks c hv d).ctxFault c k)) ∧
      (∀ st', s.checkDesc c hv st.raw = .passed st' →
        exec (.stepAccept c hv) s = .next ((s.chargeChecks c hv d).acceptGo c hv { st' with cnt := st.cnt }))) ∧
    (tget 0 s.ktl.gens d.model = st.bind.gen → hv.fault = 0 →
      (d.tokens = true → valid = false →
        ∃ t, exec (.stepAccept c hv) s = .next t ∧ (t.ctx c).fault = 0x12 ∧ (t.ctx c).tdown = true ∧ (t.ctx c).step = none) ∧
      (d.tokens = false ∨ valid = true →
        let tab := match s.tabOf c d with
          | some t => if t.table.nExp = st.bind.dir.nExp then some t.table else none
          | none => s.bindTable hv d st.bind.dir
        let learns := (d.scores || decide (d.kind = 4)) && st.bind.learn.isSome
        let bal := if learns then readBal hv st.bind.learn st.bind.dir.nExp else none
        (tab = none →
          ∃ t, exec (.stepAccept c hv) s = .next t ∧ (t.ctx c).fault = 0x0A ∧ (t.ctx c).tdown = true ∧ (t.ctx c).step = none) ∧
        (∀ lt, tab = some lt → d.flag 6 = true → s.fenceOk c d.statsAddr (4 * lt.nSlot) rightWr = false →
          ∃ t, exec (.stepAccept c hv) s = .next t ∧ (t.ctx c).fault = 0x05 ∧ (t.ctx c).tdown = true ∧ (t.ctx c).step = none) ∧
        (∀ lt, tab = some lt → d.flag 6 = false ∨ s.fenceOk c d.statsAddr (4 * lt.nSlot) rightWr = true →
          (∀ b, bal = some b → lt.biases = true → d.scores = true → ∀ x ∈ b.bias, isNan32 x = false) →
          ∃ (u : State) (st' : Step),
            (let w := (((u.freeHeld c e).loadImages c).applyAdds c e).fireChains c
            exec (.stepAccept c hv) s = .next ((w.frames (w.ctx c).tent).heldCheck c)) ∧
            (u.ctx c).st = .running ∧ (u.ctx c).step = some st' ∧ (u.ctx c).epoch = e ∧
            (u.ctx c).seqNo = (s.ctx c).seqNo + 1 ∧ (u.ctx c).counters = [] ∧ (u.ctx c).cand = none ∧
            (u.ctx c).tracked = (s.ctx c).tracked ++ [e] ∧ st'.desc = d ∧
            st'.epoch = e ∧ st'.frame = (s.ctx c).vframe ∧ st'.bind.mver = s.memb.ver ∧ st'.bind.tver = s.stn.ver ∧
            st'.bind.tab = s.memb.live ∧ st'.bind.word = s.groupWord d.group ∧ st'.bind.table = lt ∧
            st'.bind.wver = s.rd (wverAt d.model) ∧ (∀ f, f ≠ c → u.ctx f = s.ctx f) ∧ (∀ a, u.rd a = s.rd a))))) ∧
  (∀ (n : Nat) (s : State), s.alive = true →
    let moved := s.stepsWhere (fun c x st => decide (x.tent = n) && st.moving && decide (st.swEnd ≤ s.el) &&
      !(s.unitOut st.victim .saveOut) && !(s.unitOut c .saveRead))
    (∀ c r, moved = c :: r → s.Ok →
      ∃ t st, exec (.frameSwitchDone n) s = .next t ∧ (s.ctx c).step = some st ∧
        t.ctx c = { s.ctx c with step := some { st with moving := false } } ∧
        (∀ d, d ≠ c → t.ctx d = s.ctx d) ∧ t = { s with ctxs := t.ctxs }) ∧
    (moved = [] → exec (.frameSwitchDone n) s = .next s))

/-- STEP_LAUNCH starts the accepted step: it counts as launched at this tick, its counter 0 rises, and it goes on by its
kind (R114, R118, R268); while its launch is not due (`launchDue`), before its launch tick or where the rota does not let it
launch (R111), nothing changes, and a memory fault of its first reads faults the context.

STEP_DONE (R123): with all work of a step complete, its results that need not come last are written; once all of its writes
have their responses, the done record with the next ASK_SEQ is requested and the step is over. -/
def Obligations.StepLaunchAndDone : Prop :=
  (∀ (c : Nat) (hv : HostView) (st : Step) (s : State), s.step? c = some st →
    (s.launchDue c st = true → hv.fault = 0 →
      ∃ u : State, exec (.stepLaunch c hv) s =
          .next ((((u.launchExits c st hv).bump c 0 1)).launchWork c { st with launched := true } hv) ∧
        (∃ st', u.step? c = some st' ∧ st'.launched = true ∧ st'.cnt.tLaunch = s.now ∧ st'.cnt.elLaunch = s.el ∧
          st'.desc = st.desc ∧ st'.bind = st.bind) ∧
        (∀ d, d ≠ c → u.ctx d = s.ctx d) ∧ s.KeepsRegs u (0xF000C :: lntRegs) ∧
        u.still = ({ s with ctxs := u.ctxs } : State).still) ∧
    (s.launchDue c st = true → hv.fault ≠ 0 → exec (.stepLaunch c hv) s = .next (s.ctxFault c hv.fault)) ∧
    (s.launchDue c st = false → exec (.stepLaunch c hv) s = .next s)) ∧
  (∀ (c : Nat) (hv : HostView) (st : Step) (s : State), s.step? c = some st → s.on = true → (s.ctx c).active = true →
    s.workDone c st = true →
    (st.por.wrote = 0 → hv.fault = 0 → exec (.stepDone c hv) s = .next (State.endGo c 2 (s.writeBack c st hv))) ∧
    (st.por.wrote = 1 → s.writesOut c = false → exec (.stepDone c hv) s = .next (State.endGo c 1 (s.writeLast c st))) ∧
    (st.por.wrote ≠ 0 → s.writesOut c = true → exec (.stepDone c hv) s = .next s) ∧
    (s.writesOut c = false → st.por.wrote = 2 → st.samp.plock = false →
      ∃ t q id, exec (.stepDone c hv) s = .next t ∧ (t.ctx c).ask.pend = 1 ∧ q.qkind = 1 ∧ q.epoch = st.epoch ∧
        q.seq = (s.page c 0x0C + 1) % 2 ^ 32 ∧ q.cookie = st.desc.cookie ∧ q.mver = st.bind.mver ∧ q.tver = st.bind.tver ∧
        { writeReq c 1 (s.askAddr c q.seq) (encQuery q) ⟨.query, q.seq⟩ with id := id } ∈ t.mem.wait ∧
        (∃ st', t.step? c = some st' ∧ st'.ended = true) ∧ (∀ d, d ≠ c → t.ctx d = s.ctx d)))

/-- CHAIN_PUT and CHAIN_GET: the fired chain takes an agent; its data, cut into chunks of at most 60,352 raw bytes (log
entry 59), or its request, wait for their chunks to the peer; an empty transfer completes at once (R267, R270).

CHAIN_COLLECTIVE issues an instance of its descriptor's group (`openColl`), and faults with 0x08 on a descriptor that does not check
and with 0x12 on a group that is not valid; CHAIN_COUNTER_ADD sends its message to the peer, CHAIN_CUE its word to the host
cores (R270, R277, R281). -/
def Obligations.ChainsRun : Prop :=
  (∀ (c i : Nat) (hv : HostView) (st : Step) (ch : Chn) (s : State),
    (s.chainGo c i 1 = some (st, ch) → hv.fault = 0 → ch.c.len ≠ 0 →
      ∃ t, exec (.chainPut c i hv) s = .next t ∧
        t.xch.xfers = s.xch.xfers ++ cutPieces ⟨c, st.epoch, ch.c.peer, false, 4, vcOfCls ch.c.cls false, ch.c.cls, 0, 0, [], i⟩
          ch.c.raddr (hv1 hv ch.c.laddr ch.c.len) ∧
        (c, i) ∉ t.xch.fired ∧ (∃ st' ch', t.step? c = some st' ∧ st'.chains[i]? = some ch' ∧ ch'.st = 2 ∧ ch'.left = ch.c.len) ∧
        (∀ d, d ≠ c → t.ctx d = s.ctx d) ∧ s.KeepsRegs t [] ∧
        t = { s with ctxs := t.ctxs, pitches := t.pitches, xch := { s.xch with fired := t.xch.fired, xfers := t.xch.xfers } }) ∧
    (s.chainGo c i 1 = some (st, ch) → ch.c.len = 0 →
      exec (.chainPut c i hv) s = .next ((s.chainStart c i 0).chainDone c i)) ∧
    (s.chainGo c i 2 = some (st, ch) → ch.c.len = 0 →
      exec (.chainGet c i) s = .next ((s.chainStart c i 0).chainDone c i)) ∧
    (s.chainGo c i 2 = some (st, ch) → ch.c.len ≠ 0 →
      ∃ t, exec (.chainGet c i) s = .next t ∧
        t.xch.xfers = s.xch.xfers ++ [⟨c, st.epoch, ch.c.peer, false, 5, vcOfCls ch.c.cls false, ch.c.cls, ch.c.raddr, 0,
          getReq ch.c.len ch.c.laddr, 256⟩] ∧
        (c, i) ∉ t.xch.fired ∧ (∃ st' ch', t.step? c = some st' ∧ st'.chains[i]? = some ch' ∧ ch'.st = 2 ∧ ch'.left = ch.c.len) ∧
        (∀ d, d ≠ c → t.ctx d = s.ctx d) ∧ s.KeepsRegs t [] ∧
        t = { s with ctxs := t.ctxs, xch := { s.xch with fired := t.xch.fired, xfers := t.xch.xfers } }) ∧
    (∀ op, op = 1 ∨ op = 2 ∨ op = 3 ∨ op = 4 ∨ op = 5 → s.chainGo c i op = none →
      exec (if op = 1 then .chainPut c i hv else if op = 2 then .chainGet c i else if op = 3 then .chainCollective c i hv
        else if op = 4 then .chainCounterAdd c i else .chainCue c i hv) s = .next s)) ∧
  (∀ (c i : Nat) (hv : HostView) (st : Step) (ch : Chn) (s : State), c ≠ 0 →
    (s.chainGo c i 3 = some (st, ch) → hv.fault = 0 →
      (readChecked hv ch.c.raddr 32 = none →
        ∃ t, exec (.chainCollective c i hv) s = .next t ∧ (t.ctx c).fault = 0x08 ∧ (t.ctx c).tdown = true) ∧
      (∀ b, readChecked hv ch.c.raddr 32 = some b →
        let cd := parseColl b
        let ok := collGroupOk (mkGrp ch.word s.torus s.own st.bind.tab) cd.up
        (collOk cd = false →
          ∃ t, exec (.chainCollective c i hv) s = .next t ∧ (t.ctx c).fault = 0x08 ∧ (t.ctx c).tdown = true) ∧
        (collOk cd = true → ok = false →
          ∃ t, exec (.chainCollective c i hv) s = .next t ∧ (t.ctx c).fault = 0x12 ∧ (t.ctx c).tdown = true) ∧
        (collOk cd = true → ok = true →
          ∃ u : State, exec (.chainCollective c i hv) s = .next (u.openColl c (collInst i ch cd st.bind.mver
              (hv1 hv cd.inAddr (if cd.cop = 1 then 0 else cd.n * tyBytes cd.ity)))) ∧
            (∃ st' ch', u.step? c = some st' ∧ st'.chains[i]? = some ch' ∧ ch'.st = 2) ∧
            (∀ d, d ≠ c → u.ctx d = s.ctx d) ∧ s.KeepsRegs u [] ∧ u.xch.shorts = s.xch.shorts ∧ u.mem = s.mem))) ∧
    (s.chainGo c i 4 = some (st, ch) →
      (ch.c.peer ≠ s.glb.chip →
        ∃ u : State, exec (.chainCounterAdd c i) s =
            .next (u.sendShort c st.epoch ch.c.peer st.bind.mver (addMsg i ch.c) (i + 1)) ∧
          (∃ st' ch', u.step? c = some st' ∧ st'.chains[i]? = some ch' ∧ ch'.st = 2) ∧
          u = { s with ctxs := u.ctxs, xch := { s.xch with fired := u.xch.fired } }) ∧
      (ch.c.peer = s.glb.chip →
        ∃ u : State, exec (.chainCounterAdd c i) s = .next (u.chainDone c i) ∧
          u.xch.shorts = s.xch.shorts ++ [⟨s.glb.chip, c, st.epoch, addMsg i ch.c⟩] ∧
          (∃ st' ch', u.step? c = some st' ∧ st'.chains[i]? = some ch' ∧ ch'.st = 2))) ∧
    (s.chainGo c i 5 = some (st, ch) → hv.fault = 0 →
      let a := s.firstPt (s.allocPitch c)
      ∃ t, exec (.chainCue c i hv) s = .next t ∧
        ((s.pt a).down = false →
          t.core.sent = s.core.sent ++ [⟨a, cueBytes c st.epoch a i (hv1 hv ch.c.laddr 36)⟩]) ∧
        (∃ st' ch', t.step? c = some st' ∧ st'.chains[i]? = some ch' ∧ ch'.st = 2) ∧
        (∀ d, d ≠ c → t.ctx d = s.ctx d) ∧ s.KeepsRegs t [] ∧
        t = { s with ctxs := t.ctxs, pitches := t.pitches, core := t.core, xch := { s.xch with fired := t.xch.fired } }))

/-- CHAIN_STALL_TIMEOUT tears the context down with code 0x07 (R121). COUNTER_ADD raises the counter of the running step of
its epoch, waits for the context's next epoch, and is dropped and counted otherwise (R271). -/
def Obligations.CounterAddsAndStalls : Prop :=
  (∀ (c : Nat) (s : State), c ≠ 0 → s.on = true → (s.ctx c).active = true → s.chainStalled c = true →
    ∃ t, exec (.chainStallTimeout c) s = .next t ∧ (t.ctx c).fault = 0x07 ∧ (t.ctx c).tdown = true ∧ (t.ctx c).step = none) ∧
  (∀ (m : Short) (s u : State), s.on = true → s.takeShort 7 = some (m, u) →
    let ctr := fld (m.bytes.drop 16) 0 1 % 32
    let inc := fld (m.bytes.drop 16) 4 4
    ((s.ctx m.ctx).active = true → (s.runs m.ctx m.epoch).isSome = true →
      ∃ v : State, exec .counterAdd s = .next (v.fireChains m.ctx) ∧
        (v.ctx m.ctx).ctr ctr = ((s.ctx m.ctx).ctr ctr + inc) % 2 ^ 32 ∧
        (∀ k, k ≠ ctr → (v.ctx m.ctx).ctr k = (s.ctx m.ctx).ctr k) ∧ (∀ d, d ≠ m.ctx → v.ctx d = s.ctx d) ∧
        v = { u with ctxs := v.ctxs }) ∧
    ((s.ctx m.ctx).active = true → (s.runs m.ctx m.epoch).isSome = false → m.epoch = (s.ctx m.ctx).nextEpoch →
      s.xch.pend.length < 1024 →
      ∃ t, exec .counterAdd s = .next t ∧ t.xch.pend = s.xch.pend ++ [⟨m.ctx, m.epoch, ctr, inc⟩] ∧ t.ctxs = s.ctxs ∧
        t = { u with xch := t.xch }) ∧
    ((s.ctx m.ctx).active = false ∨ (s.runs m.ctx m.epoch).isSome = false ∧
        (m.epoch ≠ (s.ctx m.ctx).nextEpoch ∨ 1024 ≤ s.xch.pend.length) →
      ∃ t, exec .counterAdd s = .next t ∧ bits (t.rd 0x50014) 16 16 = min (bits (u.rd 0x50014) 16 16 + 1) (2 ^ 16 - 1) ∧
        t = { u with regs := t.regs }))

/-- PUT_DATA_CHUNK and BACKGROUND_COPY_CHUNK: raw data that the context may take and its fence allows are written to the
address of the chunk, in the class of its channel (background data for context 0, in class 3), and are noted for their
completion, which a put has once for all its chunks (R270, R445, R447, R491; whole lines in requests of at most 64 lines);
data outside the fence are the fence fault 0x05; data for a context that takes none are dropped.

REQUEST_CHUNK of a get reads the range, inside the fence, and queues it for the asker; one of a weight pull has the image
supplied (`pullAnswer`), and is the weight-version fault 0x11 where the owner knows no step of that epoch (R265).
GET_DATA_CHUNK writes the data of a running get and lowers what it still awaits; data of no running get are dropped
(R265, R270). -/
def Obligations.ChainTrafficAtThePeer : Prop :=
  ((∀ (l : Landed) (s u : State), s.on = true → s.takeChunkOf 4 = some (l, u) →
    let reqs (id : Nat) := numbered s.mem.nextId
      (writeReqs l.ctx (clsOfVc l.vc) ⟨.putOut, id⟩ (ceilDiv l.data.length 4096) l.ch.addr l.data)
    let r := s.putRef l
    let mine (p : RxPut) : Bool :=
      decide (p.ctx = l.ctx ∧ p.epoch = l.epoch ∧ p.src = l.src ∧ p.idx = r.1 ∧ p.up = l.up)
    (s.takes l.ctx = true → s.fenceOk l.ctx l.ch.addr l.data.length rightRput = true →
      (l.ctx = 0 → exec .putDataChunk s = .next (u.rxWrite l 0 (clsOfVc l.vc) 256)) ∧
      (l.ctx ≠ 0 → exec .putDataChunk s = .next (u.putWrite l)) ∧
      (l.ch.addr % 64 = 0 → l.data.length % 64 = 0 →
        ∃ t, exec .putDataChunk s = .next t ∧ t.xch.inbox.length + 1 = s.xch.inbox.length ∧
          t = { s with xch := t.xch, mem := { s.mem with wait := t.mem.wait, nextId := t.mem.nextId } } ∧
          (l.ctx = 0 → t.mem.wait = s.mem.wait ++ reqs s.xch.nextPut ∧
            t.xch.rxPuts = s.xch.rxPuts ++ [⟨s.xch.nextPut, 0, l.epoch, l.src, 256, l.up, l.data.length, l.data.length⟩]) ∧
          (l.ctx ≠ 0 → s.xch.rxPuts.find? mine = none → t.mem.wait = s.mem.wait ++ reqs s.xch.nextPut ∧
            t.xch.rxPuts = s.xch.rxPuts ++ [⟨s.xch.nextPut, l.ctx, l.epoch, l.src, r.1, l.up, l.data.length, r.2⟩]) ∧
          (∀ p, l.ctx ≠ 0 → s.xch.rxPuts.find? mine = some p → t.mem.wait = s.mem.wait ++ reqs p.id ∧
            t.xch.rxPuts = s.xch.rxPuts.map (fun q => if q = p then { p with got := p.got + l.data.length } else q)))) ∧
    (s.takes l.ctx = false → exec .putDataChunk s = .next u) ∧
    (s.takes l.ctx = true → l.ctx ≠ 0 → s.fenceOk l.ctx l.ch.addr l.data.length rightRput = false →
      ∃ t, exec .putDataChunk s = .next t ∧ (t.ctx l.ctx).fault = 0x05 ∧ (t.ctx l.ctx).tdown = true)) ∧
  (∀ (l : Landed) (s u : State), s.on = true → s.takeChunkOf 8 = some (l, u) →
    exec .backgroundCopyChunk s = .next (u.rxWrite l 0 3 0xFFFF) ∧
    (l.ch.addr % 64 = 0 → l.data.length % 64 = 0 →
      ∃ t, exec .backgroundCopyChunk s = .next t ∧
        t.mem.wait = s.mem.wait ++ numbered s.mem.nextId
          (writeReqs 0 3 ⟨.putOut, s.xch.nextPut⟩ (ceilDiv l.data.length 4096) l.ch.addr l.data) ∧
        t.xch.rxPuts = s.xch.rxPuts ++ [⟨s.xch.nextPut, 0, l.epoch, l.src, 0xFFFF, l.up, l.data.length, l.data.length⟩] ∧
        t.xch.inbox.length + 1 = s.xch.inbox.length ∧
        t = { s with xch := t.xch, mem := { s.mem with wait := t.mem.wait, nextId := t.mem.nextId } }))) ∧
  ((∀ (hv : HostView) (l : Landed) (s u : State), s.on = true → s.takeChunkOf 5 = some (l, u) → s.takes l.ctx = true →
    let len := fld l.data 4 4
    let cls := clsOfVc l.vc
    (fld l.data 0 1 = 1 → s.fenceOk l.ctx l.ch.addr len rightRget = true → hv.fault = 0 →
      ∃ t, exec (.requestChunk hv) s = .next t ∧
        t.xch.xfers = s.xch.xfers ++ cutPieces ⟨l.ctx, l.epoch, l.src, false, 6, vcOfCls cls true, cls, 0, 0, [], 256⟩
          (fld l.data 8 8) (hv1 hv l.ch.addr len) ∧
        t.xch.inbox.length + 1 = s.xch.inbox.length ∧ (∀ d, d ≠ l.ctx → t.ctx d = s.ctx d) ∧ s.KeepsRegs t [] ∧
        t = { s with ctxs := t.ctxs, pitches := t.pitches, xch := t.xch }) ∧
    (fld l.data 0 1 = 1 → s.fenceOk l.ctx l.ch.addr len rightRget = false → l.ctx ≠ 0 →
      ∃ t, exec (.requestChunk hv) s = .next t ∧ (t.ctx l.ctx).fault = 0x05 ∧ (t.ctx l.ctx).tdown = true) ∧
    (fld l.data 0 1 = 2 → exec (.requestChunk hv) s = .next (u.pullAnswer l hv) ∧
      (l.ctx ≠ 0 → (∀ p ∈ (s.ctx l.ctx).past, p.1 ≠ l.epoch) →
        ∃ t, exec (.requestChunk hv) s = .next t ∧ (t.ctx l.ctx).fault = 0x11 ∧ (t.ctx l.ctx).tdown = true))) ∧
  (∀ (l : Landed) (s u : State), s.on = true → s.takeChunkOf 6 = some (l, u) →
    (∀ st i, (s.ctx l.ctx).active = true → s.runs l.ctx l.epoch = some st → st.getOf l = some i →
      ∃ t, exec .getDataChunk s = .next t ∧
        t.mem.wait = s.mem.wait ++ numbered s.mem.nextId
          (writeReqs l.ctx (clsOfVc l.vc) ⟨.getOut, l.epoch * 256 + i⟩ (ceilDiv l.data.length 4096) l.ch.addr l.data) ∧
        (∃ st' ch ch', t.step? l.ctx = some st' ∧ st.chains[i]? = some ch ∧ st'.chains[i]? = some ch' ∧
          ch'.left + l.data.length = ch.left) ∧
        (∀ d, d ≠ l.ctx → t.ctx d = s.ctx d) ∧ s.KeepsRegs t [] ∧
        t = { s with ctxs := t.ctxs, xch := t.xch, mem := { s.mem with wait := t.mem.wait, nextId := t.mem.nextId } }) ∧
    ((s.ctx l.ctx).active = false ∨ s.runs l.ctx l.epoch = none ∨ (∃ st, s.runs l.ctx l.epoch = some st ∧ st.getOf l = none) →
      exec .getDataChunk s = .next u)))

/-- IMAGE_LOAD_DONE (R150): an image that checks and holds no load refusal becomes usable with the bytes read; one whose
check fails is read once more, and is the image fault 0x09 for its loader after that, as a load refusal is at once.

TILE_START: a free core of a tent takes the tile of the first step in the tent's order that has one, when no lower free
core of the tent could take a tile (R142, R168, R379); a streamed tile asks for its lines, in order (R152). TILE_COMPLETE
charges the tile's ticks to its context's account and virtual time and frees the core (R381); a tile of the running step
stores its results, but for a cancelled step and for a tile that reads a load refusal, which is the image fault; a
streamed tile waits for its lines, and one whose copy has gone stores nothing and runs again (R141, R150, R152, R362,
R393). TILE_CHECK_FAIL is a detection; the tile stores nothing and starts again on the core as remapped, or the core is
freed where the step is cancelled or no core is left behind its number (R32). -/
def Obligations.ImagesAndTiles : Prop :=
  (∀ (c p : Nat) (i : Img) (bs : Bytes) (s : State), s.alive = true →
    s.ktl.imgs.find? (fun j => decide (j.loader = c ∧ j.pitch = p) && !j.usable && (s.loadedImage j).isSome) = some i →
    s.loadedImage i = some bs →
    (i.shadow = true ∨ crcN bs = i.icheck →
      (imageBad i.lfmt i.cols i.d32 bs = false →
        ∃ t, exec (.imageLoadDone c p) s = .next t ∧ { i with usable := true, bytes := bs } ∈ t.ktl.imgs ∧
          (∀ j, j.id ≠ i.id → (j ∈ t.ktl.imgs ↔ j ∈ s.ktl.imgs)) ∧ t.ctxs = s.ctxs ∧ t.mem.wait = s.mem.wait ∧
          t = { s with ktl := t.ktl, mem := t.mem }) ∧
      (imageBad i.lfmt i.cols i.d32 bs = true → c ≠ 0 → (s.ctx c).active = true →
        ∃ t, exec (.imageLoadDone c p) s = .next t ∧ (t.ctx c).fault = 0x09 ∧ (t.ctx c).tdown = true)) ∧
    (i.shadow = false → crcN bs ≠ i.icheck →
      (i.tries < 2 →
        ∃ t, exec (.imageLoadDone c p) s = .next t ∧
          { i with id := s.ktl.nextImg, loader := c, tries := 2, usable := false, bytes := [] } ∈ t.ktl.imgs ∧
          s.mem.wait <+: t.mem.wait ∧ t.mem.wait.length = s.mem.wait.length + ceilDiv i.len 4096 ∧ t.ctxs = s.ctxs) ∧
      (2 ≤ i.tries → c ≠ 0 → (s.ctx c).active = true →
        ∃ t, exec (.imageLoadDone c p) s = .next t ∧ (t.ctx c).fault = 0x09 ∧ (t.ctx c).tdown = true))) ∧
  (∀ (k n c kind g cg sl : Nat) (st : Step) (s : State), s.on = true → s.coreFree k = true → s.tentWith k = some n →
    (∀ j ∈ tentCores (s.tentWord n), j < k → s.coreFree j = true → s.tileFor n j = none) →
    s.tileFor n k = some (c, st, kind, g, cg, sl) →
    let r := tget {} (s.startTile k c st kind g cg sl).ktl.cores k
    ∃ t, exec (.tileStart k) s = .next t ∧ tget {} t.ktl.cores k = r ∧
      (r.busy = true ∧ r.ctx = c ∧ r.epoch = st.epoch ∧ r.kind = kind ∧ r.g = g ∧ r.c = cg ∧ r.s = sl ∧ r.start = s.el ∧
        r.id = s.ktl.nextTile ∧ r.wait = r.str) ∧
      (r.str = true ↔ kind ≠ 3 ∧ st.streams (st.tileShadow r) (k / 32) = true) ∧
      t.mem.wait = s.mem.wait ++ (if r.str then numbered s.mem.nextId ((st.tileLines r).map (fun x =>
        readReq c 1 x.2 (lineBytes (if st.tileShadow r then 1 else st.bind.dir.lfmt)) ⟨.lineRead, x.1⟩)) else []) ∧
      (∀ j, j ≠ k → tget {} t.ktl.cores j = tget {} s.ktl.cores j) ∧
      t.step? c = some { st with sc := { st.sc with tiled := true } } ∧ (∀ d, d ≠ c → t.ctx d = s.ctx d) ∧
      t = { s with
        ctxs := t.ctxs
        mem := { s.mem with wait := t.mem.wait, nextId := t.mem.nextId }
        ktl := { s.ktl with cores := t.ktl.cores, imgs := t.ktl.imgs, nextTile := s.ktl.nextTile + 1 } }) ∧
  (∀ (k : Nat) (hv : HostView) (s : State), s.alive = true → (tget {} s.ktl.cores k).busy = true →
    (tget {} s.ktl.cores k).wait = false →
    let r := tget {} s.ktl.cores k
    ∃ u : State, u = { s with ctxs := u.ctxs, pitches := u.pitches, free := u.free } ∧
      (∀ d, d ≠ r.ctx → u.ctx d = s.ctx d) ∧
      u.ctx r.ctx = { s.ctx r.ctx with
        acct := (u.ctx r.ctx).acct
        v := ((s.ctx r.ctx).v + (s.el - r.start) * 65536 / max 1 (s.page r.ctx 4 % 65536)) % 2 ^ 64 } ∧
      tget 0 (u.ctx r.ctx).acct 0 = (tget 0 (s.ctx r.ctx).acct 0 + (s.el - r.start)) % 2 ^ 64 ∧
      (∀ j, tget {} (u.freeCore k).ktl.cores j = if j = k then {} else tget {} s.ktl.cores j) ∧
      ((∀ st, s.step? r.ctx = some st → st.epoch ≠ r.epoch) → exec (.tileComplete k hv) s = .next (u.freeCore k)) ∧
      (∀ st, s.step? r.ctx = some st → st.epoch = r.epoch →
        (st.cancelled = true →
          exec (.tileComplete k hv) s =
            .next (if (u.freeCore k).tilesOf r.ctx = [] then (u.freeCore k).dropFrame r.ctx else u.freeCore k)) ∧
        (st.cancelled = false → r.kind = 3 →
          (hv.fault ≠ 0 → exec (.tileComplete k hv) s = .next ((u.freeCore k).ctxFault r.ctx hv.fault)) ∧
          (hv.fault = 0 →
            exec (.tileComplete k hv) s = .next (((u.freeCore k).storeGrads r.ctx st (k / 32) hv r).passFrame r.ctx))) ∧
        (st.cancelled = false → r.kind ≠ 3 → s.linesHere r.ctx st (k / 32) r = false →
          exec (.tileComplete k hv) s = .next (if r.str then s else (s.freeCore k).passFrame r.ctx)) ∧
        (st.cancelled = false → r.kind ≠ 3 → s.linesHere r.ctx st (k / 32) r = true →
          (s.tileBad r.ctx st (k / 32) r = false →
            exec (.tileComplete k hv) s = .next ((u.storeTile k r.ctx st r).passFrame r.ctx)) ∧
          (s.tileBad r.ctx st (k / 32) r = true →
            exec (.tileComplete k hv) s = .next ((u.freeCore k).ctxFault r.ctx 0x09))))) ∧
  (∀ (k lane : Nat) (spared : Bool) (s : State), k < 128 → s.alive = true → (tget {} s.ktl.cores k).busy = true →
    let r := tget {} s.ktl.cores k
    ∃ t, exec (.tileCheckFail k lane spared) s = .next t ∧
      t.rd 0xC0010 = (s.rd 0xC0010 + 1) % 2 ^ 32 ∧ t.hold = s.hold ∧ t.drain = s.drain ∧
      (s.step? r.ctx = none → tget {} t.ktl.cores k = {}) ∧
      (∀ st, s.step? r.ctx = some st →
        (st.cancelled = true → tget {} t.ktl.cores k = {}) ∧
        (st.cancelled = false → t.coreOk k = true → tget {} t.ktl.cores k = { r with start := s.el } ∧ t.ctxs = s.ctxs) ∧
        (st.cancelled = false → t.coreOk k = false → tget {} t.ktl.cores k = {} ∧
          ∃ st', t.step? r.ctx = some st' ∧ st'.sc = st.sc)))

/-- STORAGE_PARITY_FAIL, by kind, on a pitch that runs. A Caddy row: the tile that read it is abandoned and the image is
loaded again; a staging row of accumulators: the tile is abandoned; a hot record on the only working pitch tears its
context down with code 0x18, on another pitch it is replaced by a copy; a slot of the forwarding pool is dropped and
counted, with its queued flits, as a steeped drop where the chunk is steeped; a drain entry on the only pitch tears its
context down with 0x0E, on another it is replaced; a held entry leaves the steep hold and is counted, and the confirmed
copy it had matched is served in its place; a retry buffer of a port that is not up, with no other port of the direction,
is abandoned and its chunks queued whole on the port; a held piece of a gather half is bad. Each of these is a detection
and takes a spare row (R31, R33, R93, R141, R240, R258, R300, R320, R432). A bank is a detection too: it takes a spare
bank, and with none left is lost (R33, R152). -/
def Obligations.StorageParityIsContained : Prop :=
  ∀ (p i sub : Nat) (s : State), p < 4 → s.alive = true → s.pitchLive p = true →
    let det (t : State) : Prop := t.rd 0xC0010 = (s.rd 0xC0010 + 1) % 2 ^ 32
    let row (t : State) : Prop :=
      det t ∧ bits (t.rd (0xC0000 + 4 * p)) 0 8 = min (bits (s.rd (0xC0000 + 4 * p)) 0 8 + 1) 255
    (∀ x, s.ktl.imgs.find? (fun x => decide (x.id = i ∧ x.pitch = p) && x.usable) = some x →
      ∃ t, exec (.storageParityFail 0 p i sub) s = .next t ∧ row t ∧
        ((tget {} s.ktl.cores sub).busy = true → tget {} t.ktl.cores sub = {}) ∧
        { x with id := s.ktl.nextImg, loader := ((s.wanters x).head?).getD x.loader, usable := false, bytes := [] } ∈ t.ktl.imgs) ∧
    ((tget {} s.ktl.cores i).busy = true → i / 32 = p →
      ∃ t, exec (.storageParityFail 1 p i sub) s = .next t ∧ row t ∧ tget {} t.ktl.cores i = {}) ∧
    (s.pitchesUp.length ≤ 1 → i ≠ 0 → (s.ctx i).active = true →
      ∃ t, exec (.storageParityFail 2 p i sub) s = .next t ∧ row t ∧ (t.ctx i).fault = 0x18 ∧ (t.ctx i).tdown = true) ∧
    (1 < s.pitchesUp.length → ∃ t, exec (.storageParityFail 2 p i sub) s = .next t ∧ row t ∧ t.ctxs = s.ctxs) ∧
    (∀ x, i ≠ 0 → s.xch.pool.find? (fun x => decide (x.id = i ∧ x.where_ = 0 ∧ x.pitch = p)) = some x →
      ∃ t, exec (.storageParityFail 3 p i sub) s = .next t ∧ row t ∧ (∀ y ∈ t.xch.pool, y.id ≠ i) ∧
        (∀ y, y.id ≠ i → (y ∈ t.xch.pool ↔ y ∈ s.xch.pool)) ∧
        (x.steep = 0 → t.rd 0x50024 = (s.rd 0x50024 + 1) % 2 ^ 32 ∧ t.rd 0x7001C = s.rd 0x7001C) ∧
        (x.steep ≠ 0 → t.rd 0x50024 = s.rd 0x50024 ∧ t.rd 0x7001C = (s.rd 0x7001C + x.steep) % 2 ^ 32) ∧
        (∀ q ∈ t.links.ports, ∀ fs ∈ q.queue, ∀ f ∈ fs, f.slot ≠ i) ∧ (x.kind ≠ 7 → t.ctxs = s.ctxs)) ∧
    (s.drain.any (fun d => decide (d.ctx = i ∧ d.epoch = sub)) = true →
      (s.pitchesUp.length ≤ 1 → i ≠ 0 → (s.ctx i).active = true →
        ∃ t, exec (.storageParityFail 4 p i sub) s = .next t ∧ row t ∧ (t.ctx i).fault = 0x0E ∧ (t.ctx i).tdown = true) ∧
      (1 < s.pitchesUp.length →
        ∃ t, exec (.storageParityFail 4 p i sub) s = .next t ∧ row t ∧ t.ctxs = s.ctxs ∧ t.drain = s.drain)) ∧
    (∃ t, exec (.storageParityFail 5 p i sub) s = .next t ∧ det t ∧
      (s.rdF (0xC0000 + 4 * p) 22 2 < 2 →
        t.rdF (0xC0000 + 4 * p) 22 2 = s.rdF (0xC0000 + 4 * p) 22 2 + 1 ∧ t.ktl.lostBanks = s.ktl.lostBanks) ∧
      (2 ≤ s.rdF (0xC0000 + 4 * p) 22 2 → tget 0 t.ktl.lostBanks p = tget 0 s.ktl.lostBanks p + 1)) ∧
    (∀ h, s.hold[i]? = some h → h.rec_.pitch = p →
      (h.conf = none →
        ∃ t, exec (.storageParityFail 6 p i sub) s = .next t ∧ row t ∧ t.hold = s.hold.filter (fun y => decide (y ≠ h)) ∧
          t.rd 0x7001C = (s.rd 0x7001C + 1) % 2 ^ 32 ∧ t.ctxs = s.ctxs) ∧
      (∀ r, h.conf = some r →
        ∃ u : State, exec (.storageParityFail 6 p i sub) s = .next (u.flushAll h.ctx) ∧ row u ∧
          u.hold = s.hold.filter (fun y => decide (y ≠ h)) ∧ u.rd 0x7001C = (s.rd 0x7001C + 1) % 2 ^ 32 ∧
          (∀ st, s.step? h.ctx = some st → st.epoch = h.epoch →
            u.step? h.ctx = some { st with dst := { st.dst with recs := st.dst.recs ++ [r] } }) ∧
          (∀ d, d ≠ h.ctx → u.ctx d = s.ctx d))) ∧
    (∀ d, i < s.links.ports.length → (s.port i).st ≠ 2 → (s.port i).retry ≠ [] → portPitch i = p → s.portDir i = some d →
      s.workPorts d = [] →
      ∃ t, exec (.storageParityFail 7 p i sub) s = .next t ∧ row t ∧
        t.port i = { (s.port i).empty with queue := (s.port i).held.map Prod.snd } ∧
        (∀ n, n ≠ i → t.port n = s.port n) ∧ t.ctxs = s.ctxs) ∧
    (∀ st x r, s.step? i = some st → x ∈ st.insts → x.cinst = sub % 512 → x.stage = 1 → x.rx[sub / 512]? = some r →
      r.h.gather = true →
      ∃ t st' x', exec (.storageParityFail 8 p i sub) s = .next t ∧ row t ∧ t.step? i = some st' ∧ x' ∈ st'.insts ∧
        x'.cinst = x.cinst ∧ x'.rx = x.rx.set (sub / 512) { r with bad := true } ∧ (∀ d, d ≠ i → t.ctx d = s.ctx d))

/-- STRAINER_ALLOCATE: once every take-part token is ranked and the counts of all chips are in, and the governor lets it
begin, the send list is allocated (R185 to R199, R225 to R230) and what follows runs on the allocated step; before that
nothing changes. BATCH_WAIT_EXPIRE sends a slot's waiting records once the time of one of them has come: the first 64 in
row order leave in one packet (R261); where the chip keeps a directory of the model, its entry is read first (R442). -/
def Obligations.AllocationAndBatches : Prop :=
  (∀ (c : Nat) (st : Step) (s : State), s.step? c = some st → s.on = true → (s.ctx c).active = true →
    (st.launched = true → st.cancelled = false → st.ended = false → st.rt.alloc = false →
      st.desc.kind = 1 ∨ st.desc.kind = 2 → st.rt.counts = true → st.allRanked = true →
      (st.samp.ec = false ∨ st.rt.ecTest = true) → s.paceOk (s.allocPitch c) = true →
      ∃ u : State, u.step? c = some st.allocate ∧ st.allocate.rt.alloc = true ∧ (∀ d, d ≠ c → u.ctx d = s.ctx d) ∧ s.KeepsRegs u [0x100004, 0x100008] ∧
        u.still = ({ s with ctxs := u.ctxs, pitches := u.pitches } : State).still ∧
        exec (.strainerAllocate c) s = .next
          ((((((u.chargeSteeped c st.allocate).writeExits c).decideW2t c).spillList c).listDone c).endTiles c)) ∧
    (st.launched = false ∨ st.rt.alloc = true ∨ st.rt.counts = false ∨ st.allRanked = false →
      exec (.strainerAllocate c) s = .next s)) ∧
  (∀ (c slot : Nat) (st : Step) (s : State), slot < 4096 → s.alive = true → s.step? c = some st → (s.ctx c).active = true →
    st.cancelled = false → st.slotOpen s.glb.chip slot = true →
    (∃ r ∈ st.slotRecs slot, r.at_ + s.rd 0x50020 ≤ s.el) →
    (s.ewdir st.desc.model = 0 ∨ st.pulled s.glb.chip slot = true →
      ∃ t st' a r rs, exec (.batchWaitExpire c slot) s = .next t ∧ t.step? c = some st' ∧
        (st.slotRecs slot).take 64 = r :: rs ∧ a = (s.outPoint (8 * r.pitch + slot % 8)).1 ∧
        ((s.pt a).down = false → t.core.sent = s.core.sent ++ [⟨a, st.batch s.glb.chip a c slot (r :: rs)⟩]) ∧
        (∀ y ∈ r :: rs, ∀ x ∈ st'.dst.recs, x.slot = slot → x.row ≠ y.row) ∧
        (∀ x, x.slot ≠ slot → (x ∈ st'.dst.recs ↔ x ∈ st.dst.recs)) ∧ (∀ d, d ≠ c → t.ctx d = s.ctx d) ∧ s.KeepsRegs t []) ∧
    (s.ewdir st.desc.model ≠ 0 → st.pulled s.glb.chip slot = false → tget 0 st.dst.chk slot = 0 →
      ∃ t id, exec (.batchWaitExpire c slot) s = .next t ∧
        t.mem.wait = s.mem.wait ++ [{ readReq c 1 (s.ewdir st.desc.model + 16 * st.desc.layer) 16
          ⟨.expertRead, (st.epoch * 8192 + slot) * 4 + 1⟩ with id := id }] ∧
        t.core.sent = s.core.sent ∧ (t.step? c).map (·.dst.recs) = some st.dst.recs ∧ (∀ d, d ≠ c → t.ctx d = s.ctx d) ∧
        s.KeepsRegs t []))

/-- PHASE_PARTIAL, COUNTS_TO_OWNER, COUNTS_FROM_OWNER, ROUTE_COUNTS and COLLECTIVE_ABORT take the oldest waiting message of
their kind: one for no epoch that the member keeps, or for an instance already over, is discarded and counted; one for an
instance not yet issued is kept; an open instance consumes it, faulting with 0x17 on an abort and with 0x13 on a digest
that differs; a message of an older attempt, or one it holds already, only restarts the timer and is discarded and
counted. A consumed message counts its failed additions, and three of them are the fault 0x14; where the command says
nothing of them, how many fail is a free value (log entry 188). An instance whose last stage has passed takes nothing
(R285, R287, R289, R299, R304, R305). -/
def Obligations.InstanceMessagesAreConsumed : Prop :=
  ∀ (k fails nf : Nat) (x : Instr) (m : Short) (s u : State),
    (x = .phasePartial fails ∧ k = 1 ∧ nf = fails ∨ x = .countsToOwner ∧ k = 2 ∧ nf = Config.sumFails s.free ∨
      x = .countsFromOwner ∧ k = 3 ∧ nf = 0 ∨ x = .routeCounts ∧ k = 4 ∧ nf = Config.sumFails s.free ∨
      x = .collectiveAbort ∧ k = 5 ∧ nf = 0) →
    s.on = true → (if k = 2 ∨ k = 4 then { s with free := s.free + 1 } else s : State).takeShort k = some (m, u) →
    let h := decMsg m.bytes
    let c := m.ctx
    let cnt := if h.mkind = 5 then colAbort else colDrop
    (s.keepsEpoch c m.epoch = false ∨
        (s.keepsEpoch c m.epoch = true ∧ ∃ st, s.step? c = some st ∧ st.epoch = m.epoch ∧ st.doneInsts.contains h.inst = true) →
      ∃ t, exec x s = .next t ∧ t.rd cnt = (u.rd cnt + 1) % 2 ^ 32 ∧ u.KeepsRegs t [cnt] ∧ t = { u with regs := t.regs }) ∧
    (s.keepsEpoch c m.epoch = true →
      (∀ st, s.step? c = some st → st.epoch = m.epoch → st.doneInsts.contains h.inst = false ∧ st.inst? h.inst = none) →
      exec x s = .next { u with col := { s.col with kept := s.col.kept ++ [(m, nf)] } }) ∧
    (∀ st i, s.keepsEpoch c m.epoch = true → c ≠ 0 → (s.ctx c).active = true → s.step? c = some st → st.epoch = m.epoch →
      st.doneInsts.contains h.inst = false → st.inst? h.inst = some i →
      (3 ≤ i.stage →
        ∃ t, exec x s = .next t ∧ t.rd cnt = (u.rd cnt + 1) % 2 ^ 32 ∧ u.KeepsRegs t [cnt] ∧ t = { u with regs := t.regs }) ∧
      (i.stage < 3 → h.mkind = 5 → ∃ t, exec x s = .next t ∧ (t.ctx c).fault = 0x17 ∧ (t.ctx c).tdown = true) ∧
      (i.stage < 3 → h.mkind ≠ 5 → h.digest ≠ i.digestOf h.subk →
        ∃ t, exec x s = .next t ∧ (t.ctx c).fault = 0x13 ∧ (t.ctx c).tdown = true) ∧
      (i.stage < 3 → h.mkind ≠ 5 → h.digest = i.digestOf h.subk → h.attempt < i.attempt ∨ i.holds m.src h = true →
        ∃ t, exec x s = .next t ∧ t.rd colDrop = (u.rd colDrop + 1) % 2 ^ 32 ∧ u.KeepsRegs t [colDrop] ∧
          t.inst? c h.inst = some { i with last := s.el, quiet := s.el } ∧ (∀ d, d ≠ c → t.ctx d = s.ctx d) ∧
          t = { u with regs := t.regs, ctxs := t.ctxs }) ∧
      (i.stage < 3 → h.mkind ≠ 5 → h.digest = i.digestOf h.subk → i.attempt ≤ h.attempt → i.holds m.src h = false → nf < 3 →
        ∃ v : State, exec x s = .next (v.go c h.inst) ∧
          v.inst? c h.inst =
            some { i with shorts := i.shorts ++ [⟨m.src, h, m.bytes.drop 16⟩], last := s.el, quiet := s.el } ∧
          v.rd colResidue = (u.rd colResidue + nf) % 2 ^ 32 ∧ v.rd 0xC0010 = (u.rd 0xC0010 + nf) % 2 ^ 32 ∧
          (∀ d, d ≠ c → v.ctx d = s.ctx d) ∧ v.col = s.col ∧ v.xch = u.xch) ∧
      (i.stage < 3 → h.mkind ≠ 5 → h.digest = i.digestOf h.subk → i.attempt ≤ h.attempt → i.holds m.src h = false → 3 ≤ nf →
        ∃ t, exec x s = .next t ∧ (t.ctx c).fault = 0x14 ∧ (t.ctx c).tdown = true ∧
          t.rd colResidue = (u.rd colResidue + nf) % 2 ^ 32))

/-- RING_DATA_CHUNK: the oldest ring chunk is consumed by its open instance at the played position that awaits it, its
failed combines counted, and marked bad where its sender marked it so or the combine failed twice; it is kept for an
instance not yet issued, and otherwise discarded and counted; a digest that differs is the fault 0x13; a chunk of an older
attempt, or one that no played position awaits, only restarts the timer and is discarded and counted. An instance whose
last stage has passed takes nothing (R287, R294, R299, R304). -/
def Obligations.RingChunksAreConsumed : Prop :=
  ∀ (fails : Nat) (l : Landed) (r : List Landed) (s : State), s.on = true →
    ltake (fun l : Landed => decide (l.ch.ckind = 7)) s.xch.inbox = some (l, r) →
    let h := decRing (l.data.take 32)
    let c := l.ctx
    let dropped : Prop := ∃ t, exec (.ringDataChunk fails) s = .next t ∧ t.rd colDrop = (s.rd colDrop + 1) % 2 ^ 32 ∧
      s.KeepsRegs t [colDrop] ∧ t = { s with regs := t.regs, xch := { s.xch with inbox := r } }
    (s.keepsEpoch c l.epoch = false ∨
        (s.keepsEpoch c l.epoch = true ∧ ∃ st, s.step? c = some st ∧ st.epoch = l.epoch ∧ st.doneInsts.contains h.inst = true) →
      dropped) ∧
    (s.keepsEpoch c l.epoch = true →
      (∀ st, s.step? c = some st → st.epoch = l.epoch → st.doneInsts.contains h.inst = false ∧ st.inst? h.inst = none) →
      exec (.ringDataChunk fails) s = .next { s with
        xch := { s.xch with inbox := r }
        col := { s.col with keptRing := s.col.keptRing ++ [(l, fails)] } }) ∧
    (∀ st i, s.keepsEpoch c l.epoch = true → c ≠ 0 → (s.ctx c).active = true → s.step? c = some st → st.epoch = l.epoch →
      st.doneInsts.contains h.inst = false → st.inst? h.inst = some i →
      let place := if h.axis = 3 then (if i.rx.any (fun r => decide (r.src = l.src ∧ r.h = h)) then none else some 0)
        else ringPos (mkGrp i.word s.torus s.own st.bind.tab) s.glb.chip l.src i h
      (3 ≤ i.stage → dropped) ∧
      (i.stage < 3 → h.digest ≠ i.digest →
        ∃ t, exec (.ringDataChunk fails) s = .next t ∧ (t.ctx c).fault = 0x13 ∧ (t.ctx c).tdown = true) ∧
      (i.stage < 3 → h.digest = i.digest → h.attempt < i.attempt ∨ place = none →
        ∃ t, exec (.ringDataChunk fails) s = .next t ∧ t.rd colDrop = (s.rd colDrop + 1) % 2 ^ 32 ∧ s.KeepsRegs t [colDrop] ∧
          t.inst? c h.inst = some { i with last := s.el, quiet := s.el } ∧ (∀ d, d ≠ c → t.ctx d = s.ctx d) ∧
          t = { s with regs := t.regs, ctxs := t.ctxs, xch := { s.xch with inbox := r } }) ∧
      (∀ pos, i.stage < 3 → h.digest = i.digest → i.attempt ≤ h.attempt → place = some pos →
        ∃ (v : State) (e : RingIn), exec (.ringDataChunk fails) s = .next (v.go c h.inst) ∧
          v.inst? c h.inst = some { i with rx := i.rx ++ [e], last := s.el, quiet := s.el } ∧
          e.src = l.src ∧ e.pos = pos ∧ e.h = h ∧ e.bad = (h.bad || decide (2 ≤ fails)) ∧
          v.rd colResidue = (s.rd colResidue + fails) % 2 ^ 32 ∧ v.rd 0xC0010 = (s.rd 0xC0010 + fails) % 2 ^ 32 ∧
          (∀ d, d ≠ c → v.ctx d = s.ctx d) ∧ v.xch.inbox = r))

/-- COLLECTIVE_TIMEOUT is the fault 0x16 (R304). SHORT_QUIET_EXPIRE sends every message of an instance's short stage again
(R429), or marks what a ring stage with a discarded chunk lacks as failing (R428), and the quiet time runs anew.

PUT_COMPLETION: the completion of a put, which comes once, frees the chunk-table entries of the put and completes the
running chain of its index that puts to the sender (R260, R270); each completion of a snapshot's data lowers what it
awaits, the last one bringing its next part, and one of a router copy lowers what the copy awaits and frees its entry
(R369, R447, R448). -/
def Obligations.CollectiveTimersAndPutCompletions : Prop :=
  ((∀ (c k : Nat) (x : CollInst) (s : State), c ≠ 0 → (s.ctx c).active = true → s.on = true → s.inst? c k = some x →
    x.stage < 3 →
    (x.last + s.rd 0x64004 ≤ s.el →
      ∃ t, exec (.collectiveTimeout c k) s = .next t ∧ (t.ctx c).fault = 0x16 ∧ (t.ctx c).tdown = true ∧ (t.ctx c).step = none) ∧
    (s.el < x.last + s.rd 0x64004 → exec (.collectiveTimeout c k) s = .next s)) ∧
  (∀ (c k : Nat) (st : Step) (x : CollInst) (s : State), s.on = true → s.step? c = some st → s.inst? c k = some x →
    x.stage < 3 → x.quiet + s.rd 0xC0018 ≤ s.el →
    (x.short = true →
      ∃ t x', exec (.shortQuietExpire c k) s = .next t ∧ t.inst? c k = some x' ∧ x' = { x with quiet := s.el } ∧
        ((∀ m ∈ x.sent, m.1 = s.glb.chip) →
          t.xch.shorts = s.xch.shorts ++ x.sent.map (fun m => ⟨m.1, c, st.epoch, m.2⟩)) ∧
        (x.sent ≠ [] → ∃ st', t.step? c = some st' ∧ bit st'.cnt.qflags 6 = true) ∧
        (∀ d, d ≠ c → t.ctx d = s.ctx d) ∧ s.KeepsRegs t []) ∧
    (x.short = false → x.disc = true →
      ∃ (v : State) (ms : List RingIn), exec (.shortQuietExpire c k) s = .next (v.go c k) ∧
        v.inst? c k = some { x with rx := x.rx ++ ms, quiet := s.el } ∧ (∀ e ∈ ms, e.bad = true) ∧
        (∀ d, d ≠ c → v.ctx d = s.ctx d) ∧ v = { s with ctxs := v.ctxs }) ∧
    (x.short = false → x.disc = false → exec (.shortQuietExpire c k) s = .next s))) ∧
  ((∀ (m : Short) (i : Nat) (s u : State), s.alive = true → s.takeShort 6 = some (m, u) → m.ctx ≠ 0 → fld m.bytes 16 2 = i →
    ∃ v : State, v = { u with xch := { u.xch with table := v.xch.table } } ∧
      (∀ (k : Nat) (e : ChunkE), (k, some e) ∈ v.xch.table ↔ (k, some e) ∈ s.xch.table ∧
        ¬ (e.kind = 4 ∧ e.ctx = m.ctx ∧ e.epoch = m.epoch ∧ e.dst = m.src ∧ e.ref = i)) ∧
      ((∀ st ch, s.runs m.ctx m.epoch = some st → st.chains[i]? = some ch → ¬ (ch.st = 2 ∧ ch.c.op = 1 ∧ ch.c.peer = m.src)) →
        exec .putCompletion s = .next v) ∧
      (∀ st ch, s.runs m.ctx m.epoch = some st → st.chains[i]? = some ch → ch.st = 2 → ch.c.op = 1 → ch.c.peer = m.src →
        exec .putCompletion s = .next ((v.progress m.ctx).chainDone m.ctx i) ∧
        (ch.c.done = 0xFF ∨ st.cancelled = true →
          ∃ t st', exec .putCompletion s = .next t ∧ t.step? m.ctx = some st' ∧
            st'.chains = lset i { ch with st := 3 } st.chains ∧ (∀ d, d ≠ m.ctx → t.ctx d = s.ctx d)))) ∧
  (∀ (m : Short) (s u : State), s.alive = true → s.takeShort 6 = some (m, u) → m.ctx = 0 → fld m.bytes 16 2 = 0xFFFF →
    (s.rsl.snap.busy = false → exec .putCompletion s = .next u) ∧
    (s.rsl.snap.busy = true →
      let v : State := { u with rsl := { s.rsl with snap := { s.rsl.snap with out := s.rsl.snap.out - 1, at_ := s.el } } }
      exec .putCompletion s = .next (if s.rsl.snap.out ≤ 1 then v.snapNext else v))) ∧
  (∀ (m : Short) (k : Nat) (e : ChunkE) (s u : State), s.alive = true → s.takeShort 6 = some (m, u) → m.ctx = 0 →
    fld m.bytes 16 2 ≠ 0xFFFF → s.putChunk m = some (k, e) → e.ref = refRouter → e.len < s.rsl.rinf.left →
    ∃ t, exec .putCompletion s = .next t ∧ tget none t.xch.table k = none ∧
      (∀ j, j ≠ k → tget none t.xch.table j = tget none s.xch.table j) ∧
      t.rsl = { s.rsl with rinf := { s.rsl.rinf with left := s.rsl.rinf.left - e.len, at_ := s.el } } ∧
      t = { u with xch := t.xch, rsl := t.rsl }))

/-- EXPERT_OUTPUTS and EXPERT_INPUT_GRADIENTS (R58, R262): a packet that fails its checks, one of a reserved type or of
Walik-2's own, and one whose length is not that of its items at the width of its step, is discarded and counted; rows for a
context and epoch that the block no longer tracks are counted as stale, and as steeped drops where they answer steeped
copies (R317, R328); each row of any other packet is answered in its order: a row of this chip's own copy goes
to the Pour unit, a row of another chip's copy waits for its return chunk. The beats of an answer to steeped copies are
hold work of the entry of its first row, and the context is charged for those of any other packet (R308, R390). -/
def Obligations.ExpertPacketsAreAnswered : Prop :=
  ∀ (a : Nat) (p : Bytes) (par : List Bool) (s : State) (ty : Nat) (x : Instr),
    (x = .expertOutputs a p par ∧ ty = 8 ∨ x = .expertInputGradients a p par ∧ ty = 9) → s.on = true → s.ptUp a = true →
    let h := pktHeader p
    let shared := bit (fld p 16 1) 0
    let fmt := fld p 18 1
    let k := match s.widthOf h.ctx h.epoch with
      | some d => if shared then roundUp 16 (rowBytes fmt d) else recordBytes (rowBytes fmt d)
      | none => h.length / max 1 h.count
    (pktOk p par = false →
      ∃ t, exec x s = .next t ∧ bits (t.rd 0x40) 16 16 = min (bits (s.rd 0x40) 16 16 + 1) 65535 ∧
        t.rd 0xC0010 = (s.rd 0xC0010 + 1) % 2 ^ 32 ∧ t.xch = s.xch ∧ t.hold = s.hold) ∧
    (pktOk p par = true → hostType h.ptype = false ∨ h.ptype = ty ∧ h.length ≠ h.count * k →
      ∃ t, exec x s = .next t ∧ bits (t.rd 0x40) 16 16 = min (bits (s.rd 0x40) 16 16 + 1) 65535 ∧ t.xch = s.xch ∧
        t.hold = s.hold ∧ s.KeepsRegs t [0x40]) ∧
    (pktOk p par = true → h.ptype = ty → h.length = h.count * k →
      ∃ u : State, (∀ d, d ≠ h.ctx → u.ctx d = s.ctx d) ∧ u.ctx h.ctx = { s.ctx h.ctx with acct := (u.ctx h.ctx).acct } ∧
        s.KeepsRegs u (0xF000C :: lntRegs) ∧
        u.still = ({ s with ctxs := u.ctxs, pitches := u.pitches, hold := u.hold } : State).still ∧
        (∀ g, shared = false → (itemsOf h.count k (sub p 64 h.length)).head?.map (fun r => (decCopyH r).tag) = some g →
          tagSteeped g = true → u.ctxs = s.ctxs ∧ u.pitches = s.pitches ∧ u.hold = s.hold.map (fun e =>
            if e.ctx = h.ctx ∧ e.epoch = h.epoch ∧ e.rec_.tag = g then { e with work := e.work + ceilDiv (64 + h.length) 640 } else e)) ∧
        ((shared = true ∨ ∀ r ∈ (itemsOf h.count k (sub p 64 h.length)).head?, tagSteeped (decCopyH r).tag = false) → u.hold = s.hold) ∧
        (shared = true → exec x s = .next ((itemsOf h.count k (sub p 64 h.length)).zipIdx.foldl
          (fun s q => s.sharedRow h.ctx h.epoch (fld p 17 1) (fld p 20 4 + q.2) fmt q.1) u)) ∧
        (shared = false → (s.ctx h.ctx).active = false ∨
            (s.ctx h.ctx).tracked.contains h.epoch = false ∧ (s.ctx h.ctx).cancelled.contains h.epoch = false →
          let n := ((itemsOf h.count k (sub p 64 h.length)).filter (fun r => tagSteeped (decCopyH r).tag)).length
          exec x s = .next
            ((u.count 0x7001C n).count porStale ((itemsOf h.count k (sub p 64 h.length)).length - n))) ∧
        (shared = false → (s.ctx h.ctx).active = true →
            ((s.ctx h.ctx).tracked.contains h.epoch = true ∨ (s.ctx h.ctx).cancelled.contains h.epoch = true) →
          exec x s = .next ((itemsOf h.count k (sub p 64 h.length)).foldl
            (fun s r => s.answerRec a h.ctx h.epoch fmt (decide (ty = 9)) r) u))) ∧
    (∀ (v : State) (r : Bytes), tagSteeped (decCopyH r).tag = false →
      let w := v.answerRec a h.ctx h.epoch fmt (decide (ty = 9)) r
      (tagSrc (decCopyH r).tag ≠ v.glb.chip →
        w.xch.retq = v.xch.retq ++ [⟨tagSrc (decCopyH r).tag, h.ctx, h.epoch, fmt,
          encCopyH ⟨(decCopyH r).tag, 0, 0, 0, 0, false, false⟩ ++ r.drop 16, a / 8, decide (ty = 9)⟩] ∧
        (∀ d, d ≠ h.ctx → w.ctx d = v.ctx d) ∧ w = { v with ctxs := w.ctxs, xch := { v.xch with retq := w.xch.retq } }) ∧
      (tagSrc (decCopyH r).tag = v.glb.chip →
        ∃ z : State, w = z.takeReturn fmt (decide (ty = 9)) r ∧ z = { v with ctxs := z.ctxs } ∧
          (∀ d, d ≠ h.ctx → z.ctx d = v.ctx d)))

/-- RETURN_CHUNK_LANDED takes each return of the oldest chunk in turn. A return of a steeped copy is counted as a steeped
drop, one of a context that is not active as stale, one whose tag names another chip or fails its check as a tag failure,
which is a detection and, at the limit of such failures of a context in 2^20 ticks, its fault 0x0D; any other is sorted by
the table of R328: a cancelled epoch's is counted as cancelled, an untracked epoch's as stale, one of another
form as bad, one of a copy that was not sent as stray, a second one as duplicate, and any other lands: its row stands in
its slot and one copy less is out (R236 to R238, R328). -/
def Obligations.ReturnsAreSorted : Prop :=
  (∀ (l : Landed) (r : List Landed) (s : State), s.on = true →
    ltake (fun l : Landed => decide (l.ch.ckind = 2)) s.xch.inbox = some (l, r) →
    exec .returnChunkLanded s = .next ((itemsOf l.ch.nrec (recordBytes' l.ch) l.data).foldl
      (fun s x => s.takeReturn l.ch.fmt l.ch.back x) { s with xch := { s.xch with inbox := r } })) ∧
  (∀ (fmt : Nat) (back : Bool) (rec_ : Bytes) (s : State),
    let g := (decCopyH rec_).tag
    let c := tagCtx g
    let e := tagEpoch g
    let t' := s.takeReturn fmt back rec_
    (tagSteeped g = true → t' = s.count 0x7001C 1) ∧
    (tagSteeped g = false → (s.ctx c).active = false → t' = s.count porStale 1) ∧
    (tagSteeped g = false → (s.ctx c).active = true → tagSrc g ≠ s.glb.chip →
      t'.rd 0x40010 = (s.rd 0x40010 + 1) % 2 ^ 32 ∧ t'.rd 0xC0010 = (s.rd 0xC0010 + 1) % 2 ^ 32 ∧ t'.ctxs = s.ctxs) ∧
    (tagSteeped g = false → (s.ctx c).active = true → tagSrc g = s.glb.chip → tagCheck (s.ctx c).key g ≠ g % 256 →
      t'.rd 0x40010 = (s.rd 0x40010 + 1) % 2 ^ 32 ∧ t'.rd 0xC0010 = (s.rd 0xC0010 + 1) % 2 ^ 32 ∧
      (let n := (recent (2 ^ 20) s.el (s.ctx c).tagTimes).length + 1
       (s.rd 0x40008 ≤ n → c ≠ 0 → (t'.ctx c).fault = 0x0D ∧ (t'.ctx c).tdown = true) ∧
       (n < s.rd 0x40008 → (t'.ctx c).fault = (s.ctx c).fault ∧ (t'.ctx c).tagFail = min ((s.ctx c).tagFail + 1) 65535 ∧
         ∀ d, d ≠ c → t'.ctx d = s.ctx d))) ∧
    (tagSteeped g = false → (s.ctx c).active = true → tagSrc g = s.glb.chip → tagCheck (s.ctx c).key g = g % 256 →
      ((s.ctx c).cancelled.contains e = true → t'.rd porCancel = (s.rd porCancel + 1) % 2 ^ 32) ∧
      ((s.ctx c).cancelled.contains e = false → (s.ctx c).tracked.contains e = false ∨ s.runs c e = none → t' = s.count porStale 1) ∧
      (∀ st, (s.ctx c).cancelled.contains e = false → (s.ctx c).tracked.contains e = true → s.runs c e = some st →
        (back ≠ decide (st.desc.kind = 3) ∨ fmt ≠ st.desc.payFmt ∨ rec_.length ≠ st.recBytes → t' = s.count porBad 1) ∧
        (back = decide (st.desc.kind = 3) → fmt = st.desc.payFmt → rec_.length = st.recBytes →
          ((∀ x ∈ st.rt.list, ¬ (x.e.t = tagTok g ∧ x.e.rank = tagRank g ∧ x.snt = true)) → t' = s.count porStray 1) ∧
          (∀ x, st.rt.list.find? (fun x => decide (x.e.t = tagTok g ∧ x.e.rank = tagRank g) && x.snt) = some x →
            (x.ret = true → t' = s.count porDup 1) ∧
            (x.ret = false → st.rt.outst ≠ 1 →
              ∃ st', t'.step? c = some st' ∧ st'.rt.outst = st.rt.outst - 1 ∧
                tget [] st'.por.rows (tagTok g * 8 + tagRank g - 1) = sub rec_ 16 (rowBytes st.desc.payFmt st.bind.dir.d) ∧
                (∀ y ∈ st'.rt.list, y.e.t = tagTok g → y.e.rank = tagRank g → y.ret = true) ∧
                (∀ d, d ≠ c → t'.ctx d = s.ctx d) ∧ s.KeepsRegs t' []))))))

/-- CUE_DONE of the shared-expert cue: with every shared row here it completes the cue and raises counter 3; a failing one
is the shared-expert fault 0x10, and so is one that comes while rows are missing, unless a packet has been discarded since
the cue and a resend is left: the cue word is then sent again (R263, R329, R427). One of a cue chain raises counter 3 and
completes the chain (R270). A word that fails its checks, has a type that no host core sends, or is for no running step
of an active context is discarded and counted (R58). CUE_QUIET_EXPIRE sends the cue word again, twice at most, and is the fault 0x10 afterwards (R427). -/
def Obligations.CueCompletesOrIsSentAgain : Prop :=
  (∀ (a : Nat) (p : Bytes) (par : List Bool) (st : Step) (s : State), s.on = true → s.ptUp a = true → wordOk p par = true →
    (pktHeader p).ptype = 12 → (pktHeader p).ctx ≠ 0 → (s.ctx (pktHeader p).ctx).active = true →
    s.runs (pktHeader p).ctx (pktHeader p).epoch = some st → fld p 16 4 = 0xFFFFFFFF → st.por.cue.sent = true →
    st.por.cue.done = false → st.cancelled = false →
    let c := (pktHeader p).ctx
    (fld p 20 1 ≠ 0 → ∃ t, exec (.cueDone a p par) s = .next t ∧ (t.ctx c).fault = 0x10 ∧ (t.ctx c).tdown = true) ∧
    (fld p 20 1 = 0 → st.por.shIn < st.desc.n * st.samp.nSh → st.por.cue.disc = false ∨ 2 ≤ st.por.cue.resends →
      ∃ t, exec (.cueDone a p par) s = .next t ∧ (t.ctx c).fault = 0x10 ∧ (t.ctx c).tdown = true) ∧
    (fld p 20 1 = 0 → st.por.shIn < st.desc.n * st.samp.nSh → st.por.cue.disc = true → st.por.cue.resends < 2 →
      ∃ t st', exec (.cueDone a p par) s = .next t ∧ t.step? c = some st' ∧
        st'.por.cue = { st.por.cue with resends := st.por.cue.resends + 1, disc := false, at_ := s.el } ∧
        (s.ptUp st.por.cue.point = true → (s.pt st.por.cue.point).down = false →
          t.core.sent = s.core.sent ++ [⟨st.por.cue.point, st.por.cue.word⟩]) ∧ (∀ d, d ≠ c → t.ctx d = s.ctx d)) ∧
    (fld p 20 1 = 0 → st.desc.n * st.samp.nSh ≤ st.por.shIn →
      ∃ v : State, exec (.cueDone a p par) s = .next (v.fireChains c) ∧
        (∃ st', v.step? c = some st' ∧ st'.por.cue = { st.por.cue with done := true } ∧ st'.desc = st.desc) ∧
        (v.ctx c).ctr 3 = ((s.ctx c).ctr 3 + 1) % 2 ^ 32 ∧ (∀ i, i ≠ 3 → (v.ctx c).ctr i = (s.ctx c).ctr i) ∧
        (∀ d, d ≠ c → v.ctx d = s.ctx d) ∧ s.KeepsRegs v (0xF000C :: lntRegs))) ∧
  (∀ (a i : Nat) (p : Bytes) (par : List Bool) (st : Step) (ch : Chn) (s : State), s.on = true → s.ptUp a = true →
    wordOk p par = true → (pktHeader p).ptype = 12 → (s.ctx (pktHeader p).ctx).active = true →
    s.runs (pktHeader p).ctx (pktHeader p).epoch = some st → fld p 16 4 = i → i ≠ 0xFFFFFFFF → st.chains[i]? = some ch →
    ch.c.op = 5 → ch.st = 2 →
    let c := (pktHeader p).ctx
    ∃ v : State, v.still = ({ s with ctxs := v.ctxs, pitches := v.pitches } : State).still ∧
      s.KeepsRegs v (0xF000C :: lntRegs) ∧ (∀ d, d ≠ c → v.ctx d = s.ctx d) ∧ v.step? c = some st ∧
      (fld p 20 1 ≠ 0 → exec (.cueDone a p par) s = .next (v.ctxFault c 0x10)) ∧
      (fld p 20 1 = 0 → st.cancelled = false → exec (.cueDone a p par) s = .next ((v.bump c 3 1).chainDone c i)) ∧
      (fld p 20 1 = 0 → st.cancelled = true → exec (.cueDone a p par) s = .next (v.chainDone c i) ∧
        ∃ st', (v.chainDone c i).step? c = some st' ∧ st'.chains = lset i { ch with st := 3 } st.chains)) ∧
  (∀ (a : Nat) (p : Bytes) (par : List Bool) (s : State), s.on = true → s.ptUp a = true →
    let c := (pktHeader p).ctx
    (wordOk p par = false ∨ hostType (pktHeader p).ptype = false ∨
        (pktHeader p).ptype = 12 ∧ ((s.ctx c).active = false ∨ s.runs c (pktHeader p).epoch = none) →
      ∃ t, exec (.cueDone a p par) s = .next t ∧ bits (t.rd 0x40) 16 16 = min (bits (s.rd 0x40) 16 16 + 1) 65535 ∧
        (wordOk p par = true → s.KeepsRegs t [0x40]) ∧
        (wordOk p par = false → t.rd 0xC0010 = (s.rd 0xC0010 + 1) % 2 ^ 32) ∧ t.core = s.core)) ∧
  (∀ (c : Nat) (st : Step) (s : State), c ≠ 0 → s.on = true → (s.ctx c).active = true → s.step? c = some st →
    st.por.cue.sent = true → st.por.cue.done = false → st.cancelled = false →
    (max st.por.cue.at_ st.por.shAt + s.rd 0xC0014 ≤ s.el →
      (st.por.cue.resends < 2 →
        ∃ t st', exec (.cueQuietExpire c) s = .next t ∧ t.step? c = some st' ∧
          st'.por.cue = { st.por.cue with resends := st.por.cue.resends + 1, disc := false, at_ := s.el } ∧
          bit st'.cnt.qflags 6 = true ∧
          (s.ptUp st.por.cue.point = true → (s.pt st.por.cue.point).down = false →
            t.core.sent = s.core.sent ++ [⟨st.por.cue.point, st.por.cue.word⟩]) ∧
          (∀ d, d ≠ c → t.ctx d = s.ctx d) ∧ s.KeepsRegs t []) ∧
      (2 ≤ st.por.cue.resends →
        ∃ t, exec (.cueQuietExpire c) s = .next t ∧ (t.ctx c).fault = 0x10 ∧ (t.ctx c).tdown = true)) ∧
    (s.el < max st.por.cue.at_ st.por.shAt + s.rd 0xC0014 → exec (.cueQuietExpire c) s = .next s))

/-- CANCEL_DONE ends the wait of its cancel word, and so does CANCEL_DONE_TIMEOUT, with a notice: a context in teardown
with no other word and no write of it left is disabled (R394, R397). A word that fails its checks, has a type that no host
core sends, or answers no cancel word that waits is discarded and counted (R58). -/
def Obligations.CancelDoneEndsTeardown : Prop :=
  (∀ (a : Nat) (p : Bytes) (par : List Bool) (s : State), s.alive = true → s.ptUp a = true →
    wordOk p par = false ∨ hostType (pktHeader p).ptype = false ∨
      (pktHeader p).ptype = 13 ∧ s.core.cancels.find? (fun w => decide (w.id = fld p 16 4)) = none →
    ∃ t, exec (.cancelDone a p par) s = .next t ∧ bits (t.rd 0x40) 16 16 = min (bits (s.rd 0x40) 16 16 + 1) 65535 ∧
      (wordOk p par = true → s.KeepsRegs t [0x40]) ∧
      (wordOk p par = false → t.rd 0xC0010 = (s.rd 0xC0010 + 1) % 2 ^ 32) ∧ t.core = s.core) ∧
  ∀ (w : CancelWait) (x : Instr) (s : State), s.core.cancels.find? (fun v => decide (v.id = w.id)) = some w →
    ((∃ a p par, x = .cancelDone a p par ∧ s.alive = true ∧ s.ptUp a = true ∧ wordOk p par = true ∧
        (pktHeader p).ptype = 13 ∧ fld p 16 4 = w.id) ∨
      x = .cancelDoneTimeout w.id ∧ s.on = true ∧ w.at_ + s.rd 0xA000C ≤ s.el) →
    ∃ t, exec x s = .next t ∧ (∀ v ∈ t.core.cancels, v.id ≠ w.id) ∧
      (∀ v, v.id ≠ w.id → (v ∈ t.core.cancels ↔ v ∈ s.core.cancels)) ∧
      (x = .cancelDoneTimeout w.id → bit (t.rd 0x20) 2 = true) ∧
      (w.fin = 1 → (s.ctx w.ctx).tdown = true → (∀ v ∈ s.core.cancels, v.ctx = w.ctx → v.fin = 1 → v.id = w.id) →
        s.writesOut w.ctx = false → w.ctx ≠ 0 →
        (t.ctx w.ctx).enable = false ∧ (t.ctx w.ctx).tdown = false ∧ (t.ctx w.ctx).st = .disabled)

/-- CHUNK_FORM of a context that the governor lets begin forms the oldest waiting return chunk first, then a waiting piece
of raw data, then lands the waiting copies for this chip, then, in the context's turn, forms one dispatch chunk (R250,
R251, R262); the copies of that chunk count as sent; a chunk for which no table entry may be taken waits (R260).

STEEPED_COPY_SEND does nothing while a confirmed copy or another chunk waits (R260, R310). Else it marks the lowest tokens
not yet steeped, and sends nothing for those without a prediction; the first predicted copies for one chip leave in one
chunk and are counted, or are dropped and counted where the chip has no route (R309 to R316, R320). -/
def Obligations.ChunksAreFormedInOrder : Prop :=
  (∀ (c : Nat) (hv : HostView) (s : State), s.on = true → (c = 0 ∨ (s.ctx c).active = true) → s.paceOk (s.allocPitch c) = true →
    (∀ r0, s.xch.retq.find? (fun r => decide (r.ctx = c)) = some r0 → s.mayForm ⟨0, c, 1⟩ = true →
      32 + r0.bytes.length ≤ chunkMax →
      ∃ t, exec (.chunkForm c hv) s = .next t ∧ t = (s.formReturns c).1 ∧ t.xch.retq.length < s.xch.retq.length ∧
        (∀ r ∈ s.xch.retq, r.ctx ≠ c → r ∈ t.xch.retq) ∧ t.xch.xfers = s.xch.xfers) ∧
    (∀ p rest, s.xch.retq.find? (fun r => decide (r.ctx = c)) = none →
      ltake (fun p : OutPiece => decide (p.ctx = c) && s.mayForm p.wait) s.xch.xfers = some (p, rest) →
      ∃ t, exec (.chunkForm c hv) s = .next t ∧
        t = ({ s with xch := { s.xch with xfers := rest } } : State).sendPiece p ∧ t.xch.xfers = rest) ∧
    (∀ st, s.xch.retq.find? (fun r => decide (r.ctx = c)) = none → (∀ p ∈ s.xch.xfers, p.ctx ≠ c) → s.step? c = some st →
      st.insts = [] →
      (st.maySend = false → exec (.chunkForm c hv) s = .next s) ∧
      (st.maySend = true → s.localCopies st ≠ [] →
        exec (.chunkForm c hv) s =
          .next ((s.sendLocal c st (s.localCopies st)).formed c ((s.localCopies st).all SendSt.again))) ∧
      (∀ e, st.maySend = true → s.localWait st = [] → s.nextCopy st = some e →
        s.noWay (s.tabFor st.bind.mver) e.1.e.chip = false → st.listAt e.2 = true → s.nextChunk st ≠ [] →
        (s.mayForm ⟨2, c, 1⟩ = false → exec (.chunkForm c hv) s = .next (s.waitForm ⟨2, c, 1⟩)) ∧
        (s.mayForm ⟨2, c, 1⟩ = true → s.turnOf ≠ some c → exec (.chunkForm c hv) s = .next s) ∧
        (s.mayForm ⟨2, c, 1⟩ = true → s.turnOf = some c →
          ∃ t st', exec (.chunkForm c hv) s = .next t ∧
            t = ({ s with xch := { s.xch with turn := s.turnKey c } } : State).sendRemote c st ∧ t.step? c = some st' ∧
            st'.rt.outst = st.rt.outst + ((s.nextChunk st).filter (fun e => !e.snt)).length ∧
            (∀ e ∈ st'.rt.list, (∃ x ∈ s.nextChunk st, x.e.t = e.e.t ∧ x.e.rank = e.e.rank) → e.snt = true ∧ e.again = false) ∧
            (∀ d, d ≠ c → t.ctx d = s.ctx d))))) ∧
  (∀ (c : Nat) (hv : HostView) (st : Step) (s : State), s.step? c = some st → s.on = true → (s.ctx c).active = true →
    (s.copyWaits = true ∨ s.mayForm ⟨9, c, 1⟩ = false ∨ s.steepOn c st = false → exec (.steepedCopySend c hv) s = .next s) ∧
    (s.steepOn c st = true → s.copyWaits = false → s.mayForm ⟨9, c, 1⟩ = true → s.paceOk (s.allocPitch c) = true →
      hv.fault = 0 →
      let st' := s.steepFill c hv (s.steepable c st) st
      (∀ t r, st.ext.spend = [] → s.steepable c st = t :: r → st.ext.steeped ++ [t] <+: st'.ext.steeped) ∧
      (st'.ext.spend = [] → exec (.steepedCopySend c hv) s = .next (s.modStep c (fun _ => st'))) ∧
      (∀ p q, st'.ext.spend = p :: q →
        let d := st'.steepChip p
        let ps := steepRun st' d 32 (p :: q)
        ∃ t st2, exec (.steepedCopySend c hv) s = .next t ∧ t.step? c = some st2 ∧
          st2.ext.spend = (p :: q).drop ps.length ∧ st2.ext.steeped = st'.ext.steeped ∧
          (s.noWay (s.tabFor st'.bind.mver) d = true →
            t.rd 0x7001C = (s.rd 0x7001C + ps.length) % 2 ^ 32 ∧ t.links = s.links ∧ t.xch = s.xch) ∧
          (s.noWay (s.tabFor st'.bind.mver) d = false →
            t.rd 0x70010 = (s.rd 0x70010 + ps.length) % 2 ^ 32 ∧ bit st2.cnt.qflags 5 = true) ∧
          (∀ k, k ≠ c → t.ctx k = s.ctx k))))

/-- COPY_CHUNK_LANDED: the confirmed copies of the oldest dispatch chunk land for the running step of their epoch by slot and
row (R261), a copy that has landed before only again when its chunk is a resend (R426); copies for no running step are
dropped. Steeped copies join the hold of their pitch while it has room for a copy and its answer and their step runs
without having had the confirmed copy, and are dropped and counted otherwise, as those of an inactive context are (R317). STEEP_HOLD_TIMEOUT frees the held copies whose time is over
and counts them (R319). -/
def Obligations.CopiesLandBySlotAndRow : Prop :=
  (∀ (l : Landed) (r : List Landed) (s : State), s.on = true →
    ltake (fun l : Landed => decide (l.ch.ckind = 1)) s.xch.inbox = some (l, r) →
    let recs := (itemsOf l.ch.nrec (recordBytes' l.ch) l.data).map (fun b => landRecOf b l.ch.back l.ch.fmt s.el l.pitch)
    let firm := recs.filter (fun r => !(tagSteeped r.tag))
    ((s.ctx l.ctx).active = true → (∀ x ∈ recs, tagSteeped x.tag = false) → firm ≠ [] →
      (∀ st, s.runs l.ctx l.epoch = some st → st.cancelled = false →
        exec .copyChunkLanded s = .next (({ s with xch := { s.xch with inbox := r } } : State).landRecs l.ctx firm l.ch.resend)) ∧
      (s.runs l.ctx l.epoch = none → exec .copyChunkLanded s = .next { s with xch := { s.xch with inbox := r } })) ∧
    ((s.ctx l.ctx).active = true → firm = [] →
      exec .copyChunkLanded s = .next (recs.foldl (fun s r => s.flushHeld l.ctx r.slot)
        (recs.foldl (fun s r => s.holdCopy l.ctx l.epoch l.src r) { s with xch := { s.xch with inbox := r } }))) ∧
    ((s.ctx l.ctx).active = false → (s.step? l.ctx = none ∨ ∀ h ∈ s.hold, h.ctx ≠ l.ctx) →
      ∃ t, exec .copyChunkLanded s = .next t ∧ t.xch = { s.xch with inbox := r } ∧
        t.rd 0x7001C % 2 ^ 32 = (s.rd 0x7001C + (recs.filter (fun r => tagSteeped r.tag)).length) % 2 ^ 32 ∧
        s.KeepsRegs t [0x7001C] ∧ t = { s with regs := t.regs, xch := t.xch })) ∧
  (∀ (c : Nat) (r : LandRec) (again : Bool) (st : Step) (s : State), s.step? c = some st →
    (st.dst.seen.contains (r.slot, r.row) = true → again = false → s.landRec c r again = s) ∧
    (st.dst.seen.contains (r.slot, r.row) = false →
      (∀ h ∈ s.hold, ¬ (h.ctx = c ∧ h.epoch = st.epoch ∧ h.st ≠ 3 ∧ recKey h.rec_ = recKey r)) →
      ∃ st', (s.landRec c r again).step? c = some st' ∧ r ∈ st'.dst.recs ∧ (r.slot, r.row) ∈ st'.dst.seen ∧
        st'.dst.landed = st.dst.landed + b2n (st.serves r.slot) ∧ st'.dst.owed = st.dst.owed ++ [r.tag / 256] ∧
        (∀ d, d ≠ c → (s.landRec c r again).ctx d = s.ctx d) ∧ (s.landRec c r again).hold = s.hold)) ∧
  (∀ (c e src : Nat) (r : LandRec) (s : State),
    let used := ((s.hold.filter (fun h => decide (h.rec_.pitch = r.pitch))).map HoldE.size).foldl (· + ·) 0
    (s.runs c e = none → s.holdCopy c e src r = s.count 0x7001C 1) ∧
    (∀ st, s.runs c e = some st →
      (st.cancelled = true ∨ s.rd 0x70004 * 65536 < used + 2 * r.bytes.length ∨
          st.dst.served.contains (tagSrc r.tag, tagTok r.tag, r.slot) = true ∨ tagEpoch r.tag ≠ e →
        s.holdCopy c e src r = s.count 0x7001C 1) ∧
      (st.cancelled = false → used + 2 * r.bytes.length ≤ s.rd 0x70004 * 65536 →
        st.dst.served.contains (tagSrc r.tag, tagTok r.tag, r.slot) = false → tagEpoch r.tag = e →
        ∃ h, s.holdCopy c e src r = { s with hold := s.hold ++ [h] } ∧ h.ctx = c ∧ h.epoch = e ∧ h.src = src ∧ h.st = 0 ∧
          h.at_ = s.el ∧ h.rec_ = { r with steep := true }))) ∧
  (∀ s : State, s.on = true →
    let gone (h : HoldE) : Bool := decide (h.st ≠ 3) && decide (h.at_ + s.rd 0x70008 ≤ s.el)
    ∃ t, exec .steepHoldTimeout s = .next t ∧ t.hold = s.hold.filter (fun h => !(gone h)) ∧
      t.rd 0x70018 = (s.rd 0x70018 + (s.hold.filter gone).length) % 2 ^ 32 ∧ s.KeepsRegs t [0x70018] ∧
      t = { s with regs := t.regs, hold := t.hold })

/-- WEIGHT_DATA_CHUNK writes pulled weights into the cache entry that their address names, and drops data that no entry of a
running step awaits (R265). REPLAY_QUIET_EXPIRE is a detection and has every copy without a return sent again (R425, R432).
RETURN_DRAIN_TIMEOUT is the drain fault 0x0E (R238), STEP_STALL_TIMEOUT the step-stall fault 0x1B when no more specific timer has run out too (R509, R510). -/
def Obligations.PullsReplaysAndStalls : Prop :=
  (∀ (l : Landed) (r : List Landed) (s : State), s.on = true →
    ltake (fun l : Landed => decide (l.ch.ckind = 3)) s.xch.inbox = some (l, r) →
    let runs := (s.ctx l.ctx).active && (s.runs l.ctx l.epoch).isSome
    let off := l.ch.addr - s.w2tBase l.ctx
    let hit (w : W2tE) : Bool := decide (w.got < w.len ∧ w.owner = l.src ∧ w.wver = l.ch.wver ∧ s.w2tBase l.ctx ≤ l.ch.addr ∧
      w.off ≤ off ∧ off + l.data.length ≤ w.off + w.len)
    (runs = true → (s.ctx l.ctx).w2t.any hit = true →
      ∃ t, exec .weightDataChunk s = .next t ∧ (t.ctx l.ctx).w2t =
          (s.ctx l.ctx).w2t.map (fun w => if hit w then { w with got := w.got + l.data.length } else w) ∧
        t.mem.wait = s.mem.wait ++
          numbered s.mem.nextId (writeReqs l.ctx 1 ⟨.w2tOut, 0⟩ (ceilDiv l.data.length 4096) l.ch.addr l.data) ∧
        (∀ d, d ≠ l.ctx → t.ctx d = s.ctx d) ∧
        t = { s with
          ctxs := t.ctxs
          xch := { s.xch with inbox := r }
          mem := { s.mem with wait := t.mem.wait, nextId := t.mem.nextId } }) ∧
    (runs = false ∨ (s.ctx l.ctx).w2t.any hit = false → exec .weightDataChunk s = .next { s with xch := { s.xch with inbox := r } })) ∧
  (∀ (c : Nat) (st : Step) (s : State), s.step? c = some st → s.on = true → (s.ctx c).active = true →
    st.cancelled = false → st.ended = false → st.rt.outst ≠ 0 → (∀ e ∈ st.rt.list, e.snt = true) →
    (st.cnt.quiet + s.rd 0xC0014 ≤ s.el →
      ∃ t st', exec (.replayQuietExpire c) s = .next t ∧ t.step? c = some st' ∧
        st'.rt.list = st.rt.list.map (fun e => if e.ret then e else { e with again := true }) ∧ st'.cnt.quiet = s.el ∧
        bit st'.cnt.qflags 6 = true ∧ st'.cnt.replays = st.cnt.replays + 1 ∧
        t.rd 0xC0010 = (s.rd 0xC0010 + 1) % 2 ^ 32 ∧ (∀ d, d ≠ c → t.ctx d = s.ctx d) ∧
        t = { s with
          ctxs := t.ctxs
          regs := t.regs
          lnt := t.lnt
          rsl := { s.rsl with det := t.rsl.det, advised := t.rsl.advised, advGo := t.rsl.advGo } }) ∧
    (s.el < st.cnt.quiet + s.rd 0xC0014 → exec (.replayQuietExpire c) s = .next s)) ∧
  (∀ (c e : Nat) (s : State), c ≠ 0 → s.on = true → (s.ctx c).active = true →
    (∃ d ∈ s.drain, d.ctx = c ∧ d.epoch = e ∧ d.at_ + s.rd 0x4000C ≤ s.el) →
    ∃ t, exec (.returnDrainTimeout c e) s = .next t ∧ (t.ctx c).fault = 0x0E ∧ (t.ctx c).tdown = true ∧ (t.ctx c).step = none) ∧
  (∀ (c : Nat) (st : Step) (s : State), c ≠ 0 → s.on = true → (s.ctx c).active = true → s.step? c = some st →
    s.stepStalled st = true → s.memSilent c = none → s.collSilent st = none →
    s.chainStalled c = false → s.drainOver c = none →
    ∃ t, exec (.stepStallTimeout c) s = .next t ∧ (t.ctx c).fault = 0x1B ∧ (t.ctx c).tdown = true ∧ (t.ctx c).step = none)

/-- POUR_COMBINE: once every row that a token waits for is there and its turn has come, its output row is written at
out_addr plus the token's stride and the token counts as combined; an exited token of no zero rows writes nothing; a
backward step that writes gradients adds the token's gradient entry; a token with slots that spilled and have not come back asks for
them first, each once; while something is awaited nothing changes (R327, R330 to R335, R340). -/
def Obligations.PourCombineWritesRow : Prop :=
  ∀ (c t : Nat) (hv : HostView) (st : Step) (s : State), s.step? c = some st → s.on = true → (s.ctx c).active = true →
    st.launched = true → st.cancelled = false → st.ended = false → st.desc.tokens = true → st.pourTurn t = true →
    (∀ o, (st.writesGrads = true → ((st.row t).isSome = true ∨ ∀ l ∈ st.rt.ledger, l.1 ≠ t) ∧ s.paceOk (s.pourPitch c t) = true) →
      st.pourRow t = some o →
      (st.spilledOf t ≠ [] →
        ∃ u st', exec (.pourCombine c t hv) s = .next u ∧ u.step? c = some st' ∧
          st'.por.asked = st.por.asked ++ (st.spilledOf t).filter (fun i => !(st.por.asked.contains i)) ∧
          st'.por.comb = st.por.comb ∧ s.mem.wait <+: u.mem.wait ∧ (∀ d, d ≠ c → u.ctx d = s.ctx d) ∧ s.KeepsRegs u []) ∧
      (st.spilledOf t = [] → hv.fault ≠ 0 → exec (.pourCombine c t hv) s = .next (s.ctxFault c hv.fault))) ∧
    (∀ acc, st.writesGrads = false → st.pourRow t = some (some acc) → st.spilledOf t = [] → hv.fault = 0 →
      ∃ u st', exec (.pourCombine c t hv) s = .next u ∧ u.step? c = some st' ∧ st'.por.comb = st.por.comb ++ [t] ∧
        (let bs := outBytes st.desc.outFmt acc
         u.mem.wait = s.mem.wait ++ numbered s.mem.nextId
           (writeReqs c 1 ⟨.outRow, t⟩ (ceilDiv bs.length 4096) (st.desc.outAddr + t * st.desc.outStride) bs)) ∧
        (∀ d, d ≠ c → u.ctx d = s.ctx d) ∧ s.KeepsRegs u [] ∧
        u = { s with
          ctxs := u.ctxs
          pitches := u.pitches
          free := u.free
          mem := { s.mem with wait := u.mem.wait, nextId := u.mem.nextId } }) ∧
    (st.writesGrads = false → st.pourRow t = some none → st.spilledOf t = [] → hv.fault = 0 →
      ∃ u st', exec (.pourCombine c t hv) s = .next u ∧ u.step? c = some st' ∧ st'.por.comb = st.por.comb ++ [t] ∧
        (∀ d, d ≠ c → u.ctx d = s.ctx d) ∧ u = { s with ctxs := u.ctxs }) ∧
    (∀ o, st.writesGrads = true → ((st.row t).isSome = true ∨ ∀ l ∈ st.rt.ledger, l.1 ≠ t) →
      s.paceOk (s.pourPitch c t) = true → st.pourRow t = some o → st.spilledOf t = [] → hv.fault = 0 →
      ∃ u st', exec (.pourCombine c t hv) s = .next u ∧ u.step? c = some st' ∧ st'.por.comb = st.por.comb ++ [t] ∧
        s.mem.wait <+: u.mem.wait ∧ (∀ d, d ≠ c → u.ctx d = s.ctx d) ∧ s.KeepsRegs u [0x100004, 0x100008]) ∧
    (st.pourRow t = none → exec (.pourCombine c t hv) s = .next s)

end
end

