-- ==== Sys2Proof/Laws/State.lean ====
section
/-! SUPPORT. One lemma per field per plain update of the state: what the update does to the field, true by
unfolding the update. No proof needs to unfold a record update. -/

namespace Sys2Proof.Machine.State

variable (s : State)

@[simp] theorem wr_pending (a v : Nat) : (s.wr a v).pending = s.pending := rfl
@[simp] theorem wr_regs (a v : Nat) : (s.wr a v).regs = tput (resetWord a) a (v % 2 ^ 32) s.regs := rfl
@[simp] theorem wr_glb (a v : Nat) : (s.wr a v).glb = s.glb := rfl
@[simp] theorem wr_clk (a v : Nat) : (s.wr a v).clk = s.clk := rfl
@[simp] theorem wr_ctl (a v : Nat) : (s.wr a v).ctl = s.ctl := rfl
@[simp] theorem wr_lnt (a v : Nat) : (s.wr a v).lnt = s.lnt := rfl
@[simp] theorem wr_start (a v : Nat) : (s.wr a v).start = s.start := rfl
@[simp] theorem wr_pitches (a v : Nat) : (s.wr a v).pitches = s.pitches := rfl
@[simp] theorem wr_mem (a v : Nat) : (s.wr a v).mem = s.mem := rfl
@[simp] theorem wr_core (a v : Nat) : (s.wr a v).core = s.core := rfl
@[simp] theorem wr_links (a v : Nat) : (s.wr a v).links = s.links := rfl
@[simp] theorem wr_guys (a v : Nat) : (s.wr a v).guys = s.guys := rfl
@[simp] theorem wr_memb (a v : Nat) : (s.wr a v).memb = s.memb := rfl
@[simp] theorem wr_stp (a v : Nat) : (s.wr a v).stp = s.stp := rfl
@[simp] theorem wr_fnc (a v : Nat) : (s.wr a v).fnc = s.fnc := rfl
@[simp] theorem wr_xch (a v : Nat) : (s.wr a v).xch = s.xch := rfl
@[simp] theorem wr_ctxs (a v : Nat) : (s.wr a v).ctxs = s.ctxs := rfl
@[simp] theorem wr_ktl (a v : Nat) : (s.wr a v).ktl = s.ktl := rfl
@[simp] theorem wr_stn (a v : Nat) : (s.wr a v).stn = s.stn := rfl
@[simp] theorem wr_drain (a v : Nat) : (s.wr a v).drain = s.drain := rfl
@[simp] theorem wr_col (a v : Nat) : (s.wr a v).col = s.col := rfl
@[simp] theorem wr_hold (a v : Nat) : (s.wr a v).hold = s.hold := rfl
@[simp] theorem wr_bal (a v : Nat) : (s.wr a v).bal = s.bal := rfl
@[simp] theorem wr_rsl (a v : Nat) : (s.wr a v).rsl = s.rsl := rfl
@[simp] theorem wr_det (a v : Nat) : (s.wr a v).det = s.det := rfl
@[simp] theorem wr_free (a v : Nat) : (s.wr a v).free = s.free := rfl

@[simp] theorem modCtx_pending (c : Nat) (f : Ctx → Ctx) : (s.modCtx c f).pending = s.pending := rfl
@[simp] theorem modCtx_regs (c : Nat) (f : Ctx → Ctx) : (s.modCtx c f).regs = s.regs := rfl
@[simp] theorem modCtx_glb (c : Nat) (f : Ctx → Ctx) : (s.modCtx c f).glb = s.glb := rfl
@[simp] theorem modCtx_clk (c : Nat) (f : Ctx → Ctx) : (s.modCtx c f).clk = s.clk := rfl
@[simp] theorem modCtx_ctl (c : Nat) (f : Ctx → Ctx) : (s.modCtx c f).ctl = s.ctl := rfl
@[simp] theorem modCtx_lnt (c : Nat) (f : Ctx → Ctx) : (s.modCtx c f).lnt = s.lnt := rfl
@[simp] theorem modCtx_start (c : Nat) (f : Ctx → Ctx) : (s.modCtx c f).start = s.start := rfl
@[simp] theorem modCtx_pitches (c : Nat) (f : Ctx → Ctx) : (s.modCtx c f).pitches = s.pitches := rfl
@[simp] theorem modCtx_mem (c : Nat) (f : Ctx → Ctx) : (s.modCtx c f).mem = s.mem := rfl
@[simp] theorem modCtx_core (c : Nat) (f : Ctx → Ctx) : (s.modCtx c f).core = s.core := rfl
@[simp] theorem modCtx_links (c : Nat) (f : Ctx → Ctx) : (s.modCtx c f).links = s.links := rfl
@[simp] theorem modCtx_guys (c : Nat) (f : Ctx → Ctx) : (s.modCtx c f).guys = s.guys := rfl
@[simp] theorem modCtx_memb (c : Nat) (f : Ctx → Ctx) : (s.modCtx c f).memb = s.memb := rfl
@[simp] theorem modCtx_stp (c : Nat) (f : Ctx → Ctx) : (s.modCtx c f).stp = s.stp := rfl
@[simp] theorem modCtx_fnc (c : Nat) (f : Ctx → Ctx) : (s.modCtx c f).fnc = s.fnc := rfl
@[simp] theorem modCtx_xch (c : Nat) (f : Ctx → Ctx) : (s.modCtx c f).xch = s.xch := rfl
@[simp] theorem modCtx_ctxs (c : Nat) (f : Ctx → Ctx) : (s.modCtx c f).ctxs = tmod Ctx.reset c f s.ctxs := rfl
@[simp] theorem modCtx_ktl (c : Nat) (f : Ctx → Ctx) : (s.modCtx c f).ktl = s.ktl := rfl
@[simp] theorem modCtx_stn (c : Nat) (f : Ctx → Ctx) : (s.modCtx c f).stn = s.stn := rfl
@[simp] theorem modCtx_drain (c : Nat) (f : Ctx → Ctx) : (s.modCtx c f).drain = s.drain := rfl
@[simp] theorem modCtx_col (c : Nat) (f : Ctx → Ctx) : (s.modCtx c f).col = s.col := rfl
@[simp] theorem modCtx_hold (c : Nat) (f : Ctx → Ctx) : (s.modCtx c f).hold = s.hold := rfl
@[simp] theorem modCtx_bal (c : Nat) (f : Ctx → Ctx) : (s.modCtx c f).bal = s.bal := rfl
@[simp] theorem modCtx_rsl (c : Nat) (f : Ctx → Ctx) : (s.modCtx c f).rsl = s.rsl := rfl
@[simp] theorem modCtx_det (c : Nat) (f : Ctx → Ctx) : (s.modCtx c f).det = s.det := rfl
@[simp] theorem modCtx_free (c : Nat) (f : Ctx → Ctx) : (s.modCtx c f).free = s.free := rfl

@[simp] theorem modStep_pending (c : Nat) (f : Step → Step) : (s.modStep c f).pending = s.pending := rfl
@[simp] theorem modStep_regs (c : Nat) (f : Step → Step) : (s.modStep c f).regs = s.regs := rfl
@[simp] theorem modStep_glb (c : Nat) (f : Step → Step) : (s.modStep c f).glb = s.glb := rfl
@[simp] theorem modStep_clk (c : Nat) (f : Step → Step) : (s.modStep c f).clk = s.clk := rfl
@[simp] theorem modStep_ctl (c : Nat) (f : Step → Step) : (s.modStep c f).ctl = s.ctl := rfl
@[simp] theorem modStep_lnt (c : Nat) (f : Step → Step) : (s.modStep c f).lnt = s.lnt := rfl
@[simp] theorem modStep_start (c : Nat) (f : Step → Step) : (s.modStep c f).start = s.start := rfl
@[simp] theorem modStep_pitches (c : Nat) (f : Step → Step) : (s.modStep c f).pitches = s.pitches := rfl
@[simp] theorem modStep_mem (c : Nat) (f : Step → Step) : (s.modStep c f).mem = s.mem := rfl
@[simp] theorem modStep_core (c : Nat) (f : Step → Step) : (s.modStep c f).core = s.core := rfl
@[simp] theorem modStep_links (c : Nat) (f : Step → Step) : (s.modStep c f).links = s.links := rfl
@[simp] theorem modStep_guys (c : Nat) (f : Step → Step) : (s.modStep c f).guys = s.guys := rfl
@[simp] theorem modStep_memb (c : Nat) (f : Step → Step) : (s.modStep c f).memb = s.memb := rfl
@[simp] theorem modStep_stp (c : Nat) (f : Step → Step) : (s.modStep c f).stp = s.stp := rfl
@[simp] theorem modStep_fnc (c : Nat) (f : Step → Step) : (s.modStep c f).fnc = s.fnc := rfl
@[simp] theorem modStep_xch (c : Nat) (f : Step → Step) : (s.modStep c f).xch = s.xch := rfl
@[simp] theorem modStep_ctxs (c : Nat) (f : Step → Step) : (s.modStep c f).ctxs = tmod Ctx.reset c (fun x => { x with step := x.step.map f }) s.ctxs := rfl
@[simp] theorem modStep_ktl (c : Nat) (f : Step → Step) : (s.modStep c f).ktl = s.ktl := rfl
@[simp] theorem modStep_stn (c : Nat) (f : Step → Step) : (s.modStep c f).stn = s.stn := rfl
@[simp] theorem modStep_drain (c : Nat) (f : Step → Step) : (s.modStep c f).drain = s.drain := rfl
@[simp] theorem modStep_col (c : Nat) (f : Step → Step) : (s.modStep c f).col = s.col := rfl
@[simp] theorem modStep_hold (c : Nat) (f : Step → Step) : (s.modStep c f).hold = s.hold := rfl
@[simp] theorem modStep_bal (c : Nat) (f : Step → Step) : (s.modStep c f).bal = s.bal := rfl
@[simp] theorem modStep_rsl (c : Nat) (f : Step → Step) : (s.modStep c f).rsl = s.rsl := rfl
@[simp] theorem modStep_det (c : Nat) (f : Step → Step) : (s.modStep c f).det = s.det := rfl
@[simp] theorem modStep_free (c : Nat) (f : Step → Step) : (s.modStep c f).free = s.free := rfl

@[simp] theorem modPitch_pending (p : Nat) (f : Pitch → Pitch) : (s.modPitch p f).pending = s.pending := rfl
@[simp] theorem modPitch_regs (p : Nat) (f : Pitch → Pitch) : (s.modPitch p f).regs = s.regs := rfl
@[simp] theorem modPitch_glb (p : Nat) (f : Pitch → Pitch) : (s.modPitch p f).glb = s.glb := rfl
@[simp] theorem modPitch_clk (p : Nat) (f : Pitch → Pitch) : (s.modPitch p f).clk = s.clk := rfl
@[simp] theorem modPitch_ctl (p : Nat) (f : Pitch → Pitch) : (s.modPitch p f).ctl = s.ctl := rfl
@[simp] theorem modPitch_lnt (p : Nat) (f : Pitch → Pitch) : (s.modPitch p f).lnt = s.lnt := rfl
@[simp] theorem modPitch_start (p : Nat) (f : Pitch → Pitch) : (s.modPitch p f).start = s.start := rfl
@[simp] theorem modPitch_pitches (p : Nat) (f : Pitch → Pitch) : (s.modPitch p f).pitches = lset p (f (s.pitch p)) s.pitches := rfl
@[simp] theorem modPitch_mem (p : Nat) (f : Pitch → Pitch) : (s.modPitch p f).mem = s.mem := rfl
@[simp] theorem modPitch_core (p : Nat) (f : Pitch → Pitch) : (s.modPitch p f).core = s.core := rfl
@[simp] theorem modPitch_links (p : Nat) (f : Pitch → Pitch) : (s.modPitch p f).links = s.links := rfl
@[simp] theorem modPitch_guys (p : Nat) (f : Pitch → Pitch) : (s.modPitch p f).guys = s.guys := rfl
@[simp] theorem modPitch_memb (p : Nat) (f : Pitch → Pitch) : (s.modPitch p f).memb = s.memb := rfl
@[simp] theorem modPitch_stp (p : Nat) (f : Pitch → Pitch) : (s.modPitch p f).stp = s.stp := rfl
@[simp] theorem modPitch_fnc (p : Nat) (f : Pitch → Pitch) : (s.modPitch p f).fnc = s.fnc := rfl
@[simp] theorem modPitch_xch (p : Nat) (f : Pitch → Pitch) : (s.modPitch p f).xch = s.xch := rfl
@[simp] theorem modPitch_ctxs (p : Nat) (f : Pitch → Pitch) : (s.modPitch p f).ctxs = s.ctxs := rfl
@[simp] theorem modPitch_ktl (p : Nat) (f : Pitch → Pitch) : (s.modPitch p f).ktl = s.ktl := rfl
@[simp] theorem modPitch_stn (p : Nat) (f : Pitch → Pitch) : (s.modPitch p f).stn = s.stn := rfl
@[simp] theorem modPitch_drain (p : Nat) (f : Pitch → Pitch) : (s.modPitch p f).drain = s.drain := rfl
@[simp] theorem modPitch_col (p : Nat) (f : Pitch → Pitch) : (s.modPitch p f).col = s.col := rfl
@[simp] theorem modPitch_hold (p : Nat) (f : Pitch → Pitch) : (s.modPitch p f).hold = s.hold := rfl
@[simp] theorem modPitch_bal (p : Nat) (f : Pitch → Pitch) : (s.modPitch p f).bal = s.bal := rfl
@[simp] theorem modPitch_rsl (p : Nat) (f : Pitch → Pitch) : (s.modPitch p f).rsl = s.rsl := rfl
@[simp] theorem modPitch_det (p : Nat) (f : Pitch → Pitch) : (s.modPitch p f).det = s.det := rfl
@[simp] theorem modPitch_free (p : Nat) (f : Pitch → Pitch) : (s.modPitch p f).free = s.free := rfl

@[simp] theorem modCh_pending (i : Nat) (f : MemCh → MemCh) : (s.modCh i f).pending = s.pending := rfl
@[simp] theorem modCh_regs (i : Nat) (f : MemCh → MemCh) : (s.modCh i f).regs = s.regs := rfl
@[simp] theorem modCh_glb (i : Nat) (f : MemCh → MemCh) : (s.modCh i f).glb = s.glb := rfl
@[simp] theorem modCh_clk (i : Nat) (f : MemCh → MemCh) : (s.modCh i f).clk = s.clk := rfl
@[simp] theorem modCh_ctl (i : Nat) (f : MemCh → MemCh) : (s.modCh i f).ctl = s.ctl := rfl
@[simp] theorem modCh_lnt (i : Nat) (f : MemCh → MemCh) : (s.modCh i f).lnt = s.lnt := rfl
@[simp] theorem modCh_start (i : Nat) (f : MemCh → MemCh) : (s.modCh i f).start = s.start := rfl
@[simp] theorem modCh_pitches (i : Nat) (f : MemCh → MemCh) : (s.modCh i f).pitches = s.pitches := rfl
@[simp] theorem modCh_mem (i : Nat) (f : MemCh → MemCh) : (s.modCh i f).mem = { s.mem with chs := lset i (f (s.ch i)) s.mem.chs } := rfl
@[simp] theorem modCh_core (i : Nat) (f : MemCh → MemCh) : (s.modCh i f).core = s.core := rfl
@[simp] theorem modCh_links (i : Nat) (f : MemCh → MemCh) : (s.modCh i f).links = s.links := rfl
@[simp] theorem modCh_guys (i : Nat) (f : MemCh → MemCh) : (s.modCh i f).guys = s.guys := rfl
@[simp] theorem modCh_memb (i : Nat) (f : MemCh → MemCh) : (s.modCh i f).memb = s.memb := rfl
@[simp] theorem modCh_stp (i : Nat) (f : MemCh → MemCh) : (s.modCh i f).stp = s.stp := rfl
@[simp] theorem modCh_fnc (i : Nat) (f : MemCh → MemCh) : (s.modCh i f).fnc = s.fnc := rfl
@[simp] theorem modCh_xch (i : Nat) (f : MemCh → MemCh) : (s.modCh i f).xch = s.xch := rfl
@[simp] theorem modCh_ctxs (i : Nat) (f : MemCh → MemCh) : (s.modCh i f).ctxs = s.ctxs := rfl
@[simp] theorem modCh_ktl (i : Nat) (f : MemCh → MemCh) : (s.modCh i f).ktl = s.ktl := rfl
@[simp] theorem modCh_stn (i : Nat) (f : MemCh → MemCh) : (s.modCh i f).stn = s.stn := rfl
@[simp] theorem modCh_drain (i : Nat) (f : MemCh → MemCh) : (s.modCh i f).drain = s.drain := rfl
@[simp] theorem modCh_col (i : Nat) (f : MemCh → MemCh) : (s.modCh i f).col = s.col := rfl
@[simp] theorem modCh_hold (i : Nat) (f : MemCh → MemCh) : (s.modCh i f).hold = s.hold := rfl
@[simp] theorem modCh_bal (i : Nat) (f : MemCh → MemCh) : (s.modCh i f).bal = s.bal := rfl
@[simp] theorem modCh_rsl (i : Nat) (f : MemCh → MemCh) : (s.modCh i f).rsl = s.rsl := rfl
@[simp] theorem modCh_det (i : Nat) (f : MemCh → MemCh) : (s.modCh i f).det = s.det := rfl
@[simp] theorem modCh_free (i : Nat) (f : MemCh → MemCh) : (s.modCh i f).free = s.free := rfl

@[simp] theorem modPt_pending (a : Nat) (f : CorePt → CorePt) : (s.modPt a f).pending = s.pending := rfl
@[simp] theorem modPt_regs (a : Nat) (f : CorePt → CorePt) : (s.modPt a f).regs = s.regs := rfl
@[simp] theorem modPt_glb (a : Nat) (f : CorePt → CorePt) : (s.modPt a f).glb = s.glb := rfl
@[simp] theorem modPt_clk (a : Nat) (f : CorePt → CorePt) : (s.modPt a f).clk = s.clk := rfl
@[simp] theorem modPt_ctl (a : Nat) (f : CorePt → CorePt) : (s.modPt a f).ctl = s.ctl := rfl
@[simp] theorem modPt_lnt (a : Nat) (f : CorePt → CorePt) : (s.modPt a f).lnt = s.lnt := rfl
@[simp] theorem modPt_start (a : Nat) (f : CorePt → CorePt) : (s.modPt a f).start = s.start := rfl
@[simp] theorem modPt_pitches (a : Nat) (f : CorePt → CorePt) : (s.modPt a f).pitches = s.pitches := rfl
@[simp] theorem modPt_mem (a : Nat) (f : CorePt → CorePt) : (s.modPt a f).mem = s.mem := rfl
@[simp] theorem modPt_core (a : Nat) (f : CorePt → CorePt) : (s.modPt a f).core = { s.core with pts := lset a (f (s.pt a)) s.core.pts } := rfl
@[simp] theorem modPt_links (a : Nat) (f : CorePt → CorePt) : (s.modPt a f).links = s.links := rfl
@[simp] theorem modPt_guys (a : Nat) (f : CorePt → CorePt) : (s.modPt a f).guys = s.guys := rfl
@[simp] theorem modPt_memb (a : Nat) (f : CorePt → CorePt) : (s.modPt a f).memb = s.memb := rfl
@[simp] theorem modPt_stp (a : Nat) (f : CorePt → CorePt) : (s.modPt a f).stp = s.stp := rfl
@[simp] theorem modPt_fnc (a : Nat) (f : CorePt → CorePt) : (s.modPt a f).fnc = s.fnc := rfl
@[simp] theorem modPt_xch (a : Nat) (f : CorePt → CorePt) : (s.modPt a f).xch = s.xch := rfl
@[simp] theorem modPt_ctxs (a : Nat) (f : CorePt → CorePt) : (s.modPt a f).ctxs = s.ctxs := rfl
@[simp] theorem modPt_ktl (a : Nat) (f : CorePt → CorePt) : (s.modPt a f).ktl = s.ktl := rfl
@[simp] theorem modPt_stn (a : Nat) (f : CorePt → CorePt) : (s.modPt a f).stn = s.stn := rfl
@[simp] theorem modPt_drain (a : Nat) (f : CorePt → CorePt) : (s.modPt a f).drain = s.drain := rfl
@[simp] theorem modPt_col (a : Nat) (f : CorePt → CorePt) : (s.modPt a f).col = s.col := rfl
@[simp] theorem modPt_hold (a : Nat) (f : CorePt → CorePt) : (s.modPt a f).hold = s.hold := rfl
@[simp] theorem modPt_bal (a : Nat) (f : CorePt → CorePt) : (s.modPt a f).bal = s.bal := rfl
@[simp] theorem modPt_rsl (a : Nat) (f : CorePt → CorePt) : (s.modPt a f).rsl = s.rsl := rfl
@[simp] theorem modPt_det (a : Nat) (f : CorePt → CorePt) : (s.modPt a f).det = s.det := rfl
@[simp] theorem modPt_free (a : Nat) (f : CorePt → CorePt) : (s.modPt a f).free = s.free := rfl

@[simp] theorem modEnts_pending (f : List LEntry → List LEntry) : (s.modEnts f).pending = s.pending := rfl
@[simp] theorem modEnts_regs (f : List LEntry → List LEntry) : (s.modEnts f).regs = s.regs := rfl
@[simp] theorem modEnts_glb (f : List LEntry → List LEntry) : (s.modEnts f).glb = s.glb := rfl
@[simp] theorem modEnts_clk (f : List LEntry → List LEntry) : (s.modEnts f).clk = s.clk := rfl
@[simp] theorem modEnts_ctl (f : List LEntry → List LEntry) : (s.modEnts f).ctl = s.ctl := rfl
@[simp] theorem modEnts_lnt (f : List LEntry → List LEntry) : (s.modEnts f).lnt = { s.lnt with ents := f s.lnt.ents } := rfl
@[simp] theorem modEnts_start (f : List LEntry → List LEntry) : (s.modEnts f).start = s.start := rfl
@[simp] theorem modEnts_pitches (f : List LEntry → List LEntry) : (s.modEnts f).pitches = s.pitches := rfl
@[simp] theorem modEnts_mem (f : List LEntry → List LEntry) : (s.modEnts f).mem = s.mem := rfl
@[simp] theorem modEnts_core (f : List LEntry → List LEntry) : (s.modEnts f).core = s.core := rfl
@[simp] theorem modEnts_links (f : List LEntry → List LEntry) : (s.modEnts f).links = s.links := rfl
@[simp] theorem modEnts_guys (f : List LEntry → List LEntry) : (s.modEnts f).guys = s.guys := rfl
@[simp] theorem modEnts_memb (f : List LEntry → List LEntry) : (s.modEnts f).memb = s.memb := rfl
@[simp] theorem modEnts_stp (f : List LEntry → List LEntry) : (s.modEnts f).stp = s.stp := rfl
@[simp] theorem modEnts_fnc (f : List LEntry → List LEntry) : (s.modEnts f).fnc = s.fnc := rfl
@[simp] theorem modEnts_xch (f : List LEntry → List LEntry) : (s.modEnts f).xch = s.xch := rfl
@[simp] theorem modEnts_ctxs (f : List LEntry → List LEntry) : (s.modEnts f).ctxs = s.ctxs := rfl
@[simp] theorem modEnts_ktl (f : List LEntry → List LEntry) : (s.modEnts f).ktl = s.ktl := rfl
@[simp] theorem modEnts_stn (f : List LEntry → List LEntry) : (s.modEnts f).stn = s.stn := rfl
@[simp] theorem modEnts_drain (f : List LEntry → List LEntry) : (s.modEnts f).drain = s.drain := rfl
@[simp] theorem modEnts_col (f : List LEntry → List LEntry) : (s.modEnts f).col = s.col := rfl
@[simp] theorem modEnts_hold (f : List LEntry → List LEntry) : (s.modEnts f).hold = s.hold := rfl
@[simp] theorem modEnts_bal (f : List LEntry → List LEntry) : (s.modEnts f).bal = s.bal := rfl
@[simp] theorem modEnts_rsl (f : List LEntry → List LEntry) : (s.modEnts f).rsl = s.rsl := rfl
@[simp] theorem modEnts_det (f : List LEntry → List LEntry) : (s.modEnts f).det = s.det := rfl
@[simp] theorem modEnts_free (f : List LEntry → List LEntry) : (s.modEnts f).free = s.free := rfl

@[simp] theorem modDone_pending (f : List MemDone → List MemDone) : (s.modDone f).pending = s.pending := rfl
@[simp] theorem modDone_regs (f : List MemDone → List MemDone) : (s.modDone f).regs = s.regs := rfl
@[simp] theorem modDone_glb (f : List MemDone → List MemDone) : (s.modDone f).glb = s.glb := rfl
@[simp] theorem modDone_clk (f : List MemDone → List MemDone) : (s.modDone f).clk = s.clk := rfl
@[simp] theorem modDone_ctl (f : List MemDone → List MemDone) : (s.modDone f).ctl = s.ctl := rfl
@[simp] theorem modDone_lnt (f : List MemDone → List MemDone) : (s.modDone f).lnt = s.lnt := rfl
@[simp] theorem modDone_start (f : List MemDone → List MemDone) : (s.modDone f).start = s.start := rfl
@[simp] theorem modDone_pitches (f : List MemDone → List MemDone) : (s.modDone f).pitches = s.pitches := rfl
@[simp] theorem modDone_mem (f : List MemDone → List MemDone) : (s.modDone f).mem = { s.mem with done := f s.mem.done } := rfl
@[simp] theorem modDone_core (f : List MemDone → List MemDone) : (s.modDone f).core = s.core := rfl
@[simp] theorem modDone_links (f : List MemDone → List MemDone) : (s.modDone f).links = s.links := rfl
@[simp] theorem modDone_guys (f : List MemDone → List MemDone) : (s.modDone f).guys = s.guys := rfl
@[simp] theorem modDone_memb (f : List MemDone → List MemDone) : (s.modDone f).memb = s.memb := rfl
@[simp] theorem modDone_stp (f : List MemDone → List MemDone) : (s.modDone f).stp = s.stp := rfl
@[simp] theorem modDone_fnc (f : List MemDone → List MemDone) : (s.modDone f).fnc = s.fnc := rfl
@[simp] theorem modDone_xch (f : List MemDone → List MemDone) : (s.modDone f).xch = s.xch := rfl
@[simp] theorem modDone_ctxs (f : List MemDone → List MemDone) : (s.modDone f).ctxs = s.ctxs := rfl
@[simp] theorem modDone_ktl (f : List MemDone → List MemDone) : (s.modDone f).ktl = s.ktl := rfl
@[simp] theorem modDone_stn (f : List MemDone → List MemDone) : (s.modDone f).stn = s.stn := rfl
@[simp] theorem modDone_drain (f : List MemDone → List MemDone) : (s.modDone f).drain = s.drain := rfl
@[simp] theorem modDone_col (f : List MemDone → List MemDone) : (s.modDone f).col = s.col := rfl
@[simp] theorem modDone_hold (f : List MemDone → List MemDone) : (s.modDone f).hold = s.hold := rfl
@[simp] theorem modDone_bal (f : List MemDone → List MemDone) : (s.modDone f).bal = s.bal := rfl
@[simp] theorem modDone_rsl (f : List MemDone → List MemDone) : (s.modDone f).rsl = s.rsl := rfl
@[simp] theorem modDone_det (f : List MemDone → List MemDone) : (s.modDone f).det = s.det := rfl
@[simp] theorem modDone_free (f : List MemDone → List MemDone) : (s.modDone f).free = s.free := rfl

@[simp] theorem modWait_pending (f : List MemReq → List MemReq) : (s.modWait f).pending = s.pending := rfl
@[simp] theorem modWait_regs (f : List MemReq → List MemReq) : (s.modWait f).regs = s.regs := rfl
@[simp] theorem modWait_glb (f : List MemReq → List MemReq) : (s.modWait f).glb = s.glb := rfl
@[simp] theorem modWait_clk (f : List MemReq → List MemReq) : (s.modWait f).clk = s.clk := rfl
@[simp] theorem modWait_ctl (f : List MemReq → List MemReq) : (s.modWait f).ctl = s.ctl := rfl
@[simp] theorem modWait_lnt (f : List MemReq → List MemReq) : (s.modWait f).lnt = s.lnt := rfl
@[simp] theorem modWait_start (f : List MemReq → List MemReq) : (s.modWait f).start = s.start := rfl
@[simp] theorem modWait_pitches (f : List MemReq → List MemReq) : (s.modWait f).pitches = s.pitches := rfl
@[simp] theorem modWait_mem (f : List MemReq → List MemReq) : (s.modWait f).mem = { s.mem with wait := f s.mem.wait } := rfl
@[simp] theorem modWait_core (f : List MemReq → List MemReq) : (s.modWait f).core = s.core := rfl
@[simp] theorem modWait_links (f : List MemReq → List MemReq) : (s.modWait f).links = s.links := rfl
@[simp] theorem modWait_guys (f : List MemReq → List MemReq) : (s.modWait f).guys = s.guys := rfl
@[simp] theorem modWait_memb (f : List MemReq → List MemReq) : (s.modWait f).memb = s.memb := rfl
@[simp] theorem modWait_stp (f : List MemReq → List MemReq) : (s.modWait f).stp = s.stp := rfl
@[simp] theorem modWait_fnc (f : List MemReq → List MemReq) : (s.modWait f).fnc = s.fnc := rfl
@[simp] theorem modWait_xch (f : List MemReq → List MemReq) : (s.modWait f).xch = s.xch := rfl
@[simp] theorem modWait_ctxs (f : List MemReq → List MemReq) : (s.modWait f).ctxs = s.ctxs := rfl
@[simp] theorem modWait_ktl (f : List MemReq → List MemReq) : (s.modWait f).ktl = s.ktl := rfl
@[simp] theorem modWait_stn (f : List MemReq → List MemReq) : (s.modWait f).stn = s.stn := rfl
@[simp] theorem modWait_drain (f : List MemReq → List MemReq) : (s.modWait f).drain = s.drain := rfl
@[simp] theorem modWait_col (f : List MemReq → List MemReq) : (s.modWait f).col = s.col := rfl
@[simp] theorem modWait_hold (f : List MemReq → List MemReq) : (s.modWait f).hold = s.hold := rfl
@[simp] theorem modWait_bal (f : List MemReq → List MemReq) : (s.modWait f).bal = s.bal := rfl
@[simp] theorem modWait_rsl (f : List MemReq → List MemReq) : (s.modWait f).rsl = s.rsl := rfl
@[simp] theorem modWait_det (f : List MemReq → List MemReq) : (s.modWait f).det = s.det := rfl
@[simp] theorem modWait_free (f : List MemReq → List MemReq) : (s.modWait f).free = s.free := rfl

@[simp] theorem modXch_pending (f : Xch → Xch) : (s.modXch f).pending = s.pending := rfl
@[simp] theorem modXch_regs (f : Xch → Xch) : (s.modXch f).regs = s.regs := rfl
@[simp] theorem modXch_glb (f : Xch → Xch) : (s.modXch f).glb = s.glb := rfl
@[simp] theorem modXch_clk (f : Xch → Xch) : (s.modXch f).clk = s.clk := rfl
@[simp] theorem modXch_ctl (f : Xch → Xch) : (s.modXch f).ctl = s.ctl := rfl
@[simp] theorem modXch_lnt (f : Xch → Xch) : (s.modXch f).lnt = s.lnt := rfl
@[simp] theorem modXch_start (f : Xch → Xch) : (s.modXch f).start = s.start := rfl
@[simp] theorem modXch_pitches (f : Xch → Xch) : (s.modXch f).pitches = s.pitches := rfl
@[simp] theorem modXch_mem (f : Xch → Xch) : (s.modXch f).mem = s.mem := rfl
@[simp] theorem modXch_core (f : Xch → Xch) : (s.modXch f).core = s.core := rfl
@[simp] theorem modXch_links (f : Xch → Xch) : (s.modXch f).links = s.links := rfl
@[simp] theorem modXch_guys (f : Xch → Xch) : (s.modXch f).guys = s.guys := rfl
@[simp] theorem modXch_memb (f : Xch → Xch) : (s.modXch f).memb = s.memb := rfl
@[simp] theorem modXch_stp (f : Xch → Xch) : (s.modXch f).stp = s.stp := rfl
@[simp] theorem modXch_fnc (f : Xch → Xch) : (s.modXch f).fnc = s.fnc := rfl
@[simp] theorem modXch_xch (f : Xch → Xch) : (s.modXch f).xch = f s.xch := rfl
@[simp] theorem modXch_ctxs (f : Xch → Xch) : (s.modXch f).ctxs = s.ctxs := rfl
@[simp] theorem modXch_ktl (f : Xch → Xch) : (s.modXch f).ktl = s.ktl := rfl
@[simp] theorem modXch_stn (f : Xch → Xch) : (s.modXch f).stn = s.stn := rfl
@[simp] theorem modXch_drain (f : Xch → Xch) : (s.modXch f).drain = s.drain := rfl
@[simp] theorem modXch_col (f : Xch → Xch) : (s.modXch f).col = s.col := rfl
@[simp] theorem modXch_hold (f : Xch → Xch) : (s.modXch f).hold = s.hold := rfl
@[simp] theorem modXch_bal (f : Xch → Xch) : (s.modXch f).bal = s.bal := rfl
@[simp] theorem modXch_rsl (f : Xch → Xch) : (s.modXch f).rsl = s.rsl := rfl
@[simp] theorem modXch_det (f : Xch → Xch) : (s.modXch f).det = s.det := rfl
@[simp] theorem modXch_free (f : Xch → Xch) : (s.modXch f).free = s.free := rfl

@[simp] theorem modKtl_pending (f : Ktl → Ktl) : (s.modKtl f).pending = s.pending := rfl
@[simp] theorem modKtl_regs (f : Ktl → Ktl) : (s.modKtl f).regs = s.regs := rfl
@[simp] theorem modKtl_glb (f : Ktl → Ktl) : (s.modKtl f).glb = s.glb := rfl
@[simp] theorem modKtl_clk (f : Ktl → Ktl) : (s.modKtl f).clk = s.clk := rfl
@[simp] theorem modKtl_ctl (f : Ktl → Ktl) : (s.modKtl f).ctl = s.ctl := rfl
@[simp] theorem modKtl_lnt (f : Ktl → Ktl) : (s.modKtl f).lnt = s.lnt := rfl
@[simp] theorem modKtl_start (f : Ktl → Ktl) : (s.modKtl f).start = s.start := rfl
@[simp] theorem modKtl_pitches (f : Ktl → Ktl) : (s.modKtl f).pitches = s.pitches := rfl
@[simp] theorem modKtl_mem (f : Ktl → Ktl) : (s.modKtl f).mem = s.mem := rfl
@[simp] theorem modKtl_core (f : Ktl → Ktl) : (s.modKtl f).core = s.core := rfl
@[simp] theorem modKtl_links (f : Ktl → Ktl) : (s.modKtl f).links = s.links := rfl
@[simp] theorem modKtl_guys (f : Ktl → Ktl) : (s.modKtl f).guys = s.guys := rfl
@[simp] theorem modKtl_memb (f : Ktl → Ktl) : (s.modKtl f).memb = s.memb := rfl
@[simp] theorem modKtl_stp (f : Ktl → Ktl) : (s.modKtl f).stp = s.stp := rfl
@[simp] theorem modKtl_fnc (f : Ktl → Ktl) : (s.modKtl f).fnc = s.fnc := rfl
@[simp] theorem modKtl_xch (f : Ktl → Ktl) : (s.modKtl f).xch = s.xch := rfl
@[simp] theorem modKtl_ctxs (f : Ktl → Ktl) : (s.modKtl f).ctxs = s.ctxs := rfl
@[simp] theorem modKtl_ktl (f : Ktl → Ktl) : (s.modKtl f).ktl = f s.ktl := rfl
@[simp] theorem modKtl_stn (f : Ktl → Ktl) : (s.modKtl f).stn = s.stn := rfl
@[simp] theorem modKtl_drain (f : Ktl → Ktl) : (s.modKtl f).drain = s.drain := rfl
@[simp] theorem modKtl_col (f : Ktl → Ktl) : (s.modKtl f).col = s.col := rfl
@[simp] theorem modKtl_hold (f : Ktl → Ktl) : (s.modKtl f).hold = s.hold := rfl
@[simp] theorem modKtl_bal (f : Ktl → Ktl) : (s.modKtl f).bal = s.bal := rfl
@[simp] theorem modKtl_rsl (f : Ktl → Ktl) : (s.modKtl f).rsl = s.rsl := rfl
@[simp] theorem modKtl_det (f : Ktl → Ktl) : (s.modKtl f).det = s.det := rfl
@[simp] theorem modKtl_free (f : Ktl → Ktl) : (s.modKtl f).free = s.free := rfl

@[simp] theorem memPost_pending (r : MemReq) : (s.memPost r).pending = s.pending := rfl
@[simp] theorem memPost_regs (r : MemReq) : (s.memPost r).regs = s.regs := rfl
@[simp] theorem memPost_glb (r : MemReq) : (s.memPost r).glb = s.glb := rfl
@[simp] theorem memPost_clk (r : MemReq) : (s.memPost r).clk = s.clk := rfl
@[simp] theorem memPost_ctl (r : MemReq) : (s.memPost r).ctl = s.ctl := rfl
@[simp] theorem memPost_lnt (r : MemReq) : (s.memPost r).lnt = s.lnt := rfl
@[simp] theorem memPost_start (r : MemReq) : (s.memPost r).start = s.start := rfl
@[simp] theorem memPost_pitches (r : MemReq) : (s.memPost r).pitches = s.pitches := rfl
@[simp] theorem memPost_mem (r : MemReq) :
    (s.memPost r).mem = { s.mem with wait := s.mem.wait ++ [{ r with id := s.mem.nextId }], nextId := s.mem.nextId + 1 } := rfl
@[simp] theorem memPost_core (r : MemReq) : (s.memPost r).core = s.core := rfl
@[simp] theorem memPost_links (r : MemReq) : (s.memPost r).links = s.links := rfl
@[simp] theorem memPost_guys (r : MemReq) : (s.memPost r).guys = s.guys := rfl
@[simp] theorem memPost_memb (r : MemReq) : (s.memPost r).memb = s.memb := rfl
@[simp] theorem memPost_stp (r : MemReq) : (s.memPost r).stp = s.stp := rfl
@[simp] theorem memPost_fnc (r : MemReq) : (s.memPost r).fnc = s.fnc := rfl
@[simp] theorem memPost_xch (r : MemReq) : (s.memPost r).xch = s.xch := rfl
@[simp] theorem memPost_ctxs (r : MemReq) : (s.memPost r).ctxs = s.ctxs := rfl
@[simp] theorem memPost_ktl (r : MemReq) : (s.memPost r).ktl = s.ktl := rfl
@[simp] theorem memPost_stn (r : MemReq) : (s.memPost r).stn = s.stn := rfl
@[simp] theorem memPost_drain (r : MemReq) : (s.memPost r).drain = s.drain := rfl
@[simp] theorem memPost_col (r : MemReq) : (s.memPost r).col = s.col := rfl
@[simp] theorem memPost_hold (r : MemReq) : (s.memPost r).hold = s.hold := rfl
@[simp] theorem memPost_bal (r : MemReq) : (s.memPost r).bal = s.bal := rfl
@[simp] theorem memPost_rsl (r : MemReq) : (s.memPost r).rsl = s.rsl := rfl
@[simp] theorem memPost_det (r : MemReq) : (s.memPost r).det = s.det := rfl
@[simp] theorem memPost_free (r : MemReq) : (s.memPost r).free = s.free := rfl

/-- Requests posted one after another leave what one posted request leaves. -/
theorem posts_eq {α : Type} (f : State → α) (h : ∀ s r, f (memPost s r) = f s) (l : List MemReq) (s : State) :
    f (l.foldl memPost s) = f s := by
  induction l generalizing s with
  | nil => rfl
  | cons r l ih => exact (ih _).trans (h s r)

/-- Requests posted one after another wait in that order, numbered on from the last one. -/
theorem posts_mem (l : List MemReq) (s : State) : (l.foldl memPost s).mem = { s.mem with
    wait := s.mem.wait ++ (l.zipIdx s.mem.nextId).map (fun p => { p.1 with id := p.2 })
    nextId := s.mem.nextId + l.length } := by
  induction l generalizing s with
  | nil => simp
  | cons r l ih => rw [List.foldl_cons, ih]; simp [Nat.add_assoc, Nat.add_comm 1]

@[simp] theorem memWrite_pending (c k a : Nat) (bs : Bytes) (w : MemWhy) : (s.memWrite c k a bs w).pending = s.pending :=
  posts_eq (·.pending) (fun _ _ => rfl) _ _
@[simp] theorem memWrite_regs (c k a : Nat) (bs : Bytes) (w : MemWhy) : (s.memWrite c k a bs w).regs = s.regs :=
  posts_eq (·.regs) (fun _ _ => rfl) _ _
@[simp] theorem memWrite_glb (c k a : Nat) (bs : Bytes) (w : MemWhy) : (s.memWrite c k a bs w).glb = s.glb :=
  posts_eq (·.glb) (fun _ _ => rfl) _ _
@[simp] theorem memWrite_clk (c k a : Nat) (bs : Bytes) (w : MemWhy) : (s.memWrite c k a bs w).clk = s.clk :=
  posts_eq (·.clk) (fun _ _ => rfl) _ _
@[simp] theorem memWrite_ctl (c k a : Nat) (bs : Bytes) (w : MemWhy) : (s.memWrite c k a bs w).ctl = s.ctl :=
  posts_eq (·.ctl) (fun _ _ => rfl) _ _
@[simp] theorem memWrite_lnt (c k a : Nat) (bs : Bytes) (w : MemWhy) : (s.memWrite c k a bs w).lnt = s.lnt :=
  posts_eq (·.lnt) (fun _ _ => rfl) _ _
@[simp] theorem memWrite_start (c k a : Nat) (bs : Bytes) (w : MemWhy) : (s.memWrite c k a bs w).start = s.start :=
  posts_eq (·.start) (fun _ _ => rfl) _ _
@[simp] theorem memWrite_pitches (c k a : Nat) (bs : Bytes) (w : MemWhy) : (s.memWrite c k a bs w).pitches = s.pitches :=
  posts_eq (·.pitches) (fun _ _ => rfl) _ _
@[simp] theorem memWrite_mem (c k a : Nat) (bs : Bytes) (w : MemWhy) : (s.memWrite c k a bs w).mem = { s.mem with
    wait := s.mem.wait ++ ((writeReqs c k w (ceilDiv bs.length 4096) a bs).zipIdx s.mem.nextId).map (fun p => { p.1 with id := p.2 })
    nextId := s.mem.nextId + (writeReqs c k w (ceilDiv bs.length 4096) a bs).length } := posts_mem _ _
@[simp] theorem memWrite_core (c k a : Nat) (bs : Bytes) (w : MemWhy) : (s.memWrite c k a bs w).core = s.core :=
  posts_eq (·.core) (fun _ _ => rfl) _ _
@[simp] theorem memWrite_links (c k a : Nat) (bs : Bytes) (w : MemWhy) : (s.memWrite c k a bs w).links = s.links :=
  posts_eq (·.links) (fun _ _ => rfl) _ _
@[simp] theorem memWrite_guys (c k a : Nat) (bs : Bytes) (w : MemWhy) : (s.memWrite c k a bs w).guys = s.guys :=
  posts_eq (·.guys) (fun _ _ => rfl) _ _
@[simp] theorem memWrite_memb (c k a : Nat) (bs : Bytes) (w : MemWhy) : (s.memWrite c k a bs w).memb = s.memb :=
  posts_eq (·.memb) (fun _ _ => rfl) _ _
@[simp] theorem memWrite_stp (c k a : Nat) (bs : Bytes) (w : MemWhy) : (s.memWrite c k a bs w).stp = s.stp :=
  posts_eq (·.stp) (fun _ _ => rfl) _ _
@[simp] theorem memWrite_fnc (c k a : Nat) (bs : Bytes) (w : MemWhy) : (s.memWrite c k a bs w).fnc = s.fnc :=
  posts_eq (·.fnc) (fun _ _ => rfl) _ _
@[simp] theorem memWrite_xch (c k a : Nat) (bs : Bytes) (w : MemWhy) : (s.memWrite c k a bs w).xch = s.xch :=
  posts_eq (·.xch) (fun _ _ => rfl) _ _
@[simp] theorem memWrite_ctxs (c k a : Nat) (bs : Bytes) (w : MemWhy) : (s.memWrite c k a bs w).ctxs = s.ctxs :=
  posts_eq (·.ctxs) (fun _ _ => rfl) _ _
@[simp] theorem memWrite_ktl (c k a : Nat) (bs : Bytes) (w : MemWhy) : (s.memWrite c k a bs w).ktl = s.ktl :=
  posts_eq (·.ktl) (fun _ _ => rfl) _ _
@[simp] theorem memWrite_stn (c k a : Nat) (bs : Bytes) (w : MemWhy) : (s.memWrite c k a bs w).stn = s.stn :=
  posts_eq (·.stn) (fun _ _ => rfl) _ _
@[simp] theorem memWrite_drain (c k a : Nat) (bs : Bytes) (w : MemWhy) : (s.memWrite c k a bs w).drain = s.drain :=
  posts_eq (·.drain) (fun _ _ => rfl) _ _
@[simp] theorem memWrite_col (c k a : Nat) (bs : Bytes) (w : MemWhy) : (s.memWrite c k a bs w).col = s.col :=
  posts_eq (·.col) (fun _ _ => rfl) _ _
@[simp] theorem memWrite_hold (c k a : Nat) (bs : Bytes) (w : MemWhy) : (s.memWrite c k a bs w).hold = s.hold :=
  posts_eq (·.hold) (fun _ _ => rfl) _ _
@[simp] theorem memWrite_bal (c k a : Nat) (bs : Bytes) (w : MemWhy) : (s.memWrite c k a bs w).bal = s.bal :=
  posts_eq (·.bal) (fun _ _ => rfl) _ _
@[simp] theorem memWrite_rsl (c k a : Nat) (bs : Bytes) (w : MemWhy) : (s.memWrite c k a bs w).rsl = s.rsl :=
  posts_eq (·.rsl) (fun _ _ => rfl) _ _
@[simp] theorem memWrite_det (c k a : Nat) (bs : Bytes) (w : MemWhy) : (s.memWrite c k a bs w).det = s.det :=
  posts_eq (·.det) (fun _ _ => rfl) _ _
@[simp] theorem memWrite_free (c k a : Nat) (bs : Bytes) (w : MemWhy) : (s.memWrite c k a bs w).free = s.free :=
  posts_eq (·.free) (fun _ _ => rfl) _ _

@[simp] theorem modPort_pending (n : Nat) (f : Port → Port) : (s.modPort n f).pending = s.pending := rfl
@[simp] theorem modPort_regs (n : Nat) (f : Port → Port) : (s.modPort n f).regs = s.regs := rfl
@[simp] theorem modPort_glb (n : Nat) (f : Port → Port) : (s.modPort n f).glb = s.glb := rfl
@[simp] theorem modPort_clk (n : Nat) (f : Port → Port) : (s.modPort n f).clk = s.clk := rfl
@[simp] theorem modPort_ctl (n : Nat) (f : Port → Port) : (s.modPort n f).ctl = s.ctl := rfl
@[simp] theorem modPort_lnt (n : Nat) (f : Port → Port) : (s.modPort n f).lnt = s.lnt := rfl
@[simp] theorem modPort_start (n : Nat) (f : Port → Port) : (s.modPort n f).start = s.start := rfl
@[simp] theorem modPort_pitches (n : Nat) (f : Port → Port) : (s.modPort n f).pitches = s.pitches := rfl
@[simp] theorem modPort_mem (n : Nat) (f : Port → Port) : (s.modPort n f).mem = s.mem := rfl
@[simp] theorem modPort_core (n : Nat) (f : Port → Port) : (s.modPort n f).core = s.core := rfl
@[simp] theorem modPort_links (n : Nat) (f : Port → Port) : (s.modPort n f).links = { s.links with ports := lset n (f (s.port n)) s.links.ports } := rfl
@[simp] theorem modPort_guys (n : Nat) (f : Port → Port) : (s.modPort n f).guys = s.guys := rfl
@[simp] theorem modPort_memb (n : Nat) (f : Port → Port) : (s.modPort n f).memb = s.memb := rfl
@[simp] theorem modPort_stp (n : Nat) (f : Port → Port) : (s.modPort n f).stp = s.stp := rfl
@[simp] theorem modPort_fnc (n : Nat) (f : Port → Port) : (s.modPort n f).fnc = s.fnc := rfl
@[simp] theorem modPort_xch (n : Nat) (f : Port → Port) : (s.modPort n f).xch = s.xch := rfl
@[simp] theorem modPort_ctxs (n : Nat) (f : Port → Port) : (s.modPort n f).ctxs = s.ctxs := rfl
@[simp] theorem modPort_ktl (n : Nat) (f : Port → Port) : (s.modPort n f).ktl = s.ktl := rfl
@[simp] theorem modPort_stn (n : Nat) (f : Port → Port) : (s.modPort n f).stn = s.stn := rfl
@[simp] theorem modPort_drain (n : Nat) (f : Port → Port) : (s.modPort n f).drain = s.drain := rfl
@[simp] theorem modPort_col (n : Nat) (f : Port → Port) : (s.modPort n f).col = s.col := rfl
@[simp] theorem modPort_hold (n : Nat) (f : Port → Port) : (s.modPort n f).hold = s.hold := rfl
@[simp] theorem modPort_bal (n : Nat) (f : Port → Port) : (s.modPort n f).bal = s.bal := rfl
@[simp] theorem modPort_rsl (n : Nat) (f : Port → Port) : (s.modPort n f).rsl = s.rsl := rfl
@[simp] theorem modPort_det (n : Nat) (f : Port → Port) : (s.modPort n f).det = s.det := rfl
@[simp] theorem modPort_free (n : Nat) (f : Port → Port) : (s.modPort n f).free = s.free := rfl

@[simp] theorem modGuy_pending (k : Nat) (f : GuyLine → GuyLine) : (s.modGuy k f).pending = s.pending := rfl
@[simp] theorem modGuy_regs (k : Nat) (f : GuyLine → GuyLine) : (s.modGuy k f).regs = s.regs := rfl
@[simp] theorem modGuy_glb (k : Nat) (f : GuyLine → GuyLine) : (s.modGuy k f).glb = s.glb := rfl
@[simp] theorem modGuy_clk (k : Nat) (f : GuyLine → GuyLine) : (s.modGuy k f).clk = s.clk := rfl
@[simp] theorem modGuy_ctl (k : Nat) (f : GuyLine → GuyLine) : (s.modGuy k f).ctl = s.ctl := rfl
@[simp] theorem modGuy_lnt (k : Nat) (f : GuyLine → GuyLine) : (s.modGuy k f).lnt = s.lnt := rfl
@[simp] theorem modGuy_start (k : Nat) (f : GuyLine → GuyLine) : (s.modGuy k f).start = s.start := rfl
@[simp] theorem modGuy_pitches (k : Nat) (f : GuyLine → GuyLine) : (s.modGuy k f).pitches = s.pitches := rfl
@[simp] theorem modGuy_mem (k : Nat) (f : GuyLine → GuyLine) : (s.modGuy k f).mem = s.mem := rfl
@[simp] theorem modGuy_core (k : Nat) (f : GuyLine → GuyLine) : (s.modGuy k f).core = s.core := rfl
@[simp] theorem modGuy_links (k : Nat) (f : GuyLine → GuyLine) : (s.modGuy k f).links = s.links := rfl
@[simp] theorem modGuy_guys (k : Nat) (f : GuyLine → GuyLine) : (s.modGuy k f).guys =
    { s.guys with lines := tput (guyReset k) k (f (s.guy k)) s.guys.lines } := rfl
@[simp] theorem modGuy_memb (k : Nat) (f : GuyLine → GuyLine) : (s.modGuy k f).memb = s.memb := rfl
@[simp] theorem modGuy_stp (k : Nat) (f : GuyLine → GuyLine) : (s.modGuy k f).stp = s.stp := rfl
@[simp] theorem modGuy_fnc (k : Nat) (f : GuyLine → GuyLine) : (s.modGuy k f).fnc = s.fnc := rfl
@[simp] theorem modGuy_xch (k : Nat) (f : GuyLine → GuyLine) : (s.modGuy k f).xch = s.xch := rfl
@[simp] theorem modGuy_ctxs (k : Nat) (f : GuyLine → GuyLine) : (s.modGuy k f).ctxs = s.ctxs := rfl
@[simp] theorem modGuy_ktl (k : Nat) (f : GuyLine → GuyLine) : (s.modGuy k f).ktl = s.ktl := rfl
@[simp] theorem modGuy_stn (k : Nat) (f : GuyLine → GuyLine) : (s.modGuy k f).stn = s.stn := rfl
@[simp] theorem modGuy_drain (k : Nat) (f : GuyLine → GuyLine) : (s.modGuy k f).drain = s.drain := rfl
@[simp] theorem modGuy_col (k : Nat) (f : GuyLine → GuyLine) : (s.modGuy k f).col = s.col := rfl
@[simp] theorem modGuy_hold (k : Nat) (f : GuyLine → GuyLine) : (s.modGuy k f).hold = s.hold := rfl
@[simp] theorem modGuy_bal (k : Nat) (f : GuyLine → GuyLine) : (s.modGuy k f).bal = s.bal := rfl
@[simp] theorem modGuy_rsl (k : Nat) (f : GuyLine → GuyLine) : (s.modGuy k f).rsl = s.rsl := rfl
@[simp] theorem modGuy_det (k : Nat) (f : GuyLine → GuyLine) : (s.modGuy k f).det = s.det := rfl
@[simp] theorem modGuy_free (k : Nat) (f : GuyLine → GuyLine) : (s.modGuy k f).free = s.free := rfl

@[simp] theorem modGuyDir_pending (d : Nat) (f : GuyDir → GuyDir) : (s.modGuyDir d f).pending = s.pending := rfl
@[simp] theorem modGuyDir_regs (d : Nat) (f : GuyDir → GuyDir) : (s.modGuyDir d f).regs = s.regs := rfl
@[simp] theorem modGuyDir_glb (d : Nat) (f : GuyDir → GuyDir) : (s.modGuyDir d f).glb = s.glb := rfl
@[simp] theorem modGuyDir_clk (d : Nat) (f : GuyDir → GuyDir) : (s.modGuyDir d f).clk = s.clk := rfl
@[simp] theorem modGuyDir_ctl (d : Nat) (f : GuyDir → GuyDir) : (s.modGuyDir d f).ctl = s.ctl := rfl
@[simp] theorem modGuyDir_lnt (d : Nat) (f : GuyDir → GuyDir) : (s.modGuyDir d f).lnt = s.lnt := rfl
@[simp] theorem modGuyDir_start (d : Nat) (f : GuyDir → GuyDir) : (s.modGuyDir d f).start = s.start := rfl
@[simp] theorem modGuyDir_pitches (d : Nat) (f : GuyDir → GuyDir) : (s.modGuyDir d f).pitches = s.pitches := rfl
@[simp] theorem modGuyDir_mem (d : Nat) (f : GuyDir → GuyDir) : (s.modGuyDir d f).mem = s.mem := rfl
@[simp] theorem modGuyDir_core (d : Nat) (f : GuyDir → GuyDir) : (s.modGuyDir d f).core = s.core := rfl
@[simp] theorem modGuyDir_links (d : Nat) (f : GuyDir → GuyDir) : (s.modGuyDir d f).links = s.links := rfl
@[simp] theorem modGuyDir_guys (d : Nat) (f : GuyDir → GuyDir) : (s.modGuyDir d f).guys =
    { s.guys with dirs := tput {} d (f (s.guyDir d)) s.guys.dirs } := rfl
@[simp] theorem modGuyDir_memb (d : Nat) (f : GuyDir → GuyDir) : (s.modGuyDir d f).memb = s.memb := rfl
@[simp] theorem modGuyDir_stp (d : Nat) (f : GuyDir → GuyDir) : (s.modGuyDir d f).stp = s.stp := rfl
@[simp] theorem modGuyDir_fnc (d : Nat) (f : GuyDir → GuyDir) : (s.modGuyDir d f).fnc = s.fnc := rfl
@[simp] theorem modGuyDir_xch (d : Nat) (f : GuyDir → GuyDir) : (s.modGuyDir d f).xch = s.xch := rfl
@[simp] theorem modGuyDir_ctxs (d : Nat) (f : GuyDir → GuyDir) : (s.modGuyDir d f).ctxs = s.ctxs := rfl
@[simp] theorem modGuyDir_ktl (d : Nat) (f : GuyDir → GuyDir) : (s.modGuyDir d f).ktl = s.ktl := rfl
@[simp] theorem modGuyDir_stn (d : Nat) (f : GuyDir → GuyDir) : (s.modGuyDir d f).stn = s.stn := rfl
@[simp] theorem modGuyDir_drain (d : Nat) (f : GuyDir → GuyDir) : (s.modGuyDir d f).drain = s.drain := rfl
@[simp] theorem modGuyDir_col (d : Nat) (f : GuyDir → GuyDir) : (s.modGuyDir d f).col = s.col := rfl
@[simp] theorem modGuyDir_hold (d : Nat) (f : GuyDir → GuyDir) : (s.modGuyDir d f).hold = s.hold := rfl
@[simp] theorem modGuyDir_bal (d : Nat) (f : GuyDir → GuyDir) : (s.modGuyDir d f).bal = s.bal := rfl
@[simp] theorem modGuyDir_rsl (d : Nat) (f : GuyDir → GuyDir) : (s.modGuyDir d f).rsl = s.rsl := rfl
@[simp] theorem modGuyDir_det (d : Nat) (f : GuyDir → GuyDir) : (s.modGuyDir d f).det = s.det := rfl
@[simp] theorem modGuyDir_free (d : Nat) (f : GuyDir → GuyDir) : (s.modGuyDir d f).free = s.free := rfl

@[simp] theorem landHere_pending (l : Landed) : (s.landHere l).pending = s.pending := rfl
@[simp] theorem landHere_regs (l : Landed) : (s.landHere l).regs = s.regs := rfl
@[simp] theorem landHere_glb (l : Landed) : (s.landHere l).glb = s.glb := rfl
@[simp] theorem landHere_clk (l : Landed) : (s.landHere l).clk = s.clk := rfl
@[simp] theorem landHere_ctl (l : Landed) : (s.landHere l).ctl = s.ctl := rfl
@[simp] theorem landHere_lnt (l : Landed) : (s.landHere l).lnt = s.lnt := rfl
@[simp] theorem landHere_start (l : Landed) : (s.landHere l).start = s.start := rfl
@[simp] theorem landHere_pitches (l : Landed) : (s.landHere l).pitches = s.pitches := rfl
@[simp] theorem landHere_mem (l : Landed) : (s.landHere l).mem = s.mem := rfl
@[simp] theorem landHere_core (l : Landed) : (s.landHere l).core = s.core := rfl
@[simp] theorem landHere_links (l : Landed) : (s.landHere l).links = s.links := rfl
@[simp] theorem landHere_guys (l : Landed) : (s.landHere l).guys = s.guys := rfl
@[simp] theorem landHere_memb (l : Landed) : (s.landHere l).memb = s.memb := rfl
@[simp] theorem landHere_stp (l : Landed) : (s.landHere l).stp = s.stp := rfl
@[simp] theorem landHere_fnc (l : Landed) : (s.landHere l).fnc = s.fnc := rfl
@[simp] theorem landHere_xch (l : Landed) : (s.landHere l).xch = { s.xch with inbox := s.xch.inbox ++ [l] } := rfl
@[simp] theorem landHere_ctxs (l : Landed) : (s.landHere l).ctxs = s.ctxs := rfl
@[simp] theorem landHere_ktl (l : Landed) : (s.landHere l).ktl = s.ktl := rfl
@[simp] theorem landHere_stn (l : Landed) : (s.landHere l).stn = s.stn := rfl
@[simp] theorem landHere_drain (l : Landed) : (s.landHere l).drain = s.drain := rfl
@[simp] theorem landHere_col (l : Landed) : (s.landHere l).col = s.col := rfl
@[simp] theorem landHere_hold (l : Landed) : (s.landHere l).hold = s.hold := rfl
@[simp] theorem landHere_bal (l : Landed) : (s.landHere l).bal = s.bal := rfl
@[simp] theorem landHere_rsl (l : Landed) : (s.landHere l).rsl = s.rsl := rfl
@[simp] theorem landHere_det (l : Landed) : (s.landHere l).det = s.det := rfl
@[simp] theorem landHere_free (l : Landed) : (s.landHere l).free = s.free := rfl

@[simp] theorem freeChunk_pending (n : Nat) : (s.freeChunk n).pending = s.pending := rfl
@[simp] theorem freeChunk_regs (n : Nat) : (s.freeChunk n).regs = s.regs := rfl
@[simp] theorem freeChunk_glb (n : Nat) : (s.freeChunk n).glb = s.glb := rfl
@[simp] theorem freeChunk_clk (n : Nat) : (s.freeChunk n).clk = s.clk := rfl
@[simp] theorem freeChunk_ctl (n : Nat) : (s.freeChunk n).ctl = s.ctl := rfl
@[simp] theorem freeChunk_lnt (n : Nat) : (s.freeChunk n).lnt = s.lnt := rfl
@[simp] theorem freeChunk_start (n : Nat) : (s.freeChunk n).start = s.start := rfl
@[simp] theorem freeChunk_pitches (n : Nat) : (s.freeChunk n).pitches = s.pitches := rfl
@[simp] theorem freeChunk_mem (n : Nat) : (s.freeChunk n).mem = s.mem := rfl
@[simp] theorem freeChunk_core (n : Nat) : (s.freeChunk n).core = s.core := rfl
@[simp] theorem freeChunk_links (n : Nat) : (s.freeChunk n).links = s.links := rfl
@[simp] theorem freeChunk_guys (n : Nat) : (s.freeChunk n).guys = s.guys := rfl
@[simp] theorem freeChunk_memb (n : Nat) : (s.freeChunk n).memb = s.memb := rfl
@[simp] theorem freeChunk_stp (n : Nat) : (s.freeChunk n).stp = s.stp := rfl
@[simp] theorem freeChunk_fnc (n : Nat) : (s.freeChunk n).fnc = s.fnc := rfl
@[simp] theorem freeChunk_xch (n : Nat) : (s.freeChunk n).xch = { s.xch with table := tdel n s.xch.table } := rfl
@[simp] theorem freeChunk_ctxs (n : Nat) : (s.freeChunk n).ctxs = s.ctxs := rfl
@[simp] theorem freeChunk_ktl (n : Nat) : (s.freeChunk n).ktl = s.ktl := rfl
@[simp] theorem freeChunk_stn (n : Nat) : (s.freeChunk n).stn = s.stn := rfl
@[simp] theorem freeChunk_drain (n : Nat) : (s.freeChunk n).drain = s.drain := rfl
@[simp] theorem freeChunk_col (n : Nat) : (s.freeChunk n).col = s.col := rfl
@[simp] theorem freeChunk_hold (n : Nat) : (s.freeChunk n).hold = s.hold := rfl
@[simp] theorem freeChunk_bal (n : Nat) : (s.freeChunk n).bal = s.bal := rfl
@[simp] theorem freeChunk_rsl (n : Nat) : (s.freeChunk n).rsl = s.rsl := rfl
@[simp] theorem freeChunk_det (n : Nat) : (s.freeChunk n).det = s.det := rfl
@[simp] theorem freeChunk_free (n : Nat) : (s.freeChunk n).free = s.free := rfl

@[simp] theorem answer_pending (v : Nat) : (s.answer v).pending = s.pending := rfl
@[simp] theorem answer_regs (v : Nat) : (s.answer v).regs = s.regs := rfl
@[simp] theorem answer_glb (v : Nat) : (s.answer v).glb = s.glb := rfl
@[simp] theorem answer_clk (v : Nat) : (s.answer v).clk = s.clk := rfl
@[simp] theorem answer_ctl (v : Nat) : (s.answer v).ctl = { s.ctl with rdata := BitVec.ofNat 32 v, rpar := bytePar v, err := false } := rfl
@[simp] theorem answer_lnt (v : Nat) : (s.answer v).lnt = s.lnt := rfl
@[simp] theorem answer_start (v : Nat) : (s.answer v).start = s.start := rfl
@[simp] theorem answer_pitches (v : Nat) : (s.answer v).pitches = s.pitches := rfl
@[simp] theorem answer_mem (v : Nat) : (s.answer v).mem = s.mem := rfl
@[simp] theorem answer_core (v : Nat) : (s.answer v).core = s.core := rfl
@[simp] theorem answer_links (v : Nat) : (s.answer v).links = s.links := rfl
@[simp] theorem answer_guys (v : Nat) : (s.answer v).guys = s.guys := rfl
@[simp] theorem answer_memb (v : Nat) : (s.answer v).memb = s.memb := rfl
@[simp] theorem answer_stp (v : Nat) : (s.answer v).stp = s.stp := rfl
@[simp] theorem answer_fnc (v : Nat) : (s.answer v).fnc = s.fnc := rfl
@[simp] theorem answer_xch (v : Nat) : (s.answer v).xch = s.xch := rfl
@[simp] theorem answer_ctxs (v : Nat) : (s.answer v).ctxs = s.ctxs := rfl
@[simp] theorem answer_ktl (v : Nat) : (s.answer v).ktl = s.ktl := rfl
@[simp] theorem answer_stn (v : Nat) : (s.answer v).stn = s.stn := rfl
@[simp] theorem answer_drain (v : Nat) : (s.answer v).drain = s.drain := rfl
@[simp] theorem answer_col (v : Nat) : (s.answer v).col = s.col := rfl
@[simp] theorem answer_hold (v : Nat) : (s.answer v).hold = s.hold := rfl
@[simp] theorem answer_bal (v : Nat) : (s.answer v).bal = s.bal := rfl
@[simp] theorem answer_rsl (v : Nat) : (s.answer v).rsl = s.rsl := rfl
@[simp] theorem answer_det (v : Nat) : (s.answer v).det = s.det := rfl
@[simp] theorem answer_free (v : Nat) : (s.answer v).free = s.free := rfl

@[simp] theorem refuse_pending : (s.refuse).pending = s.pending := rfl
@[simp] theorem refuse_regs : (s.refuse).regs = s.regs := rfl
@[simp] theorem refuse_glb : (s.refuse).glb = s.glb := rfl
@[simp] theorem refuse_clk : (s.refuse).clk = s.clk := rfl
@[simp] theorem refuse_ctl : (s.refuse).ctl = { s.ctl with rdata := 0#32, rpar := 0#4, err := true } := rfl
@[simp] theorem refuse_lnt : (s.refuse).lnt = s.lnt := rfl
@[simp] theorem refuse_start : (s.refuse).start = s.start := rfl
@[simp] theorem refuse_pitches : (s.refuse).pitches = s.pitches := rfl
@[simp] theorem refuse_mem : (s.refuse).mem = s.mem := rfl
@[simp] theorem refuse_core : (s.refuse).core = s.core := rfl
@[simp] theorem refuse_links : (s.refuse).links = s.links := rfl
@[simp] theorem refuse_guys : (s.refuse).guys = s.guys := rfl
@[simp] theorem refuse_memb : (s.refuse).memb = s.memb := rfl
@[simp] theorem refuse_stp : (s.refuse).stp = s.stp := rfl
@[simp] theorem refuse_fnc : (s.refuse).fnc = s.fnc := rfl
@[simp] theorem refuse_xch : (s.refuse).xch = s.xch := rfl
@[simp] theorem refuse_ctxs : (s.refuse).ctxs = s.ctxs := rfl
@[simp] theorem refuse_ktl : (s.refuse).ktl = s.ktl := rfl
@[simp] theorem refuse_stn : (s.refuse).stn = s.stn := rfl
@[simp] theorem refuse_drain : (s.refuse).drain = s.drain := rfl
@[simp] theorem refuse_col : (s.refuse).col = s.col := rfl
@[simp] theorem refuse_hold : (s.refuse).hold = s.hold := rfl
@[simp] theorem refuse_bal : (s.refuse).bal = s.bal := rfl
@[simp] theorem refuse_rsl : (s.refuse).rsl = s.rsl := rfl
@[simp] theorem refuse_det : (s.refuse).det = s.det := rfl
@[simp] theorem refuse_free : (s.refuse).free = s.free := rfl

@[simp] theorem ackWrite_pending : (s.ackWrite).pending = s.pending := rfl
@[simp] theorem ackWrite_regs : (s.ackWrite).regs = s.regs := rfl
@[simp] theorem ackWrite_glb : (s.ackWrite).glb = s.glb := rfl
@[simp] theorem ackWrite_clk : (s.ackWrite).clk = s.clk := rfl
@[simp] theorem ackWrite_ctl : (s.ackWrite).ctl = { s.ctl with rdata := 0#32, rpar := 0#4, err := false } := rfl
@[simp] theorem ackWrite_lnt : (s.ackWrite).lnt = s.lnt := rfl
@[simp] theorem ackWrite_start : (s.ackWrite).start = s.start := rfl
@[simp] theorem ackWrite_pitches : (s.ackWrite).pitches = s.pitches := rfl
@[simp] theorem ackWrite_mem : (s.ackWrite).mem = s.mem := rfl
@[simp] theorem ackWrite_core : (s.ackWrite).core = s.core := rfl
@[simp] theorem ackWrite_links : (s.ackWrite).links = s.links := rfl
@[simp] theorem ackWrite_guys : (s.ackWrite).guys = s.guys := rfl
@[simp] theorem ackWrite_memb : (s.ackWrite).memb = s.memb := rfl
@[simp] theorem ackWrite_stp : (s.ackWrite).stp = s.stp := rfl
@[simp] theorem ackWrite_fnc : (s.ackWrite).fnc = s.fnc := rfl
@[simp] theorem ackWrite_xch : (s.ackWrite).xch = s.xch := rfl
@[simp] theorem ackWrite_ctxs : (s.ackWrite).ctxs = s.ctxs := rfl
@[simp] theorem ackWrite_ktl : (s.ackWrite).ktl = s.ktl := rfl
@[simp] theorem ackWrite_stn : (s.ackWrite).stn = s.stn := rfl
@[simp] theorem ackWrite_drain : (s.ackWrite).drain = s.drain := rfl
@[simp] theorem ackWrite_col : (s.ackWrite).col = s.col := rfl
@[simp] theorem ackWrite_hold : (s.ackWrite).hold = s.hold := rfl
@[simp] theorem ackWrite_bal : (s.ackWrite).bal = s.bal := rfl
@[simp] theorem ackWrite_rsl : (s.ackWrite).rsl = s.rsl := rfl
@[simp] theorem ackWrite_det : (s.ackWrite).det = s.det := rfl
@[simp] theorem ackWrite_free : (s.ackWrite).free = s.free := rfl

@[simp] theorem modCopy_pending (b : Bool) (f : Infu → Infu) : (s.modCopy b f).pending = s.pending := rfl
@[simp] theorem modCopy_regs (b : Bool) (f : Infu → Infu) : (s.modCopy b f).regs = s.regs := rfl
@[simp] theorem modCopy_glb (b : Bool) (f : Infu → Infu) : (s.modCopy b f).glb = s.glb := rfl
@[simp] theorem modCopy_clk (b : Bool) (f : Infu → Infu) : (s.modCopy b f).clk = s.clk := rfl
@[simp] theorem modCopy_ctl (b : Bool) (f : Infu → Infu) : (s.modCopy b f).ctl = s.ctl := rfl
@[simp] theorem modCopy_lnt (b : Bool) (f : Infu → Infu) : (s.modCopy b f).lnt = s.lnt := rfl
@[simp] theorem modCopy_start (b : Bool) (f : Infu → Infu) : (s.modCopy b f).start = s.start := rfl
@[simp] theorem modCopy_pitches (b : Bool) (f : Infu → Infu) : (s.modCopy b f).pitches = s.pitches := rfl
@[simp] theorem modCopy_mem (b : Bool) (f : Infu → Infu) : (s.modCopy b f).mem = s.mem := rfl
@[simp] theorem modCopy_core (b : Bool) (f : Infu → Infu) : (s.modCopy b f).core = s.core := rfl
@[simp] theorem modCopy_links (b : Bool) (f : Infu → Infu) : (s.modCopy b f).links = s.links := rfl
@[simp] theorem modCopy_guys (b : Bool) (f : Infu → Infu) : (s.modCopy b f).guys = s.guys := rfl
@[simp] theorem modCopy_memb (b : Bool) (f : Infu → Infu) : (s.modCopy b f).memb = s.memb := rfl
@[simp] theorem modCopy_stp (b : Bool) (f : Infu → Infu) : (s.modCopy b f).stp = s.stp := rfl
@[simp] theorem modCopy_fnc (b : Bool) (f : Infu → Infu) : (s.modCopy b f).fnc = s.fnc := rfl
@[simp] theorem modCopy_xch (b : Bool) (f : Infu → Infu) : (s.modCopy b f).xch = s.xch := rfl
@[simp] theorem modCopy_ctxs (b : Bool) (f : Infu → Infu) : (s.modCopy b f).ctxs = s.ctxs := rfl
@[simp] theorem modCopy_ktl (b : Bool) (f : Infu → Infu) : (s.modCopy b f).ktl = s.ktl := rfl
@[simp] theorem modCopy_stn (b : Bool) (f : Infu → Infu) : (s.modCopy b f).stn = s.stn := rfl
@[simp] theorem modCopy_drain (b : Bool) (f : Infu → Infu) : (s.modCopy b f).drain = s.drain := rfl
@[simp] theorem modCopy_col (b : Bool) (f : Infu → Infu) : (s.modCopy b f).col = s.col := rfl
@[simp] theorem modCopy_hold (b : Bool) (f : Infu → Infu) : (s.modCopy b f).hold = s.hold := rfl
@[simp] theorem modCopy_bal (b : Bool) (f : Infu → Infu) : (s.modCopy b f).bal = s.bal := rfl
@[simp] theorem modCopy_rsl (b : Bool) (f : Infu → Infu) : (s.modCopy b f).rsl = if b then { s.rsl with einf := f s.rsl.einf } else { s.rsl with rinf := f s.rsl.rinf } := rfl
@[simp] theorem modCopy_det (b : Bool) (f : Infu → Infu) : (s.modCopy b f).det = s.det := rfl
@[simp] theorem modCopy_free (b : Bool) (f : Infu → Infu) : (s.modCopy b f).free = s.free := rfl

@[simp] theorem unpend_pending : (s.unpend).pending = s.pending := rfl
@[simp] theorem unpend_regs : (s.unpend).regs = s.regs := rfl
@[simp] theorem unpend_glb : (s.unpend).glb = s.glb := rfl
@[simp] theorem unpend_clk : (s.unpend).clk = s.clk := rfl
@[simp] theorem unpend_ctl : (s.unpend).ctl = s.ctl := rfl
@[simp] theorem unpend_lnt : (s.unpend).lnt = s.lnt := rfl
@[simp] theorem unpend_start : (s.unpend).start = s.start := rfl
@[simp] theorem unpend_pitches : (s.unpend).pitches = s.pitches := rfl
@[simp] theorem unpend_mem : (s.unpend).mem = s.mem := rfl
@[simp] theorem unpend_core : (s.unpend).core = s.core := rfl
@[simp] theorem unpend_links : (s.unpend).links = s.links := rfl
@[simp] theorem unpend_guys : (s.unpend).guys = s.guys := rfl
@[simp] theorem unpend_memb : (s.unpend).memb = s.memb := rfl
@[simp] theorem unpend_stp : (s.unpend).stp = s.stp := rfl
@[simp] theorem unpend_fnc : (s.unpend).fnc = { s.fnc with pend := none } := rfl
@[simp] theorem unpend_xch : (s.unpend).xch = s.xch := rfl
@[simp] theorem unpend_ctxs : (s.unpend).ctxs = s.ctxs := rfl
@[simp] theorem unpend_ktl : (s.unpend).ktl = s.ktl := rfl
@[simp] theorem unpend_stn : (s.unpend).stn = s.stn := rfl
@[simp] theorem unpend_drain : (s.unpend).drain = s.drain := rfl
@[simp] theorem unpend_col : (s.unpend).col = s.col := rfl
@[simp] theorem unpend_hold : (s.unpend).hold = s.hold := rfl
@[simp] theorem unpend_bal : (s.unpend).bal = s.bal := rfl
@[simp] theorem unpend_rsl : (s.unpend).rsl = s.rsl := rfl
@[simp] theorem unpend_det : (s.unpend).det = s.det := rfl
@[simp] theorem unpend_free : (s.unpend).free = s.free := rfl

end Sys2Proof.Machine.State
end

