-- ==== Sys2Proof/Laws/Table.lean ====
section
/-! SUPPORT. Laws of the canonical tables: reading after writing, and that every write keeps the form. -/

namespace Sys2Proof.Machine

variable {α : Type}

theorem tget_tins (d v : α) (t : Table α) (k j : Nat) :
    tget d (tins k v t) j = if j = k then v else tget d t j := by
  induction t with
  | nil => simp [tins, tget]
  | cons e r ih =>
    obtain ⟨k', v'⟩ := e
    unfold tins
    split
    · simp [tget]
    · split
      · subst_vars; simp only [tget]; split <;> rfl
      · simp only [tget, ih]
        split
        · subst_vars; simp [*]; intro h; simp_all
        · rfl

theorem tget_tdel (d : α) (t : Table α) (k j : Nat) :
    tget d (tdel k t) j = if j = k then d else tget d t j := by
  induction t with
  | nil => simp [tdel, tget]
  | cons e r ih =>
    obtain ⟨k', v'⟩ := e
    unfold tdel
    split
    · subst_vars; rw [ih]; simp only [tget]; split <;> rfl
    · simp only [tget, ih]
      split
      · subst_vars; simp_all
        intro h; simp_all
      · rfl

/-- Reading after writing. -/
theorem tget_tput [DecidableEq α] (d v : α) (t : Table α) (k j : Nat) :
    tget d (tput d k v t) j = if j = k then v else tget d t j := by
  unfold tput
  split
  · rw [tget_tdel]; split <;> simp_all
  · rw [tget_tins]

theorem tget_tput_ne [DecidableEq α] (d e v : α) (t : Table α) (k j : Nat) (h : j ≠ k) :
    tget e (tput d k v t) j = tget e t j := by
  unfold tput
  split
  · induction t with
    | nil => rfl
    | cons x r ih =>
      obtain ⟨k', v'⟩ := x
      simp only [tdel, tget]
      split
      · subst_vars; simp [ih, h]
      · simp [tget, ih]
  · induction t with
    | nil => simp [tins, tget, h]
    | cons x r ih =>
      obtain ⟨k', v'⟩ := x
      unfold tins
      split
      · simp [tget, h]
      · split
        · subst_vars; simp [tget, h]
        · simp [tget, ih]

@[simp] theorem tget_tput_self [DecidableEq α] (d v : α) (t : Table α) (k : Nat) : tget d (tput d k v t) k = v := by
  simp [tget_tput]

theorem twf_mono [DecidableEq α] (d : α) (t : Table α) {lo lo' : Nat} (h : lo ≤ lo') (w : twf d lo' t = true) :
    twf d lo t = true := by
  cases t with
  | nil => rfl
  | cons e r =>
    simp only [twf, Bool.and_eq_true, decide_eq_true_eq] at w ⊢
    exact ⟨⟨Nat.le_trans h w.1.1, w.1.2⟩, w.2⟩

theorem twf_tins [DecidableEq α] (d v : α) (t : Table α) (k lo : Nat) (hv : v ≠ d) (hk : lo ≤ k)
    (w : twf d lo t = true) : twf d lo (tins k v t) = true := by
  induction t generalizing lo with
  | nil => simp [tins, twf, hk, hv]
  | cons e r ih =>
    obtain ⟨k', v'⟩ := e
    simp only [twf, Bool.and_eq_true, decide_eq_true_eq] at w
    unfold tins
    split
    · rename_i h
      simp only [twf, Bool.and_eq_true, decide_eq_true_eq]
      exact ⟨⟨hk, by simpa using hv⟩, ⟨h, w.1.2⟩, w.2⟩
    · split
      · subst_vars
        simp only [twf, Bool.and_eq_true, decide_eq_true_eq]
        exact ⟨⟨hk, by simpa using hv⟩, w.2⟩
      · rename_i h1 h2
        simp only [twf, Bool.and_eq_true, decide_eq_true_eq]
        exact ⟨w.1, ih (k' + 1) (by omega) w.2⟩

theorem twf_tdel [DecidableEq α] (d : α) (t : Table α) (k lo : Nat) (w : twf d lo t = true) :
    twf d lo (tdel k t) = true := by
  induction t generalizing lo with
  | nil => rfl
  | cons e r ih =>
    obtain ⟨k', v'⟩ := e
    simp only [twf, Bool.and_eq_true, decide_eq_true_eq] at w
    unfold tdel
    split
    · exact ih lo (twf_mono d r (by omega) w.2)
    · simp only [twf, Bool.and_eq_true, decide_eq_true_eq]
      exact ⟨w.1, ih (k' + 1) w.2⟩

/-- A write keeps the canonical form. -/
theorem twf_tput [DecidableEq α] (d v : α) (t : Table α) (k : Nat) (w : twf d 0 t = true) :
    twf d 0 (tput d k v t) = true := by
  unfold tput
  split
  · exact twf_tdel d t k 0 w
  · exact twf_tins d v t k 0 ‹_› (Nat.zero_le k) w

theorem twf_tmap [DecidableEq α] (d : α) (f : Nat → α → α) (t : Table α) (lo : Nat) (w : twf d lo t = true) :
    twf d lo (tmap d f t) = true := by
  induction t generalizing lo with
  | nil => rfl
  | cons e r ih =>
    obtain ⟨k, v⟩ := e
    simp only [twf, Bool.and_eq_true, decide_eq_true_eq] at w
    simp only [tmap]
    split
    · exact twf_mono d _ (by omega) (ih (k + 1) w.2)
    · rename_i h
      simp only [twf, Bool.and_eq_true, decide_eq_true_eq]
      exact ⟨⟨w.1.1, by simpa using h⟩, ih (k + 1) w.2⟩

theorem regsWf_mono (t : Table Nat) {lo lo' : Nat} (h : lo ≤ lo') (w : regsWf lo' t = true) : regsWf lo t = true := by
  cases t with
  | nil => rfl
  | cons e r =>
    simp only [regsWf, Bool.and_eq_true, decide_eq_true_eq] at w ⊢
    exact ⟨⟨Nat.le_trans h w.1.1, w.1.2⟩, w.2⟩

theorem regsWf_tins (v : Nat) (t : Table Nat) (k lo : Nat) (hv : v < 2 ^ 32) (hd : v ≠ resetWord k) (hk : lo ≤ k)
    (w : regsWf lo t = true) : regsWf lo (tins k v t) = true := by
  induction t generalizing lo with
  | nil => simp only [tins, regsWf, Bool.and_eq_true, decide_eq_true_eq]; exact ⟨⟨hk, hv, hd⟩, trivial⟩
  | cons e r ih =>
    obtain ⟨k', v'⟩ := e
    simp only [regsWf, Bool.and_eq_true, decide_eq_true_eq] at w
    unfold tins
    split
    · rename_i h
      simp only [regsWf, Bool.and_eq_true, decide_eq_true_eq]
      exact ⟨⟨hk, hv, hd⟩, ⟨h, w.1.2⟩, w.2⟩
    · split
      · subst_vars
        simp only [regsWf, Bool.and_eq_true, decide_eq_true_eq]
        exact ⟨⟨hk, hv, hd⟩, w.2⟩
      · simp only [regsWf, Bool.and_eq_true, decide_eq_true_eq]
        exact ⟨w.1, ih (k' + 1) (by omega) w.2⟩

theorem regsWf_tdel (t : Table Nat) (k lo : Nat) (w : regsWf lo t = true) : regsWf lo (tdel k t) = true := by
  induction t generalizing lo with
  | nil => rfl
  | cons e r ih =>
    obtain ⟨k', v'⟩ := e
    simp only [regsWf, Bool.and_eq_true, decide_eq_true_eq] at w
    unfold tdel
    split
    · exact ih lo (regsWf_mono r (by omega) w.2)
    · simp only [regsWf, Bool.and_eq_true, decide_eq_true_eq]
      exact ⟨w.1, ih (k' + 1) w.2⟩

/-- A register write keeps the canonical form of the register file. -/
theorem regsWf_tput (v : Nat) (t : Table Nat) (a : Nat) (hv : v < 2 ^ 32) (w : regsWf 0 t = true) :
    regsWf 0 (tput (resetWord a) a v t) = true := by
  unfold tput
  split
  · exact regsWf_tdel t a 0 w
  · exact regsWf_tins v t a 0 hv ‹_› (Nat.zero_le a) w

@[simp] theorem lset_length (i : Nat) (v : α) (l : List α) : (lset i v l).length = l.length := by
  induction l generalizing i with
  | nil => cases i <;> rfl
  | cons x r ih =>
    cases i with
    | zero => rfl
    | succ n => simp [lset, ih]

theorem lset_getD (i : Nat) (v d : α) (l : List α) (j : Nat) (h : i < l.length) :
    (lset i v l).getD j d = if j = i then v else l.getD j d := by
  induction l generalizing i j with
  | nil => simp at h
  | cons x r ih =>
    cases i with
    | zero => cases j <;> simp [lset]
    | succ n =>
      cases j with
      | zero => simp [lset]
      | succ m => simpa [lset] using ih n m (by simpa using h)

end Sys2Proof.Machine
end

