-- ==== Sys2Proof/Laws/Still.lean ====
section
/-! SUPPORT. What recording an event, raising a notice, counting and recording an input can do to the state, said
once: they change nothing but the register file, the Lantern queue, the record log and the requests that wait for
memory; and which registers they change. -/

namespace Sys2Proof.Machine

theorem State.still_foldl {α : Type} (f : State → α → State) (h : ∀ s x, (f s x).still = s.still) (l : List α) (s : State) :
    (l.foldl f s).still = s.still := by
  induction l generalizing s with
  | nil => rfl
  | cons x r ih => exact (ih _).trans (h s x)

namespace State

variable (s : State)

@[simp] theorem wr_still (a v : Nat) : (s.wr a v).still = s.still := rfl
@[simp] theorem wrF_still (a lo w x : Nat) : (s.wrF a lo w x).still = s.still := rfl
@[simp] theorem wr2_still (a v : Nat) : (s.wr2 a v).still = s.still := rfl
@[simp] theorem count_still (a n : Nat) : (s.count a n).still = s.still := rfl
@[simp] theorem countSat_still (a lo w n : Nat) : (s.countSat a lo w n).still = s.still := rfl
@[simp] theorem setBit_still (a i : Nat) : (s.setBit a i).still = s.still := rfl
@[simp] theorem notice_still (i : Nat) : (s.notice i).still = s.still := rfl
@[simp] theorem memPost_still (r : MemReq) : (s.memPost r).still = s.still := rfl
@[simp] theorem memWrite_still (c k a : Nat) (bs : Bytes) (w : MemWhy) : (s.memWrite c k a bs w).still = s.still :=
  posts_eq (·.still) (fun _ _ => rfl) _ _
@[simp] theorem memWriteWords_still (c k a : Nat) (bs : Bytes) (w : MemWhy) : (s.memWriteWords c k a bs w).still = s.still := rfl
@[simp] theorem modEnts_still (f : List LEntry → List LEntry) : (s.modEnts f).still = s.still := rfl
@[simp] theorem lntMove_still (i : Nat) (p : LPlace) : (s.lntMove i p).still = s.still := rfl
@[simp] theorem lntLost_still (l n : Nat) : (s.lntLost l n).still = s.still := rfl
@[simp] theorem lntCross_still : s.lntCross.still = s.still := rfl

@[simp] theorem lntSpill_still : s.lntSpill.still = s.still := by
  unfold lntSpill; repeat' split
  all_goals rfl

@[simp] theorem lntRefill_still (l n : Nat) : (lntRefill l n s).still = s.still := by
  induction n generalizing s with
  | zero => rfl
  | succ n ih =>
    unfold lntRefill
    repeat' split
    all_goals simp [ih]

@[simp] theorem lntRefillAll_still : s.lntRefillAll.still = s.still := by unfold lntRefillAll; split <;> simp

@[simp] theorem lntAdd_still (l : Nat) (ws : List Nat) : (s.lntAdd l ws).still = s.still := by
  unfold lntAdd; simp only; split <;> (try simp) <;> rfl

@[simp] theorem lntEnter_still (l : Nat) (ws : List Nat) : (s.lntEnter l ws).still = s.still := by
  unfold lntEnter; simp only; repeat' split
  all_goals simp

@[simp] theorem eventAt_still (p k c a b : Nat) : (s.eventAt p k c a b).still = s.still := by simp [eventAt]
@[simp] theorem event_still (k c a b : Nat) : (s.event k c a b).still = s.still := by simp [event]
@[simp] theorem ignored_still (a : Nat) : (s.ignored a).still = s.still := by simp [ignored]

@[simp] theorem memWriteAny_still (c k : Nat) (w : MemWhy) (n a : Nat) (bs : Bytes) :
    (memWriteAny c k w n a bs s).still = s.still := by
  induction n generalizing s a bs with
  | zero => rfl
  | succ n ih => unfold memWriteAny; split <;> simp [ih]

theorem det_still (d : Det) : ({ s with det := d } : State).still = s.still := rfl

@[simp] theorem recPut_still (k src c e t x : Nat) (p : Bytes) (d : Bool) : (s.recPut k src c e t x p d).still = s.still := by
  unfold recPut
  extract_lets
  split
  · rfl
  · split
    · exact (det_still _ _).trans (countSat_still s _ _ _ _)
    · split
      · rw [event_still]; exact (det_still _ _).trans (setBit_still s _ _)
      · rw [memWriteAny_still]; exact det_still s _

@[simp] theorem record_still (k src : Nat) (c : Option Nat) (e t x : Nat) (p : Bytes) (d : Bool) :
    (s.record k src c e t x p d).still = s.still := by
  unfold record; simp only; split <;> simp

@[simp] theorem recWrite_still (a v : Nat) : (s.recWrite a v).still = s.still := by simp [recWrite]

end State

namespace State

variable (s : State)

theorem rd_wr (a v x : Nat) : (s.wr a v).rd x = if x = a then v % 2 ^ 32 else s.rd x := by
  unfold rd wr
  by_cases h : x = a
  · subst h; simp
  · simp [tget_tput_ne, h]

@[simp] theorem rd_wr_self (a v : Nat) : (s.wr a v).rd a = v % 2 ^ 32 := by simp [rd_wr]

theorem rd_wr_ne {a x : Nat} (v : Nat) (h : x ≠ a) : (s.wr a v).rd x = s.rd x := by simp [rd_wr, h]

theorem rd_of_regs {t : State} (h : t.regs = s.regs) (x : Nat) : t.rd x = s.rd x := by simp [rd, h]

@[simp] theorem rd_memPost (r : MemReq) (x : Nat) : (s.memPost r).rd x = s.rd x := rfl
@[simp] theorem rd_modEnts (f : List LEntry → List LEntry) (x : Nat) : (s.modEnts f).rd x = s.rd x := rfl
@[simp] theorem rd_lntMove (i : Nat) (p : LPlace) (x : Nat) : (s.lntMove i p).rd x = s.rd x := rfl
@[simp] theorem rd_memWriteWords (c k a : Nat) (bs : Bytes) (w : MemWhy) (x : Nat) :
    (s.memWriteWords c k a bs w).rd x = s.rd x := rfl
@[simp] theorem rd_memWrite (c k a : Nat) (bs : Bytes) (w : MemWhy) (x : Nat) : (s.memWrite c k a bs w).rd x = s.rd x :=
  posts_eq (·.rd x) (fun _ _ => rfl) _ _
@[simp] theorem rd_modCtx (c : Nat) (f : Ctx → Ctx) (x : Nat) : (s.modCtx c f).rd x = s.rd x := rfl
@[simp] theorem rd_modStep (c : Nat) (f : Step → Step) (x : Nat) : (s.modStep c f).rd x = s.rd x := rfl
@[simp] theorem rd_modPitch (c : Nat) (f : Pitch → Pitch) (x : Nat) : (s.modPitch c f).rd x = s.rd x := rfl
@[simp] theorem rd_modCh (c : Nat) (f : MemCh → MemCh) (x : Nat) : (s.modCh c f).rd x = s.rd x := rfl
@[simp] theorem rd_modPt (c : Nat) (f : CorePt → CorePt) (x : Nat) : (s.modPt c f).rd x = s.rd x := rfl
@[simp] theorem rd_modPort (c : Nat) (f : Port → Port) (x : Nat) : (s.modPort c f).rd x = s.rd x := rfl
@[simp] theorem rd_modXch (f : Xch → Xch) (x : Nat) : (s.modXch f).rd x = s.rd x := rfl
@[simp] theorem rd_modKtl (f : Ktl → Ktl) (x : Nat) : (s.modKtl f).rd x = s.rd x := rfl
@[simp] theorem rd_modWait (f : List MemReq → List MemReq) (x : Nat) : (s.modWait f).rd x = s.rd x := rfl
@[simp] theorem rd_modDone (f : List MemDone → List MemDone) (x : Nat) : (s.modDone f).rd x = s.rd x := rfl
@[simp] theorem rd_answer (v x : Nat) : (s.answer v).rd x = s.rd x := rfl
@[simp] theorem rd_ackWrite (x : Nat) : s.ackWrite.rd x = s.rd x := rfl

theorem rd_wrF_ne {a x : Nat} (lo w v : Nat) (h : x ≠ a) : (s.wrF a lo w v).rd x = s.rd x := rd_wr_ne s _ h
theorem rd_count_ne {a x : Nat} (n : Nat) (h : x ≠ a) : (s.count a n).rd x = s.rd x := rd_wr_ne s _ h
theorem rd_countSat_ne {a x : Nat} (lo w n : Nat) (h : x ≠ a) : (s.countSat a lo w n).rd x = s.rd x := rd_wr_ne s _ h
theorem rd_setBit_ne {a x : Nat} (i : Nat) (h : x ≠ a) : (s.setBit a i).rd x = s.rd x := rd_wr_ne s _ h
theorem rd_notice_ne {x : Nat} (i : Nat) (h : x ≠ 0x20) : (s.notice i).rd x = s.rd x := rd_wr_ne s _ h

theorem rd_lntLost_ne {x : Nat} (l n : Nat) (h : x ∉ lntRegs) : (s.lntLost l n).rd x = s.rd x := by
  unfold lntLost
  apply rd_countSat_ne
  rintro rfl
  apply h
  have : l / 2 % 2 = 0 ∨ l / 2 % 2 = 1 := by omega
  rcases this with e | e <;> simp [lntRegs, e]

theorem rd_lntCross_ne {x : Nat} (h : x ∉ lntRegs) : s.lntCross.rd x = s.rd x := by
  simp [lntRegs] at h
  unfold lntCross
  rw [rd_count_ne _ _ h.2.2.2.2, rd_notice_ne _ _ h.1, rd_setBit_ne _ _ h.2.1]

@[simp] theorem rd_lntRefill (l n x : Nat) : (lntRefill l n s).rd x = s.rd x := by
  induction n generalizing s with
  | zero => rfl
  | succ n ih =>
    unfold lntRefill
    repeat' split
    all_goals simp [ih]

@[simp] theorem rd_lntRefillAll (x : Nat) : s.lntRefillAll.rd x = s.rd x := by unfold lntRefillAll; split <;> simp

@[simp] theorem rd_lntSpill (x : Nat) : s.lntSpill.rd x = s.rd x := by
  unfold lntSpill; repeat' split
  all_goals simp

@[simp] theorem rd_lntAdd (l : Nat) (ws : List Nat) (x : Nat) : (s.lntAdd l ws).rd x = s.rd x := by
  unfold lntAdd; simp only; split <;> (try simp) <;> rfl

theorem rd_lntEnter_ne (l : Nat) (ws : List Nat) {x : Nat} (h : x ∉ lntRegs) : (s.lntEnter l ws).rd x = s.rd x := by
  unfold lntEnter
  simp only
  repeat' split
  · exact rd_lntLost_ne s _ _ h
  · rw [rd_lntAdd, rd_lntLost_ne _ _ _ h]; rfl
  · rw [rd_lntCross_ne _ h, rd_lntAdd]
  · exact rd_lntAdd s _ _ _

theorem rd_eventAt_ne (p k c a b : Nat) {x : Nat} (h : x ∉ lntRegs) : (s.eventAt p k c a b).rd x = s.rd x :=
  rd_lntEnter_ne s _ _ h

theorem rd_event_ne (k c a b : Nat) {x : Nat} (h : x ∉ lntRegs) : (s.event k c a b).rd x = s.rd x := rd_eventAt_ne s _ _ _ _ _ h

theorem rd_ignored_ne (a : Nat) {x : Nat} (h : x ∉ lntRegs) : (s.ignored a).rd x = s.rd x := rd_event_ne s _ _ _ _ h

@[simp] theorem rd_memWriteAny (c k : Nat) (w : MemWhy) (n a : Nat) (bs : Bytes) (x : Nat) :
    (memWriteAny c k w n a bs s).rd x = s.rd x := by
  induction n generalizing s a bs with
  | zero => rfl
  | succ n ih => unfold memWriteAny; split <;> simp [ih]

theorem rd_recPut_ne (k src c e t y : Nat) (p : Bytes) (d : Bool) {x : Nat} (h : x ∉ lntRegs) (h' : x ≠ 0xF000C) :
    (s.recPut k src c e t y p d).rd x = s.rd x := by
  unfold recPut
  extract_lets
  split
  · rfl
  · split
    · exact rd_countSat_ne s _ _ _ h'
    · split
      · rw [rd_event_ne _ _ _ _ _ h]; exact rd_setBit_ne s _ h'
      · rw [rd_memWriteAny]; rfl

theorem rd_record_ne (k src : Nat) (c : Option Nat) (e t y : Nat) (p : Bytes) (d : Bool) {x : Nat} (h : x ∉ lntRegs)
    (h' : x ≠ 0xF000C) : (s.record k src c e t y p d).rd x = s.rd x := by
  unfold record
  simp only
  split
  · exact rd_recPut_ne s _ _ _ _ _ _ _ _ h h'
  · rfl

theorem rd_recWrite_ne (a v : Nat) {x : Nat} (h : x ∉ lntRegs) (h' : x ≠ 0xF000C) : (s.recWrite a v).rd x = s.rd x :=
  rd_record_ne s _ _ _ _ _ _ _ _ h h'

end State

end Sys2Proof.Machine
end

