-- ==== Sys2Proof/Laws/Fields.lean ====
section
/-! SUPPORT. Events, counts and the record log, field by field: what they leave as it was (from `still`). -/

namespace Sys2Proof.Machine.State

variable (s : State)

theorem still_pending {s t : State} (h : t.still = s.still) : t.pending = s.pending := by have e := congrArg (fun u : State => u.pending) h; exact e
theorem still_glb {s t : State} (h : t.still = s.still) : t.glb = s.glb := by have e := congrArg (fun u : State => u.glb) h; exact e
theorem still_clk {s t : State} (h : t.still = s.still) : t.clk = s.clk := by have e := congrArg (fun u : State => u.clk) h; exact e
theorem still_ctl {s t : State} (h : t.still = s.still) : t.ctl = s.ctl := by have e := congrArg (fun u : State => u.ctl) h; exact e
theorem still_start {s t : State} (h : t.still = s.still) : t.start = s.start := by have e := congrArg (fun u : State => u.start) h; exact e
theorem still_pitches {s t : State} (h : t.still = s.still) : t.pitches = s.pitches := by have e := congrArg (fun u : State => u.pitches) h; exact e
theorem still_core {s t : State} (h : t.still = s.still) : t.core = s.core := by have e := congrArg (fun u : State => u.core) h; exact e
theorem still_links {s t : State} (h : t.still = s.still) : t.links = s.links := by have e := congrArg (fun u : State => u.links) h; exact e
theorem still_guys {s t : State} (h : t.still = s.still) : t.guys = s.guys := by have e := congrArg (fun u : State => u.guys) h; exact e
theorem still_memb {s t : State} (h : t.still = s.still) : t.memb = s.memb := by have e := congrArg (fun u : State => u.memb) h; exact e
theorem still_stp {s t : State} (h : t.still = s.still) : t.stp = s.stp := by have e := congrArg (fun u : State => u.stp) h; exact e
theorem still_fnc {s t : State} (h : t.still = s.still) : t.fnc = s.fnc := by have e := congrArg (fun u : State => u.fnc) h; exact e
theorem still_xch {s t : State} (h : t.still = s.still) : t.xch = s.xch := by have e := congrArg (fun u : State => u.xch) h; exact e
theorem still_ctxs {s t : State} (h : t.still = s.still) : t.ctxs = s.ctxs := by have e := congrArg (fun u : State => u.ctxs) h; exact e
theorem still_ktl {s t : State} (h : t.still = s.still) : t.ktl = s.ktl := by have e := congrArg (fun u : State => u.ktl) h; exact e
theorem still_stn {s t : State} (h : t.still = s.still) : t.stn = s.stn := by have e := congrArg (fun u : State => u.stn) h; exact e
theorem still_drain {s t : State} (h : t.still = s.still) : t.drain = s.drain := by have e := congrArg (fun u : State => u.drain) h; exact e
theorem still_col {s t : State} (h : t.still = s.still) : t.col = s.col := by have e := congrArg (fun u : State => u.col) h; exact e
theorem still_hold {s t : State} (h : t.still = s.still) : t.hold = s.hold := by have e := congrArg (fun u : State => u.hold) h; exact e
theorem still_bal {s t : State} (h : t.still = s.still) : t.bal = s.bal := by have e := congrArg (fun u : State => u.bal) h; exact e
theorem still_rsl {s t : State} (h : t.still = s.still) : t.rsl = s.rsl := by have e := congrArg (fun u : State => u.rsl) h; exact e
theorem still_free {s t : State} (h : t.still = s.still) : t.free = s.free := by have e := congrArg (fun u : State => u.free) h; exact e
theorem still_mem_chs {s t : State} (h : t.still = s.still) : t.mem.chs = s.mem.chs := by have e := congrArg (fun u : State => u.mem.chs) h; exact e
theorem still_mem_done {s t : State} (h : t.still = s.still) : t.mem.done = s.mem.done := by have e := congrArg (fun u : State => u.mem.done) h; exact e

@[simp] theorem event_pending (k c a b : Nat) : (s.event k c a b).pending = s.pending := still_pending (s.event_still k c a b)
@[simp] theorem event_glb (k c a b : Nat) : (s.event k c a b).glb = s.glb := still_glb (s.event_still k c a b)
@[simp] theorem event_clk (k c a b : Nat) : (s.event k c a b).clk = s.clk := still_clk (s.event_still k c a b)
@[simp] theorem event_ctl (k c a b : Nat) : (s.event k c a b).ctl = s.ctl := still_ctl (s.event_still k c a b)
@[simp] theorem event_start (k c a b : Nat) : (s.event k c a b).start = s.start := still_start (s.event_still k c a b)
@[simp] theorem event_pitches (k c a b : Nat) : (s.event k c a b).pitches = s.pitches := still_pitches (s.event_still k c a b)
@[simp] theorem event_core (k c a b : Nat) : (s.event k c a b).core = s.core := still_core (s.event_still k c a b)
@[simp] theorem event_links (k c a b : Nat) : (s.event k c a b).links = s.links := still_links (s.event_still k c a b)
@[simp] theorem event_guys (k c a b : Nat) : (s.event k c a b).guys = s.guys := still_guys (s.event_still k c a b)
@[simp] theorem event_memb (k c a b : Nat) : (s.event k c a b).memb = s.memb := still_memb (s.event_still k c a b)
@[simp] theorem event_stp (k c a b : Nat) : (s.event k c a b).stp = s.stp := still_stp (s.event_still k c a b)
@[simp] theorem event_fnc (k c a b : Nat) : (s.event k c a b).fnc = s.fnc := still_fnc (s.event_still k c a b)
@[simp] theorem event_xch (k c a b : Nat) : (s.event k c a b).xch = s.xch := still_xch (s.event_still k c a b)
@[simp] theorem event_ctxs (k c a b : Nat) : (s.event k c a b).ctxs = s.ctxs := still_ctxs (s.event_still k c a b)
@[simp] theorem event_ktl (k c a b : Nat) : (s.event k c a b).ktl = s.ktl := still_ktl (s.event_still k c a b)
@[simp] theorem event_stn (k c a b : Nat) : (s.event k c a b).stn = s.stn := still_stn (s.event_still k c a b)
@[simp] theorem event_drain (k c a b : Nat) : (s.event k c a b).drain = s.drain := still_drain (s.event_still k c a b)
@[simp] theorem event_col (k c a b : Nat) : (s.event k c a b).col = s.col := still_col (s.event_still k c a b)
@[simp] theorem event_hold (k c a b : Nat) : (s.event k c a b).hold = s.hold := still_hold (s.event_still k c a b)
@[simp] theorem event_bal (k c a b : Nat) : (s.event k c a b).bal = s.bal := still_bal (s.event_still k c a b)
@[simp] theorem event_rsl (k c a b : Nat) : (s.event k c a b).rsl = s.rsl := still_rsl (s.event_still k c a b)
@[simp] theorem event_free (k c a b : Nat) : (s.event k c a b).free = s.free := still_free (s.event_still k c a b)
@[simp] theorem event_mem_chs (k c a b : Nat) : (s.event k c a b).mem.chs = s.mem.chs := still_mem_chs (s.event_still k c a b)
@[simp] theorem event_mem_done (k c a b : Nat) : (s.event k c a b).mem.done = s.mem.done := still_mem_done (s.event_still k c a b)

@[simp] theorem eventAt_pending (p k c a b : Nat) : (s.eventAt p k c a b).pending = s.pending := still_pending (s.eventAt_still p k c a b)
@[simp] theorem eventAt_glb (p k c a b : Nat) : (s.eventAt p k c a b).glb = s.glb := still_glb (s.eventAt_still p k c a b)
@[simp] theorem eventAt_clk (p k c a b : Nat) : (s.eventAt p k c a b).clk = s.clk := still_clk (s.eventAt_still p k c a b)
@[simp] theorem eventAt_ctl (p k c a b : Nat) : (s.eventAt p k c a b).ctl = s.ctl := still_ctl (s.eventAt_still p k c a b)
@[simp] theorem eventAt_start (p k c a b : Nat) : (s.eventAt p k c a b).start = s.start := still_start (s.eventAt_still p k c a b)
@[simp] theorem eventAt_pitches (p k c a b : Nat) : (s.eventAt p k c a b).pitches = s.pitches := still_pitches (s.eventAt_still p k c a b)
@[simp] theorem eventAt_core (p k c a b : Nat) : (s.eventAt p k c a b).core = s.core := still_core (s.eventAt_still p k c a b)
@[simp] theorem eventAt_links (p k c a b : Nat) : (s.eventAt p k c a b).links = s.links := still_links (s.eventAt_still p k c a b)
@[simp] theorem eventAt_guys (p k c a b : Nat) : (s.eventAt p k c a b).guys = s.guys := still_guys (s.eventAt_still p k c a b)
@[simp] theorem eventAt_memb (p k c a b : Nat) : (s.eventAt p k c a b).memb = s.memb := still_memb (s.eventAt_still p k c a b)
@[simp] theorem eventAt_stp (p k c a b : Nat) : (s.eventAt p k c a b).stp = s.stp := still_stp (s.eventAt_still p k c a b)
@[simp] theorem eventAt_fnc (p k c a b : Nat) : (s.eventAt p k c a b).fnc = s.fnc := still_fnc (s.eventAt_still p k c a b)
@[simp] theorem eventAt_xch (p k c a b : Nat) : (s.eventAt p k c a b).xch = s.xch := still_xch (s.eventAt_still p k c a b)
@[simp] theorem eventAt_ctxs (p k c a b : Nat) : (s.eventAt p k c a b).ctxs = s.ctxs := still_ctxs (s.eventAt_still p k c a b)
@[simp] theorem eventAt_ktl (p k c a b : Nat) : (s.eventAt p k c a b).ktl = s.ktl := still_ktl (s.eventAt_still p k c a b)
@[simp] theorem eventAt_stn (p k c a b : Nat) : (s.eventAt p k c a b).stn = s.stn := still_stn (s.eventAt_still p k c a b)
@[simp] theorem eventAt_drain (p k c a b : Nat) : (s.eventAt p k c a b).drain = s.drain := still_drain (s.eventAt_still p k c a b)
@[simp] theorem eventAt_col (p k c a b : Nat) : (s.eventAt p k c a b).col = s.col := still_col (s.eventAt_still p k c a b)
@[simp] theorem eventAt_hold (p k c a b : Nat) : (s.eventAt p k c a b).hold = s.hold := still_hold (s.eventAt_still p k c a b)
@[simp] theorem eventAt_bal (p k c a b : Nat) : (s.eventAt p k c a b).bal = s.bal := still_bal (s.eventAt_still p k c a b)
@[simp] theorem eventAt_rsl (p k c a b : Nat) : (s.eventAt p k c a b).rsl = s.rsl := still_rsl (s.eventAt_still p k c a b)
@[simp] theorem eventAt_free (p k c a b : Nat) : (s.eventAt p k c a b).free = s.free := still_free (s.eventAt_still p k c a b)
@[simp] theorem eventAt_mem_chs (p k c a b : Nat) : (s.eventAt p k c a b).mem.chs = s.mem.chs := still_mem_chs (s.eventAt_still p k c a b)
@[simp] theorem eventAt_mem_done (p k c a b : Nat) : (s.eventAt p k c a b).mem.done = s.mem.done := still_mem_done (s.eventAt_still p k c a b)

@[simp] theorem ignored_pending (a : Nat) : (s.ignored a).pending = s.pending := still_pending (s.ignored_still a)
@[simp] theorem ignored_glb (a : Nat) : (s.ignored a).glb = s.glb := still_glb (s.ignored_still a)
@[simp] theorem ignored_clk (a : Nat) : (s.ignored a).clk = s.clk := still_clk (s.ignored_still a)
@[simp] theorem ignored_ctl (a : Nat) : (s.ignored a).ctl = s.ctl := still_ctl (s.ignored_still a)
@[simp] theorem ignored_start (a : Nat) : (s.ignored a).start = s.start := still_start (s.ignored_still a)
@[simp] theorem ignored_pitches (a : Nat) : (s.ignored a).pitches = s.pitches := still_pitches (s.ignored_still a)
@[simp] theorem ignored_core (a : Nat) : (s.ignored a).core = s.core := still_core (s.ignored_still a)
@[simp] theorem ignored_links (a : Nat) : (s.ignored a).links = s.links := still_links (s.ignored_still a)
@[simp] theorem ignored_guys (a : Nat) : (s.ignored a).guys = s.guys := still_guys (s.ignored_still a)
@[simp] theorem ignored_memb (a : Nat) : (s.ignored a).memb = s.memb := still_memb (s.ignored_still a)
@[simp] theorem ignored_stp (a : Nat) : (s.ignored a).stp = s.stp := still_stp (s.ignored_still a)
@[simp] theorem ignored_fnc (a : Nat) : (s.ignored a).fnc = s.fnc := still_fnc (s.ignored_still a)
@[simp] theorem ignored_xch (a : Nat) : (s.ignored a).xch = s.xch := still_xch (s.ignored_still a)
@[simp] theorem ignored_ctxs (a : Nat) : (s.ignored a).ctxs = s.ctxs := still_ctxs (s.ignored_still a)
@[simp] theorem ignored_ktl (a : Nat) : (s.ignored a).ktl = s.ktl := still_ktl (s.ignored_still a)
@[simp] theorem ignored_stn (a : Nat) : (s.ignored a).stn = s.stn := still_stn (s.ignored_still a)
@[simp] theorem ignored_drain (a : Nat) : (s.ignored a).drain = s.drain := still_drain (s.ignored_still a)
@[simp] theorem ignored_col (a : Nat) : (s.ignored a).col = s.col := still_col (s.ignored_still a)
@[simp] theorem ignored_hold (a : Nat) : (s.ignored a).hold = s.hold := still_hold (s.ignored_still a)
@[simp] theorem ignored_bal (a : Nat) : (s.ignored a).bal = s.bal := still_bal (s.ignored_still a)
@[simp] theorem ignored_rsl (a : Nat) : (s.ignored a).rsl = s.rsl := still_rsl (s.ignored_still a)
@[simp] theorem ignored_free (a : Nat) : (s.ignored a).free = s.free := still_free (s.ignored_still a)
@[simp] theorem ignored_mem_chs (a : Nat) : (s.ignored a).mem.chs = s.mem.chs := still_mem_chs (s.ignored_still a)
@[simp] theorem ignored_mem_done (a : Nat) : (s.ignored a).mem.done = s.mem.done := still_mem_done (s.ignored_still a)

@[simp] theorem notice_pending (i : Nat) : (s.notice i).pending = s.pending := still_pending (s.notice_still i)
@[simp] theorem notice_glb (i : Nat) : (s.notice i).glb = s.glb := still_glb (s.notice_still i)
@[simp] theorem notice_clk (i : Nat) : (s.notice i).clk = s.clk := still_clk (s.notice_still i)
@[simp] theorem notice_ctl (i : Nat) : (s.notice i).ctl = s.ctl := still_ctl (s.notice_still i)
@[simp] theorem notice_start (i : Nat) : (s.notice i).start = s.start := still_start (s.notice_still i)
@[simp] theorem notice_pitches (i : Nat) : (s.notice i).pitches = s.pitches := still_pitches (s.notice_still i)
@[simp] theorem notice_core (i : Nat) : (s.notice i).core = s.core := still_core (s.notice_still i)
@[simp] theorem notice_links (i : Nat) : (s.notice i).links = s.links := still_links (s.notice_still i)
@[simp] theorem notice_guys (i : Nat) : (s.notice i).guys = s.guys := still_guys (s.notice_still i)
@[simp] theorem notice_memb (i : Nat) : (s.notice i).memb = s.memb := still_memb (s.notice_still i)
@[simp] theorem notice_stp (i : Nat) : (s.notice i).stp = s.stp := still_stp (s.notice_still i)
@[simp] theorem notice_fnc (i : Nat) : (s.notice i).fnc = s.fnc := still_fnc (s.notice_still i)
@[simp] theorem notice_xch (i : Nat) : (s.notice i).xch = s.xch := still_xch (s.notice_still i)
@[simp] theorem notice_ctxs (i : Nat) : (s.notice i).ctxs = s.ctxs := still_ctxs (s.notice_still i)
@[simp] theorem notice_ktl (i : Nat) : (s.notice i).ktl = s.ktl := still_ktl (s.notice_still i)
@[simp] theorem notice_stn (i : Nat) : (s.notice i).stn = s.stn := still_stn (s.notice_still i)
@[simp] theorem notice_drain (i : Nat) : (s.notice i).drain = s.drain := still_drain (s.notice_still i)
@[simp] theorem notice_col (i : Nat) : (s.notice i).col = s.col := still_col (s.notice_still i)
@[simp] theorem notice_hold (i : Nat) : (s.notice i).hold = s.hold := still_hold (s.notice_still i)
@[simp] theorem notice_bal (i : Nat) : (s.notice i).bal = s.bal := still_bal (s.notice_still i)
@[simp] theorem notice_rsl (i : Nat) : (s.notice i).rsl = s.rsl := still_rsl (s.notice_still i)
@[simp] theorem notice_free (i : Nat) : (s.notice i).free = s.free := still_free (s.notice_still i)
@[simp] theorem notice_mem_chs (i : Nat) : (s.notice i).mem.chs = s.mem.chs := still_mem_chs (s.notice_still i)
@[simp] theorem notice_mem_done (i : Nat) : (s.notice i).mem.done = s.mem.done := still_mem_done (s.notice_still i)

@[simp] theorem count_pending (a n : Nat) : (s.count a n).pending = s.pending := still_pending (s.count_still a n)
@[simp] theorem count_glb (a n : Nat) : (s.count a n).glb = s.glb := still_glb (s.count_still a n)
@[simp] theorem count_clk (a n : Nat) : (s.count a n).clk = s.clk := still_clk (s.count_still a n)
@[simp] theorem count_ctl (a n : Nat) : (s.count a n).ctl = s.ctl := still_ctl (s.count_still a n)
@[simp] theorem count_start (a n : Nat) : (s.count a n).start = s.start := still_start (s.count_still a n)
@[simp] theorem count_pitches (a n : Nat) : (s.count a n).pitches = s.pitches := still_pitches (s.count_still a n)
@[simp] theorem count_core (a n : Nat) : (s.count a n).core = s.core := still_core (s.count_still a n)
@[simp] theorem count_links (a n : Nat) : (s.count a n).links = s.links := still_links (s.count_still a n)
@[simp] theorem count_guys (a n : Nat) : (s.count a n).guys = s.guys := still_guys (s.count_still a n)
@[simp] theorem count_memb (a n : Nat) : (s.count a n).memb = s.memb := still_memb (s.count_still a n)
@[simp] theorem count_stp (a n : Nat) : (s.count a n).stp = s.stp := still_stp (s.count_still a n)
@[simp] theorem count_fnc (a n : Nat) : (s.count a n).fnc = s.fnc := still_fnc (s.count_still a n)
@[simp] theorem count_xch (a n : Nat) : (s.count a n).xch = s.xch := still_xch (s.count_still a n)
@[simp] theorem count_ctxs (a n : Nat) : (s.count a n).ctxs = s.ctxs := still_ctxs (s.count_still a n)
@[simp] theorem count_ktl (a n : Nat) : (s.count a n).ktl = s.ktl := still_ktl (s.count_still a n)
@[simp] theorem count_stn (a n : Nat) : (s.count a n).stn = s.stn := still_stn (s.count_still a n)
@[simp] theorem count_drain (a n : Nat) : (s.count a n).drain = s.drain := still_drain (s.count_still a n)
@[simp] theorem count_col (a n : Nat) : (s.count a n).col = s.col := still_col (s.count_still a n)
@[simp] theorem count_hold (a n : Nat) : (s.count a n).hold = s.hold := still_hold (s.count_still a n)
@[simp] theorem count_bal (a n : Nat) : (s.count a n).bal = s.bal := still_bal (s.count_still a n)
@[simp] theorem count_rsl (a n : Nat) : (s.count a n).rsl = s.rsl := still_rsl (s.count_still a n)
@[simp] theorem count_free (a n : Nat) : (s.count a n).free = s.free := still_free (s.count_still a n)
@[simp] theorem count_mem_chs (a n : Nat) : (s.count a n).mem.chs = s.mem.chs := still_mem_chs (s.count_still a n)
@[simp] theorem count_mem_done (a n : Nat) : (s.count a n).mem.done = s.mem.done := still_mem_done (s.count_still a n)

@[simp] theorem countSat_pending (a lo w n : Nat) : (s.countSat a lo w n).pending = s.pending := still_pending (s.countSat_still a lo w n)
@[simp] theorem countSat_glb (a lo w n : Nat) : (s.countSat a lo w n).glb = s.glb := still_glb (s.countSat_still a lo w n)
@[simp] theorem countSat_clk (a lo w n : Nat) : (s.countSat a lo w n).clk = s.clk := still_clk (s.countSat_still a lo w n)
@[simp] theorem countSat_ctl (a lo w n : Nat) : (s.countSat a lo w n).ctl = s.ctl := still_ctl (s.countSat_still a lo w n)
@[simp] theorem countSat_start (a lo w n : Nat) : (s.countSat a lo w n).start = s.start := still_start (s.countSat_still a lo w n)
@[simp] theorem countSat_pitches (a lo w n : Nat) : (s.countSat a lo w n).pitches = s.pitches := still_pitches (s.countSat_still a lo w n)
@[simp] theorem countSat_core (a lo w n : Nat) : (s.countSat a lo w n).core = s.core := still_core (s.countSat_still a lo w n)
@[simp] theorem countSat_links (a lo w n : Nat) : (s.countSat a lo w n).links = s.links := still_links (s.countSat_still a lo w n)
@[simp] theorem countSat_guys (a lo w n : Nat) : (s.countSat a lo w n).guys = s.guys := still_guys (s.countSat_still a lo w n)
@[simp] theorem countSat_memb (a lo w n : Nat) : (s.countSat a lo w n).memb = s.memb := still_memb (s.countSat_still a lo w n)
@[simp] theorem countSat_stp (a lo w n : Nat) : (s.countSat a lo w n).stp = s.stp := still_stp (s.countSat_still a lo w n)
@[simp] theorem countSat_fnc (a lo w n : Nat) : (s.countSat a lo w n).fnc = s.fnc := still_fnc (s.countSat_still a lo w n)
@[simp] theorem countSat_xch (a lo w n : Nat) : (s.countSat a lo w n).xch = s.xch := still_xch (s.countSat_still a lo w n)
@[simp] theorem countSat_ctxs (a lo w n : Nat) : (s.countSat a lo w n).ctxs = s.ctxs := still_ctxs (s.countSat_still a lo w n)
@[simp] theorem countSat_ktl (a lo w n : Nat) : (s.countSat a lo w n).ktl = s.ktl := still_ktl (s.countSat_still a lo w n)
@[simp] theorem countSat_stn (a lo w n : Nat) : (s.countSat a lo w n).stn = s.stn := still_stn (s.countSat_still a lo w n)
@[simp] theorem countSat_drain (a lo w n : Nat) : (s.countSat a lo w n).drain = s.drain := still_drain (s.countSat_still a lo w n)
@[simp] theorem countSat_col (a lo w n : Nat) : (s.countSat a lo w n).col = s.col := still_col (s.countSat_still a lo w n)
@[simp] theorem countSat_hold (a lo w n : Nat) : (s.countSat a lo w n).hold = s.hold := still_hold (s.countSat_still a lo w n)
@[simp] theorem countSat_bal (a lo w n : Nat) : (s.countSat a lo w n).bal = s.bal := still_bal (s.countSat_still a lo w n)
@[simp] theorem countSat_rsl (a lo w n : Nat) : (s.countSat a lo w n).rsl = s.rsl := still_rsl (s.countSat_still a lo w n)
@[simp] theorem countSat_free (a lo w n : Nat) : (s.countSat a lo w n).free = s.free := still_free (s.countSat_still a lo w n)
@[simp] theorem countSat_mem_chs (a lo w n : Nat) : (s.countSat a lo w n).mem.chs = s.mem.chs := still_mem_chs (s.countSat_still a lo w n)
@[simp] theorem countSat_mem_done (a lo w n : Nat) : (s.countSat a lo w n).mem.done = s.mem.done := still_mem_done (s.countSat_still a lo w n)

@[simp] theorem setBit_pending (a i : Nat) : (s.setBit a i).pending = s.pending := still_pending (s.setBit_still a i)
@[simp] theorem setBit_glb (a i : Nat) : (s.setBit a i).glb = s.glb := still_glb (s.setBit_still a i)
@[simp] theorem setBit_clk (a i : Nat) : (s.setBit a i).clk = s.clk := still_clk (s.setBit_still a i)
@[simp] theorem setBit_ctl (a i : Nat) : (s.setBit a i).ctl = s.ctl := still_ctl (s.setBit_still a i)
@[simp] theorem setBit_start (a i : Nat) : (s.setBit a i).start = s.start := still_start (s.setBit_still a i)
@[simp] theorem setBit_pitches (a i : Nat) : (s.setBit a i).pitches = s.pitches := still_pitches (s.setBit_still a i)
@[simp] theorem setBit_core (a i : Nat) : (s.setBit a i).core = s.core := still_core (s.setBit_still a i)
@[simp] theorem setBit_links (a i : Nat) : (s.setBit a i).links = s.links := still_links (s.setBit_still a i)
@[simp] theorem setBit_guys (a i : Nat) : (s.setBit a i).guys = s.guys := still_guys (s.setBit_still a i)
@[simp] theorem setBit_memb (a i : Nat) : (s.setBit a i).memb = s.memb := still_memb (s.setBit_still a i)
@[simp] theorem setBit_stp (a i : Nat) : (s.setBit a i).stp = s.stp := still_stp (s.setBit_still a i)
@[simp] theorem setBit_fnc (a i : Nat) : (s.setBit a i).fnc = s.fnc := still_fnc (s.setBit_still a i)
@[simp] theorem setBit_xch (a i : Nat) : (s.setBit a i).xch = s.xch := still_xch (s.setBit_still a i)
@[simp] theorem setBit_ctxs (a i : Nat) : (s.setBit a i).ctxs = s.ctxs := still_ctxs (s.setBit_still a i)
@[simp] theorem setBit_ktl (a i : Nat) : (s.setBit a i).ktl = s.ktl := still_ktl (s.setBit_still a i)
@[simp] theorem setBit_stn (a i : Nat) : (s.setBit a i).stn = s.stn := still_stn (s.setBit_still a i)
@[simp] theorem setBit_drain (a i : Nat) : (s.setBit a i).drain = s.drain := still_drain (s.setBit_still a i)
@[simp] theorem setBit_col (a i : Nat) : (s.setBit a i).col = s.col := still_col (s.setBit_still a i)
@[simp] theorem setBit_hold (a i : Nat) : (s.setBit a i).hold = s.hold := still_hold (s.setBit_still a i)
@[simp] theorem setBit_bal (a i : Nat) : (s.setBit a i).bal = s.bal := still_bal (s.setBit_still a i)
@[simp] theorem setBit_rsl (a i : Nat) : (s.setBit a i).rsl = s.rsl := still_rsl (s.setBit_still a i)
@[simp] theorem setBit_free (a i : Nat) : (s.setBit a i).free = s.free := still_free (s.setBit_still a i)
@[simp] theorem setBit_mem_chs (a i : Nat) : (s.setBit a i).mem.chs = s.mem.chs := still_mem_chs (s.setBit_still a i)
@[simp] theorem setBit_mem_done (a i : Nat) : (s.setBit a i).mem.done = s.mem.done := still_mem_done (s.setBit_still a i)

@[simp] theorem wrF_pending (a lo w x : Nat) : (s.wrF a lo w x).pending = s.pending := still_pending (s.wrF_still a lo w x)
@[simp] theorem wrF_glb (a lo w x : Nat) : (s.wrF a lo w x).glb = s.glb := still_glb (s.wrF_still a lo w x)
@[simp] theorem wrF_clk (a lo w x : Nat) : (s.wrF a lo w x).clk = s.clk := still_clk (s.wrF_still a lo w x)
@[simp] theorem wrF_ctl (a lo w x : Nat) : (s.wrF a lo w x).ctl = s.ctl := still_ctl (s.wrF_still a lo w x)
@[simp] theorem wrF_start (a lo w x : Nat) : (s.wrF a lo w x).start = s.start := still_start (s.wrF_still a lo w x)
@[simp] theorem wrF_pitches (a lo w x : Nat) : (s.wrF a lo w x).pitches = s.pitches := still_pitches (s.wrF_still a lo w x)
@[simp] theorem wrF_core (a lo w x : Nat) : (s.wrF a lo w x).core = s.core := still_core (s.wrF_still a lo w x)
@[simp] theorem wrF_links (a lo w x : Nat) : (s.wrF a lo w x).links = s.links := still_links (s.wrF_still a lo w x)
@[simp] theorem wrF_guys (a lo w x : Nat) : (s.wrF a lo w x).guys = s.guys := still_guys (s.wrF_still a lo w x)
@[simp] theorem wrF_memb (a lo w x : Nat) : (s.wrF a lo w x).memb = s.memb := still_memb (s.wrF_still a lo w x)
@[simp] theorem wrF_stp (a lo w x : Nat) : (s.wrF a lo w x).stp = s.stp := still_stp (s.wrF_still a lo w x)
@[simp] theorem wrF_fnc (a lo w x : Nat) : (s.wrF a lo w x).fnc = s.fnc := still_fnc (s.wrF_still a lo w x)
@[simp] theorem wrF_xch (a lo w x : Nat) : (s.wrF a lo w x).xch = s.xch := still_xch (s.wrF_still a lo w x)
@[simp] theorem wrF_ctxs (a lo w x : Nat) : (s.wrF a lo w x).ctxs = s.ctxs := still_ctxs (s.wrF_still a lo w x)
@[simp] theorem wrF_ktl (a lo w x : Nat) : (s.wrF a lo w x).ktl = s.ktl := still_ktl (s.wrF_still a lo w x)
@[simp] theorem wrF_stn (a lo w x : Nat) : (s.wrF a lo w x).stn = s.stn := still_stn (s.wrF_still a lo w x)
@[simp] theorem wrF_drain (a lo w x : Nat) : (s.wrF a lo w x).drain = s.drain := still_drain (s.wrF_still a lo w x)
@[simp] theorem wrF_col (a lo w x : Nat) : (s.wrF a lo w x).col = s.col := still_col (s.wrF_still a lo w x)
@[simp] theorem wrF_hold (a lo w x : Nat) : (s.wrF a lo w x).hold = s.hold := still_hold (s.wrF_still a lo w x)
@[simp] theorem wrF_bal (a lo w x : Nat) : (s.wrF a lo w x).bal = s.bal := still_bal (s.wrF_still a lo w x)
@[simp] theorem wrF_rsl (a lo w x : Nat) : (s.wrF a lo w x).rsl = s.rsl := still_rsl (s.wrF_still a lo w x)
@[simp] theorem wrF_free (a lo w x : Nat) : (s.wrF a lo w x).free = s.free := still_free (s.wrF_still a lo w x)
@[simp] theorem wrF_mem_chs (a lo w x : Nat) : (s.wrF a lo w x).mem.chs = s.mem.chs := still_mem_chs (s.wrF_still a lo w x)
@[simp] theorem wrF_mem_done (a lo w x : Nat) : (s.wrF a lo w x).mem.done = s.mem.done := still_mem_done (s.wrF_still a lo w x)

@[simp] theorem wr2_pending (a v : Nat) : (s.wr2 a v).pending = s.pending := still_pending (s.wr2_still a v)
@[simp] theorem wr2_glb (a v : Nat) : (s.wr2 a v).glb = s.glb := still_glb (s.wr2_still a v)
@[simp] theorem wr2_clk (a v : Nat) : (s.wr2 a v).clk = s.clk := still_clk (s.wr2_still a v)
@[simp] theorem wr2_ctl (a v : Nat) : (s.wr2 a v).ctl = s.ctl := still_ctl (s.wr2_still a v)
@[simp] theorem wr2_start (a v : Nat) : (s.wr2 a v).start = s.start := still_start (s.wr2_still a v)
@[simp] theorem wr2_pitches (a v : Nat) : (s.wr2 a v).pitches = s.pitches := still_pitches (s.wr2_still a v)
@[simp] theorem wr2_core (a v : Nat) : (s.wr2 a v).core = s.core := still_core (s.wr2_still a v)
@[simp] theorem wr2_links (a v : Nat) : (s.wr2 a v).links = s.links := still_links (s.wr2_still a v)
@[simp] theorem wr2_guys (a v : Nat) : (s.wr2 a v).guys = s.guys := still_guys (s.wr2_still a v)
@[simp] theorem wr2_memb (a v : Nat) : (s.wr2 a v).memb = s.memb := still_memb (s.wr2_still a v)
@[simp] theorem wr2_stp (a v : Nat) : (s.wr2 a v).stp = s.stp := still_stp (s.wr2_still a v)
@[simp] theorem wr2_fnc (a v : Nat) : (s.wr2 a v).fnc = s.fnc := still_fnc (s.wr2_still a v)
@[simp] theorem wr2_xch (a v : Nat) : (s.wr2 a v).xch = s.xch := still_xch (s.wr2_still a v)
@[simp] theorem wr2_ctxs (a v : Nat) : (s.wr2 a v).ctxs = s.ctxs := still_ctxs (s.wr2_still a v)
@[simp] theorem wr2_ktl (a v : Nat) : (s.wr2 a v).ktl = s.ktl := still_ktl (s.wr2_still a v)
@[simp] theorem wr2_stn (a v : Nat) : (s.wr2 a v).stn = s.stn := still_stn (s.wr2_still a v)
@[simp] theorem wr2_drain (a v : Nat) : (s.wr2 a v).drain = s.drain := still_drain (s.wr2_still a v)
@[simp] theorem wr2_col (a v : Nat) : (s.wr2 a v).col = s.col := still_col (s.wr2_still a v)
@[simp] theorem wr2_hold (a v : Nat) : (s.wr2 a v).hold = s.hold := still_hold (s.wr2_still a v)
@[simp] theorem wr2_bal (a v : Nat) : (s.wr2 a v).bal = s.bal := still_bal (s.wr2_still a v)
@[simp] theorem wr2_rsl (a v : Nat) : (s.wr2 a v).rsl = s.rsl := still_rsl (s.wr2_still a v)
@[simp] theorem wr2_free (a v : Nat) : (s.wr2 a v).free = s.free := still_free (s.wr2_still a v)
@[simp] theorem wr2_mem_chs (a v : Nat) : (s.wr2 a v).mem.chs = s.mem.chs := still_mem_chs (s.wr2_still a v)
@[simp] theorem wr2_mem_done (a v : Nat) : (s.wr2 a v).mem.done = s.mem.done := still_mem_done (s.wr2_still a v)

@[simp] theorem recWrite_pending (a v : Nat) : (s.recWrite a v).pending = s.pending := still_pending (s.recWrite_still a v)
@[simp] theorem recWrite_glb (a v : Nat) : (s.recWrite a v).glb = s.glb := still_glb (s.recWrite_still a v)
@[simp] theorem recWrite_clk (a v : Nat) : (s.recWrite a v).clk = s.clk := still_clk (s.recWrite_still a v)
@[simp] theorem recWrite_ctl (a v : Nat) : (s.recWrite a v).ctl = s.ctl := still_ctl (s.recWrite_still a v)
@[simp] theorem recWrite_start (a v : Nat) : (s.recWrite a v).start = s.start := still_start (s.recWrite_still a v)
@[simp] theorem recWrite_pitches (a v : Nat) : (s.recWrite a v).pitches = s.pitches := still_pitches (s.recWrite_still a v)
@[simp] theorem recWrite_core (a v : Nat) : (s.recWrite a v).core = s.core := still_core (s.recWrite_still a v)
@[simp] theorem recWrite_links (a v : Nat) : (s.recWrite a v).links = s.links := still_links (s.recWrite_still a v)
@[simp] theorem recWrite_guys (a v : Nat) : (s.recWrite a v).guys = s.guys := still_guys (s.recWrite_still a v)
@[simp] theorem recWrite_memb (a v : Nat) : (s.recWrite a v).memb = s.memb := still_memb (s.recWrite_still a v)
@[simp] theorem recWrite_stp (a v : Nat) : (s.recWrite a v).stp = s.stp := still_stp (s.recWrite_still a v)
@[simp] theorem recWrite_fnc (a v : Nat) : (s.recWrite a v).fnc = s.fnc := still_fnc (s.recWrite_still a v)
@[simp] theorem recWrite_xch (a v : Nat) : (s.recWrite a v).xch = s.xch := still_xch (s.recWrite_still a v)
@[simp] theorem recWrite_ctxs (a v : Nat) : (s.recWrite a v).ctxs = s.ctxs := still_ctxs (s.recWrite_still a v)
@[simp] theorem recWrite_ktl (a v : Nat) : (s.recWrite a v).ktl = s.ktl := still_ktl (s.recWrite_still a v)
@[simp] theorem recWrite_stn (a v : Nat) : (s.recWrite a v).stn = s.stn := still_stn (s.recWrite_still a v)
@[simp] theorem recWrite_drain (a v : Nat) : (s.recWrite a v).drain = s.drain := still_drain (s.recWrite_still a v)
@[simp] theorem recWrite_col (a v : Nat) : (s.recWrite a v).col = s.col := still_col (s.recWrite_still a v)
@[simp] theorem recWrite_hold (a v : Nat) : (s.recWrite a v).hold = s.hold := still_hold (s.recWrite_still a v)
@[simp] theorem recWrite_bal (a v : Nat) : (s.recWrite a v).bal = s.bal := still_bal (s.recWrite_still a v)
@[simp] theorem recWrite_rsl (a v : Nat) : (s.recWrite a v).rsl = s.rsl := still_rsl (s.recWrite_still a v)
@[simp] theorem recWrite_free (a v : Nat) : (s.recWrite a v).free = s.free := still_free (s.recWrite_still a v)
@[simp] theorem recWrite_mem_chs (a v : Nat) : (s.recWrite a v).mem.chs = s.mem.chs := still_mem_chs (s.recWrite_still a v)
@[simp] theorem recWrite_mem_done (a v : Nat) : (s.recWrite a v).mem.done = s.mem.done := still_mem_done (s.recWrite_still a v)

@[simp] theorem record_pending (k q : Nat) (c : Option Nat) (e t x : Nat) (p : Bytes) (d : Bool) : (s.record k q c e t x p d).pending = s.pending := still_pending (s.record_still k q c e t x p d)
@[simp] theorem record_glb (k q : Nat) (c : Option Nat) (e t x : Nat) (p : Bytes) (d : Bool) : (s.record k q c e t x p d).glb = s.glb := still_glb (s.record_still k q c e t x p d)
@[simp] theorem record_clk (k q : Nat) (c : Option Nat) (e t x : Nat) (p : Bytes) (d : Bool) : (s.record k q c e t x p d).clk = s.clk := still_clk (s.record_still k q c e t x p d)
@[simp] theorem record_ctl (k q : Nat) (c : Option Nat) (e t x : Nat) (p : Bytes) (d : Bool) : (s.record k q c e t x p d).ctl = s.ctl := still_ctl (s.record_still k q c e t x p d)
@[simp] theorem record_start (k q : Nat) (c : Option Nat) (e t x : Nat) (p : Bytes) (d : Bool) : (s.record k q c e t x p d).start = s.start := still_start (s.record_still k q c e t x p d)
@[simp] theorem record_pitches (k q : Nat) (c : Option Nat) (e t x : Nat) (p : Bytes) (d : Bool) : (s.record k q c e t x p d).pitches = s.pitches := still_pitches (s.record_still k q c e t x p d)
@[simp] theorem record_core (k q : Nat) (c : Option Nat) (e t x : Nat) (p : Bytes) (d : Bool) : (s.record k q c e t x p d).core = s.core := still_core (s.record_still k q c e t x p d)
@[simp] theorem record_links (k q : Nat) (c : Option Nat) (e t x : Nat) (p : Bytes) (d : Bool) : (s.record k q c e t x p d).links = s.links := still_links (s.record_still k q c e t x p d)
@[simp] theorem record_guys (k q : Nat) (c : Option Nat) (e t x : Nat) (p : Bytes) (d : Bool) : (s.record k q c e t x p d).guys = s.guys := still_guys (s.record_still k q c e t x p d)
@[simp] theorem record_memb (k q : Nat) (c : Option Nat) (e t x : Nat) (p : Bytes) (d : Bool) : (s.record k q c e t x p d).memb = s.memb := still_memb (s.record_still k q c e t x p d)
@[simp] theorem record_stp (k q : Nat) (c : Option Nat) (e t x : Nat) (p : Bytes) (d : Bool) : (s.record k q c e t x p d).stp = s.stp := still_stp (s.record_still k q c e t x p d)
@[simp] theorem record_fnc (k q : Nat) (c : Option Nat) (e t x : Nat) (p : Bytes) (d : Bool) : (s.record k q c e t x p d).fnc = s.fnc := still_fnc (s.record_still k q c e t x p d)
@[simp] theorem record_xch (k q : Nat) (c : Option Nat) (e t x : Nat) (p : Bytes) (d : Bool) : (s.record k q c e t x p d).xch = s.xch := still_xch (s.record_still k q c e t x p d)
@[simp] theorem record_ctxs (k q : Nat) (c : Option Nat) (e t x : Nat) (p : Bytes) (d : Bool) : (s.record k q c e t x p d).ctxs = s.ctxs := still_ctxs (s.record_still k q c e t x p d)
@[simp] theorem record_ktl (k q : Nat) (c : Option Nat) (e t x : Nat) (p : Bytes) (d : Bool) : (s.record k q c e t x p d).ktl = s.ktl := still_ktl (s.record_still k q c e t x p d)
@[simp] theorem record_stn (k q : Nat) (c : Option Nat) (e t x : Nat) (p : Bytes) (d : Bool) : (s.record k q c e t x p d).stn = s.stn := still_stn (s.record_still k q c e t x p d)
@[simp] theorem record_drain (k q : Nat) (c : Option Nat) (e t x : Nat) (p : Bytes) (d : Bool) : (s.record k q c e t x p d).drain = s.drain := still_drain (s.record_still k q c e t x p d)
@[simp] theorem record_col (k q : Nat) (c : Option Nat) (e t x : Nat) (p : Bytes) (d : Bool) : (s.record k q c e t x p d).col = s.col := still_col (s.record_still k q c e t x p d)
@[simp] theorem record_hold (k q : Nat) (c : Option Nat) (e t x : Nat) (p : Bytes) (d : Bool) : (s.record k q c e t x p d).hold = s.hold := still_hold (s.record_still k q c e t x p d)
@[simp] theorem record_bal (k q : Nat) (c : Option Nat) (e t x : Nat) (p : Bytes) (d : Bool) : (s.record k q c e t x p d).bal = s.bal := still_bal (s.record_still k q c e t x p d)
@[simp] theorem record_rsl (k q : Nat) (c : Option Nat) (e t x : Nat) (p : Bytes) (d : Bool) : (s.record k q c e t x p d).rsl = s.rsl := still_rsl (s.record_still k q c e t x p d)
@[simp] theorem record_free (k q : Nat) (c : Option Nat) (e t x : Nat) (p : Bytes) (d : Bool) : (s.record k q c e t x p d).free = s.free := still_free (s.record_still k q c e t x p d)
@[simp] theorem record_mem_chs (k q : Nat) (c : Option Nat) (e t x : Nat) (p : Bytes) (d : Bool) : (s.record k q c e t x p d).mem.chs = s.mem.chs := still_mem_chs (s.record_still k q c e t x p d)
@[simp] theorem record_mem_done (k q : Nat) (c : Option Nat) (e t x : Nat) (p : Bytes) (d : Bool) : (s.record k q c e t x p d).mem.done = s.mem.done := still_mem_done (s.record_still k q c e t x p d)

@[simp] theorem lntRefillAll_pending : (s.lntRefillAll).pending = s.pending := still_pending (s.lntRefillAll_still)
@[simp] theorem lntRefillAll_glb : (s.lntRefillAll).glb = s.glb := still_glb (s.lntRefillAll_still)
@[simp] theorem lntRefillAll_clk : (s.lntRefillAll).clk = s.clk := still_clk (s.lntRefillAll_still)
@[simp] theorem lntRefillAll_ctl : (s.lntRefillAll).ctl = s.ctl := still_ctl (s.lntRefillAll_still)
@[simp] theorem lntRefillAll_start : (s.lntRefillAll).start = s.start := still_start (s.lntRefillAll_still)
@[simp] theorem lntRefillAll_pitches : (s.lntRefillAll).pitches = s.pitches := still_pitches (s.lntRefillAll_still)
@[simp] theorem lntRefillAll_core : (s.lntRefillAll).core = s.core := still_core (s.lntRefillAll_still)
@[simp] theorem lntRefillAll_links : (s.lntRefillAll).links = s.links := still_links (s.lntRefillAll_still)
@[simp] theorem lntRefillAll_guys : (s.lntRefillAll).guys = s.guys := still_guys (s.lntRefillAll_still)
@[simp] theorem lntRefillAll_memb : (s.lntRefillAll).memb = s.memb := still_memb (s.lntRefillAll_still)
@[simp] theorem lntRefillAll_stp : (s.lntRefillAll).stp = s.stp := still_stp (s.lntRefillAll_still)
@[simp] theorem lntRefillAll_fnc : (s.lntRefillAll).fnc = s.fnc := still_fnc (s.lntRefillAll_still)
@[simp] theorem lntRefillAll_xch : (s.lntRefillAll).xch = s.xch := still_xch (s.lntRefillAll_still)
@[simp] theorem lntRefillAll_ctxs : (s.lntRefillAll).ctxs = s.ctxs := still_ctxs (s.lntRefillAll_still)
@[simp] theorem lntRefillAll_ktl : (s.lntRefillAll).ktl = s.ktl := still_ktl (s.lntRefillAll_still)
@[simp] theorem lntRefillAll_stn : (s.lntRefillAll).stn = s.stn := still_stn (s.lntRefillAll_still)
@[simp] theorem lntRefillAll_drain : (s.lntRefillAll).drain = s.drain := still_drain (s.lntRefillAll_still)
@[simp] theorem lntRefillAll_col : (s.lntRefillAll).col = s.col := still_col (s.lntRefillAll_still)
@[simp] theorem lntRefillAll_hold : (s.lntRefillAll).hold = s.hold := still_hold (s.lntRefillAll_still)
@[simp] theorem lntRefillAll_bal : (s.lntRefillAll).bal = s.bal := still_bal (s.lntRefillAll_still)
@[simp] theorem lntRefillAll_rsl : (s.lntRefillAll).rsl = s.rsl := still_rsl (s.lntRefillAll_still)
@[simp] theorem lntRefillAll_free : (s.lntRefillAll).free = s.free := still_free (s.lntRefillAll_still)
@[simp] theorem lntRefillAll_mem_chs : (s.lntRefillAll).mem.chs = s.mem.chs := still_mem_chs (s.lntRefillAll_still)
@[simp] theorem lntRefillAll_mem_done : (s.lntRefillAll).mem.done = s.mem.done := still_mem_done (s.lntRefillAll_still)

@[simp] theorem memWriteWords_pending (c k a : Nat) (bs : Bytes) (w : MemWhy) : (s.memWriteWords c k a bs w).pending = s.pending := still_pending (s.memWriteWords_still c k a bs w)
@[simp] theorem memWriteWords_glb (c k a : Nat) (bs : Bytes) (w : MemWhy) : (s.memWriteWords c k a bs w).glb = s.glb := still_glb (s.memWriteWords_still c k a bs w)
@[simp] theorem memWriteWords_clk (c k a : Nat) (bs : Bytes) (w : MemWhy) : (s.memWriteWords c k a bs w).clk = s.clk := still_clk (s.memWriteWords_still c k a bs w)
@[simp] theorem memWriteWords_ctl (c k a : Nat) (bs : Bytes) (w : MemWhy) : (s.memWriteWords c k a bs w).ctl = s.ctl := still_ctl (s.memWriteWords_still c k a bs w)
@[simp] theorem memWriteWords_start (c k a : Nat) (bs : Bytes) (w : MemWhy) : (s.memWriteWords c k a bs w).start = s.start := still_start (s.memWriteWords_still c k a bs w)
@[simp] theorem memWriteWords_pitches (c k a : Nat) (bs : Bytes) (w : MemWhy) : (s.memWriteWords c k a bs w).pitches = s.pitches := still_pitches (s.memWriteWords_still c k a bs w)
@[simp] theorem memWriteWords_core (c k a : Nat) (bs : Bytes) (w : MemWhy) : (s.memWriteWords c k a bs w).core = s.core := still_core (s.memWriteWords_still c k a bs w)
@[simp] theorem memWriteWords_links (c k a : Nat) (bs : Bytes) (w : MemWhy) : (s.memWriteWords c k a bs w).links = s.links := still_links (s.memWriteWords_still c k a bs w)
@[simp] theorem memWriteWords_guys (c k a : Nat) (bs : Bytes) (w : MemWhy) : (s.memWriteWords c k a bs w).guys = s.guys := still_guys (s.memWriteWords_still c k a bs w)
@[simp] theorem memWriteWords_memb (c k a : Nat) (bs : Bytes) (w : MemWhy) : (s.memWriteWords c k a bs w).memb = s.memb := still_memb (s.memWriteWords_still c k a bs w)
@[simp] theorem memWriteWords_stp (c k a : Nat) (bs : Bytes) (w : MemWhy) : (s.memWriteWords c k a bs w).stp = s.stp := still_stp (s.memWriteWords_still c k a bs w)
@[simp] theorem memWriteWords_fnc (c k a : Nat) (bs : Bytes) (w : MemWhy) : (s.memWriteWords c k a bs w).fnc = s.fnc := still_fnc (s.memWriteWords_still c k a bs w)
@[simp] theorem memWriteWords_xch (c k a : Nat) (bs : Bytes) (w : MemWhy) : (s.memWriteWords c k a bs w).xch = s.xch := still_xch (s.memWriteWords_still c k a bs w)
@[simp] theorem memWriteWords_ctxs (c k a : Nat) (bs : Bytes) (w : MemWhy) : (s.memWriteWords c k a bs w).ctxs = s.ctxs := still_ctxs (s.memWriteWords_still c k a bs w)
@[simp] theorem memWriteWords_ktl (c k a : Nat) (bs : Bytes) (w : MemWhy) : (s.memWriteWords c k a bs w).ktl = s.ktl := still_ktl (s.memWriteWords_still c k a bs w)
@[simp] theorem memWriteWords_stn (c k a : Nat) (bs : Bytes) (w : MemWhy) : (s.memWriteWords c k a bs w).stn = s.stn := still_stn (s.memWriteWords_still c k a bs w)
@[simp] theorem memWriteWords_drain (c k a : Nat) (bs : Bytes) (w : MemWhy) : (s.memWriteWords c k a bs w).drain = s.drain := still_drain (s.memWriteWords_still c k a bs w)
@[simp] theorem memWriteWords_col (c k a : Nat) (bs : Bytes) (w : MemWhy) : (s.memWriteWords c k a bs w).col = s.col := still_col (s.memWriteWords_still c k a bs w)
@[simp] theorem memWriteWords_hold (c k a : Nat) (bs : Bytes) (w : MemWhy) : (s.memWriteWords c k a bs w).hold = s.hold := still_hold (s.memWriteWords_still c k a bs w)
@[simp] theorem memWriteWords_bal (c k a : Nat) (bs : Bytes) (w : MemWhy) : (s.memWriteWords c k a bs w).bal = s.bal := still_bal (s.memWriteWords_still c k a bs w)
@[simp] theorem memWriteWords_rsl (c k a : Nat) (bs : Bytes) (w : MemWhy) : (s.memWriteWords c k a bs w).rsl = s.rsl := still_rsl (s.memWriteWords_still c k a bs w)
@[simp] theorem memWriteWords_free (c k a : Nat) (bs : Bytes) (w : MemWhy) : (s.memWriteWords c k a bs w).free = s.free := still_free (s.memWriteWords_still c k a bs w)
@[simp] theorem memWriteWords_mem_chs (c k a : Nat) (bs : Bytes) (w : MemWhy) : (s.memWriteWords c k a bs w).mem.chs = s.mem.chs := still_mem_chs (s.memWriteWords_still c k a bs w)
@[simp] theorem memWriteWords_mem_done (c k a : Nat) (bs : Bytes) (w : MemWhy) : (s.memWriteWords c k a bs w).mem.done = s.mem.done := still_mem_done (s.memWriteWords_still c k a bs w)

end Sys2Proof.Machine.State
end

