-- ==== Sys2Proof/Laws/Settle.lean ====
section
/-! SUPPORT. What settling frames, images and holds (R149 to R151, R370, R379 to R386) can do, said once
(`State.Settled`): it changes nothing but the frame fields of steps, the Caddy's images and table copies, the hold lists of switches,
the requests that wait for memory and the count of free values; and what a teardown (R397) and the end of a step's
frame leave of the context. -/

namespace Sys2Proof.Machine

theorem tget_tmod {β : Type} [DecidableEq β] (d : β) (k : Nat) (f : β → β) (t : Table β) (j : Nat) :
    tget d (tmod d k f t) j = if j = k then f (tget d t k) else tget d t j := by
  unfold tmod; exact tget_tput d _ t k j

theorem State.ctx_modCtx (s : State) (c d : Nat) (f : Ctx → Ctx) :
    (s.modCtx c f).ctx d = if d = c then f (s.ctx c) else s.ctx d := tget_tmod ..

@[simp] theorem State.ctx_modCtx_self (s : State) (c : Nat) (f : Ctx → Ctx) : (s.modCtx c f).ctx c = f (s.ctx c) := by
  rw [State.ctx_modCtx, if_pos rfl]

theorem State.ctx_modCtx_ne (s : State) {c d : Nat} (f : Ctx → Ctx) (h : d ≠ c) : (s.modCtx c f).ctx d = s.ctx d := by
  rw [State.ctx_modCtx, if_neg h]

theorem State.ctx_of_ctxs {s t : State} (h : t.ctxs = s.ctxs) (c : Nat) : t.ctx c = s.ctx c := by
  unfold State.ctx; rw [h]

/-- The state but for what settling touches. -/
def State.calm (s : State) : State :=
  { s with
    ctxs := []
    mem := { s.mem with wait := [], nextId := 0 }
    ktl := { s.ktl with imgs := [], nextImg := 0, tabs := [] }
    bal := { s.bal with old := [] }
    rsl := { s.rsl with wswOld := [] }
    free := 0 }

/-- A step without its frame. -/
def Step.unframed (st : Step) : Step :=
  { st with
    frame := none
    evicted := false
    leaving := false
    moving := false
    victim := 0
    swEnd := 0
    cnt := { st.cnt with qflags := 0 } }

/-- A context whose step has no frame. -/
def Ctx.unframed (x : Ctx) : Ctx := { x with step := x.step.map Step.unframed }

/-- `t` comes from `s` by settling frames, images and holds. -/
structure State.Settled (s t : State) : Prop where
  calm : t.calm = s.calm
  ctxs : ∀ c, (t.ctx c).unframed = (s.ctx c).unframed

theorem settled_refl (s : State) : s.Settled s := ⟨rfl, fun _ => rfl⟩

theorem State.Settled.trans {s t u : State} (h : s.Settled t) (k : t.Settled u) : s.Settled u :=
  ⟨k.1.trans h.1, fun c => (k.2 c).trans (h.2 c)⟩

theorem settled_same {s t : State} (h : t.calm = s.calm) (k : t.ctxs = s.ctxs) : s.Settled t :=
  ⟨h, fun c => by rw [State.ctx_of_ctxs k]⟩

theorem settled_foldl {α : Type} (f : State → α → State) (l : List α) (s : State) (h : ∀ (s : State) x, s.Settled (f s x)) :
    s.Settled (l.foldl f s) := by
  induction l generalizing s with
  | nil => exact settled_refl s
  | cons x r ih => exact (h s x).trans (ih _)

theorem State.modStep_settled (s : State) (c : Nat) (f : Step → Step) (h : ∀ st, (f st).unframed = st.unframed) :
    s.Settled (s.modStep c f) := by
  refine ⟨rfl, fun d => ?_⟩
  unfold State.modStep
  rw [State.ctx_modCtx]
  split
  · subst d
    simp only [Ctx.unframed, Option.map_map]
    have : Step.unframed ∘ f = Step.unframed := funext h
    rw [this]
  · rfl

theorem State.memPost_settled (s : State) (r : MemReq) : s.Settled (s.memPost r) := settled_same rfl rfl
theorem State.memWrite_settled (s : State) (c k a : Nat) (bs : Bytes) (w : MemWhy) : s.Settled (s.memWrite c k a bs w) :=
  settled_foldl _ _ _ fun _ _ => State.memPost_settled _ _
theorem State.free_settled (s : State) (n : Nat) : s.Settled { s with free := n } := settled_same rfl rfl
theorem State.saveFrame_settled (s : State) (c : Nat) (st : Step) : s.Settled (s.saveFrame c st) :=
  State.memWrite_settled _ _ _ _ _ _

theorem State.readFrame_settled (s : State) (c : Nat) (st : Step) : s.Settled (s.readFrame c st) :=
  settled_foldl _ _ _ fun _ _ => State.memPost_settled _ _

theorem State.grantFrames_settled (n k : Nat) (s : State) : s.Settled (State.grantFrames n k s) := by
  induction k generalizing s with
  | zero => exact settled_refl s
  | succ k ih =>
    unfold State.grantFrames
    split
    · refine State.Settled.trans ?_ (ih _)
      exact State.modStep_settled s _ _ fun _ => rfl
    · split
      · split
        · exact settled_refl s
        · refine State.Settled.trans ?_ (ih _)
          refine State.Settled.trans ?_ (State.modStep_settled _ _ _ fun _ => rfl)
          exact State.readFrame_settled s _ _
      · exact settled_refl s

theorem State.passFrame_settled (s : State) (c : Nat) : s.Settled (s.passFrame c) := by
  unfold State.passFrame
  split
  · exact settled_refl s
  · split
    · exact settled_refl s
    · rename_i st _ _
      have h : s.Settled (if st.moving then s else s.saveFrame c st) := by
        split
        · exact settled_refl s
        · exact State.saveFrame_settled s c st
      have h : s.Settled (((if st.moving then s else s.saveFrame c st).modStep c (fun st => { st with
          leaving := false
          evicted := true
          moving := false
          frame := none
          cnt := { st.cnt with qflags := st.cnt.qflags ||| 128 } }))) := h.trans (State.modStep_settled _ _ _ fun _ => rfl)
      simp only
      split
      · exact (h.trans (State.free_settled _ _)).trans (State.grantFrames_settled _ _ _)
      · exact (h.trans (State.free_settled _ _)).trans (State.modStep_settled _ _ _ fun _ => rfl)

theorem State.evictFor_settled (n k : Nat) (s : State) : s.Settled (State.evictFor n k s) := by
  induction k generalizing s with
  | zero => exact settled_refl s
  | succ k ih =>
    unfold State.evictFor
    simp only
    split
    · exact settled_refl s
    · split
      · exact settled_refl s
      · refine State.Settled.trans ?_ (ih _)
        refine State.Settled.trans ?_ (State.passFrame_settled _ _)
        exact State.modStep_settled s _ _ fun _ => rfl

theorem State.frames_settled (s : State) (n : Nat) : s.Settled (s.frames n) :=
  ((State.grantFrames_settled n 8 s).trans (settled_foldl _ _ _ fun _ _ => State.passFrame_settled _ _)).trans
    (State.evictFor_settled n 8 _)

theorem State.postImage_settled (s : State) (i : Img) : s.Settled (s.postImage i) :=
  settled_foldl _ _ _ fun _ _ => State.memPost_settled _ _

theorem State.reloadImage_settled (s : State) (i : Img) (c n : Nat) : s.Settled (s.reloadImage i c n) :=
  State.Settled.trans (t := s.modKtl _) (settled_same rfl rfl) (State.postImage_settled _ _)

theorem State.dropImages_settled (s : State) (c : Nat) : s.Settled (s.dropImages c) :=
  State.Settled.trans (t := s.modKtl _) (settled_same rfl rfl) (settled_foldl _ _ _ fun _ _ => State.reloadImage_settled _ _ _ _)

theorem State.unhold_settled (s : State) (c : Nat) : s.Settled (s.unhold c) := settled_same rfl rfl

theorem State.dropFrame_settled (s : State) (c : Nat) : s.Settled (s.dropFrame c) := by
  refine State.Settled.trans ?_ (State.frames_settled _ _)
  refine State.Settled.trans (State.dropImages_settled s c) ?_
  exact State.modStep_settled _ _ _ fun _ => rfl

/-- Fields that settling keeps. -/
theorem settled_fields {s t : State} (h : s.Settled t) :
    t.pending = s.pending ∧ t.regs = s.regs ∧ t.glb = s.glb ∧ t.clk = s.clk ∧ t.ctl = s.ctl ∧ t.lnt = s.lnt ∧
      t.start = s.start ∧ t.pitches = s.pitches ∧ t.mem.chs = s.mem.chs ∧ t.mem.done = s.mem.done ∧ t.core = s.core ∧
      t.links = s.links ∧ t.guys = s.guys ∧ t.memb = s.memb ∧ t.stp = s.stp ∧ t.fnc = s.fnc ∧ t.xch = s.xch ∧
      t.ktl.cores = s.ktl.cores ∧ t.stn = s.stn ∧ t.drain = s.drain ∧ t.col = s.col ∧ t.hold = s.hold ∧ t.det = s.det ∧
      t.bal.rsw = s.bal.rsw ∧ t.rsl.wsw = s.rsl.wsw ∧ t.rsl.snap = s.rsl.snap := by
  have e := h.1
  simp only [State.calm, State.mk.injEq, Mem.mk.injEq, Ktl.mk.injEq, Bal.mk.injEq, Rsl.mk.injEq] at e
  simp [e]

/-- A context without a step keeps none, and every other field of it. -/
theorem settled_ctx_none {s t : State} (h : s.Settled t) (c : Nat) (e : (s.ctx c).step = none) : t.ctx c = s.ctx c := by
  have := h.2 c
  unfold Ctx.unframed at this
  cases hs : s.ctx c with
  | mk =>
    cases ht : t.ctx c with
    | mk =>
      rw [hs, ht] at this
      rw [hs] at e
      simp only [Ctx.mk.injEq] at this e
      subst e
      simp_all

/-- `t` comes from `s` by sending on links: nothing but the link layer and the exchange engine changes. -/
def State.Sends (s t : State) : Prop := t = { s with links := t.links, xch := t.xch }

theorem sends_refl (s : State) : s.Sends s := rfl

theorem State.Sends.trans {s t u : State} (h : s.Sends t) (k : t.Sends u) : s.Sends u := by
  unfold State.Sends at *
  rw [h] at k
  exact k

/-- Fields that sending keeps. -/
theorem sends_fields {s t : State} (h : s.Sends t) :
    t.pending = s.pending ∧ t.regs = s.regs ∧ t.glb = s.glb ∧ t.clk = s.clk ∧ t.ctl = s.ctl ∧ t.lnt = s.lnt ∧
      t.start = s.start ∧ t.pitches = s.pitches ∧ t.mem = s.mem ∧ t.core = s.core ∧ t.guys = s.guys ∧ t.memb = s.memb ∧
      t.stp = s.stp ∧ t.fnc = s.fnc ∧ t.ctxs = s.ctxs ∧ t.ktl = s.ktl ∧ t.stn = s.stn ∧ t.drain = s.drain ∧
      t.col = s.col ∧ t.hold = s.hold ∧ t.bal = s.bal ∧ t.rsl = s.rsl ∧ t.det = s.det ∧ t.free = s.free := by
  unfold State.Sends at h
  generalize t.links = l at h
  generalize t.xch = x at h
  subst h
  simp

theorem sends_foldl {α : Type} (f : State → α → State) (l : List α) (s : State) (h : ∀ (s : State) x, s.Sends (f s x)) :
    s.Sends (l.foldl f s) := by
  induction l generalizing s with
  | nil => exact sends_refl s
  | cons x r ih => exact (h s x).trans (ih _)

theorem State.enqueue_sends (s : State) (n vc : Nat) (qs : List QFlit) : s.Sends (s.enqueue n vc qs) := rfl

theorem State.shortOut_sends (s : State) (h : FlitH) (pay : Bytes) (fin pool slot : Nat) :
    s.Sends (s.shortOut h pay fin pool slot) := by
  unfold State.shortOut
  simp only
  repeat' split
  all_goals rfl

theorem State.sendShort_sends (s : State) (c e d m : Nat) (pay : Bytes) (fin : Nat) : s.Sends (s.sendShort c e d m pay fin) := by
  unfold State.sendShort
  split
  · rfl
  · exact State.shortOut_sends _ _ _ _ _ _

theorem State.abortInst_sends (s : State) (c : Nat) (st : Step) (x : CollInst) (r : Nat) : s.Sends (s.abortInst c st x r) :=
  sends_foldl _ _ _ fun _ _ => State.sendShort_sends _ _ _ _ _ _ _

theorem State.abortAll_sends (s : State) (c : Nat) (st : Step) (r : Nat) : s.Sends (s.abortAll c st r) :=
  sends_foldl _ _ _ fun _ _ => State.abortInst_sends _ _ _ _ _

/-- `t` comes from `s` by charging context `c` (R390, R391): its counters and the governor's windows change. -/
structure State.Charged (s t : State) (c : Nat) : Prop where
  rest : t = { s with pitches := t.pitches, ctxs := t.ctxs }
  others : ∀ d, d ≠ c → t.ctx d = s.ctx d
  self : t.ctx c = { s.ctx c with acct := (t.ctx c).acct }

theorem charged_refl (s : State) (c : Nat) : s.Charged s c := ⟨rfl, fun _ _ => rfl, rfl⟩

theorem State.Charged.trans {s t u : State} {c : Nat} (h : s.Charged t c) (k : t.Charged u c) : s.Charged u c := by
  refine ⟨?_, fun d e => (k.2 d e).trans (h.2 d e), ?_⟩
  · have a := h.1
    have b := k.1
    rw [a] at b
    exact b
  · have b := k.3
    rw [h.3] at b
    exact b

theorem State.acctAdd_charged (s : State) (c i n : Nat) : s.Charged (s.acctAdd c i n) c :=
  ⟨rfl, fun _ e => State.ctx_modCtx_ne s _ e, by unfold State.acctAdd; rw [State.ctx_modCtx_self]⟩

theorem State.energy_charged (s : State) (p c k n : Nat) : s.Charged (s.energy p c k n) c := by
  have h (d : Nat) : (s.energy p c k n).ctx d = (s.modCtx c (fun x : Ctx => { x with
      acct := tput 0 acctFj (tget 0 x.acct acctFj + n * s.rdF (0xA0020 + 4 * k) 0 24) x.acct })).ctx d := rfl
  refine ⟨rfl, fun d e => ?_, ?_⟩
  · rw [h, State.ctx_modCtx_ne _ _ e]
  · rw [h, State.ctx_modCtx_self]

theorem State.chargeCore_charged (s : State) (a c n : Nat) (b : Bool) : s.Charged (s.chargeCore a c n b) c := by
  unfold State.chargeCore
  split
  · exact (State.acctAdd_charged s c _ _).trans (State.energy_charged _ _ c _ _)
  · exact State.acctAdd_charged s c _ _

theorem State.chargeMem_charged (s : State) (p c k n : Nat) : s.Charged (s.chargeMem p c k n) c :=
  (State.acctAdd_charged s c _ _).trans (State.energy_charged _ _ c _ _)

theorem State.chargeRead_charged (s : State) (c k a n : Nat) : s.Charged (s.chargeRead c k a n) c := by
  unfold State.chargeRead
  split
  · exact charged_refl s c
  · exact State.chargeMem_charged _ _ _ _ _

/-- A packet sent changes the core port, and charges its context. -/
theorem State.sendPacket_charged (s : State) (a c : Nat) (bs : Bytes) (b : Bool) :
    (s.coreSend a bs).Charged (s.sendPacket a c bs b) c ∧ s.coreSend a bs = { s with core := (s.coreSend a bs).core } := by
  refine ⟨State.chargeCore_charged _ _ _ _ _, ?_⟩
  unfold State.coreSend
  split <;> rfl

theorem State.sendCancel_ctx (s : State) (c e sc why fin : Nat) :
    (∀ d, d ≠ c → (s.sendCancel c e sc why fin).ctx d = s.ctx d) ∧
      (s.sendCancel c e sc why fin).ctx c = { s.ctx c with acct := ((s.sendCancel c e sc why fin).ctx c).acct } := by
  obtain ⟨h, k⟩ := State.sendPacket_charged s (s.firstPt s.glb.anchor) c (cancelWord c e sc why s.core.nextCancel) false
  have hc : ∀ d, (s.coreSend (s.firstPt s.glb.anchor) (cancelWord c e sc why s.core.nextCancel)).ctx d = s.ctx d := fun d => by
    rw [k]; rfl
  refine ⟨fun d hd => ?_, ?_⟩
  · have := h.2 d hd
    rw [hc] at this
    exact this
  · have := h.3
    rw [hc] at this
    exact this

/-- The cancel word waits for its answer (R394). -/
theorem State.sendCancel_cancels (s : State) (c e sc why fin : Nat) :
    (s.sendCancel c e sc why fin).core.cancels = s.core.cancels ++ [⟨s.core.nextCancel, c, fin, s.el⟩] := by
  obtain ⟨h, k⟩ := State.sendPacket_charged s (s.firstPt s.glb.anchor) c (cancelWord c e sc why s.core.nextCancel) false
  have h1 : (s.sendPacket (s.firstPt s.glb.anchor) c (cancelWord c e sc why s.core.nextCancel) false).core.cancels = s.core.cancels := by
    rw [h.1]
    show (s.coreSend _ _).core.cancels = _
    unfold State.coreSend
    split <;> rfl
  have h2 : (s.sendPacket (s.firstPt s.glb.anchor) c (cancelWord c e sc why s.core.nextCancel) false).el = s.el := by
    rw [h.1]
    show (s.coreSend _ _).el = _
    rw [k]
    rfl
  unfold State.sendCancel
  simp only
  rw [h1, h2]

/-- A context whose own state has gone (R397). -/
theorem State.clearOwn_ctx (s : State) (c : Nat) :
    (s.clearOwn c).ctx c = { s.ctx c with
      key := 0#64
      tracked := []
      cancelled := []
      counters := []
      step := none
      vframe := none
      cand := none
      waitEpoch := false
      heldCancel := false
      waitDrain := false
      ask := {}
      go := {} } := by
  unfold State.clearOwn
  rw [State.ctx_modCtx_self]
  rfl

/-- A context without a step and without a held cancel is left as it was, and no cancel word that waits for its answer is
taken away. -/
structure State.Spares (s t : State) (c : Nat) : Prop where
  ctx : (s.ctx c).step = none → (s.ctx c).heldCancel = false → t.ctx c = s.ctx c
  cancels : s.core.cancels <+: t.core.cancels

theorem prefix_of_same {α : Type} {l m : List α} (h : m = l) : l <+: m := h ▸ List.prefix_refl _

theorem spares_refl (s : State) (c : Nat) : s.Spares s c := ⟨fun _ _ => rfl, List.prefix_refl _⟩

theorem State.Spares.trans {s t u : State} {c : Nat} (h : s.Spares t c) (k : t.Spares u c) : s.Spares u c := by
  refine ⟨fun a b => ?_, h.2.trans k.2⟩
  have e := h.1 a b
  rw [k.1 (by rw [e]; exact a) (by rw [e]; exact b), e]

theorem spares_of_settled {s t : State} (h : s.Settled t) (c : Nat) : s.Spares t c := by
  refine ⟨fun a _ => settled_ctx_none h c a, ?_⟩
  exact prefix_of_same (by rw [(settled_fields h).2.2.2.2.2.2.2.2.2.2.1])

theorem State.modCtx_spares (s : State) {c d : Nat} (f : Ctx → Ctx) (h : d ≠ c) : s.Spares (s.modCtx d f) c :=
  ⟨fun _ _ => State.ctx_modCtx_ne s f (Ne.symm h), List.prefix_refl _⟩

theorem State.modStep_spares (s : State) {c d : Nat} (f : Step → Step) (h : d ≠ c) : s.Spares (s.modStep d f) c :=
  State.modCtx_spares s _ h

theorem State.sendCancel_spares (s : State) {c d : Nat} (e sc why fin : Nat) (h : d ≠ c) :
    s.Spares (s.sendCancel d e sc why fin) c :=
  ⟨fun _ _ => (State.sendCancel_ctx s d e sc why fin).1 c (Ne.symm h), by
    rw [State.sendCancel_cancels]; exact List.prefix_append _ _⟩

theorem State.postQuery_spares (s : State) {c d : Nat} (k : Nat) (q : Query) (h : d ≠ c) : s.Spares (s.postQuery d k q) c :=
  (State.modCtx_spares s _ h).trans ((State.modStep_spares _ _ h).trans ⟨fun _ _ => rfl, List.prefix_refl _⟩)

theorem State.cancelCheck_spares (s : State) {c d : Nat} (h : d ≠ c) : s.Spares (s.cancelCheck d) c := by
  unfold State.cancelCheck
  split
  · exact spares_refl s c
  · split
    · exact (State.modStep_spares s _ h).trans (State.postQuery_spares _ _ _ h)
    · exact spares_refl s c

theorem State.cancelMark_core (s : State) (c : Nat) (st : Step) :
    (s.cancelMark c st).core = s.core ∧ (s.cancelMark c st).el = s.el := by
  unfold State.cancelMark
  by_cases h : st.outCopies = []
  · simp only [h, if_true]; exact ⟨rfl, rfl⟩
  · simp only [h, if_false]; exact ⟨rfl, rfl⟩

theorem State.cancelMark_spares (s : State) {c d : Nat} (st : Step) (h : d ≠ c) : s.Spares (s.cancelMark d st) c := by
  have h1 : s.Spares (if st.outCopies = [] then s
      else { s with drain := s.drain ++ [⟨d, st.epoch, st.outCopies, s.el, 32 * st.bind.dir.d32⟩] }) c := by
    split
    · exact spares_refl s c
    · exact ⟨fun _ _ => rfl, List.prefix_refl _⟩
  unfold State.cancelMark
  simp only
  refine h1.trans ?_
  generalize (if st.outCopies = [] then s else _ : State) = s1
  exact State.Spares.trans (t := { s1 with
      mem := { s1.mem with wait := s1.mem.wait.filter (fun r => decide (r.ctx ≠ d) || decide (r.tries ≠ 0)) }
      xch := { s1.xch with fired := s1.xch.fired.filter (fun f => decide (f.1 ≠ d)) } })
    ⟨fun _ _ => rfl, List.prefix_refl _⟩ ((State.modCtx_spares _ _ h).trans (State.modStep_spares _ _ h))

theorem State.cancelNow_spares (s : State) {c d : Nat} (st : Step) (h : d ≠ c) : s.Spares (s.cancelNow d st) c := by
  unfold State.cancelNow
  extract_lets s1 s2
  have h2 : s1.Spares s2 c := by
    show s1.Spares (if _ then _ else _) c
    split
    · exact spares_of_settled (State.dropFrame_settled s1 d) c
    · exact spares_refl s1 c
  exact ((State.cancelMark_spares s st h).trans h2).trans
    ((State.sendCancel_spares s2 _ _ _ _ h).trans (State.cancelCheck_spares _ h))

theorem State.holdCancel_spares (s : State) {c d : Nat} (b : Bool) (h : d ≠ c) : s.Spares (s.holdCancel d b) c := by
  unfold State.holdCancel
  extract_lets s1
  have h1 : s.Spares s1 c := by
    show s.Spares (if _ then _ else _) c
    split
    · exact ⟨fun _ _ => rfl, List.prefix_refl _⟩
    · exact spares_refl s c
  exact h1.trans (State.modCtx_spares s1 _ h)

theorem State.heldCheck_spares (s : State) (c d : Nat) : s.Spares (s.heldCheck d) c := by
  by_cases h : d = c
  · subst h
    unfold State.heldCheck
    cases e : (s.ctx d).heldCancel with
    | false => exact spares_refl s d
    | true =>
      refine ⟨fun _ b => ?_, ?_⟩
      · rw [e] at b; cases b
      · rw [if_pos rfl]
        unfold State.cancelStep
        split
        · exact List.prefix_refl _
        · rename_i st _
          have hold (b : Bool) : (s.holdCancel d b).core = s.core := by
            unfold State.holdCancel
            extract_lets s1
            show (if _ then _ else _ : State).core = _
            split <;> rfl
          split
          · exact List.prefix_refl _
          · split
            · exact prefix_of_same (by rw [hold])
            · split
              · exact prefix_of_same (by rw [hold])
              · unfold State.cancelNow
                extract_lets s1 s2
                have h1 : s1.core = s.core := (State.cancelMark_core s d st).1
                have h2 : s2.core = s1.core := by
                  show (if _ then _ else _ : State).core = _
                  split
                  · exact (settled_fields (State.dropFrame_settled s1 d)).2.2.2.2.2.2.2.2.2.2.1
                  · rfl
                have h3 : s.core.cancels <+: (s2.sendCancel d st.epoch 0 0 0).core.cancels := by
                  rw [State.sendCancel_cancels, h2, h1]
                  exact List.prefix_append _ _
                refine h3.trans ?_
                unfold State.cancelCheck
                split
                · exact List.prefix_refl _
                · split
                  · exact List.prefix_refl _
                  · exact List.prefix_refl _
  · unfold State.heldCheck
    split
    · unfold State.cancelStep
      split
      · exact spares_refl s c
      · split
        · exact spares_refl s c
        · split
          · exact State.holdCancel_spares s _ h
          · split
            · exact State.holdCancel_spares s _ h
            · exact State.cancelNow_spares s _ h
    · exact spares_refl s c

theorem State.heldAll_spares (s : State) (c : Nat) : s.Spares s.heldAll c := by
  unfold State.heldAll
  generalize tkeys _ _ = l
  induction l generalizing s with
  | nil => exact spares_refl s c
  | cons d r ih => exact (State.heldCheck_spares s c d).trans (ih _)

/-- What a release leaves of the context (R397), and of the cancel words that wait. -/
theorem State.release_ctx (s : State) (c : Nat) :
    (s.release c).ctx c = { s.ctx c with
      key := 0#64
      tracked := []
      cancelled := []
      counters := []
      step := none
      vframe := none
      cand := none
      waitEpoch := false
      heldCancel := false
      waitDrain := false
      ask := {}
      go := {} } ∧ s.core.cancels <+: (s.release c).core.cancels := by
  unfold State.release
  have h := (spares_of_settled (State.Settled.trans (State.dropImages_settled (s.clearOwn c) c) (State.Settled.trans
    (State.unhold_settled _ c) (State.frames_settled _ (s.ctx c).tent))) c).trans (State.heldAll_spares _ c)
  refine ⟨(h.1 ?_ ?_).trans (State.clearOwn_ctx s c), h.2⟩
  · rw [State.clearOwn_ctx]
  · rw [State.clearOwn_ctx]

/-- A teardown of an enabled context (R397): TDOWN is set, the tag key and counters are zero, no step is left, and the
cancel word waits for its answer; cancels of other contexts that the room in the drain table lets go on follow it. -/
theorem State.tearDown_ctx (s : State) (c why : Nat) :
    s.core.cancels ++ [⟨s.core.nextCancel, c, 1, s.el⟩] <+: (s.tearDown c why).core.cancels ∧
    (s.tearDown c why).ctx c = { s.ctx c with
      tdown := true
      downWait := true
      torn := true
      key := 0#64
      tracked := []
      cancelled := []
      counters := []
      step := none
      vframe := none
      cand := none
      waitEpoch := false
      heldCancel := false
      waitDrain := false
      ask := {}
      go := {}
      acct := ((s.tearDown c why).ctx c).acct } := by
  have key : ∀ v : State, v.ctxs = s.ctxs → v.core = s.core → v.clk = s.clk →
      let w := (v.modCtx c (fun x => { x with tdown := true, downWait := true, torn := true })).sendCancel c 0 1 why 1
      s.core.cancels ++ [⟨s.core.nextCancel, c, 1, s.el⟩] <+: ((w.release c).downCheck c).core.cancels ∧
      ((w.release c).downCheck c).ctx c = { s.ctx c with
        tdown := true
        downWait := true
        torn := true
        key := 0#64
        tracked := []
        cancelled := []
        counters := []
        step := none
        vframe := none
        cand := none
        waitEpoch := false
        heldCancel := false
        waitDrain := false
        ask := {}
        go := {}
        acct := (((w.release c).downCheck c).ctx c).acct } := by
    intro v hv hc hk w
    have e0 : w.core.cancels = s.core.cancels ++ [⟨s.core.nextCancel, c, 1, s.el⟩] := by
      show (State.sendCancel _ c 0 1 why 1).core.cancels = _
      rw [State.sendCancel_cancels]
      simp only [State.modCtx_core, hc, State.el, State.modCtx_clk, hk]
    have e1 : s.core.cancels ++ [⟨s.core.nextCancel, c, 1, s.el⟩] <+: (w.release c).core.cancels := by
      rw [← e0]; exact (State.release_ctx w c).2
    have e2 : (w.release c).downCheck c = w.release c := by
      unfold State.downCheck
      rw [if_neg]
      have : (⟨s.core.nextCancel, c, 1, s.el⟩ : CancelWait) ∈ (w.release c).core.cancels := e1.subset (by simp)
      have : (w.release c).core.cancels.any (fun w => decide (w.ctx = c ∧ w.fin = 1)) = true :=
        List.any_eq_true.mpr ⟨_, this, by simp⟩
      rw [this]
      simp
    rw [e2]
    refine ⟨e1, ?_⟩
    have h := (State.sendCancel_ctx (v.modCtx c (fun x => { x with tdown := true, downWait := true, torn := true })) c 0 1 why 1).2
    rw [(State.release_ctx w c).1, h, State.ctx_modCtx_self, State.ctx_of_ctxs hv]
  obtain ⟨v, hv, hc, hk, e⟩ : ∃ v : State, v.ctxs = s.ctxs ∧ v.core = s.core ∧ v.clk = s.clk ∧
      s.tearDown c why = (((v.modCtx c (fun x => { x with tdown := true, downWait := true, torn := true })).sendCancel
        c 0 1 why 1).release c).downCheck c := by
    unfold State.tearDown
    cases s.step? c with
    | none => exact ⟨s, rfl, rfl, rfl, rfl⟩
    | some st =>
      have h := State.abortAll_sends s c st 7
      obtain ⟨-, -, -, h4, -, -, -, -, -, h10, -, -, -, -, h15, -⟩ := sends_fields h
      exact ⟨s.abortAll c st 7, h15, h10, h4, rfl⟩
  rw [e]
  exact key v hv hc hk

/-- A settled step differs in its frame fields alone. -/
theorem settled_step {s t : State} (h : s.Settled t) {c : Nat} {st : Step} (e : s.step? c = some st) :
    ∃ st', t.step? c = some st' ∧ st'.unframed = st.unframed := by
  have := h.2 c
  unfold Ctx.unframed at this
  have k := congrArg Ctx.step this
  simp only at k
  unfold State.step? at e ⊢
  rw [e] at k
  cases ht : (t.ctx c).step with
  | none => rw [ht] at k; cases k
  | some st' => rw [ht] at k; exact ⟨st', rfl, Option.some.inj k⟩

theorem State.step_modStep (s : State) {c : Nat} (f : Step → Step) {st : Step} (e : s.step? c = some st) :
    (s.modStep c f).step? c = some (f st) := by
  unfold State.step? State.modStep at *
  rw [State.ctx_modCtx_self]
  simp [e]

theorem State.sendCancel_step (s : State) (c e sc why fin : Nat) : (s.sendCancel c e sc why fin).step? c = s.step? c := by
  unfold State.step?
  rw [(State.sendCancel_ctx s c e sc why fin).2]

/-- A cancel that does not wait (R393): the step is cancelled, its atoms are closed, and the cancel word waits for its
answer. -/
theorem State.cancelNow_step (s : State) (c : Nat) (st : Step) (h : s.step? c = some st) :
    (s.cancelNow c st).core.cancels = s.core.cancels ++ [⟨s.core.nextCancel, c, 0, s.el⟩] ∧
      ∃ st', (s.cancelNow c st).step? c = some st' ∧
        st'.unframed = { st with cancelled := true, openAtoms := [] }.unframed := by
  unfold State.cancelNow
  extract_lets s4 s5
  have h4 : s4.step? c = some { st with cancelled := true, openAtoms := [] } ∧ s4.core = s.core ∧ s4.el = s.el := by
    refine ⟨?_, State.cancelMark_core s c st⟩
    have e : (s.ctx c).step = some st := h
    show ((s.cancelMark c st).ctx c).step = _
    unfold State.cancelMark State.modStep
    rw [State.ctx_modCtx_self, State.ctx_modCtx_self]
    by_cases h : st.outCopies = []
    · simp only [h, if_true]
      show ((s.ctx c).step.map _) = _
      rw [e]; rfl
    · simp only [h, if_false]
      show ((s.ctx c).step.map _) = _
      rw [e]; rfl
  have h5 : s4.Settled s5 := by
    show s4.Settled (if _ then _ else _)
    split
    · exact State.dropFrame_settled s4 c
    · exact settled_refl s4
  have h5c : s5.core = s.core ∧ s5.el = s.el := by
    have := settled_fields h5
    refine ⟨this.2.2.2.2.2.2.2.2.2.2.1.trans h4.2.1, ?_⟩
    rw [← h4.2.2]
    unfold State.el
    rw [this.2.2.2.1]
  obtain ⟨st', hs, hu⟩ := settled_step h5 h4.1
  have e1 : (s5.sendCancel c st.epoch 0 0 0).core.cancels = s.core.cancels ++ [⟨s.core.nextCancel, c, 0, s.el⟩] := by
    rw [State.sendCancel_cancels, h5c.1, h5c.2]
  have e2 : (s5.sendCancel c st.epoch 0 0 0).cancelCheck c = s5.sendCancel c st.epoch 0 0 0 := by
    unfold State.cancelCheck
    rw [State.sendCancel_step, hs]
    simp only
    rw [if_neg]
    rw [e1]
    simp
  rw [e2]
  exact ⟨e1, st', by rw [State.sendCancel_step, hs], hu⟩

end Sys2Proof.Machine
end

