-- ==== Sys2Proof/Laws/Kept.lean ====
section
/-! SUPPORT. What a fault, a cancel or a teardown leaves as it was: the queue, time, the control port, the guy lines,
membership, the Fence protocol, the table sets (`State.kept`), and every context but its own. -/

namespace Sys2Proof.Machine

/-- State that no fault, cancel or teardown of a context touches. -/
def State.kept (s : State) : List Instr × Clk × Ctl × Guys × Memb × Fnc × Stn :=
  (s.pending, s.clk, s.ctl, s.guys, s.memb, s.fnc, s.stn)

theorem kept_of_still {s t : State} (h : t.still = s.still) : t.kept = s.kept := by
  have e := congrArg State.kept h
  exact e

theorem kept_of_settled {s t : State} (h : s.Settled t) : t.kept = s.kept := by
  have e := congrArg State.kept h.1
  exact e

theorem kept_of_sends {s t : State} (h : s.Sends t) : t.kept = s.kept := by
  unfold State.Sends at h
  generalize t.links = l at h
  generalize t.xch = x at h
  subst h
  rfl

theorem kept_of_charged {s t : State} {c : Nat} (h : s.Charged t c) : t.kept = s.kept := by
  have h := h.1
  generalize t.pitches = l at h
  generalize t.ctxs = x at h
  subst h
  rfl

theorem kept_core (s : State) (x : CoreSt) : ({ s with core := x } : State).kept = s.kept := rfl

theorem kept_foldl {α : Type} (f : State → α → State) (l : List α) (s : State) (h : ∀ (s : State) x, (f s x).kept = s.kept) :
    (l.foldl f s).kept = s.kept := by
  induction l generalizing s with
  | nil => rfl
  | cons x r ih => exact (ih _).trans (h s x)

namespace State

variable (s : State)

@[simp] theorem modCtx_kept (c : Nat) (f : Ctx → Ctx) : (s.modCtx c f).kept = s.kept := rfl
@[simp] theorem modStep_kept (c : Nat) (f : Step → Step) : (s.modStep c f).kept = s.kept := rfl
@[simp] theorem count_kept (a n : Nat) : (s.count a n).kept = s.kept := rfl
@[simp] theorem wr_kept (a n : Nat) : (s.wr a n).kept = s.kept := rfl
@[simp] theorem notice_kept (i : Nat) : (s.notice i).kept = s.kept := rfl
@[simp] theorem event_kept (k c a b : Nat) : (s.event k c a b).kept = s.kept := kept_of_still (s.event_still k c a b)

@[simp] theorem coreSend_kept (a : Nat) (bs : Bytes) : (s.coreSend a bs).kept = s.kept := by
  unfold coreSend
  split <;> rfl

@[simp] theorem sendPacket_kept (a c : Nat) (bs : Bytes) (b : Bool) : (s.sendPacket a c bs b).kept = s.kept :=
  (kept_of_charged (State.sendPacket_charged s a c bs b).1).trans (coreSend_kept s a bs)

@[simp] theorem sendCancel_kept (c e sc why fin : Nat) : (s.sendCancel c e sc why fin).kept = s.kept := by
  unfold sendCancel
  simp only
  rw [kept_core, sendPacket_kept]

@[simp] theorem postQuery_kept (c k : Nat) (q : Query) : (s.postQuery c k q).kept = s.kept := rfl

@[simp] theorem cancelCheck_kept (c : Nat) : (s.cancelCheck c).kept = s.kept := by
  unfold cancelCheck
  split
  · rfl
  · simp only
    split
    · rw [postQuery_kept, modStep_kept]
    · rfl

@[simp] theorem downCheck_kept (c : Nat) : (s.downCheck c).kept = s.kept := by
  unfold downCheck
  split <;> rfl

@[simp] theorem frames_kept (n : Nat) : (s.frames n).kept = s.kept := kept_of_settled (s.frames_settled n)
@[simp] theorem dropImages_kept (c : Nat) : (s.dropImages c).kept = s.kept := kept_of_settled (s.dropImages_settled c)
@[simp] theorem dropFrame_kept (c : Nat) : (s.dropFrame c).kept = s.kept := kept_of_settled (s.dropFrame_settled c)
@[simp] theorem unhold_kept (c : Nat) : (s.unhold c).kept = s.kept := kept_of_settled (s.unhold_settled c)

@[simp] theorem countSat_kept (a lo w n : Nat) : (s.countSat a lo w n).kept = s.kept := rfl

theorem cancelMark_kept (c : Nat) (st : Step) : (s.cancelMark c st).kept = s.kept := by
  unfold cancelMark
  by_cases h : st.outCopies = []
  · simp only [h, if_true]; rfl
  · simp only [h, if_false]; rfl

@[simp] theorem cancelNow_kept (c : Nat) (st : Step) : (s.cancelNow c st).kept = s.kept := by
  unfold cancelNow
  simp only [cancelCheck_kept, sendCancel_kept]
  split
  · rw [dropFrame_kept, cancelMark_kept]
  · exact cancelMark_kept s c st

@[simp] theorem holdCancel_kept (c : Nat) (b : Bool) : (s.holdCancel c b).kept = s.kept := by
  unfold holdCancel
  simp only [modCtx_kept]
  split <;> rfl

@[simp] theorem cancelStep_kept (c : Nat) : (s.cancelStep c).kept = s.kept := by
  unfold cancelStep
  repeat' split
  all_goals first | rfl | exact cancelNow_kept _ _ _ | exact holdCancel_kept _ _ _

@[simp] theorem heldCheck_kept (c : Nat) : (s.heldCheck c).kept = s.kept := by
  unfold heldCheck
  split
  · exact cancelStep_kept s c
  · rfl

@[simp] theorem heldAll_kept : s.heldAll.kept = s.kept := kept_foldl _ _ _ fun s c => heldCheck_kept s c

@[simp] theorem clearOwn_kept (c : Nat) : (s.clearOwn c).kept = s.kept := rfl

@[simp] theorem release_kept (c : Nat) : (s.release c).kept = s.kept := by
  unfold release
  simp only [heldAll_kept, frames_kept, unhold_kept, dropImages_kept, clearOwn_kept]

@[simp] theorem tearDown_kept (c why : Nat) : (s.tearDown c why).kept = s.kept := by
  unfold tearDown
  simp only [downCheck_kept, release_kept, sendCancel_kept, modCtx_kept]
  split
  · rfl
  · exact kept_of_sends (s.abortAll_sends _ _ _)

@[simp] theorem ctxFault_kept (c code : Nat) : (s.ctxFault c code).kept = s.kept := by
  unfold ctxFault
  split
  · rfl
  · split <;> simp

@[simp] theorem memFault_kept (c code ch : Nat) : (s.memFault c code ch).kept = s.kept := by
  unfold memFault
  split <;> simp

end State

/-- A context is touched by no cancel but its own. -/
theorem State.cancelStep_others (s : State) (c d : Nat) (h : d ≠ c) : ((s.cancelStep c).ctx d).unframed = (s.ctx d).unframed := by
  have hold (b : Bool) : (s.holdCancel c b).ctx d = s.ctx d := by
    unfold State.holdCancel
    simp only
    rw [State.ctx_modCtx_ne _ _ h]
    split <;> rfl
  unfold State.cancelStep
  split
  · rfl
  · rename_i st _
    split
    · rfl
    · split
      · rw [hold]
      · split
        · rw [hold]
        · have h1 : (s.cancelMark c st).ctx d = s.ctx d := by
            unfold State.cancelMark State.modStep
            simp only
            rw [State.ctx_modCtx_ne _ _ h, State.ctx_modCtx_ne _ _ h]
            show State.ctx (if _ then _ else _ : State) d = _
            split <;> rfl
          have h2 : ∀ u : State, (u.cancelCheck c).ctx d = u.ctx d := fun u => by
            unfold State.cancelCheck
            split
            · rfl
            · split
              · unfold State.postQuery State.modStep
                simp only
                rw [show ∀ (v : State) r, (v.memPost r).ctx d = v.ctx d from fun _ _ => rfl, State.ctx_modCtx_ne _ _ h,
                  State.ctx_modCtx_ne _ _ h, State.ctx_modCtx_ne _ _ h]
              · rfl
          unfold State.cancelNow
          simp only
          rw [h2, (State.sendCancel_ctx _ c _ _ _ _).1 d h]
          split
          · rw [(State.dropFrame_settled _ c).2 d, h1]
          · rw [h1]

/-- Held cancels that go on touch no context whose cancel is not held. -/
theorem State.heldAll_others (s : State) (d : Nat) (h : (s.ctx d).heldCancel = false) :
    (s.heldAll.ctx d).unframed = (s.ctx d).unframed := by
  unfold State.heldAll
  generalize tkeys _ _ = l
  induction l generalizing s with
  | nil => rfl
  | cons c r ih =>
    have k : ((s.heldCheck c).ctx d).unframed = (s.ctx d).unframed := by
      unfold State.heldCheck
      split
      · rename_i hc
        refine State.cancelStep_others s c d fun e => ?_
        subst e
        rw [h] at hc
        cases hc
      · rfl
    have e := congrArg Ctx.heldCancel k
    exact (ih _ (e.trans h)).trans k

/-- Another context is not touched by a release, unless its cancel waited for the drain table's room. -/
theorem State.release_others (s : State) (c d : Nat) (h : d ≠ c) (hd : (s.ctx d).heldCancel = false) :
    ((s.release c).ctx d).unframed = (s.ctx d).unframed := by
  have h1 : (s.clearOwn c).ctx d = s.ctx d := by
    unfold State.clearOwn
    rw [State.ctx_modCtx_ne _ _ h]
    rfl
  have h2 := (State.Settled.trans (State.dropImages_settled (s.clearOwn c) c) (State.Settled.trans (State.unhold_settled _ c)
    (State.frames_settled _ (s.ctx c).tent))).2 d
  rw [h1] at h2
  unfold State.release
  generalize (((s.clearOwn c).dropImages c).unhold c).frames (s.ctx c).tent = w at h2 ⊢
  have e : (w.ctx d).heldCancel = (s.ctx d).heldCancel := by
    have e := congrArg Ctx.heldCancel h2
    exact e
  exact (State.heldAll_others w d (e.trans hd)).trans h2

theorem State.downCheck_others (s : State) (c d : Nat) (h : d ≠ c) : (s.downCheck c).ctx d = s.ctx d := by
  unfold State.downCheck
  split
  · exact State.ctx_modCtx_ne _ _ h
  · rfl

theorem State.tearDown_others (s : State) (c why d : Nat) (h : d ≠ c) (hd : (s.ctx d).heldCancel = false) :
    ((s.tearDown c why).ctx d).unframed = (s.ctx d).unframed := by
  have key : ∀ v : State, v.ctx d = s.ctx d →
      (((((v.modCtx c (fun x => { x with tdown := true, downWait := true, torn := true })).sendCancel c 0 1 why 1).release c).downCheck
        c).ctx d).unframed = (s.ctx d).unframed := by
    intro v hv
    have e : ((v.modCtx c (fun x => { x with tdown := true, downWait := true, torn := true })).sendCancel c 0 1 why 1).ctx d = s.ctx d := by
      rw [(State.sendCancel_ctx _ c 0 1 why 1).1 d h, State.ctx_modCtx_ne _ _ h, hv]
    rw [State.downCheck_others _ _ _ h, State.release_others _ _ _ h (by rw [e]; exact hd), e]
  unfold State.tearDown
  split
  · exact key s rfl
  · rename_i st _
    have := sends_fields (s.abortAll_sends c st 7)
    exact key _ (State.ctx_of_ctxs this.2.2.2.2.2.2.2.2.2.2.2.2.2.2.1 d)

/-- A fault of an active job context (R396, R397): its code stands in the page, and the context is torn down. -/
theorem State.ctxFault_ctx (s : State) (c code : Nat) (h0 : c ≠ 0) (ha : (s.ctx c).active = true) :
    ((s.ctxFault c code).ctx c).fault = code ∧ ((s.ctxFault c code).ctx c).tdown = true ∧
      ((s.ctxFault c code).ctx c).enable = true ∧ ((s.ctxFault c code).ctx c).step = none ∧
      ((s.ctxFault c code).ctx c).key = 0#64 ∧ ((s.ctxFault c code).ctx c).counters = [] ∧
      s.core.cancels ++ [⟨s.core.nextCancel, c, 1, s.el⟩] <+: (s.ctxFault c code).core.cancels := by
  unfold State.ctxFault
  rw [if_neg h0, if_pos ha]
  simp only
  obtain ⟨u, hu⟩ : ∃ u : State, u = (((s.count 0xA0008 1).modCtx c (fun x => { x with fault := code })).event 0x30 c code 0).notice 1 :=
    ⟨_, rfl⟩
  have hc : u.ctx c = { s.ctx c with fault := code } := by
    rw [hu]
    have : ∀ v : State, (v.notice 1).ctx c = v.ctx c := fun _ => rfl
    rw [this, State.ctx_of_ctxs (State.event_ctxs _ _ _ _ _), State.ctx_modCtx_self]
    rfl
  have hk : u.core = s.core := by
    rw [hu]
    show (State.event _ _ _ _ _).core = _
    rw [State.event_core]
    rfl
  have hl : u.el = s.el := by
    rw [hu]
    show (State.event _ _ _ _ _).clk.el = _
    rw [State.event_clk]
    rfl
  rw [← hu]
  obtain ⟨h1, h2⟩ := State.tearDown_ctx u c 1
  have he : (s.ctx c).enable = true := by unfold Ctx.active at ha; revert ha; cases (s.ctx c).enable <;> simp
  rw [hk, hl] at h1
  rw [h2, hc]
  exact ⟨rfl, rfl, he, rfl, rfl, rfl, h1⟩

theorem State.ctxFault_others (s : State) (c code d : Nat) (h : d ≠ c) (hd : (s.ctx d).heldCancel = false) :
    ((s.ctxFault c code).ctx d).unframed = (s.ctx d).unframed := by
  unfold State.ctxFault
  split
  · rfl
  · split
    · simp only
      have e : ((((s.count 0xA0008 1).modCtx c (fun x => { x with fault := code })).event 0x30 c code 0).notice 1).ctx d = s.ctx d := by
        have : ∀ v : State, (v.notice 1).ctx d = v.ctx d := fun _ => rfl
        rw [this, State.ctx_of_ctxs (State.event_ctxs _ _ _ _ _), State.ctx_modCtx_ne _ _ h]
        rfl
      rw [State.tearDown_others _ _ _ _ h (by rw [e]; exact hd), e]
    · rfl

/-- An inactive context's fault is only counted (R396). -/
theorem State.ctxFault_inactive (s : State) (c code : Nat) (h0 : c ≠ 0) (ha : (s.ctx c).active = false) :
    s.ctxFault c code = s.count 0xA0008 1 := by
  unfold State.ctxFault
  rw [if_neg h0, if_neg (by rw [ha]; exact Bool.false_ne_true)]

end Sys2Proof.Machine
end

