-- ==== Sys2Proof/Laws/Shape.lean ====
section
/-! SUPPORT. The shape of the state (`State.Ok`): how a proof that an operation keeps it goes. -/

namespace Sys2Proof.Machine

/-- Use a fact about an intermediate state. -/
theorem State.cut {s : State} {p : Prop} (h : s.Ok) (k : s.Ok → p) : p := k h

/-- Name a state. -/
theorem State.at {s : State} {p : Prop} (h : p) : p := (fun _ => h) s

/-- A state written out has the shape when its parts have. -/
theorem ok_mk (a0 a1 a2 a3 a4 a5 a6 a7 a8 a9 b0 b1 b2 b3 b4 b5 b6 b7 b8 b9 c0 c1 c2 c3 c4 c5) :
    (State.mk a0 a1 a2 a3 a4 a5 a6 a7 a8 a9 b0 b1 b2 b3 b4 b5 b6 b7 b8 b9 c0 c1 c2 c3 c4 c5).Ok ↔
      (regsWf 0 a1 = true ∧ twf Ctx.reset 0 b6 = true ∧ a7.length = 4 ∧ a8.chs.length = 16 ∧ a9.pts.length = 32 ∧
        b0.ports.length = 72) :=
  ⟨fun h => ⟨h.1, h.2, h.3, h.4, h.5, h.6⟩, fun ⟨a, b, c, d, e, f⟩ => ⟨a, b, c, d, e, f⟩⟩

theorem ok_regs {s : State} (h : s.Ok) : regsWf 0 s.regs = true := h.1
theorem ok_ctxs {s : State} (h : s.Ok) : twf Ctx.reset 0 s.ctxs = true := h.2
theorem ok_pitches {s : State} (h : s.Ok) : s.pitches.length = 4 := h.3
theorem ok_chs {s : State} (h : s.Ok) : s.mem.chs.length = 16 := h.4
theorem ok_pts {s : State} (h : s.Ok) : s.core.pts.length = 32 := h.5
theorem ok_ports {s : State} (h : s.Ok) : s.links.ports.length = 72 := h.6

theorem ok_ite {c : Prop} [Decidable c] {a b : State} (ha : a.Ok) (hb : b.Ok) : (if c then a else b).Ok := by
  split <;> assumption

theorem ok_foldl {α : Type} (f : State → α → State) (l : List α) (s : State) (h : s.Ok)
    (hf : ∀ s a, s.Ok → (f s a).Ok) : (l.foldl f s).Ok := by
  induction l generalizing s with
  | nil => exact h
  | cons a r ih => exact ih _ (hf s a h)

/-- The state of a pair has the shape. -/
def OkFst {β : Type} (x : State × β) : Prop := x.1.Ok

theorem ok_foldl_fst {α β : Type} (f : State × β → α → State × β) (l : List α) (x : State × β) (h : OkFst x)
    (hf : ∀ x a, OkFst x → OkFst (f x a)) : (l.foldl f x).1.Ok := by
  suffices H : OkFst (l.foldl f x) from H
  induction l generalizing x with
  | nil => exact h
  | cons a r ih => exact ih _ (hf x a h)

theorem State.reset_ok : State.reset.Ok := by constructor <;> decide

end Sys2Proof.Machine
end

