-- ==== Sys2Proof/Laws/ShapeFlags.lean ====
section
/-! SUPPORT. Every operation of Machine/Flags.lean keeps the shape of the state (`State.Ok`). -/

set_option linter.unusedSimpArgs false

namespace Sys2Proof.Machine

theorem State.wr_ok (s : State) (a v : Nat) (ok : s.Ok) : (State.wr s a v).Ok :=
  ⟨regsWf_tput _ _ _ (Nat.mod_lt _ (by decide)) ok.1, ok.2, ok.3, ok.4, ok.5, ok.6⟩

theorem State.wrF_ok (s : State) (a lo w x : Nat) (hOk : s.Ok) : (State.wrF s a lo w x).Ok := by
  unfold State.wrF
  simp only [State.wr_ok, *]

theorem State.wr2_ok (s : State) (a v : Nat) (hOk : s.Ok) : (State.wr2 s a v).Ok := by
  unfold State.wr2
  simp only [State.wr_ok, *]

theorem State.count_ok (s : State) (a n : Nat) (hOk : s.Ok) : (State.count s a n).Ok := by
  unfold State.count
  simp only [State.wr_ok, *]

theorem State.countSat_ok (s : State) (a lo w n : Nat) (hOk : s.Ok) : (State.countSat s a lo w n).Ok := by
  unfold State.countSat
  simp only [State.wrF_ok, *]

theorem State.setBit_ok (s : State) (a i : Nat) (hOk : s.Ok) : (State.setBit s a i).Ok := by
  unfold State.setBit
  simp only [State.wrF_ok, *]

theorem State.notice_ok (s : State) (i : Nat) (hOk : s.Ok) : (State.notice s i).Ok := by
  unfold State.notice
  simp only [State.setBit_ok, *]

theorem State.lntLost_ok (s : State) (l n : Nat) (hOk : s.Ok) : (State.lntLost s l n).Ok := by
  unfold State.lntLost
  simp only [State.countSat_ok, *]

theorem State.lntCross_ok (s : State) (hOk : s.Ok) : (State.lntCross s).Ok := by
  unfold State.lntCross
  repeat' first
    | (simp only [State.notice_ok, State.setBit_ok, *]; done)
    | (with_reducible refine State.count_ok _ _ _ ?_ )

end Sys2Proof.Machine
end

