-- ==== Sys2Proof/Laws/Wait.lean ====
section
/-! SUPPORT. Events and the record log add memory requests at the end of those that wait, and take none away. -/

namespace Sys2Proof.Machine.State

/-- The requests that wait in `s` still wait in `t`, in their order, ahead of any new one. -/
def Waits (s t : State) : Prop := s.mem.wait <+: t.mem.wait

theorem waits_refl (s : State) : s.Waits s := List.prefix_refl _

theorem Waits.trans {s t u : State} (h : s.Waits t) (k : t.Waits u) : s.Waits u := List.IsPrefix.trans h k

theorem waits_of {s u t : State} (k : u.Waits t) (h : u.mem = s.mem) : s.Waits t := by unfold Waits at *; rw [← h]; exact k

variable (s : State)

theorem memPost_waits (r : MemReq) : s.Waits (s.memPost r) := List.prefix_append _ _
theorem memWrite_waits (c k a : Nat) (bs : Bytes) (w : MemWhy) : s.Waits (s.memWrite c k a bs w) := by
  unfold Waits; rw [memWrite_mem]; exact List.prefix_append _ _
theorem memWriteWords_waits (c k a : Nat) (bs : Bytes) (w : MemWhy) : s.Waits (s.memWriteWords c k a bs w) := List.prefix_append _ _
theorem wr_waits (a v : Nat) : s.Waits (s.wr a v) := waits_refl s

theorem lntSpill_waits : s.Waits s.lntSpill := by
  unfold lntSpill
  split
  · exact waits_refl s
  · split
    · exact waits_refl s
    · exact memWriteWords_waits (s.modEnts _) _ _ _ _ _

theorem lntRefill_waits (l n : Nat) : s.Waits (lntRefill l n s) := by
  induction n generalizing s with
  | zero => exact waits_refl s
  | succ n ih =>
    unfold lntRefill
    repeat' split
    · exact waits_refl s
    · exact waits_refl s
    · exact ih (s.lntMove _ _)
    · exact Waits.trans (memPost_waits (s.lntMove _ _) _) (ih _)
    · exact waits_refl s

theorem lntRefillAll_waits : s.Waits s.lntRefillAll := by
  unfold lntRefillAll
  split
  · exact (((lntRefill_waits s _ _).trans (lntRefill_waits _ _ _)).trans (lntRefill_waits _ _ _)).trans (lntRefill_waits _ _ _)
  · exact waits_refl s

theorem lntAdd_waits (l : Nat) (ws : List Nat) : s.Waits (s.lntAdd l ws) := by
  unfold lntAdd
  simp only
  split
  · refine Waits.trans (Waits.trans ?_ (lntSpill_waits _)) (lntRefillAll_waits _)
    exact waits_of (lntRefillAll_waits _) rfl
  · exact waits_refl s

theorem lntEnter_waits (l : Nat) (ws : List Nat) : s.Waits (s.lntEnter l ws) := by
  unfold lntEnter
  simp only
  repeat' split
  · exact waits_refl s
  · exact lntAdd_waits ((s.modEnts _).lntLost _ _) _ _
  · exact lntAdd_waits s _ _
  · exact lntAdd_waits s _ _

theorem eventAt_waits (p k c a b : Nat) : s.Waits (s.eventAt p k c a b) := lntEnter_waits s _ _
theorem event_waits (k c a b : Nat) : s.Waits (s.event k c a b) := lntEnter_waits s _ _

theorem memWriteAny_waits (c k : Nat) (w : MemWhy) (n a : Nat) (bs : Bytes) : s.Waits (memWriteAny c k w n a bs s) := by
  induction n generalizing s a bs with
  | zero => exact waits_refl s
  | succ n ih =>
    unfold memWriteAny
    split
    · exact waits_refl s
    · exact Waits.trans (memWriteWords_waits s _ _ _ _ _) (ih _ _ _)

theorem recPut_waits (k src c e t x : Nat) (p : Bytes) (d : Bool) : s.Waits (s.recPut k src c e t x p d) := by
  unfold recPut
  extract_lets
  split
  · exact waits_refl s
  · split
    · exact waits_refl s
    · split
      · exact waits_of (event_waits _ _ _ _ _) rfl
      · exact waits_of (memWriteAny_waits _ _ _ _ _ _ _) rfl

theorem record_waits (k src : Nat) (c : Option Nat) (e t x : Nat) (p : Bytes) (d : Bool) : s.Waits (s.record k src c e t x p d) := by
  unfold record
  simp only
  split
  · exact recPut_waits _ _ _ _ _ _ _ _ _
  · exact waits_refl s

theorem recWrite_waits (a v : Nat) : s.Waits (s.recWrite a v) := record_waits _ _ _ _ _ _ _ _ _

/-- A request that waits goes on waiting. -/
theorem waits_mem {s t : State} (h : s.Waits t) {r : MemReq} (m : r ∈ s.mem.wait) : r ∈ t.mem.wait := h.subset m

end Sys2Proof.Machine.State
end

