-- ==== Sys2Proof/Laws/Regs.lean ====
section
/-! SUPPORT. Bits and fields of registers, the indexed units (channels, points, ports, pitches), the write that a
command with a register of its own ends with, and detections: what each does, said once. -/

namespace Sys2Proof.Machine

theorem bit_testBit (v i : Nat) : bit v i = v.testBit i := by simp [bit, Nat.testBit_eq_decide_div_mod_eq]

theorem bits_testBit (v lo w i : Nat) : (bits v lo w).testBit i = (decide (i < w) && v.testBit (lo + i)) := by
  simp [bits, Nat.testBit_mod_two_pow, Nat.testBit_div_two_pow, Nat.add_comm]

theorem bits_eq (v lo w : Nat) : bits v lo w = (v >>> lo) % 2 ^ w := by simp [bits, Nat.shiftRight_eq_div_pow]

theorem setField_split (v lo w x : Nat) : setField v lo w x = v % 2 ^ lo + x % 2 ^ w * 2 ^ lo + v / 2 ^ (lo + w) * 2 ^ (lo + w) := by
  have hle : bits v lo w * 2 ^ lo ≤ v := by
    have := Nat.div_mul_le_self v (2 ^ lo)
    have := Nat.mod_le (v / 2 ^ lo) (2 ^ w)
    unfold bits
    calc v / 2 ^ lo % 2 ^ w * 2 ^ lo ≤ v / 2 ^ lo * 2 ^ lo := Nat.mul_le_mul_right _ this
      _ ≤ v := by assumption
  have h : v = v % 2 ^ lo + bits v lo w * 2 ^ lo + v / 2 ^ (lo + w) * 2 ^ (lo + w) := by
    have h1 := Nat.div_add_mod v (2 ^ lo)
    have h2 := Nat.div_add_mod (v / 2 ^ lo) (2 ^ w)
    have h3 : v / 2 ^ lo / 2 ^ w = v / 2 ^ (lo + w) := by rw [Nat.div_div_eq_div_mul, ← pow_add]
    unfold bits
    rw [h3] at h2
    have h4 : 2 ^ (lo + w) = 2 ^ lo * 2 ^ w := pow_add 2 lo w
    calc v = 2 ^ lo * (v / 2 ^ lo) + v % 2 ^ lo := h1.symm
      _ = 2 ^ lo * (2 ^ w * (v / 2 ^ (lo + w)) + v / 2 ^ lo % 2 ^ w) + v % 2 ^ lo := by rw [h2]
      _ = _ := by rw [h4]; ring
  unfold setField
  omega

theorem setField_testBit (v lo w x i : Nat) :
    (setField v lo w x).testBit i = if lo ≤ i ∧ i < lo + w then x.testBit (i - lo) else v.testBit i := by
  have e : setField v lo w x = 2 ^ (lo + w) * (v / 2 ^ (lo + w)) + (2 ^ lo * (x % 2 ^ w) + v % 2 ^ lo) := by
    rw [setField_split]; ring
  have h1 : v % 2 ^ lo < 2 ^ lo := Nat.mod_lt _ (by positivity)
  have h2 : 2 ^ lo * (x % 2 ^ w) + v % 2 ^ lo < 2 ^ (lo + w) := by
    have : x % 2 ^ w < 2 ^ w := Nat.mod_lt _ (by positivity)
    have : 2 ^ lo * (x % 2 ^ w + 1) ≤ 2 ^ lo * 2 ^ w := Nat.mul_le_mul_left _ this
    rw [pow_add]; rw [Nat.mul_add] at this; omega
  rw [e, Nat.testBit_two_pow_mul_add _ h2, Nat.testBit_two_pow_mul_add _ h1]
  by_cases a : i < lo + w
  · by_cases b : i < lo
    · have : ¬ lo ≤ i := by omega
      simp [a, b, this, Nat.testBit_mod_two_pow]
    · have c : lo ≤ i := by omega
      have : i - lo < w := by omega
      simp [a, b, c, this, Nat.testBit_mod_two_pow]
  · have : ¬ (lo ≤ i ∧ i < lo + w) := by omega
    rw [if_neg a, if_neg this, Nat.testBit_div_two_pow, Nat.sub_add_cancel (by omega)]

theorem bits_setField_self (v lo w x : Nat) : bits (setField v lo w x) lo w = x % 2 ^ w := by
  apply Nat.eq_of_testBit_eq
  intro i
  rw [bits_testBit, setField_testBit, Nat.testBit_mod_two_pow]
  by_cases h : i < w
  · simp [h]
  · simp [h]

theorem bits_mod_word (v lo w : Nat) (h : lo + w ≤ 32) : bits (v % 2 ^ 32) lo w = bits v lo w := by
  apply Nat.eq_of_testBit_eq
  intro i
  rw [bits_testBit, bits_testBit, Nat.testBit_mod_two_pow]
  by_cases a : i < w
  · have : lo + i < 32 := by omega
    simp [a, this]
  · simp [a]

theorem bits_lt (v lo w : Nat) : bits v lo w < 2 ^ w := Nat.mod_lt _ (by positivity)

theorem ones_testBit (i : Nat) : ones.testBit i = decide (i < 32) := by
  have : ones = 2 ^ 32 - 1 := rfl
  rw [this, Nat.testBit_two_pow_sub_one]

theorem regRow_lt {a : Nat} {r : RegRow} (h : regRow a = some r) :
    r.rw < 2 ^ 32 ∧ r.w1c < 2 ^ 32 ∧ r.rc < 2 ^ 32 ∧ r.lk < 2 ^ 32 ∧ r.rst < 2 ^ 32 := by
  have h1 : ∀ r ∈ regRows, r.rw < 2 ^ 32 ∧ r.w1c < 2 ^ 32 ∧ r.rc < 2 ^ 32 ∧ r.lk < 2 ^ 32 ∧ r.rst < 2 ^ 32 := by decide +kernel
  have h2 : ∀ r ∈ pageRows, r.rw < 2 ^ 32 ∧ r.w1c < 2 ^ 32 ∧ r.rc < 2 ^ 32 ∧ r.lk < 2 ^ 32 ∧ r.rst < 2 ^ 32 := by decide +kernel
  unfold regRow at h
  split at h
  · exact h1 r (List.mem_of_find?_eq_some h)
  · exact h2 r (List.mem_of_find?_eq_some h)

theorem isLatchLow_high {a : Nat} (h : isLatchLow a = true) : isLatchLow (a + 4) = false ∧ a + 4 ≠ 0xB0004 := by
  have e : pageBase = 0x1000000 := rfl
  simp [isLatchLow, e] at h ⊢
  omega

theorem tget_none {α : Type} (d : α) (t : Table α) (k : Nat) (h : ∀ e ∈ t, e.1 ≠ k) : tget d t k = d := by
  induction t with
  | nil => rfl
  | cons x r ih =>
    obtain ⟨k', v⟩ := x
    have := h (k', v) (by simp)
    rw [tget, if_neg (fun e => this e.symm)]
    exact ih (fun e he => h e (by simp [he]))

theorem lset_getD_ne {α : Type} (i : Nat) (v d : α) (l : List α) (j : Nat) (h : j ≠ i) : (lset i v l).getD j d = l.getD j d := by
  induction l generalizing i j with
  | nil => cases i <;> rfl
  | cons x r ih =>
    cases i with
    | zero => cases j with
      | zero => exact absurd rfl h
      | succ m => simp [lset]
    | succ n => cases j with
      | zero => simp [lset]
      | succ m => simpa [lset] using ih n m (by omega)

namespace State

variable (s : State)

theorem ch_modCh_ne {i j : Nat} (f : MemCh → MemCh) (h : j ≠ i) : (s.modCh i f).ch j = s.ch j := lset_getD_ne _ _ _ _ _ h
theorem ch_modCh_self {i : Nat} (f : MemCh → MemCh) (h : i < s.mem.chs.length) : (s.modCh i f).ch i = f (s.ch i) := by
  unfold modCh ch; simp only; rw [lset_getD _ _ _ _ _ h, if_pos rfl]
theorem pt_modPt_ne {i j : Nat} (f : CorePt → CorePt) (h : j ≠ i) : (s.modPt i f).pt j = s.pt j := lset_getD_ne _ _ _ _ _ h
theorem pt_modPt_self {i : Nat} (f : CorePt → CorePt) (h : i < s.core.pts.length) : (s.modPt i f).pt i = f (s.pt i) := by
  unfold modPt pt; simp only; rw [lset_getD _ _ _ _ _ h, if_pos rfl]
theorem port_modPort_ne {i j : Nat} (f : Port → Port) (h : j ≠ i) : (s.modPort i f).port j = s.port j := lset_getD_ne _ _ _ _ _ h
theorem port_modPort_self {i : Nat} (f : Port → Port) (h : i < s.links.ports.length) : (s.modPort i f).port i = f (s.port i) := by
  unfold modPort port; simp only; rw [lset_getD _ _ _ _ _ h, if_pos rfl]
theorem pitch_modPitch_ne {i j : Nat} (f : Pitch → Pitch) (h : j ≠ i) : (s.modPitch i f).pitch j = s.pitch j := lset_getD_ne _ _ _ _ _ h
theorem pitch_modPitch_self {i : Nat} (f : Pitch → Pitch) (h : i < s.pitches.length) : (s.modPitch i f).pitch i = f (s.pitch i) := by
  unfold modPitch pitch; simp only; rw [lset_getD _ _ _ _ _ h, if_pos rfl]

theorem guy_modGuy_self (k : Nat) (f : GuyLine → GuyLine) : (s.modGuy k f).guy k = f (s.guy k) := by
  unfold modGuy guy; simp
theorem guy_modGuy_ne {k j : Nat} (f : GuyLine → GuyLine) (h : j ≠ k) : (s.modGuy k f).guy j = s.guy j := by
  unfold modGuy guy; exact tget_tput_ne _ _ _ _ _ _ h

theorem rd_setBit (a i x : Nat) : (s.setBit a i).rd x = if x = a then setField (s.rd a) i 1 1 % 2 ^ 32 else s.rd x := rd_wr s _ _ _

theorem bit_setBit (a i j : Nat) (h : j < 32) : bit ((s.setBit a i).rd a) j = (bit (s.rd a) j || decide (j = i)) := by
  rw [rd_setBit, if_pos rfl, bit_testBit, bit_testBit, Nat.testBit_mod_two_pow, setField_testBit]
  by_cases e : j = i
  · subst e; simp [h]
  · have : ¬ (i ≤ j ∧ j < i + 1) := by omega
    rw [if_neg this]; simp [e, h]

theorem bit_setBit_self (a i : Nat) (h : i < 32) : bit ((s.setBit a i).rd a) i = true := by rw [bit_setBit s a i i h]; simp

theorem bit_setBit_mono (a i x j : Nat) (h : bit (s.rd x) j = true) (hj : j < 32) : bit ((s.setBit a i).rd x) j = true := by
  by_cases e : x = a
  · subst e; rw [bit_setBit s x i j hj, h]; rfl
  · rw [rd_setBit_ne s i e]; exact h

theorem rd_countSat (a lo w n x : Nat) : (s.countSat a lo w n).rd x =
    if x = a then setField (s.rd a) lo w (satAdd w (bits (s.rd a) lo w) n) % 2 ^ 32 else s.rd x := rd_wr s _ _ _

theorem bits_countSat (a lo w n : Nat) (h : lo + w ≤ 32) :
    bits ((s.countSat a lo w n).rd a) lo w = min (bits (s.rd a) lo w + n) (2 ^ w - 1) := by
  rw [rd_countSat, if_pos rfl, bits_mod_word _ _ _ h, bits_setField_self, satAdd]
  have : 0 < 2 ^ w := by positivity
  exact Nat.mod_eq_of_lt (by omega)

theorem rd_count (a n x : Nat) : (s.count a n).rd x = if x = a then (s.rd a + n) % 2 ^ 32 else s.rd x := by
  rw [State.count, rd_wr]; split
  · exact Nat.mod_mod _ _
  · rfl

theorem recWrite_off (a v : Nat) (h : bit (s.rd 0xF0000) 2 = false) : s.recWrite a v = s := by
  simp [recWrite, record, recMode, recWanted, recBy, h]

/-- An event keeps a bit of the notice word that is set (R66, R467). -/
theorem event_notice (k c a b i : Nat) (h : bit (s.rd 0x20) i = true) (hi : i < 32) : bit ((s.event k c a b).rd 0x20) i = true := by
  unfold event eventAt lntEnter
  simp only
  split
  · split
    · rw [show ∀ u : State, ∀ l n, (u.lntLost l n).rd 0x20 = u.rd 0x20 from fun u l n => rd_countSat_ne u _ _ _ (by have := Nat.mod_lt (l / 2) (show 0 < 2 by omega); omega)]; exact h
    · rw [rd_lntAdd, show ∀ u : State, ∀ l n, (u.lntLost l n).rd 0x20 = u.rd 0x20 from fun u l n => rd_countSat_ne u _ _ _ (by have := Nat.mod_lt (l / 2) (show 0 < 2 by omega); omega)]; exact h
  · split
    · unfold lntCross
      rw [rd_count_ne _ _ (by omega)]
      apply bit_setBit_mono _ _ _ _ _ _ hi
      rw [rd_setBit_ne _ _ (by omega), rd_lntAdd]; exact h
    · rw [rd_lntAdd]; exact h

theorem ctlWrote_still (c a b : Nat) : (s.ctlWrote c a b).still = ({ s with ctl := (s.ctlWrote c a b).ctl } : State).still := by
  have : ∀ u : State, ({ u with ctl := { u.ctl with rdata := 0#32, rpar := 0#4, err := false } } : State).still =
      { u.still with ctl := { u.ctl with rdata := 0#32, rpar := 0#4, err := false } } := fun _ => rfl
  unfold State.ctlWrote
  simp only
  rw [this, State.recWrite_still]; rfl

theorem ctlWrote_rd (c a b : Nat) : s.KeepsRegs (s.ctlWrote c a b) (0xF000C :: lntRegs) := by
  intro x hx
  simp only [List.mem_cons, not_or] at hx
  exact State.rd_recWrite_ne s _ _ (by simpa using hx.2) hx.1

theorem ctlWrote_ctx (c a b d : Nat) : (s.ctlWrote c a b).ctx d = s.ctx d :=
  State.ctx_of_ctxs (State.still_ctxs (t := s.ctlWrote c a b) (s := { s with ctl := (s.ctlWrote c a b).ctl }) (ctlWrote_still s c a b)) d
theorem ctlWrote_core (c a b : Nat) : (s.ctlWrote c a b).core = s.core :=
  State.still_core (t := s.ctlWrote c a b) (s := { s with ctl := (s.ctlWrote c a b).ctl }) (ctlWrote_still s c a b)
theorem ctlWrote_free (c a b : Nat) : (s.ctlWrote c a b).free = s.free :=
  State.still_free (t := s.ctlWrote c a b) (s := { s with ctl := (s.ctlWrote c a b).ctl }) (ctlWrote_still s c a b)

theorem ackWrite_still (u : State) : u.ackWrite.still = { u.still with ctl := u.ackWrite.ctl } := rfl
theorem refuse_still (u : State) : u.refuse.still = { u.still with ctl := u.refuse.ctl } := rfl

/-- The write of a command with a register of its own: recorded and acknowledged (R60, R414). -/
theorem wrote_still (a v : Nat) : ((s.recWrite a v).ackWrite).still = ({ s with ctl := ((s.recWrite a v).ackWrite).ctl } : State).still := by
  rw [ackWrite_still, recWrite_still]; rfl
theorem wrote_keeps (a v : Nat) : s.KeepsRegs ((s.recWrite a v).ackWrite) (0xF000C :: lntRegs) := by
  intro x hx
  simp only [List.mem_cons, not_or] at hx
  rw [rd_ackWrite, rd_recWrite_ne s _ _ (by simpa using hx.2) hx.1]

/-- What a detection leaves (R432, R446): all but the count of detections, advice and its event. -/
theorem detect_still : s.detect.still = ({ s with rsl := s.detect.rsl } : State).still := by
  unfold detect advise
  simp only
  repeat' split
  all_goals first | rfl | (rw [event_still]; simp only [event_rsl]; rfl)

theorem detect_rd {x : Nat} (h : x ∉ lntRegs) : s.detect.rd x = (s.count 0xC0010 1).rd x := by
  unfold detect advise
  simp only
  repeat' split
  all_goals first | rfl | skip
  rw [rd_event_ne _ _ _ _ _ h, rd_notice_ne _ _ (by intro e; subst e; exact h (by decide))]; rfl

theorem detect_waits : s.Waits s.detect := by
  unfold detect advise
  simp only
  repeat' split
  all_goals first | exact waits_refl s | exact waits_of (event_waits _ _ _ _ _) rfl

end State

end Sys2Proof.Machine
end

