-- ==== Sys2Proof/Laws/ShapeOps.lean ====
section
/-! SUPPORT. Every operation of Machine/Ops.lean keeps the shape of the state (`State.Ok`). -/

set_option linter.unusedSimpArgs false

namespace Sys2Proof.Machine

theorem State.modCtx_ok (s : State) (c : Nat) (f : Ctx → Ctx) (ok : s.Ok) : (State.modCtx s c f).Ok :=
  ⟨ok.1, twf_tput _ _ _ _ ok.2, ok.3, ok.4, ok.5, ok.6⟩

theorem State.modStep_ok (s : State) (c : Nat) (f : Step → Step) (hOk : s.Ok) : (State.modStep s c f).Ok := by
  unfold State.modStep
  simp only [State.modCtx_ok, *]

theorem State.modPitch_ok (s : State) (p : Nat) (f : Pitch → Pitch) (hOk : s.Ok) : (State.modPitch s p f).Ok := by
  unfold State.modPitch
  simp only [ok_mk, ok_regs, ok_ctxs, ok_pitches, ok_chs, ok_pts, ok_ports, lset_length, and_self, *]

theorem State.memPost_ok (s : State) (r : MemReq) (hOk : s.Ok) : (State.memPost s r).Ok := by
  unfold State.memPost
  simp only [ok_mk, ok_regs, ok_ctxs, ok_pitches, ok_chs, ok_pts, ok_ports, and_self, *]

theorem State.memWrite_ok (s : State) (ctx : Nat) (cls : Nat) (a : Nat) (bs : Bytes) (why : MemWhy) (hOk : s.Ok) :
    (State.memWrite s ctx cls a bs why).Ok := by
  unfold State.memWrite
  repeat' first
    | (simp only [State.memPost_ok, *]; done)
    | with_reducible assumption
    | (with_reducible refine ok_foldl _ _ _ ?_ ?_)
    | intro _
    | (with_reducible refine State.memPost_ok _ _ ?_)

theorem State.memWriteWords_ok (s : State) (ctx cls a : Nat) (bs : Bytes) (why : MemWhy) (hOk : s.Ok) : (State.memWriteWords s ctx cls a bs why).Ok := by
  unfold State.memWriteWords
  simp only [State.memPost_ok, *]

theorem State.modEnts_ok (s : State) (f : List LEntry → List LEntry) (hOk : s.Ok) : (State.modEnts s f).Ok := by
  unfold State.modEnts
  simp only [ok_mk, ok_regs, ok_ctxs, ok_pitches, ok_chs, ok_pts, ok_ports, and_self, *]

theorem State.lntMove_ok (s : State) (id : Nat) (p : LPlace) (hOk : s.Ok) : (State.lntMove s id p).Ok := by
  unfold State.lntMove
  simp only [State.modEnts_ok, *]

theorem State.lntSpill_ok (s : State) (hOk : s.Ok) : (State.lntSpill s).Ok := by
  unfold State.lntSpill
  repeat' first
    | (simp only [State.memWriteWords_ok, State.modEnts_ok, *]; done)
    | split

theorem State.lntRefill_ok (l n : Nat) (s : State) (ok : s.Ok) : (State.lntRefill l n s).Ok := by
  induction n generalizing s with
  | zero => exact ok
  | succ n ih =>
    unfold State.lntRefill
    repeat' first
      | split
      | with_reducible exact ok
      | (with_reducible refine ih _ ?_)
      | (with_reducible refine State.memPost_ok _ _ ?_)
      | (with_reducible refine State.lntMove_ok _ _ _ ?_)

theorem State.lntRefillAll_ok (s : State) (hOk : s.Ok) : (State.lntRefillAll s).Ok := by
  unfold State.lntRefillAll
  repeat' first
    | with_reducible assumption
    | (with_reducible refine State.lntRefill_ok _ _ _ ?_ )
    | split

theorem State.lntAdd_ok (s : State) (l : Nat) (ws : List Nat) (hOk : s.Ok) : (State.lntAdd s l ws).Ok := by
  unfold State.lntAdd
  repeat' first
    | (simp only [State.lntRefillAll_ok, State.lntSpill_ok, ok_mk, ok_regs, ok_ctxs, ok_pitches, ok_chs, ok_pts, ok_ports, and_self, *]; done)
    | (intro x; refine State.cut (s := x) ?_ ?_; rotate_left; (clear_value x; intro hx); rotate_left; (subst x))
    | (intro x; subst x)
    | (with_reducible refine State.lntRefillAll_ok _ ?_ )
    | split
    | lift_lets

theorem State.lntEnter_ok (s : State) (l : Nat) (ws : List Nat) (hOk : s.Ok) : (State.lntEnter s l ws).Ok := by
  unfold State.lntEnter
  repeat' first
    | (simp only [State.lntAdd_ok, State.lntCross_ok, State.lntLost_ok, State.modEnts_ok, *]; done)
    | (intro x; subst x)
    | (with_reducible refine State.lntAdd_ok _ _ _ ?_ )
    | split
    | lift_lets

theorem State.eventAt_ok (s : State) (p kind ctx a b : Nat) (hOk : s.Ok) : (State.eventAt s p kind ctx a b).Ok := by
  unfold State.eventAt
  simp only [State.lntEnter_ok, *]

theorem State.event_ok (s : State) (kind ctx a b : Nat) (hOk : s.Ok) : (State.event s kind ctx a b).Ok := by
  unfold State.event
  simp only [State.eventAt_ok, *]

theorem State.ignored_ok (s : State) (a : Nat) (hOk : s.Ok) : (State.ignored s a).Ok := by
  unfold State.ignored
  simp only [State.event_ok, *]

theorem State.slip_ok (s : State) (p : Nat) (hOk : s.Ok) : (State.slip s p).Ok := by
  unfold State.slip
  repeat' first
    | (simp only [State.countSat_ok, State.event_ok, State.notice_ok, *]; done)
    | with_reducible assumption
    | (with_reducible refine State.countSat_ok _ _ _ _ _ ?_)
    | (with_reducible refine State.event_ok _ _ _ _ _ ?_)
    | (with_reducible refine State.notice_ok _ _ ?_)

theorem State.acctAdd_ok (s : State) (c i n : Nat) (hOk : s.Ok) : (State.acctAdd s c i n).Ok := by
  unfold State.acctAdd
  simp only [State.modCtx_ok, *]

theorem State.energy_ok (s : State) (p c k n : Nat) (hOk : s.Ok) : (State.energy s p c k n).Ok := by
  unfold State.energy
  simp only [State.modCtx_ok, State.modPitch_ok, *]

theorem State.staging_ok (s : State) (p : Nat) (c : Nat) (hOk : s.Ok) : (State.staging s p c).Ok := by
  unfold State.staging
  simp only [State.energy_ok, ok_mk, ok_regs, ok_ctxs, ok_pitches, ok_chs, ok_pts, ok_ports, lset_length, and_self, *]

theorem State.chargeMem_ok (s : State) (p c cls lines : Nat) (hOk : s.Ok) : (State.chargeMem s p c cls lines).Ok := by
  unfold State.chargeMem
  simp only [State.acctAdd_ok, State.energy_ok, *]

theorem State.chargeRead_ok (s : State) (c cls a n : Nat) (hOk : s.Ok) : (State.chargeRead s c cls a n).Ok := by
  unfold State.chargeRead
  simp only [State.chargeMem_ok, ok_ite, *]

theorem State.modCh_ok (s : State) (i : Nat) (f : MemCh → MemCh) (hOk : s.Ok) : (State.modCh s i f).Ok := by
  unfold State.modCh
  simp only [ok_mk, ok_regs, ok_ctxs, ok_pitches, ok_chs, ok_pts, ok_ports, lset_length, and_self, *]

theorem State.modDone_ok (s : State) (f : List MemDone → List MemDone) (hOk : s.Ok) : (State.modDone s f).Ok := by
  unfold State.modDone
  simp only [ok_mk, ok_regs, ok_ctxs, ok_pitches, ok_chs, ok_pts, ok_ports, and_self, *]

theorem State.modWait_ok (s : State) (f : List MemReq → List MemReq) (hOk : s.Ok) : (State.modWait s f).Ok := by
  unfold State.modWait
  simp only [ok_mk, ok_regs, ok_ctxs, ok_pitches, ok_chs, ok_pts, ok_ports, and_self, *]

theorem State.modXch_ok (s : State) (f : Xch → Xch) (hOk : s.Ok) : (State.modXch s f).Ok := by
  unfold State.modXch
  simp only [ok_mk, ok_regs, ok_ctxs, ok_pitches, ok_chs, ok_pts, ok_ports, and_self, *]

theorem State.modKtl_ok (s : State) (f : Ktl → Ktl) (hOk : s.Ok) : (State.modKtl s f).Ok := by
  unfold State.modKtl
  simp only [ok_mk, ok_regs, ok_ctxs, ok_pitches, ok_chs, ok_pts, ok_ports, and_self, *]

theorem State.takeDone_ok {s : State} {c : Nat} {u : MemUnit} {d : MemDone} {t : State} (ok : s.Ok)
    (e : State.takeDone s c u = some (d, t)) : t.Ok := by
  unfold State.takeDone at e
  split at e
  · cases e
  · cases e
    simp only [ok_mk, ok_regs, ok_ctxs, ok_pitches, ok_chs, ok_pts, ok_ports, and_self, *]

theorem State.modPt_ok (s : State) (a : Nat) (f : CorePt → CorePt) (hOk : s.Ok) : (State.modPt s a f).Ok := by
  unfold State.modPt
  simp only [ok_mk, ok_regs, ok_ctxs, ok_pitches, ok_chs, ok_pts, ok_ports, lset_length, and_self, *]

theorem State.outPoint_ok (s : State) (want : Nat) (hOk : s.Ok) : (State.outPoint s want).2.Ok := by
  unfold State.outPoint
  repeat' first
    | (simp only [ok_mk, ok_regs, ok_ctxs, ok_pitches, ok_chs, ok_pts, ok_ports, and_self, *]; done)
    | (intro x; subst x)
    | split
    | lift_lets

theorem State.coreSend_ok (s : State) (a : Nat) (bs : Bytes) (hOk : s.Ok) : (State.coreSend s a bs).Ok := by
  unfold State.coreSend
  repeat' first
    | (simp only [State.modPt_ok, ok_mk, ok_regs, ok_ctxs, ok_pitches, ok_chs, ok_pts, ok_ports, lset_length, and_self, ok_ite, *]; done)
    | with_reducible assumption
    | (intro x; refine State.cut (s := x) ?_ ?_; rotate_left; (clear_value x; intro hx); rotate_left; (subst x))
    | (intro x; subst x)
    | intro _
    | (with_reducible refine State.modPt_ok _ _ _ ?_)
    | split
    | lift_lets

theorem State.chargeCore_ok (s : State) (a c n : Nat) (bulk : Bool) (hOk : s.Ok) : (State.chargeCore s a c n bulk).Ok := by
  unfold State.chargeCore
  repeat' first
    | (simp only [State.acctAdd_ok, State.energy_ok, *]; done)
    | split

theorem State.holdWork_ok (s : State) (h : HoldE) (hOk : s.Ok) : (State.holdWork s h).Ok := by
  unfold State.holdWork
  repeat' first
    | (simp only [State.acctAdd_ok, State.chargeMem_ok, State.energy_ok, ok_ite, *]; done)
    | with_reducible assumption
    | (intro x; refine State.cut (s := x) ?_ ?_; rotate_left; (clear_value x; intro hx); rotate_left; (subst x))
    | (intro x; subst x)
    | (with_reducible refine State.acctAdd_ok _ _ _ _ ?_)
    | (with_reducible refine State.chargeMem_ok _ _ _ _ _ ?_)
    | (with_reducible refine State.energy_ok _ _ _ _ _ ?_)
    | split
    | lift_lets

theorem State.sendPacket_ok (s : State) (a c : Nat) (bs : Bytes) (bulk : Bool) (hOk : s.Ok) : (State.sendPacket s a c bs bulk).Ok := by
  unfold State.sendPacket
  simp only [State.chargeCore_ok, State.coreSend_ok, *]

theorem State.waitAgain_ok (s : State) (rs : List MemReq) (hOk : s.Ok) : (State.waitAgain s rs).Ok := by
  unfold State.waitAgain
  repeat' first
    | (simp only [State.modWait_ok, *]; done)
    | with_reducible assumption
    | (with_reducible refine ok_foldl _ _ _ ?_ ?_)
    | intro _
    | (with_reducible refine State.modWait_ok _ _ ?_)

theorem State.abandonOut_ok (s : State) (c : Nat) (resume : Bool) (hOk : s.Ok) :
    (State.abandonOut s c resume).Ok := by
  unfold State.abandonOut
  simp only [State.modCh_ok, State.waitAgain_ok, ok_mk, ok_regs, ok_ctxs, ok_pitches, ok_chs, ok_pts, ok_ports, lset_length, and_self, *]

theorem State.isolateMem_ok (s : State) (c : Nat) (hOk : s.Ok) : (State.isolateMem s c).Ok := by
  unfold State.isolateMem
  repeat' first
    | (simp only [State.abandonOut_ok, State.modCh_ok, State.notice_ok, ok_mk, ok_regs, ok_ctxs, ok_pitches, ok_chs, ok_pts, ok_ports, lset_length, and_self, ok_ite, *]; done)
    | with_reducible assumption
    | (intro x; refine State.cut (s := x) ?_ ?_; rotate_left; (clear_value x; intro hx); rotate_left; (subst x))
    | (intro x; subst x)
    | intro _
    | (with_reducible refine State.abandonOut_ok _ _ _ ?_)
    | (with_reducible refine State.modCh_ok _ _ _ ?_)
    | (with_reducible refine State.notice_ok _ _ ?_)
    | split
    | lift_lets

theorem State.isolateCore_ok (s : State) (a : Nat) (left : Nat) (hOk : s.Ok) : (State.isolateCore s a left).Ok := by
  unfold State.isolateCore
  repeat' first
    | (simp only [State.coreSend_ok, State.modPt_ok, State.notice_ok, ok_mk, ok_regs, ok_ctxs, ok_pitches, ok_chs, ok_pts, ok_ports, lset_length, and_self, ok_ite, *]; done)
    | with_reducible assumption
    | (with_reducible refine ok_foldl _ _ _ ?_ ?_)
    | (intro x; refine State.cut (s := x) ?_ ?_; rotate_left; (clear_value x; intro hx); rotate_left; (subst x))
    | (intro x; subst x)
    | intro _
    | (with_reducible refine State.coreSend_ok _ _ _ ?_)
    | (with_reducible refine State.modPt_ok _ _ _ ?_)
    | (with_reducible refine State.notice_ok _ _ ?_)
    | (with_reducible refine State.outPoint_ok _ _ ?_)
    | split
    | lift_lets

theorem State.stuckEvent_ok (s : State) (cls i : Nat) (hOk : s.Ok) : (State.stuckEvent s cls i).Ok := by
  unfold State.stuckEvent
  simp only [State.event_ok, State.notice_ok, *]

end Sys2Proof.Machine
end

