-- ==== Sys2Proof/Laws/ShapeFrames.lean ====
section
/-! SUPPORT. Every operation of Machine/Frames.lean keeps the shape of the state (`State.Ok`). -/

set_option linter.unusedSimpArgs false

namespace Sys2Proof.Machine

theorem State.saveFrame_ok (s : State) (c : Nat) (st : Step) (hOk : s.Ok) : (State.saveFrame s c st).Ok := by
  unfold State.saveFrame
  simp only [State.memWrite_ok, *]

theorem State.readFrame_ok (s : State) (c : Nat) (st : Step) (hOk : s.Ok) : (State.readFrame s c st).Ok := by
  unfold State.readFrame
  repeat' first
    | (simp only [State.memPost_ok, *]; done)
    | (with_reducible refine ok_foldl _ _ _ ?_ ?_)
    | intro _

theorem State.grantFrames_ok (n k : Nat) (s : State) (ok : s.Ok) : (State.grantFrames n k s).Ok := by
  induction k generalizing s with
  | zero => exact ok
  | succ k ih =>
    unfold State.grantFrames
    split
    · exact ih _ (State.modStep_ok _ _ _ ok)
    · split
      · split
        · exact ok
        · exact ih _ (State.modStep_ok _ _ _ (State.readFrame_ok _ _ _ ok))
      · exact ok

theorem State.passFrame_ok (s : State) (c : Nat) (hOk : s.Ok) : (State.passFrame s c).Ok := by
  unfold State.passFrame
  repeat' first
    | (simp only [State.grantFrames_ok, State.modStep_ok, State.saveFrame_ok, ok_mk, ok_regs, ok_ctxs, ok_pitches, ok_chs, ok_pts, ok_ports, and_self, *]; done)
    | (intro x; refine State.cut (s := x) ?_ ?_; rotate_left; (clear_value x; intro hx); rotate_left; (subst x))
    | (intro x; subst x)
    | split
    | lift_lets

theorem State.evictFor_ok (n k : Nat) (s : State) (ok : s.Ok) : (State.evictFor n k s).Ok := by
  induction k generalizing s with
  | zero => exact ok
  | succ k ih =>
    unfold State.evictFor
    dsimp only
    split
    · exact ok
    · split
      · exact ok
      · exact ih _ (State.passFrame_ok _ _ (State.modStep_ok _ _ _ ok))

theorem State.frames_ok (s : State) (n : Nat) (hOk : s.Ok) : (State.frames s n).Ok := by
  unfold State.frames
  repeat' first
    | (simp only [State.evictFor_ok, State.grantFrames_ok, State.passFrame_ok, *]; done)
    | with_reducible assumption
    | (with_reducible refine ok_foldl _ _ _ ?_ ?_)
    | intro _
    | (with_reducible refine State.evictFor_ok _ _ _ ?_)
    | (with_reducible refine State.grantFrames_ok _ _ _ ?_)
    | (with_reducible refine State.passFrame_ok _ _ ?_)

theorem State.unhold_ok (s : State) (c : Nat) (hOk : s.Ok) : (State.unhold s c).Ok := by
  unfold State.unhold
  simp only [ok_mk, ok_regs, ok_ctxs, ok_pitches, ok_chs, ok_pts, ok_ports, and_self, *]

theorem State.enterReady_ok (s : State) (c : Nat) (hOk : s.Ok) : (State.enterReady s c).Ok := by
  unfold State.enterReady
  simp only [State.modCtx_ok, *]

theorem State.chargeTicks_ok (s : State) (c e : Nat) (hOk : s.Ok) : (State.chargeTicks s c e).Ok := by
  unfold State.chargeTicks
  simp only [State.acctAdd_ok, State.modCtx_ok, *]

end Sys2Proof.Machine
end

