-- ==== Sys2Proof/Laws/ShapeImages.lean ====
section
/-! SUPPORT. Every operation of Machine/Images.lean keeps the shape of the state (`State.Ok`). -/

set_option linter.unusedSimpArgs false

namespace Sys2Proof.Machine

theorem State.makeRoom_ok (p n k : Nat) (s : State) (ok : s.Ok) : (State.makeRoom p n k s).Ok := by
  induction k generalizing s with
  | zero => exact ok
  | succ k ih =>
    unfold State.makeRoom
    split
    · exact ok
    · split
      · exact ok
      · exact ih _ (State.modKtl_ok _ _ ok)

theorem State.postImage_ok (s : State) (i : Img) (hOk : s.Ok) : (State.postImage s i).Ok := by
  unfold State.postImage
  repeat' first
    | (simp only [State.memPost_ok, *]; done)
    | (with_reducible refine ok_foldl _ _ _ ?_ ?_)
    | intro _

theorem State.wantImage_ok (s : State) (c : Nat) (want : Img) (hold : Bool) (hOk : s.Ok) :
    (State.wantImage s c want hold).1.Ok := by
  unfold State.wantImage
  repeat' first
    | (simp only [State.makeRoom_ok, State.modKtl_ok, State.postImage_ok, ok_mk, ok_regs, ok_ctxs, ok_pitches, ok_chs, ok_pts, ok_ports, lset_length, and_self, ok_ite, *]; done)
    | with_reducible assumption
    | (intro x; refine State.cut (s := x) ?_ ?_; rotate_left; (clear_value x; intro hx); rotate_left; (subst x))
    | (intro x; subst x)
    | intro _
    | (with_reducible refine State.makeRoom_ok _ _ _ _ ?_)
    | (with_reducible refine State.modKtl_ok _ _ ?_)
    | (with_reducible refine State.postImage_ok _ _ ?_)
    | split
    | lift_lets

theorem State.reloadImage_ok (s : State) (i : Img) (c tries : Nat) (hOk : s.Ok) : (State.reloadImage s i c tries).Ok := by
  unfold State.reloadImage
  simp only [State.modKtl_ok, State.postImage_ok, *]

theorem State.dropImages_ok (s : State) (c : Nat) (hOk : s.Ok) : (State.dropImages s c).Ok := by
  unfold State.dropImages
  repeat' first
    | (simp only [State.modKtl_ok, State.reloadImage_ok, *]; done)
    | (with_reducible refine ok_foldl _ _ _ ?_ ?_)
    | intro _

theorem State.streamOn_ok (s : State) (c : Nat) (p : Nat) (shadow : Bool) (hOk : s.Ok) :
    (State.streamOn s c p shadow).Ok := by
  unfold State.streamOn
  repeat' first
    | (simp only [State.count_ok, State.modStep_ok, ok_mk, ok_regs, ok_ctxs, ok_pitches, ok_chs, ok_pts, ok_ports, lset_length, and_self, ok_ite, *]; done)
    | with_reducible assumption
    | (intro x; refine State.cut (s := x) ?_ ?_; rotate_left; (clear_value x; intro hx); rotate_left; (subst x))
    | (intro x; subst x)
    | intro _
    | (with_reducible refine State.count_ok _ _ _ ?_)
    | (with_reducible refine State.modStep_ok _ _ _ ?_)
    | split
    | lift_lets

theorem State.needImages_ok (s : State) (c : Nat) (p : Nat) (hOk : s.Ok) : (State.needImages s c p).Ok := by
  unfold State.needImages
  repeat' first
    | (simp only [State.streamOn_ok, ok_ite, *]; done)
    | with_reducible assumption
    | (with_reducible refine ok_foldl _ _ _ ?_ ?_)
    | (intro x; refine State.cut (s := x) ?_ ?_; rotate_left; (clear_value x; intro hx); rotate_left; (subst x))
    | (intro x; subst x)
    | intro _
    | (with_reducible refine State.streamOn_ok _ _ _ _ ?_)
    | (with_reducible refine State.wantImage_ok _ _ _ _ ?_)
    | split
    | lift_lets

theorem State.holdImages_ok (s : State) (c : Nat) (hOk : s.Ok) : (State.holdImages s c).Ok := by
  unfold State.holdImages
  repeat' first
    | (simp only [State.modKtl_ok, State.modStep_ok, ok_mk, ok_regs, ok_ctxs, ok_pitches, ok_chs, ok_pts, ok_ports, lset_length, and_self, ok_ite, *]; done)
    | with_reducible assumption
    | (intro x; refine State.cut (s := x) ?_ ?_; rotate_left; (clear_value x; intro hx); rotate_left; (subst x))
    | (intro x; subst x)
    | intro _
    | (with_reducible refine State.modKtl_ok _ _ ?_)
    | (with_reducible refine State.modStep_ok _ _ _ ?_)
    | split
    | lift_lets

theorem State.shrinkRegion_ok (p k : Nat) (s : State) (ok : s.Ok) : (State.shrinkRegion p k s).Ok := by
  induction k generalizing s with
  | zero => exact ok
  | succ k ih =>
    unfold State.shrinkRegion
    refine ok_ite ok ?_
    split
    · exact ok
    · exact ih _ (ok_foldl _ _ _ (State.modKtl_ok _ _ ok) (fun s c h => State.streamOn_ok _ _ _ _ h))

end Sys2Proof.Machine
end

