-- ==== Sys2Proof/Laws/ShapeCancel.lean ====
section
/-! SUPPORT. Every operation of Machine/Cancel.lean keeps the shape of the state (`State.Ok`). -/

set_option linter.unusedSimpArgs false

namespace Sys2Proof.Machine

theorem State.postQuery_ok (s : State) (c kind : Nat) (q : Query) (hOk : s.Ok) : (State.postQuery s c kind q).Ok := by
  unfold State.postQuery
  repeat' first
    | (simp only [State.modCtx_ok, State.modStep_ok, *]; done)
    | (with_reducible refine State.memPost_ok _ _ ?_ )

theorem State.sendCancel_ok (s : State) (ctx epoch scope why fin : Nat) (hOk : s.Ok) : (State.sendCancel s ctx epoch scope why fin).Ok := by
  unfold State.sendCancel
  simp only [State.sendPacket_ok, ok_mk, ok_regs, ok_ctxs, ok_pitches, ok_chs, ok_pts, ok_ports, and_self, *]

theorem State.dropFrame_ok (s : State) (c : Nat) (hOk : s.Ok) : (State.dropFrame s c).Ok := by
  unfold State.dropFrame
  repeat' first
    | (simp only [State.dropImages_ok, State.modStep_ok, *]; done)
    | (with_reducible refine State.frames_ok _ _ ?_ )

theorem State.cancelCheck_ok (s : State) (c : Nat) (hOk : s.Ok) : (State.cancelCheck s c).Ok := by
  unfold State.cancelCheck
  repeat' first
    | (simp only [State.modStep_ok, State.postQuery_ok, *]; done)
    | split

theorem State.cancelMark_ok (s : State) (c : Nat) (st : Step) (hOk : s.Ok) : (State.cancelMark s c st).Ok := by
  unfold State.cancelMark
  repeat' first
    | (simp only [State.modCtx_ok, State.modStep_ok, ok_mk, ok_regs, ok_ctxs, ok_pitches, ok_chs, ok_pts, ok_ports, lset_length, and_self, ok_ite, *]; done)
    | with_reducible assumption
    | (intro x; refine State.cut (s := x) ?_ ?_; rotate_left; (clear_value x; intro hx); rotate_left; (subst x))
    | (intro x; subst x)
    | intro _
    | (with_reducible refine State.modCtx_ok _ _ _ ?_)
    | (with_reducible refine State.modStep_ok _ _ _ ?_)
    | split
    | lift_lets

theorem State.cancelNow_ok (s : State) (c : Nat) (st : Step) (hOk : s.Ok) : (State.cancelNow s c st).Ok := by
  unfold State.cancelNow
  repeat' first
    | (simp only [State.cancelCheck_ok, State.cancelMark_ok, State.dropFrame_ok, State.sendCancel_ok, ok_ite, *]; done)
    | with_reducible assumption
    | (intro x; refine State.cut (s := x) ?_ ?_; rotate_left; (clear_value x; intro hx); rotate_left; (subst x))
    | (intro x; subst x)
    | (with_reducible refine State.cancelCheck_ok _ _ ?_)
    | (with_reducible refine State.cancelMark_ok _ _ _ ?_)
    | (with_reducible refine State.dropFrame_ok _ _ ?_)
    | (with_reducible refine State.sendCancel_ok _ _ _ _ _ _ ?_)
    | split
    | lift_lets

theorem State.holdCancel_ok (s : State) (c : Nat) (full : Bool) (hOk : s.Ok) : (State.holdCancel s c full).Ok := by
  unfold State.holdCancel
  repeat' first
    | (simp only [State.countSat_ok, State.modCtx_ok, ok_mk, ok_regs, ok_ctxs, ok_pitches, ok_chs, ok_pts, ok_ports, lset_length, and_self, ok_ite, *]; done)
    | with_reducible assumption
    | (intro x; refine State.cut (s := x) ?_ ?_; rotate_left; (clear_value x; intro hx); rotate_left; (subst x))
    | (intro x; subst x)
    | intro _
    | (with_reducible refine State.countSat_ok _ _ _ _ _ ?_)
    | (with_reducible refine State.modCtx_ok _ _ _ ?_)
    | split
    | lift_lets

theorem State.cancelStep_ok (s : State) (c : Nat) (hOk : s.Ok) : (State.cancelStep s c).Ok := by
  unfold State.cancelStep
  repeat' first
    | (simp only [State.cancelNow_ok, State.holdCancel_ok, ok_ite, *]; done)
    | with_reducible assumption
    | (with_reducible refine State.cancelNow_ok _ _ _ ?_)
    | (with_reducible refine State.holdCancel_ok _ _ _ ?_)
    | split

theorem State.cancelLoss_ok (s : State) (c : Nat) (hOk : s.Ok) : (State.cancelLoss s c).Ok := by
  unfold State.cancelLoss
  repeat' first
    | (simp only [State.cancelNow_ok, State.holdCancel_ok, State.modStep_ok, ok_mk, ok_regs, ok_ctxs, ok_pitches, ok_chs, ok_pts, ok_ports, lset_length, and_self, ok_ite, *]; done)
    | with_reducible assumption
    | intro _
    | (with_reducible refine State.cancelNow_ok _ _ _ ?_)
    | (with_reducible refine State.holdCancel_ok _ _ _ ?_)
    | (with_reducible refine State.modStep_ok _ _ _ ?_)
    | split

theorem State.heldCheck_ok (s : State) (c : Nat) (hOk : s.Ok) : (State.heldCheck s c).Ok := by
  unfold State.heldCheck
  simp only [State.cancelStep_ok, ok_ite, *]

theorem State.openAtom_ok (s : State) (c : Nat) (k : Nat) (hOk : s.Ok) : (State.openAtom s c k).Ok := by
  unfold State.openAtom
  simp only [State.modStep_ok, ok_mk, ok_regs, ok_ctxs, ok_pitches, ok_chs, ok_pts, ok_ports, lset_length, and_self, ok_ite, *]

theorem State.atomCheck_ok (s : State) (c : Nat) (hOk : s.Ok) : (State.atomCheck s c).Ok := by
  unfold State.atomCheck
  repeat' first
    | (simp only [State.frames_ok, State.heldCheck_ok, State.modStep_ok, ok_mk, ok_regs, ok_ctxs, ok_pitches, ok_chs, ok_pts, ok_ports, lset_length, and_self, ok_ite, *]; done)
    | with_reducible assumption
    | intro _
    | (with_reducible refine State.frames_ok _ _ ?_)
    | (with_reducible refine State.heldCheck_ok _ _ ?_)
    | (with_reducible refine State.modStep_ok _ _ _ ?_)
    | split

theorem State.heldAll_ok (s : State) (hOk : s.Ok) : (State.heldAll s).Ok := by
  unfold State.heldAll
  repeat' first
    | (simp only [State.heldCheck_ok, *]; done)
    | with_reducible assumption
    | (with_reducible refine ok_foldl _ _ _ ?_ ?_)
    | intro _
    | (with_reducible refine State.heldCheck_ok _ _ ?_)

theorem State.drained_ok (s : State) (c : Nat) (e : Nat) (hOk : s.Ok) : (State.drained s c e).Ok := by
  unfold State.drained
  repeat' first
    | (simp only [State.heldAll_ok, State.modCtx_ok, ok_mk, ok_regs, ok_ctxs, ok_pitches, ok_chs, ok_pts, ok_ports, lset_length, and_self, *]; done)
    | with_reducible assumption
    | (intro x; refine State.cut (s := x) ?_ ?_; rotate_left; (clear_value x; intro hx); rotate_left; (subst x))
    | (intro x; subst x)
    | intro _
    | (with_reducible refine State.heldAll_ok _ ?_)
    | (with_reducible refine State.modCtx_ok _ _ _ ?_)
    | split
    | lift_lets

end Sys2Proof.Machine
end

