-- ==== Sys2Proof/Laws/ShapeNet.lean ====
section
/-! SUPPORT. Every operation of Machine/Net.lean keeps the shape of the state (`State.Ok`). -/

set_option linter.unusedSimpArgs false

namespace Sys2Proof.Machine

theorem State.modPort_ok (s : State) (n : Nat) (f : Port → Port) (hOk : s.Ok) : (State.modPort s n f).Ok := by
  unfold State.modPort
  simp only [ok_mk, ok_regs, ok_ctxs, ok_pitches, ok_chs, ok_pts, ok_ports, lset_length, and_self, *]

theorem State.enqueue_ok (s : State) (n vc : Nat) (qs : List QFlit) (hOk : s.Ok) : (State.enqueue s n vc qs).Ok := by
  unfold State.enqueue
  simp only [State.modPort_ok, *]

theorem State.waitForm_ok (s : State) (w : FormWait) (hOk : s.Ok) : (State.waitForm s w).Ok := by
  unfold State.waitForm
  simp only [ok_mk, ok_regs, ok_ctxs, ok_pitches, ok_chs, ok_pts, ok_ports, lset_length, and_self, ok_ite, *]

theorem State.endWait_ok (s : State) (w : FormWait) (hOk : s.Ok) : (State.endWait s w).Ok := by
  unfold State.endWait
  simp only [ok_mk, ok_regs, ok_ctxs, ok_pitches, ok_chs, ok_pts, ok_ports, lset_length, and_self, *]

theorem State.takeChunk_ok (s : State) (e : ChunkE) (hOk : s.Ok) : (State.takeChunk s e).2.Ok := by
  unfold State.takeChunk
  simp only [State.wrF_ok, ok_mk, ok_regs, ok_ctxs, ok_pitches, ok_chs, ok_pts, ok_ports, and_self, *]

theorem State.freeChunk_ok (s : State) (n : Nat) (hOk : s.Ok) : (State.freeChunk s n).Ok := by
  unfold State.freeChunk
  simp only [ok_mk, ok_regs, ok_ctxs, ok_pitches, ok_chs, ok_pts, ok_ports, and_self, *]

theorem State.landHere_ok (s : State) (l : Landed) (hOk : s.Ok) : (State.landHere s l).Ok := by
  unfold State.landHere
  simp only [ok_mk, ok_regs, ok_ctxs, ok_pitches, ok_chs, ok_pts, ok_ports, and_self, *]

theorem State.unsent_ok (s : State) (n : Nat) (hOk : s.Ok) : (State.unsent s n).Ok := by
  unfold State.unsent
  repeat' first
    | (simp only [State.freeChunk_ok, ok_ite, *]; done)
    | with_reducible assumption
    | (with_reducible refine State.freeChunk_ok _ _ ?_)
    | split

theorem State.launchChunk_ok (s : State) (ctx : Nat) (epoch : Nat) (dst : Nat) (chunk : Nat) (vc : Nat) (order : Nat) (mver : Nat) (ch : ChunkH) (data : Bytes) (hOk : s.Ok) :
    (State.launchChunk s ctx epoch dst chunk vc order mver ch data).Ok := by
  unfold State.launchChunk
  repeat' first
    | (simp only [State.enqueue_ok, State.landHere_ok, State.unsent_ok, ok_mk, ok_regs, ok_ctxs, ok_pitches, ok_chs, ok_pts, ok_ports, lset_length, and_self, ok_ite, *]; done)
    | with_reducible assumption
    | (intro x; refine State.cut (s := x) ?_ ?_; rotate_left; (clear_value x; intro hx); rotate_left; (subst x))
    | (intro x; subst x)
    | (with_reducible refine State.enqueue_ok _ _ _ _ ?_)
    | (with_reducible refine State.landHere_ok _ _ ?_)
    | (with_reducible refine State.unsent_ok _ _ ?_)
    | split
    | lift_lets

theorem State.launchUp_ok (s : State) (ctx : Nat) (epoch : Nat) (dst : Nat) (chunk : Nat) (vc : Nat) (mver : Nat) (ch : ChunkH) (data : Bytes) (hOk : s.Ok) :
    (State.launchUp s ctx epoch dst chunk vc mver ch data).Ok := by
  unfold State.launchUp
  repeat' first
    | (simp only [State.enqueue_ok, State.unsent_ok, ok_mk, ok_regs, ok_ctxs, ok_pitches, ok_chs, ok_pts, ok_ports, lset_length, and_self, *]; done)
    | with_reducible assumption
    | (with_reducible refine State.enqueue_ok _ _ _ _ ?_)
    | (with_reducible refine State.unsent_ok _ _ ?_)
    | split

theorem State.shortOut_ok (s : State) (h : FlitH) (pay : Bytes) (fin : Nat) (pool : Nat) (slot : Nat) (hOk : s.Ok) :
    (State.shortOut s h pay fin pool slot).Ok := by
  unfold State.shortOut
  repeat' first
    | (simp only [State.enqueue_ok, ok_mk, ok_regs, ok_ctxs, ok_pitches, ok_chs, ok_pts, ok_ports, lset_length, and_self, *]; done)
    | with_reducible assumption
    | (intro x; refine State.cut (s := x) ?_ ?_; rotate_left; (clear_value x; intro hx); rotate_left; (subst x))
    | (intro x; subst x)
    | intro _
    | (with_reducible refine State.enqueue_ok _ _ _ _ ?_)
    | split
    | lift_lets

theorem State.sendShort_ok (s : State) (ctx : Nat) (epoch : Nat) (dst : Nat) (mver : Nat) (pay : Bytes) (fin : Nat) (hOk : s.Ok) :
    (State.sendShort s ctx epoch dst mver pay fin).Ok := by
  unfold State.sendShort
  simp only [State.shortOut_ok, ok_mk, ok_regs, ok_ctxs, ok_pitches, ok_chs, ok_pts, ok_ports, lset_length, and_self, ok_ite, *]

theorem State.sendShortUp_ok (s : State) (ctx epoch dst mver : Nat) (pay : Bytes) (hOk : s.Ok) : (State.sendShortUp s ctx epoch dst mver pay).Ok := by
  unfold State.sendShortUp
  repeat' first
    | (simp only [State.enqueue_ok, *]; done)
    | split

theorem State.sendMembership_ok (s : State) (n : Nat) (pay : Bytes) (hOk : s.Ok) : (State.sendMembership s n pay).Ok := by
  unfold State.sendMembership
  simp only [State.enqueue_ok, *]

theorem State.ackFlit_ok (s : State) (q : QFlit) (hOk : s.Ok) : (State.ackFlit s q).Ok := by
  unfold State.ackFlit
  repeat' first
    | (simp only [State.freeChunk_ok, ok_mk, ok_regs, ok_ctxs, ok_pitches, ok_chs, ok_pts, ok_ports, and_self, *]; done)
    | split

theorem State.applyAck_ok (s : State) (port n : Nat) (hOk : s.Ok) : (State.applyAck s port n).1.Ok := by
  unfold State.applyAck
  repeat' first
    | (simp only [State.ackFlit_ok, State.modPort_ok, *]; done)
    | (with_reducible refine ok_foldl _ _ _ ?_ ?_)
    | intro _

theorem State.applyCredit_ok (s : State) (port vc n : Nat) (hOk : s.Ok) : (State.applyCredit s port vc n).1.Ok := by
  unfold State.applyCredit
  simp only [State.modPort_ok, *]

end Sys2Proof.Machine
end

