-- ==== Sys2Proof/Laws/ShapeRecord.lean ====
section
/-! SUPPORT. Every operation of Machine/Record.lean keeps the shape of the state (`State.Ok`). -/

set_option linter.unusedSimpArgs false

namespace Sys2Proof.Machine

theorem State.memWriteAny_ok (ctx cls : Nat) (why : MemWhy) (n a : Nat) (bs : Bytes) (s : State) (ok : s.Ok) :
    (State.memWriteAny ctx cls why n a bs s).Ok := by
  induction n generalizing a bs s with
  | zero => exact ok
  | succ n ih =>
    unfold State.memWriteAny
    split
    · exact ok
    · exact ih _ _ _ (State.memWriteWords_ok _ _ _ _ _ _ ok)

theorem State.recPut_ok (s : State) (ekind src ctx epoch tick aux : Nat) (pay : Bytes) (dig : Bool) (hOk : s.Ok) : (State.recPut s ekind src ctx epoch tick aux pay dig).Ok := by
  unfold State.recPut
  repeat' first
    | (simp only [State.countSat_ok, State.event_ok, State.memWriteAny_ok, State.setBit_ok, ok_mk, ok_regs, ok_ctxs, ok_pitches, ok_chs, ok_pts, ok_ports, and_self, *]; done)
    | (intro x; refine State.cut (s := x) ?_ ?_; rotate_left; (clear_value x; intro hx); rotate_left; (subst x))
    | (intro x; subst x)
    | split
    | lift_lets

theorem State.record_ok (s : State) (ekind src : Nat) (c : Option Nat) (epoch tick aux : Nat) (pay : Bytes) (bulk : Bool) (hOk : s.Ok) : (State.record s ekind src c epoch tick aux pay bulk).Ok := by
  unfold State.record
  simp only [State.recPut_ok, ok_ite, *]

theorem State.recWrite_ok (s : State) (a v : Nat) (hOk : s.Ok) : (State.recWrite s a v).Ok := by
  unfold State.recWrite
  simp only [State.record_ok, *]

theorem State.digest_ok (s : State) (c k idx : Nat) (bs : Bytes) (hOk : s.Ok) : (State.digest s c k idx bs).Ok := by
  unfold State.digest
  simp only [State.modStep_ok, *]

theorem State.digestLines_ok (s : State) (c k off : Nat) (bs : Bytes) (hOk : s.Ok) : (State.digestLines s c k off bs).Ok := by
  unfold State.digestLines
  repeat' first
    | (simp only [State.digest_ok, *]; done)
    | (with_reducible refine ok_foldl _ _ _ ?_ ?_)
    | intro _

theorem State.recDigest_ok (s : State) (c : Nat) (hOk : s.Ok) : (State.recDigest s c).Ok := by
  unfold State.recDigest
  repeat' first
    | (simp only [State.recPut_ok, *]; done)
    | split

end Sys2Proof.Machine
end

