-- ==== Sys2Proof/Laws/ShapeTeardown.lean ====
section
/-! SUPPORT. Every operation of Machine/Teardown.lean keeps the shape of the state (`State.Ok`). -/

set_option linter.unusedSimpArgs false

namespace Sys2Proof.Machine

theorem State.abortInst_ok (s : State) (c : Nat) (st : Step) (x : CollInst) (reason : Nat) (hOk : s.Ok) : (State.abortInst s c st x reason).Ok := by
  unfold State.abortInst
  repeat' first
    | (simp only [State.sendShort_ok, *]; done)
    | (with_reducible refine ok_foldl _ _ _ ?_ ?_)
    | intro _

theorem State.abortAll_ok (s : State) (c : Nat) (st : Step) (reason : Nat) (hOk : s.Ok) : (State.abortAll s c st reason).Ok := by
  unfold State.abortAll
  repeat' first
    | (simp only [State.abortInst_ok, *]; done)
    | (with_reducible refine ok_foldl _ _ _ ?_ ?_)
    | intro _

theorem State.clearOwn_ok (s : State) (c : Nat) (hOk : s.Ok) : (State.clearOwn s c).Ok := by
  unfold State.clearOwn
  repeat' first
    | (simp only [State.count_ok, State.modCtx_ok, ok_mk, ok_regs, ok_ctxs, ok_pitches, ok_chs, ok_pts, ok_ports, lset_length, and_self, *]; done)
    | with_reducible assumption
    | (intro x; refine State.cut (s := x) ?_ ?_; rotate_left; (clear_value x; intro hx); rotate_left; (subst x))
    | (intro x; subst x)
    | intro _
    | (with_reducible refine State.count_ok _ _ _ ?_)
    | (with_reducible refine State.modCtx_ok _ _ _ ?_)
    | split
    | lift_lets

theorem State.release_ok (s : State) (c : Nat) (hOk : s.Ok) : (State.release s c).Ok := by
  unfold State.release
  repeat' first
    | (simp only [State.clearOwn_ok, State.dropImages_ok, State.frames_ok, State.heldAll_ok, State.unhold_ok, *]; done)
    | with_reducible assumption
    | (with_reducible refine State.clearOwn_ok _ _ ?_)
    | (with_reducible refine State.dropImages_ok _ _ ?_)
    | (with_reducible refine State.frames_ok _ _ ?_)
    | (with_reducible refine State.heldAll_ok _ ?_)
    | (with_reducible refine State.unhold_ok _ _ ?_)

theorem State.downCheck_ok (s : State) (c : Nat) (hOk : s.Ok) : (State.downCheck s c).Ok := by
  unfold State.downCheck
  simp only [State.modCtx_ok, ok_ite, *]

theorem State.tearDown_ok (s : State) (c why : Nat) (hOk : s.Ok) : (State.tearDown s c why).Ok := by
  unfold State.tearDown
  repeat' first
    | (simp only [State.abortAll_ok, State.modCtx_ok, *]; done)
    | (with_reducible refine State.downCheck_ok _ _ ?_ )
    | (with_reducible refine State.release_ok _ _ ?_ )
    | (with_reducible refine State.sendCancel_ok _ _ _ _ _ _ ?_ )
    | split

theorem State.ctxFault_ok (s : State) (c code : Nat) (hOk : s.Ok) : (State.ctxFault s c code).Ok := by
  unfold State.ctxFault
  repeat' first
    | (simp only [State.count_ok, State.modCtx_ok, *]; done)
    | (with_reducible refine State.event_ok _ _ _ _ _ ?_ )
    | (with_reducible refine State.notice_ok _ _ ?_ )
    | (with_reducible refine State.tearDown_ok _ _ _ ?_ )
    | split

theorem State.memFault_ok (s : State) (c code ch : Nat) (hOk : s.Ok) : (State.memFault s c code ch).Ok := by
  unfold State.memFault
  repeat' first
    | (simp only [State.ctxFault_ok, State.event_ok, State.notice_ok, *]; done)
    | split

theorem State.collFault_ok (s : State) (c : Nat) (x : CollInst) (reason code : Nat) (hOk : s.Ok) : (State.collFault s c x reason code).Ok := by
  unfold State.collFault
  repeat' first
    | (simp only [State.abortInst_ok, State.modStep_ok, *]; done)
    | (with_reducible refine State.ctxFault_ok _ _ _ ?_ )
    | split

end Sys2Proof.Machine
end

