-- ==== Sys2Proof/Laws/ShapeFetch.lean ====
section
/-! SUPPORT. Every operation of Machine/Fetch.lean keeps the shape of the state (`State.Ok`). -/

set_option linter.unusedSimpArgs false

namespace Sys2Proof.Machine

theorem State.chargeChecks_ok (s : State) (c : Nat) (hv : HostView) (d : Desc) (hOk : s.Ok) :
    (State.chargeChecks s c hv d).Ok := by
  unfold State.chargeChecks
  repeat' first
    | (simp only [State.chargeRead_ok, *]; done)
    | with_reducible assumption
    | (with_reducible refine ok_foldl _ _ _ ?_ ?_)
    | intro _
    | (with_reducible refine State.chargeRead_ok _ _ _ _ _ ?_)

theorem State.dropVisit_ok (s : State) (c : Nat) (hOk : s.Ok) : (State.dropVisit s c).Ok := by
  unfold State.dropVisit
  simp only [State.frames_ok, State.modCtx_ok, *]

theorem State.refuseStep_ok (s : State) (c reason cookie : Nat) (hOk : s.Ok) : (State.refuseStep s c reason cookie).Ok := by
  unfold State.refuseStep
  simp only [State.dropVisit_ok, State.postQuery_ok, *]

theorem State.fetchDesc_ok (s : State) (c again : Nat) (hOk : s.Ok) : (State.fetchDesc s c again).Ok := by
  unfold State.fetchDesc
  simp only [State.memPost_ok, *]

theorem descFetchedOp_ok (c : Nat) (hv : HostView) (s : State) (hOk : s.Ok) : (descFetchedOp c hv s).Ok := by
  unfold descFetchedOp
  repeat' first
    | (simp only [State.chargeChecks_ok, State.ctxFault_ok, State.fetchDesc_ok, State.modCtx_ok, State.refuseStep_ok, ok_mk, ok_regs, ok_ctxs, ok_pitches, ok_chs, ok_pts, ok_ports, lset_length, and_self, ok_ite, *]; done)
    | with_reducible assumption
    | (intro x; refine State.cut (s := x) ?_ ?_; rotate_left; (clear_value x; intro hx); rotate_left; (subst x))
    | (intro x; subst x)
    | intro _
    | (with_reducible refine State.chargeChecks_ok _ _ _ _ ?_)
    | (with_reducible refine State.ctxFault_ok _ _ _ ?_)
    | (with_reducible refine State.fetchDesc_ok _ _ _ ?_)
    | (with_reducible refine State.modCtx_ok _ _ _ ?_)
    | (with_reducible refine State.refuseStep_ok _ _ _ _ ?_)
    | (split <;> try (rename_i e; have hx := State.takeDone_ok (by assumption) e))
    | split
    | lift_lets

end Sys2Proof.Machine
end

