-- ==== Sys2Proof/Laws/ShapeTrig.lean ====
section
/-! SUPPORT. Every operation of Machine/Trig.lean keeps the shape of the state (`State.Ok`). -/

set_option linter.unusedSimpArgs false

namespace Sys2Proof.Machine

theorem State.fireChains_ok (s : State) (c : Nat) (hOk : s.Ok) : (State.fireChains s c).Ok := by
  unfold State.fireChains
  repeat' first
    | (simp only [State.ctxFault_ok, State.modStep_ok, State.modXch_ok, *]; done)
    | (intro x; subst x)
    | split
    | lift_lets

theorem State.bump_ok (s : State) (c i n : Nat) (hOk : s.Ok) : (State.bump s c i n).Ok := by
  unfold State.bump
  simp only [State.fireChains_ok, State.modCtx_ok, *]

theorem State.chainDone_ok (s : State) (c i : Nat) (hOk : s.Ok) : (State.chainDone s c i).Ok := by
  unfold State.chainDone
  repeat' first
    | (simp only [State.event_ok, State.modStep_ok, *]; done)
    | (with_reducible refine State.bump_ok _ _ _ _ ?_ )
    | split

theorem State.chainStart_ok (s : State) (c i : Nat) (left : Nat) (hOk : s.Ok) : (State.chainStart s c i left).Ok := by
  unfold State.chainStart
  simp only [State.modStep_ok, State.modXch_ok, *]

end Sys2Proof.Machine
end

