-- ==== Sys2Proof/Laws/ShapeAccept.lean ====
section
/-! SUPPORT. Every operation of Machine/Accept.lean keeps the shape of the state (`State.Ok`). -/

set_option linter.unusedSimpArgs false

namespace Sys2Proof.Machine

theorem State.makeTabRoom_ok (p n k : Nat) (s : State) (ok : s.Ok) : (State.makeTabRoom p n k s).Ok := by
  induction k generalizing s with
  | zero => exact ok
  | succ k ih =>
    unfold State.makeTabRoom
    refine ok_ite ok ?_
    split
    · exact ok
    · exact ih _ (State.modKtl_ok _ _ ok)

theorem State.holdTab_ok (s : State) (c : Nat) (d : Desc) (table : LTable) (hOk : s.Ok) :
    (State.holdTab s c d table).Ok := by
  unfold State.holdTab
  repeat' first
    | (simp only [State.makeTabRoom_ok, State.modKtl_ok, ok_mk, ok_regs, ok_ctxs, ok_pitches, ok_chs, ok_pts, ok_ports, lset_length, and_self, ok_ite, *]; done)
    | with_reducible assumption
    | (intro x; refine State.cut (s := x) ?_ ?_; rotate_left; (clear_value x; intro hx); rotate_left; (subst x))
    | (intro x; subst x)
    | intro _
    | (with_reducible refine State.makeTabRoom_ok _ _ _ _ ?_)
    | (with_reducible refine State.modKtl_ok _ _ ?_)
    | split
    | lift_lets

theorem State.applyAdds_ok (s : State) (c e : Nat) (hOk : s.Ok) : (State.applyAdds s c e).Ok := by
  unfold State.applyAdds
  repeat' first
    | (simp only [State.bump_ok, State.modXch_ok, *]; done)
    | (with_reducible refine ok_foldl _ _ _ ?_ ?_)
    | intro _

theorem State.loadImages_ok (s : State) (c : Nat) (hOk : s.Ok) : (State.loadImages s c).Ok := by
  unfold State.loadImages
  repeat' first
    | (simp only [State.needImages_ok, *]; done)
    | with_reducible assumption
    | (with_reducible refine ok_foldl _ _ _ ?_ ?_)
    | intro _
    | (with_reducible refine State.needImages_ok _ _ _ ?_)

theorem State.freeHeld_ok (s : State) (c e : Nat) (hOk : s.Ok) : (State.freeHeld s c e).Ok := by
  unfold State.freeHeld
  simp only [State.count_ok, ok_mk, ok_regs, ok_ctxs, ok_pitches, ok_chs, ok_pts, ok_ports, and_self, *]

theorem State.beginStep_ok (s : State) (c : Nat) (st : Step) (table : LTable) (bal : Option BalState) (hOk : s.Ok) :
    (State.beginStep s c st table bal).Ok := by
  unfold State.beginStep
  repeat' first
    | (simp only [State.applyAdds_ok, State.fireChains_ok, State.frames_ok, State.freeHeld_ok, State.heldCheck_ok, State.loadImages_ok, State.modCtx_ok, ok_mk, ok_regs, ok_ctxs, ok_pitches, ok_chs, ok_pts, ok_ports, lset_length, and_self, ok_ite, *]; done)
    | with_reducible assumption
    | (intro x; refine State.cut (s := x) ?_ ?_; rotate_left; (clear_value x; intro hx); rotate_left; (subst x))
    | (intro x; subst x)
    | intro _
    | (with_reducible refine State.applyAdds_ok _ _ _ ?_)
    | (with_reducible refine State.fireChains_ok _ _ ?_)
    | (with_reducible refine State.frames_ok _ _ ?_)
    | (with_reducible refine State.freeHeld_ok _ _ _ ?_)
    | (with_reducible refine State.heldCheck_ok _ _ ?_)
    | (with_reducible refine State.loadImages_ok _ _ ?_)
    | (with_reducible refine State.modCtx_ok _ _ _ ?_)
    | split
    | lift_lets

theorem State.acceptGo_ok (s : State) (c : Nat) (hv : HostView) (st : Step) (hOk : s.Ok) :
    (State.acceptGo s c hv st).Ok := by
  unfold State.acceptGo
  repeat' first
    | (simp only [State.beginStep_ok, State.chargeRead_ok, State.ctxFault_ok, State.holdTab_ok, ok_ite, *]; done)
    | with_reducible assumption
    | (with_reducible refine ok_foldl _ _ _ ?_ ?_)
    | (intro x; refine State.cut (s := x) ?_ ?_; rotate_left; (clear_value x; intro hx); rotate_left; (subst x))
    | (intro x; subst x)
    | intro _
    | (with_reducible refine State.beginStep_ok _ _ _ _ _ ?_)
    | (with_reducible refine State.chargeRead_ok _ _ _ _ _ ?_)
    | (with_reducible refine State.ctxFault_ok _ _ _ ?_)
    | (with_reducible refine State.holdTab_ok _ _ _ _ ?_)
    | split
    | lift_lets

theorem stepAcceptOp_ok (c : Nat) (hv : HostView) (s : State) (hOk : s.Ok) : (stepAcceptOp c hv s).Ok := by
  unfold stepAcceptOp
  repeat' first
    | (simp only [State.acceptGo_ok, State.chargeChecks_ok, State.ctxFault_ok, State.refuseStep_ok, ok_mk, ok_regs, ok_ctxs, ok_pitches, ok_chs, ok_pts, ok_ports, lset_length, and_self, ok_ite, *]; done)
    | with_reducible assumption
    | (intro x; refine State.cut (s := x) ?_ ?_; rotate_left; (clear_value x; intro hx); rotate_left; (subst x))
    | (intro x; subst x)
    | (with_reducible refine State.acceptGo_ok _ _ _ _ ?_)
    | (with_reducible refine State.chargeChecks_ok _ _ _ _ ?_)
    | (with_reducible refine State.ctxFault_ok _ _ _ ?_)
    | (with_reducible refine State.refuseStep_ok _ _ _ _ ?_)
    | split
    | lift_lets

end Sys2Proof.Machine
end

