-- ==== Sys2Proof/Laws/ShapeDest.lean ====
section
/-! SUPPORT. Every operation of Machine/Dest.lean keeps the shape of the state (`State.Ok`). -/

set_option linter.unusedSimpArgs false

namespace Sys2Proof.Machine

theorem State.answered_ok (s : State) (c e tag : Nat) (hOk : s.Ok) : (State.answered s c e tag).Ok := by
  unfold State.answered
  simp only [State.modStep_ok, *]

theorem State.queueRet_ok (s : State) (r : RetRec) (hOk : s.Ok) : (State.queueRet s r).Ok := by
  unfold State.queueRet
  simp only [State.answered_ok, State.modXch_ok, *]

theorem State.packetOut_ok (s : State) (c slot : Nat) (rs : List LandRec) (hOk : s.Ok) : (State.packetOut s c slot rs).Ok := by
  unfold State.packetOut
  repeat' first
    | (simp only [State.outPoint_ok, State.sendPacket_ok, *]; done)
    | split

theorem State.sendBatch_ok (s : State) (c slot : Nat) (hOk : s.Ok) : (State.sendBatch s c slot).Ok := by
  unfold State.sendBatch
  repeat' first
    | (simp only [State.modStep_ok, State.packetOut_ok, *]; done)
    | split

theorem State.sendHeld_ok (s : State) (c slot : Nat) (st : Step) (h0 : HoldE) (hs : List HoldE) (hOk : s.Ok) :
    (State.sendHeld s c slot st h0 hs).Ok := by
  unfold State.sendHeld
  lift_lets
  intro q b mark
  have hq : q.2.Ok := State.outPoint_ok s _ hOk
  clear_value q
  refine State.coreSend_ok _ _ _ ?_
  simp only [ok_mk, ok_regs, ok_ctxs, ok_pitches, ok_chs, ok_pts, ok_ports, and_self, *]

theorem State.sendSteeped_ok (s : State) (c slot : Nat) (hOk : s.Ok) : (State.sendSteeped s c slot).Ok := by
  unfold State.sendSteeped
  repeat' first
    | (simp only [State.sendHeld_ok, *]; done)
    | (intro x; subst x)
    | split
    | lift_lets

theorem State.sendKey_ok (s : State) (c key : Nat) (hOk : s.Ok) : (State.sendKey s c key).Ok := by
  unfold State.sendKey
  simp only [State.sendBatch_ok, State.sendSteeped_ok, ok_ite, *]

theorem State.expertRead_ok (s : State) (c e key stage a n : Nat) (hOk : s.Ok) : (State.expertRead s c e key stage a n).Ok := by
  unfold State.expertRead
  simp only [State.memPost_ok, State.modStep_ok, *]

theorem State.requestBatch_ok (s : State) (c key : Nat) (hOk : s.Ok) : (State.requestBatch s c key).Ok := by
  unfold State.requestBatch
  repeat' first
    | (simp only [State.expertRead_ok, State.sendKey_ok, *]; done)
    | split

theorem State.badBatch_ok (s : State) (c : Nat) (key : Nat) (hOk : s.Ok) : (State.badBatch s c key).Ok := by
  unfold State.badBatch
  repeat' first
    | (simp only [State.count_ok, State.ctxFault_ok, State.modStep_ok, ok_mk, ok_regs, ok_ctxs, ok_pitches, ok_chs, ok_pts, ok_ports, lset_length, and_self, ok_ite, *]; done)
    | with_reducible assumption
    | (intro x; refine State.cut (s := x) ?_ ?_; rotate_left; (clear_value x; intro hx); rotate_left; (subst x))
    | (intro x; subst x)
    | intro _
    | (with_reducible refine State.count_ok _ _ _ ?_)
    | (with_reducible refine State.ctxFault_ok _ _ _ ?_)
    | (with_reducible refine State.modStep_ok _ _ _ ?_)
    | split
    | lift_lets

theorem State.expertBack_ok (s : State) (c idx : Nat) (data : Bytes) (hOk : s.Ok) : (State.expertBack s c idx data).Ok := by
  unfold State.expertBack
  repeat' first
    | (simp only [State.badBatch_ok, State.expertRead_ok, State.modStep_ok, State.sendKey_ok, *]; done)
    | (intro x; subst x)
    | split
    | lift_lets

theorem State.flushSlot_ok (c slot n : Nat) (s : State) (ok : s.Ok) : (State.flushSlot c slot n s).Ok := by
  induction n generalizing s with
  | zero => exact ok
  | succ n ih =>
    unfold State.flushSlot
    split
    · exact ok
    · dsimp only
      split
      · have h := State.requestBatch_ok s c slot ok
        split
        · exact h
        · split
          · exact ih _ h
          · exact h
      · exact ok

theorem State.flushAll_ok (s : State) (c : Nat) (hOk : s.Ok) : (State.flushAll s c).Ok := by
  unfold State.flushAll
  repeat' first
    | (simp only [State.flushSlot_ok, *]; done)
    | (with_reducible refine ok_foldl _ _ _ ?_ ?_)
    | intro _
    | split

theorem State.flushHeld_ok (s : State) (c : Nat) (slot : Nat) (hOk : s.Ok) : (State.flushHeld s c slot).Ok := by
  unfold State.flushHeld
  repeat' first
    | (simp only [State.requestBatch_ok, ok_ite, *]; done)
    | with_reducible assumption
    | (with_reducible refine State.requestBatch_ok _ _ _ ?_)
    | split

theorem State.loseHeld_ok (s : State) (h : HoldE) (hOk : s.Ok) : (State.loseHeld s h).Ok := by
  unfold State.loseHeld
  repeat' first
    | (simp only [State.count_ok, State.flushAll_ok, State.modStep_ok, ok_mk, ok_regs, ok_ctxs, ok_pitches, ok_chs, ok_pts, ok_ports, lset_length, and_self, ok_ite, *]; done)
    | with_reducible assumption
    | (intro x; refine State.cut (s := x) ?_ ?_; rotate_left; (clear_value x; intro hx); rotate_left; (subst x))
    | (intro x; subst x)
    | intro _
    | (with_reducible refine State.count_ok _ _ _ ?_)
    | (with_reducible refine State.flushAll_ok _ _ ?_)
    | (with_reducible refine State.modStep_ok _ _ _ ?_)
    | split
    | lift_lets

theorem State.chargeHeld_ok (s : State) (c e : Nat) (hOk : s.Ok) : (State.chargeHeld s c e).Ok :=
  ok_foldl _ _ _ hOk (fun s h k => State.holdWork_ok s h k)

theorem State.destCheck_ok (s : State) (c : Nat) (hOk : s.Ok) : (State.destCheck s c).Ok := by
  unfold State.destCheck
  repeat' first
    | (simp only [State.modStep_ok, *]; done)
    | (with_reducible refine State.freeHeld_ok _ _ _ ?_ )
    | (with_reducible refine State.chargeHeld_ok _ _ _ ?_ )
    | (with_reducible refine State.bump_ok _ _ _ _ ?_ )
    | (with_reducible refine State.flushAll_ok _ _ ?_ )
    | split

theorem State.progress_ok (s : State) (c : Nat) (hOk : s.Ok) : (State.progress s c).Ok := by
  unfold State.progress
  simp only [State.modStep_ok, *]

theorem State.matchHeld_ok (s : State) (c e : Nat) (r : LandRec) (hOk : s.Ok) : (State.matchHeld s c e r).2.Ok := by
  unfold State.matchHeld
  repeat' first
    | (simp only [State.count_ok, ok_mk, ok_regs, ok_ctxs, ok_pitches, ok_chs, ok_pts, ok_ports, and_self, *]; done)
    | (with_reducible refine State.queueRet_ok _ _ ?_ )
    | (with_reducible refine State.holdWork_ok _ _ ?_ )
    | split

theorem State.landRec_ok (s : State) (c : Nat) (r : LandRec) (again : Bool) (hOk : s.Ok) : (State.landRec s c r again).Ok := by
  unfold State.landRec
  repeat' first
    | (simp only [State.matchHeld_ok, State.modStep_ok, *]; done)
    | (intro x; subst x)
    | (with_reducible refine State.modStep_ok _ _ _ ?_ )
    | split
    | lift_lets

theorem State.landRecs_ok (s : State) (c : Nat) (rs : List LandRec) (again : Bool) (hOk : s.Ok) : (State.landRecs s c rs again).Ok := by
  unfold State.landRecs
  repeat' first
    | (simp only [State.landRec_ok, *]; done)
    | (with_reducible refine ok_foldl _ _ _ ?_ ?_)
    | intro _
    | (with_reducible refine State.destCheck_ok _ _ ?_ )
    | (with_reducible refine State.flushAll_ok _ _ ?_ )

theorem batchWaitOp_ok (c slot : Nat) (s : State) (hOk : s.Ok) : (batchWaitOp c slot s).Ok := by
  unfold batchWaitOp
  repeat' first
    | (simp only [State.requestBatch_ok, *]; done)
    | (intro x; subst x)
    | split
    | lift_lets

end Sys2Proof.Machine
end

