-- ==== Sys2Proof/Laws/ShapeContexts.lean ====
section
/-! SUPPORT. Every operation of Machine/Contexts.lean keeps the shape of the state (`State.Ok`). -/

set_option linter.unusedSimpArgs false

namespace Sys2Proof.Machine

theorem State.enableCtx_ok (s : State) (c : Nat) (hOk : s.Ok) : (State.enableCtx s c).Ok := by
  unfold State.enableCtx
  repeat' first
    | (simp only [State.ignored_ok, State.modCtx_ok, State.postQuery_ok, ok_mk, ok_regs, ok_ctxs, ok_pitches, ok_chs, ok_pts, ok_ports, and_self, *]; done)
    | (intro x; refine State.cut (s := x) ?_ ?_; rotate_left; (clear_value x; intro hx); rotate_left; (subst x))
    | (intro x; subst x)
    | split
    | lift_lets

theorem State.disableCtx_ok (s : State) (c : Nat) (hOk : s.Ok) : (State.disableCtx s c).Ok := by
  unfold State.disableCtx
  simp only [State.tearDown_ok, ok_ite, *]

theorem State.cancelCtx_ok (s : State) (c : Nat) (hOk : s.Ok) : (State.cancelCtx s c).Ok := by
  unfold State.cancelCtx
  repeat' first
    | (simp only [State.cancelStep_ok, State.modCtx_ok, *]; done)
    | (intro x; subst x)
    | split
    | lift_lets

theorem State.ctlWrote_ok (s : State) (c en ca : Nat) (hOk : s.Ok) : (State.ctlWrote s c en ca).Ok := by
  unfold State.ctlWrote
  simp only [State.recWrite_ok, ok_mk, ok_regs, ok_ctxs, ok_pitches, ok_chs, ok_pts, ok_ports, and_self, *]

theorem contextEnableOp_ok (c : Nat) (s : State) (hOk : s.Ok) : (contextEnableOp c s).Ok := by
  unfold contextEnableOp
  repeat' first
    | (simp only [State.ctlWrote_ok, State.enableCtx_ok, *]; done)
    | split

theorem contextDisableOp_ok (c : Nat) (s : State) (hOk : s.Ok) : (contextDisableOp c s).Ok := by
  unfold contextDisableOp
  repeat' first
    | (simp only [State.ctlWrote_ok, State.disableCtx_ok, *]; done)
    | split

theorem contextCancelOp_ok (c : Nat) (s : State) (hOk : s.Ok) : (contextCancelOp c s).Ok := by
  unfold contextCancelOp
  repeat' first
    | (simp only [State.cancelCtx_ok, State.ctlWrote_ok, *]; done)
    | split

theorem State.writeCtl_ok (s : State) (c w : Nat) (hOk : s.Ok) : (State.writeCtl s c w).Ok := by
  unfold State.writeCtl
  repeat' first
    | (simp only [State.cancelCtx_ok, State.disableCtx_ok, State.enableCtx_ok, State.ignored_ok, State.modCtx_ok, *]; done)
    | (intro x; refine State.cut (s := x) ?_ ?_; rotate_left; (clear_value x; intro hx); rotate_left; (subst x))
    | (intro x; subst x)
    | split
    | lift_lets

theorem tentWriteOp_ok (n : Nat) (w : W32) (s : State) (hOk : s.Ok) : (tentWriteOp n w s).Ok := by
  unfold tentWriteOp
  repeat' first
    | (simp only [State.ignored_ok, State.recWrite_ok, State.wr_ok, ok_mk, ok_regs, ok_ctxs, ok_pitches, ok_chs, ok_pts, ok_ports, ok_ite, and_self, *]; done)
    | (intro x; refine State.cut (s := x) ?_ ?_; rotate_left; (clear_value x; intro hx); rotate_left; (subst x))
    | lift_lets

theorem State.cancelFin_ok (s : State) (w : CancelWait) (hOk : s.Ok) : (State.cancelFin s w).Ok := by
  unfold State.cancelFin
  repeat' first
    | (simp only [State.cancelCheck_ok, State.downCheck_ok, ok_mk, ok_regs, ok_ctxs, ok_pitches, ok_chs, ok_pts, ok_ports, and_self, *]; done)
    | split

theorem cancelTimeoutOp_ok (id : Nat) (s : State) (hOk : s.Ok) : (cancelTimeoutOp id s).Ok := by
  unfold cancelTimeoutOp
  repeat' first
    | (simp only [State.event_ok, State.notice_ok, *]; done)
    | (with_reducible refine State.cancelFin_ok _ _ ?_ )
    | split

theorem frameSwitchOp_ok (n : Nat) (s : State) (hOk : s.Ok) : (frameSwitchOp n s).Ok := by
  unfold frameSwitchOp
  repeat' first
    | (simp only [State.modStep_ok, *]; done)
    | split

end Sys2Proof.Machine
end

