-- ==== Sys2Proof/Laws/ShapeControl.lean ====
section
/-! SUPPORT. Every operation of Machine/Control.lean keeps the shape of the state (`State.Ok`). -/

set_option linter.unusedSimpArgs false

namespace Sys2Proof.Machine

theorem State.answer_ok (s : State) (v : Nat) (hOk : s.Ok) : (State.answer s v).Ok := by
  unfold State.answer
  simp only [ok_mk, ok_regs, ok_ctxs, ok_pitches, ok_chs, ok_pts, ok_ports, and_self, *]

theorem State.refuse_ok (s : State) (hOk : s.Ok) : (State.refuse s).Ok := by
  unfold State.refuse
  simp only [ok_mk, ok_regs, ok_ctxs, ok_pitches, ok_chs, ok_pts, ok_ports, and_self, *]

theorem State.ackWrite_ok (s : State) (hOk : s.Ok) : (State.ackWrite s).Ok := by
  unfold State.ackWrite
  simp only [ok_mk, ok_regs, ok_ctxs, ok_pitches, ok_chs, ok_pts, ok_ports, and_self, *]

theorem State.fresh_ok (s : State) (a : Nat) (hOk : s.Ok) : (State.fresh s a).Ok := by
  unfold State.fresh
  simp only [ok_mk, ok_regs, ok_ctxs, ok_pitches, ok_chs, ok_pts, ok_ports, ok_ite, and_self, *]

theorem State.store_ok (s : State) (a mask v : Nat) (hOk : s.Ok) : (State.store s a mask v).Ok := by
  unfold State.store
  simp only [State.fresh_ok, State.wr_ok, *]

theorem State.writeReg_ok (s : State) (a v : Nat) (hOk : s.Ok) : (State.writeReg s a v).Ok := by
  unfold State.writeReg
  repeat' first
    | (simp only [State.ignored_ok, State.store_ok, State.writeCtl_ok, *]; done)
    | split

theorem controlWriteOp_ok (addr : BitVec 23) (data : W32) (apar : Bool) (wpar : BitVec 4) (s : State) (hOk : s.Ok) : (controlWriteOp addr data apar wpar s).Ok := by
  unfold controlWriteOp
  repeat' first
    | (simp only [State.event_ok, State.ignored_ok, State.recWrite_ok, State.refuse_ok, State.writeReg_ok, *]; done)
    | (intro x; subst x)
    | (with_reducible refine State.ackWrite_ok _ ?_ )
    | split
    | lift_lets

theorem w1cWriteOp_ok (addr : BitVec 23) (data hwSet : W32) (s : State) (hOk : s.Ok) : (w1cWriteOp addr data hwSet s).Ok := by
  unfold w1cWriteOp
  repeat' first
    | (simp only [State.recWrite_ok, State.wr_ok, *]; done)
    | (intro x; subst x)
    | (with_reducible refine State.ackWrite_ok _ ?_ )
    | split
    | lift_lets

theorem State.clearRc_ok (s : State) (a : Nat) (hOk : s.Ok) : (State.clearRc s a).Ok := by
  unfold State.clearRc
  repeat' first
    | (simp only [State.wr_ok, *]; done)
    | split

theorem rcReadOp_ok (addr : BitVec 23) (s : State) (hOk : s.Ok) : (rcReadOp addr s).Ok := by
  unfold rcReadOp
  repeat' first
    | (simp only [State.answer_ok, State.clearRc_ok, *]; done)
    | (intro x; subst x)
    | split
    | lift_lets

theorem latchReadOp_ok (addr : BitVec 23) (s : State) (hOk : s.Ok) : (latchReadOp addr s).Ok := by
  unfold latchReadOp
  repeat' first
    | (simp only [State.answer_ok, ok_mk, ok_regs, ok_ctxs, ok_pitches, ok_chs, ok_pts, ok_ports, and_self, *]; done)
    | (intro x; subst x)
    | split
    | lift_lets

theorem ctlErrReadOp_ok (addr : BitVec 23) (apar : Bool) (s : State) (hOk : s.Ok) : (ctlErrReadOp addr apar s).Ok := by
  unfold ctlErrReadOp
  repeat' first
    | (simp only [State.event_ok, State.refuse_ok, ok_ite, *]; done)
    | split

end Sys2Proof.Machine
end

