-- ==== Sys2Proof/Laws/ShapeLantern.lean ====
section
/-! SUPPORT. Every operation of Machine/Lantern.lean keeps the shape of the state (`State.Ok`). -/

set_option linter.unusedSimpArgs false

namespace Sys2Proof.Machine

theorem State.advise_ok (s : State) (why : Nat) (hOk : s.Ok) : (State.advise s why).Ok := by
  unfold State.advise
  repeat' first
    | (simp only [State.notice_ok, ok_mk, ok_regs, ok_ctxs, ok_pitches, ok_chs, ok_pts, ok_ports, and_self, *]; done)
    | (with_reducible refine State.event_ok _ _ _ _ _ ?_ )
    | split

theorem State.detect_ok (s : State) (hOk : s.Ok) : (State.detect s).Ok := by
  unfold State.detect
  repeat' first
    | (simp only [State.count_ok, ok_mk, ok_regs, ok_ctxs, ok_pitches, ok_chs, ok_pts, ok_ports, and_self, *]; done)
    | (intro x; subst x)
    | (with_reducible refine State.advise_ok _ _ ?_ )
    | split
    | lift_lets

theorem State.detects_ok (s : State) (n : Nat) (hOk : s.Ok) : (State.detects s n).Ok := by
  unfold State.detects
  repeat' first
    | (simp only [State.detect_ok, *]; done)
    | (with_reducible refine ok_foldl _ _ _ ?_ ?_)
    | intro _

theorem State.listRemap_ok (s : State) (p : Nat) (res : Nat) (logical : Nat) (phys : Nat) (hOk : s.Ok) :
    (State.listRemap s p res logical phys).Ok := by
  unfold State.listRemap
  repeat' first
    | (simp only [State.countSat_ok, State.modKtl_ok, State.wr_ok, ok_mk, ok_regs, ok_ctxs, ok_pitches, ok_chs, ok_pts, ok_ports, lset_length, and_self, ok_ite, *]; done)
    | with_reducible assumption
    | (intro x; refine State.cut (s := x) ?_ ?_; rotate_left; (clear_value x; intro hx); rotate_left; (subst x))
    | (intro x; subst x)
    | intro _
    | (with_reducible refine State.countSat_ok _ _ _ _ _ ?_)
    | (with_reducible refine State.modKtl_ok _ _ ?_)
    | (with_reducible refine State.wr_ok _ _ _ ?_)
    | split
    | lift_lets

theorem State.remapAt_ok (s : State) (p : Nat) (res : Nat) (logical : Nat) (phys : Nat) (hOk : s.Ok) :
    (State.remapAt s p res logical phys).Ok := by
  unfold State.remapAt
  repeat' first
    | (simp only [State.advise_ok, State.eventAt_ok, State.listRemap_ok, ok_ite, *]; done)
    | with_reducible assumption
    | (intro x; refine State.cut (s := x) ?_ ?_; rotate_left; (clear_value x; intro hx); rotate_left; (subst x))
    | (intro x; subst x)
    | (with_reducible refine State.advise_ok _ _ ?_)
    | (with_reducible refine State.eventAt_ok _ _ _ _ _ _ ?_)
    | (with_reducible refine State.listRemap_ok _ _ _ _ _ ?_)
    | split
    | lift_lets

theorem State.remap_ok (s : State) (p : Nat) (res : Nat) (logical : Nat) (hOk : s.Ok) :
    (State.remap s p res logical).Ok := by
  unfold State.remap
  simp only [State.remapAt_ok, *]

theorem lanternReadOp_ok (bad : BitVec 4) (s : State) (hOk : s.Ok) : (lanternReadOp bad s).Ok := by
  unfold lanternReadOp
  repeat' first
    | (simp only [State.lntRefillAll_ok, State.modEnts_ok, *]; done)
    | (with_reducible refine State.answer_ok _ _ ?_ )
    | (with_reducible refine State.count_ok _ _ _ ?_ )
    | (with_reducible refine State.detect_ok _ ?_ )
    | (with_reducible refine State.remap_ok _ _ _ _ ?_ )
    | (with_reducible refine State.wr_ok _ _ _ ?_ )
    | split
    | (dsimp only)

theorem State.dropBiv_ok (s : State) (hOk : s.Ok) : (State.dropBiv s).Ok := by
  unfold State.dropBiv
  simp only [State.modWait_ok, *]

theorem lanternFlushOp_ok (s : State) (hOk : s.Ok) : (lanternFlushOp s).Ok := by
  unfold lanternFlushOp
  repeat' first
    | (simp only [State.dropBiv_ok, State.modEnts_ok, *]; done)
    | (with_reducible refine State.ackWrite_ok _ ?_ )
    | (with_reducible refine State.recWrite_ok _ _ _ ?_ )
    | (with_reducible refine State.wr_ok _ _ _ ?_ )
    | split

theorem State.bivFail_ok (s : State) (hOk : s.Ok) : (State.bivFail s).Ok := by
  unfold State.bivFail
  repeat' first
    | (simp only [State.lntLost_ok, State.setBit_ok, ok_mk, ok_regs, ok_ctxs, ok_pitches, ok_chs, ok_pts, ok_ports, and_self, *]; done)
    | (with_reducible refine ok_foldl _ _ _ ?_ ?_)
    | intro _
    | (with_reducible refine State.dropBiv_ok _ ?_ )
    | (with_reducible refine State.event_ok _ _ _ _ _ ?_ )
    | split

theorem State.bivBack_ok (s : State) (id : Nat) (b : Bytes) (hOk : s.Ok) : (State.bivBack s id b).Ok := by
  unfold State.bivBack
  repeat' first
    | (simp only [State.modEnts_ok, *]; done)
    | split

theorem State.bivGone_ok (s : State) (id : Nat) (hOk : s.Ok) : (State.bivGone s id).Ok := by
  unfold State.bivGone
  simp only [State.lntRefillAll_ok, State.modEnts_ok, *]

end Sys2Proof.Machine
end

