-- ==== Sys2Proof/Laws/ShapeColls.lean ====
section
/-! SUPPORT. Every operation of Machine/Colls.lean keeps the shape of the state (`State.Ok`). -/

set_option linter.unusedSimpArgs false

namespace Sys2Proof.Machine

theorem State.modInst_ok (s : State) (c k : Nat) (f : CollInst → CollInst) (hOk : s.Ok) : (State.modInst s c k f).Ok := by
  unfold State.modInst
  simp only [State.modStep_ok, *]

theorem State.dropMsg_ok (s : State) (kind : Nat) (hOk : s.Ok) : (State.dropMsg s kind).Ok := by
  unfold State.dropMsg
  simp only [State.count_ok, *]

theorem State.takeShort_ok {s : State} {k : Nat} {d : Short} {t : State} (ok : s.Ok)
    (e : State.takeShort s k = some (d, t)) : t.Ok := by
  unfold State.takeShort at e
  dsimp only at e
  split at e
  · cases e
  · cases e
    exact State.modXch_ok _ _ (State.count_ok _ _ _ (State.modXch_ok _ _ ok))

theorem State.sendShorts_ok (s : State) (c : Nat) (k : Nat) (ms : List (List Nat × Nat × Bytes)) (hOk : s.Ok) :
    (State.sendShorts s c k ms).Ok := by
  unfold State.sendShorts
  repeat' first
    | (simp only [State.modInst_ok, State.openAtom_ok, State.sendShort_ok, ok_mk, ok_regs, ok_ctxs, ok_pitches, ok_chs, ok_pts, ok_ports, lset_length, and_self, ok_ite, *]; done)
    | with_reducible assumption
    | (with_reducible refine ok_foldl _ _ _ ?_ ?_)
    | intro _
    | (with_reducible refine State.modInst_ok _ _ _ _ ?_)
    | (with_reducible refine State.openAtom_ok _ _ _ ?_)
    | (with_reducible refine State.sendShort_ok _ _ _ _ _ _ _ ?_)
    | split

theorem State.formRing_ok (s : State) (c : Nat) (k : Nat) (key : List Nat) (dst : Nat) (up : Bool) (data : Bytes) (hOk : s.Ok) :
    (State.formRing s c k key dst up data).Ok := by
  unfold State.formRing
  repeat' first
    | (simp only [State.endWait_ok, State.launchChunk_ok, State.launchUp_ok, State.modInst_ok, State.openAtom_ok, State.waitForm_ok, ok_mk, ok_regs, ok_ctxs, ok_pitches, ok_chs, ok_pts, ok_ports, lset_length, and_self, ok_ite, *]; done)
    | with_reducible assumption
    | (intro x; refine State.cut (s := x) ?_ ?_; rotate_left; (clear_value x; intro hx); rotate_left; (subst x))
    | (intro x; subst x)
    | intro _
    | (with_reducible refine State.endWait_ok _ _ ?_)
    | (with_reducible refine State.launchChunk_ok _ _ _ _ _ _ _ _ _ _ ?_)
    | (with_reducible refine State.launchUp_ok _ _ _ _ _ _ _ _ _ ?_)
    | (with_reducible refine State.modInst_ok _ _ _ _ ?_)
    | (with_reducible refine State.openAtom_ok _ _ _ ?_)
    | (with_reducible refine State.waitForm_ok _ _ ?_)
    | (with_reducible refine State.takeChunk_ok _ _ ?_)
    | split
    | lift_lets

theorem State.sendRing_ok (s : State) (c : Nat) (k : Nat) (cs : List (List Nat × Nat × RingH × Bytes)) (hOk : s.Ok) :
    (State.sendRing s c k cs).Ok := by
  unfold State.sendRing
  repeat' first
    | (simp only [State.formRing_ok, *]; done)
    | with_reducible assumption
    | (with_reducible refine ok_foldl _ _ _ ?_ ?_)
    | intro _
    | (with_reducible refine State.formRing_ok _ _ _ _ _ _ _ ?_)

theorem State.readRow_ok (c : Nat) (st : Step) (s : State) (t : Nat) (hOk : s.Ok) : (State.readRow c st s t).Ok := by
  unfold State.readRow
  repeat' first
    | (simp only [State.memPost_ok, *]; done)
    | (with_reducible refine ok_foldl _ _ _ ?_ ?_)
    | intro _

theorem State.reread_ok (s : State) (c : Nat) (hOk : s.Ok) : (State.reread s c).Ok := by
  unfold State.reread
  repeat' first
    | (simp only [State.modStep_ok, State.readRow_ok, ok_mk, ok_regs, ok_ctxs, ok_pitches, ok_chs, ok_pts, ok_ports, lset_length, and_self, *]; done)
    | with_reducible assumption
    | (with_reducible refine ok_foldl _ _ _ ?_ ?_)
    | (intro x; refine State.cut (s := x) ?_ ?_; rotate_left; (clear_value x; intro hx); rotate_left; (subst x))
    | (intro x; subst x)
    | intro _
    | (with_reducible refine State.modStep_ok _ _ _ ?_)
    | (with_reducible refine State.readRow_ok _ _ _ _ ?_)
    | split
    | lift_lets

theorem State.guard_ok (s : State) (c : Nat) (f : Step → Step) (hOk : s.Ok) : (State.guard s c f).Ok := by
  unfold State.guard
  repeat' first
    | (simp only [State.count_ok, State.modStep_ok, State.reread_ok, *]; done)
    | with_reducible assumption
    | (intro x; refine State.cut (s := x) ?_ ?_; rotate_left; (clear_value x; intro hx); rotate_left; (subst x))
    | (intro x; subst x)
    | intro _
    | (with_reducible refine State.count_ok _ _ _ ?_)
    | (with_reducible refine State.modStep_ok _ _ _ ?_)
    | (with_reducible refine State.reread_ok _ _ ?_)
    | split
    | lift_lets

theorem State.ecCheck_ok (s : State) (c : Nat) (hOk : s.Ok) : (State.ecCheck s c).Ok := by
  unfold State.ecCheck
  repeat' first
    | (simp only [State.guard_ok, *]; done)
    | split

theorem State.countsCheck_ok (s : State) (c : Nat) (hOk : s.Ok) : (State.countsCheck s c).Ok := by
  unfold State.countsCheck
  repeat' first
    | (simp only [State.ctxFault_ok, State.ecCheck_ok, State.modStep_ok, *]; done)
    | split

theorem State.closeInst_ok (s : State) (c : Nat) (k : Nat) (hOk : s.Ok) : (State.closeInst s c k).Ok := by
  unfold State.closeInst
  repeat' first
    | (simp only [State.atomCheck_ok, State.chainDone_ok, State.countsCheck_ok, State.destCheck_ok, State.modStep_ok, ok_mk, ok_regs, ok_ctxs, ok_pitches, ok_chs, ok_pts, ok_ports, lset_length, and_self, ok_ite, *]; done)
    | with_reducible assumption
    | (intro x; refine State.cut (s := x) ?_ ?_; rotate_left; (clear_value x; intro hx); rotate_left; (subst x))
    | (intro x; subst x)
    | intro _
    | (with_reducible refine State.atomCheck_ok _ _ ?_)
    | (with_reducible refine State.chainDone_ok _ _ _ ?_)
    | (with_reducible refine State.countsCheck_ok _ _ ?_)
    | (with_reducible refine State.destCheck_ok _ _ ?_)
    | (with_reducible refine State.modStep_ok _ _ _ ?_)
    | split
    | lift_lets

theorem State.writeResult_ok (s : State) (c : Nat) (x : CollInst) (vals : List Nat) (hOk : s.Ok) : (State.writeResult s c x vals).Ok := by
  unfold State.writeResult
  simp only [State.memWriteAny_ok, State.modInst_ok, *]

theorem State.redo_ok (s : State) (c : Nat) (hOk : s.Ok) : (State.redo s c).Ok := by
  unfold State.redo
  simp only [State.modStep_ok, *]

theorem State.drawFirst_ok (s : State) (c : Nat) (g : Grp) (x : CollInst) (hOk : s.Ok) :
    (State.drawFirst s c g x).Ok := by
  unfold State.drawFirst
  simp only [State.chargeMem_ok, ok_ite, *]

theorem State.drawInput_ok (s : State) (c : Nat) (g : Grp) (x : CollInst) (h : RingH) (i : Nat) (pitch : Nat) (hOk : s.Ok) :
    (State.drawInput s c g x h i pitch).Ok := by
  unfold State.drawInput
  simp only [State.chargeMem_ok, ok_ite, *]

theorem State.lapFailed_ok (s : State) (c : Nat) (x : CollInst) (g : Grp) (w : List Nat) (hOk : s.Ok) :
    (State.lapFailed s c x g w).Ok := by
  unfold State.lapFailed
  repeat' first
    | (simp only [State.collFault_ok, State.count_ok, State.detects_ok, State.drawFirst_ok, State.modInst_ok, State.redo_ok, ok_mk, ok_regs, ok_ctxs, ok_pitches, ok_chs, ok_pts, ok_ports, lset_length, and_self, ok_ite, *]; done)
    | with_reducible assumption
    | (intro x; refine State.cut (s := x) ?_ ?_; rotate_left; (clear_value x; intro hx); rotate_left; (subst x))
    | (intro x; subst x)
    | intro _
    | (with_reducible refine State.collFault_ok _ _ _ _ _ ?_)
    | (with_reducible refine State.count_ok _ _ _ ?_)
    | (with_reducible refine State.detects_ok _ _ ?_)
    | (with_reducible refine State.drawFirst_ok _ _ _ _ ?_)
    | (with_reducible refine State.modInst_ok _ _ _ _ ?_)
    | (with_reducible refine State.redo_ok _ _ ?_)
    | split
    | lift_lets

theorem State.sendUps_ok (s : State) (c : Nat) (k : Nat) (pods : List Nat) (ups : List (Nat × Bool × List Nat)) (hOk : s.Ok) :
    (State.sendUps s c k pods ups).Ok := by
  unfold State.sendUps
  repeat' first
    | (simp only [State.formRing_ok, *]; done)
    | with_reducible assumption
    | (with_reducible refine ok_foldl _ _ _ ?_ ?_)
    | intro _
    | (with_reducible refine State.formRing_ok _ _ _ _ _ _ _ ?_)
    | split

theorem State.advance_ok (c k n : Nat) (s : State) (ok : s.Ok) : (State.advance c k n s).Ok := by
  induction n generalizing s with
  | zero => exact ok
  | succ n ih =>
    unfold State.advance
    split
    · dsimp only
      repeat' first
        | with_reducible exact ok
        | (with_reducible refine ok_ite ?_ ?_)
        | split
        | (with_reducible refine ih _ ?_)
        | (with_reducible refine State.collFault_ok _ _ _ _ _ ?_)
        | (with_reducible refine State.ctxFault_ok _ _ _ ?_)
        | (with_reducible refine State.closeInst_ok _ _ _ ?_)
        | (with_reducible refine State.writeResult_ok _ _ _ _ ?_)
        | (with_reducible refine State.lapFailed_ok _ _ _ _ _ ?_)
        | (with_reducible refine State.modStep_ok _ _ _ ?_)
        | (with_reducible refine State.modInst_ok _ _ _ _ ?_)
        | (with_reducible refine State.sendShorts_ok _ _ _ _ ?_)
        | (with_reducible refine State.sendRing_ok _ _ _ _ ?_)
        | (with_reducible refine State.sendUps_ok _ _ _ _ _ ?_)
    · exact ok

theorem State.go_ok (s : State) (c k : Nat) (ok : s.Ok) : (State.go s c k).Ok :=
  State.advance_ok c k advFuel s ok

theorem State.instHeard_ok (s : State) (c : Nat) (k : Nat) (hOk : s.Ok) : (State.instHeard s c k).Ok := by
  unfold State.instHeard
  simp only [State.modInst_ok, ok_mk, ok_regs, ok_ctxs, ok_pitches, ok_chs, ok_pts, ok_ports, lset_length, and_self, *]

theorem State.consumeShort_ok (s : State) (c : Nat) (k : Nat) (m : Short) (fails : Nat) (hOk : s.Ok) :
    (State.consumeShort s c k m fails).Ok := by
  unfold State.consumeShort
  repeat' first
    | (simp only [State.collFault_ok, State.count_ok, State.detects_ok, State.digest_ok, State.dropMsg_ok, State.go_ok, State.instHeard_ok, State.modInst_ok, State.openAtom_ok, State.progress_ok, ok_mk, ok_regs, ok_ctxs, ok_pitches, ok_chs, ok_pts, ok_ports, lset_length, and_self, ok_ite, *]; done)
    | with_reducible assumption
    | (intro x; refine State.cut (s := x) ?_ ?_; rotate_left; (clear_value x; intro hx); rotate_left; (subst x))
    | (intro x; subst x)
    | intro _
    | (with_reducible refine State.collFault_ok _ _ _ _ _ ?_)
    | (with_reducible refine State.count_ok _ _ _ ?_)
    | (with_reducible refine State.detects_ok _ _ ?_)
    | (with_reducible refine State.digest_ok _ _ _ _ _ ?_)
    | (with_reducible refine State.dropMsg_ok _ _ ?_)
    | (with_reducible refine State.go_ok _ _ _ ?_)
    | (with_reducible refine State.instHeard_ok _ _ _ ?_)
    | (with_reducible refine State.modInst_ok _ _ _ _ ?_)
    | (with_reducible refine State.openAtom_ok _ _ _ ?_)
    | (with_reducible refine State.progress_ok _ _ ?_)
    | split
    | lift_lets

theorem State.instMsg_ok (s : State) (m : Short) (fails : Nat) (hOk : s.Ok) : (State.instMsg s m fails).Ok := by
  unfold State.instMsg
  repeat' first
    | (simp only [State.consumeShort_ok, State.dropMsg_ok, ok_mk, ok_regs, ok_ctxs, ok_pitches, ok_chs, ok_pts, ok_ports, and_self, *]; done)
    | (intro x; subst x)
    | split
    | lift_lets

theorem instMsgOp_ok (k fails : Nat) (s : State) (hOk : s.Ok) : (instMsgOp k fails s).Ok := by
  unfold instMsgOp
  repeat' first
    | (simp only [State.instMsg_ok, *]; done)
    | (split <;> try (rename_i e; have hx := State.takeShort_ok (by assumption) e))

theorem instSumOp_ok (k : Nat) (s : State) (hOk : s.Ok) : (instSumOp k s).Ok := by
  unfold instSumOp
  simp only [instMsgOp_ok, ok_mk, ok_regs, ok_ctxs, ok_pitches, ok_chs, ok_pts, ok_ports, lset_length, and_self, *]

theorem State.consumeRing_ok (s : State) (c : Nat) (k : Nat) (l : Landed) (fails : Nat) (hOk : s.Ok) :
    (State.consumeRing s c k l fails).Ok := by
  unfold State.consumeRing
  repeat' first
    | (simp only [State.collFault_ok, State.count_ok, State.detects_ok, State.digest_ok, State.drawInput_ok, State.go_ok, State.instHeard_ok, State.modInst_ok, State.openAtom_ok, State.progress_ok, ok_mk, ok_regs, ok_ctxs, ok_pitches, ok_chs, ok_pts, ok_ports, lset_length, and_self, ok_ite, *]; done)
    | with_reducible assumption
    | (intro x; refine State.cut (s := x) ?_ ?_; rotate_left; (clear_value x; intro hx); rotate_left; (subst x))
    | (intro x; subst x)
    | intro _
    | (with_reducible refine State.collFault_ok _ _ _ _ _ ?_)
    | (with_reducible refine State.count_ok _ _ _ ?_)
    | (with_reducible refine State.detects_ok _ _ ?_)
    | (with_reducible refine State.digest_ok _ _ _ _ _ ?_)
    | (with_reducible refine State.drawInput_ok _ _ _ _ _ _ _ ?_)
    | (with_reducible refine State.go_ok _ _ _ ?_)
    | (with_reducible refine State.instHeard_ok _ _ _ ?_)
    | (with_reducible refine State.modInst_ok _ _ _ _ ?_)
    | (with_reducible refine State.openAtom_ok _ _ _ ?_)
    | (with_reducible refine State.progress_ok _ _ ?_)
    | split
    | lift_lets

theorem ringChunkOp_ok (fails : Nat) (s : State) (hOk : s.Ok) : (ringChunkOp fails s).Ok := by
  unfold ringChunkOp
  repeat' first
    | (simp only [State.consumeRing_ok, State.count_ok, State.modXch_ok, ok_mk, ok_regs, ok_ctxs, ok_pitches, ok_chs, ok_pts, ok_ports, and_self, *]; done)
    | (intro x; subst x)
    | split
    | lift_lets

theorem State.consumeKept_ok (s : State) (c : Nat) (k : Nat) (m : Short × Nat) (hOk : s.Ok) :
    (State.consumeKept s c k m).Ok := by
  unfold State.consumeKept
  repeat' first
    | (simp only [State.consumeShort_ok, State.dropMsg_ok, ok_ite, *]; done)
    | with_reducible assumption
    | (with_reducible refine State.consumeShort_ok _ _ _ _ _ ?_)
    | (with_reducible refine State.dropMsg_ok _ _ ?_)
    | split

theorem State.consumeKeptRing_ok (s : State) (c : Nat) (k : Nat) (l : Landed × Nat) (hOk : s.Ok) :
    (State.consumeKeptRing s c k l).Ok := by
  unfold State.consumeKeptRing
  repeat' first
    | (simp only [State.consumeRing_ok, State.count_ok, ok_ite, *]; done)
    | with_reducible assumption
    | (with_reducible refine State.consumeRing_ok _ _ _ _ _ ?_)
    | (with_reducible refine State.count_ok _ _ _ ?_)
    | split

theorem State.openInst_ok (s : State) (c : Nat) (x : CollInst) (hOk : s.Ok) : (State.openInst s c x).Ok := by
  unfold State.openInst
  repeat' first
    | (simp only [State.atomCheck_ok, State.collFault_ok, State.consumeKept_ok, State.consumeKeptRing_ok, State.drawFirst_ok, State.go_ok, State.modStep_ok, ok_mk, ok_regs, ok_ctxs, ok_pitches, ok_chs, ok_pts, ok_ports, lset_length, and_self, ok_ite, *]; done)
    | with_reducible assumption
    | (with_reducible refine ok_foldl _ _ _ ?_ ?_)
    | (intro x; refine State.cut (s := x) ?_ ?_; rotate_left; (clear_value x; intro hx); rotate_left; (subst x))
    | (intro x; subst x)
    | intro _
    | (with_reducible refine State.atomCheck_ok _ _ ?_)
    | (with_reducible refine State.collFault_ok _ _ _ _ _ ?_)
    | (with_reducible refine State.consumeKept_ok _ _ _ _ ?_)
    | (with_reducible refine State.consumeKeptRing_ok _ _ _ _ ?_)
    | (with_reducible refine State.drawFirst_ok _ _ _ _ ?_)
    | (with_reducible refine State.go_ok _ _ _ ?_)
    | (with_reducible refine State.modStep_ok _ _ _ ?_)
    | split
    | lift_lets

theorem State.openColl_ok (s : State) (c : Nat) (x : CollInst) (hOk : s.Ok) : (State.openColl s c x).Ok := by
  unfold State.openColl
  simp only [State.modStep_ok, State.openInst_ok, ok_mk, ok_regs, ok_ctxs, ok_pitches, ok_chs, ok_pts, ok_ports, lset_length, and_self, ok_ite, *]

theorem State.countStart_ok (s : State) (c : Nat) (hOk : s.Ok) : (State.countStart s c).Ok := by
  unfold State.countStart
  repeat' first
    | (simp only [State.modStep_ok, State.openInst_ok, *]; done)
    | (intro x; refine State.cut (s := x) ?_ ?_; rotate_left; (clear_value x; intro hx); rotate_left; (subst x))
    | (intro x; subst x)
    | split
    | lift_lets

theorem collTimeoutOp_ok (c k : Nat) (s : State) (hOk : s.Ok) : (collTimeoutOp c k s).Ok := by
  unfold collTimeoutOp
  repeat' first
    | (simp only [State.collFault_ok, *]; done)
    | split

theorem shortQuietOp_ok (c k : Nat) (s : State) (hOk : s.Ok) : (shortQuietOp c k s).Ok := by
  unfold shortQuietOp
  repeat' first
    | (simp only [State.go_ok, State.modInst_ok, State.redo_ok, State.sendShort_ok, *]; done)
    | (with_reducible refine ok_foldl _ _ _ ?_ ?_)
    | intro _
    | (with_reducible refine State.modInst_ok _ _ _ _ ?_ )
    | split

end Sys2Proof.Machine
end

