-- ==== Sys2Proof/Laws/ShapeBackups.lean ====
section
/-! SUPPORT. Every operation of Machine/Backups.lean keeps the shape of the state (`State.Ok`). -/

set_option linter.unusedSimpArgs false

namespace Sys2Proof.Machine

theorem State.dropRefs_ok (s : State) (p : Nat → Bool) (hOk : s.Ok) : (State.dropRefs s p).Ok := by
  unfold State.dropRefs
  simp only [State.modXch_ok, *]

theorem State.modCopy_ok (s : State) (expert : Bool) (f : Infu → Infu) (hOk : s.Ok) : (State.modCopy s expert f).Ok := by
  unfold State.modCopy
  simp only [ok_mk, ok_regs, ok_ctxs, ok_pitches, ok_chs, ok_pts, ok_ports, and_self, *]

theorem State.infFail_ok (s : State) (expert : Bool) (hOk : s.Ok) : (State.infFail s expert).Ok := by
  unfold State.infFail
  repeat' first
    | (simp only [State.dropRefs_ok, State.modCopy_ok, *]; done)
    | (intro x; subst x)
    | (with_reducible refine State.event_ok _ _ _ _ _ ?_ )
    | (with_reducible refine State.setBit_ok _ _ _ ?_ )
    | split
    | lift_lets

theorem State.infDone_ok (s : State) (expert : Bool) (hOk : s.Ok) : (State.infDone s expert).Ok := by
  unfold State.infDone
  repeat' first
    | (simp only [State.modCopy_ok, State.setBit_ok, *]; done)
    | (with_reducible refine State.event_ok _ _ _ _ _ ?_ )

theorem State.shutDown_ok (s : State) (hOk : s.Ok) : (State.shutDown s).Ok := by
  unfold State.shutDown
  repeat' first
    | (simp only [State.isolateCore_ok, State.isolateMem_ok, State.wr_ok, ok_mk, ok_regs, ok_ctxs, ok_pitches, ok_chs, ok_pts, ok_ports, List.length_map, and_self, *]; done)
    | (with_reducible refine ok_foldl _ _ _ ?_ ?_)
    | (intro x; refine State.cut (s := x) ?_ ?_; rotate_left; (clear_value x; intro hx); rotate_left; (subst x))
    | intro _
    | lift_lets

theorem State.snapEnd_ok (s : State) (hOk : s.Ok) : (State.snapEnd s).Ok := by
  unfold State.snapEnd
  repeat' first
    | (simp only [State.shutDown_ok, ok_mk, ok_regs, ok_ctxs, ok_pitches, ok_chs, ok_pts, ok_ports, and_self, *]; done)
    | (intro x; subst x)
    | split
    | lift_lets

theorem State.snapFail_ok (s : State) (hOk : s.Ok) : (State.snapFail s).Ok := by
  unfold State.snapFail
  repeat' first
    | (simp only [State.dropRefs_ok, State.setBit_ok, *]; done)
    | (with_reducible refine State.event_ok _ _ _ _ _ ?_ )
    | (with_reducible refine State.snapEnd_ok _ ?_ )
    | split

theorem State.copiesLost_ok (s : State) (gone : Nat → Bool) (lost : Bool) (hOk : s.Ok) : (State.copiesLost s gone lost).Ok := by
  unfold State.copiesLost
  repeat' first
    | (simp only [State.infFail_ok, State.snapFail_ok, ok_ite, *]; done)
    | (intro x; refine State.cut (s := x) ?_ ?_; rotate_left; (clear_value x; intro hx); rotate_left; (subst x))
    | lift_lets

theorem State.refProgress_ok (s : State) (r : Nat) (hOk : s.Ok) : (State.refProgress s r).Ok := by
  unfold State.refProgress
  repeat' first
    | (simp only [State.modCopy_ok, ok_mk, ok_regs, ok_ctxs, ok_pitches, ok_chs, ok_pts, ok_ports, and_self, *]; done)
    | split

end Sys2Proof.Machine
end

