-- ==== Sys2Proof/Laws/ShapeLoss.lean ====
section
/-! SUPPORT. Every operation of Machine/Loss.lean keeps the shape of the state (`State.Ok`). -/

set_option linter.unusedSimpArgs false

namespace Sys2Proof.Machine

theorem State.spreadNotice_ok (s : State) (pay : Bytes) (from_ : Option Nat) (hOk : s.Ok) : (State.spreadNotice s pay from_).Ok := by
  unfold State.spreadNotice
  repeat' first
    | (simp only [State.sendMembership_ok, *]; done)
    | (with_reducible refine ok_foldl _ _ _ ?_ ?_)
    | intro _
    | split

theorem State.dropFor_ok (s : State) (l : Nat) (ok : s.Ok) : (State.dropFor s l).Ok := by
  unfold State.dropFor
  have key : ∀ (t : State) (x : Links), t.Ok → x.ports.length = 72 → ({ t with links := x } : State).Ok :=
    fun t x h e => ⟨h.1, h.2, h.3, h.4, h.5, e⟩
  exact State.modXch_ok _ _ (key _ _ (State.count_ok _ _ _ ok) (by simp [ok.6]))

theorem State.lossStep_ok (s : State) (l : Nat) (c : Nat) (hOk : s.Ok) : (State.lossStep s l c).Ok := by
  unfold State.lossStep
  repeat' first
    | (simp only [State.cancelLoss_ok, State.ctxFault_ok, State.modStep_ok, ok_mk, ok_regs, ok_ctxs, ok_pitches, ok_chs, ok_pts, ok_ports, lset_length, and_self, ok_ite, *]; done)
    | with_reducible assumption
    | (intro x; refine State.cut (s := x) ?_ ?_; rotate_left; (clear_value x; intro hx); rotate_left; (subst x))
    | (intro x; subst x)
    | intro _
    | (with_reducible refine State.cancelLoss_ok _ _ ?_)
    | (with_reducible refine State.ctxFault_ok _ _ _ ?_)
    | (with_reducible refine State.modStep_ok _ _ _ ?_)
    | split
    | lift_lets

theorem State.declareLost_ok (s : State) (l decl : Nat) (pay : Bytes) (from_ : Option Nat) (hOk : s.Ok) : (State.declareLost s l decl pay from_).Ok := by
  unfold State.declareLost
  try lift_lets
  repeat' first
    | (simp only [State.copiesLost_ok, State.count_ok, State.dropFor_ok, State.event_ok, State.lossStep_ok, State.notice_ok, State.spreadNotice_ok, State.wr_ok, ok_mk, ok_regs, ok_ctxs, ok_pitches, ok_chs, ok_pts, ok_ports, and_self, *]; done)
    | (with_reducible refine ok_foldl _ _ _ ?_ ?_)
    | (intro x; refine State.cut (s := x) ?_ ?_; rotate_left; (clear_value x; intro hx); rotate_left; (subst x))
    | intro _
    | split

theorem State.declareOwn_ok (s : State) (l : Nat) (hOk : s.Ok) : (State.declareOwn s l).Ok := by
  unfold State.declareOwn
  simp only [State.declareLost_ok, *]

theorem lostDeclOp_ok (w : W32) (s : State) (hOk : s.Ok) : (lostDeclOp w s).Ok := by
  unfold lostDeclOp
  repeat' first
    | (simp only [State.declareOwn_ok, State.recWrite_ok, *]; done)
    | (with_reducible refine State.ackWrite_ok _ ?_ )
    | split

theorem State.castOut_ok (s : State) (hOk : s.Ok) : (State.castOut s).Ok := by
  unfold State.castOut
  repeat' first
    | (simp only [State.ctxFault_ok, ok_mk, ok_regs, ok_ctxs, ok_pitches, ok_chs, ok_pts, ok_ports, and_self, *]; done)
    | (with_reducible refine ok_foldl _ _ _ ?_ ?_)
    | intro _

theorem lossNoticeOp_ok (s : State) (hOk : s.Ok) : (lossNoticeOp s).Ok := by
  unfold lossNoticeOp
  repeat' first
    | (simp only [State.castOut_ok, State.declareLost_ok, State.detect_ok, State.modXch_ok, ok_mk, ok_regs, ok_ctxs, ok_pitches, ok_chs, ok_pts, ok_ports, lset_length, and_self, ok_ite, *]; done)
    | with_reducible assumption
    | (intro x; refine State.cut (s := x) ?_ ?_; rotate_left; (clear_value x; intro hx); rotate_left; (subst x))
    | (intro x; subst x)
    | intro _
    | (with_reducible refine State.castOut_ok _ ?_)
    | (with_reducible refine State.declareLost_ok _ _ _ _ _ ?_)
    | (with_reducible refine State.detect_ok _ ?_)
    | (with_reducible refine State.modXch_ok _ _ ?_)
    | split
    | lift_lets

end Sys2Proof.Machine
end

