-- ==== Sys2Proof/Laws/ShapeTransit.lean ====
section
/-! SUPPORT. Every operation of Machine/Transit.lean keeps the shape of the state (`State.Ok`). -/

set_option linter.unusedSimpArgs false

namespace Sys2Proof.Machine

theorem State.landPeak_ok (s : State) (c : Nat) (x : Place) (hOk : s.Ok) : (State.landPeak s c x).Ok := by
  unfold State.landPeak
  simp only [State.wr_ok, *]

theorem State.regionPlace_ok (s : State) (h : FlitH) (hOk : s.Ok) : (State.regionPlace s h).1.Ok := by
  unfold State.regionPlace
  repeat' first
    | (simp only [State.count_ok, State.ctxFault_ok, State.landPeak_ok, ok_mk, ok_regs, ok_ctxs, ok_pitches, ok_chs, ok_pts, ok_ports, lset_length, and_self, ok_ite, *]; done)
    | with_reducible assumption
    | (intro x; refine State.cut (s := x) ?_ ?_; rotate_left; (clear_value x; intro hx); rotate_left; (subst x))
    | (intro x; subst x)
    | intro _
    | (with_reducible refine State.count_ok _ _ _ ?_)
    | (with_reducible refine State.ctxFault_ok _ _ _ ?_)
    | (with_reducible refine State.landPeak_ok _ _ _ ?_)
    | split
    | lift_lets

theorem State.transitPlace_ok (s : State) (p : Nat) (h : FlitH) (hOk : s.Ok) : (State.transitPlace s p h).1.Ok := by
  unfold State.transitPlace
  repeat' first
    | (simp only [ok_ite, *]; done)
    | with_reducible assumption
    | (with_reducible refine State.regionPlace_ok _ _ ?_)
    | split

theorem State.landingPlace_ok (s : State) (p : Nat) (h : FlitH) (ch : ChunkH) (hop : Hop) (hdr : Bytes) (hOk : s.Ok) :
    (State.landingPlace s p h ch hop hdr).1.Ok := by
  unfold State.landingPlace
  dsimp only
  repeat' first
    | (simp only [State.ctxFault_ok, State.landPeak_ok, State.modStep_ok, ok_mk, ok_regs, ok_ctxs, ok_pitches, ok_chs, ok_pts, ok_ports, lset_length, and_self, ok_ite, *]; done)
    | with_reducible assumption
    | (intro x; refine State.cut (s := x) ?_ ?_; rotate_left; (clear_value x; intro hx); rotate_left; (subst x))
    | (intro x; subst x)
    | intro _
    | (with_reducible refine State.ctxFault_ok _ _ _ ?_)
    | (with_reducible refine State.landPeak_ok _ _ _ ?_)
    | (with_reducible refine State.modStep_ok _ _ _ ?_)
    | (with_reducible refine State.transitPlace_ok _ _ _ ?_)
    | split
    | lift_lets

theorem State.takeSlot_ok (s : State) (p : Nat) (x : Place) (h : FlitH) (steep : Nat) (kind : Nat) (hOk : s.Ok) :
    (State.takeSlot s p x h steep kind).2.Ok := by
  unfold State.takeSlot
  simp only [State.modXch_ok, ok_mk, ok_regs, ok_ctxs, ok_pitches, ok_chs, ok_pts, ok_ports, lset_length, and_self, *]

theorem State.dropSlot_ok (s : State) (id : Nat) (hOk : s.Ok) : (State.dropSlot s id).Ok := by
  unfold State.dropSlot
  simp only [State.modXch_ok, *]

theorem State.purgeSlot_ok (s : State) (id : Nat) (hOk : s.Ok) : (State.purgeSlot s id).Ok := by
  unfold State.purgeSlot
  refine ok_ite hOk ?_
  dsimp only
  simp only [State.dropSlot_ok, ok_mk, ok_regs, ok_ctxs, ok_pitches, ok_chs, ok_pts, ok_ports, List.length_map, and_self, *]

theorem State.badChunk_ok (s : State) (h : FlitH) (pay : Bytes) (hOk : s.Ok) : (State.badChunk s h pay).Ok := by
  unfold State.badChunk
  simp only [State.count_ok, ok_ite, *]

theorem State.noteDiscard_ok (s : State) (h : FlitH) (kind : Nat) (hOk : s.Ok) : (State.noteDiscard s h kind).Ok := by
  unfold State.noteDiscard
  simp only [State.modStep_ok, ok_mk, ok_regs, ok_ctxs, ok_pitches, ok_chs, ok_pts, ok_ports, lset_length, and_self, ok_ite, *]

theorem State.openPart_ok (s : State) (port : Nat) (h : FlitH) (pay : Bytes) (ok : s.Ok) :
    (State.openPart s port h pay).1.Ok := by
  unfold State.openPart
  dsimp only
  split
  · exact State.noteDiscard_ok _ _ _ (State.badChunk_ok _ _ _ (State.detect_ok _ ok))
  · split
    · exact ok
    · split
      · exact ok
      · split
        · exact ok
        · rename_i hop _
          split
          · exact ok
          · have hp : ∀ r : State × Option Place, (if steepedRecs h pay ≠ 0 ∧ s.poolFull (portPitch port) = true then
                (s.count 0x7001C (steepedRecs h pay), none)
                else s.landingPlace (portPitch port) h (decChunkH pay) hop (pay.take 32)) = r → r.1.Ok := by
              intro r e
              subst e
              split
              · exact State.count_ok _ _ _ ok
              · exact State.landingPlace_ok _ _ _ _ _ _ ok
            split
            · rename_i e
              exact hp _ e
            · rename_i e
              exact State.takeSlot_ok _ _ _ _ _ _ (hp _ e)

theorem State.forwardRegion_ok (s : State) (id : Nat) (bytes : Bytes) (hOk : s.Ok) :
    (State.forwardRegion s id bytes).Ok := by
  unfold State.forwardRegion
  repeat' first
    | (simp only [State.dropSlot_ok, State.enqueue_ok, State.shortOut_ok, ok_mk, ok_regs, ok_ctxs, ok_pitches, ok_chs, ok_pts, ok_ports, lset_length, and_self, ok_ite, *]; done)
    | with_reducible assumption
    | (intro x; refine State.cut (s := x) ?_ ?_; rotate_left; (clear_value x; intro hx); rotate_left; (subst x))
    | (intro x; subst x)
    | intro _
    | (with_reducible refine State.dropSlot_ok _ _ ?_)
    | (with_reducible refine State.enqueue_ok _ _ _ _ ?_)
    | (with_reducible refine State.shortOut_ok _ _ _ _ _ _ ?_)
    | split
    | lift_lets

theorem State.regionWrite_ok (s : State) (x : PoolSlot) (bytes : Bytes) (hOk : s.Ok) :
    (State.regionWrite s x bytes).Ok := by
  unfold State.regionWrite
  repeat' first
    | (simp only [State.memWrite_ok, State.memWriteAny_ok, State.modXch_ok, ok_mk, ok_regs, ok_ctxs, ok_pitches, ok_chs, ok_pts, ok_ports, lset_length, and_self, ok_ite, *]; done)
    | with_reducible assumption
    | (intro x; refine State.cut (s := x) ?_ ?_; rotate_left; (clear_value x; intro hx); rotate_left; (subst x))
    | (intro x; subst x)
    | intro _
    | (with_reducible refine State.memWrite_ok _ _ _ _ _ _ ?_)
    | (with_reducible refine State.memWriteAny_ok _ _ _ _ _ _ _ ?_)
    | (with_reducible refine State.modXch_ok _ _ ?_)
    | split
    | lift_lets

theorem State.arrival_ok (s : State) (ekind port : Nat) (h : FlitH) (tick : Nat) (pay : Bytes) (hOk : s.Ok) : (State.arrival s ekind port h tick pay).Ok := by
  unfold State.arrival
  simp only [State.modPort_ok, State.record_ok, *]

theorem State.closePart_ok (s : State) (p : Part) (bytes : Bytes) (hOk : s.Ok) : (State.closePart s p bytes).Ok := by
  unfold State.closePart
  repeat' first
    | (simp only [State.arrival_ok, State.landHere_ok, State.regionWrite_ok, ok_ite, *]; done)
    | with_reducible assumption
    | (intro x; refine State.cut (s := x) ?_ ?_; rotate_left; (clear_value x; intro hx); rotate_left; (subst x))
    | (intro x; subst x)
    | intro _
    | (with_reducible refine State.arrival_ok _ _ _ _ _ _ ?_)
    | (with_reducible refine State.landHere_ok _ _ ?_)
    | (with_reducible refine State.regionWrite_ok _ _ _ ?_)
    | split
    | lift_lets

theorem State.setParts_ok (s : State) (f : List Part → List Part) (hOk : s.Ok) : (State.setParts s f).Ok := by
  unfold State.setParts
  simp only [ok_mk, ok_regs, ok_ctxs, ok_pitches, ok_chs, ok_pts, ok_ports, and_self, *]

theorem State.dropPartial_ok (s : State) (port : Nat) (h : FlitH) (hOk : s.Ok) : (State.dropPartial s port h).Ok := by
  unfold State.dropPartial
  repeat' first
    | (simp only [State.purgeSlot_ok, State.setParts_ok, *]; done)
    | with_reducible assumption
    | (with_reducible refine ok_foldl _ _ _ ?_ ?_)
    | (intro x; refine State.cut (s := x) ?_ ?_; rotate_left; (clear_value x; intro hx); rotate_left; (subst x))
    | (intro x; subst x)
    | intro _
    | (with_reducible refine State.purgeSlot_ok _ _ ?_)
    | (with_reducible refine State.setParts_ok _ _ ?_)
    | split
    | lift_lets

theorem State.landFlit_ok (s : State) (port : Nat) (h : FlitH) (pay : Bytes) (hOk : s.Ok) :
    (State.landFlit s port h pay).Ok := by
  unfold State.landFlit
  dsimp only
  repeat' first
    | (simp only [State.closePart_ok, State.dropPartial_ok, State.enqueue_ok, State.setParts_ok, ok_mk, ok_regs, ok_ctxs, ok_pitches, ok_chs, ok_pts, ok_ports, lset_length, and_self, ok_ite, *]; done)
    | with_reducible assumption
    | (intro x; refine State.cut (s := x) ?_ ?_; rotate_left; (clear_value x; intro hx); rotate_left; (subst x))
    | (intro x; subst x)
    | intro _
    | (with_reducible refine State.closePart_ok _ _ _ ?_)
    | (with_reducible refine State.dropPartial_ok _ _ _ ?_)
    | (with_reducible refine State.enqueue_ok _ _ _ _ ?_)
    | (with_reducible refine State.setParts_ok _ _ ?_)
    | (with_reducible refine State.openPart_ok _ _ _ _ ?_)
    | split
    | lift_lets

theorem State.passShort_ok (s : State) (p : Nat) (h : FlitH) (pay : Bytes) (ok : s.Ok) : (State.passShort s p h pay).Ok := by
  unfold State.passShort
  refine ok_ite (State.shortOut_ok _ _ _ _ _ _ ok) ?_
  have hp := State.regionPlace_ok s h ok
  split
  · rename_i e
    rw [e] at hp
    exact hp
  · rename_i s' x e
    rw [e] at hp
    have ht := State.takeSlot_ok s' p x h 0 0 hp
    dsimp only
    split
    · exact ht
    · exact State.regionWrite_ok _ _ _ ht

theorem State.landShort_ok (s : State) (port : Nat) (h : FlitH) (pay : Bytes) (hOk : s.Ok) :
    (State.landShort s port h pay).Ok := by
  unfold State.landShort
  repeat' first
    | (simp only [State.arrival_ok, State.modXch_ok, State.passShort_ok, ok_mk, ok_regs, ok_ctxs, ok_pitches, ok_chs, ok_pts, ok_ports, lset_length, and_self, ok_ite, *]; done)
    | with_reducible assumption
    | intro _
    | (with_reducible refine State.arrival_ok _ _ _ _ _ _ ?_)
    | (with_reducible refine State.modXch_ok _ _ ?_)
    | (with_reducible refine State.passShort_ok _ _ _ _ ?_)
    | split

theorem State.moveFlits_ok (s : State) (d : Nat) (fs : List QFlit) (ok : s.Ok) : (State.moveFlits s d fs).1.Ok := by
  unfold State.moveFlits
  dsimp only
  refine ok_foldl_fst _ _ _ ok ?_
  intro a q h
  unfold OkFst at *
  generalize (if q.h.ftype = 1 ∧ q.h.index ≠ 0 then a.2.1 else a.1.choosePort d q.h.chunk) = n
  cases n with
  | none => exact h
  | some n => exact State.enqueue_ok _ _ _ _ h

theorem State.spread_ok (s : State) (n : Nat) (d : Nat) (hOk : s.Ok) : (State.spread s n d).Ok := by
  unfold State.spread
  repeat' first
    | (simp only [State.modPort_ok, State.setParts_ok, ok_ite, *]; done)
    | with_reducible assumption
    | (intro x; refine State.cut (s := x) ?_ ?_; rotate_left; (clear_value x; intro hx); rotate_left; (subst x))
    | (intro x; subst x)
    | intro _
    | (with_reducible refine State.modPort_ok _ _ _ ?_)
    | (with_reducible refine State.setParts_ok _ _ ?_)
    | (with_reducible refine State.moveFlits_ok _ _ _ ?_)
    | split
    | lift_lets

theorem State.reroutePort_ok (s : State) (n : Nat) (hOk : s.Ok) : (State.reroutePort s n).Ok := by
  unfold State.reroutePort
  repeat' first
    | (simp only [State.declareOwn_ok, State.detect_ok, State.spread_ok, ok_ite, *]; done)
    | with_reducible assumption
    | (intro x; refine State.cut (s := x) ?_ ?_; rotate_left; (clear_value x; intro hx); rotate_left; (subst x))
    | (intro x; subst x)
    | (with_reducible refine State.declareOwn_ok _ _ ?_)
    | (with_reducible refine State.detect_ok _ ?_)
    | (with_reducible refine State.spread_ok _ _ _ ?_)
    | split
    | lift_lets

theorem State.retryLost_ok (s : State) (n : Nat) (hOk : s.Ok) : (State.retryLost s n).Ok := by
  unfold State.retryLost
  repeat' first
    | (simp only [State.modPort_ok, State.spread_ok, ok_mk, ok_regs, ok_ctxs, ok_pitches, ok_chs, ok_pts, ok_ports, lset_length, and_self, ok_ite, *]; done)
    | with_reducible assumption
    | intro _
    | (with_reducible refine State.modPort_ok _ _ _ ?_)
    | (with_reducible refine State.spread_ok _ _ _ ?_)
    | split

theorem State.linkDown_ok (s : State) (n : Nat) (hOk : s.Ok) : (State.linkDown s n).Ok := by
  unfold State.linkDown
  repeat' first
    | (simp only [State.modPort_ok, State.notice_ok, State.remapAt_ok, State.reroutePort_ok, State.setParts_ok, ok_mk, ok_regs, ok_ctxs, ok_pitches, ok_chs, ok_pts, ok_ports, lset_length, and_self, ok_ite, *]; done)
    | with_reducible assumption
    | (intro x; refine State.cut (s := x) ?_ ?_; rotate_left; (clear_value x; intro hx); rotate_left; (subst x))
    | (intro x; subst x)
    | intro _
    | (with_reducible refine State.modPort_ok _ _ _ ?_)
    | (with_reducible refine State.notice_ok _ _ ?_)
    | (with_reducible refine State.remapAt_ok _ _ _ _ _ ?_)
    | (with_reducible refine State.reroutePort_ok _ _ ?_)
    | (with_reducible refine State.setParts_ok _ _ ?_)
    | split
    | lift_lets

theorem State.linkFail_ok (s : State) (n cause : Nat) (hOk : s.Ok) : (State.linkFail s n cause).Ok := by
  unfold State.linkFail
  repeat' first
    | (simp only [State.detect_ok, State.eventAt_ok, *]; done)
    | (with_reducible refine State.linkDown_ok _ _ ?_ )

theorem State.linkProto_ok (s : State) (n : Nat) (hOk : s.Ok) : (State.linkProto s n).Ok := by
  unfold State.linkProto
  repeat' first
    | (simp only [State.linkFail_ok, State.modPort_ok, ok_ite, *]; done)
    | (intro x; refine State.cut (s := x) ?_ ?_; rotate_left; (clear_value x; intro hx); rotate_left; (subst x))
    | (intro x; subst x)
    | lift_lets

end Sys2Proof.Machine
end

