-- ==== Sys2Proof/Laws/ShapeKettle.lean ====
section
/-! SUPPORT. Every operation of Machine/Kettle.lean keeps the shape of the state (`State.Ok`). -/

set_option linter.unusedSimpArgs false

namespace Sys2Proof.Machine

theorem State.dropLoad_ok (s : State) (i : Img) (hOk : s.Ok) : (State.dropLoad s i).Ok := by
  unfold State.dropLoad
  simp only [State.modDone_ok, *]

theorem imageLoadDoneOp_ok (c p : Nat) (s : State) (hOk : s.Ok) : (imageLoadDoneOp c p s).Ok := by
  unfold imageLoadDoneOp
  repeat' first
    | (simp only [State.ctxFault_ok, State.dropLoad_ok, State.modKtl_ok, State.reloadImage_ok, *]; done)
    | (intro x; subst x)
    | split
    | lift_lets

theorem State.postLines_ok (s : State) (c : Nat) (st : Step) (r : Run) (hOk : s.Ok) :
    (State.postLines s c st r).Ok := by
  unfold State.postLines
  repeat' first
    | (simp only [State.memPost_ok, ok_ite, *]; done)
    | with_reducible assumption
    | (with_reducible refine ok_foldl _ _ _ ?_ ?_)
    | (intro x; refine State.cut (s := x) ?_ ?_; rotate_left; (clear_value x; intro hx); rotate_left; (subst x))
    | (intro x; subst x)
    | intro _
    | (with_reducible refine State.memPost_ok _ _ ?_)
    | split
    | lift_lets

theorem State.dropLines_ok (s : State) (r : Run) (hOk : s.Ok) : (State.dropLines s r).Ok := by
  unfold State.dropLines
  simp only [State.modDone_ok, ok_ite, *]

theorem State.startTile_ok (s : State) (k : Nat) (c : Nat) (st : Step) (kind : Nat) (g : Nat) (cg : Nat) (sl : Nat) (hOk : s.Ok) :
    (State.startTile s k c st kind g cg sl).Ok := by
  unfold State.startTile
  repeat' first
    | (simp only [State.holdImages_ok, State.modKtl_ok, State.modStep_ok, State.postLines_ok, ok_mk, ok_regs, ok_ctxs, ok_pitches, ok_chs, ok_pts, ok_ports, lset_length, and_self, ok_ite, *]; done)
    | with_reducible assumption
    | (intro x; refine State.cut (s := x) ?_ ?_; rotate_left; (clear_value x; intro hx); rotate_left; (subst x))
    | (intro x; subst x)
    | intro _
    | (with_reducible refine State.holdImages_ok _ _ ?_)
    | (with_reducible refine State.modKtl_ok _ _ ?_)
    | (with_reducible refine State.modStep_ok _ _ _ ?_)
    | (with_reducible refine State.postLines_ok _ _ _ _ ?_)
    | split
    | lift_lets

theorem State.needFor_ok (s : State) (n : Nat) (k : Nat) (hOk : s.Ok) : (State.needFor s n k).Ok := by
  unfold State.needFor
  repeat' first
    | (simp only [State.needImages_ok, *]; done)
    | with_reducible assumption
    | (intro x; refine State.cut (s := x) ?_ ?_; rotate_left; (clear_value x; intro hx); rotate_left; (subst x))
    | (intro x; subst x)
    | intro _
    | (with_reducible refine State.needImages_ok _ _ _ ?_)
    | split
    | lift_lets

theorem tileStartOp_ok (k : Nat) (s : State) (hOk : s.Ok) : (tileStartOp k s).Ok := by
  unfold tileStartOp
  repeat' first
    | (simp only [State.needFor_ok, State.startTile_ok, ok_ite, *]; done)
    | with_reducible assumption
    | intro _
    | (with_reducible refine State.needFor_ok _ _ _ ?_)
    | (with_reducible refine State.startTile_ok _ _ _ _ _ _ _ _ ?_)
    | split

theorem State.endTiles_ok (s : State) (c : Nat) (hOk : s.Ok) : (State.endTiles s c).Ok := by
  unfold State.endTiles
  repeat' first
    | (simp only [State.dropImages_ok, *]; done)
    | split

theorem State.afterScore_ok (s : State) (c : Nat) (hOk : s.Ok) : (State.afterScore s c).Ok := by
  unfold State.afterScore
  repeat' first
    | (simp only [State.countStart_ok, State.guard_ok, *]; done)
    | (with_reducible refine State.ecCheck_ok _ _ ?_ )

theorem State.freeCore_ok (s : State) (k : Nat) (hOk : s.Ok) : (State.freeCore s k).Ok := by
  unfold State.freeCore
  simp only [State.dropLines_ok, State.modKtl_ok, ok_mk, ok_regs, ok_ctxs, ok_pitches, ok_chs, ok_pts, ok_ports, lset_length, and_self, *]

theorem State.storeTile_ok (s : State) (k : Nat) (c : Nat) (st : Step) (r : Run) (hOk : s.Ok) :
    (State.storeTile s k c st r).Ok := by
  unfold State.storeTile
  repeat' first
    | (simp only [State.afterScore_ok, State.endTiles_ok, State.freeCore_ok, State.guard_ok, State.progress_ok, ok_ite, *]; done)
    | with_reducible assumption
    | (intro x; refine State.cut (s := x) ?_ ?_; rotate_left; (clear_value x; intro hx); rotate_left; (subst x))
    | (intro x; subst x)
    | intro _
    | (with_reducible refine State.afterScore_ok _ _ ?_)
    | (with_reducible refine State.endTiles_ok _ _ ?_)
    | (with_reducible refine State.freeCore_ok _ _ ?_)
    | (with_reducible refine State.guard_ok _ _ _ ?_)
    | (with_reducible refine State.progress_ok _ _ ?_)
    | split
    | lift_lets

theorem State.storeGrads_ok (s : State) (c : Nat) (st : Step) (p : Nat) (hv : HostView) (r : Run) (hOk : s.Ok) : (State.storeGrads s c st p hv r).Ok := by
  unfold State.storeGrads
  repeat' first
    | (simp only [State.chargeMem_ok, State.memWrite_ok, State.modStep_ok, *]; done)
    | (with_reducible refine ok_foldl _ _ _ ?_ ?_)
    | intro _
    | (with_reducible refine State.progress_ok _ _ ?_ )

theorem State.chargeTile_ok (s : State) (c : Nat) (st : Step) (p : Nat) (r : Run) (hOk : s.Ok) :
    (State.chargeTile s c st p r).Ok := by
  unfold State.chargeTile
  repeat' first
    | (simp only [State.energy_ok, State.staging_ok, ok_ite, *]; done)
    | with_reducible assumption
    | (intro x; refine State.cut (s := x) ?_ ?_; rotate_left; (clear_value x; intro hx); rotate_left; (subst x))
    | (intro x; subst x)
    | (with_reducible refine State.energy_ok _ _ _ _ _ ?_)
    | (with_reducible refine State.staging_ok _ _ _ ?_)
    | split
    | lift_lets

theorem tileCompleteOp_ok (k : Nat) (hv : HostView) (s : State) (hOk : s.Ok) : (tileCompleteOp k hv s).Ok := by
  unfold tileCompleteOp
  repeat' first
    | (simp only [State.chargeTicks_ok, State.chargeTile_ok, State.ctxFault_ok, State.dropFrame_ok, State.freeCore_ok, State.passFrame_ok, State.storeGrads_ok, State.storeTile_ok, ok_mk, ok_regs, ok_ctxs, ok_pitches, ok_chs, ok_pts, ok_ports, lset_length, and_self, ok_ite, *]; done)
    | with_reducible assumption
    | (intro x; refine State.cut (s := x) ?_ ?_; rotate_left; (clear_value x; intro hx); rotate_left; (subst x))
    | (intro x; subst x)
    | (with_reducible refine State.chargeTicks_ok _ _ _ ?_)
    | (with_reducible refine State.chargeTile_ok _ _ _ _ _ ?_)
    | (with_reducible refine State.ctxFault_ok _ _ _ ?_)
    | (with_reducible refine State.dropFrame_ok _ _ ?_)
    | (with_reducible refine State.freeCore_ok _ _ ?_)
    | (with_reducible refine State.passFrame_ok _ _ ?_)
    | (with_reducible refine State.storeGrads_ok _ _ _ _ _ _ ?_)
    | (with_reducible refine State.storeTile_ok _ _ _ _ _ ?_)
    | split
    | lift_lets

theorem State.spareLane_ok (s : State) (k l : Nat) (hOk : s.Ok) : (State.spareLane s k l).Ok := by
  unfold State.spareLane
  repeat' first
    | (simp only [State.modKtl_ok, State.remap_ok, ok_ite, *]; done)
    | split

theorem tileCheckFailOp_ok (k : Nat) (l : Nat) (spared : Bool) (s : State) (hOk : s.Ok) :
    (tileCheckFailOp k l spared s).Ok := by
  unfold tileCheckFailOp
  repeat' first
    | (simp only [State.detect_ok, State.dropFrame_ok, State.freeCore_ok, State.modKtl_ok, State.passFrame_ok, State.spareLane_ok, ok_mk, ok_regs, ok_ctxs, ok_pitches, ok_chs, ok_pts, ok_ports, lset_length, and_self, ok_ite, *]; done)
    | with_reducible assumption
    | (intro x; refine State.cut (s := x) ?_ ?_; rotate_left; (clear_value x; intro hx); rotate_left; (subst x))
    | (intro x; subst x)
    | intro _
    | (with_reducible refine State.detect_ok _ ?_)
    | (with_reducible refine State.dropFrame_ok _ _ ?_)
    | (with_reducible refine State.freeCore_ok _ _ ?_)
    | (with_reducible refine State.modKtl_ok _ _ ?_)
    | (with_reducible refine State.passFrame_ok _ _ ?_)
    | (with_reducible refine State.spareLane_ok _ _ _ ?_)
    | split
    | lift_lets

theorem State.abandon_ok (s : State) (k : Nat) (hOk : s.Ok) : (State.abandon s k).Ok := by
  unfold State.abandon
  repeat' first
    | (simp only [State.freeCore_ok, State.passFrame_ok, *]; done)
    | (intro x; subst x)
    | split
    | lift_lets

theorem State.loseAcc_ok (s : State) (k : Nat) (hOk : s.Ok) : (State.loseAcc s k).Ok := by
  unfold State.loseAcc
  repeat' first
    | (simp only [State.abandon_ok, State.modStep_ok, *]; done)
    | (intro x; subst x)
    | split
    | lift_lets

theorem State.reloadRegion_ok (s : State) (p : Nat) (hOk : s.Ok) : (State.reloadRegion s p).Ok := by
  unfold State.reloadRegion
  repeat' first
    | (simp only [State.modKtl_ok, State.reloadImage_ok, ok_mk, ok_regs, ok_ctxs, ok_pitches, ok_chs, ok_pts, ok_ports, lset_length, and_self, *]; done)
    | with_reducible assumption
    | (with_reducible refine ok_foldl _ _ _ ?_ ?_)
    | (intro x; refine State.cut (s := x) ?_ ?_; rotate_left; (clear_value x; intro hx); rotate_left; (subst x))
    | (intro x; subst x)
    | intro _
    | (with_reducible refine State.modKtl_ok _ _ ?_)
    | (with_reducible refine State.reloadImage_ok _ _ _ _ ?_)
    | lift_lets

theorem State.loseBank_ok (s : State) (p : Nat) (hOk : s.Ok) : (State.loseBank s p).Ok := by
  unfold State.loseBank
  repeat' first
    | (simp only [State.makeRoom_ok, State.modKtl_ok, State.reloadRegion_ok, State.shrinkRegion_ok, ok_mk, ok_regs, ok_ctxs, ok_pitches, ok_chs, ok_pts, ok_ports, lset_length, and_self, *]; done)
    | with_reducible assumption
    | (intro x; refine State.cut (s := x) ?_ ?_; rotate_left; (clear_value x; intro hx); rotate_left; (subst x))
    | (intro x; subst x)
    | intro _
    | (with_reducible refine State.makeRoom_ok _ _ _ _ ?_)
    | (with_reducible refine State.modKtl_ok _ _ ?_)
    | (with_reducible refine State.reloadRegion_ok _ _ ?_)
    | (with_reducible refine State.shrinkRegion_ok _ _ _ ?_)
    | lift_lets

theorem State.badPiece_ok (s : State) (c : Nat) (k : Nat) (i : Nat) (hOk : s.Ok) : (State.badPiece s c k i).Ok := by
  unfold State.badPiece
  simp only [State.modInst_ok, ok_mk, ok_regs, ok_ctxs, ok_pitches, ok_chs, ok_pts, ok_ports, lset_length, and_self, ok_ite, *]

theorem parityFailOp_ok (kind : Nat) (p : Nat) (i : Nat) (sub : Nat) (s : State) (hOk : s.Ok) :
    (parityFailOp kind p i sub s).Ok := by
  unfold parityFailOp
  repeat' first
    | (simp only [State.abandon_ok, State.badPiece_ok, State.count_ok, State.ctxFault_ok, State.detect_ok, State.loseAcc_ok, State.loseBank_ok, State.loseHeld_ok, State.noteDiscard_ok, State.purgeSlot_ok, State.reloadImage_ok, State.reloadRegion_ok, State.remap_ok, State.retryLost_ok, State.setParts_ok, ok_mk, ok_regs, ok_ctxs, ok_pitches, ok_chs, ok_pts, ok_ports, lset_length, and_self, ok_ite, *]; done)
    | with_reducible assumption
    | (intro x; refine State.cut (s := x) ?_ ?_; rotate_left; (clear_value x; intro hx); rotate_left; (subst x))
    | (intro x; subst x)
    | intro _
    | (with_reducible refine State.abandon_ok _ _ ?_)
    | (with_reducible refine State.badPiece_ok _ _ _ _ ?_)
    | (with_reducible refine State.count_ok _ _ _ ?_)
    | (with_reducible refine State.ctxFault_ok _ _ _ ?_)
    | (with_reducible refine State.detect_ok _ ?_)
    | (with_reducible refine State.loseAcc_ok _ _ ?_)
    | (with_reducible refine State.loseBank_ok _ _ ?_)
    | (with_reducible refine State.loseHeld_ok _ _ ?_)
    | (with_reducible refine State.noteDiscard_ok _ _ _ ?_)
    | (with_reducible refine State.purgeSlot_ok _ _ ?_)
    | (with_reducible refine State.reloadImage_ok _ _ _ _ ?_)
    | (with_reducible refine State.reloadRegion_ok _ _ ?_)
    | (with_reducible refine State.remap_ok _ _ _ _ ?_)
    | (with_reducible refine State.retryLost_ok _ _ ?_)
    | (with_reducible refine State.setParts_ok _ _ ?_)
    | split
    | lift_lets

end Sys2Proof.Machine
end

