-- ==== Sys2Proof/Laws/ShapePours.lean ====
section
/-! SUPPORT. Every operation of Machine/Pours.lean keeps the shape of the state (`State.Ok`). -/

set_option linter.unusedSimpArgs false

namespace Sys2Proof.Machine

theorem State.sfn_ok (s : State) (p c n : Nat) (k : SfnCnt) (hOk : s.Ok) : (State.sfn s p c n k).Ok := by
  unfold State.sfn
  repeat' first
    | (simp only [State.count_ok, *]; done)
    | (with_reducible refine State.energy_ok _ _ _ _ _ ?_ )

theorem State.writeGrad_ok (s : State) (c t : Nat) (st : Step) (hv : HostView) (hOk : s.Ok) : (State.writeGrad s c t st hv).Ok := by
  unfold State.writeGrad
  repeat' first
    | (simp only [State.chargeRead_ok, *]; done)
    | (with_reducible refine ok_foldl _ _ _ ?_ ?_)
    | intro _
    | (with_reducible refine State.digestLines_ok _ _ _ _ _ ?_ )
    | (with_reducible refine State.memWrite_ok _ _ _ _ _ _ ?_ )
    | (with_reducible refine State.sfn_ok _ _ _ _ _ ?_ )
    | split

theorem State.writeRow_ok (s : State) (c : Nat) (t : Nat) (st : Step) (acc : List W32) (hOk : s.Ok) :
    (State.writeRow s c t st acc).Ok := by
  unfold State.writeRow
  repeat' first
    | (simp only [State.digest_ok, State.memWrite_ok, State.staging_ok, *]; done)
    | with_reducible assumption
    | (intro x; refine State.cut (s := x) ?_ ?_; rotate_left; (clear_value x; intro hx); rotate_left; (subst x))
    | (intro x; subst x)
    | (with_reducible refine State.digest_ok _ _ _ _ _ ?_)
    | (with_reducible refine State.memWrite_ok _ _ _ _ _ _ ?_)
    | (with_reducible refine State.staging_ok _ _ _ ?_)
    | lift_lets

theorem State.readSlot_ok (c : Nat) (st : Step) (s : State) (i : Nat) (hOk : s.Ok) :
    (State.readSlot c st s i).Ok := by
  unfold State.readSlot
  repeat' first
    | (simp only [State.memPost_ok, *]; done)
    | with_reducible assumption
    | (with_reducible refine ok_foldl _ _ _ ?_ ?_)
    | intro _
    | (with_reducible refine State.memPost_ok _ _ ?_)

theorem State.readSlots_ok (s : State) (c : Nat) (t : Nat) (st : Step) (hOk : s.Ok) :
    (State.readSlots s c t st).Ok := by
  unfold State.readSlots
  repeat' first
    | (simp only [State.modStep_ok, State.readSlot_ok, ok_mk, ok_regs, ok_ctxs, ok_pitches, ok_chs, ok_pts, ok_ports, lset_length, and_self, *]; done)
    | with_reducible assumption
    | (with_reducible refine ok_foldl _ _ _ ?_ ?_)
    | (intro x; refine State.cut (s := x) ?_ ?_; rotate_left; (clear_value x; intro hx); rotate_left; (subst x))
    | (intro x; subst x)
    | intro _
    | (with_reducible refine State.modStep_ok _ _ _ ?_)
    | (with_reducible refine State.readSlot_ok _ _ _ _ ?_)
    | lift_lets

theorem pourCombineOp_ok (c : Nat) (t : Nat) (hv : HostView) (s : State) (hOk : s.Ok) :
    (pourCombineOp c t hv s).Ok := by
  unfold pourCombineOp
  repeat' first
    | (simp only [State.ctxFault_ok, State.modStep_ok, State.readSlots_ok, State.writeGrad_ok, State.writeRow_ok, ok_mk, ok_regs, ok_ctxs, ok_pitches, ok_chs, ok_pts, ok_ports, lset_length, and_self, ok_ite, *]; done)
    | with_reducible assumption
    | (intro x; refine State.cut (s := x) ?_ ?_; rotate_left; (clear_value x; intro hx); rotate_left; (subst x))
    | (intro x; subst x)
    | intro _
    | (with_reducible refine State.ctxFault_ok _ _ _ ?_)
    | (with_reducible refine State.modStep_ok _ _ _ ?_)
    | (with_reducible refine State.readSlots_ok _ _ _ _ ?_)
    | (with_reducible refine State.writeGrad_ok _ _ _ _ _ ?_)
    | (with_reducible refine State.writeRow_ok _ _ _ _ _ ?_)
    | split
    | lift_lets

end Sys2Proof.Machine
end

