-- ==== Sys2Proof/Laws/ShapeReturns.lean ====
section
/-! SUPPORT. Every operation of Machine/Returns.lean keeps the shape of the state (`State.Ok`). -/

set_option linter.unusedSimpArgs false

namespace Sys2Proof.Machine

theorem State.discardIn_ok (s : State) (a : Nat) (hOk : s.Ok) : (State.discardIn s a).Ok := by
  unfold State.discardIn
  repeat' first
    | (simp only [State.countSat_ok, State.modStep_ok, *]; done)
    | (with_reducible refine ok_foldl _ _ _ ?_ ?_)
    | intro _

theorem State.lostIn_ok (s : State) (a : Nat) (hOk : s.Ok) : (State.lostIn s a).Ok := by
  unfold State.lostIn
  simp only [State.detect_ok, State.discardIn_ok, *]

theorem State.recordIn_ok (s : State) (a : Nat) (p : Bytes) (tags : Option Nat) (hOk : s.Ok) : (State.recordIn s a p tags).Ok := by
  unfold State.recordIn
  simp only [State.record_ok, *]

theorem State.chunkReturn_ok (s : State) (c e t r : Nat) (hOk : s.Ok) : (State.chunkReturn s c e t r).Ok := by
  unfold State.chunkReturn
  simp only [State.modXch_ok, *]

theorem State.drainReturn_ok (s : State) (c e t r : Nat) (hOk : s.Ok) : (State.drainReturn s c e t r).Ok := by
  unfold State.drainReturn
  repeat' first
    | (simp only [State.drained_ok, ok_mk, ok_regs, ok_ctxs, ok_pitches, ok_chs, ok_pts, ok_ports, ok_ite, and_self, *]; done)
    | split

theorem State.keepRow_ok (s : State) (c : Nat) (st : Step) (t r : Nat) (row : Bytes) (hOk : s.Ok) : (State.keepRow s c st t r row).Ok := by
  unfold State.keepRow
  repeat' first
    | (simp only [State.digestLines_ok, State.memWrite_ok, *]; done)
    | split

theorem State.slotLanded_ok (s : State) (c : Nat) (t : Nat) (i : Nat) (row : Bytes) (hOk : s.Ok) :
    (State.slotLanded s c t i row).Ok := by
  unfold State.slotLanded
  repeat' first
    | (simp only [State.memWrite_ok, State.modStep_ok, ok_mk, ok_regs, ok_ctxs, ok_pitches, ok_chs, ok_pts, ok_ports, lset_length, and_self, ok_ite, *]; done)
    | with_reducible assumption
    | (intro x; refine State.cut (s := x) ?_ ?_; rotate_left; (clear_value x; intro hx); rotate_left; (subst x))
    | (intro x; subst x)
    | intro _
    | (with_reducible refine State.memWrite_ok _ _ _ _ _ _ ?_)
    | (with_reducible refine State.modStep_ok _ _ _ ?_)
    | split
    | lift_lets

theorem State.landReturn_ok (s : State) (c : Nat) (st : Step) (t : Nat) (r : Nat) (row : Bytes) (hOk : s.Ok) :
    (State.landReturn s c st t r row).Ok := by
  unfold State.landReturn
  repeat' first
    | (simp only [State.bump_ok, State.chunkReturn_ok, State.keepRow_ok, State.modStep_ok, State.progress_ok, State.slotLanded_ok, ok_mk, ok_regs, ok_ctxs, ok_pitches, ok_chs, ok_pts, ok_ports, lset_length, and_self, ok_ite, *]; done)
    | with_reducible assumption
    | (intro x; refine State.cut (s := x) ?_ ?_; rotate_left; (clear_value x; intro hx); rotate_left; (subst x))
    | (intro x; subst x)
    | intro _
    | (with_reducible refine State.bump_ok _ _ _ _ ?_)
    | (with_reducible refine State.chunkReturn_ok _ _ _ _ _ ?_)
    | (with_reducible refine State.keepRow_ok _ _ _ _ _ _ ?_)
    | (with_reducible refine State.modStep_ok _ _ _ ?_)
    | (with_reducible refine State.progress_ok _ _ ?_)
    | (with_reducible refine State.slotLanded_ok _ _ _ _ _ ?_)
    | split
    | lift_lets

theorem State.pourReturn_ok (s : State) (c e t r fmt : Nat) (back : Bool) (rec_ : Bytes) (hOk : s.Ok) : (State.pourReturn s c e t r fmt back rec_).Ok := by
  unfold State.pourReturn
  repeat' first
    | (simp only [State.count_ok, State.drainReturn_ok, State.landReturn_ok, *]; done)
    | split

theorem State.badTag_ok (s : State) (c : Nat) (hOk : s.Ok) : (State.badTag s c).Ok := by
  unfold State.badTag
  repeat' first
    | (simp only [State.count_ok, State.ctxFault_ok, State.detect_ok, ok_ite, *]; done)
    | (intro x; refine State.cut (s := x) ?_ ?_; rotate_left; (clear_value x; intro hx); rotate_left; (subst x))
    | (intro x; subst x)
    | (with_reducible refine State.modCtx_ok _ _ _ ?_ )
    | lift_lets

theorem State.takeReturn_ok (s : State) (fmt : Nat) (back : Bool) (rec_ : Bytes) (hOk : s.Ok) : (State.takeReturn s fmt back rec_).Ok := by
  unfold State.takeReturn
  repeat' first
    | (simp only [State.badTag_ok, State.count_ok, State.detect_ok, State.pourReturn_ok, *]; done)
    | (intro x; subst x)
    | split
    | lift_lets

theorem State.chargeAnswer_ok (s : State) (a c e n : Nat) (g : Option Nat) (hOk : s.Ok) : (State.chargeAnswer s a c e n g).Ok := by
  unfold State.chargeAnswer
  repeat' first
    | (simp only [State.chargeCore_ok, ok_mk, ok_regs, ok_ctxs, ok_pitches, ok_chs, ok_pts, ok_ports, and_self, *]; done)
    | split

theorem State.heldAnswer_ok (s : State) (c : Nat) (e : Nat) (fmt : Nat) (back : Bool) (g : Nat) (row : Bytes) (hOk : s.Ok) :
    (State.heldAnswer s c e fmt back g row).Ok := by
  unfold State.heldAnswer
  repeat' first
    | (simp only [State.count_ok, State.holdWork_ok, State.queueRet_ok, ok_mk, ok_regs, ok_ctxs, ok_pitches, ok_chs, ok_pts, ok_ports, lset_length, and_self, ok_ite, *]; done)
    | with_reducible assumption
    | intro _
    | (with_reducible refine State.count_ok _ _ _ ?_)
    | (with_reducible refine State.holdWork_ok _ _ ?_)
    | (with_reducible refine State.queueRet_ok _ _ ?_)
    | split

theorem State.answerRec_ok (s : State) (a : Nat) (c : Nat) (e : Nat) (fmt : Nat) (back : Bool) (rec_ : Bytes) (hOk : s.Ok) :
    (State.answerRec s a c e fmt back rec_).Ok := by
  unfold State.answerRec
  repeat' first
    | (simp only [State.answered_ok, State.heldAnswer_ok, State.queueRet_ok, State.takeReturn_ok, ok_ite, *]; done)
    | with_reducible assumption
    | (intro x; refine State.cut (s := x) ?_ ?_; rotate_left; (clear_value x; intro hx); rotate_left; (subst x))
    | (intro x; subst x)
    | (with_reducible refine State.answered_ok _ _ _ _ ?_)
    | (with_reducible refine State.heldAnswer_ok _ _ _ _ _ _ _ ?_)
    | (with_reducible refine State.queueRet_ok _ _ ?_)
    | (with_reducible refine State.takeReturn_ok _ _ _ _ ?_)
    | split
    | lift_lets

theorem State.sharedRow_ok (s : State) (c : Nat) (e : Nat) (j : Nat) (t : Nat) (fmt : Nat) (row : Bytes) (hOk : s.Ok) :
    (State.sharedRow s c e j t fmt row).Ok := by
  unfold State.sharedRow
  repeat' first
    | (simp only [State.count_ok, State.modStep_ok, State.progress_ok, State.slotLanded_ok, ok_mk, ok_regs, ok_ctxs, ok_pitches, ok_chs, ok_pts, ok_ports, lset_length, and_self, ok_ite, *]; done)
    | with_reducible assumption
    | (intro x; refine State.cut (s := x) ?_ ?_; rotate_left; (clear_value x; intro hx); rotate_left; (subst x))
    | (intro x; subst x)
    | intro _
    | (with_reducible refine State.count_ok _ _ _ ?_)
    | (with_reducible refine State.modStep_ok _ _ _ ?_)
    | (with_reducible refine State.progress_ok _ _ ?_)
    | (with_reducible refine State.slotLanded_ok _ _ _ _ _ ?_)
    | split
    | lift_lets

theorem State.staleAnswers_ok (s : State) (items : List Bytes) (hOk : s.Ok) : (State.staleAnswers s items).Ok := by
  unfold State.staleAnswers
  simp only [State.count_ok, *]

theorem State.answers_ok (s : State) (ty : Nat) (a : Nat) (p : Bytes) (par : List Bool) (hOk : s.Ok) :
    (State.answers s ty a p par).Ok := by
  unfold State.answers
  repeat' first
    | (simp only [State.answerRec_ok, State.chargeAnswer_ok, State.count_ok, State.discardIn_ok, State.lostIn_ok, State.recordIn_ok, State.sharedRow_ok, State.staleAnswers_ok, ok_ite, *]; done)
    | with_reducible assumption
    | (with_reducible refine ok_foldl _ _ _ ?_ ?_)
    | (intro x; refine State.cut (s := x) ?_ ?_; rotate_left; (clear_value x; intro hx); rotate_left; (subst x))
    | (intro x; subst x)
    | intro _
    | (with_reducible refine State.answerRec_ok _ _ _ _ _ _ _ ?_)
    | (with_reducible refine State.chargeAnswer_ok _ _ _ _ _ _ ?_)
    | (with_reducible refine State.count_ok _ _ _ ?_)
    | (with_reducible refine State.discardIn_ok _ _ ?_)
    | (with_reducible refine State.lostIn_ok _ _ ?_)
    | (with_reducible refine State.recordIn_ok _ _ _ _ ?_)
    | (with_reducible refine State.sharedRow_ok _ _ _ _ _ _ _ ?_)
    | (with_reducible refine State.staleAnswers_ok _ _ ?_)
    | split
    | lift_lets

theorem returnChunkOp_ok (s : State) (hOk : s.Ok) : (returnChunkOp s).Ok := by
  unfold returnChunkOp
  repeat' first
    | (simp only [State.modXch_ok, State.takeReturn_ok, *]; done)
    | (with_reducible refine ok_foldl _ _ _ ?_ ?_)
    | intro _
    | split

theorem drainTimeoutOp_ok (c e : Nat) (s : State) (hOk : s.Ok) : (drainTimeoutOp c e s).Ok := by
  unfold drainTimeoutOp
  simp only [State.ctxFault_ok, ok_ite, *]

theorem holdTimeoutOp_ok (s : State) (hOk : s.Ok) : (holdTimeoutOp s).Ok := by
  unfold holdTimeoutOp
  repeat' first
    | (simp only [State.count_ok, ok_mk, ok_regs, ok_ctxs, ok_pitches, ok_chs, ok_pts, ok_ports, and_self, *]; done)
    | split

theorem State.stepCue_ok (s : State) (c : Nat) (hOk : s.Ok) : (State.stepCue s c).Ok := by
  unfold State.stepCue
  repeat' first
    | (simp only [State.modStep_ok, State.sendPacket_ok, *]; done)
    | split

theorem State.cueAgain_ok (s : State) (c : Nat) (st : Step) (hOk : s.Ok) : (State.cueAgain s c st).Ok := by
  unfold State.cueAgain
  repeat' first
    | (simp only [State.ctxFault_ok, State.modStep_ok, State.sendPacket_ok, *]; done)
    | (intro x; subst x)
    | split
    | lift_lets

theorem cueDoneOp_ok (a : Nat) (p : Bytes) (par : List Bool) (s : State) (hOk : s.Ok) : (cueDoneOp a p par s).Ok := by
  have hu : ((s.recordIn a p none).chargeCore a (pktHeader p).ctx 64 false).Ok := by
    simp only [State.chargeCore_ok, State.recordIn_ok, *]
  unfold cueDoneOp
  dsimp only
  generalize (s.recordIn a p none).chargeCore a (pktHeader p).ctx 64 false = u at hu ⊢
  repeat' first
    | with_reducible exact hOk
    | with_reducible exact State.lostIn_ok _ _ hOk
    | with_reducible exact State.discardIn_ok _ _ hOk
    | with_reducible exact State.ctxFault_ok _ _ _ hu
    | with_reducible exact State.cueAgain_ok _ _ _ hu
    | with_reducible exact State.bump_ok _ _ _ _ (State.modStep_ok _ _ _ hu)
    | with_reducible exact State.chainDone_ok _ _ _ hu
    | with_reducible exact State.chainDone_ok _ _ _ (State.bump_ok _ _ _ _ hu)
    | split

theorem cancelDoneOp_ok (a : Nat) (p : Bytes) (par : List Bool) (s : State) (hOk : s.Ok) : (cancelDoneOp a p par s).Ok := by
  unfold cancelDoneOp
  repeat' first
    | (simp only [State.cancelFin_ok, State.chargeCore_ok, State.discardIn_ok, State.event_ok, State.lostIn_ok, State.recordIn_ok, *]; done)
    | (intro x; refine State.cut (s := x) ?_ ?_; rotate_left; (clear_value x; intro hx); rotate_left; (subst x))
    | (intro x; subst x)
    | (with_reducible refine State.event_ok _ _ _ _ _ ?_ )
    | split
    | lift_lets

theorem cueQuietOp_ok (c : Nat) (s : State) (hOk : s.Ok) : (cueQuietOp c s).Ok := by
  unfold cueQuietOp
  repeat' first
    | (simp only [State.cueAgain_ok, ok_ite, *]; done)
    | split

end Sys2Proof.Machine
end

