-- ==== Sys2Proof/Laws/ShapeAllocate.lean ====
section
/-! SUPPORT. Every operation of Machine/Allocate.lean keeps the shape of the state (`State.Ok`). -/

set_option linter.unusedSimpArgs false

namespace Sys2Proof.Machine

theorem State.readTile_ok (s : State) (c i : Nat) (w : W2tE) (hOk : s.Ok) : (State.readTile s c i w).Ok := by
  unfold State.readTile
  repeat' first
    | (simp only [State.memPost_ok, *]; done)
    | (with_reducible refine ok_foldl _ _ _ ?_ ?_)
    | intro _

theorem State.startW2t_ok (s : State) (c : Nat) (st : Step) (need : List (Nat × Nat)) (es : List W2tE) (hOk : s.Ok) : (State.startW2t s c st need es).Ok := by
  unfold State.startW2t
  repeat' first
    | (simp only [State.modCtx_ok, State.modStep_ok, State.modXch_ok, State.readTile_ok, *]; done)
    | (with_reducible refine ok_foldl _ _ _ ?_ ?_)
    | intro _
    | split

theorem State.decideW2t_ok (s : State) (c : Nat) (hOk : s.Ok) : (State.decideW2t s c).Ok := by
  unfold State.decideW2t
  repeat' first
    | (simp only [State.startW2t_ok, *]; done)
    | (intro x; subst x)
    | split
    | lift_lets

theorem State.spillList_ok (s : State) (c : Nat) (hOk : s.Ok) : (State.spillList s c).Ok := by
  unfold State.spillList
  repeat' first
    | (simp only [State.count_ok, State.memWriteAny_ok, State.modStep_ok, ok_mk, ok_regs, ok_ctxs, ok_pitches, ok_chs, ok_pts, ok_ports, lset_length, and_self, ok_ite, *]; done)
    | with_reducible assumption
    | (intro x; refine State.cut (s := x) ?_ ?_; rotate_left; (clear_value x; intro hx); rotate_left; (subst x))
    | (intro x; subst x)
    | intro _
    | (with_reducible refine State.count_ok _ _ _ ?_)
    | (with_reducible refine State.memWriteAny_ok _ _ _ _ _ _ _ ?_)
    | (with_reducible refine State.modStep_ok _ _ _ ?_)
    | split
    | lift_lets

theorem State.writeExits_ok (s : State) (c : Nat) (hOk : s.Ok) : (State.writeExits s c).Ok := by
  unfold State.writeExits
  repeat' first
    | (simp only [State.digest_ok, State.memWrite_ok, *]; done)
    | (with_reducible refine ok_foldl _ _ _ ?_ ?_)
    | intro _
    | split
    | lift_lets

theorem State.chargeSteeped_ok (s : State) (c : Nat) (st : Step) (hOk : s.Ok) : (State.chargeSteeped s c st).Ok := by
  unfold State.chargeSteeped
  simp only [State.acctAdd_ok, State.energy_ok, *]

theorem State.listDone_ok (s : State) (c : Nat) (hOk : s.Ok) : (State.listDone s c).Ok := by
  unfold State.listDone
  repeat' first
    | (simp only [State.openInst_ok, State.stepCue_ok, ok_ite, *]; done)
    | (intro x; refine State.cut (s := x) ?_ ?_; rotate_left; (clear_value x; intro hx); rotate_left; (subst x))
    | split
    | lift_lets

theorem allocateOp_ok (c : Nat) (s : State) (hOk : s.Ok) : (allocateOp c s).Ok := by
  unfold allocateOp
  repeat' first
    | (simp only [State.chargeSteeped_ok, State.modStep_ok, State.sfn_ok, State.writeExits_ok, *]; done)
    | (intro x; refine State.cut (s := x) ?_ ?_; rotate_left; (clear_value x; intro hx); rotate_left; (subst x))
    | (intro x; subst x)
    | (with_reducible refine State.decideW2t_ok _ _ ?_ )
    | (with_reducible refine State.endTiles_ok _ _ ?_ )
    | (with_reducible refine State.listDone_ok _ _ ?_ )
    | (with_reducible refine State.spillList_ok _ _ ?_ )
    | split
    | lift_lets

end Sys2Proof.Machine
end

