-- ==== Sys2Proof/Laws/ShapeAsk.lean ====
section
/-! SUPPORT. Every operation of Machine/Ask.lean keeps the shape of the state (`State.Ok`). -/

set_option linter.unusedSimpArgs false

namespace Sys2Proof.Machine

theorem State.stampQuery_ok (s : State) (r : MemReq) (hOk : s.Ok) : (State.stampQuery s r).1.Ok := by
  unfold State.stampQuery
  repeat' first
    | (simp only [State.modStep_ok, ok_mk, ok_regs, ok_ctxs, ok_pitches, ok_chs, ok_pts, ok_ports, lset_length, and_self, *]; done)
    | with_reducible assumption
    | (intro x; refine State.cut (s := x) ?_ ?_; rotate_left; (clear_value x; intro hx); rotate_left; (subst x))
    | (intro x; subst x)
    | intro _
    | (with_reducible refine State.modStep_ok _ _ _ ?_)
    | split
    | lift_lets

theorem State.readAnswer_ok (s : State) (c : Nat) (hOk : s.Ok) : (State.readAnswer s c).Ok := by
  unfold State.readAnswer
  simp only [State.memPost_ok, State.modCtx_ok, *]

theorem State.askCome_ok (s : State) (c : Nat) (hOk : s.Ok) : (State.askCome s c).Ok := by
  unfold State.askCome
  simp only [State.modCtx_ok, State.readAnswer_ok, *]

theorem State.takeAnswer_ok (s : State) (c : Nat) (a : Answer) (hOk : s.Ok) : (State.takeAnswer s c a).Ok := by
  unfold State.takeAnswer
  repeat' first
    | (simp only [State.enterReady_ok, State.modCtx_ok, *]; done)
    | split

theorem State.pruneKept_ok (s : State) (c e : Nat) (hOk : s.Ok) : (State.pruneKept s c e).Ok := by
  unfold State.pruneKept
  repeat' first
    | (simp only [State.count_ok, ok_mk, ok_regs, ok_ctxs, ok_pitches, ok_chs, ok_pts, ok_ports, and_self, *]; done)
    | (intro x; refine State.cut (s := x) ?_ ?_; rotate_left; (clear_value x; intro hx); rotate_left; (subst x))
    | (intro x; subst x)
    | lift_lets

theorem queryWritten_ok (c : Nat) (s : State) (hOk : s.Ok) : (queryWritten c s).Ok := by
  unfold queryWritten
  repeat' first
    | (simp only [State.dropFrame_ok, State.recDigest_ok, *]; done)
    | (split <;> try (rename_i e; have hx := State.takeDone_ok (by assumption) e))
    | (with_reducible refine State.downCheck_ok _ _ ?_ )
    | (with_reducible refine State.modCtx_ok _ _ _ ?_ )
    | (with_reducible refine State.pruneKept_ok _ _ _ ?_ )
    | (with_reducible refine State.unhold_ok _ _ ?_ )

theorem askDeadlineOp_ok (c : Nat) (s : State) (hOk : s.Ok) : (askDeadlineOp c s).Ok := by
  unfold askDeadlineOp
  simp only [State.askCome_ok, ok_ite, *]

theorem askRereadOp_ok (c : Nat) (s : State) (hOk : s.Ok) : (askRereadOp c s).Ok := by
  unfold askRereadOp
  simp only [State.askCome_ok, ok_ite, *]

theorem askRetryOp_ok (c : Nat) (s : State) (hOk : s.Ok) : (askRetryOp c s).Ok := by
  unfold askRetryOp
  simp only [State.readAnswer_ok, ok_ite, *]

theorem answerReadOp_ok (c : Nat) (s : State) (hOk : s.Ok) : (answerReadOp c s).Ok := by
  unfold answerReadOp
  repeat' first
    | (simp only [State.modCtx_ok, State.record_ok, State.takeAnswer_ok, *]; done)
    | (split <;> try (rename_i e; have hx := State.takeDone_ok (by assumption) e))

theorem askGraceOp_ok (c : Nat) (s : State) (hOk : s.Ok) : (askGraceOp c s).Ok := by
  unfold askGraceOp
  repeat' first
    | (simp only [State.ctxFault_ok, *]; done)
    | (intro x; subst x)
    | split
    | lift_lets

end Sys2Proof.Machine
end

