-- ==== Sys2Proof/Laws/ShapeChains.lean ====
section
/-! SUPPORT. Every operation of Machine/Chains.lean keeps the shape of the state (`State.Ok`). -/

set_option linter.unusedSimpArgs false

namespace Sys2Proof.Machine

theorem State.postPieces_ok (s : State) (ps : List OutPiece) (hOk : s.Ok) : (State.postPieces s ps).Ok := by
  unfold State.postPieces
  simp only [State.modXch_ok, *]

theorem chainPutOp_ok (c i : Nat) (hv : HostView) (s : State) (hOk : s.Ok) : (chainPutOp c i hv s).Ok := by
  unfold chainPutOp
  repeat' first
    | (simp only [State.chainDone_ok, State.chainStart_ok, State.chargeRead_ok, State.ctxFault_ok, State.postPieces_ok, *]; done)
    | (intro x; refine State.cut (s := x) ?_ ?_; rotate_left; (clear_value x; intro hx); rotate_left; (subst x))
    | (intro x; subst x)
    | split
    | lift_lets

theorem chainGetOp_ok (c i : Nat) (s : State) (hOk : s.Ok) : (chainGetOp c i s).Ok := by
  unfold chainGetOp
  repeat' first
    | (simp only [State.chainDone_ok, State.chainStart_ok, State.postPieces_ok, *]; done)
    | (intro x; subst x)
    | split
    | lift_lets

theorem chainCollOp_ok (c : Nat) (i : Nat) (hv : HostView) (s : State) (hOk : s.Ok) : (chainCollOp c i hv s).Ok := by
  unfold chainCollOp
  repeat' first
    | (simp only [State.chainStart_ok, State.chargeRead_ok, State.ctxFault_ok, State.openColl_ok, ok_ite, *]; done)
    | with_reducible assumption
    | (intro x; refine State.cut (s := x) ?_ ?_; rotate_left; (clear_value x; intro hx); rotate_left; (subst x))
    | (intro x; subst x)
    | (with_reducible refine State.chainStart_ok _ _ _ _ ?_)
    | (with_reducible refine State.chargeRead_ok _ _ _ _ _ ?_)
    | (with_reducible refine State.ctxFault_ok _ _ _ ?_)
    | (with_reducible refine State.openColl_ok _ _ _ ?_)
    | split
    | lift_lets

theorem chainAddOp_ok (c i : Nat) (s : State) (hOk : s.Ok) : (chainAddOp c i s).Ok := by
  unfold chainAddOp
  repeat' first
    | (simp only [State.chainDone_ok, State.chainStart_ok, State.sendShort_ok, *]; done)
    | (intro x; refine State.cut (s := x) ?_ ?_; rotate_left; (clear_value x; intro hx); rotate_left; (subst x))
    | split
    | lift_lets

theorem chainCueOp_ok (c i : Nat) (hv : HostView) (s : State) (hOk : s.Ok) : (chainCueOp c i hv s).Ok := by
  unfold chainCueOp
  repeat' first
    | (simp only [State.chainStart_ok, State.chargeRead_ok, *]; done)
    | (with_reducible refine State.ctxFault_ok _ _ _ ?_ )
    | (with_reducible refine State.sendPacket_ok _ _ _ _ _ ?_ )
    | split

theorem chainStallOp_ok (c : Nat) (s : State) (hOk : s.Ok) : (chainStallOp c s).Ok := by
  unfold chainStallOp
  simp only [State.ctxFault_ok, ok_ite, *]

theorem State.addTo_ok (s : State) (c e ctr inc : Nat) (hOk : s.Ok) : (State.addTo s c e ctr inc).Ok := by
  unfold State.addTo
  repeat' first
    | (simp only [State.bump_ok, State.countSat_ok, State.modXch_ok, *]; done)
    | split

theorem counterAddOp_ok (s : State) (hOk : s.Ok) : (counterAddOp s).Ok := by
  unfold counterAddOp
  repeat' first
    | (simp only [State.addTo_ok, *]; done)
    | (split <;> try (rename_i e; have hx := State.takeShort_ok (by assumption) e))

theorem State.takeChunkOf_ok {s : State} {k : Nat} {d : Landed} {t : State} (ok : s.Ok)
    (e : State.takeChunkOf s k = some (d, t)) : t.Ok := by
  unfold State.takeChunkOf at e
  split at e
  · cases e
  · cases e
    exact State.modXch_ok _ _ ok

theorem State.rawWrite_ok (s : State) (l : Landed) (c : Nat) (cls : Nat) (id : Nat) (hOk : s.Ok) :
    (State.rawWrite s l c cls id).Ok := by
  unfold State.rawWrite
  simp only [State.memWrite_ok, State.memWriteAny_ok, ok_ite, *]

theorem State.rxWrite_ok (s : State) (l : Landed) (c : Nat) (cls : Nat) (idx : Nat) (hOk : s.Ok) :
    (State.rxWrite s l c cls idx).Ok := by
  unfold State.rxWrite
  simp only [State.modXch_ok, State.rawWrite_ok, ok_mk, ok_regs, ok_ctxs, ok_pitches, ok_chs, ok_pts, ok_ports, lset_length, and_self, *]

theorem State.putWrite_ok (s : State) (l : Landed) (hOk : s.Ok) : (State.putWrite s l).Ok := by
  unfold State.putWrite
  repeat' first
    | (simp only [State.modXch_ok, State.rawWrite_ok, ok_mk, ok_regs, ok_ctxs, ok_pitches, ok_chs, ok_pts, ok_ports, lset_length, and_self, ok_ite, *]; done)
    | with_reducible assumption
    | (intro x; refine State.cut (s := x) ?_ ?_; rotate_left; (clear_value x; intro hx); rotate_left; (subst x))
    | (intro x; subst x)
    | intro _
    | (with_reducible refine State.modXch_ok _ _ ?_)
    | (with_reducible refine State.rawWrite_ok _ _ _ _ _ ?_)
    | split
    | lift_lets

theorem putDataOp_ok (s : State) (hOk : s.Ok) : (putDataOp s).Ok := by
  unfold putDataOp
  repeat' first
    | (simp only [State.ctxFault_ok, State.putWrite_ok, State.rxWrite_ok, ok_ite, *]; done)
    | with_reducible assumption
    | (with_reducible refine State.ctxFault_ok _ _ _ ?_)
    | (with_reducible refine State.putWrite_ok _ _ ?_)
    | (with_reducible refine State.rxWrite_ok _ _ _ _ _ ?_)
    | (split <;> try (rename_i e; have hx := State.takeChunkOf_ok (by assumption) e))
    | split

theorem backCopyOp_ok (s : State) (hOk : s.Ok) : (backCopyOp s).Ok := by
  unfold backCopyOp
  repeat' first
    | (simp only [State.rxWrite_ok, *]; done)
    | (split <;> try (rename_i e; have hx := State.takeChunkOf_ok (by assumption) e))

theorem State.pullAnswer_ok (s : State) (l : Landed) (hv : HostView) (ok : s.Ok) : (State.pullAnswer s l hv).Ok := by
  unfold State.pullAnswer
  with_reducible split
  · with_reducible exact State.ctxFault_ok _ _ _ ok
  · rename_i model layer _
    with_reducible refine ok_ite ?_ ?_
    · with_reducible exact State.ctxFault_ok _ _ _ ok
    · generalize (if s.ewdir model = 0 then none else expertEntry hv (s.ewdir model) layer (fld l.data 2 2)) = o
      cases o with
      | none => with_reducible exact State.ctxFault_ok _ _ _ ok
      | some b =>
        with_reducible refine ok_ite ?_ ?_
        · with_reducible exact State.ctxFault_ok _ _ _ ok
        · with_reducible exact State.postPieces_ok _ _ (State.chargeRead_ok _ _ _ _ _ (State.chargeRead_ok _ _ _ _ _ ok))

theorem requestOp_ok (hv : HostView) (s : State) (hOk : s.Ok) : (requestOp hv s).Ok := by
  unfold requestOp
  repeat' first
    | (simp only [State.chargeRead_ok, State.ctxFault_ok, State.postPieces_ok, State.pullAnswer_ok, *]; done)
    | (intro x; subst x)
    | (split <;> try (rename_i e; have hx := State.takeChunkOf_ok (by assumption) e))
    | lift_lets

theorem getDataOp_ok (s : State) (hOk : s.Ok) : (getDataOp s).Ok := by
  unfold getDataOp
  repeat' first
    | (simp only [State.memWrite_ok, State.modStep_ok, *]; done)
    | (split <;> try (rename_i e; have hx := State.takeChunkOf_ok (by assumption) e))

theorem State.putWritten_ok (s : State) (c id : Nat) (hOk : s.Ok) : (State.putWritten s c id).Ok := by
  unfold State.putWritten
  repeat' first
    | (simp only [State.modXch_ok, State.sendShort_ok, State.sendShortUp_ok, *]; done)
    | split

theorem State.getWritten_ok (s : State) (c idx : Nat) (hOk : s.Ok) : (State.getWritten s c idx).Ok := by
  unfold State.getWritten
  repeat' first
    | (simp only [State.chainDone_ok, *]; done)
    | split

end Sys2Proof.Machine
end

