-- ==== Sys2Proof/Laws/ShapeVersions.lean ====
section
/-! SUPPORT. Every operation of Machine/Versions.lean keeps the shape of the state (`State.Ok`). -/

set_option linter.unusedSimpArgs false

namespace Sys2Proof.Machine

theorem State.wrote_ok (s : State) (a v : Nat) (hOk : s.Ok) : (State.wrote s a v).Ok := by
  unfold State.wrote
  simp only [State.ackWrite_ok, State.recWrite_ok, *]

theorem State.resGen_ok (s : State) (m : Nat) (hOk : s.Ok) : (State.resGen s m).Ok := by
  unfold State.resGen
  simp only [ok_mk, ok_regs, ok_ctxs, ok_pitches, ok_chs, ok_pts, ok_ports, lset_length, and_self, *]

theorem modelSetOp_ok (m : Nat) (s : State) (hOk : s.Ok) : (modelSetOp m s).Ok := by
  unfold modelSetOp
  repeat' first
    | (simp only [State.ignored_ok, State.resGen_ok, State.wr2_ok, State.wrote_ok, ok_ite, *]; done)
    | with_reducible assumption
    | (intro x; refine State.cut (s := x) ?_ ?_; rotate_left; (clear_value x; intro hx); rotate_left; (subst x))
    | (intro x; subst x)
    | (with_reducible refine State.ignored_ok _ _ ?_)
    | (with_reducible refine State.resGen_ok _ _ ?_)
    | (with_reducible refine State.wr2_ok _ _ _ ?_)
    | (with_reducible refine State.wrote_ok _ _ _ ?_)
    | split
    | lift_lets

theorem modelClrOp_ok (m : Nat) (s : State) (hOk : s.Ok) : (modelClrOp m s).Ok := by
  unfold modelClrOp
  repeat' first
    | (simp only [State.resGen_ok, State.wr2_ok, State.wrote_ok, ok_ite, *]; done)
    | with_reducible assumption
    | (intro x; refine State.cut (s := x) ?_ ?_; rotate_left; (clear_value x; intro hx); rotate_left; (subst x))
    | (intro x; subst x)
    | (with_reducible refine State.resGen_ok _ _ ?_)
    | (with_reducible refine State.wr2_ok _ _ _ ?_)
    | (with_reducible refine State.wrote_ok _ _ _ ?_)
    | split
    | lift_lets

theorem rotaArmOp_ok (s : State) (ok : s.Ok) : (rotaArmOp s).Ok := by
  unfold rotaArmOp
  split
  · exact ok
  · refine State.wrote_ok _ _ _ ?_
    split
    · exact State.event_ok _ _ _ _ _ ok
    · simp only [ok_mk, ok_regs, ok_ctxs, ok_pitches, ok_chs, ok_pts, ok_ports, List.length_map, List.length_zipIdx, List.length_replicate, and_self, *]

theorem rotaGoLiveOp_ok (s : State) (hOk : s.Ok) : (rotaGoLiveOp s).Ok := by
  unfold rotaGoLiveOp
  repeat' first
    | (simp only [State.wr2_ok, ok_mk, ok_regs, ok_ctxs, ok_pitches, ok_chs, ok_pts, ok_ports, ok_ite, and_self, *]; done)
    | (intro x; refine State.cut (s := x) ?_ ?_; rotate_left; (clear_value x; intro hx); rotate_left; (subst x))
    | (intro x; subst x)
    | lift_lets

theorem State.joinLinks_ok (s : State) (t : Table Nat) (hOk : s.Ok) : (State.joinLinks s t).Ok := by
  unfold State.joinLinks
  simp only [ok_mk, ok_regs, ok_ctxs, ok_pitches, ok_chs, ok_pts, ok_ports, List.length_map, List.length_zipIdx, and_self, *]

theorem memberArmOp_ok (hv : HostView) (s : State) (hOk : s.Ok) : (memberArmOp hv s).Ok := by
  unfold memberArmOp
  repeat' first
    | (simp only [State.chargeRead_ok, State.event_ok, State.joinLinks_ok, State.memFault_ok, State.wrote_ok, ok_mk, ok_regs, ok_ctxs, ok_pitches, ok_chs, ok_pts, ok_ports, lset_length, and_self, ok_ite, *]; done)
    | with_reducible assumption
    | (intro x; refine State.cut (s := x) ?_ ?_; rotate_left; (clear_value x; intro hx); rotate_left; (subst x))
    | (intro x; subst x)
    | (with_reducible refine State.chargeRead_ok _ _ _ _ _ ?_)
    | (with_reducible refine State.event_ok _ _ _ _ _ ?_)
    | (with_reducible refine State.joinLinks_ok _ _ ?_)
    | (with_reducible refine State.memFault_ok _ _ _ _ ?_)
    | (with_reducible refine State.wrote_ok _ _ _ ?_)
    | split
    | lift_lets

theorem memberGoLiveOp_ok (s : State) (hOk : s.Ok) : (memberGoLiveOp s).Ok := by
  unfold memberGoLiveOp
  repeat' first
    | (simp only [State.copiesLost_ok, ok_mk, ok_regs, ok_ctxs, ok_pitches, ok_chs, ok_pts, ok_ports, ok_ite, List.length_map, and_self, *]; done)
    | (intro x; refine State.cut (s := x) ?_ ?_; rotate_left; (clear_value x; intro hx); rotate_left; (subst x))
    | (intro x; subst x)
    | lift_lets

theorem tableSetArmOp_ok (hv : HostView) (s : State) (hOk : s.Ok) : (tableSetArmOp hv s).Ok := by
  unfold tableSetArmOp
  repeat' first
    | (simp only [State.chargeRead_ok, State.memFault_ok, ok_mk, ok_regs, ok_ctxs, ok_pitches, ok_chs, ok_pts, ok_ports, and_self, *]; done)
    | (with_reducible refine State.event_ok _ _ _ _ _ ?_ )
    | (with_reducible refine State.wrote_ok _ _ _ ?_ )
    | split

theorem tableGoLiveOp_ok (s : State) (hOk : s.Ok) : (tableGoLiveOp s).Ok := by
  unfold tableGoLiveOp
  simp only [ok_mk, ok_regs, ok_ctxs, ok_pitches, ok_chs, ok_pts, ok_ports, ok_ite, and_self, *]

theorem routerArmOp_ok (hv : HostView) (s : State) (hOk : s.Ok) : (routerArmOp hv s).Ok := by
  unfold routerArmOp
  try lift_lets
  repeat' first
    | (simp only [State.chargeRead_ok, State.event_ok, State.memFault_ok, State.wrote_ok, ok_mk, ok_regs, ok_ctxs, ok_pitches, ok_chs, ok_pts, ok_ports, ok_ite, and_self, *]; done)
    | (intro x; refine State.cut (s := x) ?_ ?_; rotate_left; (clear_value x; intro hx); rotate_left; (subst x))
    | (intro x; subst x)

theorem routerSwitchOp_ok (s : State) (hOk : s.Ok) : (routerSwitchOp s).Ok := by
  unfold routerSwitchOp
  repeat' first
    | (simp only [State.resGen_ok, State.wr2_ok, ok_mk, ok_regs, ok_ctxs, ok_pitches, ok_chs, ok_pts, ok_ports, lset_length, and_self, ok_ite, *]; done)
    | with_reducible assumption
    | (intro x; refine State.cut (s := x) ?_ ?_; rotate_left; (clear_value x; intro hx); rotate_left; (subst x))
    | (intro x; subst x)
    | (with_reducible refine State.resGen_ok _ _ ?_)
    | (with_reducible refine State.wr2_ok _ _ _ ?_)
    | split
    | lift_lets

theorem weightArmOp_ok (hv : HostView) (s : State) (hOk : s.Ok) : (weightArmOp hv s).Ok := by
  unfold weightArmOp
  try lift_lets
  repeat' first
    | (simp only [State.chargeRead_ok, State.event_ok, State.memFault_ok, State.wrote_ok, ok_mk, ok_regs, ok_ctxs, ok_pitches, ok_chs, ok_pts, ok_ports, ok_ite, and_self, *]; done)
    | (intro x; refine State.cut (s := x) ?_ ?_; rotate_left; (clear_value x; intro hx); rotate_left; (subst x))
    | (intro x; subst x)

theorem weightSwitchOp_ok (s : State) (hOk : s.Ok) : (weightSwitchOp s).Ok := by
  unfold weightSwitchOp
  repeat' first
    | (simp only [State.wr_ok, ok_mk, ok_regs, ok_ctxs, ok_pitches, ok_chs, ok_pts, ok_ports, and_self, *]; done)
    | split

end Sys2Proof.Machine
end

