-- ==== Sys2Proof/Laws/ShapeLaunch.lean ====
section
/-! SUPPORT. Every operation of Machine/Launch.lean keeps the shape of the state (`State.Ok`). -/

set_option linter.unusedSimpArgs false

namespace Sys2Proof.Machine

theorem State.launchExits_ok (s : State) (c : Nat) (st : Step) (hv : HostView) (hOk : s.Ok) : (State.launchExits s c st hv).Ok := by
  unfold State.launchExits
  repeat' first
    | (simp only [State.chargeRead_ok, State.modStep_ok, *]; done)
    | split

theorem State.launchScored_ok (s : State) (c : Nat) (st : Step) (hv : HostView) (hOk : s.Ok) : (State.launchScored s c st hv).Ok := by
  unfold State.launchScored
  repeat' first
    | (simp only [State.chargeRead_ok, State.readRow_ok, ok_ite, *]; done)
    | (with_reducible refine ok_foldl _ _ _ ?_ ?_)
    | intro _
    | (with_reducible refine State.afterScore_ok _ _ ?_ )
    | (with_reducible refine State.modStep_ok _ _ _ ?_ )

theorem State.launchBackward_ok (s : State) (c : Nat) (st : Step) (hv : HostView) (hOk : s.Ok) : (State.launchBackward s c st hv).Ok := by
  unfold State.launchBackward
  repeat' first
    | (simp only [State.chargeRead_ok, State.count_ok, State.readRow_ok, *]; done)
    | (with_reducible refine ok_foldl _ _ _ ?_ ?_)
    | intro _
    | (with_reducible refine State.listDone_ok _ _ ?_ )
    | (with_reducible refine State.modStep_ok _ _ _ ?_ )
    | (with_reducible refine State.spillList_ok _ _ ?_ )

theorem State.launchGather_ok (s : State) (c : Nat) (st : Step) (hv : HostView) (hOk : s.Ok) : (State.launchGather s c st hv).Ok := by
  unfold State.launchGather
  repeat' first
    | (simp only [State.chargeRead_ok, State.readRow_ok, *]; done)
    | (with_reducible refine ok_foldl _ _ _ ?_ ?_)
    | intro _
    | (with_reducible refine State.modStep_ok _ _ _ ?_ )
    | (with_reducible refine State.sfn_ok _ _ _ _ _ ?_ )

theorem State.launchApply_ok (s : State) (c : Nat) (st : Step) (hv : HostView) (hOk : s.Ok) : (State.launchApply s c st hv).Ok := by
  unfold State.launchApply
  repeat' first
    | (simp only [State.count_ok, State.memWrite_ok, State.sfn_ok, *]; done)
    | (with_reducible refine ok_foldl _ _ _ ?_ ?_)
    | intro _
    | (with_reducible refine State.chargeRead_ok _ _ _ _ _ ?_ )
    | (with_reducible refine State.modKtl_ok _ _ ?_ )
    | (with_reducible refine State.modStep_ok _ _ _ ?_ )

theorem State.launchWork_ok (s : State) (c : Nat) (st : Step) (hv : HostView) (hOk : s.Ok) : (State.launchWork s c st hv).Ok := by
  unfold State.launchWork
  repeat' first
    | (simp only [State.launchApply_ok, State.launchBackward_ok, State.launchGather_ok, State.launchScored_ok, *]; done)
    | split

theorem stepLaunchOp_ok (c : Nat) (hv : HostView) (s : State) (hOk : s.Ok) : (stepLaunchOp c hv s).Ok := by
  unfold stepLaunchOp
  repeat' first
    | (simp only [State.ctxFault_ok, State.modStep_ok, State.record_ok, *]; done)
    | (with_reducible refine State.bump_ok _ _ _ _ ?_ )
    | (with_reducible refine State.launchExits_ok _ _ _ _ ?_ )
    | (with_reducible refine State.launchWork_ok _ _ _ _ ?_ )
    | split

theorem State.writeStats_ok (s : State) (c : Nat) (st : Step) (hOk : s.Ok) : (State.writeStats s c st).Ok := by
  unfold State.writeStats
  simp only [State.memWriteAny_ok, ok_ite, *]

theorem State.postLast_ok (s : State) (c : Nat) (w : MemUnit × Nat × Bytes) (hOk : s.Ok) : (State.postLast s c w).Ok := by
  unfold State.postLast
  simp only [State.modStep_ok, *]

theorem State.writeLedger_ok (s : State) (c : Nat) (st : Step) (hOk : s.Ok) : (State.writeLedger s c st).Ok := by
  unfold State.writeLedger
  repeat' first
    | (simp only [State.digestLines_ok, State.memWrite_ok, State.memWriteAny_ok, State.postLast_ok, *]; done)
    | (intro x; refine State.cut (s := x) ?_ ?_; rotate_left; (clear_value x; intro hx); rotate_left; (subst x))
    | (intro x; subst x)
    | split
    | lift_lets

theorem State.writeAff_ok (s : State) (c : Nat) (st : Step) (hv : HostView) (ok : s.Ok) :
    (State.writeAff s c st hv).Ok := by
  unfold State.writeAff
  dsimp only
  split
  · refine State.modCtx_ok _ _ _ (ok_foldl_fst _ _ _ ok ?_)
    intro a x h
    exact State.memWriteWords_ok _ _ _ _ _ _ (State.chargeRead_ok _ _ _ _ _ h)
  · exact ok

theorem State.observeLoad_ok (s : State) (c : Nat) (st : Step) (hOk : s.Ok) : (State.observeLoad s c st).Ok := by
  unfold State.observeLoad
  repeat' first
    | (simp only [State.count_ok, State.memWrite_ok, State.modStep_ok, State.postLast_ok, State.sfn_ok, ok_mk, ok_regs, ok_ctxs, ok_pitches, ok_chs, ok_pts, ok_ports, lset_length, and_self, ok_ite, *]; done)
    | with_reducible assumption
    | (intro x; refine State.cut (s := x) ?_ ?_; rotate_left; (clear_value x; intro hx); rotate_left; (subst x))
    | (intro x; subst x)
    | intro _
    | (with_reducible refine State.count_ok _ _ _ ?_)
    | (with_reducible refine State.memWrite_ok _ _ _ _ _ _ ?_)
    | (with_reducible refine State.modStep_ok _ _ _ ?_)
    | (with_reducible refine State.postLast_ok _ _ _ ?_)
    | (with_reducible refine State.sfn_ok _ _ _ _ _ ?_)
    | split
    | lift_lets

theorem State.writeAcc_ok (s : State) (c : Nat) (st : Step) (hOk : s.Ok) : (State.writeAcc s c st).Ok := by
  unfold State.writeAcc
  simp only [State.memWrite_ok, ok_ite, *]

theorem State.writeBack_ok (s : State) (c : Nat) (st : Step) (hv : HostView) (hOk : s.Ok) : (State.writeBack s c st hv).Ok := by
  unfold State.writeBack
  repeat' first
    | (simp only [State.writeLedger_ok, State.writeStats_ok, *]; done)
    | (with_reducible refine State.modStep_ok _ _ _ ?_ )
    | (with_reducible refine State.observeLoad_ok _ _ _ ?_ )
    | (with_reducible refine State.writeAcc_ok _ _ _ ?_ )
    | (with_reducible refine State.writeAff_ok _ _ _ _ ?_ )

theorem State.writeOne_ok (c : Nat) (s : State) (w : MemUnit × Nat × Bytes) (hOk : s.Ok) : (State.writeOne c s w).Ok := by
  unfold State.writeOne
  simp only [State.memWrite_ok, State.memWriteWords_ok, ok_ite, *]

theorem State.writeLast_ok (s : State) (c : Nat) (st : Step) (hOk : s.Ok) : (State.writeLast s c st).Ok := by
  unfold State.writeLast
  repeat' first
    | (simp only [State.writeOne_ok, *]; done)
    | (with_reducible refine ok_foldl _ _ _ ?_ ?_)
    | intro _
    | (with_reducible refine State.modStep_ok _ _ _ ?_ )

theorem State.margin_ok (s : State) (st : Step) (hOk : s.Ok) : (State.margin s st).Ok := by
  unfold State.margin
  simp only [State.wr_ok, ok_ite, *]

theorem State.doneCounts_ok (s : State) (st : Step) (hOk : s.Ok) : (State.doneCounts s st).Ok := by
  unfold State.doneCounts
  repeat' first
    | with_reducible assumption
    | (with_reducible refine State.count_ok _ _ _ ?_ )

theorem State.finish_ok (s : State) (c : Nat) (st : Step) (hOk : s.Ok) : (State.finish s c st).Ok := by
  unfold State.finish
  repeat' first
    | (simp only [State.count_ok, State.doneCounts_ok, State.event_ok, State.margin_ok, State.modCtx_ok, State.modStep_ok, State.postQuery_ok, ok_mk, ok_regs, ok_ctxs, ok_pitches, ok_chs, ok_pts, ok_ports, lset_length, and_self, ok_ite, *]; done)
    | with_reducible assumption
    | (intro x; refine State.cut (s := x) ?_ ?_; rotate_left; (clear_value x; intro hx); rotate_left; (subst x))
    | (intro x; subst x)
    | intro _
    | (with_reducible refine State.count_ok _ _ _ ?_)
    | (with_reducible refine State.doneCounts_ok _ _ ?_)
    | (with_reducible refine State.event_ok _ _ _ _ _ ?_)
    | (with_reducible refine State.margin_ok _ _ ?_)
    | (with_reducible refine State.modCtx_ok _ _ _ ?_)
    | (with_reducible refine State.modStep_ok _ _ _ ?_)
    | (with_reducible refine State.postQuery_ok _ _ _ _ ?_)
    | split
    | lift_lets

theorem State.endGo_ok (c n : Nat) (s : State) (ok : s.Ok) : (State.endGo c n s).Ok := by
  induction n generalizing s with
  | zero => exact ok
  | succ n ih =>
    unfold State.endGo
    split
    · exact ok
    · split
      · exact ok
      · split
        · exact ih _ (State.writeLast_ok _ _ _ ok)
        · split
          · dsimp only
            split
            · exact State.finish_ok _ _ _ (State.modStep_ok _ _ _ ok)
            · exact State.modStep_ok _ _ _ ok
          · exact ok

theorem stepDoneOp_ok (c : Nat) (hv : HostView) (s : State) (hOk : s.Ok) : (stepDoneOp c hv s).Ok := by
  unfold stepDoneOp
  repeat' first
    | (simp only [State.ctxFault_ok, State.endGo_ok, State.writeBack_ok, *]; done)
    | split

end Sys2Proof.Machine
end

