-- ==== Sys2Proof/Laws/ShapeSends.lean ====
section
/-! SUPPORT. Every operation of Machine/Sends.lean keeps the shape of the state (`State.Ok`). -/

set_option linter.unusedSimpArgs false

namespace Sys2Proof.Machine

theorem State.formed_ok (s : State) (c : Nat) (replay : Bool) (hOk : s.Ok) : (State.formed s c replay).Ok := by
  unfold State.formed
  repeat' first
    | (simp only [State.modStep_ok, State.progress_ok, *]; done)
    | split

theorem State.formReturns_ok (s : State) (c : Nat) (hOk : s.Ok) : (State.formReturns s c).1.Ok := by
  unfold State.formReturns
  repeat' first
    | (simp only [State.endWait_ok, State.formed_ok, State.launchChunk_ok, State.modXch_ok, State.waitForm_ok, ok_mk, ok_regs, ok_ctxs, ok_pitches, ok_chs, ok_pts, ok_ports, lset_length, and_self, ok_ite, *]; done)
    | with_reducible assumption
    | (with_reducible refine ok_foldl _ _ _ ?_ ?_)
    | (intro x; refine State.cut (s := x) ?_ ?_; rotate_left; (clear_value x; intro hx); rotate_left; (subst x))
    | (intro x; subst x)
    | intro _
    | (with_reducible refine State.endWait_ok _ _ ?_)
    | (with_reducible refine State.formed_ok _ _ _ ?_)
    | (with_reducible refine State.launchChunk_ok _ _ _ _ _ _ _ _ _ _ ?_)
    | (with_reducible refine State.modXch_ok _ _ ?_)
    | (with_reducible refine State.waitForm_ok _ _ ?_)
    | (with_reducible refine State.takeChunk_ok _ _ ?_)
    | split
    | lift_lets

theorem State.sendPiece_ok (s : State) (p : OutPiece) (hOk : s.Ok) : (State.sendPiece s p).Ok := by
  unfold State.sendPiece
  repeat' first
    | (simp only [State.endWait_ok, State.formed_ok, State.launchChunk_ok, State.launchUp_ok, State.refProgress_ok, ok_ite, *]; done)
    | with_reducible assumption
    | (intro x; refine State.cut (s := x) ?_ ?_; rotate_left; (clear_value x; intro hx); rotate_left; (subst x))
    | (intro x; subst x)
    | (with_reducible refine State.endWait_ok _ _ ?_)
    | (with_reducible refine State.formed_ok _ _ _ ?_)
    | (with_reducible refine State.launchChunk_ok _ _ _ _ _ _ _ _ _ _ ?_)
    | (with_reducible refine State.launchUp_ok _ _ _ _ _ _ _ _ _ ?_)
    | (with_reducible refine State.refProgress_ok _ _ ?_)
    | (with_reducible refine State.takeChunk_ok _ _ ?_)
    | split
    | lift_lets

theorem State.formPiece_ok (s : State) (c : Nat) (hOk : s.Ok) : (State.formPiece s c).1.Ok := by
  unfold State.formPiece
  repeat' first
    | (simp only [State.modXch_ok, State.sendPiece_ok, State.waitForm_ok, ok_mk, ok_regs, ok_ctxs, ok_pitches, ok_chs, ok_pts, ok_ports, lset_length, and_self, *]; done)
    | with_reducible assumption
    | (with_reducible refine ok_foldl _ _ _ ?_ ?_)
    | intro _
    | (with_reducible refine State.modXch_ok _ _ ?_)
    | (with_reducible refine State.sendPiece_ok _ _ ?_)
    | (with_reducible refine State.waitForm_ok _ _ ?_)
    | split

theorem State.leaveChunks_ok (s : State) (c : Nat) (st : Step) (es : List SendSt) (hOk : s.Ok) :
    (State.leaveChunks s c st es).Ok := by
  unfold State.leaveChunks
  repeat' first
    | (simp only [State.chunkReturn_ok, *]; done)
    | with_reducible assumption
    | (with_reducible refine ok_foldl _ _ _ ?_ ?_)
    | intro _
    | (with_reducible refine State.chunkReturn_ok _ _ _ _ _ ?_)

theorem State.markSent_ok (s : State) (c n : Nat) (es : List SendSt) (hOk : s.Ok) : (State.markSent s c n es).Ok := by
  unfold State.markSent
  simp only [State.modStep_ok, *]

theorem State.askList_ok (s : State) (c : Nat) (st : Step) (i : Nat) (hOk : s.Ok) : (State.askList s c st i).Ok := by
  unfold State.askList
  repeat' first
    | (simp only [State.memPost_ok, State.modStep_ok, ok_mk, ok_regs, ok_ctxs, ok_pitches, ok_chs, ok_pts, ok_ports, lset_length, and_self, ok_ite, *]; done)
    | with_reducible assumption
    | (intro x; refine State.cut (s := x) ?_ ?_; rotate_left; (clear_value x; intro hx); rotate_left; (subst x))
    | (intro x; subst x)
    | intro _
    | (with_reducible refine State.memPost_ok _ _ ?_)
    | (with_reducible refine State.modStep_ok _ _ _ ?_)
    | split
    | lift_lets

theorem State.sendLocal_ok (s : State) (c : Nat) (st : Step) (es : List SendSt) (hOk : s.Ok) : (State.sendLocal s c st es).Ok := by
  unfold State.sendLocal
  repeat' first
    | (simp only [State.markSent_ok, *]; done)
    | (with_reducible refine State.landRecs_ok _ _ _ _ ?_ )

theorem State.lostFor_ok (s : State) (c : Nat) (st : Step) (l : Nat) (hOk : s.Ok) : (State.lostFor s c st l).Ok := by
  unfold State.lostFor
  simp only [State.ctxFault_ok, State.modStep_ok, ok_ite, *]

theorem State.sendRemote_ok (s : State) (c : Nat) (st : Step) (hOk : s.Ok) : (State.sendRemote s c st).Ok := by
  unfold State.sendRemote
  repeat' first
    | (simp only [State.endWait_ok, State.formed_ok, State.launchChunk_ok, State.leaveChunks_ok, State.markSent_ok, State.stepCue_ok, ok_mk, ok_regs, ok_ctxs, ok_pitches, ok_chs, ok_pts, ok_ports, lset_length, and_self, *]; done)
    | with_reducible assumption
    | (intro x; refine State.cut (s := x) ?_ ?_; rotate_left; (clear_value x; intro hx); rotate_left; (subst x))
    | (intro x; subst x)
    | intro _
    | (with_reducible refine State.endWait_ok _ _ ?_)
    | (with_reducible refine State.formed_ok _ _ _ ?_)
    | (with_reducible refine State.launchChunk_ok _ _ _ _ _ _ _ _ _ _ ?_)
    | (with_reducible refine State.leaveChunks_ok _ _ _ _ ?_)
    | (with_reducible refine State.markSent_ok _ _ _ _ ?_)
    | (with_reducible refine State.stepCue_ok _ _ ?_)
    | (with_reducible refine State.takeChunk_ok _ _ ?_)
    | split
    | lift_lets

theorem State.dispatch_ok (s : State) (c : Nat) (st : Step) (hOk : s.Ok) : (State.dispatch s c st).Ok := by
  unfold State.dispatch
  repeat' first
    | (simp only [State.askList_ok, State.lostFor_ok, State.modXch_ok, State.sendRemote_ok, State.waitForm_ok, ok_mk, ok_regs, ok_ctxs, ok_pitches, ok_chs, ok_pts, ok_ports, lset_length, and_self, ok_ite, *]; done)
    | with_reducible assumption
    | intro _
    | (with_reducible refine State.askList_ok _ _ _ _ ?_)
    | (with_reducible refine State.lostFor_ok _ _ _ _ ?_)
    | (with_reducible refine State.modXch_ok _ _ ?_)
    | (with_reducible refine State.sendRemote_ok _ _ _ ?_)
    | (with_reducible refine State.waitForm_ok _ _ ?_)
    | split

theorem State.sendCopies_ok (s : State) (c : Nat) (st : Step) (hOk : s.Ok) : (State.sendCopies s c st).Ok := by
  unfold State.sendCopies
  repeat' first
    | (simp only [State.askList_ok, State.dispatch_ok, State.formed_ok, State.sendLocal_ok, ok_ite, *]; done)
    | with_reducible assumption
    | (intro x; refine State.cut (s := x) ?_ ?_; rotate_left; (clear_value x; intro hx); rotate_left; (subst x))
    | (intro x; subst x)
    | intro _
    | (with_reducible refine State.askList_ok _ _ _ _ ?_)
    | (with_reducible refine State.dispatch_ok _ _ _ ?_)
    | (with_reducible refine State.formed_ok _ _ _ ?_)
    | (with_reducible refine State.sendLocal_ok _ _ _ _ ?_)
    | split
    | lift_lets

theorem State.formStep_ok (s : State) (c : Nat) (hOk : s.Ok) : (State.formStep s c).Ok := by
  unfold State.formStep
  repeat' first
    | (simp only [State.go_ok, State.sendCopies_ok, *]; done)
    | with_reducible assumption
    | (with_reducible refine ok_foldl _ _ _ ?_ ?_)
    | (intro x; refine State.cut (s := x) ?_ ?_; rotate_left; (clear_value x; intro hx); rotate_left; (subst x))
    | (intro x; subst x)
    | intro _
    | (with_reducible refine State.go_ok _ _ _ ?_)
    | (with_reducible refine State.sendCopies_ok _ _ _ ?_)
    | split
    | lift_lets

theorem chunkFormOp_ok (c : Nat) (s : State) (hOk : s.Ok) : (chunkFormOp c s).Ok := by
  unfold chunkFormOp
  repeat' first
    | (simp only [State.formStep_ok, ok_ite, *]; done)
    | with_reducible assumption
    | (intro x; refine State.cut (s := x) ?_ ?_; rotate_left; (clear_value x; intro hx); rotate_left; (subst x))
    | (intro x; subst x)
    | (with_reducible refine State.formStep_ok _ _ ?_)
    | (with_reducible refine State.formPiece_ok _ _ ?_)
    | (with_reducible refine State.formReturns_ok _ _ ?_)
    | split
    | lift_lets

theorem replayOp_ok (c : Nat) (s : State) (hOk : s.Ok) : (replayOp c s).Ok := by
  unfold replayOp
  repeat' first
    | (simp only [State.detect_ok, State.modStep_ok, ok_mk, ok_regs, ok_ctxs, ok_pitches, ok_chs, ok_pts, ok_ports, lset_length, and_self, ok_ite, *]; done)
    | with_reducible assumption
    | intro _
    | (with_reducible refine State.detect_ok _ ?_)
    | (with_reducible refine State.modStep_ok _ _ _ ?_)
    | split

theorem State.steepChunk_ok (s : State) (c : Nat) (st : Step) (dst : Nat) (ps : List (Nat × Nat × Nat × Nat)) (hOk : s.Ok) :
    (State.steepChunk s c st dst ps).Ok := by
  unfold State.steepChunk
  repeat' first
    | (simp only [State.count_ok, State.formed_ok, State.launchChunk_ok, State.modStep_ok, ok_mk, ok_regs, ok_ctxs, ok_pitches, ok_chs, ok_pts, ok_ports, lset_length, and_self, ok_ite, *]; done)
    | with_reducible assumption
    | (intro x; refine State.cut (s := x) ?_ ?_; rotate_left; (clear_value x; intro hx); rotate_left; (subst x))
    | (intro x; subst x)
    | intro _
    | (with_reducible refine State.count_ok _ _ _ ?_)
    | (with_reducible refine State.formed_ok _ _ _ ?_)
    | (with_reducible refine State.launchChunk_ok _ _ _ _ _ _ _ _ _ _ ?_)
    | (with_reducible refine State.modStep_ok _ _ _ ?_)
    | (with_reducible refine State.takeChunk_ok _ _ ?_)
    | split
    | lift_lets

theorem steepSendOp_ok (c : Nat) (hv : HostView) (s : State) (hOk : s.Ok) : (steepSendOp c hv s).Ok := by
  unfold steepSendOp
  dsimp only
  repeat' first
    | (simp only [State.modStep_ok, State.steepChunk_ok, ok_mk, ok_regs, ok_ctxs, ok_pitches, ok_chs, ok_pts, ok_ports, lset_length, and_self, ok_ite, *]; done)
    | with_reducible assumption
    | (intro x; refine State.cut (s := x) ?_ ?_; rotate_left; (clear_value x; intro hx); rotate_left; (subst x))
    | (intro x; subst x)
    | intro _
    | (with_reducible refine State.modStep_ok _ _ _ ?_)
    | (with_reducible refine State.steepChunk_ok _ _ _ _ _ ?_)
    | split
    | lift_lets

theorem State.holdCopy_ok (s : State) (c e src : Nat) (r : LandRec) (hOk : s.Ok) : (State.holdCopy s c e src r).Ok := by
  unfold State.holdCopy
  repeat' first
    | (simp only [State.count_ok, ok_mk, ok_regs, ok_ctxs, ok_pitches, ok_chs, ok_pts, ok_ports, ok_ite, and_self, *]; done)
    | split

theorem copyChunkOp_ok (s : State) (hOk : s.Ok) : (copyChunkOp s).Ok := by
  unfold copyChunkOp
  repeat' first
    | (simp only [State.count_ok, State.flushHeld_ok, State.holdCopy_ok, State.landRecs_ok, State.modXch_ok, ok_mk, ok_regs, ok_ctxs, ok_pitches, ok_chs, ok_pts, ok_ports, lset_length, and_self, ok_ite, *]; done)
    | with_reducible assumption
    | (with_reducible refine ok_foldl _ _ _ ?_ ?_)
    | (intro x; refine State.cut (s := x) ?_ ?_; rotate_left; (clear_value x; intro hx); rotate_left; (subst x))
    | (intro x; subst x)
    | intro _
    | (with_reducible refine State.count_ok _ _ _ ?_)
    | (with_reducible refine State.flushHeld_ok _ _ _ ?_)
    | (with_reducible refine State.holdCopy_ok _ _ _ _ _ ?_)
    | (with_reducible refine State.landRecs_ok _ _ _ _ ?_)
    | (with_reducible refine State.modXch_ok _ _ ?_)
    | split
    | lift_lets

theorem State.w2tReady_ok (s : State) (c : Nat) (hOk : s.Ok) : (State.w2tReady s c).Ok := by
  unfold State.w2tReady
  repeat' first
    | (simp only [State.modStep_ok, State.readTile_ok, *]; done)
    | (with_reducible refine ok_foldl _ _ _ ?_ ?_)
    | intro _
    | split

theorem weightDataOp_ok (s : State) (hOk : s.Ok) : (weightDataOp s).Ok := by
  unfold weightDataOp
  repeat' first
    | (simp only [State.memWrite_ok, State.modCtx_ok, State.modXch_ok, *]; done)
    | (intro x; refine State.cut (s := x) ?_ ?_; rotate_left; (clear_value x; intro hx); rotate_left; (subst x))
    | (intro x; subst x)
    | split
    | lift_lets

theorem State.tileBack_ok (s : State) (c idx a : Nat) (data : Bytes) (hOk : s.Ok) : (State.tileBack s c idx a data).Ok := by
  unfold State.tileBack
  repeat' first
    | (simp only [State.flushAll_ok, State.modStep_ok, State.outPoint_ok, State.sendPacket_ok, *]; done)
    | (intro x; refine State.cut (s := x) ?_ ?_; rotate_left; (clear_value x; intro hx); rotate_left; (subst x))
    | (intro x; subst x)
    | split
    | lift_lets

end Sys2Proof.Machine
end

