-- ==== Sys2Proof/Laws/ShapeDeliver.lean ====
section
/-! SUPPORT. Every operation of Machine/Deliver.lean keeps the shape of the state (`State.Ok`). -/

set_option linter.unusedSimpArgs false

namespace Sys2Proof.Machine

theorem State.keepDone_ok (s : State) (r : MemReq) (data : Bytes) (hOk : s.Ok) : (State.keepDone s r data).Ok := by
  unfold State.keepDone
  simp only [State.modDone_ok, *]

theorem State.rowDone_ok (s : State) (c : Nat) (t : Nat) (hOk : s.Ok) : (State.rowDone s c t).Ok := by
  unfold State.rowDone
  repeat' first
    | (simp only [State.guard_ok, State.modStep_ok, ok_mk, ok_regs, ok_ctxs, ok_pitches, ok_chs, ok_pts, ok_ports, lset_length, and_self, ok_ite, *]; done)
    | with_reducible assumption
    | (intro x; refine State.cut (s := x) ?_ ?_; rotate_left; (clear_value x; intro hx); rotate_left; (subst x))
    | (intro x; subst x)
    | intro _
    | (with_reducible refine State.guard_ok _ _ _ ?_)
    | (with_reducible refine State.modStep_ok _ _ _ ?_)
    | split
    | lift_lets

theorem State.rowBack_ok (s : State) (c : Nat) (idx : Nat) (data : Bytes) (hOk : s.Ok) :
    (State.rowBack s c idx data).Ok := by
  unfold State.rowBack
  repeat' first
    | (simp only [State.afterScore_ok, State.modStep_ok, State.rowDone_ok, ok_mk, ok_regs, ok_ctxs, ok_pitches, ok_chs, ok_pts, ok_ports, lset_length, and_self, ok_ite, *]; done)
    | with_reducible assumption
    | (intro x; refine State.cut (s := x) ?_ ?_; rotate_left; (clear_value x; intro hx); rotate_left; (subst x))
    | (intro x; subst x)
    | intro _
    | (with_reducible refine State.afterScore_ok _ _ ?_)
    | (with_reducible refine State.modStep_ok _ _ _ ?_)
    | (with_reducible refine State.rowDone_ok _ _ _ ?_)
    | split
    | lift_lets

theorem State.lineBack_ok (s : State) (r : MemReq) (data : Bytes) (hOk : s.Ok) : (State.lineBack s r data).Ok := by
  unfold State.lineBack
  repeat' first
    | (simp only [State.keepDone_ok, State.modKtl_ok, ok_mk, ok_regs, ok_ctxs, ok_pitches, ok_chs, ok_pts, ok_ports, lset_length, and_self, ok_ite, *]; done)
    | with_reducible assumption
    | (intro x; refine State.cut (s := x) ?_ ?_; rotate_left; (clear_value x; intro hx); rotate_left; (subst x))
    | (intro x; subst x)
    | intro _
    | (with_reducible refine State.keepDone_ok _ _ _ ?_)
    | (with_reducible refine State.modKtl_ok _ _ ?_)
    | split
    | lift_lets

theorem State.imagePart_ok (s : State) (r : MemReq) (data : Bytes) (hOk : s.Ok) : (State.imagePart s r data).Ok := by
  unfold State.imagePart
  simp only [State.keepDone_ok, ok_ite, *]

theorem State.regionWritten_ok (s : State) (r : MemReq) (u : MemUnit) (hOk : s.Ok) : (State.regionWritten s r u).Ok := by
  unfold State.regionWritten
  repeat' first
    | (simp only [State.memPost_ok, *]; done)
    | (with_reducible refine ok_foldl _ _ _ ?_ ?_)
    | intro _
    | split

theorem State.dropParts_ok (s : State) (u : MemUnit) (id : Nat) (hOk : s.Ok) : (State.dropParts s u id).Ok := by
  unfold State.dropParts
  simp only [State.modDone_ok, *]

theorem State.regionRead_ok (s : State) (r : MemReq) (u : MemUnit) (data : Bytes) (hOk : s.Ok) : (State.regionRead s r u data).Ok := by
  unfold State.regionRead
  repeat' first
    | (simp only [State.dropParts_ok, State.forwardRegion_ok, State.keepDone_ok, *]; done)
    | (intro x; refine State.cut (s := x) ?_ ?_; rotate_left; (clear_value x; intro hx); rotate_left; (subst x))
    | (intro x; subst x)
    | split
    | lift_lets

theorem State.listBack_ok (s : State) (c : Nat) (idx : Nat) (hOk : s.Ok) : (State.listBack s c idx).Ok := by
  unfold State.listBack
  simp only [State.modStep_ok, ok_mk, ok_regs, ok_ctxs, ok_pitches, ok_chs, ok_pts, ok_ports, lset_length, and_self, ok_ite, *]

theorem State.slotBack_ok (s : State) (c : Nat) (idx : Nat) (hOk : s.Ok) : (State.slotBack s c idx).Ok := by
  unfold State.slotBack
  simp only [State.modStep_ok, ok_mk, ok_regs, ok_ctxs, ok_pitches, ok_chs, ok_pts, ok_ports, lset_length, and_self, ok_ite, *]

theorem State.unitDone_ok (s : State) (r : MemReq) (data : Bytes) (hOk : s.Ok) : (State.unitDone s r data).Ok := by
  unfold State.unitDone
  repeat' first
    | (simp only [State.answer_ok, State.expertBack_ok, State.expertRead_ok, State.getWritten_ok, State.go_ok, State.imagePart_ok, State.keepDone_ok, State.lineBack_ok, State.listBack_ok, State.putWritten_ok, State.regionRead_ok, State.regionWritten_ok, State.rowBack_ok, State.slotBack_ok, State.tileBack_ok, State.w2tReady_ok, *]; done)
    | with_reducible assumption
    | (intro x; refine State.cut (s := x) ?_ ?_; rotate_left; (clear_value x; intro hx); rotate_left; (subst x))
    | (intro x; subst x)
    | (with_reducible refine State.answer_ok _ _ ?_)
    | (with_reducible refine State.expertBack_ok _ _ _ _ ?_)
    | (with_reducible refine State.expertRead_ok _ _ _ _ _ _ _ ?_)
    | (with_reducible refine State.getWritten_ok _ _ _ ?_)
    | (with_reducible refine State.go_ok _ _ _ ?_)
    | (with_reducible refine State.imagePart_ok _ _ _ ?_)
    | (with_reducible refine State.keepDone_ok _ _ _ ?_)
    | (with_reducible refine State.lineBack_ok _ _ _ ?_)
    | (with_reducible refine State.listBack_ok _ _ _ ?_)
    | (with_reducible refine State.putWritten_ok _ _ _ ?_)
    | (with_reducible refine State.regionRead_ok _ _ _ _ ?_)
    | (with_reducible refine State.regionWritten_ok _ _ _ ?_)
    | (with_reducible refine State.rowBack_ok _ _ _ _ ?_)
    | (with_reducible refine State.slotBack_ok _ _ _ ?_)
    | (with_reducible refine State.tileBack_ok _ _ _ _ _ ?_)
    | (with_reducible refine State.w2tReady_ok _ _ ?_)
    | split
    | lift_lets

theorem State.deliver_ok (s : State) (r : MemReq) (data : Bytes) (ok : s.Ok) : (State.deliver s r data).Ok := by
  unfold State.deliver
  split
  · exact State.bivBack_ok _ _ _ ok
  · exact State.bivGone_ok _ _ ok
  · dsimp only
    have h := ok_ite (c := r.ctx ≠ 0 ∧ (s.ctx r.ctx).active = false) ok (State.unitDone_ok _ r data (State.progress_ok s r.ctx ok))
    exact ok_ite (State.endGo_ok _ _ _ (State.cancelCheck_ok _ _ (State.downCheck_ok _ _ h))) h

theorem State.memUnitFault_ok (s : State) (r : MemReq) (code : Nat) (ch : Nat) (hOk : s.Ok) :
    (State.memUnitFault s r code ch).Ok := by
  unfold State.memUnitFault
  repeat' first
    | (simp only [State.badBatch_ok, State.bivFail_ok, State.ctxFault_ok, State.downCheck_ok, State.dropParts_ok, State.dropSlot_ok, State.expertRead_ok, State.memFault_ok, ok_ite, *]; done)
    | with_reducible assumption
    | (with_reducible refine State.badBatch_ok _ _ _ ?_)
    | (with_reducible refine State.bivFail_ok _ ?_)
    | (with_reducible refine State.ctxFault_ok _ _ _ ?_)
    | (with_reducible refine State.downCheck_ok _ _ ?_)
    | (with_reducible refine State.dropParts_ok _ _ _ ?_)
    | (with_reducible refine State.dropSlot_ok _ _ ?_)
    | (with_reducible refine State.expertRead_ok _ _ _ _ _ _ _ ?_)
    | (with_reducible refine State.memFault_ok _ _ _ _ ?_)
    | split

end Sys2Proof.Machine
end

