-- ==== Sys2Proof/Laws/ShapeDeterm.lean ====
section
/-! SUPPORT. Every operation of Machine/Determ.lean keeps the shape of the state (`State.Ok`). -/

set_option linter.unusedSimpArgs false

namespace Sys2Proof.Machine

theorem plockOp_ok (on : Bool) (s : State) (hOk : s.Ok) : (plockOp on s).Ok := by
  unfold plockOp
  try lift_lets
  repeat' first
    | (simp only [State.ackWrite_ok, State.fresh_ok, State.recWrite_ok, State.wr_ok, State.wrF_ok, ok_mk, ok_regs, ok_ctxs, ok_pitches, ok_chs, ok_pts, ok_ports, List.length_map, and_self, *]; done)
    | (with_reducible refine ok_foldl _ _ _ ?_ ?_)
    | (intro x; refine State.cut (s := x) ?_ ?_; rotate_left; (clear_value x; intro hx); rotate_left; (subst x))
    | intro _
    | split

theorem recordCtlOp_ok (data : W32) (s : State) (hOk : s.Ok) : (recordCtlOp data s).Ok := by
  unfold recordCtlOp
  repeat' first
    | (simp only [State.ackWrite_ok, State.fresh_ok, State.recWrite_ok, State.wr_ok, ok_mk, ok_regs, ok_ctxs, ok_pitches, ok_chs, ok_pts, ok_ports, and_self, *]; done)
    | (intro x; refine State.cut (s := x) ?_ ?_; rotate_left; (clear_value x; intro hx); rotate_left; (subst x))
    | (intro x; subst x)
    | split
    | lift_lets

theorem slipOp_ok (p : Nat) (s : State) (hOk : s.Ok) : (slipOp p s).Ok := by
  unfold slipOp
  simp only [State.slip_ok, ok_ite, *]

end Sys2Proof.Machine
end

