-- ==== Sys2Proof/Laws/ShapeFences.lean ====
section
/-! SUPPORT. Every operation of Machine/Fences.lean keeps the shape of the state (`State.Ok`). -/

set_option linter.unusedSimpArgs false

namespace Sys2Proof.Machine

theorem fenceTpOp_ok (addr : BitVec 23) (data : W32) (s : State) (hOk : s.Ok) : (fenceTpOp addr data s).Ok := by
  unfold fenceTpOp
  repeat' first
    | (simp only [State.ackWrite_ok, State.ignored_ok, State.recWrite_ok, ok_mk, ok_regs, ok_ctxs, ok_pitches, ok_chs, ok_pts, ok_ports, and_self, *]; done)
    | (intro x; refine State.cut (s := x) ?_ ?_; rotate_left; (clear_value x; intro hx); rotate_left; (subst x))
    | (intro x; subst x)
    | split
    | lift_lets

theorem proposalClearOp_ok (s : State) (hOk : s.Ok) : (proposalClearOp s).Ok := by
  unfold proposalClearOp
  repeat' first
    | (simp only [State.ackWrite_ok, State.ignored_ok, State.recWrite_ok, ok_mk, ok_regs, ok_ctxs, ok_pitches, ok_chs, ok_pts, ok_ports, and_self, *]; done)
    | (intro x; refine State.cut (s := x) ?_ ?_; rotate_left; (clear_value x; intro hx); rotate_left; (subst x))
    | split
    | lift_lets

theorem State.applyProposal_ok (s : State) (hOk : s.Ok) : (State.applyProposal s).Ok := by
  unfold State.applyProposal
  repeat' first
    | (simp only [State.wr_ok, *]; done)
    | (with_reducible refine ok_foldl _ _ _ ?_ ?_)
    | intro _

theorem proposalSubmitOp_ok (s : State) (hOk : s.Ok) : (proposalSubmitOp s).Ok := by
  unfold proposalSubmitOp
  repeat' first
    | (simp only [State.ackWrite_ok, State.ignored_ok, State.notice_ok, State.recWrite_ok, State.setBit_ok, State.wr_ok, ok_mk, ok_regs, ok_ctxs, ok_pitches, ok_chs, ok_pts, ok_ports, and_self, *]; done)
    | (intro x; refine State.cut (s := x) ?_ ?_; rotate_left; (clear_value x; intro hx); rotate_left; (subst x))
    | (intro x; subst x)
    | (with_reducible refine State.event_ok _ _ _ _ _ ?_ )
    | split
    | lift_lets

theorem State.unpend_ok (s : State) (hOk : s.Ok) : (State.unpend s).Ok := by
  unfold State.unpend
  simp only [ok_mk, ok_regs, ok_ctxs, ok_pitches, ok_chs, ok_pts, ok_ports, and_self, *]

theorem verdictOp_ok (word : W64) (s : State) (hOk : s.Ok) : (verdictOp word s).Ok := by
  unfold verdictOp
  repeat' first
    | (simp only [State.applyProposal_ok, State.count_ok, State.unpend_ok, *]; done)
    | (intro x; subst x)
    | (with_reducible refine State.setBit_ok _ _ _ ?_ )
    | split
    | lift_lets

theorem signExpireOp_ok (s : State) (hOk : s.Ok) : (signExpireOp s).Ok := by
  unfold signExpireOp
  repeat' first
    | (simp only [State.setBit_ok, State.unpend_ok, *]; done)
    | (with_reducible refine State.event_ok _ _ _ _ _ ?_ )
    | (with_reducible refine State.notice_ok _ _ ?_ )
    | split

end Sys2Proof.Machine
end

