-- ==== Sys2Proof/Laws/ShapeInfuse.lean ====
section
/-! SUPPORT. Every operation of Machine/Infuse.lean keeps the shape of the state (`State.Ok`). -/

set_option linter.unusedSimpArgs false

namespace Sys2Proof.Machine

theorem State.infRefuse_ok (s : State) (expert : Bool) (hOk : s.Ok) : (State.infRefuse s expert).Ok := by
  unfold State.infRefuse
  simp only [State.event_ok, *]

theorem State.zeroFault_ok (s : State) (hv : HostView) (a : Nat) (hOk : s.Ok) : (State.zeroFault s hv a).Ok := by
  unfold State.zeroFault
  simp only [State.memFault_ok, *]

theorem State.routerCopy_ok (s : State) (hv : HostView) (b : Bytes) (hOk : s.Ok) : (State.routerCopy s hv b).Ok := by
  unfold State.routerCopy
  repeat' first
    | (simp only [State.chargeMem_ok, State.infDone_ok, State.infRefuse_ok, State.modCopy_ok, State.postPieces_ok, *]; done)
    | (intro x; refine State.cut (s := x) ?_ ?_; rotate_left; (clear_value x; intro hx); rotate_left; (subst x))
    | (intro x; subst x)
    | split
    | lift_lets

theorem routerGoOp_ok (hv : HostView) (s : State) (hOk : s.Ok) : (routerGoOp hv s).Ok := by
  unfold routerGoOp
  repeat' first
    | (simp only [State.chargeRead_ok, State.routerCopy_ok, State.zeroFault_ok, *]; done)
    | (with_reducible refine State.infRefuse_ok _ _ ?_ )
    | (with_reducible refine State.wrote_ok _ _ _ ?_ )
    | split

theorem State.sendWord_ok (s : State) (i a : Nat) (hOk : s.Ok) : (State.sendWord s i a).Ok := by
  unfold State.sendWord
  simp only [State.postPieces_ok, *]

theorem State.expertCopy_ok (s : State) (hv : HostView) (b : Bytes) (hOk : s.Ok) : (State.expertCopy s hv b).Ok := by
  unfold State.expertCopy
  repeat' first
    | (simp only [State.chargeMem_ok, State.chargeRead_ok, State.infRefuse_ok, State.modCopy_ok, State.postPieces_ok, State.sendWord_ok, *]; done)
    | (with_reducible refine ok_foldl _ _ _ ?_ ?_)
    | (intro x; refine State.cut (s := x) ?_ ?_; rotate_left; (clear_value x; intro hx); rotate_left; (subst x))
    | intro _
    | split
    | lift_lets

theorem expertGoOp_ok (hv : HostView) (s : State) (hOk : s.Ok) : (expertGoOp hv s).Ok := by
  unfold expertGoOp
  repeat' first
    | (simp only [State.chargeRead_ok, State.expertCopy_ok, State.zeroFault_ok, *]; done)
    | (with_reducible refine State.infRefuse_ok _ _ ?_ )
    | (with_reducible refine State.wrote_ok _ _ _ ?_ )
    | split

theorem infStallOp_ok (router : Bool) (s : State) (hOk : s.Ok) : (infStallOp router s).Ok := by
  unfold infStallOp
  simp only [State.infFail_ok, ok_ite, *]

theorem State.snapWrite_ok (s : State) (off : Nat) (bs : Bytes) (hOk : s.Ok) : (State.snapWrite s off bs).Ok := by
  unfold State.snapWrite
  simp only [State.postPieces_ok, ok_mk, ok_regs, ok_ctxs, ok_pitches, ok_chs, ok_pts, ok_ports, and_self, *]

theorem State.snapNext_ok (s : State) (hOk : s.Ok) : (State.snapNext s).Ok := by
  unfold State.snapNext
  repeat' first
    | (simp only [State.event_ok, State.setBit_ok, State.wr_ok, ok_mk, ok_regs, ok_ctxs, ok_pitches, ok_chs, ok_pts, ok_ports, and_self, *]; done)
    | (intro x; refine State.cut (s := x) ?_ ?_; rotate_left; (clear_value x; intro hx); rotate_left; (subst x))
    | (intro x; subst x)
    | (with_reducible refine State.snapEnd_ok _ ?_ )
    | (with_reducible refine State.snapWrite_ok _ _ _ ?_ )
    | split
    | lift_lets

theorem State.snapStart_ok (s : State) (hv : HostView) (hOk : s.Ok) : (State.snapStart s hv).Ok := by
  unfold State.snapStart
  simp only [State.snapWrite_ok, ok_mk, ok_regs, ok_ctxs, ok_pitches, ok_chs, ok_pts, ok_ports, and_self, *]

theorem State.snapGo_ok (s : State) (hv : HostView) (hOk : s.Ok) : (State.snapGo s hv).Ok := by
  unfold State.snapGo
  repeat' first
    | (simp only [State.event_ok, State.setBit_ok, State.snapStart_ok, State.zeroFault_ok, ok_ite, *]; done)
    | with_reducible assumption
    | (with_reducible refine State.event_ok _ _ _ _ _ ?_)
    | (with_reducible refine State.setBit_ok _ _ _ ?_)
    | (with_reducible refine State.snapStart_ok _ _ ?_)
    | (with_reducible refine State.zeroFault_ok _ _ _ ?_)
    | split

theorem snapshotGoOp_ok (advice : Bool) (data : W32) (hv : HostView) (s : State) (hOk : s.Ok) :
    (snapshotGoOp advice data hv s).Ok := by
  unfold snapshotGoOp
  repeat' first
    | (simp only [State.snapGo_ok, State.store_ok, State.wrote_ok, ok_mk, ok_regs, ok_ctxs, ok_pitches, ok_chs, ok_pts, ok_ports, lset_length, and_self, ok_ite, *]; done)
    | with_reducible assumption
    | (intro x; refine State.cut (s := x) ?_ ?_; rotate_left; (clear_value x; intro hx); rotate_left; (subst x))
    | (intro x; subst x)
    | (with_reducible refine State.snapGo_ok _ _ ?_)
    | (with_reducible refine State.store_ok _ _ _ _ ?_)
    | (with_reducible refine State.wrote_ok _ _ _ ?_)
    | split
    | lift_lets

theorem snapStallOp_ok (s : State) (hOk : s.Ok) : (snapStallOp s).Ok := by
  unfold snapStallOp
  simp only [State.snapFail_ok, ok_ite, *]

theorem adviseEndOp_ok (s : State) (hOk : s.Ok) : (adviseEndOp s).Ok := by
  unfold adviseEndOp
  simp only [ok_mk, ok_regs, ok_ctxs, ok_pitches, ok_chs, ok_pts, ok_ports, ok_ite, and_self, *]

theorem State.infCompleted_ok (s : State) (ref len : Nat) (hOk : s.Ok) : (State.infCompleted s ref len).Ok := by
  unfold State.infCompleted
  repeat' first
    | (simp only [State.infDone_ok, State.modCopy_ok, State.sendWord_ok, *]; done)
    | (intro x; subst x)
    | split
    | lift_lets

theorem State.putCompleted_ok (s : State) (m : Short) (i : Nat) (hOk : s.Ok) : (State.putCompleted s m i).Ok := by
  unfold State.putCompleted
  repeat' first
    | (simp only [State.chainDone_ok, State.modXch_ok, State.progress_ok, ok_mk, ok_regs, ok_ctxs, ok_pitches, ok_chs, ok_pts, ok_ports, lset_length, and_self, ok_ite, *]; done)
    | with_reducible assumption
    | (intro x; refine State.cut (s := x) ?_ ?_; rotate_left; (clear_value x; intro hx); rotate_left; (subst x))
    | (intro x; subst x)
    | intro _
    | (with_reducible refine State.chainDone_ok _ _ _ ?_)
    | (with_reducible refine State.modXch_ok _ _ ?_)
    | (with_reducible refine State.progress_ok _ _ ?_)
    | split
    | lift_lets

theorem putCompletionOp_ok (s : State) (hOk : s.Ok) : (putCompletionOp s).Ok := by
  unfold putCompletionOp
  repeat' first
    | (simp only [State.freeChunk_ok, State.infCompleted_ok, State.putCompleted_ok, State.snapNext_ok, ok_mk, ok_regs, ok_ctxs, ok_pitches, ok_chs, ok_pts, ok_ports, lset_length, and_self, ok_ite, *]; done)
    | with_reducible assumption
    | (intro x; refine State.cut (s := x) ?_ ?_; rotate_left; (clear_value x; intro hx); rotate_left; (subst x))
    | (intro x; subst x)
    | (with_reducible refine State.freeChunk_ok _ _ ?_)
    | (with_reducible refine State.infCompleted_ok _ _ _ ?_)
    | (with_reducible refine State.putCompleted_ok _ _ _ ?_)
    | (with_reducible refine State.snapNext_ok _ ?_)
    | (split <;> try (rename_i e; have hx := State.takeShort_ok (by assumption) e))
    | split
    | lift_lets

theorem State.loadReg_ok (s : State) (a v : Nat) (hOk : s.Ok) : (State.loadReg s a v).Ok := by
  unfold State.loadReg
  repeat' first
    | (simp only [State.wr_ok, *]; done)
    | split

theorem State.loadBlock_ok (s : State) (hv : HostView) (a : Nat) (hOk : s.Ok) : (State.loadBlock s hv a).Ok := by
  unfold State.loadBlock
  repeat' first
    | (simp only [State.loadReg_ok, ok_mk, ok_regs, ok_ctxs, ok_pitches, ok_chs, ok_pts, ok_ports, List.length_map, and_self, *]; done)
    | (with_reducible refine ok_foldl _ _ _ ?_ ?_)
    | (intro x; refine State.cut (s := x) ?_ ?_; rotate_left; (clear_value x; intro hx); rotate_left; (subst x))
    | intro _
    | (with_reducible refine State.wr_ok _ _ _ ?_ )
    | lift_lets

theorem State.loadCtx_ok (s : State) (c : Nat) (b : Bytes) (hOk : s.Ok) : (State.loadCtx s c b).Ok := by
  unfold State.loadCtx
  repeat' first
    | (simp only [State.loadReg_ok, State.modCtx_ok, *]; done)
    | (with_reducible refine ok_foldl _ _ _ ?_ ?_)
    | intro _
    | split

theorem State.resumeCtx_ok (s : State) (c : Nat) (hOk : s.Ok) : (State.resumeCtx s c).Ok := by
  unfold State.resumeCtx
  repeat' first
    | (simp only [State.modCtx_ok, ok_mk, ok_regs, ok_ctxs, ok_pitches, ok_chs, ok_pts, ok_ports, and_self, *]; done)
    | (with_reducible refine State.postQuery_ok _ _ _ _ ?_ )

theorem takeCtxRecord_ok (x : State × List Nat) (c : Nat) (b : Bytes) (ok : OkFst x) : OkFst (takeCtxRecord x c b) := by
  unfold takeCtxRecord
  split
  · exact State.loadCtx_ok _ _ _ ok
  · exact State.event_ok _ _ _ _ _ ok

theorem State.loadCtxs_ok (s : State) (hv : HostView) (a : Nat) (ok : s.Ok) : (State.loadCtxs s hv a).Ok := by
  unfold State.loadCtxs
  exact ok_foldl _ _ _ (ok_foldl_fst _ _ _ ok (fun x c h => takeCtxRecord_ok _ _ _ h))
    (fun s c h => State.resumeCtx_ok s c h)

theorem State.restore_ok (s : State) (hv : HostView) (hOk : s.Ok) : (State.restore s hv).Ok := by
  unfold State.restore
  repeat' first
    | (simp only [State.event_ok, State.loadBlock_ok, State.loadCtxs_ok, *]; done)
    | split
    | (dsimp only)

theorem restoreGoOp_ok (hv : HostView) (s : State) (hOk : s.Ok) : (restoreGoOp hv s).Ok := by
  unfold restoreGoOp
  repeat' first
    | (simp only [State.event_ok, State.restore_ok, State.wrote_ok, State.zeroFault_ok, *]; done)
    | (intro x; refine State.cut (s := x) ?_ ?_; rotate_left; (clear_value x; intro hx); rotate_left; (subst x))
    | split
    | lift_lets

end Sys2Proof.Machine
end

