-- ==== Sys2Proof/Laws/ShapeLink.lean ====
section
/-! SUPPORT. Every operation of Machine/Link.lean keeps the shape of the state (`State.Ok`). -/

set_option linter.unusedSimpArgs false

namespace Sys2Proof.Machine

theorem State.finChains_ok (s : State) (qs : List QFlit) (hOk : s.Ok) : (State.finChains s qs).Ok := by
  unfold State.finChains
  repeat' first
    | (simp only [State.chainDone_ok, *]; done)
    | (with_reducible refine ok_foldl _ _ _ ?_ ?_)
    | intro _
    | split

theorem State.applyFields_ok {s : State} {n : Nat} {h : FlitH} {t : State} (ok : s.Ok)
    (e : State.applyFields s n h = some t) : t.Ok := by
  unfold State.applyFields at e
  dsimp only at e
  split at e
  · cases e
  · rename_i k _
    have h1 := State.finChains_ok _ (s.applyAck n k).2 (State.applyAck_ok s n k ok)
    generalize (s.applyAck n k).1.finChains (s.applyAck n k).2 = u at h1 e
    have h2 : (if (h.nak && !decide ((u.port n).retry = [])) = true then u.modPort n (fun p => { p with rs := some 0 })
        else u).Ok := ok_ite (State.modPort_ok _ _ _ h1) h1
    generalize (if (h.nak && !decide ((u.port n).retry = [])) = true then u.modPort n (fun p => { p with rs := some 0 })
        else u) = v at h2 e
    split at e
    · cases e
      exact h2
    · cases e
      have h3 := State.applyCredit_ok _ n h.crVc h.crCnt h2
      exact ok_ite h3 (State.linkProto_ok _ _ h3)

theorem State.discardFlit_ok (s : State) (n : Nat) (hOk : s.Ok) : (State.discardFlit s n).Ok := by
  unfold State.discardFlit
  simp only [State.modPort_ok, *]

theorem State.flitTaken_ok (s : State) (n : Nat) (hOk : s.Ok) : (State.flitTaken s n).Ok := by
  unfold State.flitTaken
  simp only [State.modPort_ok, ok_mk, ok_regs, ok_ctxs, ok_pitches, ok_chs, ok_pts, ok_ports, lset_length, and_self, *]

theorem linkFlitOp_ok (n : Nat) (f : Bytes) (par : List Bool) (lrErr : Bool) (s : State) (hOk : s.Ok) :
    (linkFlitOp n f par lrErr s).Ok := by
  unfold linkFlitOp
  repeat' first
    | (simp only [State.countSat_ok, State.discardFlit_ok, State.event_ok, State.flitTaken_ok, State.landFlit_ok, State.landShort_ok, State.linkProto_ok, State.modPort_ok, State.modXch_ok, ok_mk, ok_regs, ok_ctxs, ok_pitches, ok_chs, ok_pts, ok_ports, lset_length, and_self, ok_ite, *]; done)
    | with_reducible assumption
    | (intro x; refine State.cut (s := x) ?_ ?_; rotate_left; (clear_value x; intro hx); rotate_left; (subst x))
    | (intro x; subst x)
    | intro _
    | (with_reducible refine State.countSat_ok _ _ _ _ _ ?_)
    | (with_reducible refine State.discardFlit_ok _ _ ?_)
    | (with_reducible refine State.event_ok _ _ _ _ _ ?_)
    | (with_reducible refine State.flitTaken_ok _ _ ?_)
    | (with_reducible refine State.landFlit_ok _ _ _ _ ?_)
    | (with_reducible refine State.landShort_ok _ _ _ _ ?_)
    | (with_reducible refine State.linkProto_ok _ _ ?_)
    | (with_reducible refine State.modPort_ok _ _ _ ?_)
    | (with_reducible refine State.modXch_ok _ _ ?_)
    | (split <;> try (rename_i e; have hx := State.applyFields_ok (by assumption) e))
    | split
    | lift_lets

theorem controlFlitOp_ok (n : Nat) (f : Bytes) (par : List Bool) (lrErr : Bool) (s : State) (hOk : s.Ok) :
    (controlFlitOp n f par lrErr s).Ok := by
  unfold controlFlitOp
  repeat' first
    | (simp only [State.discardFlit_ok, State.flitTaken_ok, State.linkProto_ok, ok_ite, *]; done)
    | with_reducible assumption
    | (intro x; refine State.cut (s := x) ?_ ?_; rotate_left; (clear_value x; intro hx); rotate_left; (subst x))
    | (intro x; subst x)
    | (with_reducible refine State.discardFlit_ok _ _ ?_)
    | (with_reducible refine State.flitTaken_ok _ _ ?_)
    | (with_reducible refine State.linkProto_ok _ _ ?_)
    | (split <;> try (rename_i e; have hx := State.applyFields_ok (by assumption) e))
    | split
    | lift_lets

theorem State.resumeFrom_ok (s : State) (n rxNext : Nat) (hOk : s.Ok) : (State.resumeFrom s n rxNext).Ok := by
  unfold State.resumeFrom
  repeat' first
    | (simp only [State.applyAck_ok, State.finChains_ok, *]; done)
    | (with_reducible refine State.modPort_ok _ _ _ ?_ )
    | split

theorem State.linkUp_ok (s : State) (n : Nat) (h : Hello) (agree : Bool) (hOk : s.Ok) :
    (State.linkUp s n h agree).Ok := by
  unfold State.linkUp
  repeat' first
    | (simp only [State.digest_ok, State.modPort_ok, State.resumeFrom_ok, ok_mk, ok_regs, ok_ctxs, ok_pitches, ok_chs, ok_pts, ok_ports, lset_length, and_self, ok_ite, *]; done)
    | with_reducible assumption
    | (intro x; refine State.cut (s := x) ?_ ?_; rotate_left; (clear_value x; intro hx); rotate_left; (subst x))
    | (intro x; subst x)
    | intro _
    | (with_reducible refine State.digest_ok _ _ _ _ _ ?_)
    | (with_reducible refine State.modPort_ok _ _ _ ?_)
    | (with_reducible refine State.resumeFrom_ok _ _ _ ?_)
    | split
    | lift_lets

theorem helloFlitOp_ok (n : Nat) (f : Bytes) (par : List Bool) (lrErr : Bool) (s : State) (hOk : s.Ok) :
    (helloFlitOp n f par lrErr s).Ok := by
  unfold helloFlitOp
  repeat' first
    | (simp only [State.digest_ok, State.discardFlit_ok, State.eventAt_ok, State.flitTaken_ok, State.linkProto_ok, State.linkUp_ok, State.modPort_ok, State.notice_ok, ok_mk, ok_regs, ok_ctxs, ok_pitches, ok_chs, ok_pts, ok_ports, lset_length, and_self, ok_ite, *]; done)
    | with_reducible assumption
    | (intro x; refine State.cut (s := x) ?_ ?_; rotate_left; (clear_value x; intro hx); rotate_left; (subst x))
    | (intro x; subst x)
    | intro _
    | (with_reducible refine State.digest_ok _ _ _ _ _ ?_)
    | (with_reducible refine State.discardFlit_ok _ _ ?_)
    | (with_reducible refine State.eventAt_ok _ _ _ _ _ _ ?_)
    | (with_reducible refine State.flitTaken_ok _ _ ?_)
    | (with_reducible refine State.linkProto_ok _ _ ?_)
    | (with_reducible refine State.linkUp_ok _ _ _ _ ?_)
    | (with_reducible refine State.modPort_ok _ _ _ ?_)
    | (with_reducible refine State.notice_ok _ _ ?_)
    | (split <;> try (rename_i e; have hx := State.applyFields_ok (by assumption) e))
    | split
    | lift_lets

theorem State.wireOut_ok (s : State) (n : Nat) (h : FlitH) (pay : Bytes) (hOk : s.Ok) : (State.wireOut s n h pay).Ok := by
  unfold State.wireOut
  simp only [ok_mk, ok_regs, ok_ctxs, ok_pitches, ok_chs, ok_pts, ok_ports, and_self, *]

theorem State.sendAgain_ok (s : State) (n i : Nat) (q : QFlit) (hOk : s.Ok) : (State.sendAgain s n i q).Ok := by
  unfold State.sendAgain
  repeat' first
    | (simp only [State.countSat_ok, State.linkFail_ok, State.modPort_ok, State.wireOut_ok, *]; done)
    | (intro x; refine State.cut (s := x) ?_ ?_; rotate_left; (clear_value x; intro hx); rotate_left; (subst x))
    | (intro x; subst x)
    | (with_reducible refine State.energy_ok _ _ _ _ _ ?_ )
    | split
    | lift_lets

theorem State.sendNew_ok (s : State) (n v a u : Nat) (hOk : s.Ok) : (State.sendNew s n v a u).Ok := by
  unfold State.sendNew
  repeat' first
    | (simp only [State.modPort_ok, State.wireOut_ok, *]; done)
    | (with_reducible refine State.acctAdd_ok _ _ _ _ ?_ )
    | (with_reducible refine State.energy_ok _ _ _ _ _ ?_ )
    | split
    | (dsimp only)

theorem State.sendPlain_ok (s : State) (n ft : Nat) (pay : Bytes) (hOk : s.Ok) : (State.sendPlain s n ft pay).Ok := by
  unfold State.sendPlain
  simp only [State.modPort_ok, State.wireOut_ok, *]

theorem transmitOp_ok (n : Nat) (s : State) (hOk : s.Ok) : (transmitOp n s).Ok := by
  unfold transmitOp
  repeat' first
    | (simp only [State.modPort_ok, State.sendAgain_ok, State.sendNew_ok, State.sendPlain_ok, *]; done)
    | (intro x; subst x)
    | split
    | lift_lets

theorem ackTimeoutOp_ok (n : Nat) (s : State) (hOk : s.Ok) : (ackTimeoutOp n s).Ok := by
  unfold ackTimeoutOp
  simp only [State.modPort_ok, ok_ite, *]

theorem phyUpOp_ok (n : Nat) (s : State) (hOk : s.Ok) : (phyUpOp n s).Ok := by
  unfold phyUpOp
  simp only [State.modPort_ok, ok_ite, *]

theorem helloTimerOp_ok (n : Nat) (s : State) (hOk : s.Ok) : (helloTimerOp n s).Ok := by
  unfold helloTimerOp
  simp only [State.modPort_ok, ok_ite, *]

theorem phyDownOp_ok (n : Nat) (low : Nat) (s : State) (hOk : s.Ok) : (phyDownOp n low s).Ok := by
  unfold phyDownOp
  simp only [State.linkFail_ok, ok_ite, *]

theorem retryBoundOp_ok (n : Nat) (s : State) (hOk : s.Ok) : (retryBoundOp n s).Ok := by
  unfold retryBoundOp
  simp only [State.linkFail_ok, ok_ite, *]

theorem spareTimeoutOp_ok (n : Nat) (s : State) (hOk : s.Ok) : (spareTimeoutOp n s).Ok := by
  unfold spareTimeoutOp
  simp only [State.reroutePort_ok, ok_ite, *]

theorem disagreeOp_ok (n : Nat) (s : State) (hOk : s.Ok) : (disagreeOp n s).Ok := by
  unfold disagreeOp
  repeat' first
    | (simp only [State.modPort_ok, State.notice_ok, *]; done)
    | (intro x; subst x)
    | split
    | lift_lets

theorem stuckOp_ok (cls : Nat) (i : Nat) (left : Nat) (s : State) (hOk : s.Ok) : (stuckOp cls i left s).Ok := by
  unfold stuckOp
  repeat' first
    | (simp only [State.countSat_ok, State.detect_ok, State.isolateCore_ok, State.isolateMem_ok, State.linkDown_ok, State.stuckEvent_ok, ok_ite, *]; done)
    | with_reducible assumption
    | (intro x; refine State.cut (s := x) ?_ ?_; rotate_left; (clear_value x; intro hx); rotate_left; (subst x))
    | (intro x; subst x)
    | (with_reducible refine State.countSat_ok _ _ _ _ _ ?_)
    | (with_reducible refine State.detect_ok _ ?_)
    | (with_reducible refine State.isolateCore_ok _ _ _ ?_)
    | (with_reducible refine State.isolateMem_ok _ _ ?_)
    | (with_reducible refine State.linkDown_ok _ _ ?_)
    | (with_reducible refine State.stuckEvent_ok _ _ _ ?_)
    | split
    | lift_lets

theorem isoReleaseOp_ok (cls i : Nat) (s : State) (hOk : s.Ok) : (isoReleaseOp cls i s).Ok := by
  unfold isoReleaseOp
  repeat' first
    | (simp only [State.modCh_ok, State.modPort_ok, State.modPt_ok, *]; done)
    | split

end Sys2Proof.Machine
end

