-- ==== Sys2Proof/Laws/ShapeMemory.lean ====
section
/-! SUPPORT. Every operation of Machine/Memory.lean keeps the shape of the state (`State.Ok`). -/

set_option linter.unusedSimpArgs false

namespace Sys2Proof.Machine

theorem State.issueReq_ok (s : State) (c : Nat) (t : Nat) (r : MemReq) (hOk : s.Ok) :
    (State.issueReq s c t r).Ok := by
  unfold State.issueReq
  repeat' first
    | (simp only [State.modCh_ok, State.modWait_ok, State.wr_ok, ok_mk, ok_regs, ok_ctxs, ok_pitches, ok_chs, ok_pts, ok_ports, lset_length, and_self, ok_ite, *]; done)
    | with_reducible assumption
    | (intro x; refine State.cut (s := x) ?_ ?_; rotate_left; (clear_value x; intro hx); rotate_left; (subst x))
    | (intro x; subst x)
    | intro _
    | (with_reducible refine State.modCh_ok _ _ _ ?_)
    | (with_reducible refine State.modWait_ok _ _ ?_)
    | (with_reducible refine State.wr_ok _ _ _ ?_)
    | split
    | lift_lets

theorem State.chargeIssue_ok (s : State) (c : Nat) (r : MemReq) (hOk : s.Ok) : (State.chargeIssue s c r).Ok := by
  unfold State.chargeIssue
  repeat' first
    | (simp only [State.chargeMem_ok, ok_mk, ok_regs, ok_ctxs, ok_pitches, ok_chs, ok_pts, ok_ports, lset_length, and_self, ok_ite, *]; done)
    | with_reducible assumption
    | intro _
    | (with_reducible refine State.chargeMem_ok _ _ _ _ _ ?_)
    | split

theorem State.withhold_ok (s : State) (c : Nat) (hOk : s.Ok) : (State.withhold s c).Ok := by
  unfold State.withhold
  repeat' first
    | (simp only [State.modWait_ok, State.slip_ok, ok_mk, ok_regs, ok_ctxs, ok_pitches, ok_chs, ok_pts, ok_ports, lset_length, and_self, ok_ite, *]; done)
    | with_reducible assumption
    | (with_reducible refine ok_foldl _ _ _ ?_ ?_)
    | (intro x; refine State.cut (s := x) ?_ ?_; rotate_left; (clear_value x; intro hx); rotate_left; (subst x))
    | (intro x; subst x)
    | intro _
    | (with_reducible refine State.modWait_ok _ _ ?_)
    | (with_reducible refine State.slip_ok _ _ ?_)
    | split
    | lift_lets

theorem memIssueOp_ok (c : Nat) (s : State) (hOk : s.Ok) : (memIssueOp c s).Ok := by
  unfold memIssueOp
  repeat' first
    | (simp only [State.chargeIssue_ok, State.issueReq_ok, State.withhold_ok, State.wr_ok, ok_ite, *]; done)
    | with_reducible assumption
    | (intro x; refine State.cut (s := x) ?_ ?_; rotate_left; (clear_value x; intro hx); rotate_left; (subst x))
    | (intro x; subst x)
    | (with_reducible refine State.chargeIssue_ok _ _ _ ?_)
    | (with_reducible refine State.issueReq_ok _ _ _ _ ?_)
    | (with_reducible refine State.withhold_ok _ _ ?_)
    | (with_reducible refine State.wr_ok _ _ _ ?_)
    | (with_reducible refine State.stampQuery_ok _ _ ?_)
    | split
    | lift_lets

theorem State.memProto_ok (s : State) (c tag : Nat) (hOk : s.Ok) : (State.memProto s c tag).Ok := by
  unfold State.memProto
  repeat' first
    | (simp only [State.countSat_ok, State.event_ok, State.isolateMem_ok, State.modCh_ok, State.stuckEvent_ok, *]; done)
    | (intro x; refine State.cut (s := x) ?_ ?_; rotate_left; (clear_value x; intro hx); rotate_left; (subst x))
    | (intro x; subst x)
    | split
    | lift_lets

theorem State.reissue_ok (s : State) (r : MemReq) (hOk : s.Ok) : (State.reissue s r).Ok := by
  unfold State.reissue
  simp only [State.waitAgain_ok, *]

theorem State.memRetry_ok (s : State) (c : Nat) (r : MemReq) (spent : Bool) (code : Nat) (hOk : s.Ok) : (State.memRetry s c r spent code).Ok := by
  unfold State.memRetry
  repeat' first
    | (simp only [State.detect_ok, State.memUnitFault_ok, State.reissue_ok, *]; done)
    | split

theorem State.memEnd_ok (s : State) (c tag : Nat) (hOk : s.Ok) : (State.memEnd s c tag).Ok := by
  unfold State.memEnd
  simp only [State.modCh_ok, *]

theorem State.memFail_ok (s : State) (c tag : Nat) (last : Bool) (hOk : s.Ok) : (State.memFail s c tag last).Ok := by
  unfold State.memFail
  simp only [State.memEnd_ok, State.modCh_ok, ok_ite, *]

theorem State.unquarantine_ok (s : State) (c : Nat) (tag : Nat) (hOk : s.Ok) : (State.unquarantine s c tag).Ok := by
  unfold State.unquarantine
  simp only [State.modCh_ok, ok_mk, ok_regs, ok_ctxs, ok_pitches, ok_chs, ok_pts, ok_ports, lset_length, and_self, *]

theorem State.unstale_ok (s : State) (c : Nat) (tag : Nat) (hOk : s.Ok) : (State.unstale s c tag).Ok := by
  unfold State.unstale
  simp only [State.modCh_ok, ok_mk, ok_regs, ok_ctxs, ok_pitches, ok_chs, ok_pts, ok_ports, lset_length, and_self, *]

theorem State.writeAnswered_ok (s : State) (id : Nat) (hOk : s.Ok) : (State.writeAnswered s id).Ok := by
  unfold State.writeAnswered
  simp only [ok_mk, ok_regs, ok_ctxs, ok_pitches, ok_chs, ok_pts, ok_ports, List.length_map, and_self, *]

theorem memBeatOp_ok (c tag beat : Nat) (last : Bool) (sts : Nat) (data : Bytes) (par : List Bool) (hpar : Bool) (s : State)
    (ok : s.Ok) : (memBeatOp c tag beat last sts data par hpar s).Ok := by
  unfold memBeatOp
  refine ok_ite ok (ok_ite (State.unquarantine_ok _ _ _ ok) (ok_ite (ok_ite (State.unstale_ok _ _ _ ok) ok) ?_))
  split
  · exact State.memProto_ok _ _ _ ok
  · refine ok_ite (State.memProto_ok _ _ _ ok) (ok_ite (ok_ite (State.memEnd_ok _ _ _ ok) ok)
      (ok_ite (State.memRetry_ok _ _ _ _ _ (State.memFail_ok _ _ _ _ ok)) (ok_ite (State.memProto_ok _ _ _ ok)
      (ok_ite (State.memUnitFault_ok _ _ _ _ (State.memFail_ok _ _ _ _ ok)) (ok_ite (State.memRetry_ok _ _ _ _ _
        (State.memFail_ok _ _ _ _ ok)) (ok_ite (State.memRetry_ok _ _ _ _ _ (State.memFail_ok _ _ _ _ ok)) ?_))))))
    exact ok_ite (State.deliver_ok _ _ _ (State.record_ok _ _ _ _ _ _ _ _ _ (State.memEnd_ok _ _ _ ok)))
      (State.modCh_ok _ _ _ ok)

theorem memWriteRespOp_ok (c : Nat) (tag : Nat) (sts : Nat) (hpar : Bool) (s : State) (hOk : s.Ok) :
    (memWriteRespOp c tag sts hpar s).Ok := by
  unfold memWriteRespOp
  repeat' first
    | (simp only [State.deliver_ok, State.memEnd_ok, State.memProto_ok, State.memRetry_ok, State.memUnitFault_ok, State.unquarantine_ok, State.unstale_ok, State.wr_ok, State.writeAnswered_ok, ok_mk, ok_regs, ok_ctxs, ok_pitches, ok_chs, ok_pts, ok_ports, lset_length, and_self, ok_ite, *]; done)
    | with_reducible assumption
    | (intro x; refine State.cut (s := x) ?_ ?_; rotate_left; (clear_value x; intro hx); rotate_left; (subst x))
    | (intro x; subst x)
    | intro _
    | (with_reducible refine State.deliver_ok _ _ _ ?_)
    | (with_reducible refine State.memEnd_ok _ _ _ ?_)
    | (with_reducible refine State.memProto_ok _ _ _ ?_)
    | (with_reducible refine State.memRetry_ok _ _ _ _ _ ?_)
    | (with_reducible refine State.memUnitFault_ok _ _ _ _ ?_)
    | (with_reducible refine State.unquarantine_ok _ _ _ ?_)
    | (with_reducible refine State.unstale_ok _ _ _ ?_)
    | (with_reducible refine State.wr_ok _ _ _ ?_)
    | (with_reducible refine State.writeAnswered_ok _ _ ?_)
    | split
    | lift_lets

theorem memTimeoutOp_ok (c tag : Nat) (s : State) (hOk : s.Ok) : (memTimeoutOp c tag s).Ok := by
  unfold memTimeoutOp
  repeat' first
    | (simp only [State.isolateMem_ok, State.memEnd_ok, State.memRetry_ok, State.modCh_ok, State.stuckEvent_ok, *]; done)
    | (intro x; refine State.cut (s := x) ?_ ?_; rotate_left; (clear_value x; intro hx); rotate_left; (subst x))
    | (intro x; subst x)
    | split
    | lift_lets

theorem memDownRiseOp_ok (c : Nat) (s : State) (hOk : s.Ok) : (memDownRiseOp c s).Ok := by
  unfold memDownRiseOp
  simp only [State.modCh_ok, *]

theorem memDownFallOp_ok (c : Nat) (s : State) (hOk : s.Ok) : (memDownFallOp c s).Ok := by
  unfold memDownFallOp
  repeat' first
    | (simp only [State.abandonOut_ok, State.modCh_ok, State.modWait_ok, ok_mk, ok_regs, ok_ctxs, ok_pitches, ok_chs, ok_pts, ok_ports, lset_length, and_self, ok_ite, *]; done)
    | with_reducible assumption
    | (intro x; refine State.cut (s := x) ?_ ?_; rotate_left; (clear_value x; intro hx); rotate_left; (subst x))
    | (intro x; subst x)
    | intro _
    | (with_reducible refine State.abandonOut_ok _ _ _ ?_)
    | (with_reducible refine State.modCh_ok _ _ _ ?_)
    | (with_reducible refine State.modWait_ok _ _ ?_)
    | split
    | lift_lets

theorem coreDownRiseOp_ok (a : Nat) (s : State) (hOk : s.Ok) : (coreDownRiseOp a s).Ok := by
  unfold coreDownRiseOp
  simp only [State.modPt_ok, *]

theorem coreDownFallOp_ok (a : Nat) (s : State) (hOk : s.Ok) : (coreDownFallOp a s).Ok := by
  unfold coreDownFallOp
  repeat' first
    | (simp only [State.coreSend_ok, State.modPt_ok, *]; done)
    | (with_reducible refine ok_foldl _ _ _ ?_ ?_)
    | intro _
    | split

end Sys2Proof.Machine
end

