-- ==== Sys2Proof/Laws/ShapePitches.lean ====
section
/-! SUPPORT. Every operation of Machine/Pitches.lean keeps the shape of the state (`State.Ok`). -/

set_option linter.unusedSimpArgs false

namespace Sys2Proof.Machine

theorem State.portGone_ok (s : State) (n : Nat) (hOk : s.Ok) : (State.portGone s n).Ok := by
  unfold State.portGone
  repeat' first
    | (simp only [State.modPort_ok, State.notice_ok, State.reroutePort_ok, ok_mk, ok_regs, ok_ctxs, ok_pitches, ok_chs, ok_pts, ok_ports, lset_length, and_self, ok_ite, *]; done)
    | with_reducible assumption
    | (intro x; refine State.cut (s := x) ?_ ?_; rotate_left; (clear_value x; intro hx); rotate_left; (subst x))
    | (intro x; subst x)
    | intro _
    | (with_reducible refine State.modPort_ok _ _ _ ?_)
    | (with_reducible refine State.notice_ok _ _ ?_)
    | (with_reducible refine State.reroutePort_ok _ _ ?_)
    | split
    | lift_lets

theorem State.pitchPorts_ok (s : State) (p : Nat) (hOk : s.Ok) : (State.pitchPorts s p).Ok := by
  unfold State.pitchPorts
  repeat' first
    | (simp only [State.isolateCore_ok, State.isolateMem_ok, State.portGone_ok, *]; done)
    | (with_reducible refine ok_foldl _ _ _ ?_ ?_)
    | intro _

theorem State.pitchDark_ok (s : State) (p : Nat) (hOk : s.Ok) : (State.pitchDark s p).Ok := by
  unfold State.pitchDark
  repeat' first
    | (simp only [State.modCh_ok, State.modPort_ok, State.modPt_ok, ok_mk, ok_regs, ok_ctxs, ok_pitches, ok_chs, ok_pts, ok_ports, lset_length, and_self, *]; done)
    | with_reducible assumption
    | (with_reducible refine ok_foldl _ _ _ ?_ ?_)
    | (intro x; refine State.cut (s := x) ?_ ?_; rotate_left; (clear_value x; intro hx); rotate_left; (subst x))
    | (intro x; subst x)
    | intro _
    | (with_reducible refine State.modCh_ok _ _ _ ?_)
    | (with_reducible refine State.modPort_ok _ _ _ ?_)
    | (with_reducible refine State.modPt_ok _ _ _ ?_)
    | lift_lets

theorem State.entriesLost_ok (s : State) (hOk : s.Ok) : (State.entriesLost s).Ok := by
  unfold State.entriesLost
  repeat' first
    | (simp only [State.lntLost_ok, State.lntRefillAll_ok, State.modEnts_ok, *]; done)
    | with_reducible assumption
    | (with_reducible refine ok_foldl _ _ _ ?_ ?_)
    | (intro x; refine State.cut (s := x) ?_ ?_; rotate_left; (clear_value x; intro hx); rotate_left; (subst x))
    | (intro x; subst x)
    | intro _
    | (with_reducible refine State.lntLost_ok _ _ _ ?_)
    | (with_reducible refine State.lntRefillAll_ok _ ?_)
    | (with_reducible refine State.modEnts_ok _ _ ?_)
    | lift_lets

theorem State.losePitch_ok (s : State) (p : Nat) (ok : s.Ok) : (State.losePitch s p).Ok := by
  unfold State.losePitch
  refine ok_ite ok ?_
  have hm := State.modPitch_ok s p (fun x => { x with held := true, lost := true }) ok
  dsimp only
  split
  · have hd := State.pitchDark_ok _ p hm
    exact ⟨hd.1, hd.2, hd.3, hd.4, hd.5, hd.6⟩
  · rename_i q _ _
    refine ok_foldl _ _ _ (State.modKtl_ok _ _ (State.pitchPorts_ok _ _ (State.notice_ok _ _ (State.event_ok _ _ _ _ _ ?_))))
      (fun s c h => State.ctxFault_ok _ _ _ h)
    exact ok_ite (State.entriesLost_ok _ ⟨hm.1, hm.2, hm.3, hm.4, hm.5, hm.6⟩) hm

theorem State.modGuy_ok (s : State) (k : Nat) (f : GuyLine → GuyLine) (hOk : s.Ok) : (State.modGuy s k f).Ok := by
  unfold State.modGuy
  simp only [ok_mk, ok_regs, ok_ctxs, ok_pitches, ok_chs, ok_pts, ok_ports, and_self, *]

theorem State.guyCheck_ok (s : State) (k : Nat) (hOk : s.Ok) : (State.guyCheck s k).Ok := by
  unfold State.guyCheck
  repeat' first
    | (simp only [State.losePitch_ok, *]; done)
    | split

theorem State.guyOut_ok (s : State) (k : Nat) (hOk : s.Ok) : (State.guyOut s k).Ok := by
  unfold State.guyOut
  repeat' first
    | (simp only [State.modGuy_ok, *]; done)
    | (intro x; subst x)
    | split
    | lift_lets

theorem guyAckOp_ok (boundary : Nat) (up : Bool) (line : Nat) (reject : Bool) (s : State) (hOk : s.Ok) : (guyAckOp boundary up line reject s).Ok := by
  unfold guyAckOp
  repeat' first
    | (simp only [State.detect_ok, State.modGuy_ok, *]; done)
    | (intro x; subst x)
    | (with_reducible refine State.guyCheck_ok _ _ ?_ )
    | (with_reducible refine State.guyOut_ok _ _ ?_ )
    | split
    | lift_lets

theorem State.modGuyDir_ok (s : State) (d : Nat) (f : GuyDir → GuyDir) (hOk : s.Ok) : (State.modGuyDir s d f).Ok := by
  unfold State.modGuyDir
  simp only [ok_mk, ok_regs, ok_ctxs, ok_pitches, ok_chs, ok_pts, ok_ports, lset_length, and_self, *]

theorem State.guySend_ok (s : State) (k : Nat) (w : GuyWord) (new : Bool) (hOk : s.Ok) :
    (State.guySend s k w new).Ok := by
  unfold State.guySend
  repeat' first
    | (simp only [State.modGuy_ok, State.modGuyDir_ok, ok_mk, ok_regs, ok_ctxs, ok_pitches, ok_chs, ok_pts, ok_ports, lset_length, and_self, ok_ite, *]; done)
    | with_reducible assumption
    | (intro x; refine State.cut (s := x) ?_ ?_; rotate_left; (clear_value x; intro hx); rotate_left; (subst x))
    | (intro x; subst x)
    | intro _
    | (with_reducible refine State.modGuy_ok _ _ _ ?_)
    | (with_reducible refine State.modGuyDir_ok _ _ _ ?_)
    | split
    | lift_lets

theorem guyWordOp_ok (boundary : Nat) (up : Bool) (line : Nat) (sent : GuySend) (got : GuyGot) (s : State) (hOk : s.Ok) :
    (guyWordOp boundary up line sent got s).Ok := by
  unfold guyWordOp
  repeat' first
    | (simp only [State.guySend_ok, State.modGuy_ok, State.modGuyDir_ok, ok_mk, ok_regs, ok_ctxs, ok_pitches, ok_chs, ok_pts, ok_ports, lset_length, and_self, ok_ite, *]; done)
    | with_reducible assumption
    | (intro x; refine State.cut (s := x) ?_ ?_; rotate_left; (clear_value x; intro hx); rotate_left; (subst x))
    | (intro x; subst x)
    | intro _
    | (with_reducible refine State.guySend_ok _ _ _ _ ?_)
    | (with_reducible refine State.modGuy_ok _ _ _ ?_)
    | (with_reducible refine State.modGuyDir_ok _ _ _ ?_)
    | split
    | lift_lets

theorem State.guyRetire_ok (s : State) (k : Nat) (hOk : s.Ok) : (State.guyRetire s k).Ok := by
  unfold State.guyRetire
  repeat' first
    | (simp only [State.modGuy_ok, State.remapAt_ok, ok_mk, ok_regs, ok_ctxs, ok_pitches, ok_chs, ok_pts, ok_ports, lset_length, and_self, *]; done)
    | with_reducible assumption
    | (intro x; refine State.cut (s := x) ?_ ?_; rotate_left; (clear_value x; intro hx); rotate_left; (subst x))
    | (intro x; subst x)
    | intro _
    | (with_reducible refine State.modGuy_ok _ _ _ ?_)
    | (with_reducible refine State.remapAt_ok _ _ _ _ _ ?_)
    | split
    | lift_lets

theorem guyTestOp_ok (boundary : Nat) (up : Bool) (line : Nat) (failing : List Nat) (s : State) (hOk : s.Ok) :
    (guyTestOp boundary up line failing s).Ok := by
  unfold guyTestOp
  repeat' first
    | (simp only [State.guyCheck_ok, State.guyRetire_ok, State.modGuy_ok, State.remapAt_ok, ok_mk, ok_regs, ok_ctxs, ok_pitches, ok_chs, ok_pts, ok_ports, lset_length, and_self, ok_ite, *]; done)
    | with_reducible assumption
    | (with_reducible refine ok_foldl _ _ _ ?_ ?_)
    | (intro x; refine State.cut (s := x) ?_ ?_; rotate_left; (clear_value x; intro hx); rotate_left; (subst x))
    | (intro x; subst x)
    | intro _
    | (with_reducible refine State.guyCheck_ok _ _ ?_)
    | (with_reducible refine State.guyRetire_ok _ _ ?_)
    | (with_reducible refine State.modGuy_ok _ _ _ ?_)
    | (with_reducible refine State.remapAt_ok _ _ _ _ _ ?_)
    | split
    | lift_lets

theorem governorOp_ok (p cap : Nat) (s : State) (hOk : s.Ok) : (governorOp p cap s).Ok := by
  unfold governorOp
  repeat' first
    | (simp only [State.modPitch_ok, State.notice_ok, State.setBit_ok, *]; done)
    | (intro x; refine State.cut (s := x) ?_ ?_; rotate_left; (clear_value x; intro hx); rotate_left; (subst x))
    | (intro x; subst x)
    | split
    | lift_lets

theorem droopRiseOp_ok (p : Nat) (s : State) (hOk : s.Ok) : (droopRiseOp p s).Ok := by
  unfold droopRiseOp
  repeat' first
    | (simp only [State.modPitch_ok, State.setBit_ok, *]; done)
    | (with_reducible refine State.notice_ok _ _ ?_ )
    | split

theorem droopFallOp_ok (p : Nat) (s : State) (hOk : s.Ok) : (droopFallOp p s).Ok := by
  unfold droopFallOp
  simp only [State.modPitch_ok, ok_ite, *]

theorem junctionOp_ok (p reading : Nat) (s : State) (hOk : s.Ok) : (junctionOp p reading s).Ok := by
  unfold junctionOp
  repeat' first
    | (simp only [State.modPitch_ok, State.setBit_ok, State.wr_ok, *]; done)
    | (intro x; refine State.cut (s := x) ?_ ?_; rotate_left; (clear_value x; intro hx); rotate_left; (subst x))
    | (intro x; subst x)
    | (with_reducible refine State.notice_ok _ _ ?_ )
    | split
    | lift_lets

theorem goodFallOp_ok (p : Nat) (s : State) (ok : s.Ok) : (goodFallOp p s).Ok := by
  unfold goodFallOp
  refine ok_ite ok ?_
  have key : ∀ (t : State) (x : StartSt), t.Ok → ({ t with start := x } : State).Ok :=
    fun t x h => ⟨h.1, h.2, h.3, h.4, h.5, h.6⟩
  have hk := key s { s.start with
    low := s.start.low ||| 2 ^ p
    fails := if p = s.controller then 0 else s.start.fails } ok
  dsimp only
  have hl := ok_ite (c := s.start.phase = .done) (State.losePitch_ok _ p hk) hk
  exact ok_ite (key _ _ hl) hl

theorem pitchResetOp_ok (p : Nat) (s : State) (hOk : s.Ok) : (pitchResetOp p s).Ok := by
  unfold pitchResetOp
  repeat' first
    | (simp only [State.losePitch_ok, State.modPitch_ok, State.pitchDark_ok, ok_mk, ok_regs, ok_ctxs, ok_pitches, ok_chs, ok_pts, ok_ports, lset_length, and_self, ok_ite, *]; done)
    | with_reducible assumption
    | (intro x; refine State.cut (s := x) ?_ ?_; rotate_left; (clear_value x; intro hx); rotate_left; (subst x))
    | (intro x; subst x)
    | intro _
    | (with_reducible refine State.losePitch_ok _ _ ?_)
    | (with_reducible refine State.modPitch_ok _ _ _ ?_)
    | (with_reducible refine State.pitchDark_ok _ _ ?_)
    | split
    | lift_lets

theorem paceWindowOp_ok (p count : Nat) (s : State) (hOk : s.Ok) : (paceWindowOp p count s).Ok := by
  unfold paceWindowOp
  repeat' first
    | (simp only [State.wr_ok, *]; done)
    | (intro x; subst x)
    | split
    | lift_lets

theorem tickLossOp_ok (ring : Nat) (s : State) (hOk : s.Ok) : (tickLossOp ring s).Ok := by
  unfold tickLossOp
  repeat' first
    | (simp only [State.notice_ok, ok_mk, ok_regs, ok_ctxs, ok_pitches, ok_chs, ok_pts, ok_ports, and_self, *]; done)
    | split

theorem tickLoadOp_ok (val : W64) (par : BitVec 8) (s : State) (hOk : s.Ok) : (tickLoadOp val par s).Ok := by
  unfold tickLoadOp
  repeat' first
    | (simp only [State.event_ok, ok_mk, ok_regs, ok_ctxs, ok_pitches, ok_chs, ok_pts, ok_ports, and_self, *]; done)
    | split

theorem State.setTicks_ok (s : State) (v : W64) (hOk : s.Ok) : (State.setTicks s v).Ok := by
  unfold State.setTicks
  simp only [ok_mk, ok_regs, ok_ctxs, ok_pitches, ok_chs, ok_pts, ok_ports, List.length_map, and_self, *]

theorem tickApplyOp_ok (s : State) (hOk : s.Ok) : (tickApplyOp s).Ok := by
  unfold tickApplyOp
  repeat' first
    | (simp only [State.setTicks_ok, ok_mk, ok_regs, ok_ctxs, ok_pitches, ok_chs, ok_pts, ok_ports, and_self, *]; done)
    | (with_reducible refine State.record_ok _ _ _ _ _ _ _ _ _ ?_ )
    | split

end Sys2Proof.Machine
end

