-- ==== Sys2Proof/Laws/ShapeStartup.lean ====
section
/-! SUPPORT. Every operation of Machine/Startup.lean keeps the shape of the state (`State.Ok`). -/

set_option linter.unusedSimpArgs false

namespace Sys2Proof.Machine

theorem State.applyPairs_ok (s : State) (ps : List (Nat × Nat)) (ok : Nat → Bool) (h : s.Ok) :
    (State.applyPairs s ps ok).Ok :=
  ok_foldl _ _ _ h (fun _ _ h => ok_ite (State.wr_ok _ _ _ h) h)

theorem State.fresh0_ok (s : State) (ok : s.Ok) : (State.fresh0 s).Ok :=
  ⟨rfl, rfl, by rw [← ok.3]; exact List.length_map .., by rw [← ok.4]; exact List.length_map ..,
    by rw [← ok.5]; exact List.length_map .., rfl⟩

theorem State.begin__ok (s : State) (i : StartInput) (hOk : s.Ok) : (State.begin_ s i).Ok := by
  unfold State.begin_
  repeat' first
    | (simp only [State.fresh0_ok, State.record_ok, ok_mk, ok_regs, ok_ctxs, ok_pitches, ok_chs, ok_pts, ok_ports, lset_length, and_self, ok_ite, *]; done)
    | with_reducible assumption
    | (intro x; refine State.cut (s := x) ?_ ?_; rotate_left; (clear_value x; intro hx); rotate_left; (subst x))
    | (intro x; subst x)
    | (with_reducible refine State.fresh0_ok _ ?_)
    | (with_reducible refine State.record_ok _ _ _ _ _ _ _ _ _ ?_)
    | split
    | lift_lets

theorem startBeginOp_ok (i : StartInput) (s : State) (hOk : s.Ok) : (startBeginOp i s).Ok := by
  unfold startBeginOp
  simp only [State.begin__ok, ok_ite, *]

theorem selfTestOp_ok (failed : BitVec 4) (s : State) (hOk : s.Ok) : (selfTestOp failed s).Ok := by
  unfold selfTestOp
  repeat' first
    | (simp only [ok_mk, ok_regs, ok_ctxs, ok_pitches, ok_chs, ok_pts, ok_ports, and_self, *]; done)
    | split

theorem State.useSpare_ok (s : State) (w : Nat) (hOk : s.Ok) : (State.useSpare s w).Ok := by
  unfold State.useSpare
  repeat' first
    | (simp only [State.modGuy_ok, State.modPort_ok, ok_mk, ok_regs, ok_ctxs, ok_pitches, ok_chs, ok_pts, ok_ports, lset_length, and_self, ok_ite, *]; done)
    | with_reducible assumption
    | (intro x; refine State.cut (s := x) ?_ ?_; rotate_left; (clear_value x; intro hx); rotate_left; (subst x))
    | (intro x; subst x)
    | intro _
    | (with_reducible refine State.modGuy_ok _ _ _ ?_)
    | (with_reducible refine State.modPort_ok _ _ _ ?_)
    | split
    | lift_lets

theorem State.applyRemap_ok (s : State) (w : Nat) (hOk : s.Ok) : (State.applyRemap s w).Ok := by
  unfold State.applyRemap
  simp only [State.listRemap_ok, State.useSpare_ok, *]

theorem State.loadGroups_ok (s : State) (t : Table Nat) (hOk : s.Ok) : (State.loadGroups s t).Ok := by
  unfold State.loadGroups
  repeat' first
    | (simp only [State.wr_ok, *]; done)
    | (with_reducible refine ok_foldl _ _ _ ?_ ?_)
    | intro _

theorem startCompleteOp_ok (duration : Nat) (s : State) (ok : s.Ok) : (startCompleteOp duration s).Ok := by
  unfold startCompleteOp
  split
  · exact ok
  · rename_i im _
    have key : ∀ (t : State) (b : Bool) (x : StartSt), t.Ok →
        ({ t with lnt := { t.lnt with biv := b, bivOff := false }, start := x } : State).Ok :=
      fun t b x h => ⟨h.1, h.2, h.3, h.4, h.5, h.6⟩
    refine ok_ite ok (State.event_ok _ _ _ _ _ (State.notice_ok _ _ (key _ _ _ ?_)))
    refine ok_foldl _ _ _ (State.loadGroups_ok _ _ (State.applyPairs_ok _ _ _ ?_)) (fun s a h => State.applyRemap_ok s a h)
    exact ⟨ok.1, ok.2, by simp [ok.3], by simp [ok.4], by simp [ok.5], by simp [imagePorts]⟩

theorem State.minimal_ok (s : State) (hOk : s.Ok) : (State.minimal s).Ok := by
  unfold State.minimal
  repeat' first
    | (simp only [State.notice_ok, ok_mk, ok_regs, ok_ctxs, ok_pitches, ok_chs, ok_pts, ok_ports, List.length_map, List.length_zipIdx, and_self, *]; done)
    | (with_reducible refine State.event_ok _ _ _ _ _ ?_ )

theorem startFailOp_ok (s : State) (hOk : s.Ok) : (startFailOp s).Ok := by
  unfold startFailOp
  repeat' first
    | (simp only [State.minimal_ok, ok_mk, ok_regs, ok_ctxs, ok_pitches, ok_chs, ok_pts, ok_ports, and_self, *]; done)
    | (intro x; subst x)
    | split
    | lift_lets

theorem startRetryOp_ok (i : StartInput) (s : State) (hOk : s.Ok) : (startRetryOp i s).Ok := by
  unfold startRetryOp
  simp only [State.begin__ok, ok_ite, *]

theorem restartOp_ok (s : State) (hOk : s.Ok) : (restartOp s).Ok := by
  unfold restartOp
  repeat' first
    | (simp only [State.ackWrite_ok, State.ignored_ok, ok_mk, ok_regs, ok_ctxs, ok_pitches, ok_chs, ok_pts, ok_ports, and_self, *]; done)
    | split

theorem shutGoOp_ok (s : State) (hOk : s.Ok) : (shutGoOp s).Ok := by
  unfold shutGoOp
  repeat' first
    | (simp only [State.ackWrite_ok, State.ignored_ok, State.recWrite_ok, State.shutDown_ok, ok_mk, ok_regs, ok_ctxs, ok_pitches, ok_chs, ok_pts, ok_ports, and_self, *]; done)
    | (intro x; refine State.cut (s := x) ?_ ?_; rotate_left; (clear_value x; intro hx); rotate_left; (subst x))
    | (with_reducible refine State.infFail_ok _ _ ?_ )
    | split
    | lift_lets

theorem shutTestedOp_ok (passed : Bool) (remaps : List W32) (s : State) (hOk : s.Ok) :
    (shutTestedOp passed remaps s).Ok := by
  unfold shutTestedOp
  repeat' first
    | (simp only [State.remapAt_ok, ok_mk, ok_regs, ok_ctxs, ok_pitches, ok_chs, ok_pts, ok_ports, lset_length, and_self, ok_ite, *]; done)
    | with_reducible assumption
    | (with_reducible refine ok_foldl _ _ _ ?_ ?_)
    | (intro x; refine State.cut (s := x) ?_ ?_; rotate_left; (clear_value x; intro hx); rotate_left; (subst x))
    | (intro x; subst x)
    | intro _
    | (with_reducible refine State.remapAt_ok _ _ _ _ _ ?_)
    | split
    | lift_lets

theorem healthOp_ok (b : Bool) (s : State) (ok : s.Ok) : (healthOp b s).Ok := by
  unfold healthOp
  split
  · exact ok
  · split
    · exact ⟨ok.1, ok.2, by simp [ok.3], ok.4, ok.5, ok.6⟩
    · exact ⟨ok.1, ok.2, ok.3, ok.4, ok.5, ok.6⟩

theorem scanEnOp_ok (s : State) (ok : s.Ok) : (scanEnOp s).Ok := by
  unfold scanEnOp
  split
  · exact ok
  · have h := ok_foldl State.disableCtx (tkeys (fun _ x => x.enable && !x.tdown) s.ctxs) s ok
      (fun s c h => State.disableCtx_ok s c h)
    exact ⟨h.1, twf_tmap _ _ _ _ h.2, h.3, h.4, h.5, h.6⟩

end Sys2Proof.Machine
end

