-- ==== Sys2Proof/Laws/ShapeTicks.lean ====
section
/-! SUPPORT. Every operation of Machine/Ticks.lean keeps the shape of the state (`State.Ok`). -/

set_option linter.unusedSimpArgs false

namespace Sys2Proof.Machine

theorem State.reloadCopy_ok (v : W64) (s : State) (p : Nat) (hOk : s.Ok) : (State.reloadCopy v s p).Ok := by
  unfold State.reloadCopy
  repeat' first
    | (simp only [State.detect_ok, State.modPitch_ok, *]; done)
    | (with_reducible refine State.eventAt_ok _ _ _ _ _ _ ?_ )
    | split

theorem State.compareCopies_ok (s : State) (hOk : s.Ok) : (State.compareCopies s).Ok := by
  unfold State.compareCopies
  repeat' first
    | (simp only [State.reloadCopy_ok, *]; done)
    | (with_reducible refine ok_foldl _ _ _ ?_ ?_)
    | intro _

theorem State.advanceCopies_ok (s : State) (upset : BitVec 4) (flip : W64) (hOk : s.Ok) : (State.advanceCopies s upset flip).Ok := by
  unfold State.advanceCopies
  simp only [ok_mk, ok_regs, ok_ctxs, ok_pitches, ok_chs, ok_pts, ok_ports, List.length_map, List.length_zipIdx, and_self, *]

theorem State.tickStep_ok (s : State) (c : Nat) (hOk : s.Ok) : (State.tickStep s c).Ok := by
  unfold State.tickStep
  repeat' first
    | (simp only [State.modStep_ok, *]; done)
    | split

theorem State.beginFetch_ok (s : State) (hOk : s.Ok) : (State.beginFetch s).Ok := by
  unfold State.beginFetch
  repeat' first
    | (simp only [State.fetchDesc_ok, ok_mk, ok_regs, ok_ctxs, ok_pitches, ok_chs, ok_pts, ok_ports, and_self, *]; done)
    | split

theorem State.tickUnits_ok (s : State) (hOk : s.Ok) : (State.tickUnits s).Ok := by
  unfold State.tickUnits
  repeat' first
    | (simp only [State.beginFetch_ok, State.endGo_ok, State.tickStep_ok, *]; done)
    | (with_reducible refine ok_foldl _ _ _ ?_ ?_)
    | intro _

theorem tickStrobeOp_ok (gap interval : Nat) (upset : BitVec 4) (flip : W64) (s : State) (hOk : s.Ok) : (tickStrobeOp gap interval upset flip s).Ok := by
  unfold tickStrobeOp
  repeat' first
    | (simp only [State.advanceCopies_ok, State.compareCopies_ok, State.event_ok, State.tickUnits_ok, tickApplyOp_ok, ok_mk, ok_regs, ok_ctxs, ok_pitches, ok_chs, ok_pts, ok_ports, List.length_map, and_self, *]; done)
    | (intro x; refine State.cut (s := x) ?_ ?_; rotate_left; (clear_value x; intro hx); rotate_left; (subst x))
    | (intro x; subst x)
    | split
    | lift_lets

theorem stepStallOp_ok (c : Nat) (s : State) (hOk : s.Ok) : (stepStallOp c s).Ok := by
  unfold stepStallOp
  repeat' first
    | (simp only [State.ctxFault_ok, chainStallOp_ok, collTimeoutOp_ok, drainTimeoutOp_ok, memTimeoutOp_ok, *]; done)
    | split

end Sys2Proof.Machine
end

