-- ==== Sys2Proof/Laws/ShapeVisit.lean ====
section
/-! SUPPORT. Every operation of Machine/Visit.lean keeps the shape of the state (`State.Ok`). -/

set_option linter.unusedSimpArgs false

namespace Sys2Proof.Machine

theorem State.visit_ok (s : State) (c pin : Nat) (hOk : s.Ok) : (State.visit s c pin).Ok := by
  unfold State.visit
  simp only [State.modCtx_ok, ok_mk, ok_regs, ok_ctxs, ok_pitches, ok_chs, ok_pts, ok_ports, and_self, *]

theorem pinTickOp_ok (i w : Nat) (s : State) (hOk : s.Ok) : (pinTickOp i w s).Ok := by
  unfold pinTickOp
  repeat' first
    | (simp only [State.count_ok, State.modCtx_ok, State.visit_ok, *]; done)
    | (intro x; subst x)
    | split
    | lift_lets

theorem shareVisitOp_ok (c : Nat) (s : State) (hOk : s.Ok) : (shareVisitOp c s).Ok := by
  unfold shareVisitOp
  repeat' first
    | (simp only [State.modCtx_ok, State.visit_ok, *]; done)
    | (intro x; subst x)
    | split
    | lift_lets

end Sys2Proof.Machine
end

