-- ==== Sys2Proof/WellFormed.lean ====
section
/-! DEFINITION. Well-formed commands: every number that names a context, pitch, port, channel, point,
core, tent, model or slot lies in the range the spec gives it (R18 to R20, R46, R54, R107, R373, R376),
and a flit, word or packet has the length of its form (R24, R54, R79). -/

namespace Sys2Proof

/-- The operands lie in the ranges of the spec. -/
def Instr.wf : Instr → Bool
  | .controlWrite _ _ _ _ => true
  | .w1cWrite _ _ _ => true
  | .rcRead _ => true
  | .lowWordLatchRead _ => true
  | .lanternRead _ => true
  | .lanternFlush => true
  | .contextEnable ctx => decide (ctx < 4096)
  | .contextDisable ctx => decide (ctx < 4096)
  | .contextCancel ctx => decide (ctx < 4096)
  | .tentWrite tent _ => decide (tent < 64)
  | .modelSet model => decide (model < 64)
  | .modelClr model => decide (model < 64)
  | .rotaArm => true
  | .rotaGoLive => true
  | .pinTick slot word => decide (slot < 1024) && decide (1 ≤ word ∧ word ≤ 3)
  | .memberArm _ => true
  | .memberGoLive => true
  | .tableSetArm _ => true
  | .tableSetGoLive => true
  | .routerSwitchArm _ => true
  | .routerSwitchAt => true
  | .weightSwitchArm _ => true
  | .weightSwitchAt => true
  | .routerCopyGo _ => true
  | .expertCopyGo _ => true
  | .infusionStall _ => true
  | .snapshotGo _ => true
  | .snapshotStall => true
  | .restoreGo _ => true
  | .lostDeclWrite _ => true
  | .restartWrite => true
  | .shutGo => true
  | .shutPitchTested _ _ => true
  | .healthRecordWritten _ => true
  | .plockWrite _ => true
  | .recordCtlWrite _ => true
  | .fenceTpWrite _ _ => true
  | .proposalClear => true
  | .proposalSubmit => true
  | .rangerVerdict _ => true
  | .countersignExpire => true
  | .scanEn => true
  | .tickStrobe _ _ _ _ => true
  | .tickLoad _ _ => true
  | .tickLoadApply => true
  | .tickLoss ring => decide (65536 ≤ ring)
  | .paceWindowEnd pitch _ => decide (pitch < 4)
  | .governorWindow pitch _ => decide (pitch < 4)
  | .paceLockSlip pitch => decide (pitch < 4)
  | .droopRise pitch => decide (pitch < 4)
  | .droopFall pitch => decide (pitch < 4)
  | .powerGoodFall pitch => decide (pitch < 4)
  | .junctionHot pitch _ => decide (pitch < 4)
  | .startBegin _ => true
  | .selfTestRoundDone _ => true
  | .startComplete _ => true
  | .startFail => true
  | .startRetry _ => true
  | .memRequestIssue ch => decide (ch < 16)
  | .memReadBeat ch tag beat _ sts _ _ _ => decide (ch < 16) && decide (tag < 1024) && decide (beat < 8) && decide (sts < 4)
  | .memWriteResponse ch tag sts _ => decide (ch < 16) && decide (tag < 1024) && decide (sts < 4)
  | .memAnswerTimeout ch tag => decide (ch < 16) && decide (tag < 1024)
  | .portStuckTimeout cls at_ => decide (cls < 3) && decide (at_.index < (if cls = 0 then 16 else if cls = 1 then 32 else 72))
  | .isolationRelease cls index => decide (cls < 3) && decide (index < (if cls = 0 then 16 else if cls = 1 then 32 else 72))
  | .memDownRise ch => decide (ch < 16)
  | .memDownFall ch => decide (ch < 16)
  | .coreDownRise point => decide (point < 32)
  | .coreDownFall point => decide (point < 32)
  | .expertOutputs point packet _ => decide (point < 32) && decide (64 ≤ packet.length)
  | .expertInputGradients point packet _ => decide (point < 32) && decide (64 ≤ packet.length)
  | .cueDone point word _ => decide (point < 32) && decide (word.length = 64)
  | .cancelDone point word _ => decide (point < 32) && decide (word.length = 64)
  | .cancelDoneTimeout _ => true
  | .linkFlitAccept port flit => decide (port < 72) && decide (flit.bytes.length = 256) && decide (flit.par.length = 64)
  | .controlFlit port flit => decide (port < 72) && decide (flit.bytes.length = 256) && decide (flit.par.length = 64)
  | .helloFlit port flit => decide (port < 72) && decide (flit.bytes.length = 256) && decide (flit.par.length = 64)
  | .lossNotice => true
  | .linkTransmitSlot port => decide (port < 72)
  | .ackTimeout port => decide (port < 72)
  | .phyUpRise port => decide (port < 72)
  | .helloTimer port => decide (port < 72)
  | .phyDownTimeout low => decide (low.port < 72)
  | .retryBoundExpire port => decide (port < 72)
  | .spareTimeout port => decide (port < 72)
  | .memberDisagreeTimeout port => decide (port < 72)
  | .guyAck boundary _ line _ => decide (boundary < 3) && decide (line < 100)
  | .guyLineTestDone boundary _ line failing => decide (boundary < 3) && decide (line < 100) && failing.all (fun w => decide (w < 282))
  | .shareVisit ctx => decide (ctx < 4096)
  | .descriptorFetched ctx _ => decide (ctx < 4096)
  | .stepAccept ctx _ => decide (ctx < 4096)
  | .frameSwitchDone tent => decide (tent < 64)
  | .stepLaunch ctx _ => decide (ctx < 4096)
  | .chainPut ctx index _ => decide (ctx < 4096) && decide (index < 256)
  | .chainGet ctx index => decide (ctx < 4096) && decide (index < 256)
  | .chainCollective ctx index _ => decide (ctx < 4096) && decide (index < 256)
  | .chainCounterAdd ctx index => decide (ctx < 4096) && decide (index < 256)
  | .chainCue ctx index _ => decide (ctx < 4096) && decide (index < 256)
  | .chainStallTimeout ctx => decide (ctx < 4096)
  | .stepDone ctx _ => decide (ctx < 4096)
  | .queryWriteResponse ctx => decide (ctx < 4096)
  | .askDeadline ctx => decide (ctx < 4096)
  | .answerRead ctx => decide (ctx < 4096)
  | .askRetryTimer ctx => decide (ctx < 4096)
  | .askRereadTick ctx => decide (ctx < 4096)
  | .askGraceExpire ctx => decide (ctx < 4096)
  | .imageLoadDone ctx pitch => decide (ctx < 4096) && decide (pitch < 4)
  | .tileStart core => decide (core < 128)
  | .tileComplete core _ => decide (core < 128)
  | .tileCheckFail core lane _ => decide (core < 128) && decide (lane < 17)
  | .storageParityFail kind pitch _ _ => decide (pitch < 4) && decide (kind < 9)
  | .phasePartial _ => true
  | .countsToOwner => true
  | .countsFromOwner => true
  | .strainerAllocate ctx => decide (ctx < 4096)
  | .routeCounts => true
  | .collectiveAbort => true
  | .putCompletion => true
  | .counterAdd => true
  | .collectiveTimeout ctx inst => decide (ctx < 4096) && decide (inst < 512)
  | .chunkForm ctx _ => decide (ctx < 4096)
  | .steepedCopySend ctx _ => decide (ctx < 4096)
  | .copyChunkLanded => true
  | .batchWaitExpire ctx slot => decide (ctx < 4096) && decide (slot < 4096)
  | .steepHoldTimeout => true
  | .returnChunkLanded => true
  | .weightDataChunk => true
  | .putDataChunk => true
  | .requestChunk _ => true
  | .getDataChunk => true
  | .ringDataChunk _ => true
  | .backgroundCopyChunk => true
  | .replayQuietExpire ctx => decide (ctx < 4096)
  | .shortQuietExpire ctx inst => decide (ctx < 4096) && decide (inst < 512)
  | .returnDrainTimeout ctx epoch => decide (ctx < 4096) && decide (epoch < 256)
  | .pourCombine ctx token _ => decide (ctx < 4096) && decide (token < 1048576)
  | .stepStallTimeout ctx => decide (ctx < 4096)
  | .adviseWindowEnd => true
  | .guyLineWordReceived boundary _ line sent got =>
    decide (boundary < 3) && decide (line < 100) && decide (sent.word.length = 32) && decide (got.bytes.length = 32)
  | .pitchResetAsserted pitch => decide (pitch < 4)
  | .cueQuietExpire ctx => decide (ctx < 4096)
  | .ctlErrRead _ _ => true

end Sys2Proof
end

