-- ==== Sys2Proof/Tests/Slice0.lean ====
section
/-! SUPPORT. Tests: ill-formed commands that the check refuses; for every obligation with hypotheses, states and
operands that meet them, clause by clause and at the ends of ranges (names wit_…); small tests of single commands with
results taken from the spec (names test_…). -/

namespace Sys2Proof.Tests

open Sys2Proof.Machine

/- One theorem after the other: each takes little, but many at once take many threads. -/
set_option Elab.async false

/- Ill-formed commands, one for each check of Instr.wf -/

theorem test_wf_refuses_contexts :
    ([.contextEnable 4096, .contextDisable 4096, .contextCancel 4096, .shareVisit 4096, .descriptorFetched 4096 default,
      .stepAccept 4096 default, .stepLaunch 4096 default, .chainPut 4096 0 default, .chainPut 0 256 default, .chainGet 4096 0,
      .chainGet 0 256, .chainCollective 4096 0 default, .chainCollective 0 256 default, .chainCounterAdd 4096 0,
      .chainCounterAdd 0 256, .chainCue 4096 0 default, .chainCue 0 256 default, .chainStallTimeout 4096,
      .stepDone 4096 default, .queryWriteResponse 4096, .askDeadline 4096, .answerRead 4096, .askRetryTimer 4096,
      .askRereadTick 4096, .askGraceExpire 4096, .imageLoadDone 4096 0, .imageLoadDone 0 4] : List Instr).all
      (fun c => !c.wf) = true := by decide

theorem test_wf_refuses_steps :
    ([.strainerAllocate 4096, .collectiveTimeout 4096 0, .collectiveTimeout 0 512, .chunkForm 4096 default,
      .steepedCopySend 4096 default, .batchWaitExpire 4096 0, .batchWaitExpire 0 4096, .replayQuietExpire 4096,
      .shortQuietExpire 4096 0, .shortQuietExpire 0 512, .returnDrainTimeout 4096 0, .returnDrainTimeout 0 256,
      .pourCombine 4096 0 default, .pourCombine 0 1048576 default, .stepStallTimeout 4096, .cueQuietExpire 4096,
      .frameSwitchDone 64, .tentWrite 64 0, .modelSet 64, .modelClr 64, .pinTick 1024 1, .pinTick 0 0, .pinTick 0 4,
      .tileStart 128, .tileComplete 128 default, .tileCheckFail 128 0 default, .tileCheckFail 0 17 default,
      .storageParityFail 0 4 0 0, .storageParityFail 9 0 0 0] : List Instr).all (fun c => !c.wf) = true := by decide

theorem test_wf_refuses_units :
    ([.tickLoss 65535, .paceWindowEnd 4 0, .governorWindow 4 0, .paceLockSlip 4, .droopRise 4, .droopFall 4,
      .powerGoodFall 4, .junctionHot 4 0, .pitchResetAsserted 4, .memRequestIssue 16, .memReadBeat 16 0 0 true 0 default default default,
      .memReadBeat 0 1024 0 true 0 default default default, .memReadBeat 0 0 8 true 0 default default default,
      .memReadBeat 0 0 0 true 4 default default default, .memWriteResponse 16 0 0 default, .memWriteResponse 0 1024 0 default,
      .memWriteResponse 0 0 4 default, .memAnswerTimeout 16 0, .memAnswerTimeout 0 1024, .portStuckTimeout 3 ⟨0, 0⟩,
      .portStuckTimeout 0 ⟨16, 0⟩, .portStuckTimeout 1 ⟨32, 0⟩, .portStuckTimeout 2 ⟨72, 0⟩, .isolationRelease 3 0, .isolationRelease 0 16,
      .isolationRelease 1 32, .isolationRelease 2 72, .memDownRise 16, .memDownFall 16, .coreDownRise 32, .coreDownFall 32] :
      List Instr).all (fun c => !c.wf) = true := by decide

/-- A flit of `n` bytes with `k` parity bits. -/
def rxOf (n k : Nat) : RxFlit := ⟨List.replicate n 0#8, List.replicate k false, false⟩

/-- A guy-line word of `n` bytes. -/
def sendOf (n : Nat) : GuySend := ⟨1, List.replicate n 0#8, true⟩

set_option maxRecDepth 4000 in
theorem test_wf_refuses_ports :
    ([.expertOutputs 32 (List.replicate 64 0) [], .expertOutputs 0 [] [], .expertInputGradients 32 (List.replicate 64 0) [],
      .expertInputGradients 0 [] [], .cueDone 32 (List.replicate 64 0) [], .cueDone 0 [] [], .cancelDone 32 (List.replicate 64 0) [],
      .cancelDone 0 [] [], .linkFlitAccept 72 (rxOf 256 64), .linkFlitAccept 0 (rxOf 255 64), .linkFlitAccept 0 (rxOf 256 63),
      .controlFlit 72 (rxOf 256 64), .controlFlit 0 (rxOf 255 64), .controlFlit 0 (rxOf 256 63), .helloFlit 72 (rxOf 256 64),
      .helloFlit 0 (rxOf 255 64), .helloFlit 0 (rxOf 256 63), .linkTransmitSlot 72, .ackTimeout 72, .phyUpRise 72,
      .helloTimer 72, .phyDownTimeout ⟨72, 0⟩, .retryBoundExpire 72, .spareTimeout 72, .memberDisagreeTimeout 72,
      .guyAck 3 default 0 default, .guyAck 0 default 100 default, .guyLineTestDone 3 default 0 [], .guyLineTestDone 0 default 100 [],
      .guyLineTestDone 0 default 0 [282], .guyLineWordReceived 3 default 0 (sendOf 32) ⟨(sendOf 32).word, 0⟩,
      .guyLineWordReceived 0 default 100 (sendOf 32) ⟨(sendOf 32).word, 0⟩,
      .guyLineWordReceived 0 default 0 (sendOf 31) ⟨(sendOf 32).word, 0⟩,
      .guyLineWordReceived 0 default 0 (sendOf 32) ⟨(sendOf 31).word, 0⟩] : List Instr).all (fun c => !c.wf) = true := by decide

/- States for the witnesses -/

/-- A working block of four pitches, everything idle. -/
def up : State :=
  { State.reset with
    start := { StartSt.reset with phase := .done, lock := true, started := 15 }
    pitches := List.replicate 4 { Pitch.reset with held := false }
    mem := { State.reset.mem with chs := List.replicate 16 { MemCh.reset with iso := false } }
    core := { State.reset.core with pts := List.replicate 32 { CorePt.reset with iso := false } } }

/-- `up` with context 5 as given. -/
def withCtx (x : Ctx) : State := up.modCtx 5 (fun _ => x)

/-- A forward step of one token, launched. -/
def st0 : Step := { desc := { (default : Desc) with ver := 2, kind := 1, nDec := 1 }, epoch := 3, launched := true }

/-- `up` with context 5 running a step. -/
def running (st : Step) : State :=
  withCtx { enable := true, st := .running, epoch := 3, tracked := [3], step := some st }

/-- The tick at 100,000 on every pitch. -/
def later (s : State) : State := { s with pitches := List.replicate 4 { Pitch.reset with held := false, tick := 100000#64 } }

/-- Elapsed ticks. -/
def atEl (n : Nat) (s : State) : State := { s with clk := { s.clk with el := n } }

theorem up_ok : up.Ok := ⟨rfl, rfl, rfl, rfl, rfl, rfl⟩

/- Control port, contexts, tables -/

theorem wit_StepRunsFrontCommand : ({ up with pending := [.lanternFlush] } : State).pending = .lanternFlush :: [] ∧ up.pending = [] := by
  decide

theorem wit_StepKeepsShape : up.Ok ∧ step up = .next up := ⟨up_ok, rfl⟩

theorem wit_ControlWriteStores : ∃ r,
    0x70008 = 4 * (0x1C002#23).toNat ∧ up.alive = true ∧ parity 23 (0x1C002#23).toNat = 1 - b2n true ∧
    bytePar (0xFFFFFFFF#32).toNat = 0#4 ∧ up.ctlOpen 0x70008 = true ∧ regRow 0x70008 = some r ∧ r.rw ≠ 0 ∧ r.w1c = 0 ∧
    ownWrite 0x70008 (0xFFFFFFFF#32).toNat = false ∧ 0x70008 < pageBase ∧ up.pitchHidden 0x70008 = false ∧ up.guarded 0x70008 = false ∧
    regInRange 0x70008 ((0xFFFFFFFF#32).toNat &&& r.rw) = true := ⟨rowRW 0x70008 1 4 ones 0x100000, by decide +kernel⟩

theorem wit_ControlWriteRefused :
    (parity 23 (0x1C002#23).toNat ≠ 1 - b2n false ∨ bytePar (0#32).toNat ≠ 1#4) ∧
    (State.reset.alive = true ∧ parity 23 (0x1C002#23).toNat = 1 - b2n true ∧ bytePar (0#32).toNat = 0#4 ∧
      State.reset.ctlOpen 0x70008 = false) ∧
    (∃ r, up.ctlOpen 0x70004 = true ∧ regRow 0x70004 = some r ∧ r.lk ≠ 0 ∧ r.rw = 0 ∧ r.w1c = 0 ∧ ownWrite 0x70004 0 = false ∧
      0x70004 < pageBase ∧ up.pitchHidden 0x70004 = false ∧ up.start.lock = true) ∧
    (∃ r, up.ctlOpen (pageAt 5 0x18) = true ∧ regRow (pageAt 5 0x18) = some r ∧ r.rw ≠ 0 ∧ r.w1c = 0 ∧
      ownWrite (pageAt 5 0x18) (17#32).toNat = false ∧ pageBase + 0x1000 ≤ pageAt 5 0x18 ∧ pageAt 5 0x18 % 0x1000 ≠ 0 ∧
      up.pitchHidden (pageAt 5 0x18) = false ∧ regInRange (pageAt 5 0x18) ((17#32).toNat &&& r.rw) = false) ∧
    up.guarded 0x10000 = true ∧ (∃ r, regRow 0x10000 = some r ∧ r.rw ≠ 0 ∧ r.w1c = 0) :=
  ⟨by decide, by decide +kernel, ⟨rowLK 0x70004 1 4 0xFF 0x20, by decide +kernel⟩,
    ⟨(regRow (pageAt 5 0x18)).getD default, by decide +kernel⟩, by decide +kernel, (regRow 0x10000).getD default, by decide +kernel⟩

/-- Host memory that holds `bs` at `a` and zeros elsewhere. -/
def hvAt (a : Nat) (bs : Bytes) : HostView :=
  let m := (List.range bs.length).map (fun i => (a + i, bs.getD i 0#8))
  ⟨m, m, 0⟩

/-- Host memory of zeros. -/
def hv0 : HostView := ⟨[], [], 0⟩

theorem wit_W1cWriteClears : ∃ r,
    0xC0024 = 4 * (0x30009#23).toNat ∧ up.alive = true ∧ up.ctlOpen 0xC0024 = true ∧ up.pitchHidden 0xC0024 = false ∧
    regRow 0xC0024 = some r ∧ r.w1c ≠ 0 ∧ (bit (up.rd 0xF0000) 2 = false ∨ 0xC0024 ∉ 0xF000C :: lntRegs) :=
  ⟨rowW1C 0xC0024 1 4 6 0, by decide +kernel⟩

theorem wit_RcRead : ∃ r,
    0x50010 = 4 * (0x14004#23).toNat ∧ up.alive = true ∧ up.ctlOpen 0x50010 = true ∧ 0x50010 ≠ 0xB0004 ∧
    isLatchLow 0x50010 = false ∧ (isLatchLow (0x50010 - 4) = false ∨ 0x50010 < 4) ∧ up.pitchHidden 0x50010 = false ∧
    regRow 0x50010 = some r ∧ r.rc ≠ 0 := ⟨rowRC 0x50010 1 4 0xFFFF0000 0, by decide +kernel⟩

theorem wit_RcRead_plain : ∃ r,
    0x70008 = 4 * (0x1C002#23).toNat ∧ up.ctlOpen 0x70008 = true ∧ isLatchLow 0x70008 = false ∧ isLatchLow (0x70008 - 4) = false ∧
    up.pitchHidden 0x70008 = false ∧ regRow 0x70008 = some r ∧ r.rc = 0 := ⟨rowRW 0x70008 1 4 ones 0x100000, by decide +kernel⟩

theorem wit_LowWordLatchRead :
    0x10 = 4 * (4#23).toNat ∧ (5#23).toNat = (4#23).toNat + 1 ∧ up.alive = true ∧ up.ctlOpen 0x10 = true ∧ isLatchLow 0x10 = true ∧
    up.ctlOpen (0x10 + 4) = true ∧ (∀ e ∈ up.ctl.latch, e.1 ≠ 0x10 + 4) := by decide +kernel

theorem wit_CtlErrRead :
    0 = 4 * (0#23).toNat ∧ up.alive = true ∧ parity 23 (0#23).toNat ≠ b2n true ∧
    0x18000 = 4 * (0x6000#23).toNat ∧ State.reset.alive = true ∧ parity 23 (0x6000#23).toNat = b2n false ∧
    State.reset.ctlOpen 0x18000 = false := by decide +kernel

/-- `up` with an ask ring for context 5. -/
def asked : State := ((up.wr (pageAt 5 0x1C) 12).wr (pageAt 5 0x20) 128)

theorem wit_ContextEnable :
    asked.portOpen = true ∧ isJob 5 = true ∧ (asked.ctx 5).tdown = false ∧ (asked.ctx 5).enable = false ∧
    asked.page2 5 0x20 / 128 ≠ 0 ∧ 1 ≤ asked.page 5 0x1C ∧ asked.page 5 0x1C ≤ 12 := by decide +kernel

theorem wit_ContextEnable_again :
    (running st0).portOpen = true ∧ isJob 5 = true ∧ ((running st0).ctx 5).tdown = false ∧ ((running st0).ctx 5).enable = true := by
  decide +kernel

theorem wit_ContextDisable :
    (running st0).portOpen = true ∧ isJob 5 = true ∧ ((running st0).ctx 5).enable = true ∧ ((running st0).ctx 5).tdown = false ∧
    ((running st0).pt ((running st0).firstPt (running st0).glb.anchor)).down = false := by decide +kernel

theorem wit_ContextCancel :
    (running st0).portOpen = true ∧ isJob 5 = true ∧ ((running st0).ctx 5).active = true ∧ ((running st0).ctx 5).st = .running ∧
    (running st0).step? 5 = some st0 ∧ st0.cancelled = false ∧ st0.ended = false ∧ st0.inAtom = false ∧
    (running st0).drainFull st0 = false := by decide +kernel

/-- A step with an open atom. -/
def stAtom : Step := { st0 with openAtoms := [0] }

/-- A step with copies out. -/
def stOut : Step := { st0 with rt := { st0.rt with outst := 1, list := [{ (default : SendSt) with snt := true }] } }

/-- The drain table holds 1,024 epochs. -/
def drainFullS : State := { running stOut with drain := List.replicate 1024 { (default : DrainE) with ctx := 6 } }

theorem wit_ContextCancel_held :
    (running stAtom).step? 5 = some stAtom ∧ stAtom.inAtom = true ∧ ((running stAtom).ctx 5).st = .running ∧
    drainFullS.step? 5 = some stOut ∧ (drainFullS.ctx 5).st = .running ∧ stOut.inAtom = false ∧ drainFullS.drainFull stOut = true ∧
    (let s := withCtx { enable := true, st := .fetching, waitEpoch := true }
     s.portOpen = true ∧ (s.ctx 5).active = true ∧ (s.ctx 5).st = .fetching ∧ (s.ctx 5).waitEpoch = true) ∧
    (let s := withCtx { enable := true, st := .ready }
     (s.ctx 5).active = true ∧ (s.ctx 5).st ≠ .running ∧ ¬ ((s.ctx 5).st = .fetching ∧ (s.ctx 5).waitEpoch = true)) := by
  decide +kernel

theorem wit_TentWrite :
    63 < 64 ∧ up.portOpen = true ∧ up.tentBad 63 (0x00020100#32).toNat = false ∧ up.tentBad 63 (0xFFFFFFFF#32).toNat = true := by
  decide +kernel

/-- `up` with 256 layers at a base for model 63. -/
def modelled : State := (up.wr (0x20300 + 4 * 63) 256).wr (modelBase 63) 64

theorem modelled_ok : modelled.Ok := ⟨by decide +kernel, rfl, rfl, rfl, rfl, rfl⟩

theorem wit_ModelSet :
    63 < 64 ∧ modelled.portOpen = true ∧ modelled.resident 63 = false ∧ 1 ≤ modelled.modelLayers 63 ∧ modelled.modelLayers 63 ≤ 256 ∧
    modelled.rd2 (modelBase 63) ≠ 0 ∧ ((modelled.wr 0x20004 0x80000000).resident 63 = true) := by decide +kernel

/-- Rota copy B, the staged one, with one slot of 256 ticks at tick 65,536. -/
def rotaStaged : State := (((up.wr 0x18004 1).wr (rotaAddr true 0 0) 256).wr 0x18008 65536)

theorem wit_RotaArm :
    rotaStaged.portOpen = true ∧ rotaStaged.now + 65536 ≤ rotaStaged.rd2 0x18008 ∧ rotaStaged.rotaLen (!rotaStaged.stp.live) = 1 ∧
    (∀ i < rotaStaged.rotaLen (!rotaStaged.stp.live), 256 ≤ rotaStaged.slotWidth (!rotaStaged.stp.live) i) ∧
    (∀ i < rotaStaged.rotaLen (!rotaStaged.stp.live), ∀ w ∈ [1, 2, 3], (rotaStaged.pinOf (!rotaStaged.stp.live) i w).1 ≠ 0 →
      (rotaStaged.pinOf (!rotaStaged.stp.live) i w).2 < rotaStaged.slotWidth (!rotaStaged.stp.live) i) ∧
    (rotaStaged.wr 0x18008 65535).rotaBad ≠ none := by decide +kernel

theorem wit_RotaGoLive :
    (let s := { later up with stp := { up.stp with armed := true, at_ := 100000 } }
     s.on = true ∧ s.stp.armed = true ∧ s.rotaDue ≤ s.now ∧ s.rotaT0 ≤ s.stp.at_ ∧ s.rotaPeriod s.stp.live = 0) ∧
    (let s := { later ((up.wr 0x18000 1).wr (rotaAddr false 0 0) 50000) with stp := { up.stp with armed := true, at_ := 99999 } }
     s.on = true ∧ s.stp.armed = true ∧ s.rotaDue ≤ s.now ∧ s.rotaT0 ≤ s.stp.at_ ∧ s.rotaPeriod s.stp.live ≠ 0) := by decide +kernel

/-- A live rota of one slot with context 5 pinned at offset 0 of word 1. -/
def pinned (x : Ctx) : State := ((withCtx x).wr 0x18000 1 |>.wr (rotaAddr false 0 0) 256).wr (rotaAddr false 0 1) (5 * 2 ^ 20)

theorem wit_PinTick :
    (let s := pinned { enable := true, rt := true, st := .ready }
     s.visitsOn = true ∧ s.pinNow 0 1 = true ∧ (s.pinOf s.stp.live 0 1).1 = 5 ∧ (s.ctx 5).active = true ∧ (s.ctx 5).rt = true ∧
     (s.ctx 5).st = .ready ∧ (s.ctx 5).go.taken ≤ s.now ∧ (s.ctx 5).go.at_ = 0) ∧
    (let s := pinned { enable := true, rt := true, st := .running }
     s.visitsOn = true ∧ s.pinNow 0 1 = true ∧ (s.ctx 5).active = true ∧ (s.ctx 5).rt = true ∧ (s.ctx 5).st ≠ .ready ∧
     (s.ctx 5).st ≠ .stopped) ∧
    (let s := pinned {}
     s.visitsOn = true ∧ s.pinNow 0 1 = true ∧ (s.ctx 5).active = false) := by decide +kernel

/-- A tent of one core with one frame, and context 5 Ready in it. -/
def sharing : State := (withCtx { enable := true, st := .ready }).wr (tentAddr 0) 0x00020100

theorem wit_ShareVisit : ∃ f r,
    sharing.visitsOn = true ∧ sharing.eligible 5 = true ∧ sharing.fillAt (sharing.now + sharing.launchOfs) = true ∧ sharing.evictedIn (sharing.ctx 5).tent = [] ∧
    sharing.firstReady (sharing.ctx 5).tent = some 5 ∧ sharing.freeShared (sharing.ctx 5).tent = f :: r := ⟨0, [], by decide +kernel⟩

/-- A membership arm of version 1 for the earliest tick that its lead time allows. -/
def memberReady : State := (up.wr 0x50038 1).wr 0x5003C (up.rdMin 0x50048 0x1000)

theorem wit_MemberArm :
    memberReady.portOpen = true ∧ memberReady.rd 0x50038 % 65536 = (memberReady.memb.ver + 1) % 65536 ∧
    memberReady.now + memberReady.rdMin 0x50048 0x1000 ≤ memberReady.rd2 0x5003C ∧
    entState (tget 0 memberReady.memb.live memberReady.glb.chip) ≠ 0 ∧ memberReady.memb.armed = false ∧ hv0.fault = 0 ∧
    up.memberBad [] ≠ none := by decide +kernel

theorem wit_MemberGoLive :
    let s := { up with memb := { up.memb with staged := [(0, 4096)], sver := 1, armed := true } }
    s.on = true ∧ s.memb.armed = true ∧ s.memb.at_ ≤ s.now := by decide +kernel

/-- A table-set arm of version 1 for tick 65,536. -/
def tableReady : State := ((up.wr 0x30008 0).wr 0x30010 1).wr 0x30014 65536

theorem wit_TableSetGoLive :
    let s := { up with stn := { up.stn with stage := ⟨true, 0, 1, 64⟩ } }
    s.on = true ∧ s.stn.stage.armed = true ∧ s.stn.stage.at_ ≤ s.now := by decide +kernel

/-- A directory at 0 of 64 entries with right checks. -/
def hvDir : HostView :=
  let x := withCrc (zeros 12)
  let m := (List.range 64).flatMap (fun k => (List.range 4).map (fun i => (16 * k + 12 + i, x.getD (12 + i) 0#8)))
  ⟨m, m, 0⟩

theorem wit_TableSetArm :
    tableReady.portOpen = true ∧ tableReady.rd 0x30010 % 65536 = (tableReady.stn.ver + 1) % 65536 ∧
    tableReady.now + 65536 ≤ tableReady.rd2 0x30014 ∧ tableReady.oldTable = 0 ∧ tableReady.stn.stage.armed = false ∧ hvDir.fault = 0 ∧
    tableReady.rd2 0x30008 = 0 ∧ (∀ m < 64, (tableEntry hvDir 0 m).isSome = true) := by decide +kernel

/- Switches, copies, snapshots, loss -/

/-- A switch record for model 63, at tick 65,536, with version 1. -/
def recSwitch : Bytes := withCrc (le 4 63 ++ le 4 1 ++ le 8 65536 ++ zeros 8 ++ le 8 65536 ++ zeros 28)

/-- Model 63 resident, records read at 64. -/
def switching : State := ((modelled.wr 0x20004 0x80000000).wr 0x90010 64).wr 0xC0050 64

theorem wit_SwitchArm :
    let s := switching
    let b := hv1 (hvAt 64 recSwitch) 64 64
    s.portOpen = true ∧ s.rd2 0x90010 = 64 ∧ s.rd2 0xC0050 = 64 ∧ crcOk 64 b = true ∧ fld b 0 1 ≤ 63 ∧ s.resident (fld b 0 1) = true ∧
    s.owned (fld b 0 1) = false ∧ s.now + 65536 ≤ fld b 24 8 ∧ s.bal.rsw = none ∧ s.bal.old = [] ∧
    fld b 4 4 = (s.rd (wverAt (fld b 0 1)) + 1) % 2 ^ 32 ∧ s.now + 65536 ≤ fld b 8 8 ∧ s.rsl.wsw = none ∧ s.rsl.wswOld = [] := by
  decide +kernel

theorem wit_SwitchAt :
    let w : Switch := ⟨63, 0, 2 ^ 64 - 1, 2 ^ 64 - 1, 2 ^ 32 - 1⟩
    let s := { up with bal := { up.bal with rsw := some w }, rsl := { up.rsl with wsw := some w } }
    s.on = true ∧ s.bal.rsw = some w ∧ s.rsl.wsw = some w ∧ w.at_ ≤ s.now ∧ w.model < 64 ∧ w.base < 2 ^ 64 ∧ w.ldir < 2 ^ 64 ∧
    w.ver < 2 ^ 32 := by decide +kernel

/-- A copy of model 63's router to chip 0, 64 KiB at most. -/
def recRouter : Bytes := withCrc (le 1 1 ++ le 1 63 ++ le 2 0 ++ le 4 1 ++ zeros 52)

/-- One layer of empty entries. -/
def copying : State := ((switching.wr (0x20300 + 4 * 63) 1).wr 0xC0070 64).wr 0xC0060 64

theorem wit_RouterCopyGo :
    let s := copying
    let hv := hvAt 64 recRouter
    let b := hv1 hv 64 64
    s.portOpen = true ∧ hv.fault = 0 ∧ readChecked hv (s.rd2 0xC0070) 64 = some b ∧ s.rsl.rinf.busy = false ∧ fld b 0 1 = 1 ∧
    fld b 1 1 ≤ 63 ∧ s.resident (fld b 1 1) = true ∧ s.isMember (fld b 2 2 % 4096) = true ∧
    routerSize ((List.range (s.modelLayers (fld b 1 1))).map (readLayer hv (s.rd2 (modelBase (fld b 1 1))) (s.ldirOf (fld b 1 1)))) ≤
      fld b 4 4 * 65536 ∧ 0 < s.modelLayers (fld b 1 1) ∧ readChecked hv0 (s.rd2 0xC0070) 64 = none := by decide +kernel

/-- An expert copy of one entry: its list at 128, the directory at 256, the expert's entry at 320 with version 1 in both places. -/
def recExpert : Bytes :=
  withCrc (le 1 2 ++ le 1 63 ++ le 2 0 ++ le 4 1 ++ le 8 128 ++ le 2 1 ++ zeros 42) ++ zeros 32 ++ zeros 96 ++
  (le 8 320 ++ le 2 1 ++ zeros 6) ++ zeros 48 ++ withCrc (zeros 20 ++ le 4 1 ++ le 4 1)

/-- `copying` with the directory of model 63 at 256. -/
def sourcing : State := copying.wr (0xC0100 + 8 * 63) 256

theorem wit_ExpertCopyGo :
    let s := sourcing
    let hv := hvAt 64 recExpert
    let b := hv1 hv 64 64
    s.portOpen = true ∧ hv.fault = 0 ∧ readChecked hv (s.rd2 0xC0060) 64 = some b ∧ s.rsl.einf.busy = false ∧ fld b 0 1 = 2 ∧
    fld b 1 1 ≤ 63 ∧ s.resident (fld b 1 1) = true ∧ s.isMember (fld b 2 2 % 4096) = true ∧ fld b 16 2 ≠ 0 ∧
    (∀ i < fld b 16 2, (s.sourceEntry hv (fld b 1 1) (fld b 4 4) (parseCopyEnt (hv1 hv (fld b 8 8 + 32 * i) 32))).isSome = true) := by
  decide +kernel

/-- Copies and a snapshot in progress since tick 0. -/
def busy : State :=
  { up with rsl := { up.rsl with einf := { busy := true }, rinf := { busy := true }, snap := { busy := true } } }

theorem wit_InfusionStall :
    let s := atEl (2 ^ 22) busy
    s.on = true ∧ (s.copy false).busy = true ∧ (s.copy false).at_ + 2 ^ 22 ≤ s.el ∧ (s.copy true).busy = true ∧
    (s.copy true).at_ + 2 ^ 22 ≤ s.el := by decide +kernel

theorem busy_ok : (atEl (2 ^ 22) busy).Ok := ⟨rfl, rfl, rfl, rfl, rfl, rfl⟩

theorem wit_SnapshotGo : up.portOpen = true ∧ bit (2#32).toNat 1 = true ∧ up.rsl.snap.busy = false ∧ hv0.fault = 0 ∧ newestCairn ⟨[], [], 0⟩ up.poolBase = none ∧
    busy.portOpen = true ∧ busy.rsl.snap.busy = true ∧
    (let s := { up with rsl := { up.rsl with advGo := true } }
     s.portOpen = true ∧ s.rsl.advGo = true ∧ s.rsl.snap.busy = false) := by
  refine ⟨by decide, by decide, by decide, rfl, ?_, by decide, by decide, by decide⟩
  have h : ∀ k, cairnGen ⟨[], [], 0⟩ up.poolBase k = none := by
    intro k
    have : crcOk 64 (hv1 ⟨[], [], 0⟩ (up.poolBase + cairnOff k) 64) = false := by
      have e : hv1 ⟨[], [], 0⟩ (up.poolBase + cairnOff k) 64 = zeros 64 := by
        simp [hv1, cellsAt, cellAt, zeros, List.map_const']
      rw [e]; decide +kernel
    simp [cairnGen, this]
  simp [newestCairn, h]

theorem wit_SnapshotStall :
    (let s := atEl (2 ^ 22) busy
     s.alive = true ∧ s.rsl.snap.busy = true ∧ s.rsl.snap.at_ + 2 ^ 22 ≤ s.el ∧ s.start.shut ≠ 4) ∧
    (atEl (2 ^ 22 - 1) busy).el < busy.rsl.snap.at_ + 2 ^ 22 ∧ (atEl (2 ^ 24) busy).rsl.winAt + 2 ^ 24 ≤ (atEl (2 ^ 24) busy).el ∧
    (atEl (2 ^ 24 - 1) busy).el < busy.rsl.winAt + 2 ^ 24 := by decide +kernel

theorem wit_RestoreGo_refused : (running st0).portOpen = true ∧ (running st0).rsl.snap.busy = false ∧ ((running st0).ctx 5).enable = true ∧
    busy.portOpen = true ∧ busy.rsl.snap.busy = true := by
  decide +kernel

theorem cellAt_append (m n : List (Nat × BitVec 8)) (a : Nat) (h : ∀ x ∈ m, x.1 ≠ a) : cellAt (m ++ n) a = cellAt n a := by
  induction m with
  | nil => rfl
  | cons x r ih =>
    have h1 : x.1 ≠ a := h x (by simp)
    simp only [List.cons_append, cellAt]
    rw [if_neg (fun e => h1 e.symm)]
    exact ih (fun y hy => h y (by simp [hy]))

theorem leNat_le4 (c : Nat) (h : c < 2 ^ 32) : leNat (le 4 c) = c := by
  simp only [le, leNat, BitVec.toNat_ofNat]; omega

/-- Bytes 28 to 59 of a Cairn but its two checks: the first part before them, the second behind. -/
def cairnPre (chip : Nat) : Bytes := le 4 0x4E524143 ++ le 2 1 ++ zeros 2 ++ le 8 1 ++ zeros 12 ++ le 2 chip ++ zeros 2

/-- A Cairn of slot 0 with the checks of its two sections. -/
def cairnOf (chip ver c d : Nat) : Bytes := withCrc (cairnPre chip ++ le 4 c ++ le 4 d ++ le 4 ver ++ zeros 16)

/-- Host memory of the sections `m` with a Cairn that checks them. -/
def hvCairn (chip ver : Nat) (m : List (Nat × BitVec 8)) : HostView :=
  let b := cairnOf chip ver (crcN (cellsAt m 0 (2 ^ 20))) (crcN (cellsAt m (2 ^ 20) (2 ^ 20)))
  ⟨(List.range 64).map (fun i => (0x200000 + i, b.getD i 0#8)) ++ m, [], 0⟩

theorem sub_mid (p x r : Bytes) (n k : Nat) (hp : p.length = n) (hx : x.length = k) : sub (p ++ (x ++ r)) n k = x := by
  subst hp hx; simp [sub]

theorem cairnOf_length (chip ver c d : Nat) : (cairnOf chip ver c d).length = 64 := by
  simp only [cairnOf, withCrc, List.length_append]; rfl

theorem cairnOf_fields (chip ver c d : Nat) (hc : c < 2 ^ 32) (hd : d < 2 ^ 32) :
    crcOk 64 (cairnOf chip ver c d) = true ∧ fld (cairnOf chip ver c d) 0 4 = 0x4E524143 ∧ fld (cairnOf chip ver c d) 4 2 = 1 ∧
    fld (cairnOf chip ver c d) 6 1 = 0 ∧ fld (cairnOf chip ver c d) 32 4 = c ∧ fld (cairnOf chip ver c d) 36 4 = d ∧
    fld (cairnOf chip ver c d) 8 8 = 1 ∧ fld (cairnOf chip ver c d) 28 2 = leNat (le 2 chip) ∧
    fld (cairnOf chip ver c d) 40 4 = leNat (le 4 ver) := by
  have pre (n k : Nat) (x : Bytes) (h : n + k ≤ 32) (e : sub (cairnPre chip) n k = x) : fld (cairnOf chip ver c d) n k = leNat x := by
    have l : (cairnPre chip).length = 32 := rfl
    rw [← e]
    simp only [fld, sub, cairnOf, withCrc, List.append_assoc]
    rw [List.drop_append_of_le_length (by omega), List.take_append_of_le_length (by simp; omega)]
  refine ⟨?_, (pre 0 4 (le 4 0x4E524143) (by omega) rfl).trans (by decide +kernel), (pre 4 2 (le 2 1) (by omega) rfl).trans (by decide +kernel),
    (pre 6 1 (zeros 1) (by omega) rfl).trans (by decide +kernel), ?_, ?_, (pre 8 8 (le 8 1) (by omega) rfl).trans (by decide +kernel),
    pre 28 2 (le 2 chip) (by omega) rfl, ?_⟩
  · generalize h : cairnPre chip ++ le 4 c ++ le 4 d ++ le 4 ver ++ zeros 16 = p
    have l : p.length = 60 := by rw [← h]; simp only [List.length_append]; rfl
    have e : cairnOf chip ver c d = p ++ le 4 (crcN p) := by rw [cairnOf, h, withCrc]
    have f : sub (p ++ le 4 (crcN p)) 0 60 = p := by simp [sub, ← l]
    have g : sub (p ++ le 4 (crcN p)) 60 4 = le 4 (crcN p) := by simpa using sub_mid p (le 4 (crcN p)) [] 60 4 l rfl
    have k : crcN p < 2 ^ 32 := BitVec.isLt _
    simp only [crcOk, e, fld, f, g, decide_eq_true_eq]
    exact (leNat_le4 _ k).symm
  · have e : sub (cairnOf chip ver c d) 32 4 = le 4 c := by
      simp only [cairnOf, withCrc, List.append_assoc]; exact sub_mid _ _ _ _ _ rfl rfl
    rw [fld, e, leNat_le4 c hc]
  · have e : sub (cairnOf chip ver c d) 36 4 = le 4 d := by
      have h (x r : Bytes) : cairnPre chip ++ (le 4 c ++ (x ++ r)) = (cairnPre chip ++ le 4 c) ++ (x ++ r) := by simp
      simp only [cairnOf, withCrc, List.append_assoc]
      rw [h]; exact sub_mid _ _ _ _ _ (by simp only [List.length_append]; rfl) rfl
    rw [fld, e, leNat_le4 d hd]
  · have e : sub (cairnOf chip ver c d) 40 4 = le 4 ver := by
      have h (x r : Bytes) : cairnPre chip ++ (le 4 c ++ (le 4 d ++ (x ++ r))) = (cairnPre chip ++ le 4 c ++ le 4 d) ++ (x ++ r) := by simp
      simp only [cairnOf, withCrc, List.append_assoc]
      rw [h]; exact sub_mid _ _ _ _ _ (by simp only [List.length_append]; rfl) rfl
    rw [fld, e]

theorem cellAt_map (f : Nat → Byte) (a : Nat) (m : List (Nat × BitVec 8)) (l : List Nat) (i : Nat) (h : i ∈ l) :
    cellAt (l.map (fun i => (a + i, f i)) ++ m) (a + i) = f i := by
  induction l with
  | nil => cases h
  | cons j r ih =>
    simp only [List.map_cons, List.cons_append, cellAt]
    by_cases e : i = j
    · subst e; simp
    · rw [if_neg (by omega)]
      exact ih (by simpa [e] using h)

theorem cellAt_none (m : List (Nat × BitVec 8)) (a : Nat) (h : ∀ x ∈ m, x.1 ≠ a) : cellAt m a = 0#8 := by
  simpa [cellAt] using cellAt_append m [] a h

theorem hvCairn_low (chip ver : Nat) (m : List (Nat × BitVec 8)) (a n : Nat) (h : a + n ≤ 0x200000) :
    hv1 (hvCairn chip ver m) a n = cellsAt m a n := by
  refine List.map_congr_left fun i hi => cellAt_append _ _ _ fun x hx => ?_
  obtain ⟨k, hk, rfl⟩ := List.mem_map.1 hx
  have := List.mem_range.1 hi
  simp only; omega

/-- A Cairn of generation 1 in slot 0 of a pool at 0 is the newest. -/
theorem hvCairn_newest (chip ver : Nat) (m : List (Nat × BitVec 8)) (hm : ∀ x ∈ m, x.1 < 0x200000) :
    newestCairn (hvCairn chip ver m) 0 = some (0, 1) ∧
    hv1 (hvCairn chip ver m) 0x200000 64 =
      cairnOf chip ver (crcN (cellsAt m 0 (2 ^ 20))) (crcN (cellsAt m (2 ^ 20) (2 ^ 20))) := by
  have head : hv1 (hvCairn chip ver m) 0x200000 64 =
      cairnOf chip ver (crcN (cellsAt m 0 (2 ^ 20))) (crcN (cellsAt m (2 ^ 20) (2 ^ 20))) := by
    refine List.ext_getElem ?_ fun i h1 h2 => ?_
    · rw [cairnOf_length]; simp [hv1, cellsAt]
    have hi : i < 64 := by simpa [hv1, cellsAt] using h1
    simp only [hv1, cellsAt, List.getElem_map, List.getElem_range]
    rw [hvCairn, cellAt_map _ _ _ _ _ (List.mem_range.2 hi), List.getD_eq_getElem?_getD, List.getElem?_eq_getElem h2]; rfl
  have one : cairnGen (hvCairn chip ver m) 0 1 = none := by
    have z : hv1 (hvCairn chip ver m) (0 + cairnOff 1) 64 = zeros 64 := by
      refine (List.map_congr_left (g := fun _ => 0#8) fun i hi => cellAt_none _ _ fun x hx => ?_).trans (by simp [zeros, List.map_const'])
      have := List.mem_range.1 hi
      rcases List.mem_append.1 hx with h | h
      · obtain ⟨k, hk, rfl⟩ := List.mem_map.1 h
        have := List.mem_range.1 hk
        simp only [cairnOff, slotOff]; omega
      · have := hm x h
        simp only [cairnOff, slotOff]; omega
    have : crcOk 64 (zeros 64) = false := by decide +kernel
    simp only [cairnGen, z, this, Bool.false_and, Bool.false_eq_true, if_false]
  obtain ⟨k0, k1, k2, k3, k4, k5, k6, -⟩ := cairnOf_fields chip ver (crcN (cellsAt m 0 (2 ^ 20))) (crcN (cellsAt m (2 ^ 20) (2 ^ 20)))
    (BitVec.isLt _) (BitVec.isLt _)
  have zero : cairnGen (hvCairn chip ver m) 0 0 = some 1 := by
    have x : (0 : Nat) + slotOff 0 = 0 := rfl
    have y : (0 : Nat) + cairnOff 0 = 0x200000 := rfl
    simp only [cairnGen, x, y, Nat.zero_add, head,
      hvCairn_low _ _ _ 0 (2 ^ 20) (by decide), hvCairn_low _ _ _ (2 ^ 20) (2 ^ 20) (by decide)]
    rw [if_pos (by simp only [k0, k1, k2, k3, k4, k5, Bool.true_and, and_self, decide_true]), k6]
  exact ⟨by simp only [newestCairn, zero, one], head⟩

theorem up_idle (c : Nat) : (up.ctx c).enable = false ∧ (up.ctx c).tdown = false := ⟨rfl, rfl⟩

theorem wit_RestoreGo :
    up.Ok ∧ up.portOpen = true ∧ up.rsl.snap.busy = false ∧ up.poolBase = 0 ∧
    (∀ c, c ≠ 0 → (up.ctx c).enable = false ∧ (up.ctx c).tdown = false) ∧ newestCairn (hvCairn 7 (up.rd 4) []) up.poolBase = some (0, 1) ∧
    fld (hv1 (hvCairn 7 (up.rd 4) []) (up.poolBase + cairnOff 0) 64) 28 2 % 4096 ≠ up.glb.chip ∧
    fld (hv1 (hvCairn 0 0 []) (up.poolBase + cairnOff 0) 64) 28 2 % 4096 = up.glb.chip ∧
    fld (hv1 (hvCairn 0 0 []) (up.poolBase + cairnOff 0) 64) 40 4 / 65536 ≠ up.rd 4 / 65536 ∧
    fld (hv1 (hvCairn 0 (up.rd 4) []) (up.poolBase + cairnOff 0) 64) 40 4 / 65536 = up.rd 4 / 65536 := by
  have e : up.poolBase = 0 := by decide +kernel
  have f (chip ver : Nat) := cairnOf_fields chip ver (crcN (cellsAt [] 0 (2 ^ 20))) (crcN (cellsAt [] (2 ^ 20) (2 ^ 20)))
    (BitVec.isLt _) (BitVec.isLt _)
  have g (chip ver : Nat) := hvCairn_newest chip ver [] (by simp)
  rw [e]
  refine ⟨up_ok, by decide, by decide, rfl, fun c _ => up_idle c, (g 7 _).1, ?_, ?_, ?_, ?_⟩ <;>
    rw [show (0 : Nat) + cairnOff 0 = 0x200000 from rfl, (g _ _).2]
  · rw [(f 7 _).2.2.2.2.2.2.2.1]; decide +kernel
  · rw [(f 0 _).2.2.2.2.2.2.2.1]; decide +kernel
  · rw [(f 0 _).2.2.2.2.2.2.2.2]; decide +kernel
  · rw [(f 0 _).2.2.2.2.2.2.2.2]; decide +kernel

/-- The word of tent 0 in a block section, all ones. -/
def tentCells : List (Nat × BitVec 8) := (List.range 4).map (fun i => (4 * partIdx (tentAddr 0) + i, 0xFF#8))

theorem partIdx_lt (a : Nat) : partIdx a < 0x40000 := by
  have ins (x : Nat × Nat) (r : List (Nat × Nat)) (f : Nat × Nat → Nat × Nat → Bool) : (insSorted f x r).length = r.length + 1 := by
    induction r with
    | nil => rfl
    | cons y r ih => simp only [insSorted]; split <;> simp_all
  have srt (f : Nat × Nat → Nat × Nat → Bool) (l : List (Nat × Nat)) : (sortBy f l).length = l.length := by
    induction l with
    | nil => rfl
    | cons x r ih => simp only [sortBy, ins, ih, List.length_cons]
  have sum : (regRows.map (fun r => r.n)).sum < 0x40000 := by decide +kernel
  have le : partRegs.length ≤ (regRows.map (fun r => r.n)).sum := by
    have flat (f : RegRow → List (Nat × Nat)) (h : ∀ r, (f r).length ≤ r.n) (l : List RegRow) :
        (l.flatMap f).length ≤ (l.map (fun r => r.n)).sum := by
      induction l with
      | nil => simp
      | cons r l ih =>
        have := h r
        simp only [List.flatMap_cons, List.length_append, List.map_cons, List.sum_cons]; omega
    simp only [partRegs, srt]
    refine flat _ (fun r => ?_) _
    split
    · simp
    · exact Nat.le_trans (List.length_filter_le _ _) (by simp)
  simp only [partIdx]
  cases h : partRegs.findIdx? (fun x => decide (x.1 = a)) with
  | none => simp
  | some i =>
    obtain ⟨p, -, -⟩ := List.findIdx?_eq_some_iff_getElem.1 h
    simp only [Option.getD_some]; omega

/-- The tents of a Cairn's section: none, or tent 0 with all ones. -/
theorem wit_RestoreGo_tents :
    up.tentPast (hvCairn 0 (up.rd 4) []) (up.poolBase + slotOff 0) = false ∧
    (∀ x ∈ tentCells, x.1 < 0x200000) ∧ up.tentPast (hvCairn 0 (up.rd 4) tentCells) (up.poolBase + slotOff 0) = true := by
  have e : up.poolBase + slotOff 0 = 0 := by decide +kernel
  rw [e]
  refine ⟨?_, ?_, ?_⟩
  · simp only [State.tentPast, List.any_eq_false, List.mem_range]
    intro n _
    have := partIdx_lt (tentAddr n)
    have z : secWord (hvCairn 0 (up.rd 4) []) 0 (partIdx (tentAddr n)) = 0 := by
      rw [secWord, Nat.zero_add, hvCairn_low _ _ _ _ _ (by omega)]
      simp only [cellsAt, cellAt, List.map_const', List.length_range]; decide
    rw [z]; decide
  · have := partIdx_lt (tentAddr 0)
    intro x hx
    obtain ⟨k, hk, rfl⟩ := List.mem_map.1 hx
    have := List.mem_range.1 hk
    simp only; omega
  · have := partIdx_lt (tentAddr 0)
    simp only [State.tentPast, List.any_eq_true, List.mem_range]
    refine ⟨0, by decide, ?_⟩
    have z : secWord (hvCairn 0 (up.rd 4) tentCells) 0 (partIdx (tentAddr 0)) = 0xFFFFFFFF := by
      have k : cellsAt tentCells (4 * partIdx (tentAddr 0)) 4 = List.replicate 4 0xFF#8 := by
        refine (List.map_congr_left (g := fun _ => 0xFF#8) fun i hi => ?_).trans (by simp [List.map_const'])
        simpa [tentCells] using cellAt_map (fun _ => 0xFF#8) (4 * partIdx (tentAddr 0)) [] (List.range 4) i hi
      rw [secWord, Nat.zero_add, hvCairn_low _ _ _ _ _ (by omega), k]; decide
    rw [z]; decide +kernel

theorem wit_LostDeclWrite :
    up.on = true ∧ (4095#32).toNat % 4096 ∉ up.memb.lost ∧
    (4095#32).toNat % 4096 ∈ ({ up with memb := { up.memb with lost := [4095] } } : State).memb.lost := by decide +kernel

/-- A loss notice that names a chip. -/
def lossPay (c : Nat) : Bytes := withCrc (le 2 1 ++ le 2 c ++ zeros 12)

theorem wit_LossNotice :
    let s := { up with xch := { up.xch with notices := [(3, lossPay 4095)] } }
    s.alive = true ∧ s.xch.notices = (3, lossPay 4095) :: [] ∧ fld (lossPay 4095) 0 2 = 1 ∧ crcOk 20 (lossPay 4095) = true ∧
    fld (lossPay 4095) 2 2 % 4096 ≠ s.glb.chip ∧ fld (lossPay 4095) 2 2 % 4096 ∉ s.memb.lost ∧
    fld (lossPay 4095) 2 2 % 4096 ∈ [4095] := by decide +kernel

theorem wit_LossNotice_own :
    let s := { running st0 with xch := { up.xch with notices := [(3, lossPay 0)] } }
    s.alive = true ∧ s.xch.notices = (3, lossPay 0) :: [] ∧ fld (lossPay 0) 0 2 = 1 ∧ crcOk 20 (lossPay 0) = true ∧
    fld (lossPay 0) 2 2 % 4096 = s.glb.chip ∧ (s.ctx 5).active = true := by decide +kernel

/- Start and shut-down -/

/-- What a flash answers to Read SFDP that lists a Basic Flash Parameter Table. -/
def sfdpOk : Bytes := le 4 0x50444653 ++ zeros 8 ++ le 3 16 ++ [0xFF#8] ++ zeros 16

/-- An image header of `n` pitches, with three directory entries. -/
def imgHeader (n : Nat) : Bytes :=
  withCrc (le 4 0x42524843 ++ le 2 1 ++ le 1 0 ++ le 1 n ++ zeros 4 ++ le 2 3 ++ zeros 4 ++ [1#8, 1#8, 1#8] ++ zeros 11 ++ le 8 1 ++ zeros 20)

/-- A directory of empty sections of types 1, 2 and 5. -/
def imgDir : Bytes := [1, 2, 5].flatMap (fun ty => le 2 ty ++ zeros 2 ++ le 4 112 ++ zeros 4 ++ le 4 (crcN []))

/-- Inputs of a start on a part whose pitches are all ready, with the flash that holds `bs`. -/
def inputOf (bs : Bytes) : StartInput := ⟨15#4, true, 0#4, sfdpOk, true, hvAt 0 bs, true⟩

/-- The image checks, and a self-test is due. -/
def input : StartInput := inputOf (imgHeader 4 ++ imgDir)

theorem wit_StartBegin :
    State.reset.start.phase = .idle ∧ ({ input with strobes := false } : StartInput).strobes = false ∧ input.strobes = true ∧
    (let bad := State.reset.glb.present &&& input.bypassBad.toNat
     let mask (r : Nat) : Nat := upMask bad (State.reset.glb.present &&& r &&& (15 ^^^ input.bypassBad.toNat)) 0
     mask 0 = 0 ∧ mask input.ready.toNat ≠ 0) ∧
    chooseMode [] = none ∧ (chooseMode input.sfdp).isSome = true ∧ input.data = true ∧
    (let s := atEl 1000000 { State.reset with start := { StartSt.reset with phase := .waiting } }
     s.alive = true ∧ s.start.phase = .waiting ∧ s.start.failAt + 1000000 ≤ s.el) := by decide +kernel

theorem wit_StartBegin_image :
    flashChecked (inputOf []).flash 0 64 headerOk = none ∧ flashChecked (inputOf (imgHeader 5)).flash 0 64 headerOk = some (imgHeader 5) ∧
    headerInRange State.reset.nPitch (imgHeader 5) = false ∧ flashChecked input.flash 0 64 headerOk = some (imgHeader 4) ∧
    headerInRange State.reset.nPitch (imgHeader 4) = true := by decide +kernel

theorem wit_StartBegin_body :
    (∃ m, chooseMode input.sfdp = some m ∧
      (State.reset.fresh0.readBody { input with flash := hvAt 0 (imgHeader 4) } m (imgHeader 4)).1 = .fails 0x04 ∧
      ∃ im, (State.reset.fresh0.readBody input m (imgHeader 4)).1 = .reads im none 15 [0x20] 0 true) := by
  refine ⟨(chooseMode input.sfdp).getD default, by decide +kernel, by decide +kernel, mkImage (imgHeader 4) [(1, []), (2, []), (5, [])], ?_⟩
  decide +kernel

theorem wit_RestartWrite :
    (let s := { State.reset with start := { StartSt.reset with phase := .minimal } }
     s.alive = true ∧ s.start.phase = .minimal) ∧
    up.alive = true ∧ up.start.phase = .done ∧ up.start.shut ≠ 3 ∧
    ({ up with start := { up.start with shut := 3 } } : State).start.shut = 3 := by decide +kernel

theorem wit_ScanEn : up.Ok ∧ up.alive = true := ⟨up_ok, rfl⟩

/-- The last round of a test of four pitches. -/
def tested (failed : Nat) : State :=
  { State.reset with start := { StartSt.reset with phase := .testing, part := 15, rounds := [15], failed := failed } }

theorem wit_SelfTestRoundDone :
    (tested 0).alive = true ∧ (tested 0).start.phase = .testing ∧ (tested 0).start.rounds = 15 :: [] ∧
    upMask 0 15 (0 ||| (15 &&& (7#4).toNat)) ≠ 0 ∧ upMask 0 15 (0 ||| (15 &&& (15#4).toNat)) = 0 := by decide +kernel

/-- An image of a chip alone. -/
def image : Image :=
  { pitches := 15, chip := 0, nx := 1, ny := 1, nz := 1, pos := 0, hrAddr := 0, hrSect := 0, igen := 1, pairs := [], links := [],
    member := none, groups := [], spares := [], trims := [] }

theorem wit_StartComplete :
    let s := { State.reset with start := { StartSt.reset with phase := .ready, part := 15, failed := 7, image := some image } }
    s.alive = true ∧ s.start.phase = .ready ∧ s.start.image = some image ∧ upMask s.start.bypass s.start.part s.start.failed = 8 ∧
    image.spares = [] ∧ s.start.record = none := by decide +kernel

theorem wit_StartFail :
    let s (n : Nat) : State := { State.reset with start := { StartSt.reset with phase := .failing, fails := n } }
    (s 1).alive = true ∧ (s 1).start.phase = .failing ∧ (s 1).start.fails < 2 ∧ 2 ≤ (s 2).start.fails := by decide +kernel

theorem wit_ShutGo : up.Ok ∧ up.portOpen = true ∧ up.start.phase = .done ∧ up.start.shut = 0 ∧
    (∀ c, c ≠ 0 → (up.ctx c).enable = false ∧ (up.ctx c).tdown = false) ∧ up.rsl.snap.busy = false ∧ busy.Ok ∧ busy.portOpen = true ∧
    busy.start.shut = 0 ∧ (∀ c, c ≠ 0 → (busy.ctx c).enable = false ∧ (busy.ctx c).tdown = false) ∧ busy.rsl.snap.busy = true ∧
    (running st0).Ok ∧ (∃ c, c ≠ 0 ∧ (((running st0).ctx c).enable = true ∨ ((running st0).ctx c).tdown = true)) :=
  ⟨up_ok, by decide, by decide, by decide, fun c _ => up_idle c, by decide, ⟨rfl, rfl, rfl, rfl, rfl, rfl⟩, by decide, by decide,
    fun _ _ => ⟨rfl, rfl⟩, by decide, ⟨rfl, by decide, rfl, rfl, rfl, rfl⟩, 5, by decide, Or.inl (by decide)⟩

theorem wit_ShutPitchTested :
    let s (p : Nat) : State := { up with start := { up.start with shut := 1, shutPitch := p } }
    (s 1).alive = true ∧ (s 1).start.shut = 1 ∧ ((s 1).pitchesUp.filter (fun q => decide (q < 1))).getLast? = some 0 ∧
    (s 1).glb.anchor = 0 ∧ (s 0).pitchesUp.filter (fun q => decide (q < 0)) = [] ∧
    ((s 3).pitchesUp.filter (fun q => decide (q < 3))).getLast? = some 2 ∧ (s 3).glb.anchor ≠ 2 := by decide +kernel

theorem wit_HealthRecordWritten :
    let s (n : Nat) : State := { up with start := { up.start with shut := 2, hrTries := n } }
    (s 0).alive = true ∧ (s 0).start.shut = 2 ∧ (s 0).start.hrTries ≠ 1 ∧ (s 1).start.hrTries = 1 := by decide +kernel


/- Fence table, determinism, ticks, power -/

theorem wit_FenceTpWrite : ∃ r,
    0xE0100 = 4 * (0x38040#23).toNat ∧ regRow 0xE0100 = some r ∧ r.tp ≠ 0 ∧ up.portOpen = true ∧ up.fnc.pend = none ∧
    ¬ (0xE0000 ≤ 0xE0100 ∧ 0xE0100 < 0xE0100) ∧ (∀ e ∈ up.fnc.buf, e.1 ≠ 0xE0100) ∧ up.fnc.buf.length < 1024 ∧
    (∃ e ∈ [((0xE0100, 7) : Nat × Nat)], e.1 = 0xE0100) := by
  refine ⟨(regRow 0xE0100).getD ⟨0, 0, 0, 0, 0, 0, 0, 0, 0⟩, by decide +kernel⟩

/-- A proposal of one word submitted at tick 0. -/
def proposed : State := { up with fnc := { up.fnc with buf := [(0xE0100, 1)], pend := some ⟨1, 9, 0⟩ } }

theorem wit_FenceTpWrite_refused : ∃ r,
    regRow 0xE0000 = some r ∧ r.tp ≠ 0 ∧ 0xE0000 ≤ 0xE0000 ∧ 0xE0000 < 0xE0100 ∧ proposed.portOpen = true ∧ proposed.fnc.pend ≠ none ∧
    (∀ e ∈ List.replicate 1024 ((0xE0104, 0) : Nat × Nat), e.1 ≠ 0xE0100) ∧
    1024 ≤ (List.replicate 1024 ((0xE0104, 0) : Nat × Nat)).length := by
  refine ⟨(regRow 0xE0000).getD ⟨0, 0, 0, 0, 0, 0, 0, 0, 0⟩, by decide +kernel⟩

theorem wit_ProposalClear : up.portOpen = true ∧ up.fnc.pend = none ∧ proposed.portOpen = true ∧ proposed.fnc.pend ≠ none := by
  decide +kernel

theorem wit_ProposalSubmit :
    (let s := { up with fnc := { up.fnc with buf := [(0xE0100, 1)] } }
     s.portOpen = true ∧ s.fnc.pend = none ∧ s.submitBad = false) ∧
    up.portOpen = true ∧ up.fnc.pend = none ∧ up.submitBad = true ∧ proposed.fnc.pend ≠ none := by decide +kernel

/-- A verdict word: number 1, digest 9, accepting or not. -/
def verdict (yes : Nat) : W64 := BitVec.ofNat 64 (yes + 1 * 2 + 9 * 2 ^ 33)

theorem wit_RangerVerdict :
    let s := atEl 1000000 proposed
    s.portOpen = true ∧ s.fnc.pend = some ⟨1, 9, 0⟩ ∧ s.el ≤ 0 + 1000000 ∧ bits (verdict 1).toNat 1 32 = 1 ∧
    bits (verdict 1).toNat 33 31 = 9 % 2 ^ 31 ∧ bit (verdict 1).toNat 0 = true ∧ bit (verdict 0).toNat 0 = false ∧
    bits (0#64).toNat 1 32 ≠ 1 ∧ s.fnc.buf.Pairwise (fun x y => x.1 ≠ y.1) ∧ up.portOpen = true ∧ up.fnc.pend = none ∧
    0 + 1000000 ≤ s.el := by decide +kernel

/-- `up` held to the pace slots. -/
def lockedUp : State := { up with pitches := List.replicate 4 { Pitch.reset with held := false, locked := true } }

theorem wit_Determinism :
    up.Ok ∧ up.portOpen = true ∧ bit (up.rd 0xF0000) 2 = false ∧ bit (4#32).toNat 2 = true ∧ lockedUp.alive = true ∧
    lockedUp.pitchLive 3 = true ∧ (lockedUp.pitch 3).locked = true := ⟨up_ok, by decide +kernel⟩

theorem wit_TickStrobe :
    up.alive = true ∧ up.clk.load.map TickLoad.left ≠ some 0 ∧
    (∀ p ∈ up.pitchesUp, ∀ q ∈ up.pitchesUp, (up.pitch p).tick = (up.pitch q).tick) ∧
    (({ up.clk with load := some ⟨0#64, 1⟩ } : Clk).load.map TickLoad.left ≠ some 0) := by decide +kernel

theorem wit_TickLoad :
    up.alive = true ∧ up.start.phase ≠ .idle ∧ up.loadOk = true ∧ (running st0).loadOk = false ∧ (running st0).start.phase ≠ .idle ∧
    0#8 = BitVec.ofNat 8 (maskOf 8 (fun i => decide (parity 8 (bits (0#64).toNat (8 * i) 8) = 1))) ∧
    1#8 ≠ BitVec.ofNat 8 (maskOf 8 (fun i => decide (parity 8 (bits (0#64).toNat (8 * i) 8) = 1))) ∧
    ({ up with clk := { up.clk with load := some ⟨7#64, 0⟩ } } : State).clk.load = some ⟨7#64, 0⟩ := by decide +kernel

theorem wit_PaceWindowEnd :
    up.alive = true ∧ up.pitchLive 3 = true ∧ up.clk.silent = false ∧ (up.pitch 3).locked = false ∧ 65535 < 65536 ∧
    (lockedUp.pitch 3).locked = true ∧ ({ up with clk := { up.clk with silent := true } } : State).clk.silent = true := by decide +kernel

/-- `up` with much energy in pitch 3's window. -/
def loaded : State := up.modPitch 3 (fun p => { p with win := 10 ^ 12 })

theorem wit_Governor :
    3 < up.pitches.length ∧ up.alive = true ∧ up.pitchLive 3 = true ∧ (up.pitch 3).droop = false ∧
    (let s := up.modPitch 3 (fun p => { p with droop := true })
     3 < s.pitches.length ∧ s.pitchLive 3 = true ∧ (s.pitch 3).droop = true) ∧
    (let lim := (loaded.pitch 3).iLim
     let goal := (loaded.pitch 3).win + bits (loaded.rd (pwrAt 3 8)) 8 8 * 768000
     let next := if lim < goal then min goal (lim + bits (loaded.rd (pwrAt 3 8)) 8 8 * 768000)
       else max goal (lim - bits (loaded.rd (pwrAt 3 8)) 0 8 * 768000)
     (1 ≠ 0 ∧ peakAmps / 8 * 1 < lim + goal) ∧ ¬ (0 ≠ 0 ∧ peakAmps / 8 * 0 < next)) ∧
    145 < 146 ∧ 139 < 140 ∧ 140 ≤ 140 ∧ 145 ≤ 145 := by decide +kernel

/- Lantern queue -/

/-- `n` entries of a level in the pool. -/
def entries (n l : Nat) : List LEntry := (List.range n).map (fun i => ⟨i, l, [1, 2, 3, 4], .pool, 0⟩)

/-- `up` with a queue. -/
def lanterned (es : List LEntry) : State := { up with lnt := { up.lnt with ents := es, nextId := es.length } }

theorem wit_EventEntersQueue :
    up.lnt.ents.length < up.lntCap ∧
    (let s := lanterned (entries up.lntCap 1)
     s.lntCap ≤ s.lnt.ents.length ∧ worstLevel s.lnt.ents < kindLevel 0x02 ∧ kindLevel 0x03 ≤ worstLevel s.lnt.ents) ∧
    up.ctlOpen 0xB0000 = true ∧ up.alive = true ∧ bit (up.rd 0xF0000) 2 = false := by decide +kernel

theorem wit_LanternRead :
    up.alive = true ∧ up.ctlOpen 0xB0004 = true ∧ up.lnt.ents = [] ∧
    (let e : LEntry := ⟨7, 0, [1, 2, 3, 4], .pool, 0⟩
     let f : LEntry := ⟨7, 0, [1, 2, 3, 4], .biv, 0⟩
     let p := entries 2 3
     (∀ x ∈ p ++ e :: p, e.level ≤ x.level) ∧ (∀ x ∈ p, x.level ≠ e.level) ∧ e.level ≤ 3 ∧ e.place = .pool ∧
     f.place ≠ .pool ∧ f.place ≠ .head ∧ (lanterned (p ++ e :: p)).ctlOpen 0xB0004 = true) := by decide +kernel

/- Pitches, memory port, core port, guy lines -/

theorem wit_PitchLeaves :
    up.Ok ∧ 3 < 4 ∧ up.alive = true ∧ up.start.phase = .done ∧ up.pitchUp 3 = true ∧
    up.pitchesUp.filter (fun x => decide (x ≠ 3)) = 0 :: [1, 2] ∧ up.pitchesUp.filter (fun x => decide (x ≠ 0)) = 1 :: [2, 3] ∧
    up.glb.anchor = 0 ∧
    (let s := { up with start := { up.start with started := 8 } }
     s.pitchUp 3 = true ∧ s.pitchUp 0 = false ∧ s.pitchUp 1 = false ∧ s.pitchUp 2 = false) := ⟨up_ok, by decide +kernel⟩

/-- A read of one line at address 0. -/
def reqR : MemReq :=
  { ctx := 5, cls := 0, addr := 0, lines := 1, wr := false, data := [], mask := none, why := ⟨.row, 0⟩, tries := 0,
    poisoned := false, silent := false }

/-- `up` with a waiting read and full allowances. -/
def waiting : State :=
  { up with mem := { up.mem with wait := [reqR], chs := List.replicate 16 { MemCh.reset with iso := false, rd := 16384, wr := 16384 } } }

theorem waiting_ch (c : Nat) (h : c < 16) : waiting.ch c = { MemCh.reset with iso := false, rd := 16384, wr := 16384 } ∧ waiting.chUp c = true := by
  have : ∀ c < 16, waiting.ch c = { MemCh.reset with iso := false, rd := 16384, wr := 16384 } ∧ waiting.chUp c = true := by decide +kernel
  exact this c h

/-- The channel of address 0 is the host's to choose (a free value), so the witness names it so. -/
theorem wit_MemRequestIssue : ∃ c, c < waiting.mem.chs.length ∧ waiting.alive = true ∧ waiting.chUp c = true ∧ (waiting.ch c).down = false ∧
    (waiting.ch c).tagged.length < 1024 ∧ (waiting.ch c).nextTag < 1024 ∧
    (waiting.withhold c).nextReq c = some reqR ∧ (waiting.ch c).covers reqR = true ∧ reqR.why.unit ≠ .query := by
  have h : Config.stackOf 0 % 16 < 16 := Nat.mod_lt _ (by decide)
  obtain ⟨e, u⟩ := waiting_ch _ h
  have n : waiting.nPitch = 4 := by decide
  have k : waiting.withheld reqR = false := by decide +kernel
  have b : waiting.blockedBy reqR = false := by decide +kernel
  have a : waiting.chanOf reqR.addr = some (Config.stackOf 0 % 16) := by simp [State.chanOf, n, u, reqR]
  have w : waiting.mem.wait = [reqR] := rfl
  have d : bit (waiting.rd 0xF0000) 0 = false := by decide +kernel
  have z : waiting.withhold (Config.stackOf 0 % 16) = waiting := by
    simp only [State.withhold, d, Bool.false_and, Bool.false_eq_true, if_false, State.modWait, w, List.map_cons, k, Bool.and_false,
      List.map_nil]
    rfl
  refine ⟨Config.stackOf 0 % 16, h, by decide, u, by rw [e]; decide, by rw [e]; decide, by rw [e]; decide, ?_, by rw [e]; decide, by decide⟩
  have f : waiting.forChan (Config.stackOf 0 % 16) = [reqR] := by simp [State.forChan, w, a, b, k]
  rw [z]
  simp only [State.nextReq, f]
  decide

theorem wit_MemRequestIssue_none : 15 < up.mem.chs.length ∧ up.alive = true ∧ up.chUp 15 = true ∧ (up.ch 15).down = false ∧
    (up.withhold 15).nextReq 15 = none ∧ (up.ch 15).covers reqR = false ∧ State.reset.chUp 15 = false ∧
    ((up.modCh 15 (fun x => { x with down := true })).ch 15).down = true := by
  decide +kernel

/-- Channel 15 with one request outstanding under tag 1,023. -/
def outst (o : MemOut) : State := up.modCh 15 (fun x => { x with out := [o] })

/-- A read of two beats, its first beat awaited. -/
def outR : MemOut := ⟨1023, { reqR with lines := 9, tries := 1 }, 0, [], 0, false⟩

theorem wit_MemReadBeat :
    let s := outst outR
    let u := outst { outR with beat := 1 }
    let data : Bytes := List.replicate 512 0#8
    let par := List.replicate 128 false
    15 < s.mem.chs.length ∧ s.alive = true ∧ s.chUp 15 = true ∧ (∀ o ∈ (s.ch 15).quar, o.tag ≠ 1023) ∧
    (∀ o ∈ (s.ch 15).stale, o.tag = 1023 → o.req.wr = true) ∧
    (s.ch 15).out.find? (fun x => decide (x.tag = 1023)) = some outR ∧ outR.req.wr = false ∧ outR.dead = false ∧
    parityOk 16 (1023 % 1024 + 0 % 8 * 2 ^ 10 + b2n false * 2 ^ 13 + 0 % 4 * 2 ^ 14) false = true ∧
    parityOk 16 (1023 % 1024 + 0 % 8 * 2 ^ 10 + b2n false * 2 ^ 13 + 0 % 4 * 2 ^ 14) true = false ∧ outR.req.tries < 4 ∧
    false = decide (0 + 1 = beatsOf outR.req.lines) ∧ wordsParOk (exactly 512 data) (par ++ List.replicate (128 - par.length) false) = true ∧
    wordsParOk (exactly 512 data) ([true] ++ List.replicate (128 - 1) false) = false ∧
    (u.ch 15).out.find? (fun x => decide (x.tag = 1023)) = some { outR with beat := 1 } ∧
    parityOk 16 (1023 % 1024 + 1 % 8 * 2 ^ 10 + b2n true * 2 ^ 13 + 0 % 4 * 2 ^ 14) false = true ∧
    true = decide (1 + 1 = beatsOf outR.req.lines) ∧
    parityOk 16 (1023 % 1024 + 0 % 8 * 2 ^ 10 + b2n false * 2 ^ 13 + 2 % 4 * 2 ^ 14) true = true ∧
    (∀ x ∈ (up.ch 15).out, x.tag ≠ 1023) := by decide +kernel

theorem wit_MemWriteResponse :
    let o : MemOut := { outR with req := { reqR with wr := true, tries := 3 } }
    let s := outst o
    let u := outst { o with req := { o.req with tries := 4 } }
    let q := up.modCh 15 (fun x => { x with quar := [o] })
    let z := up.modCh 15 (fun x => { x with stale := [o, { outR with tag := 1022 }] })
    15 < s.mem.chs.length ∧ s.alive = true ∧ s.chUp 15 = true ∧ (∀ o ∈ (s.ch 15).quar, o.tag ≠ 1023) ∧
    (∀ o ∈ (s.ch 15).stale, o.tag = 1023 → o.req.wr = false) ∧
    (s.ch 15).out.find? (fun x => decide (x.tag = 1023)) = some o ∧ o.req.wr = true ∧ parityOk 12 (1023 % 1024 + 0 % 4 * 2 ^ 10) false = true ∧
    parityOk 12 (1023 % 1024 + 0 % 4 * 2 ^ 10) true = false ∧ o.req.tries < 4 ∧
    (u.ch 15).out.find? (fun x => decide (x.tag = 1023)) = some { o with req := { o.req with tries := 4 } } ∧
    (∃ o ∈ (q.ch 15).quar, o.tag = 1023) ∧ q.chUp 15 = true ∧ (∀ o ∈ (z.ch 15).quar, o.tag ≠ 1023 ∧ o.tag ≠ 1022) ∧
    (∃ o ∈ (z.ch 15).stale, o.tag = 1023 ∧ o.req.wr = true) ∧ (∃ o ∈ (z.ch 15).stale, o.tag = 1022 ∧ o.req.wr = false) := by
  decide +kernel

theorem wit_MemAnswerTimeout :
    let s := atEl (up.rdMin 0x34 0x1000) (outst outR)
    15 < s.mem.chs.length ∧ s.alive = true ∧ s.chUp 15 = true ∧ (s.ch 15).out.find? (fun x => decide (x.tag = 1023)) = some outR ∧
    outR.at_ + s.rdMin 0x34 0x1000 ≤ s.el ∧ (outst outR).el < outR.at_ + (outst outR).rdMin 0x34 0x1000 ∧
    ((up.modCh 15 (fun x => { x with down := true })).ch 15).down = true := by decide +kernel

theorem wit_PortStuck : up.Ok ∧ up.alive = true ∧ (atEl 0x10000 up).rdMin 0x30 0x400 ≤ (atEl 0x10000 up).el ∧ (atEl 0x10000 up).chUp 15 = true ∧
    (atEl 0x10000 up).ptUp 31 = true ∧ (∃ j < 32, j ≠ 31 ∧ (atEl 0x10000 up).ptUp j = true) ∧ up.el < up.rdMin 0x30 0x400 ∧
    ((up.modPort 71 (fun _ => { Port.reset with st := 2, phy := true, en := true, iso := false })).port 71).usable = true :=
  ⟨up_ok, by decide +kernel⟩

/-- `up` with every channel, point and port isolated, the ports down. -/
def isolated : State := atEl 16 { up with mem := State.reset.mem, core := State.reset.core }

theorem wit_IsolationRelease :
    isolated.Ok ∧ isolated.alive = true ∧ (isolated.ch 15).iso = true ∧ isolated.pitchUp (15 / 4) = true ∧ (isolated.ch 15).lowAt + 16 ≤ isolated.el ∧
    (isolated.pt 31).iso = true ∧ isolated.pitchUp (31 / 8) = true ∧ (isolated.pt 31).lowAt + 16 ≤ isolated.el ∧
    (isolated.port 71).iso = true ∧ isolated.pitchUp (portPitch 71) = true ∧ (isolated.port 71).st ≤ 1 ∧
    (isolated.port 71).lowAt + 16 ≤ isolated.el := ⟨⟨rfl, rfl, rfl, rfl, rfl, rfl⟩, by decide +kernel⟩

theorem wit_CoreDownFall : up.Ok ∧ 31 < 32 ∧ ((up.modPt 31 (fun x => { x with down := true })).pt 31).down = true := ⟨up_ok, by decide +kernel⟩

/-- Guy line 99 (a spare in use) of boundary 2, upward. -/
def guyed (g : GuyLine) : State := up.modGuy (guyKey 2 true 99) (fun _ => g)

/-- A word of transfer 1 that a line has sent `n` rejects ago. -/
def gword (n : Nat) : GuyWord := { (default : GuyWord) with xfer := 1, word := List.replicate 32 0#8, rejects := n }

theorem wit_GuyAck :
    let s := guyed { st := 0, buf := [gword 6] }
    let k := guyKey 2 true 99
    s.alive = true ∧ s.guyOk 2 99 = true ∧ (s.guy k).st = 0 ∧ (s.guy k).buf = gword 6 :: [] ∧ (s.guy k).again < (s.guy k).buf.length ∧
    (gword 6).rejects + 1 < 8 ∧ (recent (2 ^ 20) s.el (s.guy k).rejTimes).length + 1 < 64 ∧ 8 ≤ (gword 7).rejects + 1 ∧
    (s.guysIn k 0).filter (fun j => decide (j ≠ k)) ≠ [] := by decide +kernel

theorem wit_GuyLineWord :
    let s := guyed { st := 0, buf := List.replicate 15 (gword 0) }
    let full := guyed { st := 0, buf := List.replicate 16 (gword 0) }
    let k := guyKey 2 true 99
    let w := (sendOf 32).word
    s.alive = true ∧ s.guyOk 2 99 = true ∧ (s.guy k).st = 0 ∧ (sendOf 32).word.length = 32 ∧ (s.guy k).again = 0 ∧ (s.guy k).buf.length < 16 ∧
    (s.guy k).wait = [] ∧ (s.guy k).skipping = false ∧ (s.guyNext k 1 w true).isSome = true ∧ full.guyNext k 1 w true = none ∧
    (let f := tget {} (s.guyDir (k / 100)).xfers 1
     f.fin = false ∧ f.held = [] ∧ f.sent = f.dlv) ∧ guyParOk w 0 = true ∧ guyParOk w 1 = false ∧
    ((guyed { st := 0, skipping := true }).guy k).skipping = true := by decide +kernel

theorem wit_GuyLineTest :
    let s := guyed { st := 2, groups := [1] }
    let k := guyKey 2 true 99
    let gs (ws : List Nat) : List Nat := ((ws.filter (fun w => decide (w < 268))).eraseDups).map wireGroup
    s.alive = true ∧ s.guyOk 2 99 = true ∧ (s.guy k).st = 2 ∧ ((gs [0, 267]).Nodup ∧ ∀ x ∈ gs [0, 267], x ∉ (s.guy k).groups) ∧
    ¬ (∀ x ∈ gs [39], x ∉ (s.guy k).groups) ∧ s.guysIn k 1 ≠ [] := by
  decide +kernel


/- Link layer -/

/-- Port 71 of an up block, as given. -/
def ported (p : Port) : State := up.modPort 71 (fun _ => p)

/-- A port that is up, with credits. -/
def portUp : Port := { Port.reset with st := 2, phy := true, en := true, iso := false, credit := List.replicate 7 1 }

/-- A flit header of a type, in sequence 0 on channel 6, without acknowledgement or credits. -/
def hdr (ty : Nat) : FlitH := { (default : FlitH) with ftype := ty, vc := 6 }

/-- A flit as received, with the right word parity. -/
def flitIn (f : Bytes) : RxFlit := ⟨f, (List.range 64).map (fun i => decide (parity 32 (fld f (4 * i) 4) = 1)), false⟩

set_option maxRecDepth 20000 in
theorem wit_LinkFlitAccept :
    let s := ported portUp
    let f := flitIn (mkFlit (hdr 3) [])
    let z := flitIn (List.replicate 256 0#8)
    s.Ok ∧ 71 < 72 ∧ s.canTake 71 = true ∧ (s.port 71).st = 2 ∧ flitOk z.bytes z.par z.err = false ∧
    flitOk f.bytes f.par f.err = true ∧ flitOk f.bytes f.par true = false ∧ flitOk f.bytes (true :: f.par.drop 1) false = false ∧
    (flitHeader f.bytes).ftype = 3 ∧ ((s.flitTaken 71).applyFields 71 (flitHeader f.bytes)).isSome = true ∧
    (flitHeader f.bytes).seq = (s.port 71).rx ∧ (flitHeader f.bytes).vc ≤ 6 ∧
    (flitHeader (mkFlit { hdr 1 with seq := 1 } [])).seq ≠ (s.port 71).rx ∧ (s.port 71).restricted = false ∧
    ((s.flitTaken 71).applyFields 71 { hdr 1 with ackV := true, ackSeq := 100 }).isSome = false :=
  ⟨⟨rfl, rfl, rfl, rfl, rfl, rfl⟩, by decide +kernel⟩

set_option maxRecDepth 20000 in
theorem wit_LinkFlitAccept_data :
    let s := ported portUp
    (∀ ty ∈ [1, 2], let f := flitIn (mkFlit (hdr ty) [])
      flitOk f.bytes f.par f.err = true ∧ (flitHeader f.bytes).ftype = ty ∧ isUplink s 71 = false ∧
      s.verOk (flitHeader f.bytes).mver = true ∧
      entState (tget 0 (s.tabFor (flitHeader f.bytes).mver) (flitHeader f.bytes).src) ≠ 0) ∧
    s.verOk (flitHeader (mkFlit { hdr 1 with mver := 9 } [])).mver = false ∧
    (let f := flitIn (mkFlit (hdr 5) [])
     flitOk f.bytes f.par f.err = true ∧ (flitHeader f.bytes).ftype = 5) := by decide +kernel

set_option maxRecDepth 20000 in
theorem wit_ControlFlit :
    let s := ported portUp
    let f := flitIn (mkFlit (hdr 0) [])
    let g := flitIn (mkFlit { hdr 0 with ackV := true, ackSeq := 100 } [])
    s.canTake 71 = true ∧ flitOk f.bytes f.par f.err = true ∧ (flitHeader f.bytes).ftype = 0 ∧
    ((s.flitTaken 71).applyFields 71 (flitHeader f.bytes)).isSome = true ∧ flitOk g.bytes g.par g.err = true ∧
    (flitHeader g.bytes).ftype = 0 ∧ ((s.flitTaken 71).applyFields 71 (flitHeader g.bytes)).isSome = false := by decide +kernel

/-- Port 0 connected to chip 9 in direction 0. -/
def connected (p : Port) : State :=
  { up.modPort 0 (fun _ => p) with links := { (up.modPort 0 (fun _ => p)).links with tab := [(0, ⟨true, 9, 0, 0⟩)] } }

/-- The hello of the neighbour on port 0. -/
def hello (chip : Nat) : Bytes := mkFlit { (default : FlitH) with ftype := 4 } (encHello ⟨chip, 0, 1, 0, 0, List.replicate 8 1, 0⟩)

set_option maxRecDepth 20000 in
theorem wit_HelloFlit :
    let s := connected { portUp with st := 1 }
    let x := flitIn (hello 9)
    let y := flitIn (hello 8)
    s.Ok ∧ 0 < 72 ∧ s.canTake 0 = true ∧ (s.port 0).phy = true ∧ flitOk x.bytes x.par x.err = true ∧ flitOk y.bytes y.par y.err = true ∧
    (flitHeader x.bytes).ftype = 4 ∧ (flitHeader x.bytes).plen = 64 ∧ s.helloOk 0 (decHello (flitPayload x.bytes)) = true ∧
    s.helloOk 0 (decHello (flitPayload y.bytes)) = false ∧ (s.port 0).st ≠ 2 ∧ (s.port 0).wasUp = false ∧
    ((connected { portUp with st := 1, wasUp := true }).port 0).wasUp = true ∧
    (connected portUp).helloOk 0 (decHello (flitPayload x.bytes)) = true ∧ ((connected portUp).port 0).st = 2 ∧
    (((connected portUp).flitTaken 0).applyFields 0 (flitHeader x.bytes)).isSome = true :=
  ⟨⟨rfl, rfl, rfl, rfl, rfl, rfl⟩, by decide +kernel⟩

/-- A queued flit. -/
def qf : QFlit := { h := default, pay := [], slot := 0 }

theorem wit_LinkTransmitSlot :
    (let s := ported { portUp with retry := [qf], rs := some 0 }
     s.Ok ∧ s.alive = true ∧ (s.port 71).usable = true ∧ (s.port 71).phy = true ∧ (s.port 71).sentAt ≤ s.el ∧
     (s.port 71).toResend = some (0, qf) ∧ qf.resends + 1 < 8 ∧ (recent (2 ^ 20) s.el (s.port 71).resTimes).length + 1 < 1024) ∧
    (let s := ported { portUp with helloDue := true }
     (s.port 71).usable = true ∧ (s.port 71).toResend = none ∧ (s.port 71).helloDue = true) ∧
    (∀ v ∈ [6, 5], let s := ported { portUp with queue := lset v [qf] Port.reset.queue }
      (s.port 71).st = 2 ∧ (s.port 71).toResend = none ∧ (s.port 71).helloDue = false ∧ (s.port 71).retry.length < 64 ∧
      (s.port 71).queue.length = 7 ∧ (s.port 71).credit.length = 7 ∧
      (s.port 71).queue.getD v [] = qf :: [] ∧ (s.port 71).credit.getD v 0 ≠ 0 ∧
      (v = 6 ∨ v ≠ 6 ∧ (s.port 71).vcReady 6 = false ∧ (s.port 71).restricted = false ∧ bit (s.rdMode 0x50000) 1 = false ∧
        (∀ w < 6, s.el < (s.port 71).ready.getD w 0 + s.rd 0x50008 % 65536) ∧ [0, 1, 3, 2, 4, 5].find? (s.port 71).vcReady = some v)) :=
  ⟨⟨⟨rfl, rfl, rfl, rfl, rfl, rfl⟩, by decide +kernel⟩, by decide +kernel, by decide +kernel⟩

theorem wit_LinkTransmitSlot_control :
    (let s := ported { portUp with ackDue := true }
     (s.port 71).st = 2 ∧ (s.port 71).toResend = none ∧ (s.port 71).helloDue = false ∧ (∀ v < 7, (s.port 71).vcReady v = false) ∧
     (s.port 71).ackDue = true) ∧
    (let s := ported { portUp with owed := lset 6 1 Port.reset.owed }
     ∃ k ∈ (s.port 71).owed, k ≠ 0) ∧
    (let s := ported { portUp with retry := List.replicate 64 qf }
     64 ≤ (s.port 71).retry.length ∧ (s.port 71).toResend = none ∧ (s.port 71).ackDue = false ∧ ∀ k ∈ (s.port 71).owed, k = 0) := by
  decide +kernel

/-- No channel is ready on a port with nothing queued. -/
theorem wit_LinkTransmitSlot_idle (v : Nat) : ((ported { portUp with ackDue := true }).port 71).vcReady v = false := by
  have h : ((ported { portUp with ackDue := true }).port 71).queue = List.replicate 7 [] := by decide +kernel
  have e : (List.replicate 7 ([] : List QFlit)).getD v [] = [] := by
    rw [List.getD_eq_getElem?_getD, List.getElem?_replicate]
    split <;> rfl
  rw [Port.vcReady, h, e]
  rfl

theorem wit_LinkTimers :
    (let s := atEl 100000 (ported { portUp with retry := [qf] })
     s.Ok ∧ s.alive = true ∧
     (s.port 71).usable = true ∧ (s.port 71).st = 2 ∧ (s.port 71).retry ≠ [] ∧ (s.port 71).rs = none ∧
     max (s.port 71).ackAt (s.port 71).tmoAt + max 0x40 (s.rd 0x50018 % 65536) ≤ s.el ∧ (s.port 71).ackAt + 16384 ≤ s.el ∧
     10000 ≤ 10000 ∧ max (s.port 71).phyAt (s.port 71).enAt + 10000 ≤ s.el ∧ 64 ≤ 71 ∧ s.freeSpare (portPitch 71) = none) ∧
    (let s := atEl 1000 (ported { portUp with st := 6 })
     (s.port 71).usable = true ∧ (s.port 71).phy = true ∧ (s.port 71).st = 6 ∧ (s.port 71).helloAt + 1000 ≤ s.el) ∧
    (let p := { portUp with peer := some (1, 0) }
     let s := atEl 10000 { connected p with links := { (connected p).links with tab := [(0, ⟨true, 9, 0, 0⟩)] } }
     (s.port 0).usable = true ∧ (s.port 0).peer = some (1, 0) ∧ (s.port 0).st = 2 ∧ isUplink s 0 = false ∧ (s.port 0).restricted = false ∧
     s.memb.goneLive + 10000 ≤ s.el ∧ 1 ≠ s.memb.ver) := ⟨⟨⟨rfl, rfl, rfl, rfl, rfl, rfl⟩, by decide +kernel⟩, by decide +kernel⟩

/-- Port 0 is the only one to its neighbour; port 64, free or failed, is its spare. -/
def failing (st : Nat) : State :=
  let s := connected portUp
  let s := s.modPort 64 (fun _ => { portUp with st := st, steer := 31 })
  let s := s.modPort 65 (fun _ => { portUp with st := 3, steer := 31 })
  atEl 100000 { s with links := { s.links with tab := [(0, ⟨true, 9, 0, 0⟩)] } }

theorem wit_LinkTimers_fails :
    (failing 0).Ok ∧ (failing 0).alive = true ∧ ((failing 0).port 0).usable = true ∧ (failing 0).freeSpare (portPitch 0) = some 64 ∧
    (failing 3).freeSpare (portPitch 0) = none ∧ ((failing 3).port 0).usable = true ∧ (failing 3).portDir 0 = some 0 ∧
    (∀ m < 72, m ≠ 0 → (failing 3).portDir m = some 0 → ((failing 3).port m).st ≠ 2 ∨ ((failing 3).port m).iso = true) :=
  ⟨⟨rfl, rfl, rfl, rfl, rfl, rfl⟩, by decide +kernel⟩

/-- Port 64 dead with a held flit, port 0 working in the same direction. -/
def sparing : State :=
  let s := connected portUp
  let s := s.modPort 64 (fun _ => { portUp with st := 1, steer := 6, kept := [{ qf with h := { qf.h with last := true } }], retry := [qf] })
  atEl 10000000 { s with links := { s.links with tab := [(0, ⟨true, 9, 0, 0⟩), (64, ⟨true, 9, 64, 0⟩)] } }

theorem wit_SpareTimeout :
    sparing.Ok ∧ 64 ≤ 64 ∧ (sparing.port 64).usable = true ∧ (sparing.port 64).st = 1 ∧
    (sparing.port 64).held.flatMap Prod.snd ≠ [] ∧ (sparing.port 64).failAt + sparing.rd 0x5001C ≤ sparing.el ∧
    sparing.portDir 64 = some 0 ∧ sparing.workPorts 0 ≠ [] := ⟨⟨rfl, rfl, rfl, rfl, rfl, rfl⟩, by decide +kernel⟩

/- The ask, descriptors, steps -/

/-- A memory answer for a unit waits for context 5. -/
def answered (u : MemUnit) (bs : Bytes) (s : State) : State := { s with mem := { s.mem with done := [⟨5, ⟨u, 0⟩, 0, bs⟩] } }

theorem wit_QueryWriteResponse :
    (let s := answered .query [] (withCtx { enable := true, st := .asking, ask := { pend := 2 } })
     s.alive = true ∧ (s.takeDone 5 .query).isSome = true ∧ (s.ctx 5).tdown = false ∧ (s.ctx 5).st = .asking ∧ (s.ctx 5).ask.pend ≠ 1 ∧
     (s.ctx 5).ask.pend ≠ 4) ∧
    (∀ k ∈ [1, 4], let s := answered .query [] (withCtx { enable := true, st := .running, tracked := [3], step := some st0, ask := { pend := k } })
     s.alive = true ∧ (s.takeDone 5 .query).isSome = true ∧ (s.ctx 5).tdown = false ∧ (s.ctx 5).st = .running ∧ (s.ctx 5).ask.pend = k ∧
     s.step? 5 = some st0) := by decide +kernel

theorem wit_AskTimers :
    (let s := withCtx { enable := true, st := .asking, ask := { set_ := true } }
     s.alive = true ∧ (s.ctx 5).st = .asking ∧ s.askDue (s.ctx 5) = true) ∧
    (let s := withCtx { enable := true, st := .waiting, ask := { set_ := true, abs := true, due := 1 } }
     s.alive = true ∧ (s.ctx 5).st = .waiting ∧ s.askDue (s.ctx 5) = false) ∧
    (let s := withCtx { enable := true, st := .asking, ask := { set_ := true, came := some 0 } }
     s.alive = true ∧ (s.ctx 5).active = true ∧ (s.ctx 5).ask.set_ = true ∧ (s.ctx 5).ask.came.isSome = true ∧
     (s.ctx 5).ask.reading = false ∧ (s.ctx 5).ask.retry ≤ s.el) := by decide +kernel

/-- An answer half with a verb. -/
def half (verb at_ : Nat) : Bytes := withCrc (le 4 0 ++ le 1 verb ++ le 1 1 ++ zeros 2 ++ le 2 7 ++ zeros 2 ++ le 4 9 ++ le 8 at_ ++ zeros 36)

/-- An answer read has come. -/
def reading (b : Bytes) : State :=
  answered .answer b (withCtx { enable := true, st := .asking, ask := { set_ := true, came := some 0, reading := true } })

theorem wit_AnswerRead :
    ∀ v ∈ [1, 2, 3], let s := reading (half v 1)
      s.alive = true ∧ (s.takeDone 5 .answer).isSome = true ∧ (s.ctx 5).active = true ∧ (s.ctx 5).ask.reading = true ∧
      s.answerOk 5 (half v 1) = true ∧ (parseAnswer (half v 1)).verb = v ∧ s.now < (parseAnswer (half v 1)).at_ ∧
      (parseAnswer (half v 0)).at_ ≤ s.now ∧ s.answerOk 5 (half 4 0) = false := by decide +kernel

theorem wit_AskGrace :
    let s := withCtx { enable := true, st := .asking, ask := { set_ := true, came := some 0 } }
    let t := atEl (s.rd 0x18028) s
    t.alive = true ∧ 5 ≠ 0 ∧ (t.ctx 5).active = true ∧ (t.ctx 5).ask.set_ = true ∧ (t.ctx 5).ask.came = some 0 ∧ 0 + t.rd 0x18028 ≤ t.el := by
  decide +kernel

/-- A forward descriptor of one token in BF16, k = 1: input at 0x2000, output at 0x3000, sequence map at 0x4000. -/
def descBytes : Bytes :=
  withCrc (le 1 2 ++ le 1 1 ++ zeros 6 ++ le 2 0x111 ++ zeros 2 ++ le 4 1 ++ zeros 40 ++ le 8 0x2000 ++ le 4 64 ++ le 4 64 ++
    le 8 0x3000 ++ le 8 0x4000 ++ zeros 164)

/-- A layer entry at 0x1000 of one BF16 expert with 32 hidden elements. -/
def hvLayer : HostView := hvAt 0x1000 (withCrc (le 1 1 ++ zeros 1 ++ le 2 1 ++ le 2 1 ++ zeros 22))

/-- Context 5, real-time, fetches; model 0 has a layer at 0x1000; tent 0 holds a core; `w` sizes the only window. -/
def fetching (w : Nat) (b : Bytes) : State :=
  let s := (((withCtx { enable := true, rt := true, st := .fetching }).wr 0x20000 1).wr (0x20300) 1).wr (modelBase 0) 0x1000
  answered .desc b ((((s.wr (tentAddr 0) 0x20100).wr (pageAt 5 0x58) 1).wr 0xE0010 w).wr 0xE0014 3)

set_option maxRecDepth 20000 in
theorem wit_DescriptorFetched :
    let s := fetching 0x100 descBytes
    s.alive = true ∧ (s.takeDone 5 .desc).isSome = true ∧ (s.ctx 5).st = .fetching ∧ crcOk 256 (descBytes.take 256) = true ∧
    (match s.checkDesc 5 hvLayer (descBytes.take 256) with | .passed _ => true | _ => false) = true ∧
    (fetching 0 descBytes).checkDesc 5 hvLayer (descBytes.take 256) = .fault 0x05 ∧
    s.checkDesc 5 hv0 (descBytes.take 256) = .refused 0x04 ∧ crcOk 256 ((zeros 256).take 256) = false ∧
    (fetching 0 (zeros 256)).mem.done.map (fun d => d.why.idx) = [0] := by decide +kernel

/-- Context 5 fetches with a checked candidate. -/
def accepting (st : Step) : State := withCtx { enable := true, st := .fetching, cand := some st }

/-- Directory entry at 0, index at 64, table at 128 of one expert in one slot on chip 0. -/
def hvTable : HostView :=
  let body := le 2 1 ++ le 2 1 ++ zeros 24
  let rest := le 4 0x1000 ++ le 8 (0xFFF * 2 ^ 26)
  hvAt 0 (withCrc (le 8 64 ++ le 2 1 ++ zeros 2) ++ zeros 48 ++ le 8 128 ++ zeros 56 ++ body ++ le 4 (crcN (body ++ rest)) ++ rest)

/-- The step of `st0` for one expert. -/
def stDir : Step := { st0 with launched := false, bind := { dir := { lfmt := 1, nExp := 1, d32 := 1 } } }

theorem wit_StepAccept :
    (let st : Step := { stDir with desc := { stDir.desc with kind := 5 } }
     let s := accepting st
     s.alive = true ∧ (s.ctx 5).cand = some st ∧ (s.ctx 5).active = true ∧ (s.ctx 5).st = .fetching ∧
     (s.ctx 5).tracked.contains (s.ctx 5).nextEpoch = false ∧ st.desc.tokens = false ∧ st.desc.flag 6 = false ∧
     (default : LTable).biases = false) ∧
    (let s := (accepting stDir).wr 0x20300 1
     stDir.desc.tokens = true ∧ (mkGrp (s.groupWord stDir.desc.group) s.torus s.own s.memb.live).valid = true ∧
     (s.bindTable hvTable stDir.desc stDir.bind.dir).isSome = true ∧
     (s.bindTable hvTable stDir.desc stDir.bind.dir).map LTable.biases = some false ∧ hvTable.fault = 0 ∧
     s.bindTable hv0 stDir.desc stDir.bind.dir = none) ∧
    (let st : Step := { stDir with desc := { stDir.desc with group := 1 } }
     let s := ({ accepting st with glb := { up.glb with nx := 16 } } : State).wr 0x60004 (2 ^ 29 + 1)
     st.desc.tokens = true ∧ (mkGrp (s.groupWord st.desc.group) s.torus s.own s.memb.live).valid = false) := by decide +kernel

/-- The checks made again before acceptance, on a window of `w` pages: the residency directory has changed. -/
def regen (w : Nat) (b : Bytes) : State :=
  let s := fetching w descBytes
  { s.modCtx 5 (fun x => { x with cand := some { stDir with raw := b } }) with ktl := { s.ktl with gens := [(0, 1)] } }

set_option maxRecDepth 20000 in
theorem wit_StepAccept_again :
    let s := regen 0x100 descBytes
    s.alive = true ∧ (s.ctx 5).cand = some { stDir with raw := descBytes } ∧ (s.ctx 5).active = true ∧ (s.ctx 5).st = .fetching ∧
    (s.ctx 5).tracked.contains (s.ctx 5).nextEpoch = false ∧ tget 0 s.ktl.gens stDir.desc.model ≠ stDir.bind.gen ∧
    (match s.checkDesc 5 hvLayer descBytes with | .passed _ => true | _ => false) = true ∧
    (regen 0 descBytes).checkDesc 5 hvLayer descBytes = .fault 0x05 ∧ s.checkDesc 5 hv0 descBytes = .refused 0x04 := by decide +kernel

/-- A step with the stats flag one, of no tokens. -/
def stStats : Step := { stDir with desc := { stDir.desc with kind := 5, flags := 64, statsAddr := 0x1000 } }

/-- A copy of a table of one expert in one slot, in the pitch that allocates for context 5. -/
def oneSlot : Tab := { pitch := up.allocPitch 5, model := 0, layer := 0, ver := 0, table := { (default : LTable) with nExp := 1, nSlot := 1 } }

theorem wit_StepAccept_stats :
    ∀ w ∈ [0, 2], let s := ((accepting stStats).wr 0xE0010 w).wr 0xE0014 3
      let s : State := { s with ktl := { s.ktl with tabs := [oneSlot] } }
      s.alive = true ∧ (s.ctx 5).cand = some stStats ∧ tget 0 s.ktl.gens stStats.desc.model = stStats.bind.gen ∧ hv0.fault = 0 ∧
      stStats.desc.tokens = false ∧ stStats.desc.flag 6 = true ∧ s.tabOf 5 stStats.desc = some oneSlot ∧
      oneSlot.table.nExp = stStats.bind.dir.nExp ∧ oneSlot.table.biases = false ∧
      s.fenceOk 5 0x1000 (4 * oneSlot.table.nSlot) rightWr = decide (w = 2) := by decide +kernel

theorem wit_FrameSwitchDone :
    let s := running { st0 with moving := true }
    s.alive = true ∧ s.stepsWhere (fun c x st => decide (x.tent = 0) && st.moving && decide (st.swEnd ≤ s.el) && !(s.unitOut st.victim .saveOut) &&
      !(s.unitOut c .saveRead)) = 5 :: [] ∧
    (running st0).stepsWhere (fun c x st => decide (x.tent = 0) && st.moving && decide (st.swEnd ≤ (running st0).el) &&
      !((running st0).unitOut st.victim .saveOut) && !((running st0).unitOut c .saveRead)) = [] := by decide +kernel

theorem wit_FrameSwitchDone_ok : (running { st0 with moving := true }).Ok := ⟨rfl, by decide +kernel, rfl, rfl, rfl, rfl⟩

theorem wit_StepLaunch :
    (let st : Step := { st0 with launched := false }
     let s := running st
     s.step? 5 = some st ∧ s.launchDue 5 st = true ∧ hv0.fault = 0 ∧ ({ hv0 with fault := 0x0F } : HostView).fault ≠ 0) ∧
    (let s := withCtx { enable := true, st := .running, launch := 1, step := some st0 }
     s.step? 5 = some st0 ∧ s.launchDue 5 st0 = false) := by decide +kernel

/-- A step whose work is over. -/
def stOver : Step := { st0 with desc := { st0.desc with kind := 5 }, por := { wrote := 2 } }

theorem wit_StepDone :
    ∀ k ∈ [0, 1, 2], let st : Step := { stOver with por := { wrote := k } }
      let s := running st
      s.step? 5 = some st ∧ s.on = true ∧ (s.ctx 5).active = true ∧ s.workDone 5 st = true ∧ s.writesOut 5 = false ∧
      st.por.wrote = k ∧ st.samp.plock = false ∧ hv0.fault = 0 ∧
      ({ s with mem := { s.mem with wait := [writeReq 5 1 0 [] ⟨.statsOut, 0⟩] } } : State).writesOut 5 = true := by decide +kernel

/- Chains, images, tiles -/

/-- A chain of 64 bytes to chip 9, from 0x2000 here to 0x1000 there. -/
def chainTo (op peer len : Nat) : Chain := ⟨op, 1, false, 0, 255, 0, peer, len, 0x2000, 0x1000⟩

/-- Context 5 runs a step whose chain 0 has fired; `word` is its group word. -/
def chaining (op peer len word : Nat) : State :=
  let s := running { st0 with chains := [{ c := chainTo op peer len, st := 1, word := word }], bind := { tab := [(0, 4096)] } }
  { s with xch := { s.xch with fired := [(5, 0)] } }

theorem wit_ChainsRun_copies :
    hv0.fault = 0 ∧
    (∀ op ∈ [1, 2], ∀ n ∈ [0, 64], ((chaining op 9 n 0).chainGo 5 0 op).map (fun x => x.2.c) = some (chainTo op 9 n)) ∧
    (∀ op ∈ [1, 2, 3, 4, 5], up.chainGo 5 0 op = none) := by decide +kernel

/-- A barrier's descriptor, and one of no operation. -/
def barrier (cop : Nat) : Bytes := withCrc (le 1 cop ++ zeros 27)

theorem wit_ChainsRun_collective :
    (∀ w ∈ [0, 2 ^ 29 + 1], ((chaining 3 0 0 w).chainGo 5 0 3).map (fun x => (x.2.c.raddr, x.2.word, x.1.bind.tab)) = some (0x1000, w, [(0, 4096)])) ∧
    readChecked hv0 0x1000 32 = none ∧
    (∀ k ∈ [0, 1], readChecked (hvAt 0x1000 (barrier k)) 0x1000 32 = some (barrier k) ∧ collOk (parseColl (barrier k)) = decide (k = 1)) ∧
    (let s := chaining 3 0 0 0
     collGroupOk (mkGrp 0 s.torus s.own [(0, 4096)]) false = true ∧ (parseColl (barrier 1)).up = false) ∧
    (let s : State := { chaining 3 0 0 (2 ^ 29 + 1) with glb := { up.glb with nx := 16 } }
     (s.chainGo 5 0 3).isSome = true ∧ collGroupOk (mkGrp (2 ^ 29 + 1) s.torus s.own [(0, 4096)]) false = false) := by decide +kernel

theorem wit_ChainsRun_messages :
    (∀ p ∈ [0, 9], ((chaining 4 p 0 0).chainGo 5 0 4).map (fun x => x.2.c.peer) = some p ∧ (chaining 4 p 0 0).glb.chip = 0) ∧
    ((chaining 5 0 0 0).chainGo 5 0 5).isSome = true ∧
    (let s := chaining 5 0 0 0
     (s.pt (s.firstPt (s.allocPitch 5))).down = false) := by decide +kernel

/-- A message waits for context 5. -/
def saying (e : Nat) (bs : Bytes) (s : State) : State := { s with xch := { s.xch with shorts := [⟨9, 5, e, bs⟩] } }

theorem wit_CounterAddsAndStalls :
    (let s := atEl 0xFFFFFFFF (running { st0 with chains := [{ c := chainTo 1 9 64 }], cnt := { rest := some 0 } })
     5 ≠ 0 ∧ s.on = true ∧ (s.ctx 5).active = true ∧ s.chainStalled 5 = true) ∧
    (∀ e ∈ [3, 0], let s := saying e (addMsg 0 (chainTo 4 9 0)) (running st0)
      s.on = true ∧ (s.takeShort 7).map Prod.fst = some ⟨9, 5, e, addMsg 0 (chainTo 4 9 0)⟩ ∧ (s.ctx 5).active = true ∧
      (s.runs 5 e).isSome = decide (e = 3) ∧ (s.ctx 5).nextEpoch = 0 ∧ s.xch.pend.length < 1024) ∧
    (let s := saying 3 (addMsg 0 (chainTo 4 9 0)) up
     s.on = true ∧ (s.takeShort 7).isSome = true ∧ (s.ctx 5).active = false) := by decide +kernel

/-- A chunk of a kind from chip 9 waits for its unit. -/
def landedOf (k addr vc : Nat) (data : Bytes) : Landed :=
  ⟨9, 5, 3, 0, { (default : ChunkH) with ckind := k, addr := addr }, data, 0, vc, false⟩

def landing (l : Landed) (s : State) : State := { s with xch := { s.xch with inbox := [l] } }

/-- A window of `n` pages from address 0 with the four rights. -/
def fenced (n : Nat) (s : State) : State := (s.wr 0xE0010 n).wr 0xE0014 15

theorem wit_ChainTrafficAtThePeer_data :
    (∀ n ∈ [0, 2], let l := landedOf 4 0x1000 2 (zeros 64)
      let s := landing l (fenced n (running st0))
      s.on = true ∧ (s.takeChunkOf 4).map Prod.fst = some l ∧ s.takes 5 = true ∧ 5 ≠ 0 ∧
      s.fenceOk 5 0x1000 64 rightRput = decide (n = 2) ∧ 0x1000 % 64 = 0 ∧ l.data.length % 64 = 0) ∧
    (let s := landing (landedOf 4 0x1000 2 (zeros 64)) up
     s.on = true ∧ (s.takeChunkOf 4).isSome = true ∧ s.takes 5 = false) ∧
    (let l := landedOf 8 0x1000 5 (zeros 64)
     let s := landing l up
     s.on = true ∧ (s.takeChunkOf 8).map Prod.fst = some l ∧ l.ch.addr % 64 = 0 ∧ l.data.length % 64 = 0) := by decide +kernel

/-- A put of this chip itself, of 64 bytes, whose first chunk of 64 has come before or not. -/
def ownPut (before : List RxPut) : State :=
  let s := landing { landedOf 4 0x1000 2 (zeros 64) with src := 0 } (fenced 2 (running { st0 with chains := [{ c := chainTo 1 0 128 }] }))
  { s with xch := { s.xch with table := [(0, some { (default : ChunkE) with kind := 4, ref := 0 })], rxPuts := before } }

theorem wit_ChainTrafficAtThePeer_puts :
    let l := { landedOf 4 0x1000 2 (zeros 64) with src := 0 }
    let mine (p : RxPut) : Bool := decide (p.ctx = 5 ∧ p.epoch = 3 ∧ p.src = 0 ∧ p.idx = 0 ∧ p.up = false)
    (ownPut []).takeChunkOf 4 = some (l, (ownPut []).modXch (fun x => { x with inbox := [] })) ∧ (ownPut []).putRef l = (0, 128) ∧
    (ownPut []).xch.rxPuts.find? mine = none ∧
    (ownPut [⟨7, 5, 3, 0, 0, false, 64, 128⟩]).xch.rxPuts.find? mine = some ⟨7, 5, 3, 0, 0, false, 64, 128⟩ ∧
    (landing { l with ctx := 0 } (fenced 2 up)).takes 0 = true := by decide +kernel

theorem wit_ChainTrafficAtThePeer_gets :
    (∀ n ∈ [0, 2], let l := landedOf 5 0x1000 2 (getReq 64 0x2000)
      let s := landing l (fenced n (running st0))
      s.on = true ∧ (s.takeChunkOf 5).map Prod.fst = some l ∧ s.takes 5 = true ∧ fld l.data 0 1 = 1 ∧ fld l.data 4 4 = 64 ∧
      s.fenceOk 5 0x1000 64 rightRget = decide (n = 2) ∧ hv0.fault = 0) ∧
    (let st : Step := { st0 with chains := [{ c := chainTo 2 9 64, st := 2, left := 64 }] }
     let l := landedOf 6 0x2000 3 (zeros 64)
     let s := landing l (running st)
     s.on = true ∧ (s.takeChunkOf 6).map Prod.fst = some l ∧ (s.ctx 5).active = true ∧ s.runs 5 3 = some st ∧ st.getOf l = some 0) := by
  decide +kernel

theorem wit_ChainTrafficAtThePeer_pulls :
    let l := landedOf 5 0 2 (le 1 2 ++ zeros 15)
    let s := landing l (running st0)
    s.on = true ∧ (s.takeChunkOf 5).map Prod.fst = some l ∧ s.takes 5 = true ∧ fld l.data 0 1 = 2 ∧ (∀ p ∈ (s.ctx 5).past, p.1 ≠ 3) ∧
    (let g := landing (landedOf 6 0x2000 3 (zeros 64)) (running st0)
     (g.takeChunkOf 6).isSome = true ∧ g.runs 5 3 = some st0 ∧ st0.getOf (landedOf 6 0x2000 3 (zeros 64)) = none) := by decide +kernel

/-- A ternary image of one block at 0x1000 in pitch 0. -/
def img (tries check : Nat) : Img :=
  ⟨1, 0, 0x1000, 8, 1, 1, check, false, false, false, tries, 5, [], [], 0⟩

/-- Its only part has come. -/
def imaging (tries check : Nat) (bs : Bytes) : State :=
  let s := running st0
  { s with
    ktl := { s.ktl with imgs := [img tries check] }
    mem := { s.mem with done := [⟨5, ⟨.imageRead, imgIdx 1 0⟩, 0x1000, bs⟩] } }

set_option maxRecDepth 20000 in
theorem wit_ImageLoad :
    (∀ b ∈ [0, 255], let bs := le 1 b ++ zeros 575
      let s := imaging 1 (crcN bs) bs
      let i := img 1 (crcN bs)
      s.alive = true ∧ s.ktl.imgs.find? (fun j => decide (j.loader = 5 ∧ j.pitch = 0) && !j.usable && (s.loadedImage j).isSome) = some i ∧
      s.loadedImage i = some bs ∧ imageBad 8 1 1 bs = decide (b = 255) ∧ (s.ctx 5).active = true) ∧
    (∀ n ∈ [1, 2], let s := imaging n 0 (zeros 576)
      (s.ktl.imgs.find? (fun j => decide (j.loader = 5 ∧ j.pitch = 0) && !j.usable && (s.loadedImage j).isSome)).map Img.tries = some n ∧
      (s.ktl.imgs.map s.loadedImage) = [some (zeros 576)] ∧ crcN (zeros 576) ≠ 0) := by decide +kernel

/-- A step of one BF16 expert of 32 elements with its row here, in a frame, its lines streamed in pitch 0. -/
def stTile : Step :=
  { st0 with
    desc := { st0.desc with fmt := 0x111 }
    frame := some 0
    bind := { dir := { lfmt := 1, nExp := 1, d32 := 1 } }
    sc := { toks := [0], rows := [(0, zeros 64)], stream := [0] } }

theorem wit_TileStart :
    let s := (running stTile).wr (tentAddr 0) 0x20100
    s.on = true ∧ s.coreFree 0 = true ∧ s.tentWith 0 = some 0 ∧
    (∀ j ∈ tentCores (s.tentWord 0), j < 0 → s.coreFree j = true → s.tileFor 0 j = none) ∧
    s.tileFor 0 0 = some (5, stTile, 0, 0, 0, 0) ∧ stTile.streams (stTile.tileShadow {}) 0 = true := by decide +kernel

/-- Core 0 is busy with tile 7 of the step, its line here or not. -/
def tiling (st : Step) (r : Run) (ls : List Bytes) : State :=
  let s := running st
  { s with
    ktl := { s.ktl with cores := [(0, { r with busy := true, ctx := 5, epoch := 3, id := 7 })] }
    mem := { s.mem with done := ls.map (fun b => ⟨5, ⟨.lineRead, lineIdx 7 0 0⟩, 0, b⟩) } }

theorem wit_Tiles :
    (∀ c ∈ [true, false], let st := { stTile with cancelled := c }
      let s := tiling st {} []
      s.alive = true ∧ (tget {} s.ktl.cores 0).busy = true ∧ (tget {} s.ktl.cores 0).wait = false ∧ s.step? 5 = some st ∧
      st.epoch = (tget {} s.ktl.cores 0).epoch ∧ st.cancelled = c ∧ s.linesHere 5 st 0 (tget {} s.ktl.cores 0) = false) ∧
    ((tiling { stTile with epoch := 4 } {} []).step? 5).map Step.epoch = some 4 ∧
    (tget {} (tiling stTile { kind := 3 } []).ktl.cores 0).kind = 3 ∧ hv0.fault = 0 ∧ ({ hv0 with fault := 0x0F } : HostView).fault ≠ 0 := by
  decide +kernel

set_option maxRecDepth 20000 in
theorem wit_Tiles_lines :
    ∀ x ∈ [0, 0x7F80], let r : Run := { busy := true, ctx := 5, epoch := 3, id := 7, str := true }
      let s := tiling stTile r [le 2 x]
      tget {} s.ktl.cores 0 = r ∧ r.kind ≠ 3 ∧ s.linesHere 5 stTile 0 r = true ∧ s.tileBad 5 stTile 0 r = decide (x ≠ 0) := by decide +kernel

theorem wit_TileCheckFail :
    (∀ c ∈ [true, false], let s := tiling { stTile with cancelled := c } {} []
      0 < 128 ∧ s.alive = true ∧ (tget {} s.ktl.cores 0).busy = true ∧ (s.step? 5).map Step.cancelled = some c) ∧
    (let s := tiling stTile {} []
     ({ s with ctxs := up.ctxs } : State).step? 5 = none) := by decide +kernel

/-- Only pitch 0 is there. -/
def onePitch (s : State) : State := { s with glb := { s.glb with present := 1 }, pitches := s.pitches.take 1 }

/-- A copy of step 3 of context 5 in the steep hold, matched or not. -/
def heldE (r : Option LandRec) : HoldE :=
  { ctx := 5, epoch := 3, rec_ := { (default : LandRec) with pitch := 0 }, src := 9, at_ := 0, conf := r, st := if r.isSome then 3 else 0 }

theorem wit_StorageParity :
    (let s := onePitch (running st0)
     0 < 4 ∧ s.alive = true ∧ s.pitchLive 0 = true ∧ s.pitchesUp.length ≤ 1 ∧ 5 ≠ 0 ∧ (s.ctx 5).active = true) ∧
    (let s := running st0
     s.pitchLive 3 = true ∧ 1 < s.pitchesUp.length ∧ s.alive = true) ∧
    (∀ n ∈ [0, 2], let x : PoolSlot := ⟨7, 0, 0, 5, default, 0, 0, 0, [], n, 1⟩
      let s : State := { up with xch := { up.xch with pool := [x] } }
      s.xch.pool.find? (fun x => decide (x.id = 7 ∧ x.where_ = 0 ∧ x.pitch = 0)) = some x ∧ x.kind ≠ 7) ∧
    (let s : State := { onePitch (running st0) with drain := [⟨5, 2, [(0, 1)], 0, 0⟩] }
     s.pitchesUp.length ≤ 1 ∧ s.drain.any (fun d => decide (d.ctx = 5 ∧ d.epoch = 2)) = true) ∧
    (let s : State := { running st0 with drain := [⟨5, 2, [(0, 1)], 0, 0⟩] }
     1 < s.pitchesUp.length ∧ s.drain.any (fun d => decide (d.ctx = 5 ∧ d.epoch = 2)) = true) ∧
    (∀ r ∈ [none, some default], let s : State := { running st0 with hold := [heldE r] }
      s.hold[0]? = some (heldE r) ∧ (heldE r).rec_.pitch = 0 ∧ (heldE r).conf = r) := by decide +kernel

theorem wit_StorageParity_rows :
    (let i : Img := { img 1 0 with usable := true }
     let s := tiling stTile {} []
     let s : State := { s with ktl := { s.ktl with imgs := [i] } }
     s.ktl.imgs.find? (fun x => decide (x.id = 1 ∧ x.pitch = 0) && x.usable) = some i ∧ (tget {} s.ktl.cores 0).busy = true ∧ 0 / 32 = 0) ∧
    (∀ n ∈ [1, 2], let s := up.wr 0xC0000 (n * 2 ^ 22)
      s.rdF (0xC0000 + 4 * 0) 22 2 = n) ∧
    (let s := connected { portUp with st := 1, retry := [qf] }
     0 < s.links.ports.length ∧ (s.port 0).st ≠ 2 ∧ (s.port 0).retry ≠ [] ∧ portPitch 0 = 0 ∧ s.portDir 0 = some 0 ∧ s.workPorts 0 = []) ∧
    (let r : RingIn := { (default : RingIn) with h := { (default : RingH) with gather := true } }
     let x : CollInst := { (default : CollInst) with cinst := 3, stage := 1, rx := [default, r] }
     let s := running { st0 with insts := [x] }
     s.step? 5 = some { st0 with insts := [x] } ∧ x.cinst = (512 * 1 + 3) % 512 ∧ x.rx[(512 * 1 + 3) / 512]? = some r ∧ r.h.gather = true) := by
  decide +kernel

/- Allocation, batches, messages, returns, cues -/

theorem wit_StrainerAllocate :
    (let st : Step := { st0 with desc := { st0.desc with kind := 2 }, rt := { counts := true } }
     let s := running st
     s.step? 5 = some st ∧ s.on = true ∧ (s.ctx 5).active = true ∧ st.launched = true ∧ st.cancelled = false ∧ st.ended = false ∧
     st.rt.alloc = false ∧ st.desc.kind = 2 ∧ st.rt.counts = true ∧ st.allRanked = true ∧ st.samp.ec = false ∧
     s.paceOk (s.allocPitch 5) = true) ∧
    (∀ st ∈ ([{ st0 with launched := false }, { st0 with rt := { counts := true, alloc := true } }, st0,
        { st0 with rt := { counts := true }, sc := { toks := [0] } }] : List Step),
      let s := running st
      s.step? 5 = some st ∧ s.on = true ∧ (s.ctx 5).active = true ∧
      (st.launched = false ∨ st.rt.alloc = true ∨ st.rt.counts = false ∨ st.allRanked = false)) := by decide +kernel

/-- A record landed at slot `slot`, row `row`. -/
def rec0 (slot row tag : Nat) : LandRec := { slot := slot, row := row, tag := tag, bytes := [], back := false, fmt := 1, at_ := 0 }

/-- A step whose slot 0 is pulled, its weights sent. -/
def stPulled : Step :=
  { st0 with
    dst := { recs := [rec0 0 0 0] }
    bind := { table := { (default : LTable) with slots := [{ (default : ESlot) with chip := 9 }] } }
    ext := { w2t := true, have_ := [(9, 0)] } }

theorem wit_BatchWaitExpire :
    (∀ k ∈ [0, 4095], let st : Step := { st0 with dst := { recs := [rec0 k 0 0, rec0 1 0 0] } }
      let s := atEl 0xFFFFFFFF (running st)
      k < 4096 ∧ s.alive = true ∧ s.step? 5 = some st ∧ (s.ctx 5).active = true ∧ st.cancelled = false ∧ s.ewdir st.desc.model = 0 ∧
      st.slotOpen s.glb.chip k = true ∧ (∃ r ∈ st.slotRecs k, r.at_ + s.rd 0x50020 ≤ s.el) ∧
      (s.wr 0xC0100 64).ewdir st.desc.model ≠ 0 ∧ st.pulled s.glb.chip k = false ∧ tget 0 st.dst.chk k = 0) ∧
    (let s := atEl 0xFFFFFFFF (running stPulled)
     s.step? 5 = some stPulled ∧ stPulled.slotOpen s.glb.chip 0 = true ∧ stPulled.pulled s.glb.chip 0 = true ∧
     (∃ r ∈ stPulled.slotRecs 0, r.at_ + s.rd 0x50020 ≤ s.el)) := by decide +kernel

/-- A collective message of kind `k` for instance 511, attempt 0, digest `d`. -/
def msgOf (k d : Nat) : Bytes := encMsg ⟨k, 0, 0, 0, 511, 0, 0, d, true⟩ (zeros 4)

/-- An open instance, from chip 9 holding nothing. -/
def inst0 : CollInst := { cinst := 511, cd := default, word := 0, digest := 7 }

theorem wit_InstanceMessages_dropped :
    (∀ k ∈ [1, 2, 3, 4, 5], let s := saying 3 (msgOf k 7) up
      s.on = true ∧ ((if k = 2 ∨ k = 4 then { s with free := s.free + 1 } else s : State).takeShort k).isSome = true ∧
      (decMsg (msgOf k 7)).mkind = k ∧ (saying 9 (msgOf k 7) (running st0)).keepsEpoch 5 9 = false) ∧
    (let st : Step := { st0 with doneInsts := [511] }
     let s := saying 3 (msgOf 1 7) (running st)
     s.keepsEpoch 5 3 = true ∧ s.step? 5 = some st ∧ st.epoch = 3 ∧ st.doneInsts.contains (decMsg (msgOf 1 7)).inst = true) ∧
    (let s := saying 3 (msgOf 1 7) (running st0)
     s.keepsEpoch 5 3 = true ∧ s.step? 5 = some st0 ∧ st0.doneInsts.contains 511 = false ∧ st0.inst? 511 = none) := by decide +kernel

theorem wit_InstanceMessages_consumed :
    ∀ d ∈ [7, 8], ∀ k ∈ [1, 2, 3, 4, 5], let st : Step := { st0 with insts := [inst0, { inst0 with cinst := 0 }] }
      let s := saying 3 (msgOf k d) (running st)
      let h := decMsg (msgOf k d)
      s.on = true ∧ (s.takeShort k).map Prod.fst = some ⟨9, 5, 3, msgOf k d⟩ ∧ s.keepsEpoch 5 3 = true ∧ (s.ctx 5).active = true ∧
      s.step? 5 = some st ∧ st.doneInsts.contains 511 = false ∧ h.inst = 511 ∧ st.inst? 511 = some inst0 ∧ h.mkind = k ∧ h.digest = d ∧
      inst0.attempt ≤ h.attempt ∧ inst0.holds 9 h = false ∧ (d = 7 → h.digest = inst0.digestOf h.subk) ∧
      (d = 8 → h.digest ≠ inst0.digestOf h.subk) ∧ inst0.stage < 3 ∧ 3 ≤ { inst0 with stage := 3 }.stage ∧
      { inst0 with shorts := [⟨9, h, []⟩] }.holds 9 h = true ∧ h.attempt < { inst0 with attempt := 1 }.attempt := by decide +kernel

/-- A ring chunk of instance 511 from chip `src` along an axis. -/
def ringOf (src ax d : Nat) : Landed :=
  let h : RingH := ⟨511, 0, 0, d, ax, false, false, 1, 1, 0, 0, 0, 0, false⟩
  { landedOf 7 0 0 (encRing h) with src := src }

theorem wit_RingChunks :
    (∀ e ∈ [3, 9], let l := { ringOf 9 0 7 with epoch := e }
      let s := landing l (running st0)
      s.on = true ∧ ltake (fun l : Landed => decide (l.ch.ckind = 7)) s.xch.inbox = some (l, []) ∧ s.keepsEpoch 5 e = decide (e = 3) ∧
      s.step? 5 = some st0 ∧ st0.doneInsts.contains 511 = false ∧ st0.inst? 511 = none) ∧
    (∀ d ∈ [7, 8], let st : Step := { st0 with insts := [inst0] }
      let s := landing (ringOf 9 3 d) (running st)
      let h := decRing ((ringOf 9 3 d).data.take 32)
      s.keepsEpoch 5 3 = true ∧ s.step? 5 = some st ∧ st.inst? h.inst = some inst0 ∧ h.digest = d ∧ inst0.attempt ≤ h.attempt ∧ h.axis = 3 ∧
      inst0.rx.any (fun r => decide (r.src = 9 ∧ r.h = h)) = false) ∧
    (let x := { inst0 with word := 2 ^ 29 + 16 }
     let st : Step := { st0 with insts := [x], bind := { tab := [(0, 4096), (9, 4097)] } }
     let s : State := { landing (ringOf 9 0 7) (running st) with glb := { up.glb with nx := 2 } }
     let h := decRing ((ringOf 9 0 7).data.take 32)
     s.on = true ∧ s.step? 5 = some st ∧ s.keepsEpoch 5 3 = true ∧ st.inst? h.inst = some x ∧ h.digest = x.digest ∧ h.axis = 0 ∧
     ringPos (mkGrp x.word s.torus s.own st.bind.tab) s.glb.chip 9 x h = some 0) := by decide +kernel

theorem wit_CollectiveTimers :
    (∀ k ∈ [0, 255], let x := { inst0 with cinst := k, cd := parseColl (barrier 3) }
      let st : Step := { st0 with insts := [x] }
      let s := atEl 0xFFFFFFFF (running st)
      5 ≠ 0 ∧ (s.ctx 5).active = true ∧ s.on = true ∧ s.inst? 5 k = some x ∧ x.stage < 3 ∧ x.last + s.rd 0x64004 ≤ s.el ∧
      s.step? 5 = some st ∧ x.quiet + s.rd 0xC0018 ≤ s.el ∧ x.short = false ∧ x.disc = false ∧ { x with disc := true }.disc = true ∧
      (running st).el < x.last + (running st).rd 0x64004) ∧
    (let x := { inst0 with cd := parseColl (barrier 1), sent := [(0, [])] }
     let s := atEl 0xFFFFFFFF (running { st0 with insts := [x] })
     s.inst? 5 511 = some x ∧ x.short = true ∧ (∀ m ∈ x.sent, m.1 = s.glb.chip) ∧ x.sent ≠ []) := by decide +kernel

/-- The completion of put chunk 0 with a reference in its data. -/
def putDone (ctx ref : Nat) : Short := ⟨9, ctx, 3, encMsg ⟨6, 0, 0, 0, ref % 256, 0, 0, 0, true⟩ (le 2 ref)⟩

theorem wit_PutCompletion :
    (∀ d ∈ [0xFF, 0], ∀ n ∈ [9, 8], let ch : Chn := { c := { chainTo 1 n 64 with done := d }, st := 2, left := 64 }
      let st : Step := { st0 with chains := [ch] }
      let s := running st
      let s : State := { s with xch := { s.xch with shorts := [putDone 5 0] } }
      s.alive = true ∧ (s.takeShort 6).map Prod.fst = some (putDone 5 0) ∧ 5 ≠ 0 ∧ fld (putDone 5 0).bytes 16 2 = 0 ∧
      s.runs 5 3 = some st ∧ st.chains[0]? = some ch ∧ ch.st = 2 ∧ ch.c.op = 1 ∧ (ch.c.peer = (putDone 5 0).src ↔ n = 9) ∧ ch.c.done = d) ∧
    (∀ b ∈ [true, false], let s : State := { up with xch := { up.xch with shorts := [putDone 0 0xFFFF] }, rsl := { snap := { busy := b, out := 2 } } }
     s.alive = true ∧ (s.takeShort 6).map Prod.fst = some (putDone 0 0xFFFF) ∧ fld (putDone 0 0xFFFF).bytes 16 2 = 0xFFFF ∧
     s.rsl.snap.busy = b) ∧
    (let e : ChunkE := { ctx := 0, epoch := 3, kind := 4, cls := 1, left := [], steep := false, dst := 9, ref := refRouter, len := 64 }
     let s : State := { up with xch := { up.xch with shorts := [putDone 0 0], table := [(0, some e)] }, rsl := { rinf := { left := 65 } } }
     s.alive = true ∧ (s.takeShort 6).map Prod.fst = some (putDone 0 0) ∧ fld (putDone 0 0).bytes 16 2 ≠ 0xFFFF ∧
     s.putChunk (putDone 0 0) = some (0, e) ∧ e.ref = refRouter ∧ e.len < s.rsl.rinf.left) := by decide +kernel

/-- A packet with even word parity. -/
def parBits (p : Bytes) : List Bool := (List.range (ceilDiv p.length 4)).map (fun i => decide (parity 32 (fld p (4 * i) 4) = 1))

/-- One row of expert outputs for context 5, `n` bytes, from copies or shared. -/
def rows (ty n : Nat) (shared : Bool) : Bytes := mkPktH ⟨ty, 5, 3, n, 0, 0, 1⟩ (le 1 (b2n shared) ++ le 1 0 ++ le 1 1) ++ zeros n

theorem wit_ExpertPackets :
    (∀ ty ∈ [8, 9], ∀ sh ∈ [false, true], let p := rows ty 80 sh
      let s := up
      s.on = true ∧ s.ptUp 31 = true ∧ pktOk p (parBits p) = true ∧ (pktHeader p).ptype = ty ∧ bit (fld p 16 1) 0 = sh ∧
      s.widthOf (pktHeader p).ctx (pktHeader p).epoch = none ∧
      (pktHeader p).length = (pktHeader p).count * ((pktHeader p).length / max 1 (pktHeader p).count) ∧
      (s.ctx (pktHeader p).ctx).active = false ∧ pktOk p [] = false) ∧
    pktOk (rows 7 80 false) (parBits (rows 7 80 false)) = true ∧ hostType (pktHeader (rows 7 80 false)).ptype = false ∧
    (let st : Step := { st0 with bind := { dir := { d32 := 1 } } }
     let s := withCtx { enable := true, st := .running, tracked := [3], step := some st }
     let p := rows 8 80 false
     let q := rows 8 96 false
     pktOk p (parBits p) = true ∧ pktOk q (parBits q) = true ∧ s.widthOf 5 3 = some 32 ∧
     (pktHeader p).length = (pktHeader p).count * recordBytes (rowBytes 1 32) ∧
     (pktHeader q).length ≠ (pktHeader q).count * recordBytes (rowBytes 1 32) ∧ fld p 18 1 = 1 ∧
     (s.ctx 5).active = true ∧ (s.ctx 5).tracked.contains (pktHeader p).epoch = true) ∧
    (let s : State := { withCtx { enable := true, cancelled := [3] } with drain := [⟨5, 3, [(0, 1)], 0, 32⟩] }
     s.widthOf 5 3 = some 32 ∧ (s.ctx 5).active = true ∧ (s.ctx 5).tracked.contains 3 = false ∧ (s.ctx 5).cancelled.contains 3 = true) := by
  decide +kernel

/-- A packet of one row that answers a copy with tag `g`. -/
def rowsOf (g : Nat) : Bytes := mkPktH ⟨8, 5, 3, 80, 0, 0, 1⟩ (zeros 2 ++ le 1 1) ++ encCopyH ⟨g, 0, 0, 0, 0, false, false⟩ ++ zeros 64

theorem wit_ExpertPackets_tags :
    ∀ b ∈ [true, false], let p := rowsOf (mkTag 5 3 0 0 1 b)
      (itemsOf 1 80 (sub p 64 80)).head?.map (fun r => (decCopyH r).tag) = some (mkTag 5 3 0 0 1 b) ∧ tagSteeped (mkTag 5 3 0 0 1 b) = b ∧
      tagSrc (mkTag 5 3 0 0 1 b) = up.glb.chip ∧ tagSrc (mkTag 5 3 9 0 1 b) ≠ up.glb.chip ∧
      (itemsOf 1 80 (sub p 64 80)).filter (fun r => tagSteeped (decCopyH r).tag) = (if b then itemsOf 1 80 (sub p 64 80) else []) := by
  decide +kernel

/-- The tag of token 0's first choice in context 5's epoch, keyed. -/
def tag0 (src : Nat) : Nat := keyTag 0#64 (mkTag 5 3 src 0 1 false)

/-- A return of that copy. -/
def ret0 (n : Nat) : Bytes := encCopyH ⟨tag0 0, 0, 0, 0, 0, false, false⟩ ++ zeros n

/-- A step with one copy out. -/
def stRet (snt ret : Bool) (n : Nat) : Step :=
  { st0 with
    desc := { st0.desc with fmt := 0x111 }
    bind := { dir := { d32 := 1 } }
    rt := { alloc := true, outst := n, list := [{ e := ⟨9, 0, 0, 0, 0, 1, false, false⟩, snt := snt, ret := ret }] } }

theorem wit_ReturnsAreSorted :
    (let l := landedOf 2 0 3 (ret0 64)
     let s := landing l up
     s.on = true ∧ ltake (fun l : Landed => decide (l.ch.ckind = 2)) s.xch.inbox = some (l, [])) ∧
    (let g := (decCopyH (ret0 64)).tag
     let s := withCtx { enable := true, st := .running, epoch := 4, cancelled := [3] }
     tagSteeped g = false ∧ tagCtx g = 5 ∧ tagEpoch g = 3 ∧ (up.ctx 5).active = false ∧ (s.ctx 5).active = true ∧ tagSrc g = s.glb.chip ∧
     tagCheck (s.ctx 5).key g = g % 256 ∧ (s.ctx 5).cancelled.contains 3 = true ∧
     tagSteeped (decCopyH (encCopyH ⟨mkTag 5 3 0 0 1 true, 0, 0, 0, 0, false, false⟩)).tag = true) ∧
    (let s := withCtx { enable := true, st := .running, epoch := 4 }
     (s.ctx 5).cancelled.contains 3 = false ∧ (s.ctx 5).tracked.contains 3 = false ∧ (s.ctx 5).active = true) := by decide +kernel

theorem wit_ReturnsAreSorted_tracked :
    ∀ p ∈ [(false, false), (true, false), (true, true)], let st := stRet p.1 p.2 2
      let s := running st
      s.runs 5 3 = some st ∧ (s.ctx 5).tracked.contains 3 = true ∧ (s.ctx 5).cancelled.contains 3 = false ∧ false = decide (st.desc.kind = 3) ∧
      1 = st.desc.payFmt ∧ (ret0 64).length = st.recBytes ∧ (ret0 80).length ≠ st.recBytes ∧ st.rt.outst ≠ 1 ∧
      (st.rt.list.find? (fun x => decide (x.e.t = tagTok (tag0 0) ∧ x.e.rank = tagRank (tag0 0)) && x.snt)).map SendSt.ret =
        bif p.1 then some p.2 else none := by decide +kernel

/-- A cue done for context 5's shared-expert cue. -/
def cueDoneOf (status : Nat) : Bytes := mkPktH ⟨12, 5, 3, 0, 0, 0, 0⟩ (le 4 0xFFFFFFFF ++ le 1 status)

/-- A step with its cue sent. -/
def stCue (resends : Nat) : Step := { st0 with por := { cue := { id := 0xFFFFFFFF, sent := true, resends := resends } } }

theorem wit_CueCompletes :
    (∀ b ∈ [0, 1], let p := cueDoneOf b
      let s := running (stCue 0)
      s.on = true ∧ s.ptUp 31 = true ∧ wordOk p (parBits p) = true ∧ (pktHeader p).ptype = 12 ∧ (pktHeader p).ctx = 5 ∧
      (s.ctx 5).active = true ∧ s.runs 5 (pktHeader p).epoch = some (stCue 0) ∧ fld p 16 4 = 0xFFFFFFFF ∧ (stCue 0).por.cue.sent = true ∧
      (stCue 0).por.cue.done = false ∧ (stCue 0).cancelled = false ∧ fld p 20 1 = b ∧
      (stCue 0).desc.n * (stCue 0).samp.nSh ≤ (stCue 0).por.shIn) ∧
    (∀ d ∈ [true, false], ∀ n ∈ [1, 2], let st : Step := { stCue n with por := { cue := { (stCue n).por.cue with disc := d } }, samp := { nSh := 1 } }
      st.por.shIn < st.desc.n * st.samp.nSh ∧ st.por.cue.disc = d ∧ st.por.cue.resends = n ∧ st.por.cue.sent = true ∧
      (running st).runs 5 3 = some st ∧ (running st).ptUp st.por.cue.point = true ∧ ((running st).pt st.por.cue.point).down = false) ∧
    (∀ n ∈ [0, 1, 2], let s := atEl 0xFFFFFFFF (running (stCue n))
      s.on = true ∧ s.step? 5 = some (stCue n) ∧ max (stCue n).por.cue.at_ (stCue n).por.shAt + s.rd 0xC0014 ≤ s.el ∧
      (stCue n).por.cue.resends = n ∧ s.ptUp (stCue n).por.cue.point = true ∧ (s.pt (stCue n).por.cue.point).down = false ∧
      (running (stCue n)).el < max (stCue n).por.cue.at_ (stCue n).por.shAt + (running (stCue n)).rd 0xC0014) := by decide +kernel

theorem wit_CueCompletes_chain :
    (∀ b ∈ [0, 1], ∀ x ∈ [true, false], let p := mkPktH ⟨12, 5, 3, 0, 0, 0, 0⟩ (le 4 0 ++ le 1 b)
      let ch : Chn := { c := chainTo 5 9 0, st := 2 }
      let st : Step := { st0 with chains := [ch], cancelled := x }
      wordOk p (parBits p) = true ∧ (pktHeader p).ptype = 12 ∧ (running st).runs 5 (pktHeader p).epoch = some st ∧ fld p 16 4 = 0 ∧
      st.chains[0]? = some ch ∧ ch.c.op = 5 ∧ fld p 20 1 = b ∧ st.cancelled = x) ∧
    (∀ ty ∈ [11, 12], let p := mkPktH ⟨ty, 5, 3, 0, 0, 0, 0⟩ (zeros 5)
      wordOk p (parBits p) = true ∧ wordOk p [] = false ∧ hostType (pktHeader p).ptype = decide (ty = 12) ∧ (up.ctx (pktHeader p).ctx).active = false) := by
  decide +kernel

theorem wit_CancelDone :
    let w : CancelWait := ⟨6, 5, 1, 0⟩
    let s := withCtx { enable := true, st := .stopped, tdown := true }
    let s : State := atEl 0xFFFFFFFF { s with core := { s.core with cancels := [w] } }
    let p := mkPktH ⟨13, 5, 3, 0, 0, 0, 0⟩ (le 4 6)
    s.core.cancels.find? (fun v => decide (v.id = w.id)) = some w ∧ s.alive = true ∧ s.ptUp 0 = true ∧ wordOk p (parBits p) = true ∧
    (pktHeader p).ptype = 13 ∧ fld p 16 4 = w.id ∧ s.on = true ∧ w.at_ + s.rd 0xA000C ≤ s.el ∧ w.fin = 1 ∧ (s.ctx w.ctx).tdown = true ∧
    (∀ v ∈ s.core.cancels, v.ctx = w.ctx → v.fin = 1 → v.id = w.id) ∧ s.writesOut w.ctx = false ∧ w.ctx ≠ 0 ∧
    wordOk p [] = false ∧ up.core.cancels.find? (fun w => decide (w.id = fld p 16 4)) = none ∧
    hostType (pktHeader (mkPktH ⟨15, 5, 3, 0, 0, 0, 0⟩ [])).ptype = false := by decide +kernel

/-- A step that may send its copies to `chip`. -/
def stSend (chip : Nat) : Step :=
  { stTile with
    rt := { alloc := true, list := [{ e := ⟨chip, 0, 0, 0, 0, 1, false, false⟩ }] }
    dst := { known := true } }

/-- Chip 9 is the neighbour that port 0 connects. -/
def reach9 (s : State) : State :=
  { s with
    glb := { s.glb with nx := 2 }
    memb := { s.memb with live := [(0, 4096), (9, 4097)] }
    links := (connected portUp).links }

/-- Every formation waits behind one of context 6. -/
def behind (s : State) : State := { s with xch := { s.xch with waitq := [⟨0, 6, 1⟩], retq := s.xch.retq ++ [⟨9, 6, 3, 1, zeros 16, 0, false⟩] } }

theorem wit_ChunksAreFormed :
    (let r : RetRec := ⟨9, 5, 3, 1, zeros 16, 0, false⟩
     let s := running st0
     let s : State := { s with xch := { s.xch with retq := [r] } }
     s.on = true ∧ (s.ctx 5).active = true ∧ s.paceOk (s.allocPitch 5) = true ∧ s.xch.retq.find? (fun r => decide (r.ctx = 5)) = some r ∧
     s.mayForm ⟨0, 5, 1⟩ = true ∧ 32 + r.bytes.length ≤ chunkMax) ∧
    (let p : OutPiece := ⟨0, 3, 9, false, 4, 2, 1, 0, 0, zeros 64, 0⟩
     let s : State := { up with xch := { up.xch with xfers := [p] } }
     s.on = true ∧ s.xch.retq.find? (fun r => decide (r.ctx = 0)) = none ∧
     ltake (fun p : OutPiece => decide (p.ctx = 0) && s.mayForm p.wait) s.xch.xfers = some (p, [])) ∧
    (let s := running st0
     s.xch.retq = [] ∧ s.xch.xfers = [] ∧ s.step? 5 = some st0 ∧ st0.insts = [] ∧ st0.maySend = false) ∧
    (let s := running (stSend 0)
     s.step? 5 = some (stSend 0) ∧ (stSend 0).insts = [] ∧ (stSend 0).maySend = true ∧ s.localCopies (stSend 0) ≠ []) := by decide +kernel

theorem wit_ChunksAreFormed_dispatch :
    let s := reach9 (running (stSend 9))
    let st := stSend 9
    s.step? 5 = some st ∧ st.insts = [] ∧ st.maySend = true ∧ s.localWait st = [] ∧ s.nextCopy st = (st.rt.list.map (fun e => (e, 0))).head? ∧
    (s.nextCopy st).isSome = true ∧ s.noWay (s.tabFor st.bind.mver) 9 = false ∧ st.listAt 0 = true ∧ s.nextChunk st ≠ [] ∧
    s.mayForm ⟨2, 5, 1⟩ = true ∧ s.turnOf = some 5 := by decide +kernel

theorem wit_ChunksAreFormed_waits :
    (let s := behind (reach9 (running (stSend 9)))
     s.xch.retq.find? (fun r => decide (r.ctx = 5)) = none ∧ s.nextChunk (stSend 9) ≠ [] ∧ s.mayForm ⟨2, 5, 1⟩ = false) ∧
    (let s := reach9 ((running (stSend 9)).modCtx 4 (fun _ => { (running (stSend 9)).ctx 5 with st := .running }))
     s.mayForm ⟨2, 5, 1⟩ = true ∧ s.turnOf = some 4) := by decide +kernel

/-- A step that steeps; `sp` are predicted copies that wait, for the token steeped. -/
def stSteep (sp : List (Nat × Nat × Nat × Nat)) : Step :=
  { stTile with
    desc := { stTile.desc with flags := 1, cap := 0x10000 }
    bind := { stTile.bind with table := { (default : LTable) with nExp := 1, nSlot := 1, slots := [{ (default : ESlot) with chip := 9 }] } }
    samp := { spc := 1 }
    ext := { spend := sp, steeped := if sp = [] then [] else [0] } }

theorem wit_SteepedCopySend :
    (let st := stSteep []
     let s := (running st).wr (pageAt 5 0x88) 1
     s.step? 5 = some st ∧ s.steepable 5 st = [0] ∧ s.on = true ∧ (s.ctx 5).active = true ∧ s.steepOn 5 st = true ∧ s.copyWaits = false ∧
     s.mayForm ⟨9, 5, 1⟩ = true ∧ s.paceOk (s.allocPitch 5) = true ∧ hv0.fault = 0 ∧ st.ext.spend = [] ∧
     (s.steepFill 5 hv0 (s.steepable 5 st) st).ext.spend = [] ∧ s.steepOn 5 st0 = false ∧ (behind s).mayForm ⟨9, 5, 1⟩ = false ∧
     (running (stSend 9)).copyWaits = true) ∧
    (let st := stSteep [(0, 0, 0, 0)]
     let s := (running st).wr (pageAt 5 0x88) 1
     s.steepOn 5 st = true ∧ s.copyWaits = false ∧ s.mayForm ⟨9, 5, 1⟩ = true ∧
     (s.steepFill 5 hv0 (s.steepable 5 st) st).ext.spend = [(0, 0, 0, 0)] ∧ st.steepChip (0, 0, 0, 0) = 9 ∧
     s.noWay (s.tabFor st.bind.mver) 9 = true ∧ (reach9 s).noWay ((reach9 s).tabFor st.bind.mver) 9 = false) := by decide +kernel

/-- A confirmed copy's record of context 5. -/
def copy0 (steep : Bool) : Bytes := encCopyH ⟨mkTag 5 3 9 0 1 steep, 0, 0, 0, 0, false, false⟩ ++ zeros 64

theorem wit_CopiesLand :
    (let l := { landedOf 1 0 2 (copy0 false) with ch := { (default : ChunkH) with ckind := 1, nrec := 1, bytes := 80, fmt := 1 } }
     let recs := (itemsOf l.ch.nrec (recordBytes' l.ch) l.data).map (fun b => landRecOf b l.ch.back l.ch.fmt 0 l.pitch)
     let s := landing l (running st0)
     s.on = true ∧ ltake (fun l : Landed => decide (l.ch.ckind = 1)) s.xch.inbox = some (l, []) ∧ (s.ctx 5).active = true ∧ s.el = 0 ∧
     (∀ x ∈ recs, tagSteeped x.tag = false) ∧ recs.filter (fun r => !(tagSteeped r.tag)) ≠ [] ∧ s.runs 5 3 = some st0 ∧
     st0.cancelled = false ∧ s.runs 5 9 = none ∧ (up.ctx 5).active = false ∧ up.step? 5 = none ∧ (landing l up).on = true) ∧
    (let l := { landedOf 1 0 2 (copy0 true) with ch := { (default : ChunkH) with ckind := 1, nrec := 1, bytes := 80, fmt := 1 } }
     let recs := (itemsOf l.ch.nrec (recordBytes' l.ch) l.data).map (fun b => landRecOf b l.ch.back l.ch.fmt 0 l.pitch)
     recs.length = 1 ∧ recs.filter (fun r => !(tagSteeped r.tag)) = []) ∧
    (let r := landRecOf (copy0 false) false 1 0 0
     let st : Step := { st0 with dst := { seen := [(r.slot, r.row)] } }
     (running st).step? 5 = some st ∧ st.dst.seen.contains (r.slot, r.row) = true ∧
     st0.dst.seen.contains (r.slot, r.row) = false ∧ (running st0).hold = []) ∧
    up.on = true := by decide +kernel

theorem wit_CopiesLand_hold :
    let r := landRecOf (copy0 true) false 1 0 0
    (∀ n ∈ [0, 1], let s := (running st0).wr 0x70004 n
      let used := ((s.hold.filter (fun h => decide (h.rec_.pitch = r.pitch))).map HoldE.size).foldl (· + ·) 0
      s.runs 5 3 = some st0 ∧ st0.cancelled = false ∧ (used + 2 * r.bytes.length ≤ s.rd 0x70004 * 65536 ↔ n = 1) ∧
      st0.dst.served.contains (tagSrc r.tag, tagTok r.tag, r.slot) = false ∧ tagEpoch r.tag = 3 ∧ s.runs 5 9 = none) ∧
    [(tagSrc r.tag, tagTok r.tag, r.slot)].contains (tagSrc r.tag, tagTok r.tag, r.slot) = true := by decide +kernel

theorem wit_PullsReplaysAndStalls :
    (∀ own ∈ [9, 8], let l := landedOf 3 64 3 (zeros 64)
     let w : W2tE := { model := 0, layer := 0, owner := own, loc := 0, wver := 0, off := 64, len := 64 }
     let s := landing l (withCtx { enable := true, st := .running, w2t := [w], step := some st0 })
     let off := l.ch.addr - s.w2tBase 5
     s.on = true ∧ ltake (fun l : Landed => decide (l.ch.ckind = 3)) s.xch.inbox = some (l, []) ∧ (s.ctx 5).active = true ∧
     (s.runs 5 3).isSome = true ∧
     (s.ctx 5).w2t.any (fun w => decide (w.got < w.len ∧ w.owner = l.src ∧ w.wver = l.ch.wver ∧ s.w2tBase 5 ≤ l.ch.addr ∧ w.off ≤ off ∧
      off + l.data.length ≤ w.off + w.len)) = decide (own = 9)) ∧
    (let st := stRet true false 1
     let s := running st
     s.step? 5 = some st ∧ s.on = true ∧ (s.ctx 5).active = true ∧ st.cancelled = false ∧ st.ended = false ∧ st.rt.outst ≠ 0 ∧
     (∀ e ∈ st.rt.list, e.snt = true) ∧ st.cnt.quiet + (atEl 0xFFFFFFFF s).rd 0xC0014 ≤ (atEl 0xFFFFFFFF s).el ∧
     s.el < st.cnt.quiet + s.rd 0xC0014) ∧
    (let s := atEl 0xFFFFFFFF (running st0)
     let t : State := { s with drain := [⟨5, 255, [(0, 1)], 0, 0⟩] }
     5 ≠ 0 ∧ t.on = true ∧ (t.ctx 5).active = true ∧ (∃ d ∈ t.drain, d.ctx = 5 ∧ d.epoch = 255 ∧ d.at_ + t.rd 0x4000C ≤ t.el) ∧
     s.on = true ∧ s.step? 5 = some st0 ∧ st0.launched = true ∧ st0.ended = false ∧ s.stepStalled st0 = true ∧ s.memSilent 5 = none ∧
     s.collSilent st0 = none ∧ s.chainStalled 5 = false ∧ s.drainOver 5 = none) := by decide +kernel

/-- A step whose token exits, or has exited before. -/
def stPour (kind : Nat) (out : TokOut) (mask : Bytes) (grad : Nat) : Step :=
  { stTile with
    desc := { stTile.desc with kind := kind, gradAddr := grad }
    sc := { stTile.sc with mask0 := mask, st := [(0, { ph := 4, tr := { tokR0 with out := out } })] } }

theorem wit_PourCombine :
    (∀ st ∈ [stPour 1 .exits [] 0, stPour 1 .nonfinite [] 0, stPour 1 .exits [1#8] 0, stPour 1 .pending [] 0, stPour 3 .exits [] 0x4000],
      let s := running st
      s.step? 5 = some st ∧ s.on = true ∧ (s.ctx 5).active = true ∧ st.launched = true ∧ st.cancelled = false ∧ st.ended = false ∧
      st.desc.tokens = true ∧ st.pourTurn 0 = true ∧ hv0.fault = 0 ∧ (st.row 0).isSome = true ∧ s.paceOk (s.pourPitch 5 0) = true ∧
      st.spilledOf 0 = []) ∧
    (∀ o ∈ [TokOut.exits, .nonfinite], (stPour 1 o [] 0).writesGrads = false ∧
      ((stPour 1 o [] 0).pourRow 0).map Option.isSome = some true) ∧
    (stPour 1 .exits [1#8] 0).pourRow 0 = some none ∧ (stPour 1 .pending [] 0).pourRow 0 = none ∧
    (stPour 3 .exits [] 0x4000).writesGrads = true ∧ ((stPour 3 .exits [] 0x4000).pourRow 0).isSome = true ∧
    ({ hv0 with fault := 0x0F } : HostView).fault ≠ 0 := by decide +kernel

/-- A token that takes its one expert, whose return has landed in a slot that has spilled. -/
def stSpill : Step :=
  { stTile with
    rt := { alloc := true, list := [{ e := ⟨9, 0, 0, 0, 0, 1, false, false⟩, snt := true, ret := true }] }
    por := { rows := [(0, zeros 64)], spilled := [0] }
    sc := { stTile.sc with st := [(0, { ph := 4, tr := { tokR0 with out := .takes } })] } }

theorem wit_PourCombine_spilled :
    let st := stSpill
    st.pourTurn 0 = true ∧ st.desc.tokens = true ∧ st.writesGrads = false ∧ (st.pourRow 0).isSome = true ∧ st.spilledOf 0 ≠ [] := by
  decide +kernel

end Sys2Proof.Tests
end

section
/-! The shape invariant (R15, R20, R60, R515) command by command: every command answers a state of the shape when it
runs on one, and so does every step. -/

namespace Sys2Proof.Machine

/-- A step outcome whose next state, when there is one, has the block's shape. -/
def OutcomeOk : Host.Outcome State Fault Refusal → Prop
  | .next t => t.Ok
  | .fault _ => True
  | .refused _ => True

@[simp] theorem outcomeOk_next (t : State) : OutcomeOk (.next t) ↔ t.Ok := Iff.rfl

/-- Taking a command from the queue leaves the shape. -/
theorem ok_pending {s : State} (r : List Instr) (ok : s.Ok) : ({ s with pending := r } : State).Ok :=
  ⟨ok.regs, ok.ctxs, ok.pitches, ok.chs, ok.pts, ok.ports⟩

/-- Every command keeps the shape: case by case as `exec` dispatches, each by the lemma of its meaning. -/
theorem exec_ok (i : Instr) (s : State) (ok : s.Ok) : OutcomeOk (exec i s) :=
  match i with
  | .controlWrite addr data apar wpar => controlWriteOp_ok addr data apar wpar s ok
  | .w1cWrite addr data hwSet => w1cWriteOp_ok addr data hwSet s ok
  | .rcRead addr => rcReadOp_ok addr s ok
  | .lowWordLatchRead addr => latchReadOp_ok addr s ok
  | .lanternRead bad => lanternReadOp_ok bad s ok
  | .lanternFlush => lanternFlushOp_ok s ok
  | .contextEnable ctx => contextEnableOp_ok ctx s ok
  | .contextDisable ctx => contextDisableOp_ok ctx s ok
  | .contextCancel ctx => contextCancelOp_ok ctx s ok
  | .tentWrite tent data => tentWriteOp_ok tent data s ok
  | .modelSet model => modelSetOp_ok model s ok
  | .modelClr model => modelClrOp_ok model s ok
  | .rotaArm => rotaArmOp_ok s ok
  | .rotaGoLive => rotaGoLiveOp_ok s ok
  | .pinTick slot word => pinTickOp_ok slot word s ok
  | .memberArm hv => memberArmOp_ok hv s ok
  | .memberGoLive => memberGoLiveOp_ok s ok
  | .tableSetArm hv => tableSetArmOp_ok hv s ok
  | .tableSetGoLive => tableGoLiveOp_ok s ok
  | .routerSwitchArm hv => routerArmOp_ok hv s ok
  | .routerSwitchAt => routerSwitchOp_ok s ok
  | .weightSwitchArm hv => weightArmOp_ok hv s ok
  | .weightSwitchAt => weightSwitchOp_ok s ok
  | .routerCopyGo hv => routerGoOp_ok hv s ok
  | .expertCopyGo hv => expertGoOp_ok hv s ok
  | .infusionStall router => infStallOp_ok router s ok
  | .snapshotGo go => snapshotGoOp_ok go.advice go.data go.hv s ok
  | .snapshotStall => snapStallOp_ok s ok
  | .restoreGo hv => restoreGoOp_ok hv s ok
  | .lostDeclWrite data => lostDeclOp_ok data s ok
  | .restartWrite => restartOp_ok s ok
  | .shutGo => shutGoOp_ok s ok
  | .shutPitchTested passed remaps => shutTestedOp_ok passed remaps s ok
  | .healthRecordWritten good => healthOp_ok good s ok
  | .plockWrite on => plockOp_ok on s ok
  | .recordCtlWrite data => recordCtlOp_ok data s ok
  | .fenceTpWrite addr data => fenceTpOp_ok addr data s ok
  | .proposalClear => proposalClearOp_ok s ok
  | .proposalSubmit => proposalSubmitOp_ok s ok
  | .rangerVerdict word => verdictOp_ok word s ok
  | .countersignExpire => signExpireOp_ok s ok
  | .scanEn => scanEnOp_ok s ok
  | .tickStrobe gap interval upset flip => tickStrobeOp_ok gap interval upset flip s ok
  | .tickLoad val par => tickLoadOp_ok val par s ok
  | .tickLoadApply => tickApplyOp_ok s ok
  | .tickLoss ring => tickLossOp_ok ring s ok
  | .paceWindowEnd pitch count => paceWindowOp_ok pitch count s ok
  | .governorWindow pitch cap => governorOp_ok pitch cap s ok
  | .paceLockSlip pitch => slipOp_ok pitch s ok
  | .droopRise pitch => droopRiseOp_ok pitch s ok
  | .droopFall pitch => droopFallOp_ok pitch s ok
  | .powerGoodFall pitch => goodFallOp_ok pitch s ok
  | .junctionHot pitch reading => junctionOp_ok pitch reading s ok
  | .startBegin input => startBeginOp_ok input s ok
  | .selfTestRoundDone failed => selfTestOp_ok failed s ok
  | .startComplete duration => startCompleteOp_ok duration s ok
  | .startFail => startFailOp_ok s ok
  | .startRetry input => startRetryOp_ok input s ok
  | .memRequestIssue ch => memIssueOp_ok ch s ok
  | .memReadBeat ch tag beat last sts data par hpar => memBeatOp_ok ch tag beat last sts data par hpar s ok
  | .memWriteResponse ch tag sts hpar => memWriteRespOp_ok ch tag sts hpar s ok
  | .memAnswerTimeout ch tag => memTimeoutOp_ok ch tag s ok
  | .portStuckTimeout cls at_ => stuckOp_ok cls at_.index at_.left s ok
  | .isolationRelease cls index => isoReleaseOp_ok cls index s ok
  | .memDownRise ch => memDownRiseOp_ok ch s ok
  | .memDownFall ch => memDownFallOp_ok ch s ok
  | .coreDownRise point => coreDownRiseOp_ok point s ok
  | .coreDownFall point => coreDownFallOp_ok point s ok
  | .expertOutputs point packet par => State.answers_ok s 8 point packet par ok
  | .expertInputGradients point packet par => State.answers_ok s 9 point packet par ok
  | .cueDone point word par => cueDoneOp_ok point word par s ok
  | .cancelDone point word par => cancelDoneOp_ok point word par s ok
  | .cancelDoneTimeout id => cancelTimeoutOp_ok id s ok
  | .linkFlitAccept port flit => linkFlitOp_ok port flit.bytes flit.par flit.err s ok
  | .controlFlit port flit => controlFlitOp_ok port flit.bytes flit.par flit.err s ok
  | .helloFlit port flit => helloFlitOp_ok port flit.bytes flit.par flit.err s ok
  | .lossNotice => ok_ite (lossNoticeOp_ok s ok) ok
  | .linkTransmitSlot port => transmitOp_ok port s ok
  | .ackTimeout port => ackTimeoutOp_ok port s ok
  | .phyUpRise port => phyUpOp_ok port s ok
  | .helloTimer port => helloTimerOp_ok port s ok
  | .phyDownTimeout low => phyDownOp_ok low.port low.ticks s ok
  | .retryBoundExpire port => retryBoundOp_ok port s ok
  | .spareTimeout port => spareTimeoutOp_ok port s ok
  | .memberDisagreeTimeout port => disagreeOp_ok port s ok
  | .guyAck boundary up line reject => guyAckOp_ok boundary up line reject s ok
  | .guyLineTestDone boundary up line failing => guyTestOp_ok boundary up line failing s ok
  | .shareVisit ctx => shareVisitOp_ok ctx s ok
  | .descriptorFetched ctx hv => ok_ite (descFetchedOp_ok ctx hv s ok) ok
  | .stepAccept ctx hv => ok_ite (stepAcceptOp_ok ctx hv s ok) ok
  | .frameSwitchDone tent => ok_ite (frameSwitchOp_ok tent s ok) ok
  | .stepLaunch ctx hv => stepLaunchOp_ok ctx hv s ok
  | .chainPut ctx index hv => chainPutOp_ok ctx index hv s ok
  | .chainGet ctx index => chainGetOp_ok ctx index s ok
  | .chainCollective ctx index hv => chainCollOp_ok ctx index hv s ok
  | .chainCounterAdd ctx index => chainAddOp_ok ctx index s ok
  | .chainCue ctx index hv => chainCueOp_ok ctx index hv s ok
  | .chainStallTimeout ctx => chainStallOp_ok ctx s ok
  | .stepDone ctx hv => stepDoneOp_ok ctx hv s ok
  | .queryWriteResponse ctx => ok_ite (queryWritten_ok ctx s ok) ok
  | .askDeadline ctx => ok_ite (askDeadlineOp_ok ctx s ok) ok
  | .answerRead ctx => ok_ite (answerReadOp_ok ctx s ok) ok
  | .askRetryTimer ctx => ok_ite (askRetryOp_ok ctx s ok) ok
  | .askRereadTick ctx => ok_ite (askRereadOp_ok ctx s ok) ok
  | .askGraceExpire ctx => ok_ite (askGraceOp_ok ctx s ok) ok
  | .imageLoadDone ctx pitch => ok_ite (imageLoadDoneOp_ok ctx pitch s ok) ok
  | .tileStart core => tileStartOp_ok core s ok
  | .tileComplete core hv => tileCompleteOp_ok core hv s ok
  | .tileCheckFail core lane spared => tileCheckFailOp_ok core lane spared s ok
  | .storageParityFail kind pitch index sub => parityFailOp_ok kind pitch index sub s ok
  | .phasePartial fails => instMsgOp_ok 1 fails s ok
  | .countsToOwner => instSumOp_ok 2 s ok
  | .countsFromOwner => instMsgOp_ok 3 0 s ok
  | .strainerAllocate ctx => allocateOp_ok ctx s ok
  | .routeCounts => instSumOp_ok 4 s ok
  | .collectiveAbort => instMsgOp_ok 5 0 s ok
  | .putCompletion => putCompletionOp_ok s ok
  | .counterAdd => counterAddOp_ok s ok
  | .collectiveTimeout ctx inst => collTimeoutOp_ok ctx inst s ok
  | .chunkForm ctx _ => chunkFormOp_ok ctx s ok
  | .steepedCopySend ctx hv => steepSendOp_ok ctx hv s ok
  | .copyChunkLanded => copyChunkOp_ok s ok
  | .batchWaitExpire ctx slot => ok_ite (batchWaitOp_ok ctx slot s ok) ok
  | .steepHoldTimeout => holdTimeoutOp_ok s ok
  | .returnChunkLanded => returnChunkOp_ok s ok
  | .weightDataChunk => weightDataOp_ok s ok
  | .putDataChunk => putDataOp_ok s ok
  | .requestChunk hv => requestOp_ok hv s ok
  | .getDataChunk => getDataOp_ok s ok
  | .ringDataChunk fails => ringChunkOp_ok fails s ok
  | .backgroundCopyChunk => backCopyOp_ok s ok
  | .replayQuietExpire ctx => replayOp_ok ctx s ok
  | .shortQuietExpire ctx inst => shortQuietOp_ok ctx inst s ok
  | .returnDrainTimeout ctx epoch => drainTimeoutOp_ok ctx epoch s ok
  | .pourCombine ctx token hv => pourCombineOp_ok ctx token hv s ok
  | .stepStallTimeout ctx => stepStallOp_ok ctx s ok
  | .adviseWindowEnd => adviseEndOp_ok s ok
  | .guyLineWordReceived boundary up line sent got => guyWordOp_ok boundary up line sent got s ok
  | .pitchResetAsserted pitch => pitchResetOp_ok pitch s ok
  | .cueQuietExpire ctx => cueQuietOp_ok ctx s ok
  | .ctlErrRead addr apar => ctlErrReadOp_ok addr apar s ok

/-- A step keeps the shape: an idle block stays as it was, and a command runs on the state with the queue's rest. -/
theorem step_ok (s : State) (ok : s.Ok) : OutcomeOk (step s) := by
  unfold step
  split
  case h_1 => exact ok
  case h_2 c r _ => exact exec_ok c _ (ok_pending r ok)

/-- Settles O3: by cases on the command at the front of the queue. -/
theorem stepKeepsShape : Obligations.StepKeepsShape := by
  unfold Obligations.StepKeepsShape
  intro s t ok h
  have kept := step_ok s ok
  rwa [h, outcomeOk_next] at kept

end Sys2Proof.Machine
end

section
/-! CONTROL_WRITE (R14, R15, R60, R61, R414, R516, R522): one equation per outcome of the command and of the register write
behind it, and what a store of the writable bits changes. -/

namespace Sys2Proof.Machine

namespace State

variable (s : State)

@[simp] theorem fresh_rd (a x : Nat) : (s.fresh a).rd x = s.rd x := by
  unfold fresh
  split <;> rfl

theorem fresh_eq (a : Nat) : s.fresh a = { s with ctl := (s.fresh a).ctl } := by
  unfold fresh
  split <;> rfl

/-- A store touches the register file and the values remembered for this tick (R498) only. -/
theorem store_eq (a m v : Nat) : s.store a m v = { s with regs := (s.store a m v).regs, ctl := (s.store a m v).ctl } := by
  unfold store
  rw [fresh_eq]
  rfl

theorem store_keeps (a m v : Nat) : s.KeepsRegs (s.store a m v) [a] := by
  intro x hx
  unfold store
  rw [rd_wr_ne _ _ (by simpa using hx), fresh_rd]

/-- The bits of the mask take the data, the others keep their values (R15). -/
theorem rd_store_self (a m v : Nat) (hm : m < 2 ^ 32) :
    (s.store a m v).rd a = (s.rd a &&& (ones ^^^ m)) ||| (v &&& m) := by
  have kept : s.rd a &&& (ones ^^^ m) < 2 ^ 32 := Nat.and_lt_two_pow _ (Nat.xor_lt_two_pow (by decide) hm)
  have written : v &&& m < 2 ^ 32 := Nat.and_lt_two_pow _ hm
  unfold store
  rw [rd_wr_self, Nat.mod_eq_of_lt (Nat.or_lt_two_pow kept written)]

theorem ignored_keeps (a : Nat) : s.KeepsRegs (s.ignored a) lntRegs := fun _ h => rd_ignored_ne s a h

theorem event_refuse_keeps (k c a b : Nat) : s.KeepsRegs (s.event k c a b).refuse lntRegs :=
  fun _ h => rd_event_ne s k c a b h

theorem event_refuse_still (k c a b : Nat) :
    (s.event k c a b).refuse.still = ({ s with ctl := (s.event k c a b).refuse.ctl } : State).still := by
  rw [refuse_still, event_still]
  rfl

end State

/-- The registers that a record of a write can change hold no RW bit. -/
theorem regRow_rw_notLogged {a : Nat} {r : RegRow} (h : regRow a = some r) (rw0 : r.rw ≠ 0) : a ∉ 0xF000C :: lntRegs := by
  have noRw : ∀ x ∈ 0xF000C :: lntRegs, ∀ q ∈ regRow x, q.rw = 0 := by decide +kernel
  exact fun ha => rw0 (noRw a ha r h)

/-- A register whose write is neither that of a context's CTL word nor one into the page of context 0 (R375, R527). -/
def PlainAt (a : Nat) : Prop := a < pageBase ∨ pageBase + 0x1000 ≤ a ∧ a % 0x1000 ≠ 0

section WriteReg

variable {s : State} {a : Nat} {r : RegRow} (v : Nat) (plain : PlainAt a) (row : regRow a = some r)
  (shown : s.pitchHidden a = false)
include plain row shown

theorem writeReg_plain : s.writeReg a v =
    if r.rw ≠ 0 then
      if s.guarded a then s.ignored a else if !(regInRange a (v &&& r.rw)) then s.ignored a else s.store a r.rw v
    else if r.lk ≠ 0 then
      if s.start.lock then s.ignored a else if !(regInRange a (v &&& r.lk)) then s.ignored a else s.store a r.lk v
    else s := by
  have notPage0 : ¬ (pageBase ≤ a ∧ a < pageBase + 0x1000) := by unfold PlainAt at plain; omega
  have notCtl : ¬ (pageBase ≤ a ∧ a % 0x1000 = 0) := by unfold PlainAt at plain; omega
  unfold State.writeReg
  simp only [notPage0, notCtl, row, shown, if_false, Bool.false_eq_true]

theorem writeReg_stores (rw0 : r.rw ≠ 0) (unguarded : s.guarded a = false) (range : regInRange a (v &&& r.rw) = true) :
    s.writeReg a v = s.store a r.rw v := by
  rw [writeReg_plain v plain row shown, if_pos rw0, unguarded, range]
  rfl

theorem writeReg_ignored
    (no : r.rw ≠ 0 ∧ (s.guarded a = true ∨ regInRange a (v &&& r.rw) = false) ∨
      r.rw = 0 ∧ r.lk ≠ 0 ∧ s.start.lock = true) :
    s.writeReg a v = s.ignored a := by
  rw [writeReg_plain v plain row shown]
  rcases no with ⟨rw0, guard | range⟩ | ⟨rw0, lk0, locked⟩
  · rw [if_pos rw0, if_pos guard]
  · rw [if_pos rw0, range]
    exact ite_self _
  · rw [if_neg (not_not.mpr rw0), if_pos lk0, if_pos locked]

end WriteReg

section ControlWrite

variable {s : State} {addr : BitVec 23} {data : W32} {apar : Bool} {wpar : BitVec 4} (alive : s.alive = true)
include alive

theorem controlWriteOp_badParity (bad : parity 23 addr.toNat ≠ 1 - b2n apar ∨ bytePar data.toNat ≠ wpar) :
    controlWriteOp addr data apar wpar s = (s.event 0x01 0 (4 * addr.toNat) 1).refuse := by
  simp [controlWriteOp, alive, bad]

variable (good : parity 23 addr.toNat = 1 - b2n apar) (goodData : bytePar data.toNat = wpar)
include good goodData

theorem controlWriteOp_closed (closed : s.ctlOpen (4 * addr.toNat) = false) :
    controlWriteOp addr data apar wpar s = s.refuse := by
  simp [controlWriteOp, alive, good, goodData, closed]

/-- A write that no other command owns is performed, recorded and acknowledged. That both triggers of
FNC_PROP_CTL at once are ignored concerns an owned write. -/
theorem controlWriteOp_open (opened : s.ctlOpen (4 * addr.toNat) = true)
    (notOwn : ownWrite (4 * addr.toNat) data.toNat = false) (notW1c : isW1c (4 * addr.toNat) = false) :
    controlWriteOp addr data apar wpar s =
      ((s.writeReg (4 * addr.toNat) data.toNat).recWrite (4 * addr.toNat) data.toNat).ackWrite := by
  have notBoth : ¬ (4 * addr.toNat = 0xE5000 ∧ data.toNat % 4 = 3) := by
    rintro ⟨hAddr, hData⟩
    have bit0 : bit data.toNat 0 = true := by simp [bit]; omega
    simp [ownWrite, hAddr, bit0] at notOwn
  simp [controlWriteOp, alive, good, goodData, opened, notBoth, notOwn, notW1c]

end ControlWrite

/-- Settles O5: by the parity and openness of the access, and then by what R516 and R522 say of the register. -/
theorem controlWritesStoreOrAreRefused : Obligations.ControlWritesStoreOrAreRefused := by
  unfold Obligations.ControlWritesStoreOrAreRefused
  refine ⟨?performed, ?refused⟩
  case performed =>
    rintro addr data apar wpar s r _ rfl alive good goodData opened row w1c0 notOwn plain shown
    have notW1c : isW1c (4 * addr.toNat) = false := by simp [isW1c, row, w1c0]
    have run : exec (.controlWrite addr data apar wpar) s = _ :=
      congrArg Host.Outcome.next (controlWriteOp_open alive good goodData opened notOwn notW1c)
    refine ⟨fun rw0 unguarded range => ?_, fun no => ?_⟩
    · rw [writeReg_stores _ plain row shown rw0 unguarded range] at run
      have notLogged := regRow_rw_notLogged row rw0
      rw [List.mem_cons, not_or] at notLogged
      exact ⟨_, _, run, rfl, s.store_eq .., s.store_keeps _ _ _, s.rd_store_self _ _ _ (regRow_lt row).1,
        State.rd_recWrite_ne _ _ _ notLogged.2 notLogged.1, rfl, rfl⟩
    · rw [writeReg_ignored _ plain row shown no] at run
      exact ⟨run, s.ignored_keeps _, s.ignored_still _⟩
  case refused =>
    rintro addr data apar wpar s _ rfl alive
    refine ⟨fun bad => ?_, fun good goodData closed => ?_⟩
    · exact ⟨_, congrArg Host.Outcome.next (controlWriteOp_badParity alive bad), rfl, rfl, rfl,
        s.event_refuse_keeps _ _ _ _, s.event_refuse_still ..⟩
    · exact ⟨_, congrArg Host.Outcome.next (controlWriteOp_closed alive good goodData closed), rfl, rfl, rfl⟩

end Sys2Proof.Machine
end

section
/-! Reads at the control port (R15, R61, R515): one equation per outcome of RC_READ, LOW_WORD_LATCH_READ and CTL_ERR_READ,
and what the clearing of RC fields changes. -/

namespace Sys2Proof.Machine

namespace State

variable (s : State)

theorem clearRc_eq (a : Nat) : s.clearRc a = { s with regs := (s.clearRc a).regs } := by
  unfold clearRc
  repeat' split
  all_goals rfl

theorem clearRc_keeps (a : Nat) : s.KeepsRegs (s.clearRc a) [a] := by
  intro x hx
  unfold clearRc
  repeat' split
  · rfl
  · rfl
  · exact rd_wr_ne s _ (by simpa using hx)

variable {s}

theorem clearRc_noRc {a : Nat} {r : RegRow} (row : regRow a = some r) (rc0 : r.rc = 0) : s.clearRc a = s := by
  simp [clearRc, row, rc0]

theorem clearRc_rc {a : Nat} {r : RegRow} (row : regRow a = some r) (rc0 : r.rc ≠ 0) :
    s.clearRc a = s.wr a ((s.rd a &&& (ones ^^^ r.rc)) ||| (r.rst &&& r.rc)) := by
  simp [clearRc, row, rc0]

/-- The RC bits return to their reset value, the others keep theirs (R15). -/
theorem bit_clearRc {a i : Nat} {r : RegRow} (row : regRow a = some r) (rc0 : r.rc ≠ 0) (hi : i < 32) :
    bit ((s.clearRc a).rd a) i = if bit r.rc i then bit r.rst i else bit (s.rd a) i := by
  rw [clearRc_rc row rc0, rd_wr_self]
  simp only [bit_testBit, Nat.testBit_mod_two_pow, Nat.testBit_or, Nat.testBit_and, Nat.testBit_xor, ones_testBit, hi,
    decide_true, Bool.true_and]
  cases r.rc.testBit i <;> simp

end State

section Reads

variable {s : State} {addr : BitVec 23} (alive : s.alive = true)
include alive

theorem rcReadOp_plain (opened : s.ctlOpen (4 * addr.toNat) = true) (notLnt : 4 * addr.toNat ≠ 0xB0004)
    (notLow : isLatchLow (4 * addr.toNat) = false) (notHigh : isLatchLow (4 * addr.toNat - 4) = false ∨ 4 * addr.toNat < 4)
    (shown : s.pitchHidden (4 * addr.toNat) = false) :
    rcReadOp addr s = (s.clearRc (4 * addr.toNat)).answer (s.regValue (4 * addr.toNat)) := by
  have notLatched : (isLatchLow (4 * addr.toNat - 4) && decide (4 ≤ 4 * addr.toNat)) = false := by
    rcases notHigh with low | small
    · rw [low, Bool.false_and]
    · rw [decide_eq_false (by omega), Bool.and_false]
  simp only [rcReadOp, alive, opened, notLnt, notLow, notLatched, shown, decide_false, Bool.not_true, Bool.or_self,
    Bool.false_eq_true, if_false]

theorem latchReadOp_low (opened : s.ctlOpen (4 * addr.toNat) = true) (low : isLatchLow (4 * addr.toNat) = true) :
    latchReadOp addr s =
      ({ s with ctl := { s.ctl with
          latch := tput 0 (4 * addr.toNat + 4) (s.regValue (4 * addr.toNat + 4)) s.ctl.latch } } : State).answer
        (s.regValue (4 * addr.toNat)) := by
  simp [latchReadOp, alive, opened, low]

/-- A read of a high word answers what is latched for it, zero where nothing is. -/
theorem rcReadOp_high {hi : BitVec 23} (hiNext : hi.toNat = addr.toNat + 1) (low : isLatchLow (4 * addr.toNat) = true)
    (opened : s.ctlOpen (4 * addr.toNat + 4) = true) :
    rcReadOp hi s = s.answer (tget 0 s.ctl.latch (4 * addr.toNat + 4)) := by
  have hiAddr : 4 * hi.toNat = 4 * addr.toNat + 4 := by omega
  obtain ⟨notLow, notLnt⟩ := isLatchLow_high low
  simp [rcReadOp, hiAddr, alive, opened, notLow, notLnt, low]

theorem ctlErrReadOp_badParity {apar : Bool} (bad : parity 23 addr.toNat ≠ b2n apar) :
    ctlErrReadOp addr apar s = (s.event 0x01 0 (4 * addr.toNat) 0).refuse := by
  simp [ctlErrReadOp, alive, bad]

theorem ctlErrReadOp_closed {apar : Bool} (good : parity 23 addr.toNat = b2n apar)
    (closed : s.ctlOpen (4 * addr.toNat) = false) : ctlErrReadOp addr apar s = s.refuse := by
  simp [ctlErrReadOp, alive, good, closed]

end Reads

/-- Settles O7: one clause per command, each by the equation of its outcome. -/
theorem controlReadsReturn : Obligations.ControlReadsReturn := by
  unfold Obligations.ControlReadsReturn
  refine ⟨?rcRead, ?latchRead, ?errRead⟩
  case rcRead =>
    rintro addr s r _ rfl alive opened notLnt notLow notHigh shown row
    refine ⟨_, congrArg Host.Outcome.next (rcReadOp_plain alive opened notLnt notLow notHigh shown), rfl, rfl,
      fun rc0 i hi => State.bit_clearRc row rc0 hi, fun rc0 => ?_, s.clearRc_keeps _, ?_⟩
    · rw [State.rd_answer, State.clearRc_noRc row rc0]
    · rw [State.clearRc_eq]
      rfl
  case latchRead =>
    rintro addr hi s _ rfl hiNext alive opened low
    refine ⟨⟨_, congrArg Host.Outcome.next (latchReadOp_low alive opened low), rfl, rfl, rfl, ?_⟩, fun unlatched openedHi => ?_⟩
    · intro u latched aliveU openedU
      have held : tget 0 u.ctl.latch (4 * addr.toNat + 4) = s.regValue (4 * addr.toNat + 4) := by
        rw [latched]
        exact tget_tput_self ..
      have run := rcReadOp_high aliveU hiNext low openedU
      rw [held] at run
      exact ⟨_, congrArg Host.Outcome.next run, rfl, rfl⟩
    · have run := rcReadOp_high alive hiNext low openedHi
      rw [tget_none _ _ _ unlatched] at run
      exact ⟨_, congrArg Host.Outcome.next run, rfl, rfl⟩
  case errRead =>
    rintro addr apar s _ rfl alive
    refine ⟨fun bad => ?_, fun good closed => ?_⟩
    · exact ⟨_, congrArg Host.Outcome.next (ctlErrReadOp_badParity alive bad), rfl, rfl, rfl,
        s.event_refuse_keeps _ _ _ _, s.event_refuse_still ..⟩
    · exact ⟨_, congrArg Host.Outcome.next (ctlErrReadOp_closed alive good closed), rfl, rfl, rfl⟩

end Sys2Proof.Machine
end

section
/-! Ticks and pace (R37, R38, R63, R64): one equation per outcome of TICK_LOAD, TICK_LOAD_APPLY, TICK_LOSS and
PACE_WINDOW_END, and the shape of the state after reset. -/

namespace Sys2Proof.Machine

/-- Settles O2: by evaluation, each part of the shape for itself (`State.reset_ok`). -/
theorem resetHasShape : Obligations.ResetHasShape := State.reset_ok

/-- The parity wires of a tick load (R63): byte by byte. -/
def loadParity (val : W64) : BitVec 8 :=
  BitVec.ofNat 8 (maskOf 8 (fun i => decide (parity 8 (bits val.toNat (8 * i) 8) = 1)))

theorem tickLossOp_short {s : State} {ring : Nat} (short : ring < 65536) : tickLossOp ring s = s := by
  simp [tickLossOp, short]

theorem paceWindowOp_silent {s : State} {p count : Nat} (silent : s.clk.silent = true) : paceWindowOp p count s = s := by
  simp [paceWindowOp, silent]

section Ticks

variable {s : State} (alive : s.alive = true)
include alive

theorem tickLoadOp_badParity {val : W64} {par : BitVec 8} (begun : s.start.phase ≠ .idle) (bad : par ≠ loadParity val) :
    tickLoadOp val par s = s.event 0x05 0 0 0 := by
  unfold loadParity at bad
  simp [tickLoadOp, alive, begun, bad]

theorem tickLoadOp_goodParity {val : W64} {par : BitVec 8} (begun : s.start.phase ≠ .idle) (good : par = loadParity val) :
    tickLoadOp val par s =
      if s.loadOk then { s with clk := { s.clk with load := some ⟨val, 64⟩, lost := false } } else s.event 0x05 0 1 0 := by
  unfold loadParity at good
  cases ok : s.loadOk <;> simp [tickLoadOp, alive, begun, good, ok]

theorem tickApplyOp_due {v : W64} (due : s.clk.load = some ⟨v, 0⟩) :
    tickApplyOp s =
      let u := ({ s with clk := { s.clk with load := none } } : State).setTicks v
      u.record 7 0 none 0 u.now 0 (le 8 v.toNat) false := by
  simp [tickApplyOp, due, alive]

theorem tickLossOp_lost {ring : Nat} (long : 65536 ≤ ring) :
    tickLossOp ring s = ({ s with clk := { s.clk with el := s.clk.el + ring, lost := true, silent := true } } : State).notice 2 := by
  have notShort : ¬ ring < 65536 := by omega
  simp [tickLossOp, alive, notShort]

theorem paceWindowOp_strobes {p count : Nat} (live : s.pitchLive p = true) (strobes : s.clk.silent = false)
    (small : count < 65536) :
    paceWindowOp p count s =
      let n := if (s.pitch p).locked then 1600 else count
      if n < s.rd (pwrAt p 4) then (s.wr (pwrAt p 0) n).wr (pwrAt p 4) n else s.wr (pwrAt p 0) n := by
  have other : (s.wr (pwrAt p 0) (if (s.pitch p).locked then 1600 else count)).rd (pwrAt p 4) = s.rd (pwrAt p 4) :=
    State.rd_wr_ne s _ (by unfold pwrAt; omega)
  simp [paceWindowOp, alive, live, strobes, Nat.mod_eq_of_lt small, other]

end Ticks

/-- What a window of pace `n` loads: PWR_PACE_NOW always, PWR_PACE_MIN where it is lower. -/
theorem pace_loaded (s : State) (p n : Nat) (small : n < 65536) :
    let t := if n < s.rd (pwrAt p 4) then (s.wr (pwrAt p 0) n).wr (pwrAt p 4) n else s.wr (pwrAt p 0) n
    t.rd (pwrAt p 0) = n ∧ t.rd (pwrAt p 4) = min n (s.rd (pwrAt p 4)) ∧ s.KeepsRegs t [pwrAt p 0, pwrAt p 4] ∧
      t = { s with regs := t.regs } := by
  have word : n % 2 ^ 32 = n := Nat.mod_eq_of_lt (by omega)
  have apart : pwrAt p 0 ≠ pwrAt p 4 := by unfold pwrAt; omega
  have keeps : ∀ a, a ∉ [pwrAt p 0, pwrAt p 4] → a ≠ pwrAt p 0 ∧ a ≠ pwrAt p 4 := by simp
  intro t
  by_cases lower : n < s.rd (pwrAt p 4)
  · have ht : t = (s.wr (pwrAt p 0) n).wr (pwrAt p 4) n := if_pos lower
    rw [ht]
    refine ⟨?_, ?_, fun a ha => ?_, rfl⟩
    · rw [State.rd_wr_ne _ _ apart, State.rd_wr_self, word]
    · rw [State.rd_wr_self, word, Nat.min_eq_left (by omega)]
    · rw [State.rd_wr_ne _ _ (keeps a ha).2, State.rd_wr_ne _ _ (keeps a ha).1]
  · have ht : t = s.wr (pwrAt p 0) n := if_neg lower
    rw [ht]
    refine ⟨?_, ?_, fun a ha => ?_, rfl⟩
    · rw [State.rd_wr_self, word]
    · rw [State.rd_wr_ne _ _ apart.symm, Nat.min_eq_right (by omega)]
    · rw [State.rd_wr_ne _ _ (keeps a ha).1]

/-- Settles O26: one clause per command, each by the equation of its outcome. -/
theorem tickLoadsAndPace : Obligations.TickLoadsAndPace := by
  unfold Obligations.TickLoadsAndPace
  refine ⟨⟨?load, ?apply⟩, ?loss, ?pace⟩
  case load =>
    intro val par s alive begun
    refine ⟨fun good => ?_, fun bad => congrArg Host.Outcome.next (tickLoadOp_badParity alive begun bad)⟩
    have run : exec (.tickLoad val par) s = _ := congrArg Host.Outcome.next (tickLoadOp_goodParity alive begun good)
    refine ⟨fun accepted => ?_, fun refused => ?_⟩
    · rw [run, if_pos accepted]
    · rw [run, if_neg (by simp [refused])]
  case apply =>
    intro v s alive due
    refine ⟨_, congrArg Host.Outcome.next (tickApplyOp_due alive due), ?_, ?_, ?_, ?_, fun a ha => ?_⟩
    · intro p hp
      rw [State.record_pitches] at hp
      obtain ⟨q, -, rfl⟩ := List.mem_map.mp hp
      rfl
    · rw [State.record_pitches]
      exact List.length_map _
    · rw [State.record_clk]
      rfl
    · rw [State.record_ctxs]
      rfl
    · rw [List.mem_cons, not_or] at ha
      exact State.rd_record_ne _ _ _ _ _ _ _ _ _ ha.2 ha.1
  case loss =>
    intro ring s alive
    refine ⟨fun long => ?_, fun short => congrArg Host.Outcome.next (tickLossOp_short short)⟩
    refine ⟨_, congrArg Host.Outcome.next (tickLossOp_lost alive long), rfl, State.bit_setBit_self _ _ _ (by decide),
      fun a ha => State.rd_notice_ne _ _ (by simpa using ha), rfl⟩
  case pace =>
    intro p count s alive live
    refine ⟨fun strobes small => ?_, fun silent => congrArg Host.Outcome.next (paceWindowOp_silent silent)⟩
    have paceSmall : (if (s.pitch p).locked then 1600 else count) < 65536 := by split <;> omega
    exact ⟨_, congrArg Host.Outcome.next (paceWindowOp_strobes alive live strobes small), pace_loaded s p _ paceSmall⟩

end Sys2Proof.Machine
end

section
/-! The loss of a pitch (R431, R470) leaves the guy lines as they were: each operation that it runs through, said once. -/

namespace Sys2Proof.Machine

theorem guys_of_kept {s t : State} (h : t.kept = s.kept) : t.guys = s.guys := congrArg (fun x => x.2.2.2.1) h

theorem guys_foldl {α : Type} (f : State → α → State) (h : ∀ (s : State) x, (f s x).guys = s.guys) (l : List α) (s : State) :
    (l.foldl f s).guys = s.guys := by
  induction l generalizing s with
  | nil => rfl
  | cons x r ih => exact (ih _).trans (h s x)

namespace State

variable (s : State)

/- Channels, points and ports -/

@[simp] theorem waitAgain_guys (rs : List MemReq) : (s.waitAgain rs).guys = s.guys := by
  unfold waitAgain
  exact guys_foldl _ (by intros; rfl) _ _

@[simp] theorem isolateMem_guys (c : Nat) : (s.isolateMem c).guys = s.guys := by
  unfold isolateMem abandonOut
  rw [waitAgain_guys]
  show (if _ then s else s.notice 2).guys = _
  split <;> rfl

@[simp] theorem coreSend_guys (a : Nat) (bs : Bytes) : (s.coreSend a bs).guys = s.guys := guys_of_kept (coreSend_kept s a bs)

@[simp] theorem outPoint_guys (want : Nat) : (s.outPoint want).2.guys = s.guys := by
  unfold outPoint
  dsimp only
  split
  · rfl
  · split <;> rfl

@[simp] theorem isolateCore_guys (a left : Nat) : (s.isolateCore a left).guys = s.guys := by
  unfold isolateCore
  refine (guys_foldl _ (fun s b => by rw [coreSend_guys, outPoint_guys]) _ _).trans ?_
  show (if _ then s else s.notice 2).guys = _
  split <;> rfl

@[simp] theorem enqueue_guys (n vc : Nat) (qs : List QFlit) : (s.enqueue n vc qs).guys = s.guys := rfl

/- A lost chip -/

@[simp] theorem detect_guys : s.detect.guys = s.guys := still_guys (t := s.detect) (s := { s with rsl := s.detect.rsl }) s.detect_still

@[simp] theorem shutDown_guys : s.shutDown.guys = s.guys := by
  unfold shutDown
  dsimp only
  rw [guys_foldl _ (fun s a => isolateCore_guys s a 0), guys_foldl _ isolateMem_guys]
  rfl

@[simp] theorem snapFail_guys : s.snapFail.guys = s.guys := by
  unfold snapFail snapEnd
  split
  · rfl
  · dsimp only
    split
    · rw [shutDown_guys, event_guys]
      rfl
    · rw [event_guys]
      rfl

@[simp] theorem infFail_guys (b : Bool) : (s.infFail b).guys = s.guys := by
  unfold infFail
  dsimp only
  split
  · rfl
  · rw [event_guys]
    rfl

@[simp] theorem copiesLost_guys (gone : Nat → Bool) (lost : Bool) : (s.copiesLost gone lost).guys = s.guys := by
  unfold copiesLost
  dsimp only
  split <;> split <;> split <;> simp

@[simp] theorem spreadNotice_guys (pay : Bytes) (d : Option Nat) : (s.spreadNotice pay d).guys = s.guys := by
  unfold spreadNotice
  refine guys_foldl _ (fun s d => ?_) _ _
  split <;> rfl

@[simp] theorem cancelLoss_guys (c : Nat) : (s.cancelLoss c).guys = s.guys := by
  unfold cancelLoss
  split
  · rfl
  · split
    · rfl
    · split
      · exact guys_of_kept ((holdCancel_kept _ _ _).trans (modStep_kept _ _ _))
      · exact guys_of_kept (cancelNow_kept _ _ _)

@[simp] theorem ctxFault_guys (c code : Nat) : (s.ctxFault c code).guys = s.guys := guys_of_kept (ctxFault_kept s c code)

@[simp] theorem lossStep_guys (l c : Nat) : (s.lossStep l c).guys = s.guys := by
  unfold lossStep
  dsimp only
  repeat' split
  all_goals simp

@[simp] theorem declareLost_guys (l decl : Nat) (pay : Bytes) (d : Option Nat) : (s.declareLost l decl pay d).guys = s.guys := by
  unfold declareLost
  split
  · rfl
  · refine (guys_foldl _ (fun s c => lossStep_guys s l c) _ _).trans ?_
    show (State.spreadNotice _ pay d).guys = _
    simp

@[simp] theorem moveFlits_guys (d : Nat) (fs : List QFlit) : (s.moveFlits d fs).1.guys = s.guys := by
  unfold moveFlits
  suffices h : ∀ (a : State × Option Nat × List ChunkTo) (f), (∀ a q, (f a q).1.guys = a.1.guys) →
      (fs.foldl f a).1.guys = a.1.guys by
    refine h (s, none, []) _ fun a q => ?_
    dsimp only
    split <;> rfl
  intro a f hf
  induction fs generalizing a with
  | nil => rfl
  | cons q r ih => exact (ih _).trans (hf a q)

@[simp] theorem spread_guys (n d : Nat) : (s.spread n d).guys = s.guys := by
  unfold spread
  exact moveFlits_guys _ _ _

@[simp] theorem reroutePort_guys (n : Nat) : (s.reroutePort n).guys = s.guys := by
  unfold reroutePort declareOwn
  dsimp only
  split
  · rfl
  · split <;> simp

@[simp] theorem portGone_guys (n : Nat) : (s.portGone n).guys = s.guys := by
  unfold portGone
  rw [reroutePort_guys]
  show (if _ then s else s.notice 2).guys = _
  split <;> rfl

/- The pitch -/

@[simp] theorem pitchPorts_guys (p : Nat) : (s.pitchPorts p).guys = s.guys := by
  unfold pitchPorts
  rw [guys_foldl _ portGone_guys, guys_foldl _ (fun s a => isolateCore_guys s a 0), guys_foldl _ isolateMem_guys]

@[simp] theorem pitchDark_guys (p : Nat) : (s.pitchDark p).guys = s.guys := by
  unfold pitchDark
  dsimp only
  rw [guys_foldl _ (by intros; rfl), guys_foldl _ (by intros; rfl), guys_foldl _ (by intros; rfl)]

@[simp] theorem entriesLost_guys : s.entriesLost.guys = s.guys := by
  unfold entriesLost
  rw [lntRefillAll_guys, modEnts_guys]
  exact guys_foldl _ (by intros; rfl) _ _

@[simp] theorem losePitch_guys (p : Nat) : (s.losePitch p).guys = s.guys := by
  unfold losePitch
  split
  · rfl
  · dsimp only
    split
    · exact pitchDark_guys _ p
    · rw [guys_foldl _ (fun s c => ctxFault_guys s c 0x1A)]
      show (State.pitchPorts _ p).guys = _
      rw [pitchPorts_guys, notice_guys, event_guys]
      split <;> simp

@[simp] theorem guyCheck_guys (k : Nat) : (s.guyCheck k).guys = s.guys := by
  unfold guyCheck
  split <;> simp

end State

end Sys2Proof.Machine
end

section
/-! Guy lines (R24 to R29): what remaps leave as it was, one equation per outcome of GUY_ACK, GUY_LINE_WORD_RECEIVED and
GUY_LINE_TEST_DONE, and what taking a line out of service and retiring one do to the lines. -/

namespace Sys2Proof.Machine

namespace State

variable (s : State)

/- Detections and remaps -/

/-- The state but for what detections and remaps (R31, R432, R446, R519) touch: registers, the event queue, the record log,
the requests that wait, the lanes of the cores, the advice of a checkpoint. -/
def sound : State := { s.still with rsl := {}, ktl := { s.ktl with lanes := [] } }

theorem sound_of_still {s t : State} (h : t.still = s.still) : t.sound = s.sound := by
  have e := congrArg sound h
  exact e

@[simp] theorem advise_sound (w : Nat) : (s.advise w).sound = s.sound := by
  unfold advise
  split
  · rfl
  · dsimp only
    rw [sound_of_still (event_still ..)]
    rfl

@[simp] theorem detect_sound : s.detect.sound = s.sound := by
  unfold detect
  dsimp only
  split
  · exact advise_sound _ 0
  · rfl

@[simp] theorem listRemap_sound (p res l ph : Nat) : (s.listRemap p res l ph).sound = s.sound := by
  unfold listRemap
  dsimp only
  rw [sound_of_still (wr_still ..)]
  split
  · rw [sound_of_still (wr_still ..)]
    rfl
  · rfl

@[simp] theorem remapAt_sound (p res l ph : Nat) : (s.remapAt p res l ph).sound = s.sound := by
  have listed : ((s.listRemap p res l ph).eventAt p 0x09 0 res l).sound = s.sound :=
    (sound_of_still (eventAt_still ..)).trans (s.listRemap_sound p res l ph)
  unfold remapAt
  dsimp only
  split
  · exact (advise_sound _ 1).trans listed
  · exact listed

theorem guys_of_sound {s t : State} (h : t.sound = s.sound) : t.guys = s.guys := by
  have e := congrArg (fun u : State => u.guys) h
  exact e
theorem ctxs_of_sound {s t : State} (h : t.sound = s.sound) : t.ctxs = s.ctxs := by
  have e := congrArg (fun u : State => u.ctxs) h
  exact e

/- Lines and directions -/

theorem guy_of_guys {s t : State} (h : t.guys = s.guys) (k : Nat) : t.guy k = s.guy k := by unfold guy; rw [h]

@[simp] theorem guy_modGuyDir (d : Nat) (f : GuyDir → GuyDir) (k : Nat) : (s.modGuyDir d f).guy k = s.guy k := rfl

@[simp] theorem guyDir_modGuy (k : Nat) (f : GuyLine → GuyLine) (d : Nat) : (s.modGuy k f).guyDir d = s.guyDir d := rfl

@[simp] theorem guyDir_modGuyDir_self (d : Nat) (f : GuyDir → GuyDir) : (s.modGuyDir d f).guyDir d = f (s.guyDir d) := by
  unfold modGuyDir guyDir
  exact tget_tput_self ..

/-- The lines with a status, once line `k` has another: those that had it, without `k`. -/
theorem guysIn_modGuy (k st : Nat) (f : GuyLine → GuyLine) (other : (f (s.guy k)).st ≠ st) :
    (s.modGuy k f).guysIn k st = (s.guysIn k st).filter (fun j => decide (j ≠ k)) := by
  unfold guysIn
  rw [List.filter_filter]
  refine List.filter_congr fun j _ => ?_
  by_cases h : j = k
  · subst h
    simp [guy_modGuy_self, other]
  · simp [guy_modGuy_ne, h]

/-- Which lines but `k` have a status depends on those lines alone. -/
theorem guysIn_congr {t : State} {k : Nat} (rest : ∀ j, j ≠ k → t.guy j = s.guy j) (st : Nat) :
    (t.guysIn k st).filter (fun j => decide (j ≠ k)) = (s.guysIn k st).filter (fun j => decide (j ≠ k)) := by
  unfold guysIn
  rw [List.filter_filter, List.filter_filter]
  refine List.filter_congr fun j _ => ?_
  by_cases h : j = k
  · simp [h]
  · rw [rest j h]

theorem guysIn_st {k st j : Nat} (h : j ∈ s.guysIn k st) : (s.guy j).st = st := by
  unfold guysIn at h
  exact of_decide_eq_true (List.mem_filter.mp h).2

/-- Where no line but `k` has the status, or `k` has another one, leaving `k` out leaves the list. -/
theorem guysIn_without {k st : Nat} (other : (s.guy k).st ≠ st) :
    (s.guysIn k st).filter (fun j => decide (j ≠ k)) = s.guysIn k st := by
  refine List.filter_eq_self.mpr fun j hj => decide_eq_true ?_
  rintro rfl
  exact other (s.guysIn_st hj)

end State

/-- A line taken out of service (R27). -/
def GuyLine.out (g : GuyLine) : GuyLine := { g with st := 2, buf := [], again := 0, wait := [], skipping := false }

/-- Words that a line takes over from one out of service (R27). -/
def GuyLine.takeOver (g : GuyLine) (ws : List GuyWord) : GuyLine :=
  { g with wait := g.wait ++ ws.map (fun w => { w with rejects := 0 }) }

namespace State

variable (s : State) {k : Nat}

theorem guyOut_eq : s.guyOut k =
    match (s.guysIn k 0).filter (fun j => decide (j ≠ k)) with
    | [] => s.modGuy k GuyLine.out
    | j :: _ => (s.modGuy k GuyLine.out).modGuy j (fun g => g.takeOver ((s.guy k).buf ++ (s.guy k).wait)) := by
  have others : (s.modGuy k GuyLine.out).guysIn k 0 = _ := s.guysIn_modGuy k 0 GuyLine.out (show (2 : Nat) ≠ 0 by decide)
  rw [← others]
  rfl

theorem guyOut_dirs : (s.guyOut k).guys.dirs = s.guys.dirs := by
  rw [guyOut_eq]
  split <;> rfl

/-- The line itself carries nothing any more. -/
theorem guyOut_self : (s.guyOut k).guy k = (s.guy k).out := by
  rw [guyOut_eq]
  split
  case h_1 => exact guy_modGuy_self ..
  case h_2 j js others =>
    have notSelf : k ≠ j := by
      have hj : j ∈ (s.guysIn k 0).filter (fun j => decide (j ≠ k)) := by rw [others]; exact List.mem_cons_self
      exact (of_decide_eq_true (List.mem_filter.mp hj).2).symm
    rw [guy_modGuy_ne _ _ notSelf, guy_modGuy_self]

/-- Its words go to the lowest-numbered other line in service, the rest stay as they were. -/
theorem guyOut_others {j : Nat} {js : List Nat} (others : (s.guysIn k 0).filter (fun j => decide (j ≠ k)) = j :: js) :
    (s.guyOut k).guy j = (s.guy j).takeOver ((s.guy k).buf ++ (s.guy k).wait) ∧
      ∀ i, i ≠ k → i ≠ j → (s.guyOut k).guy i = s.guy i := by
  have notSelf : j ≠ k := by
    have hj : j ∈ (s.guysIn k 0).filter (fun j => decide (j ≠ k)) := by rw [others]; exact List.mem_cons_self
    exact of_decide_eq_true (List.mem_filter.mp hj).2
  rw [guyOut_eq, others]
  refine ⟨?_, fun i hk hj => ?_⟩
  · rw [guy_modGuy_self, guy_modGuy_ne _ _ notSelf]
  · rw [guy_modGuy_ne _ _ hj, guy_modGuy_ne _ _ hk]

/-- Retiring a line that is under test brings in the lowest-numbered spare (R28), and touches no other line. -/
theorem guyRetire_guys (tested : (s.guy k).st = 2) : (s.guyRetire k).guys =
    match s.guysIn k 1 with
    | [] => (s.modGuy k (fun g => { g with st := 3 })).guys
    | j :: _ => ((s.modGuy k (fun g => { g with st := 3 })).modGuy j (fun g => { g with st := 0 })).guys := by
  have spares : (s.modGuy k (fun g => { g with st := 3 })).guysIn k 1 = s.guysIn k 1 :=
    (s.guysIn_modGuy k 1 _ (show (3 : Nat) ≠ 1 by decide)).trans (s.guysIn_without (by rw [tested]; decide))
  unfold guyRetire
  dsimp only
  rw [spares]
  cases s.guysIn k 1
  · rfl
  · exact guys_of_sound (remapAt_sound ..)

/-- Without a spare, retiring a line changes the line alone. -/
theorem guyRetire_alone (tested : (s.guy k).st = 2) (none : s.guysIn k 1 = []) (i : Nat) :
    (s.guyRetire k).guy i = if i = k then { s.guy k with st := 3 } else s.guy i := by
  have lines := s.guyRetire_guys tested
  rw [none] at lines
  rw [guy_of_guys lines]
  by_cases h : i = k
  · subst h
    rw [guy_modGuy_self, if_pos rfl]
  · rw [guy_modGuy_ne _ _ h, if_neg h]

/-- With spares, the first of them comes into service, and no third line changes. -/
theorem guyRetire_spare (tested : (s.guy k).st = 2) {j : Nat} {js : List Nat} (spares : s.guysIn k 1 = j :: js) (i : Nat) :
    (s.guyRetire k).guy i =
      if i = k then { s.guy k with st := 3 } else if i = j then { s.guy j with st := 0 } else s.guy i := by
  have notSelf : j ≠ k := by
    have spare : (s.guy j).st = 1 := s.guysIn_st (by rw [spares]; exact List.mem_cons_self)
    rintro rfl
    omega
  have lines := s.guyRetire_guys tested
  rw [spares] at lines
  rw [guy_of_guys lines]
  by_cases hj : i = j
  · subst hj
    rw [guy_modGuy_self, guy_modGuy_ne _ _ notSelf, if_neg notSelf, if_pos rfl]
  · rw [guy_modGuy_ne _ _ hj, if_neg hj]
    by_cases hk : i = k
    · subst hk
      rw [guy_modGuy_self, if_pos rfl]
    · rw [guy_modGuy_ne _ _ hk, if_neg hk]

end State

/- GUY_ACK -/

section Ack

variable {s : State} {b line : Nat} {up : Bool} {w : GuyWord} {r : List GuyWord}
  (alive : s.alive = true) (named : s.guyOk b line = true) (serves : (s.guy (guyKey b up line)).st = 0)
  (oldest : (s.guy (guyKey b up line)).buf = w :: r)
  (unacked : (s.guy (guyKey b up line)).again < (s.guy (guyKey b up line)).buf.length)

/-- A line whose oldest word is rejected: it and every later one are to be sent again. -/
def GuyLine.rejected (g : GuyLine) (w : GuyWord) (r : List GuyWord) (el : Nat) : GuyLine :=
  { g with
    buf := { w with rejects := w.rejects + 1 } :: r
    again := g.buf.length
    skipping := false
    rejTimes := el :: recent (2 ^ 20) el g.rejTimes }

include alive named serves oldest unacked

theorem guyAckOp_accepted : guyAckOp b up line false s = s.modGuy (guyKey b up line) (fun g => { g with buf := r }) := by
  have inWindow : ¬ r.length + 1 ≤ (s.guy (guyKey b up line)).again := by
    rw [oldest, List.length_cons] at unacked
    omega
  unfold guyAckOp
  dsimp only
  rw [oldest]
  simp only [alive, named, serves, inWindow, Bool.not_true, Bool.not_false, Bool.or_self, ne_eq, not_true_eq_false,
    decide_false, Bool.false_eq_true, if_false, if_true, List.length_cons]

theorem guyAckOp_rejected : guyAckOp b up line true s =
    if 8 ≤ w.rejects + 1 ∨ 64 ≤ (recent (2 ^ 20) s.el (s.guy (guyKey b up line)).rejTimes).length + 1 then
      ((s.modGuy (guyKey b up line) (fun g => g.rejected w r s.el)).detect.guyOut (guyKey b up line)).guyCheck (guyKey b up line)
    else s.modGuy (guyKey b up line) (fun g => g.rejected w r s.el) := by
  have inWindow : ¬ r.length + 1 ≤ (s.guy (guyKey b up line)).again := by
    rw [oldest, List.length_cons] at unacked
    omega
  unfold guyAckOp
  dsimp only
  rw [oldest]
  simp only [alive, named, serves, inWindow, Bool.not_true, Bool.or_self, ne_eq, not_true_eq_false, decide_false,
    Bool.false_eq_true, if_false, List.length_cons]
  rfl

end Ack

/- GUY_LINE_WORD_RECEIVED -/

section Word

variable (s : State) (k : Nat) (w : GuyWord) (new : Bool)

/-- The sender's side of a word touches its own line. -/
theorem State.guySend_guy (j : Nat) : (s.guySend k w new).guy j =
    if j = k then
      if (s.guy k).again ≠ 0 then { s.guy k with again := (s.guy k).again - 1 }
      else { s.guy k with buf := (s.guy k).buf ++ [w], wait := (s.guy k).wait.drop 1 }
    else s.guy j := by
  have line : (s.guySend k w new).guy j = (s.modGuy k (fun g =>
      if g.again ≠ 0 then { g with again := g.again - 1 }
      else { g with buf := g.buf ++ [w], wait := g.wait.drop 1 })).guy j := by
    unfold State.guySend
    dsimp only
    split <;> rfl
  rw [line]
  by_cases h : j = k
  · subst h
    rw [State.guy_modGuy_self, if_pos rfl]
  · rw [State.guy_modGuy_ne _ _ h, if_neg h]

theorem State.guySend_eq : s.guySend k w new = { s with guys := (s.guySend k w new).guys } := by
  unfold State.guySend
  dsimp only
  split <;> rfl

theorem State.guySend_skipping : ((s.guySend k w new).guy k).skipping = (s.guy k).skipping := by
  rw [State.guySend_guy, if_pos rfl]
  split <;> rfl

/-- A new word is sent as the next of its transfer. -/
theorem State.guySend_guyDir : (s.guySend k w true).guyDir (k / 100) =
    { s.guyDir (k / 100) with
      xfers := tmod {} w.xfer (fun t => { t with sent := t.sent + 1, fin := w.last }) (s.guyDir (k / 100)).xfers } := by
  unfold State.guySend
  dsimp only
  rw [if_pos rfl, State.guyDir_modGuyDir_self]
  rfl

variable {s k w new} {b line : Nat} {up : Bool} {x : GuySend} {got : GuyGot}
  (alive : s.alive = true) (named : s.guyOk b line = true) (serves : (s.guy (guyKey b up line)).st = 0)
  (sentWord : x.word.length = 32) (gotWord : got.bytes.length = 32)
include alive named serves sentWord gotWord

/-- A line in service carries its next word, if there is one. -/
theorem guyWordOp_next : guyWordOp b up line x got s =
    match s.guyNext (guyKey b up line) x.xfer x.word x.last with
    | none => s
    | some (w, new) =>
      let u := s.guySend (guyKey b up line) w new
      if (s.guy (guyKey b up line)).skipping then u
      else if guyParOk got.bytes got.par then u.modGuyDir (guyKey b up line / 100) (fun d => d.take { w with word := got.bytes })
      else u.modGuy (guyKey b up line) (fun g => { g with skipping := true }) := by
  unfold guyWordOp
  simp only [alive, named, serves, sentWord, gotWord, Bool.not_true, Bool.or_self, ne_eq, not_true_eq_false,
    decide_false, Bool.false_eq_true, if_false, or_self]
  cases s.guyNext (guyKey b up line) x.xfer x.word x.last with
  | none => rfl
  | some p =>
    dsimp only
    rw [State.guySend_skipping]

end Word

/-- A good word of a transfer that waits for it and has no other in hand is delivered at once (R29). -/
theorem GuyDir.take_next {d : GuyDir} {w : GuyWord} {f : GuyXfer} (xfer : tget {} d.xfers w.xfer = f)
    (inOrder : w.seq = f.dlv) (empty : f.held = []) :
    (d.take w).out = d.out ++ [w] ∧ tget {} (d.take w).xfers w.xfer = { f with dlv := f.dlv + 1 } := by
  have taken : d.take w = deliverGuy w.xfer 1 { d with xfers := tput {} w.xfer { f with held := [w] } d.xfers } := by
    simp [GuyDir.take, xfer, inOrder, empty]
  rw [taken]
  simp [deliverGuy, inOrder, ltake, ← empty]

/- GUY_LINE_TEST_DONE -/

section Test

variable {s : State} {b line : Nat} {up : Bool} (failing : List Nat)

/-- Groups of the active wires that fail (R25). -/
def failedGroups : List Nat := ((failing.filter (fun w => decide (w < 268))).eraseDups).map wireGroup

/-- Groups whose spare wire fails. -/
def deadSpares : List Nat := (failing.filter (fun w => decide (268 ≤ w))).map (· - 268)

/-- Spare wires cover what fails (R25, R28), beside the groups whose spare wires are in use. -/
def SparesFit (groups : List Nat) : Prop :=
  (failedGroups failing).Nodup ∧ (∀ x ∈ failedGroups failing, x ∉ groups) ∧
    ∀ x ∈ deadSpares failing, x ∉ groups ++ failedGroups failing

theorem sparesFit_iff (groups : List Nat) : SparesFit failing groups ↔
    (failedGroups failing).Nodup ∧ (failedGroups failing).all (fun x => !(groups.contains x)) = true ∧
      (deadSpares failing).all (fun x => !((groups ++ failedGroups failing).contains x)) = true := by
  simp [SparesFit]

variable {failing} (alive : s.alive = true) (named : s.guyOk b line = true) (tested : (s.guy (guyKey b up line)).st = 2)
include alive named tested

theorem guyTestOp_fit (fit : SparesFit failing (s.guy (guyKey b up line)).groups) : guyTestOp b up line failing s =
    (failedGroups failing).foldl (fun s x => s.remapAt b 4 (guyKey b up line % 200) (guyKey b up line % 200 * 14 + x))
      (s.modGuy (guyKey b up line) (fun g => { g with st := 0, groups := g.groups ++ failedGroups failing })) := by
  rw [sparesFit_iff] at fit
  unfold failedGroups deadSpares at *
  unfold guyTestOp
  simp only [alive, named, tested, Bool.not_true, Bool.or_self, ne_eq, not_true_eq_false, decide_false,
    Bool.false_eq_true, if_false]
  rw [if_pos fit]

theorem guyTestOp_unfit (unfit : ¬ SparesFit failing (s.guy (guyKey b up line)).groups) : guyTestOp b up line failing s =
    (s.guyRetire (guyKey b up line)).guyCheck (guyKey b up line) := by
  rw [sparesFit_iff] at unfit
  unfold failedGroups deadSpares at *
  unfold guyTestOp
  simp only [alive, named, tested, Bool.not_true, Bool.or_self, ne_eq, not_true_eq_false, decide_false,
    Bool.false_eq_true, if_false]
  rw [if_neg unfit]

end Test

/-- Remaps one after the other leave the guy lines and the contexts. -/
theorem remaps_sound (s : State) (p res l : Nat) (xs : List Nat) (f : Nat → Nat) :
    (xs.foldl (fun s x => s.remapAt p res l (f x)) s).sound = s.sound := by
  induction xs generalizing s with
  | nil => rfl
  | cons x r ih => exact (ih _).trans (s.remapAt_sound p res l (f x))

/-- Settles O35: one clause per command, each by the equation of its outcome; the loss of pitches that a boundary without a
line in service brings (R431) leaves the lines (`State.guyCheck_guys`). -/
theorem guyLinesResendAndSpare : Obligations.GuyLinesResendAndSpare := by
  unfold Obligations.GuyLinesResendAndSpare
  refine ⟨?ack, ?word, ?test⟩
  case ack =>
    intro b line up w r s alive named k g serves oldest unacked
    refine ⟨?accepted, fun few recently => ?rejected, fun often => ?out⟩
    case accepted =>
      refine ⟨_, congrArg Host.Outcome.next (guyAckOp_accepted alive named serves oldest unacked), ?_, fun j hj => ?_, rfl⟩
      · exact State.guy_modGuy_self ..
      · exact State.guy_modGuy_ne _ _ hj
    case rejected =>
      have run := guyAckOp_rejected alive named serves oldest unacked
      rw [if_neg (by change ¬ (_ ∨ 64 ≤ (recent (2 ^ 20) s.el g.rejTimes).length + 1); omega)] at run
      refine ⟨_, congrArg Host.Outcome.next run, ?_, fun j hj => ?_, rfl⟩
      · exact State.guy_modGuy_self ..
      · exact State.guy_modGuy_ne _ _ hj
    case out =>
      have run := guyAckOp_rejected alive named serves oldest unacked
      rw [if_pos often] at run
      obtain ⟨u, hu⟩ : ∃ u, u = (s.modGuy k (fun g => g.rejected w r s.el)).detect := ⟨_, rfl⟩
      have detected : u.guys = (s.modGuy k (fun g => g.rejected w r s.el)).guys := by rw [hu, State.detect_guys]
      have self : u.guy k = g.rejected w r s.el := (State.guy_of_guys detected k).trans (State.guy_modGuy_self ..)
      have rest : ∀ j, j ≠ k → u.guy j = s.guy j := fun j hj =>
        (State.guy_of_guys detected j).trans (State.guy_modGuy_ne _ _ hj)
      have others : (u.guysIn k 0).filter (fun j => decide (j ≠ k)) = (s.guysIn k 0).filter (fun j => decide (j ≠ k)) :=
        s.guysIn_congr rest 0
      rw [← hu] at run
      have lines (i : Nat) : ((u.guyOut k).guyCheck k).guy i = (u.guyOut k).guy i := State.guy_of_guys (State.guyCheck_guys _ k) i
      refine ⟨_, congrArg Host.Outcome.next run, ?_, ?_, ?_, ?_, fun j js hjs => ?_⟩
      · rw [lines, State.guyOut_self]
        rfl
      · rw [lines, State.guyOut_self]
        rfl
      · rw [lines, State.guyOut_self]
        rfl
      · rw [State.guyCheck_guys, State.guyOut_dirs, detected]
        rfl
      · obtain ⟨taken, same⟩ := u.guyOut_others (others.trans hjs)
        have notSelf : j ≠ k := by
          have hj : j ∈ (s.guysIn k 0).filter (fun j => decide (j ≠ k)) := by rw [hjs]; exact List.mem_cons_self
          exact of_decide_eq_true (List.mem_filter.mp hj).2
        refine ⟨?_, fun i hk hj => ?_⟩
        · rw [lines, taken, self, rest j notSelf]
          rfl
        · rw [lines, same i hk hj, rest i hk]
  case word =>
    intro b line up x got s alive named k g serves sentWord gotWord
    have run := guyWordOp_next alive named serves sentWord gotWord
    refine ⟨fun nothing => ?none, fun w new next => ?next, ?deliver⟩
    case none =>
      rw [show s.guyNext (guyKey b up line) x.xfer x.word x.last = none from nothing] at run
      exact congrArg Host.Outcome.next run
    case next =>
      intro u
      rw [show s.guyNext (guyKey b up line) x.xfer x.word x.last = some (w, new) from next] at run
      refine ⟨?_, fun j hj => ?_, s.guySend_eq k w new, fun skips => ?_, fun listens good => ?_, fun listens bad => ?_⟩
      · exact (s.guySend_guy k w new k).trans (if_pos rfl)
      · exact (s.guySend_guy k w new j).trans (if_neg hj)
      · exact congrArg Host.Outcome.next (run.trans (if_pos skips))
      · refine congrArg Host.Outcome.next (run.trans ((if_neg ?_).trans (if_pos good)))
        exact Bool.eq_false_iff.mp listens
      · refine congrArg Host.Outcome.next (run.trans ((if_neg ?_).trans (if_neg ?_)))
        · exact Bool.eq_false_iff.mp listens
        · exact Bool.eq_false_iff.mp bad
    case deliver =>
      intro d f again room nothing open_ empty inOrder listens good
      have next : s.guyNext (guyKey b up line) x.xfer x.word x.last = some (⟨x.xfer, f.sent, x.word, x.last, 0⟩, true) := by
        have room' : ¬ 16 ≤ (s.guy (guyKey b up line)).buf.length := Nat.not_le.mpr room
        have again' : (s.guy (guyKey b up line)).again = 0 := again
        have open' : (tget {} (s.guyDir (guyKey b up line / 100)).xfers x.xfer).fin = false := open_
        have nothing' : (s.guy (guyKey b up line)).wait = [] := nothing
        simp [State.guyNext, again', room', nothing', open', f, d, k]
      obtain ⟨w, hw⟩ : ∃ w : GuyWord, w = ⟨x.xfer, f.sent, x.word, x.last, 0⟩ := ⟨_, rfl⟩
      rw [← hw] at next
      rw [next] at run
      have run : exec (.guyLineWordReceived b up line x got) s = _ := congrArg Host.Outcome.next
        (run.trans ((if_neg (Bool.eq_false_iff.mp listens)).trans (if_pos good)))
      have sent : (s.guySend k w true).guyDir (k / 100) = _ := s.guySend_guyDir k w
      have xfer : tget {} ((s.guySend k w true).guyDir (k / 100)).xfers x.xfer = { f with sent := f.sent + 1, fin := x.last } := by
        rw [sent, hw]
        dsimp only
        rw [tget_tmod, if_pos rfl]
      obtain ⟨out, left⟩ := GuyDir.take_next (w := ⟨x.xfer, f.sent, got.bytes, x.last, 0⟩) xfer inOrder empty
      refine ⟨_, run, ?_, ?_, ?_⟩
      · rw [State.guy_modGuyDir]
        refine (s.guySend_guy k w true k).trans ((if_pos rfl).trans ((if_neg (not_not.mpr again)).trans ?_))
        rw [hw, show (s.guy k).wait = [] from nothing]
        rfl
      · rw [State.guyDir_modGuyDir_self, hw]
        rw [hw] at out sent
        exact out.trans (by rw [sent])
      · rw [State.guyDir_modGuyDir_self, hw]
        rw [hw] at left
        exact left
  case test =>
    intro b line up failing s alive named k g gs dead fit tested
    refine ⟨fun fits => ?fit, fun unfit => ?unfit⟩
    case fit =>
      have run : exec (.guyLineTestDone b up line failing) s = _ := congrArg Host.Outcome.next (guyTestOp_fit alive named tested fits)
      have kept := remaps_sound (s.modGuy k (fun g => { g with st := 0, groups := g.groups ++ gs })) b 4 (k % 200) gs
        (k % 200 * 14 + ·)
      refine ⟨_, run, ?_, fun j hj => ?_, (State.ctxs_of_sound kept).trans rfl, fun none => ?_⟩
      · exact (State.guy_of_guys (State.guys_of_sound kept) k).trans (State.guy_modGuy_self ..)
      · exact (State.guy_of_guys (State.guys_of_sound kept) j).trans (State.guy_modGuy_ne _ _ hj)
      · rw [show failedGroups failing = [] from none]
        rfl
    case unfit =>
      have run : exec (.guyLineTestDone b up line failing) s = _ := congrArg Host.Outcome.next (guyTestOp_unfit alive named tested unfit)
      have lines (i : Nat) : ((s.guyRetire k).guyCheck k).guy i = (s.guyRetire k).guy i := State.guy_of_guys (State.guyCheck_guys _ k) i
      refine ⟨_, run, ?_, fun none j hj => ?_, fun j js spares => ⟨?_, fun i hk hj => ?_⟩⟩
      · rw [lines]
        cases spares : s.guysIn k 1 with
        | nil => rw [s.guyRetire_alone tested spares, if_pos rfl]
        | cons j js => rw [s.guyRetire_spare tested spares, if_pos rfl]
      · rw [lines, s.guyRetire_alone tested none, if_neg hj]
      · have notSelf : j ≠ k := by
          have spare : (s.guy j).st = 1 := s.guysIn_st (by rw [spares]; exact List.mem_cons_self)
          have inTest : (s.guy k).st = 2 := tested
          rintro rfl
          omega
        rw [lines, s.guyRetire_spare tested spares, if_neg notSelf, if_pos rfl]
      · rw [lines, s.guyRetire_spare tested spares, if_neg hk, if_neg hj]

end Sys2Proof.Machine
end

section
/-! A pitch whose loss cuts off a neighbour (R95, R433) while the block's shut-down waits for a snapshot (R451, R485): the
neighbour's chip is declared lost, the snapshot that went to it fails, and the shut-down that it held back begins and moves
the anchor off the highest working pitch (R486), although that pitch is not the one lost. -/

namespace Sys2Proof.Machine

/-- The four pitches of chip 1 run, with the anchor's functions on pitch 3. The only link of the +X direction, to chip 5, is
port 0, which sits on pitch 0. A shut-down waits for the end of a snapshot, whose pool is on chip 5. -/
def snapshotAwaited : State :=
  { State.reset with
    regs := [(0xC0028, 5)]
    glb := { State.reset.glb with chip := 1, anchor := 3 }
    start := { StartSt.reset with phase := .done, started := 15, shut := 4 }
    pitches := List.replicate 4 { Pitch.reset with held := false }
    links := { State.reset.links with
      ports := { Port.reset with st := 2, en := true, iso := false } :: List.replicate 71 Port.reset
      tab := [(0, ⟨true, 5, 0, 1⟩)] }
    rsl := { State.reset.rsl with snap := { busy := true } } }

theorem snapshotAwaited_ok : snapshotAwaited.Ok := by constructor <;> decide

/-- The shut-down that the lost snapshot lets go on moves the anchor from pitch 3 to pitch 1. -/
theorem goodFallOp_movesAnchor : (goodFallOp 0 snapshotAwaited).glb.anchor = 1 := by decide +kernel

/-- Refutes O31: in `snapshotAwaited`, POWER_GOOD_FALL of pitch 0, which is not the anchor, leaves the anchor's functions on
another pitch than before. -/
theorem not_pitchLeavesService : ¬ Obligations.PitchLeavesService := by
  unfold Obligations.PitchLeavesService
  intro h
  obtain ⟨t, run, -, -, -, -, -, -, -, anchored⟩ := h 0 snapshotAwaited snapshotAwaited_ok (by decide) (by decide) (by decide)
    (by decide) (.powerGoodFall 0) (.inl rfl)
  have stays := (anchored 1 [2, 3] (by decide)).2.1 (by decide)
  obtain rfl : goodFallOp 0 snapshotAwaited = t := Host.Outcome.next.inj run
  rw [goodFallOp_movesAnchor] at stays
  exact absurd stays (by decide)

end Sys2Proof.Machine
end

section
/-! Starts (R478 to R484): the self-test rounds, and what START_COMPLETE and START_FAIL make of the start. -/

namespace Sys2Proof.Machine

/-- A list whose elements are changed by their place. -/
theorem getD_map_zipIdx {α : Type} (f : α → Nat → α) (l : List α) (i : Nat) (d : α) (h : i < l.length) :
    (l.zipIdx.map (fun p => f p.1 p.2)).getD i d = f (l.getD i d) i := by
  simp [List.getD_eq_getElem?_getD, h]

namespace State

variable (s : State)

/- The image's registers -/

@[simp] theorem applyPairs_still (ps : List (Nat × Nat)) (ok : Nat → Bool) : (s.applyPairs ps ok).still = s.still := by
  unfold applyPairs
  refine still_foldl _ (fun s p => ?_) _ _
  split <;> rfl

@[simp] theorem loadGroups_still (t : Table Nat) : (s.loadGroups t).still = s.still := by
  unfold loadGroups
  exact still_foldl _ (fun s e => wr_still s _ _) _ _

/- Remap records -/

/-- What a remap record leaves of the block: all but registers, lanes, guy lines and link ports. -/
def remapped : State := { s.sound with guys := {}, links := { s.links with ports := [] } }

theorem useSpare_remapped (w : Nat) : (s.useSpare w).remapped = s.remapped := by
  unfold useSpare
  dsimp only
  repeat' split
  all_goals rfl

theorem applyRemap_remapped (w : Nat) : (s.applyRemap w).remapped = s.remapped := by
  have h := (s.useSpare w).listRemap_sound
  unfold applyRemap
  dsimp only
  have e := congrArg (fun u : State => { u with guys := {}, links := { u.links with ports := [] } })
    (h (remapFields w).2.1 (remapFields w).1 (remapFields w).2.2.1 (remapFields w).2.2.2)
  exact Eq.trans e (s.useSpare_remapped w)

theorem applyRemaps_remapped (ws : List Nat) : (ws.foldl applyRemap s).remapped = s.remapped := by
  induction ws generalizing s with
  | nil => rfl
  | cons w r ih => exact (ih _).trans (s.applyRemap_remapped w)

theorem remapped_fields {s t : State} (h : t.remapped = s.remapped) :
    t.glb = s.glb ∧ t.memb = s.memb ∧ t.links.tab = s.links.tab ∧ t.pitches = s.pitches ∧ t.mem.chs = s.mem.chs ∧
      t.core = s.core ∧ t.ctxs = s.ctxs := by
  have field {α : Type} (f : State → α) : f t.remapped = f s.remapped := congrArg f h
  exact ⟨field State.glb, field State.memb, field (fun u => u.links.tab), field State.pitches, field (fun u => u.mem.chs),
    field State.core, field State.ctxs⟩

end State

/- SELF_TEST_ROUND_DONE -/

theorem selfTestOp_round {s : State} {failed : BitVec 4} {m : Nat} {r : List Nat} (alive : s.alive = true)
    (testing : s.start.phase = .testing) (rounds : s.start.rounds = m :: r) :
    let f := s.start.failed ||| (m &&& failed.toNat)
    let dead := decide (upMask s.start.bypass s.start.part f = 0)
    selfTestOp failed s = { s with start := { s.start with
      rounds := r
      tested := s.start.tested ||| m
      failed := f
      note := if s.start.note = 0 ∧ m &&& failed.toNat ≠ 0 then 0x11 else s.start.note
      phase := if r ≠ [] then .testing else if dead then .failing else .ready
      code := if r = [] ∧ dead = true then 0x09 else s.start.code } } := by
  simp [selfTestOp, alive, testing, rounds]

/- START_COMPLETE -/

/-- The block with the pitches of `up` started, and the image's own identity, membership and links, before the image's
registers and remap records apply (R478). -/
def State.powered (s : State) (im : Image) (up : Nat) : State :=
  { s with
    glb := { s.glb with anchor := (inMask up).headD 0, chip := im.chip, pos := im.pos, nx := im.nx, ny := im.ny, nz := im.nz }
    pitches := s.pitches.zipIdx.map (fun p => { p.1 with held := !(bit up p.2), tick := (s.pitch ((inMask up).headD 0)).tick })
    memb := imageMemb im
    mem := { s.mem with chs := s.mem.chs.zipIdx.map (fun c => { c.1 with iso := !(bit up (c.2 / 4)) }) }
    core := { s.core with pts := s.core.pts.zipIdx.map (fun c => { c.1 with iso := !(bit up (c.2 / 8)) }) }
    links := { s.links with ports := imagePorts im up s.el, tab := imageLinks im } }

section Powered

variable (s : State) (im : Image) (up : Nat)

theorem State.powered_pitch {p : Nat} (hp : p < s.pitches.length) : (s.powered im up).pitch p =
    { s.pitch p with held := !(bit up p), tick := (s.pitch ((inMask up).headD 0)).tick } :=
  getD_map_zipIdx (fun (x : Pitch) q => { x with held := !(bit up q), tick := (s.pitch ((inMask up).headD 0)).tick }) _ _ _ hp

theorem State.powered_ch {c : Nat} (hc : c < s.mem.chs.length) : (s.powered im up).ch c = { s.ch c with iso := !(bit up (c / 4)) } :=
  getD_map_zipIdx (fun (x : MemCh) c => { x with iso := !(bit up (c / 4)) }) _ _ _ hc

theorem State.powered_pt {a : Nat} (ha : a < s.core.pts.length) : (s.powered im up).pt a = { s.pt a with iso := !(bit up (a / 8)) } :=
  getD_map_zipIdx (fun (x : CorePt) a => { x with iso := !(bit up (a / 8)) }) _ _ _ ha

end Powered

/-- Remap records of the image and of the newest health record. -/
def State.startRemaps (s : State) (im : Image) : List Nat :=
  im.spares ++ (match s.start.record with | some r => hrMap r | none => [])

/-- A register of a pitch that does not start: no pair of the image names it (R476). -/
def hiddenFrom (up a : Nat) : Bool := decide (0xD0000 ≤ a ∧ a < 0xD0400) && !(bit up ((a - 0xD0000) / 0x100))

/-- The block with the image's registers and group words. -/
def State.loaded (s : State) (im : Image) (up : Nat) : State :=
  ((s.powered im up).applyPairs im.pairs (fun a => !(hiddenFrom up a))).loadGroups im.groups

/-- The block with the image's registers and every remap record applied. -/
def State.configured (s : State) (im : Image) (up : Nat) : State :=
  ((s.loaded im up).startRemaps im).foldl State.applyRemap (s.loaded im up)

/-- The last act of a start (R71, R478). -/
def State.started (s : State) (up : Nat) : State :=
  { s with
    lnt := { s.lnt with biv := decide (4 ≤ s.bivOrder ∧ s.bivOrder ≤ 20), bivOff := false }
    start := { s.start with phase := .done, lock := true, started := up, before := s.start.fails, fails := 0, code := 0 } }

theorem startCompleteOp_ready {s : State} {im : Image} (duration : Nat) (alive : s.alive = true)
    (ready : s.start.phase = .ready) (image : s.start.image = some im) :
    let up := upMask s.start.bypass s.start.part s.start.failed
    (startCompleteOp duration s).still = ((s.configured im up).started up).still := by
  intro up
  let t := (s.configured im up).started up
  have run : startCompleteOp duration s = (t.notice 6).event 0x52 0 (up + t.start.tested * 16 + s.start.note * 256) duration := by
    unfold startCompleteOp
    simp only [image]
    rw [if_neg (by simp [alive, ready])]
    rfl
  rw [run]
  exact State.event_still ..

theorem State.loaded_still (s : State) (im : Image) (up : Nat) : (s.loaded im up).still = (s.powered im up).still :=
  (State.loadGroups_still ..).trans (State.applyPairs_still ..)

theorem State.configured_remapped (s : State) (im : Image) (up : Nat) :
    (s.configured im up).remapped = (s.powered im up).remapped := by
  have e := congrArg State.remapped (s.loaded_still im up)
  exact ((s.loaded im up).applyRemaps_remapped _).trans e

/-- Without a remap record, the ports are those of the image. -/
theorem State.configured_ports (s : State) (im : Image) (up : Nat) (noSpares : im.spares = []) (noRecord : s.start.record = none) :
    (s.configured im up).links.ports = imagePorts im up s.el := by
  have loaded := s.loaded_still im up
  have noRemaps : (s.loaded im up).startRemaps im = [] := by
    have record : (s.loaded im up).start.record = none := (congrArg StartSt.record (State.still_start loaded)).trans noRecord
    simp [State.startRemaps, noSpares, record]
  unfold State.configured
  rw [noRemaps]
  exact congrArg Links.ports (State.still_links loaded)

/- START_FAIL -/

section Fail

variable {s : State} (alive : s.alive = true) (failing : s.start.phase = .failing)
include alive failing

/-- A failed start, counted with its reason (R482). -/
def State.failedStart (s : State) : State :=
  { s with start := { s.start with
      fails := s.start.fails + 1, reason := s.start.code, failAt := s.el, phase := .waiting, image := none } }

theorem startFailOp_failing : startFailOp s = if 2 ≤ s.start.fails then s.failedStart.minimal else s.failedStart := by
  have third : 3 ≤ s.start.fails + 1 ↔ 2 ≤ s.start.fails := by omega
  simp only [startFailOp, alive, failing, third]
  rfl

end Fail

/-- Minimal mode (R483): the pitches but the anchor are held. -/
theorem State.minimal_fields (s : State) :
    s.minimal.start = { s.start with phase := .minimal, lock := true, started := 0 } ∧ s.minimal.ctxs = s.ctxs ∧
      s.minimal.pitches = s.pitches.zipIdx.map (fun p => { p.1 with held := decide (p.2 ≠ s.minimal.glb.anchor) }) := by
  unfold State.minimal
  dsimp only
  refine ⟨?_, ?_, ?_⟩
  · rw [event_start]
    rfl
  · rw [event_ctxs]
    rfl
  · rw [event_pitches, event_glb]
    rfl

/-- Settles O20: one clause per command, each by the equation of its outcome; remap records leave all but registers, lanes,
guy lines and ports (`State.applyRemaps_remapped`). -/
theorem startsCompleteOrFail : Obligations.StartsCompleteOrFail := by
  unfold Obligations.StartsCompleteOrFail
  refine ⟨?round, ?complete, ?fail⟩
  case round =>
    intro failed s m r alive testing rounds
    refine ⟨_, congrArg Host.Outcome.next (selfTestOp_round alive testing rounds), rfl, rfl, rfl, fun more => ?_,
      fun last left => ?_, fun last none => ⟨?_, ?_⟩, rfl⟩
    · exact if_pos more
    · exact (if_neg (not_not.mpr last)).trans (if_neg (by simpa using left))
    · exact (if_neg (not_not.mpr last)).trans (if_pos (by simpa using none))
    · exact if_pos ⟨last, by simpa using none⟩
  case complete =>
    intro duration s im alive ready image up
    have still := startCompleteOp_ready duration alive ready image
    have started := State.still_start still
    obtain ⟨glb, memb, tab, pitches, chs, core, ctxs⟩ := State.remapped_fields (s.configured_remapped im up)
    have pitches := (State.still_pitches still).trans pitches
    refine ⟨startCompleteOp duration s, rfl, congrArg StartSt.phase started, congrArg StartSt.lock started,
      congrArg StartSt.started started, congrArg StartSt.fails started, (State.still_glb still).trans glb,
      (State.still_memb still).trans memb, (congrArg Links.tab (State.still_links still)).trans tab,
      fun noSpares noRecord => ?ports, ?pitchCount, fun p hp => ?pitch, fun c hc => ?ch, fun a ha => ?pt,
      (State.still_ctxs still).trans ctxs⟩
    case ports => exact (congrArg Links.ports (State.still_links still)).trans (s.configured_ports im up noSpares noRecord)
    case pitchCount =>
      rw [pitches]
      simp [State.powered]
    case pitch =>
      have same : (startCompleteOp duration s).pitch p = (s.powered im up).pitch p := congrArg (fun l => l.getD p Pitch.reset) pitches
      rw [same, s.powered_pitch im up hp]
      exact ⟨rfl, rfl⟩
    case ch =>
      have same : (startCompleteOp duration s).ch c = (s.powered im up).ch c :=
        congrArg (fun l => l.getD c MemCh.reset) ((State.still_mem_chs still).trans chs)
      rw [same, s.powered_ch im up hc]
    case pt =>
      have same : (startCompleteOp duration s).pt a = (s.powered im up).pt a :=
        congrArg (fun k => k.pts.getD a CorePt.reset) ((State.still_core still).trans core)
      rw [same, s.powered_pt im up ha]
  case fail =>
    intro s alive failing
    have run : exec .startFail s = _ := congrArg Host.Outcome.next (startFailOp_failing alive failing)
    by_cases third : 2 ≤ s.start.fails
    · obtain ⟨start, ctxs, pitches⟩ := s.failedStart.minimal_fields
      rw [if_pos third] at run
      have field {α : Type} (f : StartSt → α) := congrArg f start
      refine ⟨_, run, field StartSt.fails, field StartSt.reason, field StartSt.failAt, ctxs, fun few => by omega,
        fun _ => ⟨field StartSt.phase, field StartSt.started, field StartSt.lock, ?pitchCount, fun p hp => ?pitch⟩⟩
      case pitchCount =>
        rw [pitches]
        simp [State.failedStart]
      case pitch =>
        have held := getD_map_zipIdx (fun (x : Pitch) q => { x with held := decide (q ≠ s.failedStart.minimal.glb.anchor) })
          s.pitches p Pitch.reset hp
        exact congrArg Pitch.held ((congrArg (fun l => l.getD p Pitch.reset) pitches).trans held)
    · rw [if_neg third] at run
      exact ⟨_, run, rfl, rfl, rfl, rfl, fun _ => ⟨rfl, rfl⟩, fun many => absurd many third⟩

end Sys2Proof.Machine
end

section
/-! Registers that faults, detections and remaps leave as they were (R31, R396, R397, R432, R519), and what a detection that
takes a spare changes. -/

namespace Sys2Proof.Machine

/-- Registers that a context's fault can change: the count of faults, the counts of copies that leave the hold and of cancels
that wait, and those of an event. -/
def faultRegs : List Nat := 0xA0008 :: 0x70018 :: 0x40004 :: lntRegs

/-- A fold of steps that each leave something as it was leaves it. -/
theorem foldl_keeps {α β : Type} (g : State → β) (f : State → α → State) (h : ∀ s x, g (f s x) = g s) (l : List α) (s : State) :
    g (l.foldl f s) = g s := by
  induction l generalizing s with
  | nil => rfl
  | cons x r ih => exact (ih _).trans (h s x)

theorem rd_of_settled {s t : State} (h : s.Settled t) (a : Nat) : t.rd a = s.rd a := by
  obtain ⟨-, regs, -⟩ := settled_fields h
  exact State.rd_of_regs _ regs a

theorem rd_of_sends {s t : State} (h : s.Sends t) (a : Nat) : t.rd a = s.rd a := by
  obtain ⟨-, regs, -⟩ := sends_fields h
  exact State.rd_of_regs _ regs a

theorem rd_of_charged {s t : State} {c : Nat} (h : s.Charged t c) (a : Nat) : t.rd a = s.rd a := by
  rw [h.rest]
  rfl

namespace State

variable (s : State)

/- Faults -/

@[simp] theorem rd_sendCancel (c e sc why fin a : Nat) : (s.sendCancel c e sc why fin).rd a = s.rd a := by
  obtain ⟨charged, sent⟩ := s.sendPacket_charged (s.firstPt s.glb.anchor) c (cancelWord c e sc why s.core.nextCancel) false
  have packet : (s.coreSend (s.firstPt s.glb.anchor) (cancelWord c e sc why s.core.nextCancel)).rd a = s.rd a := by
    rw [sent]
    rfl
  exact (rd_of_charged charged a).trans packet

@[simp] theorem rd_postQuery (c k : Nat) (q : Query) (a : Nat) : (s.postQuery c k q).rd a = s.rd a := rfl

@[simp] theorem rd_cancelCheck (c a : Nat) : (s.cancelCheck c).rd a = s.rd a := by
  unfold cancelCheck
  split
  · rfl
  · dsimp only
    split
    · rw [rd_postQuery, rd_modStep]
    · rfl

@[simp] theorem rd_cancelMark (c : Nat) (st : Step) (a : Nat) : (s.cancelMark c st).rd a = s.rd a := by
  unfold cancelMark
  by_cases h : st.outCopies = []
  · simp only [h, if_true]
    rfl
  · simp only [h, if_false]
    rfl

@[simp] theorem rd_cancelNow (c : Nat) (st : Step) (a : Nat) : (s.cancelNow c st).rd a = s.rd a := by
  unfold cancelNow
  dsimp only
  rw [rd_cancelCheck, rd_sendCancel]
  split
  · rw [rd_of_settled (dropFrame_settled _ c), rd_cancelMark]
  · exact rd_cancelMark ..

theorem rd_holdCancel_ne (c : Nat) (b : Bool) {a : Nat} (h : a ∉ faultRegs) : (s.holdCancel c b).rd a = s.rd a := by
  simp only [faultRegs, List.mem_cons, not_or] at h
  unfold holdCancel
  dsimp only
  rw [rd_modCtx]
  split
  · exact rd_countSat_ne _ _ _ _ h.2.2.1
  · rfl

theorem rd_cancelStep_ne (c : Nat) {a : Nat} (h : a ∉ faultRegs) : (s.cancelStep c).rd a = s.rd a := by
  unfold cancelStep
  split
  · rfl
  · split
    · rfl
    · split
      · exact rd_holdCancel_ne s c _ h
      · split
        · exact rd_holdCancel_ne s c _ h
        · exact rd_cancelNow ..

theorem rd_heldCheck_ne (c : Nat) {a : Nat} (h : a ∉ faultRegs) : (s.heldCheck c).rd a = s.rd a := by
  unfold heldCheck
  split
  · exact rd_cancelStep_ne s c h
  · rfl

theorem rd_release_ne (c : Nat) {a : Nat} (h : a ∉ faultRegs) : (s.release c).rd a = s.rd a := by
  have settled := (State.dropImages_settled (s.clearOwn c) c).trans
    ((State.unhold_settled _ c).trans (State.frames_settled _ (s.ctx c).tent))
  have own : (s.clearOwn c).rd a = s.rd a := by
    simp only [faultRegs, List.mem_cons, not_or] at h
    unfold clearOwn
    dsimp only
    rw [rd_modCtx]
    exact rd_count_ne _ _ h.2.1
  unfold release heldAll
  exact (foldl_keeps (·.rd a) _ (fun s c => rd_heldCheck_ne s c h) _ _).trans ((rd_of_settled settled a).trans own)

@[simp] theorem rd_downCheck (c a : Nat) : (s.downCheck c).rd a = s.rd a := by
  unfold downCheck
  split <;> rfl

theorem rd_tearDown_ne (c why : Nat) {a : Nat} (h : a ∉ faultRegs) : (s.tearDown c why).rd a = s.rd a := by
  unfold tearDown
  dsimp only
  rw [rd_downCheck, rd_release_ne _ _ h, rd_sendCancel, rd_modCtx]
  split
  · rfl
  · exact rd_of_sends (abortAll_sends ..) a

theorem rd_ctxFault_ne (c code : Nat) {a : Nat} (h : a ∉ faultRegs) : (s.ctxFault c code).rd a = s.rd a := by
  have counted : (s.count 0xA0008 1).rd a = s.rd a := rd_count_ne _ _ (by rintro rfl; exact h (by decide))
  have notLnt : a ∉ lntRegs := fun m => h (List.mem_cons_of_mem _ (List.mem_cons_of_mem _ (List.mem_cons_of_mem _ m)))
  unfold ctxFault
  split
  · rfl
  · split
    · rw [rd_tearDown_ne _ _ _ h, rd_notice_ne _ _ (by rintro rfl; exact notLnt (by decide)), rd_event_ne _ _ _ _ _ notLnt, rd_modCtx,
        counted]
    · exact counted

/- Detections and remaps -/

theorem rd_advise_ne (w : Nat) {a : Nat} (h : a ∉ lntRegs) : (s.advise w).rd a = s.rd a := by
  unfold advise
  split
  · rfl
  · rw [rd_event_ne _ _ _ _ _ h, rd_notice_ne _ _ (by rintro rfl; exact h (by decide))]
    rfl

/-- Below the remap list (R519), and beside its length, a remap changes the count of spares in use only. -/
theorem rd_listRemap_ne (p res l ph : Nat) {a : Nat} (below : a < 0xC0400) (notLen : a ≠ 0xC0080) :
    (s.listRemap p res l ph).rd a = (s.countSat (0xC0000 + 4 * p) (spareField res).1 (spareField res).2.1 1).rd a := by
  unfold listRemap
  dsimp only
  rw [rd_wr_ne _ _ notLen]
  split
  · rw [rd_wr_ne _ _ (by omega)]
    rfl
  · rfl

theorem rd_remapAt_ne (p res l ph : Nat) {a : Nat} (h : a ∉ lntRegs) (below : a < 0xC0400) (notLen : a ≠ 0xC0080) :
    (s.remapAt p res l ph).rd a = (s.countSat (0xC0000 + 4 * p) (spareField res).1 (spareField res).2.1 1).rd a := by
  have listed : ((s.listRemap p res l ph).eventAt p 0x09 0 res l).rd a = _ :=
    (rd_eventAt_ne _ _ _ _ _ _ h).trans (s.rd_listRemap_ne p res l ph below notLen)
  unfold remapAt
  dsimp only
  split
  · exact (rd_advise_ne _ 1 h).trans listed
  · exact listed

end State

/-- `t` shows one detection more than `s` (R432). -/
def State.Detected (s t : State) : Prop := t.rd 0xC0010 = (s.rd 0xC0010 + 1) % 2 ^ 32

/-- `t` shows one detection more than `s`, and one spare more of kind `res` in use in pitch `p`, as far as the field goes
(R453, R515). -/
structure State.Spared (s t : State) (p res : Nat) : Prop where
  detected : s.Detected t
  used : bits (t.rd (0xC0000 + 4 * p)) (spareField res).1 (spareField res).2.1 =
    min (bits (s.rd (0xC0000 + 4 * p)) (spareField res).1 (spareField res).2.1 + 1) (2 ^ (spareField res).2.1 - 1)

theorem spareField_le (res : Nat) : (spareField res).1 + (spareField res).2.1 ≤ 32 := by
  unfold spareField
  split <;> decide

theorem State.detect_detected (s : State) : s.Detected s.detect := by
  unfold State.Detected
  rw [State.detect_rd _ (by decide), State.rd_count, if_pos rfl]

section Spared

variable (s : State) (p res i : Nat)

@[simp] theorem State.remap_sound : (s.remap p res i).sound = s.sound := State.remapAt_sound ..

theorem State.detect_remap_sound : (s.detect.remap p res i).sound = s.sound :=
  (State.remap_sound ..).trans s.detect_sound

variable {p} (hp : p < 4)
include hp

theorem State.detect_remap_spared : s.Spared (s.detect.remap p res i) p res := by
  constructor
  · unfold State.Detected State.remap
    rw [State.rd_remapAt_ne _ _ _ _ _ (by decide) (by decide) (by decide), State.rd_countSat_ne _ _ _ _ (by omega)]
    exact s.detect_detected
  · have notLnt : 0xC0000 + 4 * p ∉ lntRegs := by simp [lntRegs]; omega
    have before : s.detect.rd (0xC0000 + 4 * p) = s.rd (0xC0000 + 4 * p) :=
      (s.detect_rd notLnt).trans (State.rd_count_ne _ _ (by omega))
    unfold State.remap
    rw [State.rd_remapAt_ne _ _ _ _ _ notLnt (by omega) (by omega), State.bits_countSat _ _ _ _ _ (spareField_le res), before]

/-- Other registers below the remap list stay. -/
theorem State.rd_detect_remap_ne {a : Nat} (notLnt : a ∉ lntRegs) (below : a < 0xC0000) : (s.detect.remap p res i).rd a = s.rd a := by
  unfold State.remap
  rw [State.rd_remapAt_ne _ _ _ _ _ notLnt (by omega) (by omega), State.rd_countSat_ne _ _ _ _ (by omega), State.detect_rd _ notLnt,
    State.rd_count_ne _ _ (by omega)]

variable {s res}

/-- What happens after the detection leaves the counts of detections and spares, when it leaves those registers. -/
theorem spared_of_keeps {u t : State} (h : s.Spared u p res) (same : ∀ a, 0xC0000 ≤ a → a ≤ 0xC0010 → t.rd a = u.rd a) :
    s.Spared t p res :=
  ⟨(same _ (by decide) (by decide)).trans h.detected, (congrArg (bits · _ _) (same _ (by omega) (by omega))).trans h.used⟩

end Spared

end Sys2Proof.Machine
end

section
/-! Tiles and images (R32, R141, R150, R151): what giving up a tile, freeing a core and loading an image again change, and
which registers and parts of the Kettle they leave. -/

namespace Sys2Proof.Machine

/-- An image as its load begins again (R150). -/
def Img.anew (i : Img) (id c tries : Nat) : Img :=
  { i with id := id, loader := c, tries := tries, usable := false, bytes := [] }

namespace State

variable (s : State)

/- Frames pass on without touching the Kettle -/

@[simp] theorem readFrame_ktl (c : Nat) (st : Step) : (s.readFrame c st).ktl = s.ktl := by
  unfold readFrame
  exact foldl_keeps State.ktl _ (by intros; rfl) _ _

@[simp] theorem saveFrame_ktl (c : Nat) (st : Step) : (s.saveFrame c st).ktl = s.ktl := memWrite_ktl ..

@[simp] theorem grantFrames_ktl (n k : Nat) : (grantFrames n k s).ktl = s.ktl := by
  induction k generalizing s with
  | zero => rfl
  | succ k ih =>
    unfold grantFrames
    split
    · exact ih _
    · split
      · split
        · rfl
        · exact (ih _).trans (readFrame_ktl ..)
      · rfl

@[simp] theorem passFrame_ktl (c : Nat) : (s.passFrame c).ktl = s.ktl := by
  unfold passFrame
  split
  · rfl
  · split
    · rfl
    · dsimp only
      split
      · rw [grantFrames_ktl]
        show (if _ then s else s.saveFrame c _).ktl = _
        split
        · rfl
        · exact saveFrame_ktl ..
      · show (if _ then s else s.saveFrame c _).ktl = _
        split
        · rfl
        · exact saveFrame_ktl ..

/- Cores -/

/-- Freeing a core empties its entry, and drops the lines that a streamed tile on it has been sent. -/
theorem freeCore_eq (k : Nat) : s.freeCore k = { s with
    ktl := { s.ktl with cores := tput {} k {} s.ktl.cores }
    mem := { s.mem with done := (s.freeCore k).mem.done } } := by
  unfold freeCore dropLines
  split <;> rfl

theorem freeCore_ktl (k : Nat) : (s.freeCore k).ktl = { s.ktl with cores := tput {} k {} s.ktl.cores } := by rw [freeCore_eq]

theorem rd_freeCore (k a : Nat) : (s.freeCore k).rd a = s.rd a := by
  rw [freeCore_eq]
  rfl

/-- A tile that is given up leaves its core free; no image changes. -/
theorem abandon_ktl (k : Nat) : (s.abandon k).ktl =
    if (tget {} s.ktl.cores k).busy then { s.ktl with cores := tput {} k {} s.ktl.cores } else s.ktl := by
  unfold abandon
  dsimp only
  split
  · rw [passFrame_ktl, freeCore_ktl]
  · rfl

theorem abandon_core {k : Nat} (busy : (tget {} s.ktl.cores k).busy = true) : tget {} (s.abandon k).ktl.cores k = {} := by
  rw [abandon_ktl, if_pos busy]
  dsimp only
  rw [tget_tput_self]

theorem rd_abandon (k a : Nat) : (s.abandon k).rd a = s.rd a := by
  unfold abandon
  dsimp only
  split
  · rw [rd_of_settled (passFrame_settled ..), rd_freeCore]
  · rfl

theorem rd_loseAcc (k a : Nat) : (s.loseAcc k).rd a = s.rd a := by
  unfold loseAcc
  dsimp only
  split
  · rfl
  · rw [rd_abandon, rd_modStep]

theorem loseAcc_core {k : Nat} (busy : (tget {} s.ktl.cores k).busy = true) : tget {} (s.loseAcc k).ktl.cores k = {} := by
  unfold loseAcc
  dsimp only
  rw [busy]
  exact abandon_core _ busy

/- Images -/

@[simp] theorem postImage_ktl (i : Img) : (s.postImage i).ktl = s.ktl := by
  unfold postImage
  exact foldl_keeps State.ktl _ (by intros; rfl) _ _

theorem reloadImage_ktl (i : Img) (c tries : Nat) : (s.reloadImage i c tries).ktl = { s.ktl with
    imgs := s.ktl.imgs.map (fun k => if k.id = i.id then i.anew s.ktl.nextImg c tries else k)
    nextImg := s.ktl.nextImg + 1 } := postImage_ktl ..

theorem anew_mem_reloadImage {i : Img} (here : i ∈ s.ktl.imgs) (c tries : Nat) :
    i.anew s.ktl.nextImg c tries ∈ (s.reloadImage i c tries).ktl.imgs := by
  rw [reloadImage_ktl]
  exact List.mem_map.mpr ⟨i, here, if_pos rfl⟩

@[simp] theorem rd_reloadImage (i : Img) (c tries a : Nat) : (s.reloadImage i c tries).rd a = s.rd a :=
  rd_of_settled (reloadImage_settled ..) a

end State

end Sys2Proof.Machine
end

section
/-! STORAGE_PARITY_FAIL (R31, R33, R93, R141, R152, R240, R258, R300, R320, R432). -/

namespace Sys2Proof.Machine

/- What does not depend on the counts of the dependability stage -/

section Sound

variable {s t : State} (h : t.sound = s.sound)
include h

theorem cores_of_sound : t.ktl.cores = s.ktl.cores := by
  have e := congrArg (fun v : State => v.ktl.cores) h
  exact e

theorem imgs_of_sound : t.ktl.imgs = s.ktl.imgs := by
  have e := congrArg (fun v : State => v.ktl.imgs) h
  exact e

theorem nextImg_of_sound : t.ktl.nextImg = s.ktl.nextImg := by
  have e := congrArg (fun v : State => v.ktl.nextImg) h
  exact e

theorem lostBanks_of_sound : t.ktl.lostBanks = s.ktl.lostBanks := by
  have e := congrArg (fun v : State => v.ktl.lostBanks) h
  exact e

theorem xch_of_sound : t.xch = s.xch := by
  have e := congrArg (fun v : State => v.xch) h
  exact e

theorem links_of_sound : t.links = s.links := by
  have e := congrArg (fun v : State => v.links) h
  exact e

theorem hold_of_sound : t.hold = s.hold := by
  have e := congrArg (fun v : State => v.hold) h
  exact e

theorem drain_of_sound : t.drain = s.drain := by
  have e := congrArg (fun v : State => v.drain) h
  exact e

theorem ctx_of_sound (c : Nat) : t.ctx c = s.ctx c := State.ctx_of_ctxs (State.ctxs_of_sound h) c

theorem step_of_sound (c : Nat) : t.step? c = s.step? c := by
  unfold State.step?
  rw [ctx_of_sound h]

end Sound

theorem port_of_links {s t : State} (h : t.links = s.links) (n : Nat) : t.port n = s.port n := by
  unfold State.port
  rw [h]

theorem portDir_of_links {s t : State} (h : t.links = s.links) (n : Nat) : t.portDir n = s.portDir n := by
  unfold State.portDir State.channelOf
  rw [port_of_links h]

theorem workPorts_of_links {s t : State} (h : t.links = s.links) (d : Nat) : t.workPorts d = s.workPorts d := by
  unfold State.workPorts
  simp only [port_of_links h, portDir_of_links h]

/- Banks of the Caddy -/

theorem rd_makeRoom (p n k a : Nat) (s : State) : (State.makeRoom p n k s).rd a = s.rd a := by
  induction k generalizing s with
  | zero => rfl
  | succ k ih =>
    unfold State.makeRoom
    split
    · rfl
    · split
      · rfl
      · exact ih _

theorem makeRoom_lostBanks (p n k : Nat) (s : State) : (State.makeRoom p n k s).ktl.lostBanks = s.ktl.lostBanks := by
  induction k generalizing s with
  | zero => rfl
  | succ k ih =>
    unfold State.makeRoom
    split
    · rfl
    · split
      · rfl
      · exact ih _

theorem rd_streamOn_ne (s : State) (c p : Nat) (shadow : Bool) {a : Nat} (h : a ≠ 0x20030) : (s.streamOn c p shadow).rd a = s.rd a := by
  unfold State.streamOn
  split
  · rfl
  · dsimp only
    split
    · rfl
    · exact State.rd_count_ne _ _ h

theorem streamOn_ktl (s : State) (c p : Nat) (shadow : Bool) : (s.streamOn c p shadow).ktl = s.ktl := by
  unfold State.streamOn
  split
  · rfl
  · dsimp only
    split <;> rfl

theorem rd_shrinkRegion_ne (p k : Nat) {a : Nat} (h : a ≠ 0x20030) (s : State) : (State.shrinkRegion p k s).rd a = s.rd a := by
  induction k generalizing s with
  | zero => rfl
  | succ k ih =>
    unfold State.shrinkRegion
    split
    · rfl
    · split
      · rfl
      · exact (ih _).trans (foldl_keeps (·.rd a) _ (fun s c => rd_streamOn_ne s c p _ h) _ _)

theorem shrinkRegion_lostBanks (p k : Nat) (s : State) : (State.shrinkRegion p k s).ktl.lostBanks = s.ktl.lostBanks := by
  induction k generalizing s with
  | zero => rfl
  | succ k ih =>
    unfold State.shrinkRegion
    split
    · rfl
    · split
      · rfl
      · exact (ih _).trans (foldl_keeps (·.ktl.lostBanks) _ (fun s c => congrArg Ktl.lostBanks (streamOn_ktl s c p _)) _ _)

theorem rd_reloadRegion (s : State) (p a : Nat) : (s.reloadRegion p).rd a = s.rd a := by
  unfold State.reloadRegion
  exact foldl_keeps (·.rd a) _ (fun s x => State.rd_reloadImage s x _ _ a) _ _

theorem reloadImage_lostBanks (s : State) (x : Img) (c tries : Nat) : (s.reloadImage x c tries).ktl.lostBanks = s.ktl.lostBanks := by
  rw [State.reloadImage_ktl]

theorem reloadRegion_lostBanks (s : State) (p : Nat) : (s.reloadRegion p).ktl.lostBanks = s.ktl.lostBanks := by
  unfold State.reloadRegion
  exact foldl_keeps (·.ktl.lostBanks) _ (fun s x => reloadImage_lostBanks s x _ _) _ _

theorem rd_loseBank_ne (s : State) (p : Nat) {a : Nat} (h : a ≠ 0x20030) : (s.loseBank p).rd a = s.rd a := by
  unfold State.loseBank
  dsimp only
  rw [rd_reloadRegion, rd_shrinkRegion_ne _ _ h, rd_makeRoom]
  rfl

/-- One bank more of the pitch is lost (R152). -/
theorem loseBank_lostBanks (s : State) (p : Nat) : (s.loseBank p).ktl.lostBanks = tput 0 p (tget 0 s.ktl.lostBanks p + 1) s.ktl.lostBanks := by
  unfold State.loseBank
  dsimp only
  rw [reloadRegion_lostBanks, shrinkRegion_lostBanks, makeRoom_lostBanks]
  rfl

/- Slots of the forwarding pool -/

theorem rd_noteDiscard (s : State) (h : FlitH) (kind a : Nat) : (s.noteDiscard h kind).rd a = s.rd a := by
  unfold State.noteDiscard
  split <;> rfl

theorem noteDiscard_xch (s : State) (h : FlitH) (kind : Nat) : (s.noteDiscard h kind).xch = s.xch := by
  unfold State.noteDiscard
  split <;> rfl

theorem noteDiscard_links (s : State) (h : FlitH) (kind : Nat) : (s.noteDiscard h kind).links = s.links := by
  unfold State.noteDiscard
  split <;> rfl

/-- Only a discarded ring chunk is noted (R304). -/
theorem noteDiscard_ctxs (s : State) (h : FlitH) {kind : Nat} (other : kind ≠ 7) : (s.noteDiscard h kind).ctxs = s.ctxs := by
  unfold State.noteDiscard
  rw [if_neg (fun e => other e.1)]

theorem rd_purgeSlot (s : State) (id a : Nat) : (s.purgeSlot id).rd a = s.rd a := by
  unfold State.purgeSlot
  split <;> rfl

theorem purgeSlot_ctxs (s : State) (id : Nat) : (s.purgeSlot id).ctxs = s.ctxs := by
  unfold State.purgeSlot
  split <;> rfl

section Purge

variable (s : State) {id : Nat} (nonzero : id ≠ 0)
include nonzero

theorem purgeSlot_pool : (s.purgeSlot id).xch.pool = s.xch.pool.filter (fun y => decide (y.id ≠ id)) := by
  unfold State.purgeSlot
  rw [if_neg nonzero]
  rfl

theorem purgeSlot_ports : (s.purgeSlot id).links.ports = s.links.ports.map (fun p => p.dropSlot id) := by
  unfold State.purgeSlot
  rw [if_neg nonzero]
  rfl

/-- No port keeps a queued flit of the slot (R258). -/
theorem purgeSlot_queues : ∀ q ∈ (s.purgeSlot id).links.ports, ∀ fs ∈ q.queue, ∀ f ∈ fs, f.slot ≠ id := by
  intro q hq fs hfs f hf
  rw [purgeSlot_ports s nonzero] at hq
  obtain ⟨q', -, rfl⟩ := List.mem_map.mp hq
  obtain ⟨fs', -, rfl⟩ := List.mem_map.mp hfs
  simpa using (List.mem_filter.mp hf).2

end Purge

/-- How a dropped slot is counted: as a steeped drop where its chunk is steeped (R258). -/
def State.countDrop (s : State) (steep : Nat) : State := if steep = 0 then s.count 0x50024 1 else s.count 0x7001C steep

theorem rd_countDrop_ne (s : State) (steep : Nat) {a : Nat} (pool : a ≠ 0x50024) (steeped : a ≠ 0x7001C) :
    (s.countDrop steep).rd a = s.rd a := by
  unfold State.countDrop
  split
  · exact State.rd_count_ne _ _ pool
  · exact State.rd_count_ne _ _ steeped

theorem countDrop_still (s : State) (steep : Nat) : (s.countDrop steep).still = s.still := by
  unfold State.countDrop
  split <;> rfl

theorem countDrop_pool (s : State) : (s.countDrop 0).rd 0x50024 = (s.rd 0x50024 + 1) % 2 ^ 32 ∧ (s.countDrop 0).rd 0x7001C = s.rd 0x7001C := by
  unfold State.countDrop
  rw [if_pos rfl]
  exact ⟨by rw [State.rd_count, if_pos rfl], State.rd_count_ne _ _ (by decide)⟩

theorem countDrop_steeped (s : State) {steep : Nat} (h : steep ≠ 0) :
    (s.countDrop steep).rd 0x50024 = s.rd 0x50024 ∧ (s.countDrop steep).rd 0x7001C = (s.rd 0x7001C + steep) % 2 ^ 32 := by
  unfold State.countDrop
  rw [if_neg h]
  exact ⟨State.rd_count_ne _ _ (by decide), by rw [State.rd_count, if_pos rfl]⟩

/-- A slot of the forwarding pool is dropped (R258). -/
def State.loseSlot (s : State) (x : PoolSlot) (id : Nat) : State :=
  (((s.countDrop x.steep).purgeSlot id).noteDiscard x.h x.kind).setParts (fun ps => ps.filter (fun y => decide (y.slot ≠ id)))

section Slot

variable (s : State) (x : PoolSlot) (id : Nat)

theorem rd_loseSlot (a : Nat) : (s.loseSlot x id).rd a = (s.countDrop x.steep).rd a := by
  show (((s.countDrop x.steep).purgeSlot id).noteDiscard x.h x.kind).rd a = _
  rw [rd_noteDiscard, rd_purgeSlot]

theorem loseSlot_ctxs (other : x.kind ≠ 7) : (s.loseSlot x id).ctxs = s.ctxs := by
  show (((s.countDrop x.steep).purgeSlot id).noteDiscard x.h x.kind).ctxs = _
  rw [noteDiscard_ctxs _ _ other, purgeSlot_ctxs, State.still_ctxs (countDrop_still ..)]

variable {id} (nonzero : id ≠ 0)
include nonzero

theorem loseSlot_pool : (s.loseSlot x id).xch.pool = s.xch.pool.filter (fun y => decide (y.id ≠ id)) := by
  show (((s.countDrop x.steep).purgeSlot id).noteDiscard x.h x.kind).xch.pool = _
  rw [noteDiscard_xch, purgeSlot_pool _ nonzero, State.still_xch (countDrop_still ..)]

theorem loseSlot_queues : ∀ q ∈ (s.loseSlot x id).links.ports, ∀ fs ∈ q.queue, ∀ f ∈ fs, f.slot ≠ id := by
  have ports : (s.loseSlot x id).links.ports = ((s.countDrop x.steep).purgeSlot id).links.ports := by
    have e := congrArg Links.ports (noteDiscard_links ((s.countDrop x.steep).purgeSlot id) x.h x.kind)
    exact e
  rw [ports]
  exact purgeSlot_queues _ nonzero

end Slot

/- What a parity failure does, by kind -/

section Kinds

variable {p i sub : Nat} {s : State} (alive : s.alive = true) (live : s.pitchLive p = true)
include alive live

theorem parityFail_caddyRow {x : Img} (found : s.ktl.imgs.find? (fun x => decide (x.id = i ∧ x.pitch = p) && x.usable) = some x) :
    exec (.storageParityFail 0 p i sub) s =
      .next (((s.detect.remap p 3 i).abandon sub).reloadImage x (((s.wanters x).head?).getD x.loader) x.tries) :=
  congrArg Host.Outcome.next (by simp only [parityFailOp, alive, live, found]; rfl)

theorem parityFail_accRow (busy : (tget {} s.ktl.cores i).busy = true) (here : i / 32 = p) :
    exec (.storageParityFail 1 p i sub) s = .next ((s.detect.remap p 3 i).loseAcc i) :=
  congrArg Host.Outcome.next (by simp [parityFailOp, alive, live, busy, here])

theorem parityFail_hotRecord_alone (alone : s.pitchesUp.length ≤ 1) :
    exec (.storageParityFail 2 p i sub) s = .next ((s.detect.remap p 3 i).ctxFault i 0x18) :=
  congrArg Host.Outcome.next (by simp [parityFailOp, alive, live, alone])

theorem parityFail_hotRecord (others : 1 < s.pitchesUp.length) :
    exec (.storageParityFail 2 p i sub) s = .next (s.detect.remap p 3 i) :=
  congrArg Host.Outcome.next (by simp [parityFailOp, alive, live, others])

theorem parityFail_slot {x : PoolSlot} (found : s.xch.pool.find? (fun x => decide (x.id = i ∧ x.where_ = 0 ∧ x.pitch = p)) = some x) :
    exec (.storageParityFail 3 p i sub) s = .next ((s.detect.remap p 3 i).loseSlot x i) :=
  congrArg Host.Outcome.next (by simp only [parityFailOp, alive, live, found]; rfl)

section Drain

variable (found : s.drain.any (fun d => decide (d.ctx = i ∧ d.epoch = sub)) = true)
include found

theorem parityFail_drain_alone (alone : s.pitchesUp.length ≤ 1) :
    exec (.storageParityFail 4 p i sub) s = .next ((s.detect.remap p 3 i).ctxFault i 0x0E) :=
  congrArg Host.Outcome.next (by simp only [parityFailOp, alive, live, found, alone]; rfl)

theorem parityFail_drain (others : 1 < s.pitchesUp.length) :
    exec (.storageParityFail 4 p i sub) s = .next (s.detect.remap p 3 i) :=
  congrArg Host.Outcome.next (by simp only [parityFailOp, alive, live, found, show ¬ s.pitchesUp.length ≤ 1 by omega]; rfl)

end Drain

theorem parityFail_bank (spare : s.rdF (0xC0000 + 4 * p) 22 2 < 2) :
    exec (.storageParityFail 5 p i sub) s = .next ((s.detect.remap p 2 i).reloadRegion p) :=
  congrArg Host.Outcome.next (by simp only [parityFailOp, alive, live, spare]; rfl)

theorem parityFail_bank_lost (none : 2 ≤ s.rdF (0xC0000 + 4 * p) 22 2) :
    exec (.storageParityFail 5 p i sub) s = .next (s.detect.loseBank p) :=
  congrArg Host.Outcome.next (by simp only [parityFailOp, alive, live, show ¬ s.rdF (0xC0000 + 4 * p) 22 2 < 2 by omega]; rfl)

theorem parityFail_held {h : HoldE} (found : s.hold[i]? = some h) (here : h.rec_.pitch = p) :
    exec (.storageParityFail 6 p i sub) s = .next ((s.detect.remap p 3 i).loseHeld h) :=
  congrArg Host.Outcome.next (by simp only [parityFailOp, alive, live, found, here]; rfl)

theorem parityFail_retry (down : (s.port i).st ≠ 2) (some_ : (s.port i).retry ≠ []) (here : portPitch i = p) :
    exec (.storageParityFail 7 p i sub) s = .next ((s.detect.remap p 3 i).retryLost i) :=
  congrArg Host.Outcome.next (by simp [parityFailOp, alive, live, down, some_, here])

theorem parityFail_piece :
    exec (.storageParityFail 8 p i sub) s = .next ((s.detect.remap p 3 i).badPiece i (sub % 512) (sub / 512)) :=
  congrArg Host.Outcome.next (by simp [parityFailOp, alive, live])

end Kinds

end Sys2Proof.Machine
end

section
/-! Obligation `StorageParityIsContained`, kind by kind (R31, R33, R93, R141, R152, R240, R258, R300, R320, R432). -/

namespace Sys2Proof.Machine

section Rows

variable {p i sub : Nat} {s : State} (hp : p < 4)
include hp

/-- Steps that leave the counts of detections and spares keep what the detection and its spare row counted. -/
theorem spared_row {t : State} (same : ∀ a, 0xC0000 ≤ a → a ≤ 0xC0010 → t.rd a = (s.detect.remap p 3 i).rd a) : s.Spared t p 3 :=
  spared_of_keeps hp (s.detect_remap_spared 3 i hp) same

theorem caddyRow_contained {x : Img} (here : x ∈ s.ktl.imgs) (c : Nat) :
    let t := ((s.detect.remap p 3 i).abandon sub).reloadImage x c x.tries
    s.Spared t p 3 ∧ ((tget {} s.ktl.cores sub).busy = true → tget {} t.ktl.cores sub = {}) ∧
      x.anew s.ktl.nextImg c x.tries ∈ t.ktl.imgs := by
  intro t
  have sound := State.detect_remap_sound s p 3 i
  have still : ((s.detect.remap p 3 i).abandon sub).ktl.imgs = s.ktl.imgs ∧
      ((s.detect.remap p 3 i).abandon sub).ktl.nextImg = s.ktl.nextImg := by
    rw [State.abandon_ktl, ← imgs_of_sound sound, ← nextImg_of_sound sound]
    split <;> exact ⟨rfl, rfl⟩
  obtain ⟨imgs, next⟩ := still
  refine ⟨spared_row (i := i) hp fun a _ _ => ?_, fun busy => ?_, ?_⟩
  · rw [State.rd_reloadImage, State.rd_abandon]
  · rw [← cores_of_sound sound] at busy
    show tget {} (State.ktl (State.reloadImage ..)).cores sub = {}
    rw [State.reloadImage_ktl]
    exact State.abandon_core _ busy
  · rw [← next]
    exact State.anew_mem_reloadImage _ (imgs ▸ here) c x.tries

theorem accRow_contained (busy : (tget {} s.ktl.cores i).busy = true) :
    s.Spared ((s.detect.remap p 3 i).loseAcc i) p 3 ∧ tget {} ((s.detect.remap p 3 i).loseAcc i).ktl.cores i = {} := by
  rw [← cores_of_sound (State.detect_remap_sound s p 3 i)] at busy
  exact ⟨spared_row hp fun a _ _ => State.rd_loseAcc .., State.loseAcc_core _ busy⟩

/-- What a context keeps in one place only is lost with it: the context's fault (R240). -/
theorem fault_contained (nonzero : i ≠ 0) (active : (s.ctx i).active = true) (code : Nat) :
    let t := (s.detect.remap p 3 i).ctxFault i code
    s.Spared t p 3 ∧ (t.ctx i).fault = code ∧ (t.ctx i).tdown = true := by
  intro t
  rw [← ctx_of_sound (State.detect_remap_sound s p 3 i)] at active
  obtain ⟨fault, down, -⟩ := State.ctxFault_ctx _ i code nonzero active
  refine ⟨spared_row (i := i) hp fun a low high => State.rd_ctxFault_ne _ _ _ ?_, fault, down⟩
  simp [faultRegs, lntRegs]
  omega

theorem slot_contained (nonzero : i ≠ 0) (x : PoolSlot) :
    let t := (s.detect.remap p 3 i).loseSlot x i
    s.Spared t p 3 ∧ (∀ y ∈ t.xch.pool, y.id ≠ i) ∧ (∀ y, y.id ≠ i → (y ∈ t.xch.pool ↔ y ∈ s.xch.pool)) ∧
      (x.steep = 0 → t.rd 0x50024 = (s.rd 0x50024 + 1) % 2 ^ 32 ∧ t.rd 0x7001C = s.rd 0x7001C) ∧
      (x.steep ≠ 0 → t.rd 0x50024 = s.rd 0x50024 ∧ t.rd 0x7001C = (s.rd 0x7001C + x.steep) % 2 ^ 32) ∧
      (∀ q ∈ t.links.ports, ∀ fs ∈ q.queue, ∀ f ∈ fs, f.slot ≠ i) ∧ (x.kind ≠ 7 → t.ctxs = s.ctxs) := by
  intro t
  have sound := State.detect_remap_sound s p 3 i
  have ctxs := State.ctxs_of_sound sound
  have pool : t.xch.pool = s.xch.pool.filter (fun y => decide (y.id ≠ i)) :=
    (loseSlot_pool _ x nonzero).trans (by rw [xch_of_sound sound])
  have pools := State.rd_detect_remap_ne s 3 i hp (a := 0x50024) (by decide) (by decide)
  have steeped := State.rd_detect_remap_ne s 3 i hp (a := 0x7001C) (by decide) (by decide)
  refine ⟨spared_row (i := i) hp fun a _ _ => ?_, fun y hy => ?_, fun y hy => ?_, fun zero => ?_, fun pos => ?_,
    loseSlot_queues _ x nonzero, fun other => (loseSlot_ctxs _ x i other).trans ctxs⟩
  · rw [rd_loseSlot, rd_countDrop_ne _ _ (by omega) (by omega)]
  · rw [pool] at hy
    simpa using (List.mem_filter.mp hy).2
  · rw [pool, List.mem_filter]
    simp [hy]
  · rw [rd_loseSlot, rd_loseSlot, zero, ← pools, ← steeped]
    exact countDrop_pool _
  · rw [rd_loseSlot, rd_loseSlot, ← pools, ← steeped]
    exact countDrop_steeped _ pos

theorem bank_contained :
    let t := (s.detect.remap p 2 i).reloadRegion p
    s.Spared t p 2 ∧ t.ktl.lostBanks = s.ktl.lostBanks :=
  ⟨spared_of_keeps hp (s.detect_remap_spared 2 i hp) fun _ _ _ => rd_reloadRegion ..,
    (reloadRegion_lostBanks ..).trans (lostBanks_of_sound (State.detect_remap_sound s p 2 i))⟩

omit hp in
theorem lostBank_contained : s.Detected (s.detect.loseBank p) ∧
    tget 0 (s.detect.loseBank p).ktl.lostBanks p = tget 0 s.ktl.lostBanks p + 1 := by
  constructor
  · unfold State.Detected
    rw [rd_loseBank_ne _ _ (by decide)]
    exact s.detect_detected
  · rw [loseBank_lostBanks, tget_tput_self, lostBanks_of_sound s.detect_sound]

/-- A held entry gone from the steep hold, and counted (R320). -/
def State.unheld (s : State) (h : HoldE) : State := { s.count 0x7001C 1 with hold := s.hold.filter (fun x => decide (x ≠ h)) }

/-- A confirmed record is to be served in the running step it belongs to. -/
def State.serve (s : State) (h : HoldE) (r : LandRec) : State := s.modStep h.ctx (fun st =>
  if st.epoch = h.epoch then { st with dst := { st.dst with recs := st.dst.recs ++ [r] } } else st)

omit hp in
theorem loseHeld_none (s : State) {h : HoldE} (none : h.conf = none) : s.loseHeld h = s.unheld h := by
  unfold State.loseHeld
  dsimp only
  rw [none]
  rfl

omit hp in
theorem loseHeld_some (s : State) {h : HoldE} {r : LandRec} (some_ : h.conf = some r) :
    s.loseHeld h = ((s.unheld h).serve h r).flushAll h.ctx := by
  unfold State.loseHeld
  dsimp only
  rw [some_]
  rfl

theorem unheld_contained (h : HoldE) :
    let t := (s.detect.remap p 3 i).unheld h
    s.Spared t p 3 ∧ t.hold = s.hold.filter (fun y => decide (y ≠ h)) ∧ t.rd 0x7001C = (s.rd 0x7001C + 1) % 2 ^ 32 ∧
      t.ctxs = s.ctxs := by
  intro t
  have sound := State.detect_remap_sound s p 3 i
  have ctxs := State.ctxs_of_sound sound
  have reads (a : Nat) : t.rd a = ((s.detect.remap p 3 i).count 0x7001C 1).rd a := rfl
  refine ⟨spared_row (i := i) hp fun a _ _ => ?_, ?_, ?_, ctxs⟩
  · rw [reads, State.rd_count_ne _ _ (by omega)]
  · show (s.detect.remap p 3 i).hold.filter _ = _
    rw [hold_of_sound sound]
  · rw [reads, State.rd_count, if_pos rfl, State.rd_detect_remap_ne s 3 i hp (by decide) (by decide)]

theorem retry_contained {d : Nat} (port : i < s.links.ports.length) (dir : s.portDir i = some d) (none : s.workPorts d = []) :
    let t := (s.detect.remap p 3 i).retryLost i
    s.Spared t p 3 ∧ t.port i = { (s.port i).empty with queue := (s.port i).held.map Prod.snd } ∧
      (∀ n, n ≠ i → t.port n = s.port n) ∧ t.ctxs = s.ctxs := by
  intro t
  have sound := State.detect_remap_sound s p 3 i
  have ctxs := State.ctxs_of_sound sound
  have links := links_of_sound sound
  have lost : t = (s.detect.remap p 3 i).modPort i (fun p => { p.empty with queue := p.held.map Prod.snd }) := by
    show State.retryLost .. = _
    unfold State.retryLost
    rw [portDir_of_links links, dir]
    dsimp only
    rw [workPorts_of_links links, none, if_neg (by simp)]
  rw [lost]
  refine ⟨spared_row (i := i) hp fun a _ _ => rfl, ?_, fun n ne => ?_, ctxs⟩
  · rw [State.port_modPort_self _ _ (by rw [links]; exact port), port_of_links links]
  · rw [State.port_modPort_ne _ _ ne, port_of_links links]

/-- A piece that the gather half holds is bad (R300). -/
def CollInst.badAt (x : CollInst) (i : Nat) : CollInst := { x with rx := x.rx.zipIdx.map (fun r =>
  if r.2 = i ∧ x.stage = 1 ∧ r.1.h.gather = true then { r.1 with bad := true } else r.1) }

omit hp in
theorem badAt_rx {x : CollInst} {n : Nat} {r : RingIn} (gathers : x.stage = 1) (found : x.rx[n]? = some r) (half : r.h.gather = true) :
    (x.badAt n).rx = x.rx.set n { r with bad := true } := by
  apply List.ext_getElem?
  intro j
  show (x.rx.zipIdx.map _)[j]? = _
  rw [List.getElem?_map, List.getElem?_zipIdx, List.getElem?_set]
  by_cases e : n = j
  · subst e
    obtain ⟨inside, rfl⟩ := List.getElem?_eq_some_iff.mp found
    simp [gathers, half, inside]
  · rw [if_neg e]
    cases x.rx[j]? with
    | none => rfl
    | some y => simp [Ne.symm e]

theorem piece_contained {st : Step} {x : CollInst} {k n : Nat} {r : RingIn} (step : s.step? i = some st) (mem : x ∈ st.insts)
    (this : x.cinst = k) (gathers : x.stage = 1) (found : x.rx[n]? = some r) (half : r.h.gather = true) :
    let t := (s.detect.remap p 3 i).badPiece i k n
    ∃ st' x', s.Spared t p 3 ∧ t.step? i = some st' ∧ x' ∈ st'.insts ∧ x'.cinst = x.cinst ∧
      x'.rx = x.rx.set n { r with bad := true } ∧ (∀ d, d ≠ i → t.ctx d = s.ctx d) := by
  intro t
  have sound := State.detect_remap_sound s p 3 i
  rw [← step_of_sound sound] at step
  refine ⟨_, x.badAt n, spared_row (i := i) hp fun a _ _ => rfl, State.step_modStep _ _ step, ?_, rfl, badAt_rx gathers found half,
    fun d ne => (State.ctx_modCtx_ne _ _ ne).trans (ctx_of_sound sound d)⟩
  exact List.mem_map.mpr ⟨x, mem, if_pos this⟩

end Rows

/-- Settles O48: kind by kind, the detection and its spare leave the rest of the block as it was (`detect_remap_sound`), and
what follows leaves the counts of detections and spares (`spared_row`). -/
theorem storageParityIsContained : Obligations.StorageParityIsContained := by
  unfold Obligations.StorageParityIsContained
  intro p i sub s hp alive live det row
  have row_of {t : State} (h : s.Spared t p 3) : row t := ⟨h.detected, h.used⟩
  have sound := State.detect_remap_sound s p 3 i
  have spared := s.detect_remap_spared 3 i hp
  refine ⟨fun x found => ?caddy, fun busy here => ?acc, fun alone nonzero active => ?hotAlone, fun others => ?hot,
    fun x nonzero found => ?slot, fun found => ⟨fun alone nonzero active => ?drainAlone, fun others => ?drain⟩, ?bank,
    fun h found here => ⟨fun none => ?unheld, fun r some_ => ?held⟩, fun d port down waits here dir none => ?retry,
    fun st x r step mem this gathers found half => ?piece⟩
  case caddy =>
    obtain ⟨counts, core, img⟩ := caddyRow_contained (i := i) (sub := sub) hp (List.mem_of_find?_eq_some found)
      (((s.wanters x).head?).getD x.loader)
    exact ⟨_, parityFail_caddyRow alive live found, row_of counts, core, img⟩
  case acc =>
    obtain ⟨counts, core⟩ := accRow_contained hp busy
    exact ⟨_, parityFail_accRow alive live busy here, row_of counts, core⟩
  case hotAlone =>
    obtain ⟨counts, fault, down⟩ := fault_contained hp nonzero active 0x18
    exact ⟨_, parityFail_hotRecord_alone alive live alone, row_of counts, fault, down⟩
  case hot => exact ⟨_, parityFail_hotRecord alive live others, row_of spared, State.ctxs_of_sound sound⟩
  case slot =>
    obtain ⟨counts, rest⟩ := slot_contained (s := s) hp nonzero x
    exact ⟨_, parityFail_slot alive live found, row_of counts, rest⟩
  case drainAlone =>
    obtain ⟨counts, fault, down⟩ := fault_contained hp nonzero active 0x0E
    exact ⟨_, parityFail_drain_alone alive live found alone, row_of counts, fault, down⟩
  case drain =>
    exact ⟨_, parityFail_drain alive live found others, row_of spared, State.ctxs_of_sound sound, drain_of_sound sound⟩
  case bank =>
    by_cases spare : s.rdF (0xC0000 + 4 * p) 22 2 < 2
    · obtain ⟨counts, banks⟩ := bank_contained (s := s) (i := i) hp
      have used : bits (State.rd _ (0xC0000 + 4 * p)) 22 2 = min (bits (s.rd (0xC0000 + 4 * p)) 22 2 + 1) 3 := counts.used
      refine ⟨_, parityFail_bank alive live spare, counts.detected, fun _ => ⟨?_, banks⟩, fun none => by omega⟩
      unfold State.rdF at spare ⊢
      rw [used]
      omega
    · obtain ⟨counts, banks⟩ := lostBank_contained (s := s) (p := p)
      exact ⟨_, parityFail_bank_lost alive live (by omega), counts, fun h => absurd h spare, fun _ => banks⟩
  case unheld =>
    obtain ⟨counts, hold, count, ctxs⟩ := unheld_contained (s := s) (i := i) hp h
    have run := parityFail_held (sub := sub) alive live found here
    rw [loseHeld_none _ none] at run
    exact ⟨_, run, row_of counts, hold, count, ctxs⟩
  case held =>
    obtain ⟨counts, hold, count, ctxs⟩ := unheld_contained (s := s) (i := i) hp h
    have run := parityFail_held (sub := sub) alive live found here
    rw [loseHeld_some _ some_] at run
    refine ⟨_, run, row_of ⟨counts.detected, counts.used⟩, hold, count, fun st step epoch => ?_, fun d ne => ?_⟩
    · have before : ((s.detect.remap p 3 i).unheld h).step? h.ctx = some st := by
        unfold State.step?
        rw [State.ctx_of_ctxs ctxs]
        exact step
      exact (State.step_modStep _ _ before).trans (congrArg some (if_pos epoch))
    · exact (State.ctx_modCtx_ne _ _ ne).trans (State.ctx_of_ctxs ctxs d)
  case retry =>
    obtain ⟨counts, rest⟩ := retry_contained hp port dir none
    exact ⟨_, parityFail_retry alive live down waits here, row_of counts, rest⟩
  case piece =>
    obtain ⟨st', x', counts, rest⟩ := piece_contained hp step mem this gathers found half
    exact ⟨_, st', x', parityFail_piece alive live, row_of counts, rest⟩

end Sys2Proof.Machine
end

section
/-! IMAGE_LOAD_DONE (R150) and TILE_START (R142, R151, R152, R168). -/

namespace Sys2Proof.Machine

/- A loaded image -/

/-- An image becomes usable with the bytes read (R150). -/
def State.useImage (s : State) (i : Img) (bs : Bytes) : State :=
  s.modKtl (fun x => { x with imgs := x.imgs.map (fun j => if j.id = i.id then { j with usable := true, bytes := bs } else j) })

section Loaded

variable {c p : Nat} {i : Img} {bs : Bytes} {s : State}
  (found : s.ktl.imgs.find? (fun j => decide (j.loader = c ∧ j.pitch = p) && !j.usable && (s.loadedImage j).isSome) = some i)
  (loaded : s.loadedImage i = some bs)
  (alive : s.alive = true)
include found loaded alive

theorem imageLoad_good (sums : i.shadow = true ∨ crcN bs = i.icheck) (good : imageBad i.lfmt i.cols i.d32 bs = false) :
    exec (.imageLoadDone c p) s = .next ((s.dropLoad i).useImage i bs) := by
  have checks : ¬(i.shadow = false ∧ crcN bs ≠ i.icheck) := fun ⟨own, differs⟩ => sums.elim (by simp [own]) differs
  exact congrArg Host.Outcome.next (by simp only [alive, if_true, imageLoadDoneOp, found, loaded, if_neg checks, good]; rfl)

theorem imageLoad_bad (sums : i.shadow = true ∨ crcN bs = i.icheck) (bad : imageBad i.lfmt i.cols i.d32 bs = true) :
    exec (.imageLoadDone c p) s = .next ((s.dropLoad i).ctxFault c 0x09) := by
  have checks : ¬(i.shadow = false ∧ crcN bs ≠ i.icheck) := fun ⟨own, differs⟩ => sums.elim (by simp [own]) differs
  exact congrArg Host.Outcome.next (by simp only [alive, imageLoadDoneOp, found, loaded, if_neg checks, bad, if_true])

section Differs

variable (own : i.shadow = false) (differs : crcN bs ≠ i.icheck)
include own differs

theorem imageLoad_again (first : i.tries < 2) : exec (.imageLoadDone c p) s = .next ((s.dropLoad i).reloadImage i c 2) :=
  congrArg Host.Outcome.next (by simp only [alive, if_true, imageLoadDoneOp, found, loaded, if_pos (And.intro own differs), if_pos first])

theorem imageLoad_fault (second : 2 ≤ i.tries) : exec (.imageLoadDone c p) s = .next ((s.dropLoad i).ctxFault c 0x09) :=
  congrArg Host.Outcome.next (by
    simp only [alive, if_true, imageLoadDoneOp, found, loaded, if_pos (And.intro own differs), if_neg (Nat.not_lt.mpr second)])

end Differs

end Loaded

theorem useImage_mem (s : State) {i : Img} (here : i ∈ s.ktl.imgs) (bs : Bytes) :
    { i with usable := true, bytes := bs } ∈ (s.useImage i bs).ktl.imgs := List.mem_map.mpr ⟨i, here, if_pos rfl⟩

/-- Other images stay as they were. -/
theorem useImage_others (s : State) (i : Img) (bs : Bytes) {j : Img} (other : j.id ≠ i.id) :
    j ∈ (s.useImage i bs).ktl.imgs ↔ j ∈ s.ktl.imgs := by
  constructor
  · intro mem
    obtain ⟨k, here, rfl⟩ := List.mem_map.mp mem
    by_cases e : k.id = i.id
    · rw [if_pos e] at other
      exact absurd e other
    · rwa [if_neg e]
  · exact fun here => List.mem_map.mpr ⟨j, here, if_neg other⟩

/- Requests posted in a row -/

theorem posts_rest (l : List MemReq) (s : State) : l.foldl State.memPost s = { s with mem := (l.foldl State.memPost s).mem } := by
  induction l generalizing s with
  | nil => rfl
  | cons r l ih => exact ih (s.memPost r)

theorem posts_wait (l : List MemReq) (s : State) : (l.foldl State.memPost s).mem.wait = s.mem.wait ++ numbered s.mem.nextId l := by
  rw [State.posts_mem]
  rfl

/-- The requests that load an image, one for each 4 KiB of it (R150). -/
def Img.reads (i : Img) : List MemReq := (List.range (ceilDiv i.len 4096)).map (fun k =>
  readReq i.loader 1 (i.addr + 4096 * k) (min 4096 (i.len - 4096 * k)) ⟨.imageRead, imgIdx i.id k⟩)

theorem postImage_eq (s : State) (i : Img) : s.postImage i = i.reads.foldl State.memPost s := List.foldl_map.symm

theorem reloadImage_ctxs (s : State) (i : Img) (c tries : Nat) : (s.reloadImage i c tries).ctxs = s.ctxs := by
  unfold State.reloadImage
  dsimp only
  rw [postImage_eq, posts_rest]
  rfl

/-- An image that is loaded again is asked for once more, behind what waits. -/
theorem reloadImage_wait (s : State) (i : Img) (c tries : Nat) : (s.reloadImage i c tries).mem.wait =
    s.mem.wait ++ numbered s.mem.nextId (i.anew s.ktl.nextImg c tries).reads := by
  unfold State.reloadImage
  dsimp only
  rw [postImage_eq, posts_wait]
  rfl

theorem numbered_length (n : Nat) (l : List MemReq) : (numbered n l).length = l.length := by simp [numbered]

/- A tile that starts -/

/-- The requests for the lines of a streamed tile (R152). -/
def Step.lineReads (st : Step) (c : Nat) (r : Run) : List MemReq := (st.tileLines r).map (fun x =>
  readReq c 1 x.2 (lineBytes (if st.tileShadow r then 1 else st.bind.dir.lfmt)) ⟨.lineRead, x.1⟩)

theorem postLines_eq (s : State) (c : Nat) (st : Step) (r : Run) : s.postLines c st r = (st.lineReads c r).foldl State.memPost s :=
  List.foldl_map.symm

/-- What core `k` runs once it has taken a tile. -/
def State.newRun (s : State) (k c : Nat) (st : Step) (kind g cg sl : Nat) : Run :=
  let r : Run := { busy := true, ctx := c, epoch := st.epoch, kind := kind, g := g, c := cg, s := sl, start := s.el, id := s.ktl.nextTile }
  let str := decide (kind ≠ 3) && st.streams (st.tileShadow r) (k / 32)
  { r with str := str, wait := str }

/-- The state with the tile on its core, before a streamed tile asks for its lines. -/
def State.tileOn (s : State) (k c : Nat) (st : Step) (r : Run) : State :=
  ((s.modStep c (fun _ => st)).holdImages c).modKtl (fun x => { x with cores := tput {} k r x.cores, nextTile := x.nextTile + 1 })

theorem startTile_eq (s : State) (k c : Nat) (st : Step) (kind g cg sl : Nat) :
    s.startTile k c st kind g cg sl =
      let r := s.newRun k c st kind g cg sl
      (if r.str then st.lineReads c r else []).foldl State.memPost (s.tileOn k c st r) := by
  unfold State.startTile
  dsimp only
  rw [postLines_eq]
  show (if (s.newRun k c st kind g cg sl).str then _ else _) = _
  split <;> rfl

theorem tileFor_step {s : State} {n k : Nat} {c : Nat} {rest : Step × Nat × Nat × Nat × Nat} (h : s.tileFor n k = some (c, rest)) :
    ∃ st, s.step? c = some st := by
  unfold State.tileFor at h
  obtain ⟨d, -, found⟩ := List.exists_of_findSome?_eq_some h
  cases step : s.step? d with
  | none => simp [step] at found
  | some st =>
    rw [step] at found
    obtain ⟨t, -, e⟩ := Option.map_eq_some_iff.mp found
    obtain ⟨rfl, -⟩ := Prod.mk.inj e
    exact ⟨st, step⟩

section Held

variable {s : State} {c : Nat} {old : Step} (step : s.step? c = some old) (st : Step)
include step

theorem holdImages_eq : s.holdImages c = { s.modStep c (fun st => { st with sc := { st.sc with tiled := true } }) with
    ktl := { s.ktl with imgs := (s.holdImages c).ktl.imgs } } := by
  unfold State.holdImages
  rw [step]
  rfl

theorem holdImages_ctx {d : Nat} (ne : d ≠ c) : (s.holdImages c).ctx d = s.ctx d := by
  have ctxs : (s.holdImages c).ctxs = (s.modStep c (fun st => { st with sc := { st.sc with tiled := true } })).ctxs := by
    rw [holdImages_eq step]
  exact (State.ctx_of_ctxs ctxs d).trans (State.ctx_modCtx_ne s _ ne)

theorem tileOn_step (k : Nat) (r : Run) : (s.tileOn k c st r).step? c = some { st with sc := { st.sc with tiled := true } } := by
  have now := State.step_modStep s (fun _ => st) step
  show ((s.modStep c (fun _ => st)).holdImages c).step? c = _
  rw [holdImages_eq now]
  exact State.step_modStep _ _ now

theorem tileOn_ctx (k : Nat) (r : Run) {d : Nat} (ne : d ≠ c) : (s.tileOn k c st r).ctx d = s.ctx d :=
  (holdImages_ctx (State.step_modStep s (fun _ => st) step) ne).trans (State.ctx_modCtx_ne s _ ne)

theorem tileOn_cores (k : Nat) (r : Run) : (s.tileOn k c st r).ktl.cores = tput {} k r s.ktl.cores := by
  show tput {} k r ((s.modStep c (fun _ => st)).holdImages c).ktl.cores = _
  rw [holdImages_eq (State.step_modStep s (fun _ => st) step)]
  rfl

theorem tileOn_rest (k : Nat) (r : Run) : s.tileOn k c st r = { s with
    ctxs := (s.tileOn k c st r).ctxs
    ktl := { s.ktl with cores := (s.tileOn k c st r).ktl.cores, imgs := (s.tileOn k c st r).ktl.imgs, nextTile := s.ktl.nextTile + 1 } } := by
  unfold State.tileOn
  rw [holdImages_eq (State.step_modStep s (fun _ => st) step)]
  rfl

end Held

/-- A core takes the tile that it would take when no lower free core of the tent has one (R142, R379). -/
theorem tileStart_takes {k n c kind g cg sl : Nat} {st : Step} {s : State} (on : s.on = true) (free : s.coreFree k = true)
    (tent : s.tentWith k = some n)
    (lowest : ∀ j ∈ tentCores (s.tentWord n), j < k → s.coreFree j = true → s.tileFor n j = none)
    (tile : s.tileFor n k = some (c, st, kind, g, cg, sl)) :
    exec (.tileStart k) s = .next (s.startTile k c st kind g cg sl) := by
  have lower : ((tentCores (s.tentWord n)).filter (fun j => decide (j < k))).any
      (fun j => s.coreFree j && (s.tileFor n j).isSome) = false := by
    rw [List.any_eq_false]
    intro j hj
    obtain ⟨mem, less⟩ := List.mem_filter.mp hj
    simp only [Bool.and_eq_true, not_and]
    intro free
    rw [lowest j mem (by simpa using less) free]
    decide
  refine congrArg Host.Outcome.next ?_
  unfold tileStartOp
  simp only [on, free, Bool.and_self, if_true, tent, lower, tile]
  rfl

end Sys2Proof.Machine
end

section
/-! TILE_COMPLETE (R141, R142, R152, R362, R381, R390, R391, R393) and TILE_CHECK_FAIL (R32). -/

namespace Sys2Proof.Machine

/- Ticks and accesses charged for a tile -/

/-- `u` is `s` with `e` ticks of a tile charged to context `c`, and what its accesses cost (R381, R390, R391). -/
structure State.Ticked (s u : State) (c e : Nat) : Prop where
  rest : u = { s with ctxs := u.ctxs, pitches := u.pitches, free := u.free }
  others : ∀ d, d ≠ c → u.ctx d = s.ctx d
  self : u.ctx c = { s.ctx c with
    acct := (u.ctx c).acct
    v := ((s.ctx c).v + e * 65536 / max 1 (s.page c 4 % 65536)) % 2 ^ 64 }
  time : tget 0 (u.ctx c).acct 0 = (tget 0 (s.ctx c).acct 0 + e) % 2 ^ 64

theorem chargeTicks_ticked (s : State) (c e : Nat) : s.Ticked (s.chargeTicks c e) c e := by
  have self : (s.chargeTicks c e).ctx c = { s.ctx c with
      acct := tput 0 0 ((tget 0 (s.ctx c).acct 0 + e) % 2 ^ 64) (s.ctx c).acct
      v := ((s.ctx c).v + e * 65536 / max 1 (s.page c 4 % 65536)) % 2 ^ 64 } := by
    unfold State.chargeTicks State.acctAdd
    dsimp only
    rw [State.ctx_modCtx_self, State.ctx_modCtx_self]
  refine ⟨rfl, fun d ne => (State.ctx_modCtx_ne _ _ ne).trans (State.ctx_modCtx_ne _ _ ne), ?_, ?_⟩
  · rw [self]
  · rw [self, tget_tput_self]

/-- Energy is charged beside the ticks (R391). -/
theorem energy_time (s : State) (p c k n : Nat) : tget 0 ((s.energy p c k n).ctx c).acct 0 = tget 0 (s.ctx c).acct 0 := by
  have self : (s.energy p c k n).ctx c = (s.modCtx c (fun x => { x with
      acct := tput 0 acctFj (tget 0 x.acct acctFj + n * s.rdF (0xA0020 + 4 * k) 0 24) x.acct })).ctx c := rfl
  rw [self, State.ctx_modCtx_self, tget_tput_ne _ _ _ _ _ _ (by decide)]

theorem State.Ticked.energy {s u : State} {c e : Nat} (h : s.Ticked u c e) (p k n : Nat) : s.Ticked (u.energy p c k n) c e := by
  have charged := u.energy_charged p c k n
  refine ⟨?_, fun d ne => (charged.others d ne).trans (h.others d ne), ?_, (energy_time ..).trans h.time⟩
  · rw [charged.rest, h.rest]
  · rw [charged.self, h.self]

theorem State.Ticked.staging {s u : State} {c e : Nat} (h : s.Ticked u c e) (p : Nat) : s.Ticked (u.staging p c) c e := by
  have bumped : s.Ticked { u with free := u.free + 1 } c e :=
    ⟨by rw [h.rest], h.others, h.self, h.time⟩
  exact bumped.energy p 3 _

theorem State.Ticked.tile {s u : State} {c e : Nat} (h : s.Ticked u c e) (st : Step) (p : Nat) (r : Run) :
    s.Ticked (u.chargeTile c st p r) c e := by
  unfold State.chargeTile
  dsimp only
  split
  · exact (h.staging p).energy p _ _
  · exact (h.staging p).energy p _ _

section Free

variable (s : State) (k c : Nat)

theorem freeCore_chargeTicks (e : Nat) : (s.freeCore k).chargeTicks c e = (s.chargeTicks c e).freeCore k := by
  unfold State.freeCore State.dropLines
  show State.chargeTicks (if _ then _ else _) c e = if (tget {} s.ktl.cores k).str = true then _ else _
  split <;> rfl

theorem freeCore_energy (p n m : Nat) : (s.freeCore k).energy p c n m = (s.energy p c n m).freeCore k := by
  unfold State.freeCore State.dropLines
  show State.energy (if _ then _ else _) p c n m = if (tget {} s.ktl.cores k).str = true then _ else _
  split <;> rfl

theorem freeCore_staging (p : Nat) : (s.freeCore k).staging p c = (s.staging p c).freeCore k := by
  unfold State.freeCore State.dropLines
  show State.staging (if _ then _ else _) p c = if (tget {} s.ktl.cores k).str = true then _ else _
  split <;> rfl

/-- What a tile costs is charged before its core is freed as well as after. -/
theorem freeCore_chargeTile (st : Step) (p : Nat) (r : Run) : (s.freeCore k).chargeTile c st p r = (s.chargeTile c st p r).freeCore k := by
  unfold State.chargeTile
  dsimp only
  split
  · rw [freeCore_staging, freeCore_energy]
  · rw [freeCore_staging, freeCore_energy]

end Free

/-- Lines that a tile consumes are in the Kettle's images, or with what has been read. -/
theorem tileBad_of_rest {s t : State} (done : t.mem.done = s.mem.done) (imgs : t.ktl.imgs = s.ktl.imgs) (c : Nat) (st : Step) (p : Nat) (r : Run) :
    t.tileBad c st p r = s.tileBad c st p r := by
  have lines : t.lineOf c st p r = s.lineOf c st p r := by
    funext j b
    unfold State.lineOf State.usableImg
    rw [done, imgs]
  unfold State.tileBad
  rw [lines]

/- A tile that ends -/

section Complete

variable {k : Nat} {hv : HostView} {s : State} (alive : s.alive = true) (busy : (tget {} s.ktl.cores k).busy = true)
  (came : (tget {} s.ktl.cores k).wait = false)
include alive busy came

/-- The state in which a tile's ticks are charged, and its accesses as well where it is the running step's. -/
def State.tileCharged (s : State) (k : Nat) : State :=
  let r := tget {} s.ktl.cores k
  let u := s.chargeTicks r.ctx (s.el - r.start)
  match s.step? r.ctx with
  | none => u
  | some st => if st.epoch = r.epoch then u.chargeTile r.ctx st (k / 32) r else u

omit alive busy came in
theorem tileCharged_ticked (s : State) (k : Nat) :
    s.Ticked (s.tileCharged k) (tget {} s.ktl.cores k).ctx (s.el - (tget {} s.ktl.cores k).start) := by
  have ticks := chargeTicks_ticked s (tget {} s.ktl.cores k).ctx (s.el - (tget {} s.ktl.cores k).start)
  unfold State.tileCharged
  dsimp only
  split
  · exact ticks
  · split
    · exact ticks.tile ..
    · exact ticks

/-- A tile of a step that runs no more is charged only. -/
theorem tileComplete_over (gone : ∀ st, s.step? (tget {} s.ktl.cores k).ctx = some st → st.epoch ≠ (tget {} s.ktl.cores k).epoch) :
    exec (.tileComplete k hv) s = .next ((s.tileCharged k).freeCore k) := by
  refine congrArg Host.Outcome.next ?_
  unfold tileCompleteOp State.tileCharged
  simp only [alive, busy, came, Bool.not_true, Bool.or_false, Bool.false_eq_true, if_false]
  cases step : s.step? (tget {} s.ktl.cores k).ctx with
  | none => exact freeCore_chargeTicks ..
  | some st =>
    simp only [gone st step, ne_eq, not_false_eq_true, if_true, if_false]
    exact freeCore_chargeTicks ..

section Running

variable {st : Step} (step : s.step? (tget {} s.ktl.cores k).ctx = some st) (runs : st.epoch = (tget {} s.ktl.cores k).epoch)
include step runs

omit alive busy came in
theorem tileCharged_eq : s.tileCharged k = (s.chargeTicks (tget {} s.ktl.cores k).ctx (s.el - (tget {} s.ktl.cores k).start)).chargeTile
    (tget {} s.ktl.cores k).ctx st (k / 32) (tget {} s.ktl.cores k) := by
  unfold State.tileCharged
  simp only [step, runs, if_true]

/-- How a tile of the running step ends, by what became of the step and of the lines it reads. -/
theorem tileComplete_runs : exec (.tileComplete k hv) s = .next (
    let r := tget {} s.ktl.cores k
    let u := s.tileCharged k
    if st.cancelled then if (u.freeCore k).tilesOf r.ctx = [] then (u.freeCore k).dropFrame r.ctx else u.freeCore k
    else if r.kind = 3 then
      if hv.fault ≠ 0 then (u.freeCore k).ctxFault r.ctx hv.fault else ((u.freeCore k).storeGrads r.ctx st (k / 32) hv r).passFrame r.ctx
    else if s.linesHere r.ctx st (k / 32) r = false then if r.str then s else (s.freeCore k).passFrame r.ctx
    else if s.tileBad r.ctx st (k / 32) r then (u.freeCore k).ctxFault r.ctx 0x09 else (u.storeTile k r.ctx st r).passFrame r.ctx) := by
  have charged : ((s.freeCore k).chargeTicks (tget {} s.ktl.cores k).ctx (s.el - (tget {} s.ktl.cores k).start)).chargeTile
      (tget {} s.ktl.cores k).ctx st (k / 32) (tget {} s.ktl.cores k) = (s.tileCharged k).freeCore k := by
    rw [freeCore_chargeTicks, freeCore_chargeTile, tileCharged_eq step runs]
  have bad := tileBad_of_rest (s := s) (t := s.tileCharged k) (by rw [(tileCharged_ticked s k).rest]) (by rw [(tileCharged_ticked s k).rest])
    (tget {} s.ktl.cores k).ctx st (k / 32) (tget {} s.ktl.cores k)
  refine congrArg Host.Outcome.next ?_
  unfold tileCompleteOp
  simp only [alive, busy, came, Bool.not_true, Bool.or_false, Bool.false_eq_true, if_false, step, runs, ne_eq, not_true_eq_false,
    charged, ← tileCharged_eq step runs, bad]

end Running

end Complete

end Sys2Proof.Machine
end

section
/-! TILE_CHECK_FAIL (R10, R32), and obligation `ImagesAndTiles`. -/

namespace Sys2Proof.Machine

/- A check of a tile that fails -/

/-- `t` shows one detection more than `s`, and the same tiles, contexts, held entries and drains. -/
structure State.Noted (s t : State) : Prop where
  detected : s.Detected t
  cores : t.ktl.cores = s.ktl.cores
  ctxs : t.ctxs = s.ctxs
  hold : t.hold = s.hold
  drain : t.drain = s.drain
  el : t.el = s.el

theorem noted_of_sound {s t : State} (detected : s.Detected t) (h : t.sound = s.sound) : s.Noted t := by
  have el := congrArg (fun v : State => v.clk.el) h
  exact ⟨detected, cores_of_sound h, State.ctxs_of_sound h, hold_of_sound h, drain_of_sound h, el⟩

/-- The state once the fault of a tile's lane is counted, and spared where the lane is faulty (R31, R32). -/
def State.checked (s : State) (k l : Nat) (spared : Bool) : State := if spared then s.detect.spareLane k l else s.detect

theorem spareLane_noted (s : State) {k : Nat} (hk : k < 128) (l : Nat) : s.Noted (s.detect.spareLane k l) := by
  have hp : k / 32 < 4 := by omega
  have remapped (res i : Nat) : s.Noted (s.detect.remap (k / 32) res i) :=
    noted_of_sound (s.detect_remap_spared res i hp).detected (State.detect_remap_sound s _ res i)
  have found : s.Noted s.detect := noted_of_sound s.detect_detected s.detect_sound
  unfold State.spareLane
  dsimp only
  split
  · exact remapped 0 _
  · split
    · exact remapped 1 _
    · exact ⟨found.detected, found.cores, found.ctxs, found.hold, found.drain, found.el⟩

theorem checked_noted (s : State) {k : Nat} (hk : k < 128) (l : Nat) (spared : Bool) : s.Noted (s.checked k l spared) := by
  unfold State.checked
  split
  · exact spareLane_noted s hk l
  · exact noted_of_sound s.detect_detected s.detect_sound

theorem freeCore_core (s : State) (k : Nat) : tget {} (s.freeCore k).ktl.cores k = {} := by
  rw [State.freeCore_ktl]
  dsimp only
  rw [tget_tput_self]

theorem freeCore_rest (s : State) (k : Nat) : (s.freeCore k).hold = s.hold ∧ (s.freeCore k).drain = s.drain ∧ (s.freeCore k).ctxs = s.ctxs := by
  rw [State.freeCore_eq]
  exact ⟨rfl, rfl, rfl⟩

/-- A core that has no tile any more takes part in nothing else: what frames do next leaves it. -/
theorem freed_settled {s u t : State} {k : Nat} (noted : s.Noted u) (frames : (u.freeCore k).Settled t) :
    s.Detected t ∧ t.hold = s.hold ∧ t.drain = s.drain ∧ tget {} t.ktl.cores k = {} := by
  obtain ⟨-, regs, -, -, -, -, -, -, -, -, -, -, -, -, -, -, -, cores, -, drain, -, hold, -⟩ := settled_fields frames
  obtain ⟨hold', drain', -⟩ := freeCore_rest u k
  refine ⟨?_, hold.trans (hold'.trans noted.hold), drain.trans (drain'.trans noted.drain), ?_⟩
  · unfold State.Detected
    rw [rd_of_settled frames, State.rd_freeCore]
    exact noted.detected
  · rw [cores]
    exact freeCore_core u k

/-- A core can take tiles while its pitch runs and a physical core is behind its number (R23). -/
theorem coreOk_of_gone {s t : State} (start : t.start = s.start) (glb : t.glb = s.glb) (pitches : t.pitches = s.pitches)
    (gone : t.ktl.gone = s.ktl.gone) (k : Nat) : t.coreOk k = s.coreOk k := by
  unfold State.coreOk State.pitchUp State.pitch
  rw [start, glb, pitches, gone]

theorem passFrame_coreOk (s : State) (k c : Nat) : (s.passFrame c).coreOk k = s.coreOk k := by
  obtain ⟨-, -, glb, -, -, -, start, pitches, -⟩ := settled_fields (s.passFrame_settled c)
  exact coreOk_of_gone start glb pitches (congrArg Ktl.gone (s.passFrame_ktl c)) k

theorem freeCore_coreOk (s : State) (k j : Nat) : (s.freeCore k).coreOk j = s.coreOk j := by
  rw [State.freeCore_eq]
  rfl

section Fails

variable {k l : Nat} {spared : Bool} {s : State} (alive : s.alive = true) (busy : (tget {} s.ktl.cores k).busy = true)
include alive busy

theorem tileCheckFail_eq : exec (.tileCheckFail k l spared) s = .next (
    let r := tget {} s.ktl.cores k
    let u := s.checked k l spared
    match u.step? r.ctx with
    | none => u.freeCore k
    | some st =>
      if st.cancelled then if (u.freeCore k).tilesOf r.ctx = [] then (u.freeCore k).dropFrame r.ctx else u.freeCore k
      else if u.coreOk k then u.modKtl (fun x => { x with cores := tput {} k { r with start := u.el } x.cores })
      else (u.freeCore k).passFrame r.ctx) := by
  refine congrArg Host.Outcome.next ?_
  unfold tileCheckFailOp
  simp only [alive, busy, Bool.not_true, Bool.or_false, Bool.false_eq_true, if_false]
  rfl

variable (hk : k < 128)
include hk

theorem tileCheckFail_noStep (none : s.step? (tget {} s.ktl.cores k).ctx = none) :
    ∃ t, exec (.tileCheckFail k l spared) s = .next t ∧ s.Detected t ∧ t.hold = s.hold ∧ t.drain = s.drain ∧ tget {} t.ktl.cores k = {} := by
  have noted := checked_noted s hk l spared
  have step : (s.checked k l spared).step? (tget {} s.ktl.cores k).ctx = Option.none := by
    unfold State.step?
    rw [State.ctx_of_ctxs noted.ctxs]
    exact none
  refine ⟨(s.checked k l spared).freeCore k, ?_, freed_settled noted (settled_refl _)⟩
  rw [tileCheckFail_eq alive busy]
  simp only [step]

variable {st : Step} (step : s.step? (tget {} s.ktl.cores k).ctx = some st)
include step

omit alive busy in
theorem checked_step : (s.checked k l spared).step? (tget {} s.ktl.cores k).ctx = some st := by
  unfold State.step?
  rw [State.ctx_of_ctxs (checked_noted s hk l spared).ctxs]
  exact step

theorem tileCheckFail_cancelled (cancelled : st.cancelled = true) :
    ∃ t, exec (.tileCheckFail k l spared) s = .next t ∧ s.Detected t ∧ t.hold = s.hold ∧ t.drain = s.drain ∧ tget {} t.ktl.cores k = {} := by
  have noted := checked_noted s hk l spared
  refine ⟨_, tileCheckFail_eq alive busy, ?_⟩
  simp only [checked_step hk step, cancelled, if_true]
  split
  · exact freed_settled noted (State.dropFrame_settled ..)
  · exact freed_settled noted (settled_refl _)

/-- The tile starts again at once where its core still has a physical core behind it. -/
theorem tileCheckFail_again (runs : st.cancelled = false) (ok : (s.checked k l spared).coreOk k = true) :
    ∃ t, exec (.tileCheckFail k l spared) s = .next t ∧ s.Detected t ∧ t.hold = s.hold ∧ t.drain = s.drain ∧ t.coreOk k = true ∧
      tget {} t.ktl.cores k = { tget {} s.ktl.cores k with start := s.el } ∧ t.ctxs = s.ctxs := by
  have noted := checked_noted s hk l spared
  refine ⟨_, tileCheckFail_eq alive busy, ?_⟩
  simp only [checked_step hk step, runs, ok, Bool.false_eq_true, if_false, if_true]
  refine ⟨noted.detected, noted.hold, noted.drain, ok, ?_, noted.ctxs⟩
  rw [← noted.el]
  exact tget_tput_self ..

/-- The tile becomes ready again where no core is left. -/
theorem tileCheckFail_ready (runs : st.cancelled = false) (bad : (s.checked k l spared).coreOk k = false) :
    ∃ t, exec (.tileCheckFail k l spared) s = .next t ∧ s.Detected t ∧ t.hold = s.hold ∧ t.drain = s.drain ∧ t.coreOk k = false ∧
      tget {} t.ktl.cores k = {} ∧ ∃ st', t.step? (tget {} s.ktl.cores k).ctx = some st' ∧ st'.sc = st.sc := by
  have noted := checked_noted s hk l spared
  have settled := ((s.checked k l spared).freeCore k).passFrame_settled (tget {} s.ktl.cores k).ctx
  have freed : ((s.checked k l spared).freeCore k).step? (tget {} s.ktl.cores k).ctx = some st := by
    unfold State.step?
    rw [State.ctx_of_ctxs (freeCore_rest _ k).2.2]
    exact checked_step hk step
  obtain ⟨st', now, same⟩ := settled_step settled freed
  have scoring := congrArg Step.sc same
  refine ⟨_, tileCheckFail_eq alive busy, ?_⟩
  simp only [checked_step hk step, runs, bad, Bool.false_eq_true, if_false]
  obtain ⟨detected, hold, drain, core⟩ := freed_settled noted settled
  exact ⟨detected, hold, drain, by rw [passFrame_coreOk, freeCore_coreOk, bad], core, st', now, scoring⟩

end Fails

/- The parts of the obligation -/

theorem imageLoadDone_part (c p : Nat) (i : Img) (bs : Bytes) (s : State) (alive : s.alive = true)
    (found : s.ktl.imgs.find? (fun j => decide (j.loader = c ∧ j.pitch = p) && !j.usable && (s.loadedImage j).isSome) = some i)
    (loaded : s.loadedImage i = some bs) :
    (i.shadow = true ∨ crcN bs = i.icheck →
      (imageBad i.lfmt i.cols i.d32 bs = false →
        ∃ t, exec (.imageLoadDone c p) s = .next t ∧ { i with usable := true, bytes := bs } ∈ t.ktl.imgs ∧
          (∀ j, j.id ≠ i.id → (j ∈ t.ktl.imgs ↔ j ∈ s.ktl.imgs)) ∧ t.ctxs = s.ctxs ∧ t.mem.wait = s.mem.wait ∧
          t = { s with ktl := t.ktl, mem := t.mem }) ∧
      (imageBad i.lfmt i.cols i.d32 bs = true → c ≠ 0 → (s.ctx c).active = true →
        ∃ t, exec (.imageLoadDone c p) s = .next t ∧ (t.ctx c).fault = 0x09 ∧ (t.ctx c).tdown = true)) ∧
    (i.shadow = false → crcN bs ≠ i.icheck →
      (i.tries < 2 →
        ∃ t, exec (.imageLoadDone c p) s = .next t ∧ i.anew s.ktl.nextImg c 2 ∈ t.ktl.imgs ∧
          s.mem.wait <+: t.mem.wait ∧ t.mem.wait.length = s.mem.wait.length + ceilDiv i.len 4096 ∧ t.ctxs = s.ctxs) ∧
      (2 ≤ i.tries → c ≠ 0 → (s.ctx c).active = true →
        ∃ t, exec (.imageLoadDone c p) s = .next t ∧ (t.ctx c).fault = 0x09 ∧ (t.ctx c).tdown = true)) := by
  have here : i ∈ s.ktl.imgs := List.mem_of_find?_eq_some found
  have fault (nonzero : c ≠ 0) (active : (s.ctx c).active = true) :
      (((s.dropLoad i).ctxFault c 0x09).ctx c).fault = 0x09 ∧ (((s.dropLoad i).ctxFault c 0x09).ctx c).tdown = true := by
    obtain ⟨code, down, -⟩ := State.ctxFault_ctx (s.dropLoad i) c 0x09 nonzero active
    exact ⟨code, down⟩
  refine ⟨fun sums => ⟨fun good => ?_, fun bad nonzero active => ?_⟩, fun own differs => ⟨fun first => ?_, fun second nonzero active => ?_⟩⟩
  · exact ⟨_, imageLoad_good found loaded alive sums good, useImage_mem (s.dropLoad i) here bs,
      fun j other => useImage_others (s.dropLoad i) i bs other, rfl, rfl, rfl⟩
  · exact ⟨_, imageLoad_bad found loaded alive sums bad, fault nonzero active⟩
  · refine ⟨_, imageLoad_again found loaded alive own differs first, State.anew_mem_reloadImage (s.dropLoad i) here c 2, ?_, ?_,
      reloadImage_ctxs ..⟩
    · rw [reloadImage_wait]
      exact List.prefix_append ..
    · rw [reloadImage_wait, List.length_append, numbered_length, Img.reads, List.length_map, List.length_range]
      rfl
  · exact ⟨_, imageLoad_fault found loaded alive own differs second, fault nonzero active⟩

end Sys2Proof.Machine
end

section
/-! Obligation `ImagesAndTiles` (R32, R141, R142, R150, R152, R168, R362, R379, R381, R393). -/

namespace Sys2Proof.Machine

theorem tileStart_part (k n c kind g cg sl : Nat) (st : Step) (s : State) (on : s.on = true) (free : s.coreFree k = true)
    (tent : s.tentWith k = some n)
    (lowest : ∀ j ∈ tentCores (s.tentWord n), j < k → s.coreFree j = true → s.tileFor n j = none)
    (tile : s.tileFor n k = some (c, st, kind, g, cg, sl)) :
    let r := s.newRun k c st kind g cg sl
    ∃ t, exec (.tileStart k) s = .next t ∧ t.ktl.cores = tput {} k r s.ktl.cores ∧
      t.mem.wait = s.mem.wait ++ (if r.str then numbered s.mem.nextId (st.lineReads c r) else []) ∧
      t.step? c = some { st with sc := { st.sc with tiled := true } } ∧ (∀ d, d ≠ c → t.ctx d = s.ctx d) ∧
      t = { s with
        ctxs := t.ctxs
        mem := { s.mem with wait := t.mem.wait, nextId := t.mem.nextId }
        ktl := { s.ktl with cores := t.ktl.cores, imgs := t.ktl.imgs, nextTile := s.ktl.nextTile + 1 } } := by
  intro r
  obtain ⟨old, step⟩ := tileFor_step tile
  have before := tileOn_rest step st k r
  have posts := posts_rest (if r.str then st.lineReads c r else []) (s.tileOn k c st r)
  have mem : (s.tileOn k c st r).mem = s.mem := by rw [before]
  refine ⟨_, tileStart_takes on free tent lowest tile, ?_⟩
  rw [startTile_eq]
  refine ⟨?_, ?_, ?_, fun d ne => ?_, ?_⟩
  · rw [posts]
    exact tileOn_cores step st k r
  · rw [posts_wait, mem]
    show _ ++ numbered _ (if r.str = true then _ else _) = _
    split <;> rfl
  · rw [posts]
    exact tileOn_step step st k r
  · rw [posts]
    exact tileOn_ctx step st k r ne
  · rw [posts, State.posts_mem, mem]
    conv_lhs => rw [before]

/-- Settles O47: an image's load, a tile's start, its end and a failed check each by the branches of its operation. -/
theorem imagesAndTiles : Obligations.ImagesAndTiles := by
  unfold Obligations.ImagesAndTiles
  refine ⟨imageLoadDone_part, ?start, ?complete, ?fails⟩
  case start =>
    intro k n c kind g cg sl st s on free tent lowest tile
    obtain ⟨old, step⟩ := tileFor_step tile
    obtain ⟨t, run, cores, wait, rest⟩ := tileStart_part k n c kind g cg sl st s on free tent lowest tile
    have taken : tget {} (s.startTile k c st kind g cg sl).ktl.cores k = s.newRun k c st kind g cg sl := by
      rw [startTile_eq, posts_rest]
      show tget {} (s.tileOn k c st _).ktl.cores k = _
      rw [tileOn_cores step, tget_tput_self]
    rw [taken]
    refine ⟨t, run, ?_, ⟨rfl, rfl, rfl, rfl, rfl, rfl, rfl, rfl, rfl, rfl⟩, ?_, wait, fun j ne => ?_, rest⟩
    · rw [cores, tget_tput_self]
    · show (decide (kind ≠ 3) && _) = true ↔ _
      rw [Bool.and_eq_true, decide_eq_true_iff]
      rfl
    · rw [cores, tget_tput_ne _ _ _ _ _ _ ne]
  case complete =>
    intro k hv s alive busy came r
    have ticked := tileCharged_ticked s k
    refine ⟨s.tileCharged k, ticked.rest, ticked.others, ticked.self, ticked.time, fun j => ?_, tileComplete_over alive busy came,
      fun st step runs => ?_⟩
    · have ktl : (s.tileCharged k).ktl = s.ktl := by rw [ticked.rest]
      rw [State.freeCore_ktl, ktl]
      dsimp only
      rw [tget_tput]
    · have run := tileComplete_runs (hv := hv) alive busy came step runs
      refine ⟨fun cancelled => ?_, fun going grads => ⟨fun bad => ?_, fun good => ?_⟩, fun going other missing => ?_,
        fun going other here => ⟨fun good => ?_, fun bad => ?_⟩⟩
      · simpa only [cancelled, if_true] using run
      · simpa only [going, grads, bad, r, Bool.false_eq_true, if_false, if_true, ne_eq, not_false_eq_true] using run
      · simpa only [going, grads, good, r, Bool.false_eq_true, if_false, if_true, ne_eq, not_true_eq_false] using run
      · simpa only [going, other, missing, r, Bool.false_eq_true, if_false, if_true] using run
      · simpa only [going, other, here, good, r, Bool.false_eq_true, Bool.true_eq_false, if_false] using run
      · simpa only [going, other, here, bad, r, Bool.false_eq_true, Bool.true_eq_false, if_false, if_true] using run
  case fails =>
    intro k l spared s hk alive busy r
    cases step : s.step? r.ctx with
    | none =>
      obtain ⟨t, run, detected, hold, drain, core⟩ := tileCheckFail_noStep (l := l) (spared := spared) alive busy hk step
      exact ⟨t, run, detected, hold, drain, fun _ => core, fun st e => nomatch e⟩
    | some st =>
      cases cancelled : st.cancelled with
      | true =>
        obtain ⟨t, run, detected, hold, drain, core⟩ := tileCheckFail_cancelled (l := l) (spared := spared) alive busy hk step cancelled
        refine ⟨t, run, detected, hold, drain, fun e => (nomatch e), fun st' e => ?_⟩
        obtain rfl := Option.some.inj e
        exact ⟨fun _ => core, fun going => by simp [cancelled] at going, fun going => by simp [cancelled] at going⟩
      | false =>
        cases ok : (s.checked k l spared).coreOk k with
        | true =>
          obtain ⟨t, run, detected, hold, drain, still, core, ctxs⟩ := tileCheckFail_again alive busy hk step cancelled ok
          refine ⟨t, run, detected, hold, drain, fun e => (nomatch e), fun st' e => ?_⟩
          obtain rfl := Option.some.inj e
          exact ⟨fun c => by simp [cancelled] at c, fun _ _ => ⟨core, ctxs⟩, fun _ bad => by simp [still] at bad⟩
        | false =>
          obtain ⟨t, run, detected, hold, drain, still, core, now⟩ := tileCheckFail_ready alive busy hk step cancelled ok
          refine ⟨t, run, detected, hold, drain, fun e => (nomatch e), fun st' e => ?_⟩
          obtain rfl := Option.some.inj e
          exact ⟨fun c => by simp [cancelled] at c, fun _ good => by simp [still] at good, fun _ _ => ⟨core, now⟩⟩

end Sys2Proof.Machine
end

section
/-! W1C_WRITE (R60, R468): what the command's write does to each bit. -/

namespace Sys2Proof.Machine

/-- The word that a W1C_WRITE leaves (R468): ones clear the W1C bits `m`, those that hardware sets in the window read one. -/
def w1cWord (old data hwSet m : Nat) : Nat := old &&& (ones ^^^ (data &&& m)) ||| (hwSet &&& m)

theorem bit_w1cWord {i : Nat} (hi : i < 32) (old data hwSet m : Nat) :
    bit (w1cWord old data hwSet m % 2 ^ 32) i =
      if bit m i then bit hwSet i || (bit old i && !bit data i) else bit old i := by
  unfold w1cWord
  simp only [bit_testBit, Nat.testBit_mod_two_pow, Nat.testBit_or, Nat.testBit_and, Nat.testBit_xor, ones_testBit, hi,
    decide_true, Bool.true_and]
  cases m.testBit i <;> simp [Bool.or_comm]

section W1c

variable {s : State} {addr : BitVec 23} {data hwSet : W32} {r : RegRow} (alive : s.alive = true)
  (opened : s.ctlOpen (4 * addr.toNat) = true) (shown : s.pitchHidden (4 * addr.toNat) = false)
  (row : regRow (4 * addr.toNat) = some r) (w1c0 : r.w1c ≠ 0)
include alive opened shown row w1c0

theorem w1cWriteOp_open : w1cWriteOp addr data hwSet s =
    ((s.wr (4 * addr.toNat) (w1cWord (s.rd (4 * addr.toNat)) data.toNat hwSet.toNat r.w1c)).recWrite (4 * addr.toNat)
      data.toNat).ackWrite := by
  simp [w1cWriteOp, alive, opened, shown, row, w1c0, w1cWord]

end W1c

/-- The record of a write leaves the register that was written, while recording is off or the record enters no event there. -/
theorem State.rd_recWrite_wr (s : State) (a v x : Nat)
    (apart : bit (s.rd 0xF0000) 2 = false ∨ a ∉ 0xF000C :: lntRegs) : ((s.wr a v).recWrite a x).rd a = v % 2 ^ 32 := by
  by_cases logged : a ∈ 0xF000C :: lntRegs
  · have off : bit ((s.wr a v).rd 0xF0000) 2 = false := by
      rw [rd_wr_ne _ _ (by rintro rfl; exact absurd logged (by decide))]
      exact apart.resolve_right (not_not.mpr logged)
    rw [recWrite_off _ _ _ off, rd_wr_self]
  · rw [List.mem_cons, not_or] at logged
    rw [rd_recWrite_ne _ _ _ logged.2 logged.1, rd_wr_self]

/-- Settles O6: by the word that the write leaves, bit by bit, and the frame of its record. -/
theorem w1cWriteClears : Obligations.W1cWriteClears := by
  unfold Obligations.W1cWriteClears
  rintro addr data hwSet s r _ rfl alive opened shown row w1c0 apart
  refine ⟨_, congrArg Host.Outcome.next (w1cWriteOp_open alive opened shown row w1c0), fun i hi => ?_, rfl, fun x hx => ?_, ?_⟩
  · rw [State.rd_ackWrite, State.rd_recWrite_wr _ _ _ _ apart]
    exact bit_w1cWord hi ..
  · rw [List.mem_cons, not_or] at hx
    rw [State.wrote_keeps _ _ _ _ hx.2, State.rd_wr_ne _ _ hx.1]
  · rw [State.wrote_still]
    rfl

end Sys2Proof.Machine
end

section
/-! TICK_STROBE (R22, R50, R62, R63, R430): copies that agree are not loaded again, and all of them advance. -/

namespace Sys2Proof.Machine

/-- A load that is not at its edge waits on (R63). -/
theorem tickApplyOp_notDue {s : State} (waits : s.clk.load.map TickLoad.left ≠ some 0) : tickApplyOp s = s := by
  unfold tickApplyOp
  split
  · rfl
  · next l load =>
    have notDue : l.left ≠ 0 := by simpa [load] using waits
    simp [notDue]

/-- The working pitches' copies agree. -/
def State.CopiesAgree (s : State) : Prop := ∀ p ∈ s.pitchesUp, ∀ q ∈ s.pitchesUp, (s.pitch p).tick = (s.pitch q).tick

/-- The vote of copies that agree is their value (R430). -/
theorem copyVote_eq {s : State} (agree : s.CopiesAgree) {p : Nat} (hp : p ∈ s.pitchesUp) : s.copyVote = (s.pitch p).tick := by
  unfold State.copyVote
  dsimp only
  split
  · next q found => exact agree q (List.mem_of_find?_eq_some found) p hp
  · next noMajority =>
    have all : s.pitchesUp.filter (fun q => decide ((s.pitch q).tick = (s.pitch p).tick)) = s.pitchesUp :=
      List.filter_eq_self.mpr fun q hq => by simpa using agree q hq p hp
    have nonempty := List.length_pos_of_mem hp
    have notMajority := List.find?_eq_none.mp noMajority p hp
    simp only [all, decide_eq_true_eq] at notMajority
    omega

theorem compareCopies_agree {s : State} (agree : s.CopiesAgree) : s.compareCopies = s := by
  have same : ∀ l : List Nat, l ⊆ s.pitchesUp → l.foldl (State.reloadCopy s.copyVote) s = s := by
    intro l sub
    induction l with
    | nil => rfl
    | cons p r ih =>
      have hp : (s.pitch p).tick = s.copyVote := (copyVote_eq agree (sub List.mem_cons_self)).symm
      rw [List.foldl_cons, State.reloadCopy, if_pos hp]
      exact ih fun x hx => sub (List.mem_cons_of_mem _ hx)
  exact same _ (List.Subset.refl _)

/-- The state once a strobe has advanced the copies and the allowances, and a gap is recorded (R50, R62, R65). -/
def State.strobed (s : State) (gap interval : Nat) (upset : BitVec 4) (flip : W64) : State :=
  let u := s.advanceCopies upset flip
  let v : State := { u with mem := { u.mem with chs := u.mem.chs.map MemCh.grow }, ctl := { u.ctl with fresh := [] } }
  if gap ≠ 0 then v.event 0x06 0 interval 0 else v

theorem tickStrobeOp_agree {s : State} {gap interval : Nat} {upset : BitVec 4} {flip : W64} (alive : s.alive = true)
    (waits : s.clk.load.map TickLoad.left ≠ some 0) (agree : s.CopiesAgree) :
    tickStrobeOp gap interval upset flip s =
      if (s.strobed gap interval upset flip).on then (s.strobed gap interval upset flip).tickUnits
      else s.strobed gap interval upset flip := by
  unfold tickStrobeOp
  simp only [alive, Bool.not_true, Bool.false_eq_true, if_false, tickApplyOp_notDue waits, compareCopies_agree agree]
  rfl

section Strobed

variable (s : State) (gap interval : Nat) (upset : BitVec 4) (flip : W64)

/-- The event of a gap leaves all but the Lantern queue's state. -/
theorem State.strobed_still : (s.strobed gap interval upset flip).still = ({ s.advanceCopies upset flip with
    mem := { s.mem with chs := s.mem.chs.map MemCh.grow }, ctl := { s.ctl with fresh := [] } } : State).still := by
  unfold State.strobed
  dsimp only
  split
  · exact State.event_still ..
  · rfl

theorem State.strobed_keeps : s.KeepsRegs (s.strobed gap interval upset flip) lntRegs := by
  intro a ha
  unfold State.strobed
  dsimp only
  split
  · exact State.rd_event_ne _ _ _ _ _ ha
  · rfl

theorem State.strobed_pitch {p : Nat} (hp : p < s.pitches.length) :
    (s.strobed gap interval upset flip).pitch p = advanceCopy upset flip p (s.pitch p) := by
  have pitches := State.still_pitches (s.strobed_still gap interval upset flip)
  unfold State.pitch
  rw [pitches]
  simp [State.advanceCopies, hp]

theorem State.strobed_ch {c : Nat} (hc : c < s.mem.chs.length) : (s.strobed gap interval upset flip).ch c = (s.ch c).grow := by
  have chs := State.still_mem_chs (s.strobed_still gap interval upset flip)
  unfold State.ch
  rw [chs]
  simp [hc]

end Strobed

/-- Settles O25: copies that agree are left by the comparison, and then all advance. -/
theorem tickStrobeAdvances : Obligations.TickStrobeAdvances := by
  unfold Obligations.TickStrobeAdvances
  intro gap interval upset flip s alive waits agree
  have still := s.strobed_still gap interval upset flip
  have clk := State.still_clk still
  refine ⟨s.strobed gap interval upset flip, congrArg Host.Outcome.next (tickStrobeOp_agree alive waits agree), ?_, ?_, ?_,
    fun p hp => ?_, ?_, fun c hc => ?_, (State.still_ctxs still).trans rfl,
    (State.still_start still).trans rfl, s.strobed_keeps _ _ _ _⟩
  · rw [clk]
    rfl
  · rw [clk]
    rfl
  · rw [State.still_pitches still]
    simp [State.advanceCopies]
  · rw [s.strobed_pitch _ _ _ _ hp]
    rfl
  · rw [State.still_mem_chs still]
    exact List.length_map _
  · rw [s.strobed_ch _ _ _ _ hc]
    exact ⟨rfl, rfl⟩

end Sys2Proof.Machine
end

section
/-! Inbound packets (R58, R390, R414, R424, R427, R432): what discarding one, recording one and charging a cue-lane word for
one change. -/

namespace Sys2Proof.Machine

namespace State

variable (s : State)

/- A discarded packet -/

/-- A discarded packet is counted and noted by steps: what steps leave is as after the count. -/
theorem discardIn_leaves {β : Type} (g : State → β) (steps : ∀ u c f, g (modStep u c f) = g u) (a : Nat) :
    g (s.discardIn a) = g (s.countSat 0x40 16 16 1) := by
  unfold discardIn
  exact foldl_keeps g (fun u c => u.modStep c _) (fun u c => steps u c _) _ _

theorem discardIn_rd (a x : Nat) : (s.discardIn a).rd x = (s.countSat 0x40 16 16 1).rd x :=
  s.discardIn_leaves (·.rd x) (fun u c f => u.rd_modStep c f x) a

theorem discardIn_keeps (a : Nat) : s.KeepsRegs (s.discardIn a) [0x40] := fun x hx => by
  rw [discardIn_rd, rd_countSat_ne _ _ _ _ (by simpa using hx)]

theorem discardIn_counts (a : Nat) : bits ((s.discardIn a).rd 0x40) 16 16 = min (bits (s.rd 0x40) 16 16 + 1) 65535 := by
  rw [discardIn_rd]
  exact bits_countSat _ _ _ _ _ (by decide)

theorem discardIn_core (a : Nat) : (s.discardIn a).core = s.core :=
  (s.discardIn_leaves (·.core) (fun u c f => u.modStep_core c f) a).trans (s.countSat_core ..)
theorem discardIn_xch (a : Nat) : (s.discardIn a).xch = s.xch :=
  (s.discardIn_leaves (·.xch) (fun u c f => u.modStep_xch c f) a).trans (s.countSat_xch ..)
theorem discardIn_hold (a : Nat) : (s.discardIn a).hold = s.hold :=
  (s.discardIn_leaves (·.hold) (fun u c f => u.modStep_hold c f) a).trans (s.countSat_hold ..)

theorem lostIn_counts (a : Nat) : bits ((s.lostIn a).rd 0x40) 16 16 = min (bits (s.rd 0x40) 16 16 + 1) 65535 := by
  unfold lostIn
  rw [discardIn_counts, detect_rd _ (by decide), rd_count_ne _ _ (by decide)]

theorem lostIn_detected (a : Nat) : s.Detected (s.lostIn a) :=
  (s.detect.discardIn_keeps a _ (by decide)).trans s.detect_detected

theorem lostIn_core (a : Nat) : (s.lostIn a).core = s.core := (discardIn_core ..).trans ((still_core s.detect_still).trans rfl)
theorem lostIn_xch (a : Nat) : (s.lostIn a).xch = s.xch := (discardIn_xch ..).trans ((still_xch s.detect_still).trans rfl)
theorem lostIn_hold (a : Nat) : (s.lostIn a).hold = s.hold := (discardIn_hold ..).trans ((still_hold s.detect_still).trans rfl)

/- A packet that is taken -/

/-- Charging a context leaves what its input's record leaves, but for contexts and windows. -/
theorem charged_still {u t : State} {c : Nat} (still : u.still = s.still) (charged : u.Charged t c) :
    t.still = ({ s with ctxs := t.ctxs, pitches := t.pitches } : State).still := by
  have same := congrArg (fun v : State => ({ v with ctxs := t.ctxs, pitches := t.pitches } : State)) still
  rw [charged.rest]
  exact same

@[simp] theorem recordIn_still (a : Nat) (p : Bytes) (tags : Option Nat) : (s.recordIn a p tags).still = s.still := record_still ..

theorem recordIn_keeps (a : Nat) (p : Bytes) (tags : Option Nat) : s.KeepsRegs (s.recordIn a p tags) (0xF000C :: lntRegs) := by
  intro x hx
  rw [List.mem_cons, not_or] at hx
  exact rd_record_ne _ _ _ _ _ _ _ _ _ hx.2 hx.1

/-- A cue-lane word from point `a` is taken for context `c`: recorded and charged (R390, R414). -/
def wordIn (a : Nat) (p : Bytes) (c : Nat) : State := (s.recordIn a p none).chargeCore a c 64 false

variable (a : Nat) (p : Bytes) (c : Nat)

theorem wordIn_still : (s.wordIn a p c).still = ({ s with ctxs := (s.wordIn a p c).ctxs } : State).still :=
  congrArg (fun u : State => ({ u with ctxs := (s.wordIn a p c).ctxs } : State)) (s.recordIn_still a p none)

theorem wordIn_keeps : s.KeepsRegs (s.wordIn a p c) (0xF000C :: lntRegs) := s.recordIn_keeps a p none

theorem wordIn_others {d : Nat} (h : d ≠ c) : (s.wordIn a p c).ctx d = s.ctx d :=
  ((chargeCore_charged ..).others d h).trans (ctx_of_ctxs (still_ctxs (s.recordIn_still a p none)) d)

theorem wordIn_self : (s.wordIn a p c).ctx c = { s.ctx c with acct := ((s.wordIn a p c).ctx c).acct } := by
  have charged := (chargeCore_charged (s.recordIn a p none) a c 64 false).self
  rw [ctx_of_ctxs (still_ctxs (s.recordIn_still a p none)) c] at charged
  exact charged

theorem wordIn_active : ((s.wordIn a p c).ctx c).active = (s.ctx c).active := by
  rw [wordIn_self]
  rfl

theorem wordIn_step : (s.wordIn a p c).step? c = s.step? c := by
  unfold step?
  rw [wordIn_self]

theorem wordIn_core : (s.wordIn a p c).core = s.core := (still_core (s.wordIn_still a p c)).trans rfl
theorem wordIn_el : (s.wordIn a p c).el = s.el := congrArg Clk.el ((still_clk (s.wordIn_still a p c)).trans rfl)

end State

/- Requests of contexts -/

/-- Requests that wait on behalf of a job context. -/
def State.ctxWait (s : State) : List MemReq := s.mem.wait.filter (fun r => decide (r.ctx ≠ 0))

namespace State

variable (s : State)

/-- A request of the block's own is none of a job context's. -/
theorem memPost_ctxWait (r : MemReq) (own : r.ctx = 0) : (s.memPost r).ctxWait = s.ctxWait := by
  unfold ctxWait
  rw [memPost_mem, List.filter_append, List.filter_singleton]
  simp [own]

@[simp] theorem memWriteWords_ctxWait (k a : Nat) (bs : Bytes) (w : MemWhy) :
    (s.memWriteWords 0 k a bs w).ctxWait = s.ctxWait := memPost_ctxWait _ _ rfl

@[simp] theorem lntSpill_ctxWait : s.lntSpill.ctxWait = s.ctxWait := by
  unfold lntSpill
  split
  · rfl
  · split
    · rfl
    · exact memWriteWords_ctxWait ..

@[simp] theorem lntRefill_ctxWait (l n : Nat) : (lntRefill l n s).ctxWait = s.ctxWait := by
  induction n generalizing s with
  | zero => rfl
  | succ n ih =>
    unfold lntRefill
    split
    · rfl
    · split
      · rfl
      · split
        · exact ih _
        · split
          · exact (ih _).trans (memPost_ctxWait _ _ rfl)
          · rfl

@[simp] theorem lntRefillAll_ctxWait : s.lntRefillAll.ctxWait = s.ctxWait := by
  unfold lntRefillAll
  split
  · simp only [lntRefill_ctxWait]
  · rfl

@[simp] theorem lntAdd_ctxWait (l : Nat) (ws : List Nat) : (s.lntAdd l ws).ctxWait = s.ctxWait := by
  unfold lntAdd
  dsimp only
  split
  · simp only [lntRefillAll_ctxWait, lntSpill_ctxWait]
    rfl
  · rfl

@[simp] theorem event_ctxWait (k c a b : Nat) : (s.event k c a b).ctxWait = s.ctxWait := by
  unfold event eventAt lntEnter
  dsimp only
  split
  · split
    · rfl
    · exact lntAdd_ctxWait ..
  · split
    · exact lntAdd_ctxWait s _ _
    · exact lntAdd_ctxWait s _ _

@[simp] theorem memWriteAny_ctxWait (k : Nat) (w : MemWhy) (n a : Nat) (bs : Bytes) :
    (memWriteAny 0 k w n a bs s).ctxWait = s.ctxWait := by
  induction n generalizing s a bs with
  | zero => rfl
  | succ n ih =>
    unfold memWriteAny
    split
    · rfl
    · rw [ih, memWriteWords_ctxWait]

@[simp] theorem wr_ctxWait (a v : Nat) : (s.wr a v).ctxWait = s.ctxWait := rfl
@[simp] theorem det_ctxWait (d : Det) : ({ s with det := d } : State).ctxWait = s.ctxWait := rfl

@[simp] theorem recPut_ctxWait (k src c e t x : Nat) (p : Bytes) (d : Bool) : (s.recPut k src c e t x p d).ctxWait = s.ctxWait := by
  unfold recPut
  extract_lets
  split
  · rfl
  · split
    · exact (det_ctxWait _ _).trans (wr_ctxWait ..)
    · split
      · exact (event_ctxWait ..).trans ((det_ctxWait _ _).trans (wr_ctxWait ..))
      · exact (memWriteAny_ctxWait ..).trans (det_ctxWait ..)

@[simp] theorem record_ctxWait (k src : Nat) (c : Option Nat) (e t x : Nat) (p : Bytes) (d : Bool) :
    (s.record k src c e t x p d).ctxWait = s.ctxWait := by
  unfold record
  dsimp only
  split
  · exact recPut_ctxWait ..
  · rfl

variable {s}

/-- Whether a job context's write is out depends on its own requests. -/
theorem writesOut_congr {t : State} {c : Nat} (job : c ≠ 0) (wait : t.ctxWait = s.ctxWait) (chs : t.mem.chs = s.mem.chs) :
    t.writesOut c = s.writesOut c := by
  have own (u : State) : u.mem.wait.any (fun r => r.wr && decide (r.ctx = c)) = u.ctxWait.any (fun r => r.wr && decide (r.ctx = c)) := by
    unfold ctxWait
    rw [List.any_filter]
    congr 1
    funext r
    by_cases h : r.ctx = c <;> simp [h, job]
  unfold writesOut
  rw [own t, own s, wait, chs]

end State

end Sys2Proof.Machine
end

section
/-! CANCEL_DONE and CANCEL_DONE_TIMEOUT (R58, R394, R397). -/

namespace Sys2Proof.Machine

/-- A packet that is discarded: counted, a detection besides where its checks fail, with no effect on the core port (R58). -/
structure State.Discards (s t : State) (ok : Bool) : Prop where
  counts : bits (t.rd 0x40) 16 16 = min (bits (s.rd 0x40) 16 16 + 1) 65535
  keeps : ok = true → s.KeepsRegs t [0x40]
  detected : ok = false → s.Detected t
  core : t.core = s.core

theorem lostIn_discards (s : State) (a : Nat) : s.Discards (s.lostIn a) false :=
  ⟨s.lostIn_counts a, nofun, fun _ => s.lostIn_detected a, s.lostIn_core a⟩

theorem discardIn_discards (s : State) (a : Nat) : s.Discards (s.discardIn a) true :=
  ⟨s.discardIn_counts a, fun _ => s.discardIn_keeps a, nofun, s.discardIn_core a⟩

theorem cancelDoneOp_discards {s : State} {a : Nat} {p : Bytes} {par : List Bool} (alive : s.alive = true) (up : s.ptUp a = true)
    (bad : wordOk p par = false ∨ hostType (pktHeader p).ptype = false ∨
      (pktHeader p).ptype = 13 ∧ s.core.cancels.find? (fun w => decide (w.id = fld p 16 4)) = none) :
    s.Discards (cancelDoneOp a p par s) (wordOk p par) := by
  unfold cancelDoneOp
  cases ok : wordOk p par with
  | false =>
    simp only [alive, up, Bool.not_true, Bool.not_false, Bool.or_self, Bool.false_eq_true, if_false, if_true]
    exact lostIn_discards s a
  | true =>
    simp only [alive, up, Bool.not_true, Bool.or_self, Bool.false_eq_true, if_false]
    cases host : hostType (pktHeader p).ptype with
    | false => exact discardIn_discards s a
    | true =>
      have ⟨done, unknown⟩ := (bad.resolve_left (by simp [ok])).resolve_left (by simp [host])
      simp only [done, unknown, Bool.not_true, Bool.false_eq_true, if_false, ne_eq, not_true_eq_false]
      exact discardIn_discards s a

/-- Noting the answer to a cancel word of context `c`: the core port, the context's TDOWN and its requests stay. -/
structure State.AnswerNoted (s u : State) (c : Nat) : Prop where
  core : u.core = s.core
  tdown : (u.ctx c).tdown = (s.ctx c).tdown
  wait : u.ctxWait = s.ctxWait
  chs : u.mem.chs = s.mem.chs

theorem wordIn_noted (s : State) (a : Nat) (p : Bytes) (c : Nat) : s.AnswerNoted (s.wordIn a p c) c := by
  refine ⟨s.wordIn_core a p c, ?_, State.record_ctxWait .., (State.still_mem_chs (s.wordIn_still a p c)).trans rfl⟩
  rw [State.wordIn_self]

theorem event_noted (s : State) (k x a b c : Nat) : s.AnswerNoted (s.event k x a b) c :=
  ⟨State.event_core .., congrArg Ctx.tdown (State.ctx_of_ctxs (State.event_ctxs ..) c), State.event_ctxWait ..,
    State.event_mem_chs ..⟩

theorem State.AnswerNoted.trans {s u v : State} {c : Nat} (h : s.AnswerNoted u c) (k : u.AnswerNoted v c) : s.AnswerNoted v c :=
  ⟨k.core.trans h.core, k.tdown.trans h.tdown, k.wait.trans h.wait, k.chs.trans h.chs⟩

section Answers

variable {s : State} {w : CancelWait} (waits : s.core.cancels.find? (fun v => decide (v.id = w.id)) = some w)
include waits

theorem cancelDoneOp_answers {a : Nat} {p : Bytes} {par : List Bool} (alive : s.alive = true) (up : s.ptUp a = true)
    (ok : wordOk p par = true) (done : (pktHeader p).ptype = 13) (id : fld p 16 4 = w.id) :
    ∃ u, cancelDoneOp a p par s = u.cancelFin w ∧ s.AnswerNoted u w.ctx := by
  have noted := wordIn_noted s a p w.ctx
  let u := s.wordIn a p w.ctx
  refine ⟨if fld p 20 1 ≠ 0 then u.event 0x33 w.ctx w.id (fld p 20 1) else u, ?run, ?same⟩
  case run =>
    unfold cancelDoneOp
    simp only [alive, up, ok, done, id, waits, Bool.not_true, Bool.or_self, Bool.false_eq_true, if_false, ne_eq,
      not_true_eq_false, show hostType 13 = true from rfl]
    rfl
  case same =>
    split
    · exact noted.trans (event_noted ..)
    · exact noted

theorem cancelTimeoutOp_answers (on : s.on = true) (due : w.at_ + s.rd 0xA000C ≤ s.el) :
    ∃ u, cancelTimeoutOp w.id s = u.cancelFin w ∧ s.AnswerNoted u w.ctx ∧ bit (u.rd 0x20) 2 = true := by
  have noted := event_noted s 0x31 w.ctx w.id 0 w.ctx
  refine ⟨(s.event 0x31 w.ctx w.id 0).notice 2, ?_, ⟨noted.core, noted.tdown, noted.wait, noted.chs⟩,
    State.bit_setBit_self _ _ _ (by decide)⟩
  simp [cancelTimeoutOp, waits, on, due]

end Answers

theorem State.downCheck_core (s : State) (c : Nat) : (s.downCheck c).core = s.core := by
  unfold State.downCheck
  split <;> rfl

theorem State.postQuery_core (s : State) (c k : Nat) (q : Query) : (s.postQuery c k q).core = s.core := by
  unfold State.postQuery
  dsimp only
  rw [State.memPost_core, State.modStep_core, State.modCtx_core]

theorem State.cancelCheck_core (s : State) (c : Nat) : (s.cancelCheck c).core = s.core := by
  unfold State.cancelCheck
  split
  · rfl
  · dsimp only
    split
    · rw [State.postQuery_core, State.modStep_core]
    · rfl

theorem State.cancelFin_cancels (s : State) (w : CancelWait) :
    (s.cancelFin w).core.cancels = s.core.cancels.filter (fun v => decide (v.id ≠ w.id)) := by
  unfold State.cancelFin
  dsimp only
  split
  · rw [State.downCheck_core]
  · rw [State.cancelCheck_core]

theorem State.rd_cancelFin (s : State) (w : CancelWait) (x : Nat) : (s.cancelFin w).rd x = s.rd x := by
  unfold State.cancelFin
  dsimp only
  split
  · rw [State.rd_downCheck]
    rfl
  · rw [State.rd_cancelCheck]
    rfl

/-- With its last word answered and no write out, a context in teardown is disabled (R397). -/
theorem State.cancelFin_last (s : State) (w : CancelWait) (fin : w.fin = 1) (tdown : (s.ctx w.ctx).tdown = true)
    (last : ∀ v ∈ s.core.cancels, v.ctx = w.ctx → v.fin = 1 → v.id = w.id) (written : s.writesOut w.ctx = false) :
    ((s.cancelFin w).ctx w.ctx).enable = false ∧ ((s.cancelFin w).ctx w.ctx).tdown = false ∧
      ((s.cancelFin w).ctx w.ctx).st = .disabled := by
  let u : State := { s with core := { s.core with cancels := s.core.cancels.filter (fun v => decide (v.id ≠ w.id)) } }
  have noWord : u.core.cancels.any (fun v => decide (v.ctx = w.ctx ∧ v.fin = 1)) = false := by
    rw [List.any_eq_false]
    intro v hv
    obtain ⟨here, other⟩ := List.mem_filter.mp hv
    have ne : v.id ≠ w.id := by simpa using other
    simpa using fun hc hf => ne (last v here hc hf)
  have disabled : s.cancelFin w = u.modCtx w.ctx (fun x => { x with enable := false, tdown := false, st := .disabled, downWait := false }) := by
    have check : ((u.ctx w.ctx).tdown && !(u.core.cancels.any fun v => decide (v.ctx = w.ctx ∧ v.fin = 1)) &&
        !(u.writesOut w.ctx)) = true := by
      rw [noWord, show (u.ctx w.ctx).tdown = true from tdown, show u.writesOut w.ctx = false from written]
      rfl
    unfold State.cancelFin
    rw [if_pos fin]
    exact if_pos check
  rw [disabled, State.ctx_modCtx_self]
  exact ⟨rfl, rfl, rfl⟩

/-- Settles O56: the word's answer is noted, and then the wait ends and the teardown may complete. -/
theorem cancelDoneEndsTeardown : Obligations.CancelDoneEndsTeardown := by
  unfold Obligations.CancelDoneEndsTeardown
  refine ⟨?discarded, ?answered⟩
  case discarded =>
    intro a p par s alive up bad
    obtain ⟨counts, keeps, detected, core⟩ := cancelDoneOp_discards alive up bad
    exact ⟨_, rfl, counts, keeps, detected, core⟩
  case answered =>
    intro w x s waits how
    obtain ⟨u, run, noted, notice⟩ : ∃ u : State, exec x s = .next (u.cancelFin w) ∧ s.AnswerNoted u w.ctx ∧
        (x = .cancelDoneTimeout w.id → bit (u.rd 0x20) 2 = true) := by
      rcases how with ⟨a, p, par, rfl, alive, up, ok, done, id⟩ | ⟨rfl, on, due⟩
      · obtain ⟨u, run, noted⟩ := cancelDoneOp_answers waits alive up ok done id
        exact ⟨u, congrArg Host.Outcome.next run, noted, nofun⟩
      · obtain ⟨u, run, noted, notice⟩ := cancelTimeoutOp_answers waits on due
        exact ⟨u, congrArg Host.Outcome.next run, noted, fun _ => notice⟩
    refine ⟨_, run, fun v hv => ?_, fun v ne => ?_, fun timeout => ?_, fun fin tdown last written job => ?_⟩
    · rw [State.cancelFin_cancels] at hv
      simpa using (List.mem_filter.mp hv).2
    · rw [State.cancelFin_cancels, noted.core, List.mem_filter]
      simp [ne]
    · rw [State.rd_cancelFin]
      exact notice timeout
    · refine u.cancelFin_last w fin (noted.tdown.trans tdown) ?_ ((State.writesOut_congr job noted.wait noted.chs).trans written)
      rw [noted.core]
      exact last

end Sys2Proof.Machine
end

section
/-! Cues (R263, R270, R329, R427): what a cue word sent again and a chain that completes change. -/

namespace Sys2Proof.Machine

/-- A pitch works by the header, the start and the pitches alone (R23). -/
theorem pitchUp_congr {s t : State} (glb : t.glb = s.glb) (start : t.start = s.start) (pitches : t.pitches = s.pitches) (p : Nat) :
    t.pitchUp p = s.pitchUp p := by
  unfold State.pitchUp State.pitch
  rw [glb, start, pitches]

theorem ptUp_congr {s t : State} (glb : t.glb = s.glb) (start : t.start = s.start) (pitches : t.pitches = s.pitches)
    {a : Nat} (iso : (t.pt a).iso = (s.pt a).iso) : t.ptUp a = s.ptUp a := by
  unfold State.ptUp
  rw [iso, pitchUp_congr glb start pitches]

namespace State

variable (s : State)

/- Packets sent -/

theorem coreSend_eq (a : Nat) (bs : Bytes) : s.coreSend a bs = { s with core := (s.coreSend a bs).core } :=
  (s.sendPacket_charged a 0 bs false).2

theorem coreSend_ctx (a : Nat) (bs : Bytes) (d : Nat) : (s.coreSend a bs).ctx d = s.ctx d := by
  rw [coreSend_eq]
  rfl

/-- On a point that is not down a packet leaves at once (R54, R72). -/
theorem coreSend_sent {a : Nat} (bs : Bytes) (high : (s.pt a).down = false) :
    (s.coreSend a bs).core.sent = s.core.sent ++ [⟨a, bs⟩] := by
  unfold coreSend
  rw [high]
  rfl

theorem sendPacket_core (a c : Nat) (bs : Bytes) (b : Bool) : (s.sendPacket a c bs b).core = (s.coreSend a bs).core := by
  rw [(s.sendPacket_charged a c bs b).1.rest]

theorem sendPacket_others {a c d : Nat} (bs : Bytes) (b : Bool) (h : d ≠ c) : (s.sendPacket a c bs b).ctx d = s.ctx d :=
  ((s.sendPacket_charged a c bs b).1.others d h).trans (s.coreSend_ctx a bs d)

theorem sendPacket_step (a c : Nat) (bs : Bytes) (b : Bool) : (s.sendPacket a c bs b).step? c = s.step? c := by
  unfold step?
  rw [(s.sendPacket_charged a c bs b).1.self, coreSend_ctx]

theorem rd_sendPacket (a c : Nat) (bs : Bytes) (b : Bool) (x : Nat) : (s.sendPacket a c bs b).rd x = s.rd x := by
  rw [rd_of_charged (s.sendPacket_charged a c bs b).1, coreSend_eq]
  rfl

end State

/- The cue word again -/

/-- The cue after a resend (R427). -/
def CueSt.again (q : CueSt) (el : Nat) : CueSt := { q with resends := q.resends + 1, disc := false, at_ := el }

/-- `t` comes from `s` by sending the cue word of step `st` again. -/
structure State.CueResent (s t : State) (c : Nat) (st : Step) : Prop where
  step : ∃ st', t.step? c = some st' ∧ st'.por.cue = st.por.cue.again s.el ∧ bit st'.cnt.qflags 6 = true
  word : s.ptUp st.por.cue.point = true → (s.pt st.por.cue.point).down = false →
    t.core.sent = s.core.sent ++ [⟨st.por.cue.point, st.por.cue.word⟩]
  others : ∀ d, d ≠ c → t.ctx d = s.ctx d
  regs : ∀ x, t.rd x = s.rd x

section CueAgain

variable {s : State} {c : Nat} {st : Step}

theorem cueAgain_resends (step : s.step? c = some st) (few : st.por.cue.resends < 2) : s.CueResent (s.cueAgain c st) c st := by
  unfold State.cueAgain
  rw [if_neg (by omega)]
  dsimp only
  refine ⟨⟨_, (State.sendPacket_step ..).trans (State.step_modStep _ _ step), rfl, ?_⟩, fun up high => ?_, fun d ne => ?_, fun x => ?_⟩
  · show bit (_ ||| 64) 6 = true
    rw [bit_testBit, Nat.testBit_or]
    simp [show Nat.testBit 64 6 = true from rfl]
  · rw [if_pos up, State.sendPacket_core]
    exact State.coreSend_sent _ _ high
  · rw [State.sendPacket_others _ _ _ ne]
    exact State.ctx_modCtx_ne _ _ ne
  · rw [State.rd_sendPacket, State.rd_modStep]

theorem cueAgain_faults (many : 2 ≤ st.por.cue.resends) : s.cueAgain c st = s.ctxFault c 0x10 := if_pos many

end CueAgain

section CueDone

variable {s : State} {a : Nat} {p : Bytes} {par : List Bool} (on : s.on = true) (up : s.ptUp a = true)
include on up

theorem cueDoneOp_discards (bad : wordOk p par = false ∨ hostType (pktHeader p).ptype = false ∨
      (pktHeader p).ptype = 12 ∧
        ((s.ctx (pktHeader p).ctx).active = false ∨ s.runs (pktHeader p).ctx (pktHeader p).epoch = none)) :
    s.Discards (cueDoneOp a p par s) (wordOk p par) := by
  unfold cueDoneOp
  cases ok : wordOk p par with
  | false =>
    simp only [on, up, Bool.not_true, Bool.not_false, Bool.or_self, Bool.false_eq_true, if_false, if_true]
    exact lostIn_discards s a
  | true =>
    simp only [on, up, Bool.not_true, Bool.or_self, Bool.false_eq_true, if_false]
    cases host : hostType (pktHeader p).ptype with
    | false => exact discardIn_discards s a
    | true =>
      have ⟨done, noStep⟩ := (bad.resolve_left (by simp [ok])).resolve_left (by simp [host])
      have unknown : (if (s.ctx (pktHeader p).ctx).active then s.runs (pktHeader p).ctx (pktHeader p).epoch else none) = none := by
        rcases noStep with idle | gone
        · rw [if_neg (by simp [idle])]
        · rw [gone, ite_self]
      simp only [done, unknown, Bool.not_true, Bool.false_eq_true, if_false, ne_eq, not_true_eq_false]
      exact discardIn_discards s a

variable {st : Step} (ok : wordOk p par = true) (done : (pktHeader p).ptype = 12)
  (active : (s.ctx (pktHeader p).ctx).active = true) (runs : s.runs (pktHeader p).ctx (pktHeader p).epoch = some st)
include ok done active runs

theorem cueDoneOp_shared (id : fld p 16 4 = 0xFFFFFFFF) (sent : st.por.cue.sent = true) (waits : st.por.cue.done = false)
    (going : st.cancelled = false) :
    cueDoneOp a p par s =
      let c := (pktHeader p).ctx
      let u := s.wordIn a p c
      if fld p 20 1 ≠ 0 then u.ctxFault c 0x10
      else if st.por.shIn < st.desc.n * st.samp.nSh then if st.por.cue.disc then u.cueAgain c st else u.ctxFault c 0x10
      else (u.modStep c (fun x => { x with por := { x.por with cue := { st.por.cue with done := true } } })).bump c 3 1 := by
  unfold cueDoneOp
  simp only [on, up, ok, done, active, runs, id, sent, waits, going, Bool.not_true, Bool.or_self, Bool.false_eq_true, if_false,
    if_true, ne_eq, not_true_eq_false, show hostType 12 = true from rfl, and_self, decide_eq_true_eq]
  rfl

theorem cueDoneOp_chain {ch : Chn} (notShared : fld p 16 4 ≠ 0xFFFFFFFF) (chain : st.chains[fld p 16 4]? = some ch)
    (cue : ch.c.op = 5) (running : ch.st = 2) :
    cueDoneOp a p par s =
      let c := (pktHeader p).ctx
      let u := s.wordIn a p c
      if fld p 20 1 ≠ 0 then u.ctxFault c 0x10
      else if st.cancelled then u.chainDone c (fld p 16 4) else (u.bump c 3 1).chainDone c (fld p 16 4) := by
  unfold cueDoneOp
  simp only [on, up, ok, done, active, runs, notShared, chain, cue, running, Bool.not_true, Bool.or_self, Bool.false_eq_true,
    if_false, if_true, ne_eq, not_true_eq_false, not_false_eq_true, show hostType 12 = true from rfl, false_and, and_self,
    decide_true, decide_eq_true_eq]
  rfl

end CueDone

/-- A context runs a step of an epoch when its step has that epoch. -/
theorem step_of_runs {s : State} {c e : Nat} {st : Step} (h : s.runs c e = some st) : s.step? c = some st := by
  unfold State.runs at h
  split at h
  · next running =>
    split at h
    · exact running.trans h
    · exact nomatch h
  · exact nomatch h

/-- A running chain of a cancelled step completes without an increment (R269, R271). -/
theorem chainDone_cancelled {s : State} {c i : Nat} {st : Step} {ch : Chn} (step : s.step? c = some st)
    (chain : st.chains[i]? = some ch) (running : ch.st ≠ 3) (cancelled : st.cancelled = true) :
    (s.chainDone c i).step? c = some { st with chains := lset i { ch with st := 3 } st.chains } := by
  unfold State.chainDone
  simp only [step, chain, running, if_false]
  rw [if_pos (.inr cancelled)]
  split
  · unfold State.step?
    rw [State.ctx_of_ctxs (State.event_ctxs ..)]
    exact State.step_modStep _ _ step
  · exact State.step_modStep _ _ step

section Parts

variable {s : State} {a : Nat} {p : Bytes} {st : Step} {c : Nat}

theorem wordIn_faults (job : c ≠ 0) (active : (s.ctx c).active = true) :
    (((s.wordIn a p c).ctxFault c 0x10).ctx c).fault = 0x10 ∧ (((s.wordIn a p c).ctxFault c 0x10).ctx c).tdown = true := by
  obtain ⟨code, down, -⟩ := State.ctxFault_ctx (s.wordIn a p c) c 0x10 job ((s.wordIn_active a p c).trans active)
  exact ⟨code, down⟩

theorem wordIn_ptUp (b : Nat) : (s.wordIn a p c).ptUp b = s.ptUp b := by
  have still := s.wordIn_still a p c
  have pt : ((s.wordIn a p c).pt b).iso = (s.pt b).iso := by
    unfold State.pt
    rw [s.wordIn_core a p c]
  exact ptUp_congr ((State.still_glb still).trans rfl) ((State.still_start still).trans rfl) ((State.still_pitches still).trans rfl) pt

/-- The cue word is sent again after a word that came too early (R427). -/
theorem wordIn_resends (step : s.step? c = some st) (few : st.por.cue.resends < 2) :
    let t := (s.wordIn a p c).cueAgain c st
    (∃ st', t.step? c = some st' ∧ st'.por.cue = st.por.cue.again s.el) ∧
      (s.ptUp st.por.cue.point = true → (s.pt st.por.cue.point).down = false →
        t.core.sent = s.core.sent ++ [⟨st.por.cue.point, st.por.cue.word⟩]) ∧
      ∀ d, d ≠ c → t.ctx d = s.ctx d := by
  obtain ⟨⟨st', step', cue, -⟩, word, others, -⟩ := cueAgain_resends ((s.wordIn_step a p c).trans step) few
  rw [s.wordIn_el a p c] at cue
  unfold State.pt at word
  rw [wordIn_ptUp, s.wordIn_core a p c] at word
  exact ⟨⟨st', step', cue⟩, word, fun d ne => (others d ne).trans (s.wordIn_others a p c ne)⟩

/-- The shared-expert cue done: the cue is complete and counter 3 is one higher (R263, R268). -/
def State.cueDone (s : State) (c : Nat) (st : Step) : State :=
  (s.modStep c (fun x => { x with por := { x.por with cue := { st.por.cue with done := true } } })).modCtx c
    (fun x => { x with counters := tput 0 3 ((x.ctr 3 + 1) % 2 ^ 32) x.counters })

theorem cueDone_step (step : s.step? c = some st) :
    (s.cueDone c st).step? c = some { st with por := { st.por with cue := { st.por.cue with done := true } } } := by
  have before := State.step_modStep s (fun x => { x with por := { x.por with cue := { st.por.cue with done := true } } }) step
  unfold State.step? State.cueDone
  rw [State.ctx_modCtx_self]
  exact before

theorem rd_cueDone (x : Nat) : (s.cueDone c st).rd x = s.rd x := by
  unfold State.cueDone
  rw [State.rd_modCtx, State.rd_modStep]

theorem cueDone_ctr (i : Nat) :
    ((s.cueDone c st).ctx c).ctr i = if i = 3 then ((s.ctx c).ctr 3 + 1) % 2 ^ 32 else (s.ctx c).ctr i := by
  unfold State.cueDone State.modStep
  rw [State.ctx_modCtx_self, State.ctx_modCtx_self]
  exact tget_tput ..

theorem cueDone_others {d : Nat} (ne : d ≠ c) : (s.cueDone c st).ctx d = s.ctx d := by
  unfold State.cueDone State.modStep
  rw [State.ctx_modCtx_ne _ _ ne, State.ctx_modCtx_ne _ _ ne]

end Parts

section Quiet

variable {s : State} {c : Nat} {st : Step} (step : s.step? c = some st)
include step

theorem cueQuietOp_early (early : s.el < max st.por.cue.at_ st.por.shAt + s.rd 0xC0014) : cueQuietOp c s = s := by
  have notDue : ¬ max st.por.cue.at_ st.por.shAt + s.rd 0xC0014 ≤ s.el := by omega
  simp only [cueQuietOp, step, notDue, decide_false, Bool.and_false, Bool.false_eq_true, if_false]

theorem cueQuietOp_due (on : s.on = true) (active : (s.ctx c).active = true) (sent : st.por.cue.sent = true)
    (waits : st.por.cue.done = false) (going : st.cancelled = false)
    (due : max st.por.cue.at_ st.por.shAt + s.rd 0xC0014 ≤ s.el) : cueQuietOp c s = s.cueAgain c st := by
  simp only [cueQuietOp, step, on, active, sent, waits, going, due, Bool.not_false, Bool.and_self, decide_true, if_true]

end Quiet

/-- Settles O55: by what the word answers, and then by the cue's state. -/
theorem cueCompletesOrIsSentAgain : Obligations.CueCompletesOrIsSentAgain := by
  unfold Obligations.CueCompletesOrIsSentAgain
  refine ⟨?shared, ?chain, ?discarded, ?quiet⟩
  case shared =>
    intro a p par st s on up ok done job active runs id sent waits going c
    have run : exec (.cueDone a p par) s = _ :=
      congrArg Host.Outcome.next (cueDoneOp_shared on up ok done active runs id sent waits going)
    have step := step_of_runs runs
    refine ⟨fun bad => ?_, fun good missing spent => ?_, fun good missing lost few => ?_, fun good here => ?_⟩
    · rw [run, if_pos bad]
      exact ⟨_, rfl, wordIn_faults job active⟩
    · rw [run, if_neg (not_not.mpr good), if_pos missing]
      rcases spent with kept | many
      · rw [if_neg (by simp [kept])]
        exact ⟨_, rfl, wordIn_faults job active⟩
      · rw [cueAgain_faults many, ite_self]
        exact ⟨_, rfl, wordIn_faults job active⟩
    · rw [run, if_neg (not_not.mpr good), if_pos missing, if_pos lost]
      obtain ⟨⟨st', step', cue⟩, word, others⟩ := wordIn_resends (a := a) (p := p) step few
      exact ⟨_, st', rfl, step', cue, word, others⟩
    · rw [run, if_neg (not_not.mpr good), if_neg (by omega)]
      have self := s.wordIn_self a p c
      refine ⟨(s.wordIn a p c).cueDone c st, rfl, ⟨_, cueDone_step ((s.wordIn_step a p c).trans step), rfl, rfl⟩, ?_,
        fun i ne => ?_, fun d ne => ?_, fun x hx => ?_⟩
      · rw [cueDone_ctr, if_pos rfl, self]
        rfl
      · rw [cueDone_ctr, if_neg ne, self]
        rfl
      · rw [cueDone_others ne, s.wordIn_others a p c ne]
      · rw [rd_cueDone, s.wordIn_keeps a p c x hx]
  case chain =>
    rintro a _ p par st ch s on up ok done active runs rfl notShared chain cue running c
    have run : exec (.cueDone a p par) s = _ :=
      congrArg Host.Outcome.next (cueDoneOp_chain on up ok done active runs notShared chain cue running)
    have step : (s.wordIn a p c).step? c = some st := (s.wordIn_step a p c).trans (step_of_runs runs)
    have still := s.charged_still (s.recordIn_still a p none) (State.chargeCore_charged _ a c 64 false)
    refine ⟨s.wordIn a p c, still, s.wordIn_keeps a p c, fun d ne => s.wordIn_others a p c ne, step,
      fun bad => ?_, fun good going => ?_, fun good cancelled => ⟨?_, ?_⟩⟩
    · rw [run, if_pos bad]
    · rw [run, if_neg (not_not.mpr good), if_neg (by simp [going])]
    · rw [run, if_neg (not_not.mpr good), if_pos cancelled]
    · exact ⟨_, chainDone_cancelled step chain (by omega) cancelled, rfl⟩
  case discarded =>
    intro a p par s on up c bad
    obtain ⟨counts, keeps, detected, core⟩ := cueDoneOp_discards on up bad
    exact ⟨_, rfl, counts, keeps, detected, core⟩
  case quiet =>
    intro c st s job on active step sent waits going
    refine ⟨fun due => ?_, fun early => congrArg Host.Outcome.next (cueQuietOp_early step early)⟩
    have run : exec (.cueQuietExpire c) s = _ := congrArg Host.Outcome.next (cueQuietOp_due step on active sent waits going due)
    refine ⟨fun few => ?_, fun many => ?_⟩
    · obtain ⟨⟨st', step', cue, redone⟩, word, others, regs⟩ := cueAgain_resends step few
      exact ⟨_, st', run, step', cue, redone, word, others, fun x _ => regs x⟩
    · rw [run, cueAgain_faults many]
      obtain ⟨code, down, -⟩ := State.ctxFault_ctx s c 0x10 job active
      exact ⟨_, rfl, code, down⟩

end Sys2Proof.Machine
end

section
/-! EXPERT_OUTPUTS and EXPERT_INPUT_GRADIENTS (R58, R262, R308, R317, R328, R390). -/

namespace Sys2Proof.Machine

/- What an answer packet holds -/

/-- Bytes of one item of an answer packet: at the width of its step, or as the packet has it where no step is known (R325). -/
def State.answerItem (s : State) (p : Bytes) : Nat :=
  match s.widthOf (pktHeader p).ctx (pktHeader p).epoch with
  | some d =>
    if bit (fld p 16 1) 0 then roundUp 16 (rowBytes (fld p 18 1) d) else recordBytes (rowBytes (fld p 18 1) d)
  | none => (pktHeader p).length / max 1 (pktHeader p).count

def State.answerItems (s : State) (p : Bytes) : List Bytes :=
  itemsOf (pktHeader p).count (s.answerItem p) (sub p 64 (pktHeader p).length)

/-- The tag that decides who pays for the packet's beats: that of the first row, none in a packet of shared rows (R308, R390). -/
def State.answerTag (s : State) (p : Bytes) : Option Nat :=
  if bit (fld p 16 1) 0 then none else (s.answerItems p).head?.map (fun r => (decCopyH r).tag)

/-- The packet is taken: recorded, its beats charged. -/
def State.answerIn (s : State) (a : Nat) (p : Bytes) : State :=
  (s.recordIn a p (if bit (fld p 16 1) 0 then none else some (s.answerItem p))).chargeAnswer a (pktHeader p).ctx
    (pktHeader p).epoch (64 + (pktHeader p).length) (s.answerTag p)

section Answers

variable {s : State} {ty a : Nat} {p : Bytes} {par : List Bool} (on : s.on = true) (up : s.ptUp a = true)
include on up

theorem answers_lost (bad : pktOk p par = false) : s.answers ty a p par = s.lostIn a := by
  simp only [State.answers, on, up, bad, Bool.not_true, Bool.not_false, Bool.or_self, Bool.false_eq_true, if_false, if_true]

variable (ok : pktOk p par = true)
include ok

theorem answers_reserved (reserved : hostType (pktHeader p).ptype = false) : s.answers ty a p par = s.discardIn a := by
  simp only [State.answers, on, up, ok, reserved, Bool.not_true, Bool.not_false, Bool.or_self, Bool.false_eq_true, if_false, if_true]

variable (type : (pktHeader p).ptype = ty) (host : hostType ty = true)
include type host

theorem answers_wrongLength (wrong : (pktHeader p).length ≠ (pktHeader p).count * s.answerItem p) :
    s.answers ty a p par = s.discardIn a := by
  unfold State.answers
  simp only [on, up, ok, type, host, Bool.not_true, Bool.or_self, Bool.false_eq_true, if_false, ne_eq, not_true_eq_false]
  exact if_pos wrong

theorem answers_taken (fits : (pktHeader p).length = (pktHeader p).count * s.answerItem p) :
    s.answers ty a p par =
      let h := pktHeader p
      let u := s.answerIn a p
      if bit (fld p 16 1) 0 then (s.answerItems p).zipIdx.foldl
        (fun s q => s.sharedRow h.ctx h.epoch (fld p 17 1) (fld p 20 4 + q.2) (fld p 18 1) q.1) u
      else if !((u.ctx h.ctx).active) || !((u.ctx h.ctx).tracked.contains h.epoch || (u.ctx h.ctx).cancelled.contains h.epoch) then
        u.staleAnswers (s.answerItems p)
      else (s.answerItems p).foldl (fun s r => s.answerRec a h.ctx h.epoch (fld p 18 1) (decide (ty = 9)) r) u := by
  unfold State.answers
  simp only [on, up, ok, type, host, Bool.not_true, Bool.or_self, Bool.false_eq_true, if_false, ne_eq, not_true_eq_false]
  exact if_neg (not_not.mpr fits)

end Answers

/- Who pays for the beats -/

section Charge

variable (s : State) (a c e n : Nat)

theorem chargeAnswer_steeped {g : Nat} (steeped : tagSteeped g = true) :
    s.chargeAnswer a c e n (some g) = { s with hold := s.hold.map (fun h =>
      if h.ctx = c ∧ h.epoch = e ∧ h.rec_.tag = g then { h with work := h.work + ceilDiv n 640 } else h) } := by
  simp only [State.chargeAnswer, steeped, if_true]

theorem chargeAnswer_plain {o : Option Nat} (plain : ∀ g ∈ o, tagSteeped g = false) :
    s.chargeAnswer a c e n o = s.chargeCore a c n true := by
  unfold State.chargeAnswer
  split
  · next g => rw [if_neg (by simp [plain g rfl])]
  · rfl

end Charge

/-- `t` comes from `s` by taking an answer packet for context `c`: its counters, the windows and the hold's work change. -/
structure State.AnswerTaken (s t : State) (c : Nat) : Prop where
  others : ∀ d, d ≠ c → t.ctx d = s.ctx d
  self : t.ctx c = { s.ctx c with acct := (t.ctx c).acct }
  regs : s.KeepsRegs t (0xF000C :: lntRegs)
  still : t.still = ({ s with ctxs := t.ctxs, pitches := t.pitches, hold := t.hold } : State).still

/-- Recording an input and then charging it takes it. -/
theorem answerTaken_of {s u t : State} {c : Nat} (still : u.still = s.still) (regs : s.KeepsRegs u (0xF000C :: lntRegs))
    (rest : t = { u with ctxs := t.ctxs, pitches := t.pitches, hold := t.hold }) (others : ∀ d, d ≠ c → t.ctx d = u.ctx d)
    (self : t.ctx c = { u.ctx c with acct := (t.ctx c).acct }) : s.AnswerTaken t c := by
  have ctxs (d : Nat) : u.ctx d = s.ctx d := State.ctx_of_ctxs (State.still_ctxs still) d
  refine ⟨fun d ne => (others d ne).trans (ctxs d), by rw [← ctxs]; exact self, fun x hx => ?_, ?_⟩
  · rw [rest]
    exact regs x hx
  · have same := congrArg (fun v : State => ({ v with ctxs := t.ctxs, pitches := t.pitches, hold := t.hold } : State)) still
    rw [rest]
    exact same

/-- What decides whether the block still tracks the rows' epoch stays. -/
theorem State.AnswerTaken.tracks {s t : State} {c : Nat} (h : s.AnswerTaken t c) : (t.ctx c).active = (s.ctx c).active ∧
    (t.ctx c).tracked = (s.ctx c).tracked ∧ (t.ctx c).cancelled = (s.ctx c).cancelled := by
  rw [h.self]
  exact ⟨rfl, rfl, rfl⟩

section Taken

variable (s : State) (a : Nat) (p : Bytes)

/-- Steeped answers are hold work of the entry of the first row (R308). -/
theorem answerIn_steeped {g : Nat} (tag : s.answerTag p = some g) (steeped : tagSteeped g = true) :
    s.AnswerTaken (s.answerIn a p) (pktHeader p).ctx ∧ (s.answerIn a p).ctxs = s.ctxs ∧ (s.answerIn a p).pitches = s.pitches ∧
      (s.answerIn a p).hold = s.hold.map (fun h =>
        if h.ctx = (pktHeader p).ctx ∧ h.epoch = (pktHeader p).epoch ∧ h.rec_.tag = g then
          { h with work := h.work + ceilDiv (64 + (pktHeader p).length) 640 } else h) := by
  unfold State.answerIn
  rw [tag, chargeAnswer_steeped _ _ _ _ _ steeped]
  generalize (if bit (fld p 16 1) 0 then none else some (s.answerItem p)) = tags
  have still := s.recordIn_still a p tags
  have regs := s.recordIn_keeps a p tags
  generalize s.recordIn a p tags = u at still regs ⊢
  have ctxs : u.ctxs = s.ctxs := State.still_ctxs still
  have pitches : u.pitches = s.pitches := State.still_pitches still
  refine ⟨answerTaken_of still regs rfl (fun _ _ => rfl) rfl, ctxs, pitches, ?_⟩
  rw [← State.still_hold still]

/-- The context is charged for the beats of any other packet (R390). -/
theorem answerIn_plain (plain : ∀ g ∈ s.answerTag p, tagSteeped g = false) :
    s.AnswerTaken (s.answerIn a p) (pktHeader p).ctx ∧ (s.answerIn a p).hold = s.hold := by
  unfold State.answerIn
  rw [chargeAnswer_plain _ _ _ _ _ plain]
  generalize (if bit (fld p 16 1) 0 then none else some (s.answerItem p)) = tags
  have still := s.recordIn_still a p tags
  have regs := s.recordIn_keeps a p tags
  generalize s.recordIn a p tags = u at still regs ⊢
  have charged := u.chargeCore_charged a (pktHeader p).ctx (64 + (pktHeader p).length) true
  generalize u.chargeCore a (pktHeader p).ctx (64 + (pktHeader p).length) true = t at charged ⊢
  have hold : t.hold = u.hold := by rw [charged.rest]
  have rest : t = { u with ctxs := t.ctxs, pitches := t.pitches, hold := t.hold } := by
    rw [hold]
    exact charged.rest
  exact ⟨answerTaken_of still regs rest charged.others charged.self, hold.trans (State.still_hold still)⟩

theorem answerIn_taken : s.AnswerTaken (s.answerIn a p) (pktHeader p).ctx := by
  by_cases steeped : ∃ g, s.answerTag p = some g ∧ tagSteeped g = true
  · obtain ⟨g, tag, yes⟩ := steeped
    exact (answerIn_steeped s a p tag yes).1
  · refine (answerIn_plain s a p fun g tag => ?_).1
    exact Bool.eq_false_iff.mpr fun yes => steeped ⟨g, tag, yes⟩

end Taken

/- The answers one by one -/

section AnswerRec

variable (s : State) (a c e fmt : Nat) (back : Bool) {r : Bytes} (plain : tagSteeped (decCopyH r).tag = false)
include plain

theorem answerRec_other (other : tagSrc (decCopyH r).tag ≠ s.glb.chip) :
    s.answerRec a c e fmt back r = s.queueRet ⟨tagSrc (decCopyH r).tag, c, e, fmt,
      encCopyH ⟨(decCopyH r).tag, 0, 0, 0, 0, false, false⟩ ++ r.drop 16, a / 8, back⟩ := by
  simp only [State.answerRec, plain, other, Bool.false_eq_true, if_false]

theorem answerRec_own (own : tagSrc (decCopyH r).tag = s.glb.chip) :
    s.answerRec a c e fmt back r = (s.answered c e (decCopyH r).tag).takeReturn fmt back r := by
  simp only [State.answerRec, plain, own, Bool.false_eq_true, if_false, if_true]

end AnswerRec

theorem answered_others (s : State) (c e g : Nat) {d : Nat} (ne : d ≠ c) : (s.answered c e g).ctx d = s.ctx d :=
  State.ctx_modCtx_ne _ _ ne

/-- Settles O53: by the checks of the packet, and then by who pays for it and what its rows answer. -/
theorem expertPacketsAreAnswered : Obligations.ExpertPacketsAreAnswered := by
  unfold Obligations.ExpertPacketsAreAnswered
  intro a p par s ty x command on up h shared fmt k
  have run : exec x s = .next (s.answers ty a p par) := by
    rcases command with ⟨rfl, rfl⟩ | ⟨rfl, rfl⟩ <;> rfl
  have host : hostType ty = true := by
    rcases command with ⟨-, rfl⟩ | ⟨-, rfl⟩ <;> rfl
  have width : k = s.answerItem p := rfl
  clear_value k
  subst width
  refine ⟨fun bad => ?lost, fun ok bad => ?discarded, fun ok type fits => ?taken, fun v r plain => ?answer⟩
  case lost =>
    rw [run, answers_lost on up bad]
    exact ⟨_, rfl, s.lostIn_counts a, s.lostIn_detected a, s.lostIn_xch a, s.lostIn_hold a⟩
  case discarded =>
    have discards : s.answers ty a p par = s.discardIn a := by
      rcases bad with reserved | ⟨type, wrong⟩
      · exact answers_reserved on up ok reserved
      · exact answers_wrongLength on up ok type host wrong
    rw [run, discards]
    exact ⟨_, rfl, s.discardIn_counts a, s.discardIn_xch a, s.discardIn_hold a, s.discardIn_keeps a⟩
  case taken =>
    have taken := answerIn_taken s a p
    obtain ⟨sameActive, sameTracked, sameCancelled⟩ := taken.tracks
    rw [answers_taken on up ok type host fits] at run
    refine ⟨s.answerIn a p, taken.others, taken.self, taken.regs, taken.still, fun g rows first steeped => ?_, fun plain => ?_,
      fun yes => ?_, fun rows gone => ?_, fun rows active known => ?_⟩
    · have tag : s.answerTag p = some g := (if_neg (by simpa using rows)).trans first
      exact (answerIn_steeped s a p tag steeped).2
    · refine (answerIn_plain s a p fun g tag => ?_).2
      rcases plain with yes | confirmed
      · exact absurd ((if_pos yes).symm.trans tag) nofun
      · unfold State.answerTag at tag
        split at tag
        · exact nomatch tag
        · obtain ⟨r, first, rfl⟩ := Option.map_eq_some_iff.mp tag
          exact confirmed r first
    · rw [run]
      exact congrArg _ (if_pos yes)
    · rw [run]
      refine congrArg _ ((if_neg (by simpa using rows)).trans (if_pos ?_))
      rw [sameActive, sameTracked, sameCancelled]
      dsimp only [h] at gone
      rcases gone with idle | ⟨untracked, uncancelled⟩
      · rw [idle]
        rfl
      · rw [untracked, uncancelled]
        exact Bool.or_true _
    · rw [run]
      refine congrArg _ ((if_neg (by simpa using rows)).trans (if_neg ?_))
      rw [sameActive, sameTracked, sameCancelled]
      dsimp only [h] at active known
      rw [active]
      rcases known with tracked | cancelled
      · rw [tracked]
        exact Bool.false_ne_true
      · rw [cancelled, Bool.or_true]
        exact Bool.false_ne_true
  case answer =>
    refine ⟨fun other => ?_, fun own => ?_⟩
    · rw [answerRec_other v a h.ctx h.epoch fmt _ plain other]
      exact ⟨rfl, fun d ne => answered_others _ _ _ _ ne, rfl⟩
    · exact ⟨v.answered h.ctx h.epoch (decCopyH r).tag, answerRec_own v a h.ctx h.epoch fmt _ plain own, rfl,
        fun d ne => answered_others _ _ _ _ ne⟩

end Sys2Proof.Machine
end

section
/-! Channels and attachment points that leave service (R43, R51, R54, R59, R72): what requests that wait again, an abandoned
channel and a packet sent change. -/

namespace Sys2Proof.Machine

theorem mem_insSorted {α : Type} (lt : α → α → Bool) (x y : α) (l : List α) : y ∈ insSorted lt x l ↔ y = x ∨ y ∈ l := by
  induction l with
  | nil => simp [insSorted]
  | cons z r ih =>
    unfold insSorted
    split
    · simp
    · rw [List.mem_cons, ih, List.mem_cons]
      tauto

/-- A point whose bulk lane takes a packet (R55). -/
def CorePt.takes (p : CorePt) (el : Nat) (bs : Bytes) : CorePt :=
  { p with
    busy := if cueLane bs then p.busy else p.ends el bs
    fly := p.fly.filter (fun f => decide (el < f.1)) ++ [(p.ends el bs, bs)] }

namespace State

variable (s : State)

/- Requests -/

theorem waitAgain_eq (rs : List MemReq) :
    s.waitAgain rs = { s with mem := { s.mem with wait := (s.waitAgain rs).mem.wait } } := by
  unfold waitAgain
  induction rs generalizing s with
  | nil => rfl
  | cons r rs ih => exact (ih (s.modWait _)).trans rfl

theorem mem_waitAgain (rs : List MemReq) (r : MemReq) : r ∈ (s.waitAgain rs).mem.wait ↔ r ∈ rs ∨ r ∈ s.mem.wait := by
  unfold waitAgain
  induction rs generalizing s with
  | nil => simp
  | cons x rs ih =>
    rw [List.foldl_cons, ih, modWait_mem, mem_insSorted, List.mem_cons]
    tauto

theorem waitAgain_ch (rs : List MemReq) (d : Nat) : (s.waitAgain rs).ch d = s.ch d := by
  rw [waitAgain_eq]
  rfl

theorem abandonOut_eq (c : Nat) (resume : Bool) :
    s.abandonOut c resume = { s with mem := (s.abandonOut c resume).mem } := by
  unfold abandonOut
  dsimp only
  rw [waitAgain_eq]
  rfl

theorem abandonOut_ch_self {c : Nat} (resume : Bool) (hc : c < s.mem.chs.length) :
    (s.abandonOut c resume).ch c = { s.ch c with out := [], stale := (s.ch c).stale ++ (s.ch c).out } := by
  unfold abandonOut
  dsimp only
  rw [waitAgain_ch, ch_modCh_self _ _ hc]

theorem abandonOut_ch_ne {c d : Nat} (resume : Bool) (ne : d ≠ c) : (s.abandonOut c resume).ch d = s.ch d := by
  unfold abandonOut
  dsimp only
  rw [waitAgain_ch, ch_modCh_ne _ _ ne]

/-- What was outstanding waits again, but for requests whose data are discarded; what waited still does. -/
theorem mem_abandonOut (c : Nat) (resume : Bool) (r : MemReq) : r ∈ (s.abandonOut c resume).mem.wait ↔
    (∃ o ∈ (s.ch c).out, o.dead = false ∧ { o.req with again := true, resume := resume || o.req.resume } = r) ∨
      r ∈ s.mem.wait := by
  unfold abandonOut
  dsimp only
  rw [mem_waitAgain, List.mem_map]
  simp only [List.mem_filter, Bool.not_eq_true', and_assoc, modCh_mem]

/-- A working channel that is isolated: the notice is set, its requests leave it (R43, R66). -/
theorem isolateMem_working {c : Nat} (working : (s.ch c).iso = false) : s.isolateMem c =
    ((s.notice 2).modCh c (fun x => { x with iso := true, lowAt := s.el })).abandonOut c false := by
  unfold isolateMem
  rw [working]
  rfl

/- Packets -/

/-- On a point that is down a packet waits (R72). -/
theorem coreSend_down {a : Nat} (bs : Bytes) (down : (s.pt a).down = true) :
    s.coreSend a bs = s.modPt a (fun p => { p with pend := p.pend ++ [bs] }) := if_pos down

/-- On one that is not, it leaves at once (R54). -/
theorem coreSend_high {a : Nat} (bs : Bytes) (high : (s.pt a).down = false) : s.coreSend a bs = { s with core := { s.core with
    pts := lset a ((s.pt a).takes s.el bs) s.core.pts, sent := s.core.sent ++ [⟨a, bs⟩] } } := by
  unfold coreSend
  rw [if_neg (by simp [high])]
  rfl

@[simp] theorem coreSend_pts_length (a : Nat) (bs : Bytes) : (s.coreSend a bs).core.pts.length = s.core.pts.length := by
  cases down : (s.pt a).down with
  | true =>
    rw [coreSend_down _ _ down]
    exact lset_length ..
  | false =>
    rw [coreSend_high _ _ down]
    exact lset_length ..

theorem coreSend_pt_ne {a d : Nat} (bs : Bytes) (ne : d ≠ a) : (s.coreSend a bs).pt d = s.pt d := by
  cases down : (s.pt a).down with
  | true =>
    rw [coreSend_down _ _ down]
    exact pt_modPt_ne _ _ ne
  | false =>
    rw [coreSend_high _ _ down]
    exact lset_getD_ne _ _ _ _ _ ne

variable {s}

theorem coreSend_pt_high {a : Nat} {bs : Bytes} (high : (s.pt a).down = false) (ha : a < s.core.pts.length) :
    (s.coreSend a bs).pt a = (s.pt a).takes s.el bs := by
  rw [coreSend_high _ _ high]
  unfold pt
  dsimp only
  rw [lset_getD _ _ _ _ _ ha, if_pos rfl]

theorem coreSend_pt_down {a : Nat} {bs : Bytes} (down : (s.pt a).down = true) (ha : a < s.core.pts.length) :
    (s.coreSend a bs).pt a = { s.pt a with pend := (s.pt a).pend ++ [bs] } := by
  rw [coreSend_down _ _ down, pt_modPt_self _ _ ha]

/- Packets that move to other points -/

/-- `t` comes from `s` by sending packets: none that was sent or waits is taken away, and no point changes its isolation. -/
structure Sending (s t : State) : Prop where
  rest : t = { s with core := t.core }
  sent : s.core.sent <+: t.core.sent
  pend : ∀ j, (s.pt j).pend <+: (t.pt j).pend
  iso : ∀ j, (t.pt j).iso = (s.pt j).iso
  pts : t.core.pts.length = s.core.pts.length

theorem Sending.refl (s : State) : s.Sending s :=
  ⟨rfl, List.prefix_refl _, fun _ => List.prefix_refl _, fun _ => rfl, rfl⟩

theorem Sending.trans {s t u : State} (h : s.Sending t) (k : t.Sending u) : s.Sending u := by
  refine ⟨?_, h.sent.trans k.sent, fun j => (h.pend j).trans (k.pend j), fun j => (k.iso j).trans (h.iso j), k.pts.trans h.pts⟩
  have rest := k.rest
  rw [h.rest] at rest
  exact rest

theorem Sending.ptUp {s t : State} (h : s.Sending t) (j : Nat) : t.ptUp j = s.ptUp j := by
  refine ptUp_congr ?_ ?_ ?_ (h.iso j)
  · rw [h.rest]
  · rw [h.rest]
  · rw [h.rest]

theorem coreSend_sending {a : Nat} (bs : Bytes) (ha : a < s.core.pts.length) : s.Sending (s.coreSend a bs) := by
  have pt : (s.pt a).pend <+: ((s.coreSend a bs).pt a).pend ∧ ((s.coreSend a bs).pt a).iso = (s.pt a).iso ∧
      s.core.sent <+: (s.coreSend a bs).core.sent := by
    cases down : (s.pt a).down with
    | true =>
      rw [coreSend_pt_down down ha, coreSend_down _ _ down]
      exact ⟨List.prefix_append .., rfl, List.prefix_refl _⟩
    | false =>
      rw [coreSend_pt_high down ha, coreSend_sent _ _ down]
      exact ⟨List.prefix_refl _, rfl, List.prefix_append ..⟩
  obtain ⟨pend, iso, sent⟩ := pt
  refine ⟨s.coreSend_eq a bs, sent, fun j => ?_, fun j => ?_, s.coreSend_pts_length a bs⟩
  · by_cases e : j = a
    · rw [e]
      exact pend
    · rw [coreSend_pt_ne _ _ e]
  · by_cases e : j = a
    · rw [e]
      exact iso
    · rw [coreSend_pt_ne _ _ e]

/-- A packet given to a point has left on it or waits there. -/
theorem coreSend_given {a : Nat} (bs : Bytes) (ha : a < s.core.pts.length) :
    ⟨a, bs⟩ ∈ (s.coreSend a bs).core.sent ∨ bs ∈ ((s.coreSend a bs).pt a).pend := by
  cases down : (s.pt a).down with
  | true =>
    rw [coreSend_pt_down down ha]
    simp
  | false =>
    rw [coreSend_sent _ _ down]
    simp

theorem mem_ptsOf {p j : Nat} (h : j ∈ s.ptsOf p) : 8 * p ≤ j ∧ j < 8 * p + 8 ∧ s.ptUp j = true := by
  obtain ⟨here, up⟩ := List.mem_filter.mp h
  obtain ⟨k, hk, rfl⟩ := List.mem_map.mp here
  have := List.mem_range.mp hk
  exact ⟨by omega, by omega, up⟩

theorem outPoint_sending (i : Nat) : s.Sending (s.outPoint i).2 := by
  unfold outPoint
  dsimp only
  split
  · exact Sending.refl s
  · split
    · exact Sending.refl s
    · exact ⟨rfl, List.prefix_refl _, fun _ => List.prefix_refl _, fun _ => rfl, rfl⟩

theorem firstPt_lt {p : Nat} (hp : p < 4) : s.firstPt p < 32 := by
  unfold firstPt
  generalize e : s.ptsOf p ++ (List.range 32).filter s.ptUp = l
  cases l with
  | nil =>
    show 8 * p < 32
    omega
  | cons j r =>
    have here : j ∈ s.ptsOf p ++ (List.range 32).filter s.ptUp := by simp [e]
    rcases List.mem_append.mp here with near | any
    · have := mem_ptsOf near
      show j < 32
      omega
    · exact List.mem_range.mp (List.mem_filter.mp any).1

theorem firstPt_up {p : Nat} (works : ∃ j < 32, s.ptUp j = true) : s.ptUp (s.firstPt p) = true := by
  unfold firstPt
  obtain ⟨j, hj, up⟩ := works
  have here : j ∈ s.ptsOf p ++ (List.range 32).filter s.ptUp :=
    List.mem_append_right _ (List.mem_filter.mpr ⟨List.mem_range.mpr hj, up⟩)
  generalize e : s.ptsOf p ++ (List.range 32).filter s.ptUp = l at here
  cases l with
  | nil => exact absurd here List.not_mem_nil
  | cons k r =>
    have first : k ∈ s.ptsOf p ++ (List.range 32).filter s.ptUp := by simp [e]
    rcases List.mem_append.mp first with near | any
    · exact (mem_ptsOf near).2.2
    · exact (List.mem_filter.mp any).2

/-- The point that a packet takes is one of the block's, and one that works while any does (R59). -/
theorem outPoint_point {i : Nat} (hi : i < 32) :
    (s.outPoint i).1 < 32 ∧ ((∃ j < 32, s.ptUp j = true) → s.ptUp (s.outPoint i).1 = true) := by
  unfold outPoint
  dsimp only
  split
  · next up => exact ⟨hi, fun _ => up⟩
  · split
    · exact ⟨firstPt_lt (by omega), firstPt_up⟩
    · next notUp ps =>
      have pos : 0 < (s.ptsOf (i / 8)).length := List.length_pos_of_ne_nil ps
      have index := Nat.mod_lt s.core.nextPoint pos
      have near : (s.ptsOf (i / 8)).getD (s.core.nextPoint % (s.ptsOf (i / 8)).length) i ∈ s.ptsOf (i / 8) := by
        rw [List.getD_eq_getElem _ _ index]
        exact List.getElem_mem index
      obtain ⟨-, below, up⟩ := mem_ptsOf near
      exact ⟨by show _ < 32; omega, fun _ => up⟩

/-- Send a packet of point `i` on a point that works. -/
def resend (i : Nat) (s : State) (b : Bytes) : State := (s.outPoint i).2.coreSend (s.outPoint i).1 b

section Resend

variable {i : Nat} (hi : i < 32) (pts : s.core.pts.length = 32)
include hi pts

theorem resend_sending (b : Bytes) : s.Sending (s.resend i b) := by
  have out := outPoint_sending (s := s) i
  exact out.trans (coreSend_sending b (by rw [out.pts, pts]; exact (outPoint_point hi).1))

theorem resends_sending (l : List Bytes) : s.Sending (l.foldl (resend i) s) := by
  induction l generalizing s with
  | nil => exact Sending.refl s
  | cons b r ih =>
    have first := resend_sending hi pts b
    exact first.trans (ih (first.pts.trans pts))

variable (isolated : (s.pt i).iso = true) (others : ∃ j < 32, s.ptUp j = true)
include isolated others

omit pts in
theorem outPoint_ne : (s.outPoint i).1 ≠ i := by
  intro e
  have up := (outPoint_point hi).2 others
  rw [e] at up
  simp [State.ptUp, isolated] at up

/-- While another point works, a packet resent goes there. -/
theorem resend_elsewhere (b : Bytes) : (s.resend i b).pt i = s.pt i ∧
    ∃ j, j ≠ i ∧ (⟨j, b⟩ ∈ (s.resend i b).core.sent ∨ b ∈ ((s.resend i b).pt j).pend) := by
  have ne := outPoint_ne hi isolated others
  have out := outPoint_sending (s := s) i
  refine ⟨?_, _, ne, coreSend_given b (by rw [out.pts, pts]; exact (outPoint_point hi).1)⟩
  unfold resend
  rw [coreSend_pt_ne _ _ ne.symm]
  unfold outPoint
  dsimp only
  split
  · rfl
  · split <;> rfl

theorem resends_elsewhere (l : List Bytes) : (l.foldl (resend i) s).pt i = s.pt i ∧
    ∀ b ∈ l, ∃ j, j ≠ i ∧ (⟨j, b⟩ ∈ (l.foldl (resend i) s).core.sent ∨ b ∈ ((l.foldl (resend i) s).pt j).pend) := by
  induction l generalizing s with
  | nil => exact ⟨rfl, nofun⟩
  | cons b r ih =>
    have first := resend_sending hi pts b
    obtain ⟨here, j, ne, given⟩ := resend_elsewhere hi pts isolated others b
    have ptsAfter := first.pts.trans pts
    have isolatedAfter := (first.iso i).trans isolated
    have othersAfter : ∃ j < 32, (s.resend i b).ptUp j = true := by
      obtain ⟨k, hk, up⟩ := others
      exact ⟨k, hk, (first.ptUp k).trans up⟩
    obtain ⟨stays, rest⟩ := ih ptsAfter isolatedAfter othersAfter
    have later := resends_sending hi ptsAfter r
    refine ⟨stays.trans here, fun x hx => ?_⟩
    rcases List.mem_cons.mp hx with rfl | more
    · exact ⟨j, ne, given.imp (fun m => later.sent.subset m) (fun m => (later.pend j).subset m)⟩
    · exact rest x more

end Resend

end State

end Sys2Proof.Machine
end

section
/-! PORT_STUCK_TIMEOUT, ISOLATION_RELEASE, CORE_DOWN_RISE and CORE_DOWN_FALL (R43, R71, R72, R78). -/

namespace Sys2Proof.Machine

/-- A stuck port is counted, with a detection (R43, R432). -/
def State.portFault (s : State) : State := (s.countSat 0x40 8 8 1).detect

namespace State

variable (s : State)

theorem portFault_still : s.portFault.still = ({ s with rsl := s.portFault.rsl } : State).still :=
  (detect_still _).trans rfl

theorem portFault_core : s.portFault.core = s.core := (still_core s.portFault_still).trans rfl
theorem portFault_clk : s.portFault.clk = s.clk := (still_clk s.portFault_still).trans rfl

theorem portFault_ch (d : Nat) : s.portFault.ch d = s.ch d := by
  have chs : s.portFault.mem.chs = s.mem.chs := (still_mem_chs s.portFault_still).trans rfl
  unfold ch
  rw [chs]

theorem portFault_pt (d : Nat) : s.portFault.pt d = s.pt d := by
  unfold pt
  rw [portFault_core]

theorem portFault_ptUp (d : Nat) : s.portFault.ptUp d = s.ptUp d :=
  ptUp_congr (s := s) ((still_glb s.portFault_still).trans rfl) ((still_start s.portFault_still).trans rfl)
    ((still_pitches s.portFault_still).trans rfl) (congrArg CorePt.iso (s.portFault_pt d))

theorem portFault_unacked (a left : Nat) : s.portFault.unacked a left = s.unacked a left := by
  unfold unacked el
  rw [portFault_core, portFault_pt, portFault_clk]

@[simp] theorem stuckEvent_still (k i : Nat) : (s.stuckEvent k i).still = s.still := event_still ..

theorem stuckEvent_waits (k i : Nat) : s.Waits (s.stuckEvent k i) := waits_of (event_waits ..) rfl

theorem stuckEvent_notice (k i : Nat) : bit ((s.stuckEvent k i).rd 0x20) 2 = true :=
  event_notice _ _ _ _ _ _ (bit_setBit_self _ _ _ (by decide)) (by decide)

theorem stuckEvent_ch (k i d : Nat) : (s.stuckEvent k i).ch d = s.ch d := by
  unfold ch
  rw [still_mem_chs (s.stuckEvent_still k i)]

theorem stuckEvent_pt (k i d : Nat) : (s.stuckEvent k i).pt d = s.pt d := by
  unfold pt
  rw [still_core (s.stuckEvent_still k i)]

end State

/- Which ports are stuck -/

section Stuck

variable {s : State} {i left : Nat}

theorem stuckOp_early (early : s.el < s.rdMin 0x30 0x400) (k : Nat) : stuckOp k i left s = s := by
  unfold stuckOp
  simp only [early, decide_true, Bool.or_true, if_true]

variable (alive : s.alive = true) (due : s.rdMin 0x30 0x400 ≤ s.el)
include alive due

theorem stuckOp_mem (up : s.chUp i = true) : stuckOp 0 i left s = (s.portFault.isolateMem i).stuckEvent 0 i := by
  simp only [stuckOp, alive, up, Nat.not_lt.mpr due, if_true, Bool.not_true, Bool.or_self, decide_false, Bool.false_eq_true,
    if_false]
  rfl

theorem stuckOp_core (up : s.ptUp i = true) : stuckOp 1 i left s = (s.portFault.isolateCore i left).stuckEvent 1 i := by
  simp only [stuckOp, alive, up, Nat.not_lt.mpr due, if_true, Bool.not_true, Bool.or_self, decide_false, Bool.false_eq_true,
    if_false, Nat.one_ne_zero]
  rfl

theorem stuckOp_link (up : (s.port i).usable = true) : stuckOp 2 i left s = (s.portFault.linkDown i).stuckEvent 2 i := by
  have two : (2 : Nat) ≠ 0 ∧ (2 : Nat) ≠ 1 := by decide
  simp only [stuckOp, alive, up, Nat.not_lt.mpr due, Bool.not_true, Bool.or_self, decide_false, Bool.false_eq_true, if_false,
    two]
  rfl

end Stuck

/- A channel that is isolated -/

theorem iso_of_chUp {s : State} {c : Nat} (up : s.chUp c = true) : (s.ch c).iso = false := by
  unfold State.chUp at up
  rw [Bool.and_eq_true, Bool.not_eq_true'] at up
  exact up.1

section Isolate

variable (s : State) {i : Nat} (hi : i < s.mem.chs.length) (working : (s.ch i).iso = false)
include hi working

theorem isolateMem_self : (s.isolateMem i).ch i =
    { s.ch i with iso := true, lowAt := s.el, out := [], stale := (s.ch i).stale ++ (s.ch i).out } := by
  rw [State.isolateMem_working _ working, State.abandonOut_ch_self _ _ (by simpa using hi),
    State.ch_modCh_self (s.notice 2) _ hi]
  rfl

omit hi in
theorem isolateMem_others {d : Nat} (ne : d ≠ i) : (s.isolateMem i).ch d = s.ch d := by
  rw [State.isolateMem_working _ working, State.abandonOut_ch_ne _ _ ne, State.ch_modCh_ne _ _ ne]
  rfl

/-- What was outstanding on it waits again (R43, R53). -/
theorem isolateMem_waits {o : MemOut} (ho : o ∈ (s.ch i).out) (live : o.dead = false) :
    { o.req with again := true } ∈ (s.isolateMem i).mem.wait := by
  rw [State.isolateMem_working _ working, State.mem_abandonOut, State.ch_modCh_self (s.notice 2) _ hi]
  exact .inl ⟨o, ho, live, rfl⟩

omit hi in
theorem isolateMem_ctxs : (s.isolateMem i).ctxs = s.ctxs := by
  rw [State.isolateMem_working _ working, State.abandonOut_eq]
  rfl

end Isolate

/- A point that is isolated -/

/-- The point as its isolation leaves it, before its packets move. -/
def State.cutPoint (s : State) (a : Nat) : State :=
  (if (s.pt a).iso then s else s.notice 2).modPt a (fun x => { x with iso := true, lowAt := s.el, pend := [], busy := 0, fly := [] })

theorem isolateCore_resends (s : State) (a left : Nat) :
    s.isolateCore a left = (s.unacked a left ++ (s.pt a).pend).foldl (State.resend a) (s.cutPoint a) := by
  unfold State.isolateCore State.cutPoint
  split <;> rfl

section Cut

variable (s : State) {a : Nat} (ha : a < s.core.pts.length)

theorem cutPoint_eq : s.cutPoint a = { s with regs := (s.cutPoint a).regs, core := (s.cutPoint a).core } := by
  unfold State.cutPoint
  split <;> rfl

theorem cutPoint_others {d : Nat} (ne : d ≠ a) : (s.cutPoint a).pt d = s.pt d := by
  unfold State.cutPoint
  rw [State.pt_modPt_ne _ _ ne]
  split <;> rfl

include ha in
theorem cutPoint_self : ((s.cutPoint a).pt a).iso = true ∧ ((s.cutPoint a).pt a).pend = [] ∧
    (s.cutPoint a).core.pts.length = s.core.pts.length := by
  have same : (if (s.pt a).iso then s else s.notice 2).core = s.core := by split <;> rfl
  unfold State.cutPoint
  rw [State.pt_modPt_self _ _ (by rw [same]; exact ha), State.modPt_core]
  refine ⟨rfl, rfl, ?_⟩
  rw [same]
  exact lset_length ..

theorem cutPoint_ptUp {d : Nat} (ne : d ≠ a) : (s.cutPoint a).ptUp d = s.ptUp d := by
  refine ptUp_congr ?_ ?_ ?_ (by rw [cutPoint_others s ne])
  · rw [cutPoint_eq]
  · rw [cutPoint_eq]
  · rw [cutPoint_eq]

end Cut

/-- What is known of a point once it is isolated and its packets have moved (R43, R59). -/
theorem isolateCore_moves (s : State) {a : Nat} (left : Nat) (ha : a < 32) (pts : s.core.pts.length = 32) :
    ((s.isolateCore a left).pt a).iso = true ∧ (s.isolateCore a left).mem = s.mem ∧ (s.isolateCore a left).ctxs = s.ctxs ∧
      ((∃ j < 32, j ≠ a ∧ s.ptUp j = true) → ((s.isolateCore a left).pt a).pend = [] ∧
        ∀ b ∈ s.unacked a left ++ (s.pt a).pend,
          ∃ j, j ≠ a ∧ (⟨j, b⟩ ∈ (s.isolateCore a left).core.sent ∨ b ∈ ((s.isolateCore a left).pt j).pend)) := by
  obtain ⟨isolated, empty, cutPts⟩ := cutPoint_self s (by rw [pts]; exact ha)
  have cut := cutPoint_eq s (a := a)
  have moved := State.resends_sending ha (cutPts.trans pts) (s.unacked a left ++ (s.pt a).pend)
  rw [isolateCore_resends]
  refine ⟨(moved.iso a).trans isolated, ?_, ?_, fun ⟨j, hj, ne, up⟩ => ?_⟩
  · rw [moved.rest, cut]
  · rw [moved.rest, cut]
  · obtain ⟨here, given⟩ := State.resends_elsewhere ha (cutPts.trans pts) isolated ⟨j, hj, (cutPoint_ptUp s ne).trans up⟩
      (s.unacked a left ++ (s.pt a).pend)
    exact ⟨by rw [here, empty], given⟩

/- ISOLATION_RELEASE -/

section Release

variable {s : State} {i : Nat} (alive : s.alive = true)
include alive

theorem isoReleaseOp_mem (iso : (s.ch i).iso = true) (up : s.pitchUp (i / 4) = true) (low : (s.ch i).lowAt + 16 ≤ s.el) :
    isoReleaseOp 0 i s = s.modCh i (fun x => { x with iso := false }) := by
  simp only [isoReleaseOp, alive, iso, up, low, Bool.not_true, Bool.false_eq_true, if_false, if_true, decide_true, Bool.and_self]

theorem isoReleaseOp_core (iso : (s.pt i).iso = true) (up : s.pitchUp (i / 8) = true) (low : (s.pt i).lowAt + 16 ≤ s.el) :
    isoReleaseOp 1 i s = s.modPt i (fun x => { x with iso := false }) := by
  simp only [isoReleaseOp, alive, iso, up, low, Bool.not_true, Bool.false_eq_true, if_false, if_true, decide_true, Bool.and_self,
    Nat.one_ne_zero]

/-- A link port as the release leaves it: with lnk_en where it is to come up (R71, R78). -/
def Port.released (x : Port) (el : Nat) : Port := { x with
  iso := false
  en := x.en || decide (x.st = 1)
  enAt := if x.en || decide (x.st ≠ 1) then x.enAt else el }

theorem isoReleaseOp_link (iso : (s.port i).iso = true) (up : s.pitchUp (portPitch i) = true) (st : (s.port i).st ≤ 1)
    (low : (s.port i).lowAt + 16 ≤ s.el) : isoReleaseOp 2 i s = s.modPort i (fun x => x.released s.el) := by
  have two : (2 : Nat) ≠ 0 ∧ (2 : Nat) ≠ 1 := by decide
  simp only [isoReleaseOp, alive, iso, up, st, low, two, Bool.not_true, Bool.false_eq_true, if_false, if_true, decide_true,
    Bool.and_self]
  rfl

end Release

/- CORE_DOWN_FALL -/

/-- Packets given to a point that is not down leave in their order (R54, R72). -/
theorem coreSends_leave {s : State} {a : Nat} (ha : a < s.core.pts.length) (high : (s.pt a).down = false) (l : List Bytes) :
    let t := l.foldl (fun s b => s.coreSend a b) s
    (t.pt a).down = false ∧ (t.pt a).pend = (s.pt a).pend ∧ t.core.sent = s.core.sent ++ l.map (fun b => ⟨a, b⟩) ∧
      (∀ d, d ≠ a → t.pt d = s.pt d) ∧ t = { s with core := t.core } := by
  induction l generalizing s with
  | nil => exact ⟨high, rfl, (List.append_nil _).symm, fun _ _ => rfl, rfl⟩
  | cons b r ih =>
    have pt := State.coreSend_pt_high (bs := b) high ha
    obtain ⟨down, pend, sent, others, rest⟩ := ih (s := s.coreSend a b) (by rw [State.coreSend_pts_length]; exact ha)
      (by rw [pt]; exact high)
    refine ⟨down, ?_, ?_, fun d ne => ?_, ?_⟩
    · rw [List.foldl_cons, pend, pt]
      rfl
    · rw [List.foldl_cons, sent, State.coreSend_sent _ _ high]
      simp
    · rw [List.foldl_cons, others d ne, State.coreSend_pt_ne _ _ ne]
    · rw [List.foldl_cons]
      generalize r.foldl (fun s b => s.coreSend a b) (s.coreSend a b) = t at rest ⊢
      rw [State.coreSend_eq] at rest
      exact rest

theorem coreDownFallOp_sends {s : State} {a : Nat} (down : (s.pt a).down = true) : coreDownFallOp a s =
    (s.pt a).pend.foldl (fun s b => s.coreSend a b) (s.modPt a (fun x => { x with down := false, pend := [] })) := by
  simp only [coreDownFallOp, down, Bool.not_true, Bool.false_eq_true, if_false]

/-- Settles O34: one clause per command, each by the kind of its port. -/
theorem isolationAndCoreDown : Obligations.IsolationAndCoreDown := by
  unfold Obligations.IsolationAndCoreDown
  refine ⟨?stuck, ?release, ?coreDown⟩
  case stuck =>
    intro i left s ok alive
    refine ⟨fun due => ?due, fun early k => congrArg Host.Outcome.next (stuckOp_early early k)⟩
    intro u
    refine ⟨fun hi up => ?mem, fun hi up => ?core, fun hi up => ?link⟩
    case mem =>
      have chs : i < s.portFault.mem.chs.length := by
        rw [State.still_mem_chs s.portFault_still]
        exact ok.chs ▸ hi
      have working : (s.portFault.ch i).iso = false := by
        rw [s.portFault_ch]
        exact iso_of_chUp up
      refine ⟨_, congrArg Host.Outcome.next (stuckOp_mem alive due up), rfl, ?_, ?_, ?_, fun o ho live => ?_, fun d ne => ?_, ?_,
        State.stuckEvent_notice ..⟩
      · rw [State.stuckEvent_ch, isolateMem_self _ chs working]
      · rw [State.stuckEvent_ch, isolateMem_self _ chs working]
      · rw [State.stuckEvent_ch, isolateMem_self _ chs working, s.portFault_ch]
      · refine State.waits_mem (State.stuckEvent_waits ..) (isolateMem_waits _ chs working ?_ live)
        rw [s.portFault_ch]
        exact ho
      · rw [State.stuckEvent_ch, isolateMem_others _ working ne, s.portFault_ch]
      · rw [State.still_ctxs (State.stuckEvent_still ..), isolateMem_ctxs _ working, State.still_ctxs s.portFault_still]
    case core =>
      have pts : s.portFault.core.pts.length = 32 := by rw [s.portFault_core, ok.pts]
      obtain ⟨iso, mem, ctxs, moves⟩ := isolateCore_moves s.portFault left hi pts
      refine ⟨_, congrArg Host.Outcome.next (stuckOp_core alive due up), rfl, ?_, fun ⟨j, hj, ne, other⟩ => ?_, ?_, ?_,
        State.stuckEvent_notice ..⟩
      · rw [State.stuckEvent_pt, iso]
      · obtain ⟨empty, given⟩ := moves ⟨j, hj, ne, (s.portFault_ptUp j).trans other⟩
        rw [s.portFault_unacked, s.portFault_pt] at given
        refine ⟨by rw [State.stuckEvent_pt, empty], fun b hb => ?_⟩
        obtain ⟨k, away, there⟩ := given b hb
        refine ⟨k, away, ?_⟩
        rw [State.still_core (State.stuckEvent_still ..), State.stuckEvent_pt]
        exact there
      · rw [State.still_mem_chs (State.stuckEvent_still ..), mem, State.still_mem_chs s.portFault_still]
      · rw [State.still_ctxs (State.stuckEvent_still ..), ctxs, State.still_ctxs s.portFault_still]
    case link =>
      exact ⟨congrArg Host.Outcome.next (stuckOp_link alive due up), State.stuckEvent_notice ..⟩
  case release =>
    intro i s ok alive
    refine ⟨fun hi iso up low => ?_, fun hi iso up low => ?_, fun hi iso up st low => ?_⟩
    · exact ⟨_, congrArg Host.Outcome.next (isoReleaseOp_mem alive iso up low), s.ch_modCh_self _ (by rw [ok.chs]; exact hi),
        fun d ne => s.ch_modCh_ne _ ne, rfl⟩
    · exact ⟨_, congrArg Host.Outcome.next (isoReleaseOp_core alive iso up low), s.pt_modPt_self _ (by rw [ok.pts]; exact hi),
        fun d ne => s.pt_modPt_ne _ ne, rfl⟩
    · have self := s.port_modPort_self (fun x => x.released s.el) (by rw [ok.ports]; exact hi)
      refine ⟨_, congrArg Host.Outcome.next (isoReleaseOp_link alive iso up st low), ?_, ?_, ?_, fun d ne => s.port_modPort_ne _ ne,
        rfl⟩
      · rw [self]
        rfl
      · rw [self]
        rfl
      · rw [self]
        rfl
  case coreDown =>
    intro a s ok ha
    have pts : a < s.core.pts.length := by rw [ok.pts]; exact ha
    refine ⟨?rise, fun down => ?fall⟩
    case rise =>
      have self := s.pt_modPt_self (fun x => { x with down := true, pend := x.begun s.el ++ x.pend, fly := [], busy := 0 }) pts
      refine ⟨coreDownRiseOp a s, rfl, self, fun d ne => s.pt_modPt_ne _ ne, rfl, fun b => ?_⟩
      have down : ((coreDownRiseOp a s).pt a).down = true := congrArg CorePt.down self
      have pts' : a < (coreDownRiseOp a s).core.pts.length := by
        rw [show (coreDownRiseOp a s).core.pts.length = s.core.pts.length from lset_length ..]
        exact pts
      rw [State.coreSend_pt_down down pts', State.coreSend_down _ _ down]
      exact ⟨rfl, rfl⟩
    case fall =>
      have self := s.pt_modPt_self (fun x => { x with down := false, pend := [] }) pts
      have pts' : a < (s.modPt a (fun x => { x with down := false, pend := [] })).core.pts.length := by
        rw [State.modPt_core]
        exact (lset_length ..).symm ▸ pts
      obtain ⟨high, pend, sent, others, rest⟩ := coreSends_leave pts' (congrArg CorePt.down self) (s.pt a).pend
      rw [← coreDownFallOp_sends down] at high pend sent others rest
      exact ⟨_, rfl, high, pend.trans (congrArg CorePt.pend self), sent, fun d ne => (others d ne).trans (s.pt_modPt_ne _ ne), rest⟩

end Sys2Proof.Machine
end

section
/-! Answers on the memory port (R47, R48, R51, R52): one equation per outcome of MEM_READ_BEAT, MEM_WRITE_RESPONSE and
MEM_ANSWER_TIMEOUT, and what a request's end and an attempt's failure change. -/

namespace Sys2Proof.Machine

namespace State

variable (s : State)

/- The channel of a request that ends -/

theorem memEnd_ch_ne {c d : Nat} (tag : Nat) (ne : d ≠ c) : (s.memEnd c tag).ch d = s.ch d := ch_modCh_ne _ _ ne

theorem memEnd_ch_self {c : Nat} (tag : Nat) (hc : c < s.mem.chs.length) :
    (s.memEnd c tag).ch c = { s.ch c with out := (s.ch c).out.filter (fun o => decide (o.tag ≠ tag)) } := ch_modCh_self _ _ hc

/-- No request is outstanding under the tag any more. -/
theorem memEnd_ends {c tag : Nat} (hc : c < s.mem.chs.length) : ∀ x ∈ ((s.memEnd c tag).ch c).out, x.tag ≠ tag := by
  rw [memEnd_ch_self _ _ hc]
  exact fun x hx => by simpa using (List.mem_filter.mp hx).2

/-- A channel with an outstanding request is one of the block's. -/
theorem ch_lt_of_find {c tag : Nat} {o : MemOut} (found : (s.ch c).out.find? (fun x => decide (x.tag = tag)) = some o) :
    c < s.mem.chs.length := by
  by_contra outside
  have reset : s.ch c = MemCh.reset := List.getD_eq_default _ _ (by omega)
  rw [reset] at found
  exact nomatch found

/-- The answer to a write changes the attempts that hold other requests back alone (R49). -/
theorem writeAnswered_out (id c : Nat) : ((s.writeAnswered id).ch c).out = (s.ch c).out := by
  unfold writeAnswered ch
  dsimp only
  by_cases hc : c < s.mem.chs.length
  · simp [hc]
  · rw [List.getD_eq_default _ _ (by simpa using hc), List.getD_eq_default _ _ (by omega)]

/- A failed attempt -/

theorem memRetry_faults {c code : Nat} {r : MemReq} {spent : Bool} (last : spent = true ∨ 4 ≤ r.tries) :
    s.memRetry c r spent code = s.detect.memUnitFault r code c := by
  unfold memRetry
  rw [if_pos (by simpa using last)]

theorem memRetry_waits {c code : Nat} {r : MemReq} {spent : Bool} (again : spent = false) (few : r.tries < 4) :
    s.memRetry c r spent code = s.detect.waitAgain [r] := by
  unfold memRetry
  rw [if_neg (by simp [again, few])]
  rfl

end State

/- MEM_READ_BEAT -/

/-- The header of a read beat agrees with its parity wire (R47). -/
def beatOk (tag beat sts : Nat) (last hpar : Bool) : Bool :=
  parityOk 16 (tag % 1024 + beat % 8 * 2 ^ 10 + b2n last * 2 ^ 13 + sts % 4 * 2 ^ 14) hpar

/-- The words of a read beat agree with theirs. -/
def beatDataOk (data : Bytes) (par : List Bool) : Bool :=
  wordsParOk (exactly 512 data) (par ++ List.replicate (128 - par.length) false)

section Beat

variable {s : State} {c tag beat sts : Nat} {last hpar : Bool} {data : Bytes} {par : List Bool} (alive : s.alive = true)
  (up : s.chUp c = true)
include alive up

theorem memBeatOp_late (late : ∃ o ∈ (s.ch c).quar, o.tag = tag) :
    memBeatOp c tag beat last sts data par hpar s = s.unquarantine c tag := by
  have here : (s.ch c).quar.any (fun o => decide (o.tag = tag)) = true := by simpa using late
  simp only [memBeatOp, alive, up, here, Bool.not_true, Bool.or_self, Bool.false_eq_true, if_false, if_true]

variable (fresh : ∀ o ∈ (s.ch c).quar, o.tag ≠ tag)
include fresh

omit alive up in
theorem quar_any_false : (s.ch c).quar.any (fun o => decide (o.tag = tag)) = false := by simpa using fresh

theorem memBeatOp_stale (stale : ∃ o ∈ (s.ch c).stale, o.tag = tag ∧ o.req.wr = false) :
    memBeatOp c tag beat last sts data par hpar s = if last then s.unstale c tag else s := by
  have here : (s.ch c).stale.any (fun o => decide (o.tag = tag) && !o.req.wr) = true := by simpa using stale
  simp only [memBeatOp, alive, up, quar_any_false fresh, here, Bool.not_true, Bool.or_self, Bool.false_eq_true, if_false, if_true]

variable (notStale : ∀ o ∈ (s.ch c).stale, o.tag = tag → o.req.wr = true)
include notStale

omit alive up fresh in
theorem stale_any_read_false : (s.ch c).stale.any (fun o => decide (o.tag = tag) && !o.req.wr) = false := by
  simpa using notStale

theorem memBeatOp_unknown (unknown : ∀ x ∈ (s.ch c).out, x.tag ≠ tag) :
    memBeatOp c tag beat last sts data par hpar s = s.memProto c tag := by
  have none : (s.ch c).out.find? (fun o => decide (o.tag = tag)) = none := List.find?_eq_none.mpr (by simpa using unknown)
  simp only [memBeatOp, alive, up, quar_any_false fresh, stale_any_read_false notStale, none, Bool.not_true, Bool.or_self,
    Bool.false_eq_true, if_false]

variable {o : MemOut} (found : (s.ch c).out.find? (fun x => decide (x.tag = tag)) = some o) (read : o.req.wr = false)
  (live : o.dead = false)
include found read live

/-- A beat of an outstanding read: its header, its place, its status and its words, in this order. -/
theorem memBeatOp_read : memBeatOp c tag beat last sts data par hpar s =
    if !(beatOk tag beat sts last hpar) then (s.memFail c tag last).memRetry c o.req false 0x01
    else if beat ≠ o.beat ∨ last ≠ decide (beat + 1 = beatsOf o.req.lines) then s.memProto c tag
    else if 2 ≤ sts then (s.memFail c tag last).memUnitFault o.req 0x03 c
    else if sts = 1 then (s.memFail c tag last).memRetry c { o.req with poisoned := true } o.req.poisoned 0x02
    else if !(beatDataOk data par) then (s.memFail c tag last).memRetry c o.req false 0x01
    else if last then
      ((s.memEnd c tag).record 5 c (some o.req.ctx) 0 s.now tag
        (le 8 o.req.addr ++ (o.got ++ exactly 512 data).take (64 * o.req.lines)) true).deliver o.req
          ((o.got ++ exactly 512 data).take (64 * o.req.lines))
    else s.modCh c (fun x => { x with out := x.out.map (fun q =>
      if q.tag = tag then { q with beat := q.beat + 1, got := o.got ++ exactly 512 data } else q) }) := by
  unfold memBeatOp
  simp only [alive, up, quar_any_false fresh, stale_any_read_false notStale, found, read, live, Bool.not_true, Bool.or_self,
    Bool.false_eq_true, if_false]
  rfl

end Beat

/-- The first request of a tag, after each of the tag's is changed without its tag. -/
theorem find_map_tag {l : List MemOut} {tag : Nat} {o : MemOut} (f : MemOut → MemOut) (keeps : ∀ q, (f q).tag = q.tag)
    (found : l.find? (fun x => decide (x.tag = tag)) = some o) :
    (l.map (fun q => if q.tag = tag then f q else q)).find? (fun x => decide (x.tag = tag)) = some (f o) := by
  have same : (fun x : MemOut => decide (x.tag = tag)) ∘ (fun q => if q.tag = tag then f q else q) =
      fun x => decide (x.tag = tag) := by
    funext q
    by_cases h : q.tag = tag <;> simp [h, keeps]
  rw [List.find?_map, same, found]
  have here : o.tag = tag := by simpa using List.find?_some found
  simp [here]

/- MEM_WRITE_RESPONSE -/

/-- The header of a write response agrees with its parity wire (R48). -/
def respOk (tag sts : Nat) (hpar : Bool) : Bool := parityOk 12 (tag % 1024 + sts % 4 * 2 ^ 10) hpar

section Response

variable {s : State} {c tag sts : Nat} {hpar : Bool} (alive : s.alive = true) (up : s.chUp c = true)
include alive up

theorem memWriteRespOp_late (late : ∃ o ∈ (s.ch c).quar, o.tag = tag) : memWriteRespOp c tag sts hpar s = s.unquarantine c tag := by
  have here : (s.ch c).quar.any (fun o => decide (o.tag = tag)) = true := by simpa using late
  simp only [memWriteRespOp, alive, up, here, Bool.not_true, Bool.or_self, Bool.false_eq_true, if_false, if_true]

variable (fresh : ∀ o ∈ (s.ch c).quar, o.tag ≠ tag)
include fresh

theorem memWriteRespOp_stale (stale : ∃ o ∈ (s.ch c).stale, o.tag = tag ∧ o.req.wr = true) :
    memWriteRespOp c tag sts hpar s = s.unstale c tag := by
  have here : (s.ch c).stale.any (fun o => decide (o.tag = tag) && o.req.wr) = true := by simpa using stale
  simp only [memWriteRespOp, alive, up, quar_any_false fresh, here, Bool.not_true, Bool.or_self, Bool.false_eq_true, if_false,
    if_true]

variable (notStale : ∀ o ∈ (s.ch c).stale, o.tag = tag → o.req.wr = false)
include notStale

omit alive up fresh in
theorem stale_any_write_false : (s.ch c).stale.any (fun o => decide (o.tag = tag) && o.req.wr) = false := by
  simpa using notStale

theorem memWriteRespOp_unknown (unknown : ∀ x ∈ (s.ch c).out, x.tag ≠ tag) :
    memWriteRespOp c tag sts hpar s = s.memProto c tag := by
  have none : (s.ch c).out.find? (fun o => decide (o.tag = tag)) = none := List.find?_eq_none.mpr (by simpa using unknown)
  simp only [memWriteRespOp, alive, up, quar_any_false fresh, stale_any_write_false notStale, none, Bool.not_true, Bool.or_self,
    Bool.false_eq_true, if_false]

theorem memWriteRespOp_write {o : MemOut} (found : (s.ch c).out.find? (fun x => decide (x.tag = tag)) = some o)
    (write : o.req.wr = true) : memWriteRespOp c tag sts hpar s =
    if !(respOk tag sts hpar) then (s.memEnd c tag).memRetry c o.req false 0x01
    else
      let u := (s.memEnd c tag).writeAnswered o.req.id
      if 2 ≤ sts then u.memUnitFault o.req 0x03 c
      else if sts = 1 then u.memRetry c { o.req with poisoned := true } o.req.poisoned 0x02
      else u.deliver o.req [] := by
  unfold memWriteRespOp
  simp only [alive, up, quar_any_false fresh, stale_any_write_false notStale, found, write, Bool.not_true, Bool.or_self,
    Bool.false_eq_true, if_false]
  rfl

end Response

end Sys2Proof.Machine
end

section
/-! MEM_READ_BEAT, MEM_WRITE_RESPONSE, MEM_ANSWER_TIMEOUT, MEM_DOWN_RISE and MEM_DOWN_FALL (R47, R48, R51, R52, R72). -/

namespace Sys2Proof.Machine

/-- What a record of an input leaves after a change of the memory port. -/
theorem still_of_mem {s u v : State} (recorded : u.still = v.still) (port : v = { s with mem := v.mem }) :
    u.still = ({ s with mem := u.mem } : State).still := by
  have mem := congrArg State.mem recorded
  have same : v.still = ({ s with mem := v.mem } : State).still := congrArg State.still port
  exact recorded.trans (same.trans (congrArg (fun m : Mem => ({ s.still with mem := m } : State)) mem.symm))

/- Where requests go -/

theorem chUp_congr {s t : State} (glb : t.glb = s.glb) (start : t.start = s.start) (pitches : t.pitches = s.pitches)
    {c : Nat} (iso : (t.ch c).iso = (s.ch c).iso) : t.chUp c = s.chUp c := by
  unfold State.chUp
  rw [iso, pitchUp_congr glb start pitches]

/-- The channel of an address depends on the channels that work (R46, R53). -/
theorem chanOf_congr {s t : State} (glb : t.glb = s.glb) (up : ∀ c, t.chUp c = s.chUp c) (a : Nat) : t.chanOf a = s.chanOf a := by
  have chUp : t.chUp = s.chUp := funext up
  unfold State.chanOf State.nPitch
  rw [chUp, glb]

/- mem_down -/

/-- A channel that is isolated, or whose mem_down is high, issues nothing (R43, R72). -/
theorem memIssueOp_closed {s : State} {c : Nat} (closed : s.chUp c = false ∨ (s.ch c).down = true) : memIssueOp c s = s := by
  unfold memIssueOp
  rcases closed with isolated | down
  · simp only [isolated, Bool.not_false, Bool.or_true, Bool.true_or, if_true]
  · simp only [down, Bool.or_true, Bool.true_or, if_true]

section DownFall

variable (s : State) {c : Nat} (hc : c < s.mem.chs.length)

/-- The channel's outstanding requests wait again while mem_down falls. -/
def State.fallen (s : State) (c : Nat) : State := (s.modCh c (fun x => { x with down := false })).abandonOut c true

theorem fallen_eq (c : Nat) : s.fallen c = { s with mem := (s.fallen c).mem } := by
  unfold State.fallen
  rw [State.abandonOut_eq]
  rfl

theorem fallen_others {d : Nat} (ne : d ≠ c) : (s.fallen c).ch d = s.ch d := by
  unfold State.fallen
  rw [State.abandonOut_ch_ne _ _ ne, State.ch_modCh_ne _ _ ne]

include hc

theorem fallen_self : (s.fallen c).ch c =
    { s.ch c with down := false, out := [], stale := (s.ch c).stale ++ (s.ch c).out } := by
  unfold State.fallen
  rw [State.abandonOut_ch_self _ _ (by simpa using hc), State.ch_modCh_self _ _ hc]

theorem mem_fallen (r : MemReq) : r ∈ (s.fallen c).mem.wait ↔
    (∃ o ∈ (s.ch c).out, o.dead = false ∧ { o.req with again := true, resume := true } = r) ∨ r ∈ s.mem.wait := by
  unfold State.fallen
  rw [State.mem_abandonOut, State.ch_modCh_self _ _ hc]
  simp only [Bool.true_or]
  rfl

theorem fallen_chanOf (a : Nat) : (s.fallen c).chanOf a = s.chanOf a := by
  have rest := fallen_eq s c
  refine chanOf_congr (by rw [rest]) (fun d => ?_) a
  refine chUp_congr (by rw [rest]) (by rw [rest]) (by rw [rest]) ?_
  by_cases e : d = c
  · rw [e, fallen_self s hc]
  · rw [fallen_others s e]

omit hc in
theorem memDownFallOp_down (down : (s.ch c).down = true) : memDownFallOp c s =
    (s.fallen c).modWait (fun ws => ws.map (fun r =>
      if r.iss ≠ 0 ∧ (s.fallen c).chanOf r.addr = some c then { r with resume := true } else r)) := by
  unfold memDownFallOp
  rw [down]
  rfl

end DownFall

/- MEM_ANSWER_TIMEOUT -/

section Timeout

variable {s : State} {c tag : Nat} {o : MemOut} (found : (s.ch c).out.find? (fun x => decide (x.tag = tag)) = some o)
include found

theorem memTimeoutOp_early (early : s.el < o.at_ + s.rdMin 0x34 0x1000) : memTimeoutOp c tag s = s := by
  have notDue : ¬ o.at_ + s.rdMin 0x34 0x1000 ≤ s.el := by omega
  simp only [memTimeoutOp, found, notDue, decide_false, Bool.and_false, Bool.false_eq_true, if_false]

theorem memTimeoutOp_due (alive : s.alive = true) (up : s.chUp c = true) (due : o.at_ + s.rdMin 0x34 0x1000 ≤ s.el) :
    memTimeoutOp c tag s =
      let u := (s.memEnd c tag).modCh c (fun x => { x with quar := x.quar ++ [o] })
      let v := if o.dead then u else u.memRetry c { o.req with silent := true } o.req.silent 0x04
      if 256 < (v.ch c).quar.length then (v.isolateMem c).stuckEvent 0 c else v := by
  simp only [memTimeoutOp, found, alive, up, due, decide_true, Bool.and_self, if_true]

end Timeout

/-- Settles O33: one clause per command, each by the equations of its outcomes. -/
theorem memRequestsEnd : Obligations.MemRequestsEnd := by
  unfold Obligations.MemRequestsEnd
  refine ⟨⟨?beat, ?response, ?retry, ?late⟩, ?timeout, ?down⟩
  case beat =>
    intro c tag beat sts last hpar data par s alive up fresh notStale good goodData
    refine ⟨fun o found read live => ?_, fun unknown => congrArg Host.Outcome.next
      (memBeatOp_unknown alive up fresh notStale unknown)⟩
    have hc := s.ch_lt_of_find found
    have run : exec (.memReadBeat c tag beat last sts data par hpar) s = _ :=
      congrArg Host.Outcome.next (memBeatOp_read alive up fresh notStale found read live)
    refine ⟨fun bad => ?_, fun ok => ?_, fun ok place final => ?_⟩
    · rw [run, show beatOk tag beat sts last hpar = false from bad]
      rfl
    · rw [show beatOk tag beat sts last hpar = true from ok, Bool.not_true, if_neg Bool.false_ne_true] at run
      exact fun wrong => by rw [run, if_pos wrong]
    · rw [show beatOk tag beat sts last hpar = true from ok, Bool.not_true, if_neg Bool.false_ne_true,
        if_neg (not_or.mpr ⟨not_not.mpr place, not_not.mpr final⟩)] at run
      refine ⟨fun refused => ?_, fun poisoned => ?_, fun fine bad => ?_, fun fine intact more _ => ?_, fun fine intact done _ => ?_⟩
      · rw [run, if_pos refused]
      · rw [run, if_neg (by omega), if_pos poisoned]
      · rw [run, if_neg (by omega), if_neg (by omega), show beatDataOk data par = false from bad]
        rfl
      · rw [if_neg (by omega), if_neg (by omega), show beatDataOk data par = true from intact, Bool.not_true,
          if_neg Bool.false_ne_true, if_neg (by simp [more])] at run
        refine ⟨_, run, ?_, fun d ne => State.ch_modCh_ne _ _ ne, rfl, rfl⟩
        rw [State.ch_modCh_self _ _ hc]
        exact find_map_tag (fun q => { q with beat := q.beat + 1, got := o.got ++ exactly 512 data }) (fun _ => rfl) found
      · rw [if_neg (by omega), if_neg (by omega), show beatDataOk data par = true from intact, Bool.not_true,
          if_neg Bool.false_ne_true, if_pos done] at run
        refine ⟨_, run, ?_, fun d ne => ?_, still_of_mem (State.record_still ..) rfl⟩
        · unfold State.ch
          rw [State.record_mem_chs]
          exact s.memEnd_ends hc
        · unfold State.ch
          rw [State.record_mem_chs]
          exact s.memEnd_ch_ne _ ne
  case response =>
    intro c tag sts hpar s alive up fresh notStale good
    refine ⟨fun o found write => ?_, fun unknown => congrArg Host.Outcome.next
      (memWriteRespOp_unknown alive up fresh notStale unknown)⟩
    have hc := s.ch_lt_of_find found
    have run : exec (.memWriteResponse c tag sts hpar) s = _ :=
      congrArg Host.Outcome.next (memWriteRespOp_write alive up fresh notStale found write)
    refine ⟨fun bad => ?_, fun ok => ?_⟩
    · rw [run, show respOk tag sts hpar = false from bad]
      rfl
    · rw [show respOk tag sts hpar = true from ok, Bool.not_true, if_neg Bool.false_ne_true] at run
      intro u
      refine ⟨?_, fun refused => ?_, fun poisoned => ?_, fun fine => ?_⟩
      · rw [State.writeAnswered_out]
        exact s.memEnd_ends hc
      · rw [run, if_pos refused]
      · rw [run, if_neg (by omega), if_pos poisoned]
      · rw [run, if_neg (by omega), if_neg (by omega)]
  case retry =>
    intro c code r spent s
    refine ⟨State.memRetry_faults s, fun again few => ?_⟩
    have chs : s.detect.mem.chs = s.mem.chs := (State.still_mem_chs s.detect_still).trans rfl
    have ctxs : s.detect.ctxs = s.ctxs := (State.still_ctxs s.detect_still).trans rfl
    rw [s.memRetry_waits again few]
    refine ⟨?_, fun q hq => ?_, ?_, ?_⟩
    · rw [State.mem_waitAgain]
      exact .inl (List.mem_singleton.mpr rfl)
    · rw [State.mem_waitAgain]
      exact .inr (State.waits_mem s.detect_waits hq)
    · rw [State.waitAgain_eq]
      exact chs
    · rw [State.waitAgain_eq]
      exact ctxs
  case late =>
    intro c tag sts beat last hpar data par s alive up hc
    refine ⟨fun late x which => ?_, fun fresh o stale named x which => ?_⟩
    · have run : exec x s = .next (s.unquarantine c tag) := by
        rcases which with rfl | rfl
        · exact congrArg Host.Outcome.next (memBeatOp_late alive up late)
        · exact congrArg Host.Outcome.next (memWriteRespOp_late alive up late)
      exact ⟨_, run, State.ch_modCh_self _ _ hc, fun d ne => State.ch_modCh_ne _ _ ne, rfl⟩
    · have run : exec x s = .next (if o.req.wr = true ∨ last = true then s.unstale c tag else s) := by
        rcases which with ⟨rfl, read⟩ | ⟨rfl, write⟩
        · refine congrArg Host.Outcome.next ((memBeatOp_stale alive up fresh ⟨o, stale, named, read⟩).trans ?_)
          simp only [read, Bool.false_eq_true, false_or]
        · refine congrArg Host.Outcome.next ((memWriteRespOp_stale alive up fresh ⟨o, stale, named, write⟩).trans ?_)
          rw [if_pos (.inl write)]
      refine ⟨fun read more => ?_, fun frees => ?_⟩
      · rw [run, if_neg (by simp [read, more])]
      · rw [run, if_pos frees]
        exact ⟨_, rfl, State.ch_modCh_self _ _ hc, fun d ne => State.ch_modCh_ne _ _ ne, rfl⟩
  case timeout =>
    intro c tag o s hc alive up found
    refine ⟨fun due => ?due, fun early => congrArg Host.Outcome.next (memTimeoutOp_early found early)⟩
    intro u v
    have self : u.ch c = { s.ch c with
        out := (s.ch c).out.filter (fun x => decide (x.tag ≠ tag)), quar := (s.ch c).quar ++ [o] } := by
      show State.ch (State.modCh _ _ _) c = _
      rw [State.ch_modCh_self _ _ (by simpa [State.memEnd] using hc), State.memEnd_ch_self _ _ hc]
    refine ⟨?_, ?_, congrArg Host.Outcome.next (memTimeoutOp_due found alive up due)⟩
    · rw [self]
      exact fun x hx => by simpa using (List.mem_filter.mp hx).2
    · rw [self]
  case down =>
    intro c s hc
    refine ⟨?rise, fun down => ?fall⟩
    case rise =>
      have self := s.ch_modCh_self (fun x => { x with down := true }) hc
      refine ⟨memDownRiseOp c s, rfl, self, fun d ne => State.ch_modCh_ne _ _ ne, rfl, ?_, rfl⟩
      exact congrArg Host.Outcome.next (memIssueOp_closed (.inr (congrArg MemCh.down self)))
    case fall =>
      refine ⟨_, congrArg Host.Outcome.next (memDownFallOp_down s down), fallen_self s hc, fun o ho live => ?_, fun r hr => ?_,
        fun d ne => fallen_others s ne, ?_⟩
      · refine List.mem_map.mpr ⟨{ o.req with again := true, resume := true }, (mem_fallen s hc _).mpr (.inl ⟨o, ho, live, rfl⟩), ?_⟩
        exact ite_self _
      · refine List.mem_map.mpr ⟨r, (mem_fallen s hc _).mpr (.inr hr), ?_⟩
        rw [fallen_chanOf s hc]
      · rw [fallen_eq s c]
        rfl

end Sys2Proof.Machine
end

section
/-! The request a channel issues next and the tag it goes out under (R46, R49 to R51, R72, R417). -/

namespace Sys2Proof.Machine

/- The least of a list -/

theorem leastBy_eq_none {α : Type} (lt : α → α → Bool) {l : List α} (least : leastBy lt l = none) : l = [] := by
  cases l with
  | nil => rfl
  | cons x r =>
    unfold leastBy at least
    split at least
    · cases least
    · split at least <;> cases least

theorem leastBy_least {α : Type} (f : α → Nat) {l : List α} {r : α} (least : leastBy (fun a b => decide (f a < f b)) l = some r) :
    r ∈ l ∧ ∀ q ∈ l, f r ≤ f q := by
  induction l generalizing r with
  | nil => cases least
  | cons x l ih =>
    unfold leastBy at least
    split at least
    · next rest =>
      obtain rfl : x = r := by simpa using least
      simp [leastBy_eq_none _ rest]
    · next y rest =>
      obtain ⟨mem, le⟩ := ih rest
      by_cases less : f y < f x
      · obtain rfl : y = r := by simpa [less] using least
        exact ⟨.tail _ mem, List.forall_mem_cons.mpr ⟨less.le, le⟩⟩
      · obtain rfl : x = r := by simpa [less] using least
        exact ⟨.head _, List.forall_mem_cons.mpr ⟨le_rfl, fun q hq => (not_lt.mp less).trans (le q hq)⟩⟩

/-- The class of a request, as its bundle carries it (R46). -/
theorem findSome_classes {l : List MemReq} {r : MemReq}
    (found : [0, 1, 2, 3].findSome? (fun k => l.find? (fun q => decide (q.cls = k))) = some r) :
    (∀ q ∈ l, r.cls ≤ q.cls) ∧ ∃ pre post, l = pre ++ r :: post ∧ ∀ q ∈ pre, q.cls ≠ r.cls := by
  obtain ⟨before, k, after, classes, here, lower⟩ := List.findSome?_eq_some_iff.mp found
  obtain ⟨cls, pre, post, split, first⟩ := List.find?_eq_some_iff_append.mp here
  obtain rfl : r.cls = k := by simpa using cls
  refine ⟨fun q hq => ?_, pre, post, split, fun q hq => by simpa using first q hq⟩
  by_contra less
  have order : (before ++ r.cls :: after).Pairwise (· < ·) := classes ▸ by decide
  have isClass : r.cls ∈ [0, 1, 2, 3] := classes ▸ by simp
  have among : q.cls ∈ before ++ r.cls :: after := classes ▸ by simp at isClass ⊢; omega
  obtain ⟨-, above, -⟩ := List.pairwise_append.mp order
  have below : q.cls ∈ before := by
    rcases List.mem_append.mp among with here | here
    · exact here
    · rcases List.mem_cons.mp here with same | later
      · omega
      · have := (List.pairwise_cons.mp above).1 _ later
        omega
  exact absurd (List.find?_eq_none.mp (lower _ below) q hq) (by simp)

/- Tags -/

/-- A tag is free, or every number tried was held. -/
theorem freeTag_free_or (ch : MemCh) (k n : Nat) (hn : n < 1024) : freeTag ch k n < 1024 ∧
    ((∀ o ∈ ch.tagged, o.tag ≠ freeTag ch k n) ∨ ∀ j < k, ∃ o ∈ ch.tagged, o.tag = (n + j) % 1024) := by
  induction k generalizing n with
  | zero => exact ⟨hn, .inr fun j hj => absurd hj (Nat.not_lt_zero j)⟩
  | succ k ih =>
    unfold freeTag
    split
    · next held =>
      obtain ⟨o, ho, tag⟩ : ∃ o ∈ ch.tagged, o.tag = n := by simpa using held
      obtain ⟨lt, free⟩ := ih ((n + 1) % 1024) (Nat.mod_lt _ (by decide))
      refine ⟨lt, free.imp_right fun all j hj => ?_⟩
      cases j with
      | zero => exact ⟨o, ho, by omega⟩
      | succ j =>
        obtain ⟨p, hp, eq⟩ := all j (by omega)
        exact ⟨p, hp, by omega⟩
    · next notHeld => exact ⟨hn, .inl (by simpa using notHeld)⟩

/-- While fewer than 1,024 requests hold a tag, the tag that the channel takes is one that none of them holds (R51). -/
theorem freeTag_free {ch : MemCh} {n : Nat} (room : ch.tagged.length < 1024) (hn : n < 1024) :
    freeTag ch 1024 n < 1024 ∧ ∀ o ∈ ch.tagged, o.tag ≠ freeTag ch 1024 n := by
  obtain ⟨lt, free | all⟩ := freeTag_free_or ch 1024 n hn
  · exact ⟨lt, free⟩
  · have held : List.range 1024 ⊆ ch.tagged.map MemOut.tag := fun t ht => by
      have ht := List.mem_range.mp ht
      obtain ⟨o, ho, tag⟩ := all ((t + 1024 - n) % 1024) (Nat.mod_lt _ (by decide))
      exact List.mem_map.mpr ⟨o, ho, by omega⟩
    have count := (List.nodup_range.subperm held).length_le
    rw [List.length_range, List.length_map] at count
    omega

/- The next request -/

namespace State

variable {s : State} {c : Nat} {r : MemReq}

/-- The next request is one that the channel is to carry and that nothing holds back. -/
theorem nextReq_mem (next : s.nextReq c = some r) : r ∈ s.forChan c := by
  unfold nextReq at next
  split at next
  · next q least =>
    obtain rfl : q = r := by simpa using next
    exact (List.mem_filter.mp (leastBy_least MemReq.iss least).1).1
  · obtain ⟨k, -, here⟩ := List.exists_of_findSome?_eq_some next
    exact List.mem_of_find?_eq_some here

/-- Among those that were pending when mem_down fell, it is the first in order of original issue (R72). -/
theorem nextReq_resume (next : s.nextReq c = some r) (resume : r.resume = true) :
    ∀ q ∈ s.forChan c, q.resume = true → r.iss ≤ q.iss := by
  intro q hq pending
  have pendings : q ∈ (s.forChan c).filter MemReq.resume := List.mem_filter.mpr ⟨hq, pending⟩
  unfold nextReq at next
  split at next
  · next x least =>
    obtain rfl : x = r := by simpa using next
    exact (leastBy_least MemReq.iss least).2 q pendings
  · next none =>
    rw [leastBy_eq_none _ none] at pendings
    exact nomatch pendings

/-- Otherwise none of those is left, and it is of the lowest class, and the oldest of it (R50). -/
theorem nextReq_class (next : s.nextReq c = some r) (fresh : r.resume = false) :
    (∀ q ∈ s.forChan c, q.resume = false ∧ r.cls ≤ q.cls) ∧
      ∃ pre post, s.forChan c = pre ++ r :: post ∧ ∀ q ∈ pre, q.cls ≠ r.cls := by
  unfold nextReq at next
  split at next
  · next x least =>
    obtain rfl : x = r := by simpa using next
    have pending := (List.mem_filter.mp (leastBy_least MemReq.iss least).1).2
    rw [fresh] at pending
    exact nomatch pending
  · next none =>
    obtain ⟨lowest, oldest⟩ := findSome_classes next
    have notPending := List.filter_eq_nil_iff.mp (leastBy_eq_none _ none)
    exact ⟨fun q hq => ⟨by simpa using notPending q hq, lowest q hq⟩, oldest⟩

theorem forChan_unblocked (mem : r ∈ s.forChan c) : s.blockedBy r = false := by
  have holds := (List.mem_filter.mp mem).2
  simp only [Bool.and_eq_true, Bool.not_eq_true'] at holds
  exact holds.1.2

/-- It overlaps no write that waits to be issued once more (R49). -/
theorem forChan_waits (mem : r ∈ s.forChan c) {w : MemReq} (hw : w ∈ s.mem.wait) (issued : w.iss ≠ 0) (write : w.wr = true)
    (other : w.id ≠ r.id) : overlap w r = false := by
  have free := forChan_unblocked mem
  unfold blockedBy at free
  simp only [Bool.or_eq_false_iff, List.any_eq_false] at free
  simpa [issued, write, other] using free.1 w hw

/-- It overlaps no write that is outstanding, nor one of a quarantined or abandoned tag that has had no response (R49). -/
theorem forChan_issued (mem : r ∈ s.forChan c) {ch : MemCh} (hch : ch ∈ s.mem.chs) :
    (∀ o ∈ ch.out, o.req.wr = true → o.req.id ≠ r.id → overlap o.req r = false) ∧
      (∀ o ∈ ch.quar ++ ch.stale, o.dead = false → o.req.wr = true → o.req.id ≠ r.id → overlap o.req r = false) := by
  have free := forChan_unblocked mem
  unfold blockedBy at free
  simp only [Bool.or_eq_false_iff, List.any_eq_false] at free
  have here := free.2 ch hch
  simp only [Bool.or_eq_true, not_or, List.any_eq_true, not_exists, not_and] at here
  exact ⟨fun o ho write other => by simpa [write, other] using here.1 o ho,
    fun o ho live write other => by simpa [live, write, other] using here.2 o ho⟩

end State

end Sys2Proof.Machine
end

section
/-! MEM_REQUEST_ISSUE (R46, R47, R49 to R51, R72, R390, R417). -/

namespace Sys2Proof.Machine

namespace State

variable (s : State)

/- Requests that the record log holds back -/

theorem slip_still (p : Nat) : (s.slip p).still = s.still := by
  unfold slip
  rw [notice_still, event_still, countSat_still]

theorem slip_waits (p : Nat) : s.Waits (s.slip p) := waits_of (event_waits ..) rfl

theorem rd_slip_ne (p : Nat) {x : Nat} (hx : x ∉ 0xF000C :: lntRegs) : (s.slip p).rd x = s.rd x := by
  rw [List.mem_cons, not_or] at hx
  unfold slip
  rw [rd_notice_ne _ _ (by rintro rfl; exact hx.2 (by decide)), rd_event_ne _ _ _ _ _ hx.2, rd_countSat_ne _ _ _ _ hx.1]

/-- Slips under pace lock, one for each request that is withheld. -/
theorem slips_waits (l : List Nat) : s.Waits (l.foldl (fun u _ => u.slip u.glb.anchor) s) := by
  induction l generalizing s with
  | nil => exact waits_refl s
  | cons x l ih => exact (slip_waits s _).trans (ih _)

/-- What neither marking requests nor slips change, withholding leaves. -/
theorem withhold_leaves {β : Type} (g : State → β) (marks : ∀ f, g (s.modWait f) = g s) (slips : ∀ (u : State) p, g (u.slip p) = g u)
    (c : Nat) : g (s.withhold c) = g s := by
  unfold withhold
  dsimp only
  split
  · exact (foldl_keeps g (fun u _ => u.slip u.glb.anchor) (fun u _ => slips u _) _ _).trans (marks _)
  · exact marks _

theorem withhold_still (c : Nat) : (s.withhold c).still = s.still :=
  s.withhold_leaves still (fun _ => rfl) (fun u p => u.slip_still p) c

theorem withhold_keeps (c : Nat) : s.KeepsRegs (s.withhold c) (0xF000C :: lntRegs) := fun x hx =>
  s.withhold_leaves (·.rd x) (fun _ => rfl) (fun u p => u.rd_slip_ne p hx) c

/-- Each request still waits, marked or not. -/
theorem withhold_waits (c : Nat) {w : MemReq} (hw : w ∈ s.mem.wait) : ∃ l, { w with lag := l } ∈ (s.withhold c).mem.wait := by
  have marked (due : MemReq → Bool) : ∃ l, { w with lag := l } ∈
      (s.modWait (fun ws => ws.map (fun r => if due r then { r with lag := true } else r))).mem.wait := by
    refine ⟨if due w then true else w.lag, List.mem_map.mpr ⟨w, hw, ?_⟩⟩
    split <;> rfl
  unfold withhold
  dsimp only
  obtain ⟨l, here⟩ := marked (fun r => decide (s.chanOf r.addr = some c) && s.withheld r && !r.lag)
  split
  · exact ⟨l, waits_mem (slips_waits _ _) here⟩
  · exact ⟨l, here⟩

theorem withhold_alive (c : Nat) : (s.withhold c).alive = s.alive := by
  unfold alive
  rw [still_start (s.withhold_still c)]

theorem withhold_ch (c d : Nat) : (s.withhold c).ch d = s.ch d := by
  unfold ch
  rw [still_mem_chs (s.withhold_still c)]

theorem withhold_chUp (c d : Nat) : (s.withhold c).chUp d = s.chUp d :=
  have still := s.withhold_still c
  chUp_congr (still_glb still) (still_start still) (still_pitches still) (congrArg MemCh.iso (s.withhold_ch c d))

/- The query record that leaves with a write -/

/-- A query record's first issue stamps it (R123). -/
def stamped (r : MemReq) : State × MemReq := if r.why.unit = .query ∧ r.iss = 0 then s.stampQuery r else (s, r)

theorem stamped_eq (r : MemReq) : ∃ ctxs data, s.stamped r = ({ s with ctxs := ctxs }, { r with data := data }) ∧
    (r.why.unit ≠ .query ∨ r.iss ≠ 0 → ctxs = s.ctxs ∧ data = r.data) := by
  unfold stamped
  split
  · next query =>
    have first : ¬(r.why.unit ≠ .query ∨ r.iss ≠ 0) := by simp [query]
    unfold stampQuery
    split
    · exact ⟨s.ctxs, r.data, rfl, fun _ => ⟨rfl, rfl⟩⟩
    · split
      · exact ⟨s.ctxs, r.data, rfl, fun _ => ⟨rfl, rfl⟩⟩
      · exact ⟨_, _, rfl, fun other => absurd other first⟩
  · exact ⟨s.ctxs, r.data, rfl, fun _ => ⟨rfl, rfl⟩⟩

/- The channel that issues it -/

/-- The request as it is outstanding. -/
def issued (r : MemReq) : MemReq := { r with
  tries := if r.again then r.tries else r.tries + 1
  again := false
  resume := false
  iss := if r.iss = 0 then s.mem.nextIss else r.iss }

theorem issueReq_rest (c t : Nat) (r : MemReq) : s.issueReq c t r = { s with mem := (s.issueReq c t r).mem } := rfl

/-- The channel with the request outstanding: its beats are deducted from the allowance (R50). -/
def sent (c t : Nat) (r : MemReq) : MemCh := { s.ch c with
  rd := if r.wr then (s.ch c).rd else (s.ch c).rd - 128 * beatsOf r.lines
  wr := if r.wr then (s.ch c).wr - 128 * beatsOf r.lines else (s.ch c).wr
  out := (s.ch c).out ++ [⟨t, s.issued r, 0, [], s.el, false⟩]
  nextTag := (t + 1) % 1024 }

theorem sent_congr {u : State} {c : Nat} (ch : u.ch c = s.ch c) (el : u.el = s.el) (nextIss : u.mem.nextIss = s.mem.nextIss)
    (t : Nat) (r : MemReq) : u.sent c t r = s.sent c t r := by
  unfold sent issued
  rw [ch, el, nextIss]

theorem issueReq_wait (c t : Nat) (r : MemReq) :
    (s.issueReq c t r).mem.wait = s.mem.wait.filter (fun w => decide (w.id ≠ r.id)) := rfl
theorem issueReq_beats (c t : Nat) (r : MemReq) : (s.issueReq c t r).mem.beats = s.mem.beats ++ memBeats c t r := rfl
theorem issueReq_cmds (c t : Nat) (r : MemReq) : (s.issueReq c t r).mem.cmds = s.mem.cmds ++ [memCmd c t r] := rfl

theorem issueReq_chs (c t : Nat) (r : MemReq) : (s.issueReq c t r).mem.chs = lset c (s.sent c t r) s.mem.chs := rfl

theorem issueReq_ch_ne {c d : Nat} (t : Nat) (r : MemReq) (ne : d ≠ c) : (s.issueReq c t r).ch d = s.ch d := by
  unfold ch
  rw [issueReq_chs]
  exact lset_getD_ne _ _ _ _ _ ne

theorem issueReq_ch_self {c : Nat} (t : Nat) (r : MemReq) (hc : c < s.mem.chs.length) :
    (s.issueReq c t r).ch c = s.sent c t r := by
  unfold ch
  rw [issueReq_chs, lset_getD _ _ _ _ _ hc, if_pos rfl]

/- What it is charged -/

theorem chargeIssue_rest (c : Nat) (r : MemReq) : s.chargeIssue c r =
    { s with pitches := (s.chargeIssue c r).pitches, ctxs := (s.chargeIssue c r).ctxs, hold := (s.chargeIssue c r).hold } := by
  unfold chargeIssue
  split
  · have rest := (s.chargeMem_charged (c / 4) r.ctx r.cls r.lines).rest
    have hold : (s.chargeMem (c / 4) r.ctx r.cls r.lines).hold = s.hold := by rw [rest]
    rw [hold]
    exact rest
  · split <;> rfl

theorem chargeIssue_ctx (c : Nat) (r : MemReq) (d : Nat) :
    (s.chargeIssue c r).ctx d = { s.ctx d with acct := ((s.chargeIssue c r).ctx d).acct } := by
  unfold chargeIssue
  split
  · have charged := s.chargeMem_charged (c / 4) r.ctx r.cls r.lines
    by_cases own : d = r.ctx
    · rw [own]
      exact charged.self
    · rw [charged.others d own]
  · split <;> rfl

/-- A first issue is charged; that of a query record also gives the sequence number of the question (R123). -/
def billed (c : Nat) (r : MemReq) : State :=
  if r.iss ≠ 0 then s else (if r.why.unit = .query then s.wr (pageAt r.ctx 0x0C) r.why.idx else s).chargeIssue c r

theorem billed_rest (c : Nat) (r : MemReq) : s.billed c r = { s with
    regs := (s.billed c r).regs, pitches := (s.billed c r).pitches, ctxs := (s.billed c r).ctxs, hold := (s.billed c r).hold } := by
  unfold billed
  split
  · rfl
  · rw [chargeIssue_rest]
    split <;> rfl

theorem billed_mem (c : Nat) (r : MemReq) : (s.billed c r).mem = s.mem := by rw [billed_rest]

theorem billed_ch (c : Nat) (r : MemReq) (d : Nat) : (s.billed c r).ch d = s.ch d := by
  unfold ch
  rw [billed_mem]

theorem billed_keeps (c : Nat) (r : MemReq) : s.KeepsRegs (s.billed c r) [pageAt r.ctx 0x0C] := by
  intro x hx
  unfold billed
  split
  · rfl
  · rw [chargeIssue_rest]
    split
    · exact rd_wr_ne _ _ (by simpa using hx)
    · rfl

theorem billed_ctx (c : Nat) (r : MemReq) (d : Nat) : (s.billed c r).ctx d = { s.ctx d with acct := ((s.billed c r).ctx d).acct } := by
  unfold billed
  split
  · rfl
  · refine (chargeIssue_ctx ..).trans ?_
    split <;> rfl

end State

/- The outcomes -/

/-- The state after the next request has gone out. -/
def State.afterIssue (u : State) (c : Nat) (r : MemReq) : State :=
  ((u.stamped r).1.issueReq c (freeTag (u.ch c) 1024 (u.ch c).nextTag) (u.stamped r).2).billed c r

/-- `v` comes from `s` by issuing request `r`, with these data, on channel `c` under tag `t`, what the record log holds back being
marked: before the request is charged. -/
structure State.SendsOut (s v : State) (c t : Nat) (r : MemReq) (data : Bytes) : Prop where
  ctxs : r.why.unit ≠ .query ∨ r.iss ≠ 0 → v.ctxs = s.ctxs
  rest : v = { s.withhold c with ctxs := v.ctxs, mem := v.mem }
  self : v.ch c = s.sent c t { r with data := data }
  others : ∀ d, d ≠ c → v.ch d = s.ch d
  wait : v.mem.wait = (s.withhold c).mem.wait.filter (fun w => decide (w.id ≠ r.id))
  beats : v.mem.beats = s.mem.beats ++ memBeats c t { r with data := data }
  cmds : v.mem.cmds = s.mem.cmds ++ [memCmd c t r]

section Outcomes

variable {s : State} {c : Nat} (alive : s.alive = true) (up : s.chUp c = true) (high : (s.ch c).down = false)
include alive up high

/-- An open channel with a free tag issues the next request that its allowance covers. -/
theorem memIssueOp_open : memIssueOp c s =
    if 1024 ≤ (s.ch c).tagged.length then s.withhold c
    else match (s.withhold c).nextReq c with
      | none => s.withhold c
      | some r => if (s.ch c).covers r then (s.withhold c).afterIssue c r else s.withhold c := by
  have opened : (!s.alive || !s.chUp c || (s.ch c).down) = false := by rw [alive, up, high]; rfl
  unfold memIssueOp
  simp only [State.withhold_alive, State.withhold_chUp, State.withhold_ch, opened, Bool.false_or, Bool.false_eq_true, if_false,
    decide_eq_true_eq]
  refine if_congr Iff.rfl rfl ?_
  cases (s.withhold c).nextReq c with
  | none => rfl
  | some r =>
    cases covers : (s.ch c).covers r with
    | false => simp only [covers, Bool.not_false, if_true, Bool.false_eq_true, if_false]
    | true =>
      unfold State.afterIssue State.billed
      rw [State.withhold_ch]
      simp only [covers, Bool.not_true, Bool.false_eq_true, if_false, if_true]
      rfl

theorem memIssueOp_issues {r : MemReq} (room : (s.ch c).tagged.length < 1024) (next : (s.withhold c).nextReq c = some r)
    (covers : (s.ch c).covers r = true) : memIssueOp c s = (s.withhold c).afterIssue c r := by
  rw [memIssueOp_open alive up high, if_neg (by omega), next]
  exact if_pos covers

/-- What has gone out, before it is charged. -/
theorem memIssueOp_sends (hc : c < s.mem.chs.length) {r : MemReq} (room : (s.ch c).tagged.length < 1024)
    (next : (s.withhold c).nextReq c = some r) (covers : (s.ch c).covers r = true) :
    ∃ (v : State) (data : Bytes), memIssueOp c s = v.billed c r ∧ (r.why.unit ≠ .query ∨ r.iss ≠ 0 → data = r.data) ∧
      s.SendsOut v c (freeTag (s.ch c) 1024 (s.ch c).nextTag) r data := by
  have run := memIssueOp_issues alive up high room next covers
  unfold State.afterIssue at run
  rw [s.withhold_ch] at run
  generalize freeTag (s.ch c) 1024 (s.ch c).nextTag = t at run
  have still := s.withhold_still c
  have inMem {β : Type} (g : Mem → β) (blind : ∀ m : Mem, g { m with wait := [], nextId := 0 } = g m) :
      g (s.withhold c).mem = g s.mem := by
    rw [← blind, ← blind s.mem]
    exact congrArg (fun u : State => g u.mem) still
  obtain ⟨ctxs, data, stamp, same⟩ := (s.withhold c).stamped_eq r
  rw [stamp] at run
  have hc' : c < (s.withhold c).mem.chs.length := by rwa [State.still_mem_chs still]
  refine ⟨_, data, run, fun other => (same other).2, fun other => (same other).1.trans (State.still_ctxs still),
    State.issueReq_rest .., ?self, fun d ne => (State.issueReq_ch_ne _ _ _ ne).trans (s.withhold_ch c d),
    State.issueReq_wait .., ?beats, ?cmds⟩
  case self =>
    refine (State.issueReq_ch_self _ _ _ hc').trans ?_
    exact s.sent_congr (s.withhold_ch c c) (congrArg Clk.el (State.still_clk still)) (inMem Mem.nextIss fun _ => rfl) _ _
  case beats =>
    rw [State.issueReq_beats]
    exact congrArg (· ++ _) (inMem Mem.beats fun _ => rfl)
  case cmds =>
    rw [State.issueReq_cmds]
    exact congrArg (· ++ _) (inMem Mem.cmds fun _ => rfl)

theorem memIssueOp_waits (idle : (s.withhold c).nextReq c = none ∨
    (∃ r, (s.withhold c).nextReq c = some r ∧ (s.ch c).covers r = false) ∨ 1024 ≤ (s.ch c).tagged.length) :
    memIssueOp c s = s.withhold c := by
  rw [memIssueOp_open alive up high]
  split
  · rfl
  · next room =>
    rcases idle with none | ⟨r, next, short⟩ | full
    · rw [none]
    · rw [next]
      exact if_neg (by rw [short]; decide)
    · exact absurd full room

end Outcomes

/-- What issuing a request and charging it leave after the record log's holding back. -/
theorem still_of_issue {s u v b : State} (still : u.still = s.still) (sent : v = { u with ctxs := v.ctxs, mem := v.mem })
    (billed : b = { v with regs := b.regs, pitches := b.pitches, ctxs := b.ctxs, hold := b.hold }) :
    b.still = ({ s with ctxs := b.ctxs, pitches := b.pitches, hold := b.hold, mem := b.mem } : State).still := by
  have mem : b.mem = v.mem := by rw [billed]
  calc b.still = ({ v with ctxs := b.ctxs, pitches := b.pitches, hold := b.hold } : State).still :=
      (congrArg State.still billed).trans rfl
    _ = ({ u with ctxs := b.ctxs, pitches := b.pitches, hold := b.hold, mem := v.mem } : State).still :=
      congrArg (fun x : State => ({ x with ctxs := b.ctxs, pitches := b.pitches, hold := b.hold } : State).still) sent
    _ = _ := by
      rw [mem]
      exact congrArg (fun x : State => ({ x with ctxs := b.ctxs, pitches := b.pitches, hold := b.hold, mem := { v.mem with
        wait := [], nextId := 0 } } : State)) still

/-- Settles O32: the request that goes out is the next of those the channel may carry, under a free tag. -/
theorem memRequestIssueTakesNext : Obligations.MemRequestIssueTakesNext := by
  unfold Obligations.MemRequestIssueTakesNext
  intro c s hc alive
  refine ⟨fun up high => ?opened, fun closed => congrArg Host.Outcome.next (memIssueOp_closed closed)⟩
  intro u
  refine ⟨fun r room tags next covers => ?issues, fun idle => congrArg Host.Outcome.next (memIssueOp_waits alive up high idle)⟩
  have mem := State.nextReq_mem next
  obtain ⟨free, unheld⟩ := freeTag_free room tags
  obtain ⟨v, data, run, same, sends⟩ := memIssueOp_sends alive up high hc room next covers
  have selfBilled := (v.billed_ch c r c).trans sends.self
  refine ⟨v.billed c r, _, data, congrArg Host.Outcome.next run, free, unheld, same,
    congrArg MemCh.out selfBilled, ?wait, ?beats, ?cmds, fun w hw issued write ne => ?waits, fun ch hch => ?others,
    fun read => ?read, fun write => ?write, mem, State.nextReq_resume next, State.nextReq_class next,
    fun d ne => (v.billed_ch c r d).trans (sends.others d ne), fun other d => ?ctx, fun x hx => ?regs, ?rest⟩
  case wait => rw [State.billed_mem, sends.wait]
  case beats => rw [State.billed_mem, sends.beats]
  case cmds => rw [State.billed_mem, sends.cmds]
  case waits =>
    obtain ⟨l, here⟩ := s.withhold_waits c hw
    have free := State.forChan_waits (w := { w with lag := l }) mem here issued write ne
    exact free
  case others =>
    exact State.forChan_issued mem (by rwa [State.still_mem_chs (s.withhold_still c)])
  case read =>
    unfold MemCh.covers at covers
    rw [selfBilled]
    simpa [State.sent, read] using covers
  case write =>
    unfold MemCh.covers at covers
    rw [selfBilled]
    simpa [State.sent, write] using covers
  case ctx =>
    rw [← State.ctx_of_ctxs (sends.ctxs (.inl other)) d]
    exact v.billed_ctx c r d
  case regs =>
    rw [List.mem_cons, not_or] at hx
    have kept : v.rd x = (s.withhold c).rd x := by
      rw [sends.rest]
      rfl
    rw [v.billed_keeps c r x (by simpa using hx.1), kept, s.withhold_keeps c x hx.2]
  case rest => exact still_of_issue (s.withhold_still c) sends.rest (v.billed_rest c r)

end Sys2Proof.Machine
end

section
/-! Membership tables and table sets (R97, R98, R176, R369, R445): what a write with a command of its own and the copies that
a new table cuts off leave as they were, and one equation per outcome of the arms and of the switches. -/

namespace Sys2Proof.Machine

namespace State

variable (s : State)

/- The write of a command with a register of its own -/

theorem wrote_memb (a v : Nat) : (s.wrote a v).memb = s.memb := (still_memb (wrote_still s a v)).trans rfl
theorem wrote_stn (a v : Nat) : (s.wrote a v).stn = s.stn := (still_stn (wrote_still s a v)).trans rfl
theorem wrote_ctx (a v c : Nat) : (s.wrote a v).ctx c = s.ctx c := ctx_of_ctxs ((still_ctxs (wrote_still s a v)).trans rfl) c

/- Copies to a chip that leaves membership -/

theorem infFail_still (expert : Bool) : (s.infFail expert).still =
    ({ s with xch := (s.infFail expert).xch, rsl := (s.infFail expert).rsl } : State).still := by
  unfold infFail
  dsimp only
  split
  · rfl
  · rw [event_still, event_xch, event_rsl]
    rfl

/-- A chip that leaves membership fails the copies to it, and no snapshot. -/
theorem copiesLost_false_still (gone : Nat → Bool) : (s.copiesLost gone false).still =
    ({ s with xch := (s.copiesLost gone false).xch, rsl := (s.copiesLost gone false).rsl } : State).still := by
  have fails (u : State) (expert b : Bool) : (if b then u.infFail expert else u).still =
      ({ u with xch := (if b then u.infFail expert else u).xch, rsl := (if b then u.infFail expert else u).rsl } : State).still := by
    cases b
    · rfl
    · exact u.infFail_still expert
  obtain ⟨u, hu⟩ : ∃ u, u = if gone s.rsl.rinf.dchip then s.infFail false else s := ⟨_, rfl⟩
  have run : s.copiesLost gone false = if gone u.rsl.einf.dchip then u.infFail true else u := by rw [hu]; rfl
  have first : u.still = ({ s with xch := u.xch, rsl := u.rsl } : State).still := hu ▸ fails s false _
  rw [run, fails u true]
  exact congrArg (fun x : State => ({ x with xch := _, rsl := _ } : State)) first

/- Refusals of an arm -/

theorem memberBad_none {t : Table Nat} (next : s.rd 0x50038 % 65536 = (s.memb.ver + 1) % 65536)
    (early : s.now + s.rdMin 0x50048 0x1000 ≤ s.rd2 0x5003C)
    (own : entState (tget 0 s.memb.live s.glb.chip) ≠ 0 ∨ entState (tget 0 t s.glb.chip) ≠ 0) (free : s.memb.armed = false) :
    s.memberBad t = none := by
  have present : (decide (entState (tget 0 s.memb.live s.glb.chip) = 0) && decide (entState (tget 0 t s.glb.chip) = 0)) = false := by
    rcases own with h | h <;> simp [h]
  simp only [memberBad, next, Nat.not_lt.mpr early, present, free, ne_eq, not_true_eq_false, Bool.false_eq_true, if_false]

theorem tableBad_none (next : s.rd 0x30010 % 65536 = (s.stn.ver + 1) % 65536) (early : s.now + 65536 ≤ s.rd2 0x30014)
    (bound : s.oldTable = 0) (free : s.stn.stage.armed = false) : s.tableBad = none := by
  simp only [tableBad, next, Nat.not_lt.mpr early, bound, free, ne_eq, not_true_eq_false, Bool.false_eq_true, if_false]

end State

/- The arms -/

/-- The state with a membership table staged (R97, R99). -/
def State.stageMembers (s : State) (t : Table Nat) : State := { s.joinLinks t with
  memb := { s.memb with
    staged := t
    sver := s.rd 0x50038 % 65536
    at_ := s.rd2 0x5003C
    armed := true } }

/-- The state with the table-set directory at `a` staged (R176). -/
def State.stageTables (s : State) (a : Nat) : State :=
  { s with stn := { s.stn with stage := ⟨true, s.rd2 0x30014, s.rd 0x30010 % 65536, a⟩ } }

section Charged

variable {s u : State} {c : Nat} (charged : s.Charged u c)
include charged

theorem rd2_of_charged (a : Nat) : u.rd2 a = s.rd2 a := by
  unfold State.rd2
  rw [rd_of_charged charged, rd_of_charged charged]

theorem step_of_charged (d : Nat) : (u.ctx d).step = (s.ctx d).step := by
  by_cases self : d = c
  · rw [self]
    exact (congrArg Ctx.step charged.self).trans rfl
  · exact congrArg Ctx.step (charged.others d self)

theorem rd_stageMembers (t : Table Nat) (a : Nat) : (u.stageMembers t).rd a = s.rd a := rd_of_charged charged a

theorem step_stageMembers (t : Table Nat) (d : Nat) : ((u.stageMembers t).ctx d).step = (s.ctx d).step := step_of_charged charged d

theorem stageMembers_charged (t : Table Nat) : (u.stageMembers t).memb =
    { s.memb with staged := t, sver := s.rd 0x50038 % 65536, at_ := s.rd2 0x5003C, armed := true } := by
  have memb : u.memb = s.memb := by rw [charged.rest]
  unfold State.stageMembers
  rw [rd_of_charged charged, rd2_of_charged charged, memb]

theorem rd_stageTables (a x : Nat) : (u.stageTables a).rd x = s.rd x := rd_of_charged charged x

theorem step_stageTables (a d : Nat) : ((u.stageTables a).ctx d).step = (s.ctx d).step := step_of_charged charged d

theorem stageTables_charged (a : Nat) : (u.stageTables a).stn =
    { s.stn with stage := ⟨true, s.rd2 0x30014, s.rd 0x30010 % 65536, a⟩ } := by
  have stn : u.stn = s.stn := by rw [charged.rest]
  unfold State.stageTables
  rw [rd_of_charged charged, rd2_of_charged charged, stn]

end Charged

section Arm

variable {s : State} {hv : HostView} (opened : s.portOpen = true)
include opened

theorem memberArmOp_refused {k : Nat} (bad : s.memberBad (readMembers hv (s.rd2 0x50030)) = some k) :
    memberArmOp hv s = (s.event 0x12 0 (s.rd 0x50038 % 65536) k).wrote 0x50044 1 := by
  simp only [memberArmOp, opened, bad, Bool.not_true, Bool.false_eq_true, if_false]

theorem memberArmOp_stages (good : s.memberBad (readMembers hv (s.rd2 0x50030)) = none) (fault : hv.fault = 0) :
    memberArmOp hv s = ((s.chargeRead 0 3 (s.rd2 0x50030) 16384).stageMembers (readMembers hv (s.rd2 0x50030))).wrote 0x50044 1 := by
  simp only [memberArmOp, opened, good, fault, Bool.not_true, Bool.false_eq_true, if_false, ne_eq, not_true_eq_false]
  rfl

theorem tableSetArmOp_stages (good : s.tableBad = none) (fault : hv.fault = 0)
    (entries : ∀ m < 64, (tableEntry hv (s.rd2 0x30008) m).isSome = true) :
    tableSetArmOp hv s = ((s.chargeRead 0 3 (s.rd2 0x30008) 1024).stageTables (s.rd2 0x30008)).wrote 0x3001C 1 := by
  have readable : (List.range 64).any (fun m => (tableEntry hv (s.rd2 0x30008) m).isNone) = false := by
    rw [List.any_eq_false]
    intro m hm
    simp [Option.isSome_iff_ne_none.mp (entries m (List.mem_range.mp hm))]
  simp only [tableSetArmOp, opened, good, fault, readable, Bool.not_true, Bool.false_eq_true, if_false, ne_eq, not_true_eq_false]
  rfl

end Arm

/- The switches -/

/-- The membership after a switch at elapsed tick `el` (R98, R434, R435). -/
def Memb.switched (m : Memb) (el chip : Nat) : Memb :=
  let absent (c : Nat) : Bool := decide (entState (tget 0 m.staged c) = 0)
  { m with
    live := m.staged
    ver := m.sver
    staged := []
    armed := false
    prev := m.live
    goneLive := el
    lost := m.lost.filter (fun c => !(absent c))
    past := (m.past ++ m.lost).filter absent
    outcast := if m.outcast = 1 ∧ absent chip = true then 2 else if m.outcast = 2 ∧ absent chip = false then 0 else m.outcast }

/-- The state after a switch, without the copies to chips that are no members any more (R369, R445). -/
def State.membersLive (s : State) : State :=
  ({ s with memb := s.memb.switched s.el s.glb.chip } : State).copiesLost
    (fun c => decide (entState (tget 0 s.memb.staged c) ≠ 1)) false

theorem membersLive_still (s : State) : s.membersLive.still = ({ s with
    memb := s.memb.switched s.el s.glb.chip, xch := s.membersLive.xch, rsl := s.membersLive.rsl } : State).still :=
  State.copiesLost_false_still _ _

section Live

variable {s : State} (on : s.on = true)
include on

theorem memberGoLiveOp_due (armed : s.memb.armed = true) (due : s.memb.at_ ≤ s.now) : memberGoLiveOp s =
    { s.membersLive with links := { s.membersLive.links with
      ports := s.membersLive.links.ports.map (fun p => if p.st = 2 then { p with helloDue := true } else p) } } := by
  simp only [memberGoLiveOp, on, armed, due, decide_true, Bool.and_self, if_true]
  rfl

theorem tableGoLiveOp_due (armed : s.stn.stage.armed = true) (due : s.stn.stage.at_ ≤ s.now) : tableGoLiveOp s =
    { s with stn := ⟨s.stn.stage.ver, s.stn.stage.addr, {}⟩ } := by
  simp only [tableGoLiveOp, on, armed, due, decide_true, Bool.and_self, if_true]

end Live

/-- Settles O13: one clause per command, each by the equation of its outcome. -/
theorem tablesStageAndGoLive : Obligations.TablesStageAndGoLive := by
  unfold Obligations.TablesStageAndGoLive
  refine ⟨fun hv s opened => ⟨fun next early own free fault => ?memberArm, fun k bad => ?memberRefused⟩,
    fun s on armed due => ?memberLive, fun hv s opened next early bound free fault entries => ?tableArm,
    fun s on armed due => congrArg Host.Outcome.next (tableGoLiveOp_due on armed due)⟩
  case memberArm =>
    have charged := s.chargeRead_charged 0 3 (s.rd2 0x50030) 16384
    refine ⟨_, congrArg Host.Outcome.next (memberArmOp_stages opened (s.memberBad_none next early own free) fault), ?_,
      fun x hx => ?_, fun c => ?_⟩
    · rw [State.wrote_memb, stageMembers_charged charged, next]
    · exact (State.wrote_keeps _ _ _ x hx).trans (rd_stageMembers charged _ x)
    · rw [State.wrote_ctx, step_stageMembers charged]
  case memberRefused =>
    refine ⟨_, congrArg Host.Outcome.next (memberArmOp_refused opened bad), ?_⟩
    rw [State.wrote_memb, State.event_memb]
  case memberLive =>
    have still := membersLive_still s
    have memb : s.membersLive.memb = s.memb.switched s.el s.glb.chip := State.still_memb still
    have ctxs : s.membersLive.ctxs = s.ctxs := (State.still_ctxs still).trans rfl
    have stn : s.membersLive.stn = s.stn := (State.still_stn still).trans rfl
    have chs : s.membersLive.mem.chs = s.mem.chs := (State.still_mem_chs still).trans rfl
    have start : s.membersLive.start = s.start := (State.still_start still).trans rfl
    exact ⟨_, congrArg Host.Outcome.next (memberGoLiveOp_due on armed due), congrArg Memb.live memb, congrArg Memb.ver memb,
      congrArg Memb.armed memb, congrArg Memb.prev memb, ctxs, stn, chs, start⟩
  case tableArm =>
    have charged := s.chargeRead_charged 0 3 (s.rd2 0x30008) 1024
    refine ⟨_, congrArg Host.Outcome.next (tableSetArmOp_stages opened (s.tableBad_none next early bound free) fault entries), ?_,
      fun x hx => ?_, fun c => ?_⟩
    · rw [State.wrote_stn, stageTables_charged charged, next]
    · exact (State.wrote_keeps _ _ _ x hx).trans (rd_stageTables charged _ x)
    · rw [State.wrote_ctx, step_stageTables charged]

end Sys2Proof.Machine
end

section
/-! LINK_TRANSMIT_SLOT (R76, R81, R84, R88, R90): what a flit sent changes of its port, and one equation per outcome of the
slot. -/

namespace Sys2Proof.Machine

theorem port_of_ports {s t : State} (h : t.links.ports = s.links.ports) (n : Nat) : t.port n = s.port n := by
  unfold State.port
  rw [h]

/- The fields of the next flit (R82, R83, R88) -/

namespace Port

variable (p : Port) (h : FlitH)

/-- Sending settles the port's nak, acknowledgement and one channel's credits. -/
theorem stamp_port : (p.stamp h).2 = { p with
    nakSent := p.nakSent || p.nakDue
    nakDue := false
    ackDue := false
    owed := (p.stamp h).2.owed
    crNext := (p.stamp h).2.crNext } := by
  unfold stamp
  dsimp only
  split <;> rfl

@[simp] theorem stamp_tx : (p.stamp h).2.tx = p.tx := by rw [stamp_port]
@[simp] theorem stamp_retry : (p.stamp h).2.retry = p.retry := by rw [stamp_port]
@[simp] theorem stamp_queue : (p.stamp h).2.queue = p.queue := by rw [stamp_port]
@[simp] theorem stamp_credit : (p.stamp h).2.credit = p.credit := by rw [stamp_port]
@[simp] theorem stamp_resTimes : (p.stamp h).2.resTimes = p.resTimes := by rw [stamp_port]
@[simp] theorem stamp_ackDue : (p.stamp h).2.ackDue = false := by rw [stamp_port]

/-- A flit keeps its header but for the acknowledgement, nak and credit fields. -/
theorem stamp_header : (p.stamp h).1 = { h with
    ackSeq := (p.rx + 255) % 256
    ackV := true
    nak := p.nakDue
    crVc := (p.stamp h).1.crVc
    crCnt := (p.stamp h).1.crCnt } := by
  unfold stamp
  dsimp only
  split <;> rfl

/-- The port once the flit at place `i` of its retry buffer has been sent again (R84). -/
def resent (i : Nat) (q : QFlit) (el : Nat) : Port := { (p.stamp q.h).2 with
  retry := lset i { q with resends := q.resends + 1 } (p.stamp q.h).2.retry
  rs := if i + 1 < (p.stamp q.h).2.retry.length then some (i + 1) else none
  sentAt := el + 1
  resTimes := el :: recent (2 ^ 20) el (p.stamp q.h).2.resTimes }

/-- The port once it has sent flit `q` of channel `v` under header `h` (R81, R88). -/
def sentNew (v a u : Nat) (q : QFlit) (r : List QFlit) (el : Nat) : Port := { (p.stamp h).2 with
  tx := ((p.stamp h).2.tx + 1) % 256
  queue := lset v r (p.stamp h).2.queue
  credit := lset v ((p.stamp h).2.credit.getD v 0 - 1) (p.stamp h).2.credit
  retry := (p.stamp h).2.retry ++ [{ q with h := (p.stamp h).1, at_ := el, pool := 4 }]
  kept := if (p.stamp h).1.ftype = 1 then (p.stamp h).2.kept ++ [{ q with h := (p.stamp h).1, at_ := el, pool := 4 }]
    else (p.stamp h).2.kept
  ackAt := if (p.stamp h).2.retry = [] then el else (p.stamp h).2.ackAt
  tmoAt := if (p.stamp h).2.retry = [] then el else (p.stamp h).2.tmoAt
  ready := lset v el (p.stamp h).2.ready
  sentAt := el + 1
  arbVc := a
  arbUsed := u }

/-- The port once it has sent an unsequenced flit of type `ft` (R89, R91). -/
def sentPlain (ft el : Nat) : Port :=
  { (p.stamp h).2 with sentAt := el + 1, helloDue := if ft = 4 then false else (p.stamp h).2.helloDue }

theorem vcReady_of {p : Port} {v : Nat} {q : QFlit} {r : List QFlit} (queue : p.queue.getD v [] = q :: r)
    (credit : p.credit.getD v 0 ≠ 0) : p.vcReady v = true := by
  simp only [vcReady, queue, credit, reduceCtorEq, decide_false, Bool.not_false, ne_eq, not_false_eq_true, decide_true, Bool.and_self]

end Port

namespace State

variable (s : State)

/-- The link layer with port `n` as `p` and one more flit on its wire. -/
def wired (n : Nat) (p : Port) (h : FlitH) (pay : Bytes) : Links :=
  { (s.modPort n (fun _ => p)).links with wire := (n, mkFlit h pay) :: s.links.wire }

section Wired

variable {s} {t : State} {n : Nat} {p : Port} {h : FlitH} {pay : Bytes} (sent : t.links = s.wired n p h pay)
include sent

theorem wire_of_wired : t.links.wire = (n, mkFlit h pay) :: s.links.wire := by rw [sent]; rfl

theorem port_of_wired (hn : n < s.links.ports.length) : t.port n = p :=
  (port_of_ports (s := s.modPort n (fun _ => p)) (by rw [sent]; rfl) n).trans (s.port_modPort_self _ hn)

theorem ports_of_wired {m : Nat} (ne : m ≠ n) : t.port m = s.port m :=
  (port_of_ports (s := s.modPort n (fun _ => p)) (by rw [sent]; rfl) m).trans (s.port_modPort_ne _ ne)

end Wired

/-- The flit at place `i` of the retry buffer goes out again and is counted (R84, R390, R391). -/
def resendOut (n i : Nat) (q : QFlit) : State :=
  let u := s.modPort n (fun _ => (s.port n).resent i q s.el)
  let v := (u.wireOut n ((s.port n).stamp q.h).1 q.pay).countSat (0x50100 + 4 * n) 16 16 1
  if u.steepFlit q then v else v.energy (portPitch n) (u.flitCtx q.h) 4 1

theorem sendAgain_eq {n i : Nat} {q : QFlit} (few : q.resends + 1 < 8)
    (rare : (recent (2 ^ 20) s.el (s.port n).resTimes).length + 1 < 1024) : s.sendAgain n i q = s.resendOut n i q := by
  unfold sendAgain
  dsimp only
  rw [if_neg (Nat.not_le.mpr few), if_neg (by rw [Port.stamp_resTimes]; exact Nat.not_le.mpr rare)]
  rfl

theorem resendOut_links (n i : Nat) (q : QFlit) : (s.resendOut n i q).links =
    s.wired n ((s.port n).resent i q s.el) ((s.port n).stamp q.h).1 q.pay := by
  unfold resendOut
  dsimp only
  split <;> rfl

/-- Header of a flit sent for the first time (R79, R81). -/
def newHeader (n v : Nat) (q : QFlit) : FlitH :=
  { q.h with seq := (s.port n).tx, vc := v, mver := if q.h.ftype = 3 then s.memb.ver % 1024 else q.h.mver % 1024 }

theorem sendNew_eq {n v : Nat} (a u : Nat) {q : QFlit} {r : List QFlit} (queue : (s.port n).queue.getD v [] = q :: r) :
    s.sendNew n v a u =
      let t := s.modPort n (fun _ => (s.port n).sentNew (s.newHeader n v q) v a u q r s.el)
      let w := t.wireOut n ((s.port n).stamp (s.newHeader n v q)).1 q.pay
      let c := t.flitCtx ((s.port n).stamp (s.newHeader n v q)).1
      if t.steepFlit q then w else (if v = 6 then w else w.acctAdd c (1 + vcClass v) 256).energy (portPitch n) c 4 1 := by
  unfold sendNew
  dsimp only
  rw [queue]
  rfl

/-- A first transmission changes the link layer, and its charge no register. -/
theorem sendNew_sends {n v : Nat} (a u : Nat) {q : QFlit} {r : List QFlit} (queue : (s.port n).queue.getD v [] = q :: r) :
    (s.sendNew n v a u).links = s.wired n ((s.port n).sentNew (s.newHeader n v q) v a u q r s.el)
      ((s.port n).stamp (s.newHeader n v q)).1 q.pay ∧ (s.sendNew n v a u).regs = s.regs := by
  have charged (w : State) (c : Nat) :
      w.Charged ((if v = 6 then w else w.acctAdd c (1 + vcClass v) 256).energy (portPitch n) c 4 1) c := by
    split
    · exact State.energy_charged ..
    · exact (State.acctAdd_charged ..).trans (State.energy_charged ..)
  rw [s.sendNew_eq a u queue]
  dsimp only
  split
  · exact ⟨rfl, rfl⟩
  · rw [(charged _ _).rest]
    exact ⟨rfl, rfl⟩

theorem sendPlain_links (n ft : Nat) (pay : Bytes) : (s.sendPlain n ft pay).links =
    s.wired n ((s.port n).sentPlain (s.plainH n ft pay.length) ft s.el) ((s.port n).stamp (s.plainH n ft pay.length)).1 pay := rfl

theorem plainH_ftype (n ft len : Nat) : (s.plainH n ft len).ftype = ft := by
  unfold plainH
  dsimp only
  split
  · next h => exact h.symm
  · rfl

/- The channel in turn (R90) -/

theorem arbitrate_none {p : Port} (none : ∀ v, p.vcReady v = false) : s.arbitrate p = .none := by
  unfold arbitrate
  dsimp only
  split
  · simp [none]
  · simp only [none, Bool.false_and]
    rfl

theorem arbitrate_strict {p : Port} (strict : bit (s.rdMode 0x50000) 1 = false)
    (fed : ∀ w < 6, s.el < p.ready.getD w 0 + s.rd 0x50008 % 65536) :
    s.arbitrate p = ([0, 1, 3, 2, 4, 5].find? p.vcReady).map (fun v => (v, p.arbVc, p.arbUsed)) := by
  have starving : (List.range 6).find? (fun v => p.vcReady v && decide (p.ready.getD v 0 + s.rd 0x50008 % 65536 ≤ s.el)) = none := by
    rw [List.find?_eq_none]
    intro w hw
    rw [decide_eq_false (Nat.not_le.mpr (fed w (List.mem_range.mp hw))), Bool.and_false]
    exact Bool.false_ne_true
  simp only [arbitrate, strict, starving, Bool.false_eq_true, if_false]

end State

section Slot

variable {s : State} {n : Nat} (alive : s.alive = true) (usable : (s.port n).usable = true) (phy : (s.port n).phy = true)
  (due : (s.port n).sentAt ≤ s.el)
include alive usable phy due

theorem transmitOp_open : transmitOp n s = match (s.port n).toResend with
    | some (i, q) => s.sendAgain n i q
    | none =>
      if (s.port n).helloDue then s.sendPlain n 4 (encHello (s.helloOf n))
      else if (s.port n).st ≠ 2 then s
      else if (decide ((s.port n).retry.length < 64) && (s.port n).vcReady 6) = true then
        s.sendNew n 6 (s.port n).arbVc (s.port n).arbUsed
      else match (if decide ((s.port n).retry.length < 64) && !(s.port n).restricted then s.arbitrate (s.port n) else none) with
      | some (v, a, u) => s.sendNew n v a u
      | none => if (s.port n).ackDue || (s.port n).owed.any (fun k => decide (k ≠ 0)) then s.sendPlain n 0 [] else s := by
  simp only [transmitOp, alive, usable, phy, Nat.not_lt.mpr due, Bool.not_true, Bool.or_self, decide_false, Bool.false_eq_true,
    if_false] <;> rfl

theorem transmitOp_again {i : Nat} {q : QFlit} (again : (s.port n).toResend = some (i, q)) : transmitOp n s = s.sendAgain n i q := by
  rw [transmitOp_open alive usable phy due, again]

variable (none : (s.port n).toResend = none)
include none

theorem transmitOp_hello (hello : (s.port n).helloDue = true) : transmitOp n s = s.sendPlain n 4 (encHello (s.helloOf n)) := by
  rw [transmitOp_open alive usable phy due, none]
  simp only [hello, if_true]

variable (noHello : (s.port n).helloDue = false) (up : (s.port n).st = 2)
include noHello up

theorem transmitOp_notice (room : (s.port n).retry.length < 64) (ready : (s.port n).vcReady 6 = true) :
    transmitOp n s = s.sendNew n 6 (s.port n).arbVc (s.port n).arbUsed := by
  rw [transmitOp_open alive usable phy due, none]
  simp only [noHello, up, room, ready, Bool.false_eq_true, if_false, if_true, ne_eq, not_true_eq_false, decide_true, Bool.and_self]

theorem transmitOp_data {v a u : Nat} (room : (s.port n).retry.length < 64) (noNotice : (s.port n).vcReady 6 = false)
    (free : (s.port n).restricted = false) (turn : s.arbitrate (s.port n) = some (v, a, u)) :
    transmitOp n s = s.sendNew n v a u := by
  rw [transmitOp_open alive usable phy due, none]
  simp only [noHello, up, room, noNotice, free, turn, Bool.false_eq_true, if_false, if_true, ne_eq, not_true_eq_false, decide_true,
    Bool.and_false, Bool.not_false, Bool.and_self]

/-- With no channel ready, or no room in the retry buffer, only a control flit can go. -/
theorem transmitOp_quiet (quiet : (∀ v, (s.port n).vcReady v = false) ∨ 64 ≤ (s.port n).retry.length) : transmitOp n s =
    if (s.port n).ackDue || (s.port n).owed.any (fun k => decide (k ≠ 0)) then s.sendPlain n 0 [] else s := by
  rw [transmitOp_open alive usable phy due, none]
  rcases quiet with quiet | full
  · simp only [noHello, up, quiet, s.arbitrate_none quiet, ite_self, Bool.false_eq_true, if_false, ne_eq, not_true_eq_false,
      Bool.and_false]
  · simp only [noHello, up, Nat.not_lt.mpr full, Bool.false_eq_true, if_false, ne_eq, not_true_eq_false, decide_false,
      Bool.false_and]

end Slot

/-- Settles O37: by what the port has to send, in the order of R90. -/
theorem transmitSlotFollowsPriority : Obligations.TransmitSlotFollowsPriority := by
  unfold Obligations.TransmitSlotFollowsPriority
  intro n s ok hn alive usable phy due
  have hn : n < s.links.ports.length := by rw [ok.ports]; exact hn
  refine ⟨fun i q again => ?again, fun none hello => ?hello,
    fun v q r up none noHello room hv queues credits queue credit turn => ?new, fun up none noHello quiet => ?control⟩
  case again =>
    have run := transmitOp_again alive usable phy due again
    refine ⟨congrArg Host.Outcome.next run, fun few rare => ?_⟩
    have sent := s.resendOut_links n i q
    refine ⟨_, _, congrArg Host.Outcome.next (run.trans (s.sendAgain_eq few rare)), State.wire_of_wired sent, ?_, ?_, ?_, ?_,
      fun m ne => State.ports_of_wired sent ne⟩
    all_goals rw [State.port_of_wired sent hn]
    · exact Port.stamp_tx ..
    · exact Port.stamp_queue ..
    · simp only [Port.resent, lset_length, Port.stamp_retry]
    · simp only [Port.resent, Port.stamp_retry]
  case hello =>
    have sent := s.sendPlain_links n 4 (encHello (s.helloOf n))
    refine ⟨_, _, congrArg Host.Outcome.next (transmitOp_hello alive usable phy due none hello), ?_, ?_, State.wire_of_wired sent, ?_, ?_,
      fun m ne => State.ports_of_wired sent ne, rfl⟩
    · rw [Port.stamp_header]
      exact s.plainH_ftype n 4 (encHello (s.helloOf n)).length
    all_goals rw [State.port_of_wired sent hn]
    · rfl
    · exact Port.stamp_queue ..
    · exact Port.stamp_retry ..
  case new =>
    have ready := Port.vcReady_of queue credit
    have run : transmitOp n s = s.sendNew n v (s.port n).arbVc (s.port n).arbUsed := by
      rcases turn with rfl | ⟨ne, noNotice, free, strict, fed, first⟩
      · exact transmitOp_notice alive usable phy due none noHello up room ready
      · exact transmitOp_data alive usable phy due none noHello up room noNotice free
          (by rw [s.arbitrate_strict strict fed, first]; rfl)
    obtain ⟨sent, regs⟩ := s.sendNew_sends (s.port n).arbVc (s.port n).arbUsed queue
    have port := State.port_of_wired sent hn
    refine ⟨_, _, { q with h := ((s.port n).stamp (s.newHeader n v q)).1, at_ := s.el, pool := 4 }, congrArg Host.Outcome.next run,
      State.wire_of_wired sent, ?tx, ?queue, ?credit, ?retry, ?seq, ?vc, rfl, fun w ne => ⟨?queues, ?credits⟩,
      fun m ne => State.ports_of_wired sent ne, fun a => State.rd_of_regs s regs a⟩
    case tx => simp only [port, Port.sentNew, Port.stamp_tx]
    case queue =>
      simp only [port, Port.sentNew, Port.stamp_queue]
      rw [lset_getD _ _ _ _ _ (by omega), if_pos rfl]
    case credit =>
      simp only [port, Port.sentNew, Port.stamp_credit]
      rw [lset_getD _ _ _ _ _ (by omega), if_pos rfl]
    case retry => simp only [port, Port.sentNew, Port.stamp_retry]
    case seq => rw [Port.stamp_header]; rfl
    case vc => rw [Port.stamp_header]; rfl
    case queues =>
      simp only [port, Port.sentNew, Port.stamp_queue]
      exact lset_getD_ne _ _ _ _ _ ne
    case credits =>
      simp only [port, Port.sentNew, Port.stamp_credit]
      exact lset_getD_ne _ _ _ _ _ ne
  case control =>
    have run := transmitOp_quiet alive usable phy due none noHello up quiet
    have owing : ((s.port n).owed.any (fun k => decide (k ≠ 0)) = true) ↔ ∃ k ∈ (s.port n).owed, k ≠ 0 := by
      simp only [List.any_eq_true, decide_eq_true_eq]
    refine ⟨fun owes => ?owes, fun noAck noCredit => ?idle⟩
    case owes =>
      have sent := s.sendPlain_links n 0 []
      rw [if_pos (by rw [Bool.or_eq_true, owing]; exact owes)] at run
      refine ⟨_, _, congrArg Host.Outcome.next run, ?_, State.wire_of_wired sent, ?_, ?_, ?_, fun m ne => State.ports_of_wired sent ne, rfl⟩
      · rw [Port.stamp_header]
        exact s.plainH_ftype n 0 0
      all_goals rw [State.port_of_wired sent hn]
      · exact Port.stamp_ackDue ..
      · exact Port.stamp_queue ..
      · exact Port.stamp_retry ..
    case idle =>
      rw [if_neg (by rw [Bool.or_eq_true, owing]; simpa [noAck] using noCredit)] at run
      exact congrArg Host.Outcome.next run

end Sys2Proof.Machine
end

section
/-! LINK_FLIT_ACCEPT, CONTROL_FLIT and HELLO_FLIT (R76, R77, R82, R88, R91, R92, R100, R256): one equation per outcome of each,
and what the Lantern queue holds after an event. -/

namespace Sys2Proof.Machine

namespace State

/- The Lantern queue after an event depends on the queue and the registers only -/

section Lantern

variable {s t : State} (lnt : t.lnt = s.lnt)
include lnt

theorem modEnts_lnt_congr (f : List LEntry → List LEntry) : (t.modEnts f).lnt = (s.modEnts f).lnt := by
  unfold modEnts
  rw [lnt]

theorem lntLost_lnt_congr (l n : Nat) : (t.lntLost l n).lnt = (s.lntLost l n).lnt := lnt

theorem lntRefill_lnt_congr (l n : Nat) : (lntRefill l n t).lnt = (lntRefill l n s).lnt := by
  induction n generalizing s t with
  | zero => exact lnt
  | succ n ih =>
    unfold lntRefill
    rw [lnt]
    split
    · exact lnt
    · split
      · exact lnt
      · split
        · exact ih (modEnts_lnt_congr lnt _)
        · split
          · exact ih (modEnts_lnt_congr lnt _)
          · exact lnt

theorem lntRefillAll_lnt_congr : t.lntRefillAll.lnt = s.lntRefillAll.lnt := by
  unfold lntRefillAll
  rw [lnt]
  split
  · exact lntRefill_lnt_congr (lntRefill_lnt_congr (lntRefill_lnt_congr (lntRefill_lnt_congr lnt _ _) _ _) _ _) _ _
  · exact lnt

theorem lntSpill_lnt_congr : t.lntSpill.lnt = s.lntSpill.lnt := by
  have slot : t.bivFree = s.bivFree := by unfold bivFree; rw [lnt]
  unfold lntSpill
  rw [lnt]
  split
  · exact lnt
  · split
    · exact lnt
    · dsimp only
      rw [slot]
      exact modEnts_lnt_congr lnt _

theorem lntAdd_lnt_congr (l : Nat) (ws : List Nat) : (t.lntAdd l ws).lnt = (s.lntAdd l ws).lnt := by
  unfold lntAdd
  rw [lnt]
  dsimp only
  split
  · exact lntRefillAll_lnt_congr (lntSpill_lnt_congr (lntRefillAll_lnt_congr rfl))
  · rfl

theorem eventAt_lnt_congr (regs : t.regs = s.regs) (now : t.now = s.now) (p k c a b : Nat) :
    (t.eventAt p k c a b).lnt = (s.eventAt p k c a b).lnt := by
  have rd (a : Nat) : t.rd a = s.rd a := rd_of_regs s regs a
  have cap : t.lntCap = s.lntCap := by unfold lntCap bivSize bivOrder; rw [lnt, rdF, rdF, rd]
  have level : t.rdF 0xB0018 0 21 = s.rdF 0xB0018 0 21 := by rw [rdF, rdF, rd]
  unfold eventAt lntEnter
  rw [now, lnt, cap, level]
  dsimp only
  split
  · split
    · exact lnt
    · exact lntAdd_lnt_congr (lntLost_lnt_congr (modEnts_lnt_congr lnt _) _ _) _ _
  · split
    · exact lntAdd_lnt_congr lnt _ _
    · exact lntAdd_lnt_congr lnt _ _

end Lantern

/- The channel of a port (R73, R93) -/

section Channel

variable {s t : State} {n : Nat} (steer : (t.port n).steer = (s.port n).steer)
include steer

theorem channelOf_congr : t.channelOf n = s.channelOf n := by
  unfold channelOf
  rw [steer]

theorem portDir_congr : t.portDir n = s.portDir n := by
  unfold portDir
  rw [channelOf_congr steer]

theorem linkEnt_congr (tab : t.links.tab = s.links.tab) : t.linkEnt n = s.linkEnt n := by
  unfold linkEnt
  rw [channelOf_congr steer, tab]

theorem helloOk_congr (tab : t.links.tab = s.links.tab) (h : Hello) : t.helloOk n h = s.helloOk n h := by
  unfold helloOk
  rw [portDir_congr steer, linkEnt_congr steer tab]

end Channel

theorem port_flitTaken {s : State} {n : Nat} (hn : n < s.links.ports.length) :
    (s.flitTaken n).port n = { s.port n with rcvAt := s.el + 1 } := s.port_modPort_self _ hn

theorem port_flitTaken_ne (s : State) {m n : Nat} (ne : m ≠ n) : (s.flitTaken n).port m = s.port m := s.port_modPort_ne _ ne

theorem port_discardFlit {s : State} {n : Nat} (hn : n < s.links.ports.length) :
    (s.discardFlit n).port n = { s.port n with nakDue := (s.port n).nakDue || !(s.port n).nakSent } := by
  refine (s.port_modPort_self _ hn).trans ?_
  split
  · next sent =>
    rw [Bool.or_eq_true] at sent
    have kept : ((s.port n).nakDue || !(s.port n).nakSent) = (s.port n).nakDue := by rcases sent with h | h <;> simp [h]
    rw [kept]
  · next fresh =>
    rw [Bool.not_eq_true, Bool.or_eq_false_iff] at fresh
    have first : ((s.port n).nakDue || !(s.port n).nakSent) = true := by simp [fresh]
    rw [first]

theorem port_discardFlit_ne (s : State) {m n : Nat} (ne : m ≠ n) : (s.discardFlit n).port m = s.port m := s.port_modPort_ne _ ne

/-- The next expected flit, of channel `v`, is counted and its slot owed to its channel as a credit (R82, R88). -/
def acceptFlit (s : State) (n v : Nat) : State := s.modPort n (fun p => { p with
  rx := (p.rx + 1) % 256
  nakSent := false
  ackDue := true
  owed := lset v (p.owed.getD v 0 + 1) p.owed })

/-- Data of an accepted version from a present chip, or on an uplink (R100, R102). -/
def FlitFits (s : State) (n : Nat) (h : FlitH) : Prop :=
  isUplink s n = true ∨ s.verOk h.mver = true ∧ entState (tget 0 (s.tabFor h.mver) h.src) ≠ 0

/-- The model's test of R100. -/
theorem flitFits_iff (s : State) (n : Nat) (h : FlitH) : s.FlitFits n h ↔
    (!(isUplink s n) && (!(s.verOk h.mver) || decide (entState (tget 0 (s.tabFor h.mver) h.src) = 0))) = false := by
  unfold FlitFits
  cases isUplink s n <;> cases s.verOk h.mver <;> simp

end State

/- LINK_FLIT_ACCEPT and CONTROL_FLIT -/

section Flit

variable {s : State} {n : Nat} {f : Bytes} {par : List Bool} {err : Bool} (take : s.canTake n = true) (up : (s.port n).st = 2)
include take up

theorem linkFlitOp_bad (bad : flitOk f par err = false) : linkFlitOp n f par err s = (s.flitTaken n).discardFlit n := by
  simp only [linkFlitOp, take, up, bad, Bool.not_true, Bool.not_false, ne_eq, not_true_eq_false, decide_false, Bool.or_self,
    Bool.false_eq_true, if_false, if_true]

theorem controlFlitOp_bad (bad : flitOk f par err = false) : controlFlitOp n f par err s = (s.flitTaken n).discardFlit n := by
  simp only [controlFlitOp, take, up, bad, Bool.not_true, Bool.not_false, ne_eq, not_true_eq_false, decide_false, Bool.or_self,
    Bool.false_eq_true, if_false, if_true]

variable (good : flitOk f par err = true)
include good

theorem controlFlitOp_control (control : (flitHeader f).ftype = 0) : controlFlitOp n f par err s =
    ((s.flitTaken n).applyFields n (flitHeader f)).getD ((s.flitTaken n).linkProto n) := by
  simp only [controlFlitOp, take, up, good, control, Bool.not_true, ne_eq, not_true_eq_false, decide_false, Bool.or_self,
    Bool.false_eq_true, if_false]
  cases (s.flitTaken n).applyFields n (flitHeader f) <;> rfl

theorem linkFlitOp_control (control : (flitHeader f).ftype = 0) : linkFlitOp n f par err s = s.flitTaken n := by
  simp only [linkFlitOp, take, up, good, control, Bool.not_true, ne_eq, not_true_eq_false, decide_false, Bool.or_self,
    Bool.false_eq_true, if_false, true_or, if_true]

theorem linkFlitOp_reserved (reserved : 4 < (flitHeader f).ftype) : linkFlitOp n f par err s = (s.flitTaken n).linkProto n := by
  have type : ¬((flitHeader f).ftype = 0 ∨ (flitHeader f).ftype = 4) := by omega
  simp only [linkFlitOp, take, up, good, type, reserved, Bool.not_true, ne_eq, not_true_eq_false, decide_false, Bool.or_self,
    Bool.false_eq_true, if_false, if_true]

variable (lo : 1 ≤ (flitHeader f).ftype) (hi : (flitHeader f).ftype ≤ 3)
include lo hi

theorem linkFlitOp_stray (stray : (s.flitTaken n).applyFields n (flitHeader f) = none) :
    linkFlitOp n f par err s = (s.flitTaken n).linkProto n := by
  have type : ¬((flitHeader f).ftype = 0 ∨ (flitHeader f).ftype = 4) ∧ ¬4 < (flitHeader f).ftype := by omega
  simp only [linkFlitOp, take, up, good, type, stray, Bool.not_true, ne_eq, not_true_eq_false, decide_false, Bool.or_self,
    Bool.false_eq_true, if_false]

variable {u : State} (applied : (s.flitTaken n).applyFields n (flitHeader f) = some u)
include applied

theorem linkFlitOp_discarded (refused : (flitHeader f).seq ≠ (u.port n).rx ∨ 6 < (flitHeader f).vc ∨
    (u.port n).restricted = true ∧ (flitHeader f).ftype ≠ 3) : linkFlitOp n f par err s = u.discardFlit n := by
  have type : ¬((flitHeader f).ftype = 0 ∨ (flitHeader f).ftype = 4) ∧ ¬4 < (flitHeader f).ftype := by omega
  simp only [linkFlitOp, take, up, good, type, applied, Bool.not_true, ne_eq, not_true_eq_false, decide_false, Bool.or_self,
    Bool.false_eq_true, if_false]
  exact if_pos refused

variable (next : (flitHeader f).seq = (u.port n).rx) (vc : (flitHeader f).vc ≤ 6)
  (free : (u.port n).restricted = false ∨ (flitHeader f).ftype = 3)
include next vc free

theorem linkFlitOp_accepted : linkFlitOp n f par err s =
    let v := u.acceptFlit n (flitHeader f).vc
    if (flitHeader f).ftype = 3 then v.modXch (fun x => { x with notices := x.notices ++ [(n, flitPayload f)] })
    else if !(isUplink v n) && (!(v.verOk (flitHeader f).mver) ||
        decide (entState (tget 0 (v.tabFor (flitHeader f).mver) (flitHeader f).src) = 0)) then
      (v.countSat 0x5004C 4 16 1).event 0x13 0 (flitHeader f).src (flitHeader f).mver
    else if (flitHeader f).ftype = 1 then v.landFlit n (flitHeader f) (flitPayload f)
    else v.landShort n (flitHeader f) (flitPayload f) := by
  have type : ¬((flitHeader f).ftype = 0 ∨ (flitHeader f).ftype = 4) ∧ ¬4 < (flitHeader f).ftype := by omega
  have expected : ¬((flitHeader f).seq ≠ (u.port n).rx ∨ 6 < (flitHeader f).vc ∨
      (u.port n).restricted = true ∧ (flitHeader f).ftype ≠ 3) := by
    rintro (h | h | ⟨h, h'⟩)
    · exact h next
    · omega
    · rcases free with free | free
      · rw [free] at h; exact absurd h Bool.false_ne_true
      · exact h' free
  simp only [linkFlitOp, take, up, good, type, applied, Bool.not_true, ne_eq, not_true_eq_false, decide_false, Bool.or_self,
    Bool.false_eq_true, if_false]
  exact if_neg expected

theorem linkFlitOp_notice (notice : (flitHeader f).ftype = 3) : linkFlitOp n f par err s =
    (u.acceptFlit n (flitHeader f).vc).modXch (fun x => { x with notices := x.notices ++ [(n, flitPayload f)] }) := by
  rw [linkFlitOp_accepted take up good lo hi applied next vc free]
  exact if_pos notice

theorem linkFlitOp_dropped (data : (flitHeader f).ftype ≠ 3) (foreign : ¬(u.acceptFlit n (flitHeader f).vc).FlitFits n (flitHeader f)) :
    linkFlitOp n f par err s =
      ((u.acceptFlit n (flitHeader f).vc).countSat 0x5004C 4 16 1).event 0x13 0 (flitHeader f).src (flitHeader f).mver := by
  rw [linkFlitOp_accepted take up good lo hi applied next vc free]
  rw [State.flitFits_iff, Bool.not_eq_false] at foreign
  exact (if_neg data).trans (if_pos foreign)

theorem linkFlitOp_lands (data : (flitHeader f).ftype ≠ 3) (fits : (u.acceptFlit n (flitHeader f).vc).FlitFits n (flitHeader f)) :
    linkFlitOp n f par err s = if (flitHeader f).ftype = 1 then
        (u.acceptFlit n (flitHeader f).vc).landFlit n (flitHeader f) (flitPayload f)
      else (u.acceptFlit n (flitHeader f).vc).landShort n (flitHeader f) (flitPayload f) := by
  rw [linkFlitOp_accepted take up good lo hi applied next vc free]
  rw [State.flitFits_iff] at fits
  exact (if_neg data).trans (if_neg (by rw [fits]; exact Bool.false_ne_true))

end Flit

/- HELLO_FLIT -/

/-- The port as a matching hello brings it up (R91, R92). -/
def Port.linked (p : Port) (h : Hello) (el : Nat) (agree : Bool) : Port := { p with
  st := 2
  credit := (List.range 7).map (fun v => min (vcBuf v) (h.free.getD v 0))
  ready := List.replicate 7 el
  helloDue := true
  helloGot := true
  peer := some (h.ver, h.digest)
  restricted := p.restricted && !agree
  ackAt := el
  tmoAt := el
  wasUp := true }

/-- A port that comes up for the first time starts at sequence 0 (R91). -/
def Port.fresh (p : Port) : Port := { p with tx := 0, rx := 0, retry := [], rs := none }

theorem Port.fresh_credit (p : Port) : p.fresh.credit = p.credit := rfl

/-- The slots of a channel are those that the neighbour has free (R88, R91). -/
theorem Port.linked_credit (p : Port) (h : Hello) (el : Nat) (agree : Bool) {v : Nat} (hv : v < 7) :
    (p.linked h el agree).credit.getD v 0 = min (vcBuf v) (h.free.getD v 0) := by
  simp only [linked, List.getD_eq_getElem?_getD, List.getElem?_map, List.getElem?_range hv, Option.map_some, Option.getD_some]

/-- The state with port `n` up on a matching hello. -/
def State.linkedOn (s : State) (n : Nat) (h : Hello) (agree : Bool) : State :=
  (s.flitTaken n).modPort n (fun p => p.linked h s.el agree)

section Linked

variable {s : State} {n : Nat} (ok : s.Ok) (hn : n < 72) (h : Hello) (agree : Bool)
include ok

theorem linkedOn_ok : (s.linkedOn n h agree).Ok := State.modPort_ok _ _ _ (State.flitTaken_ok s n ok)

include hn

theorem port_linkedOn : (s.linkedOn n h agree).port n = Port.linked { s.port n with rcvAt := s.el + 1 } h s.el agree := by
  refine (State.port_modPort_self _ _ (by rw [(State.flitTaken_ok s n ok).ports]; exact hn)).trans ?_
  rw [State.port_flitTaken (by rw [ok.ports]; exact hn)]

theorem port_linkedOn_fresh : ((s.linkedOn n h agree).modPort n Port.fresh).port n =
    (Port.linked { s.port n with rcvAt := s.el + 1 } h s.el agree).fresh := by
  rw [State.port_modPort_self _ _ (by rw [(linkedOn_ok ok h agree).ports]; exact hn), port_linkedOn ok hn]

end Linked

theorem port_linkedOn_ne (s : State) {m n : Nat} (h : Hello) (agree : Bool) (ne : m ≠ n) :
    (s.linkedOn n h agree).port m = s.port m := (State.port_modPort_ne _ _ ne).trans (s.port_flitTaken_ne ne)

theorem linkUp_again {s : State} {n : Nat} (h : Hello) (agree : Bool) (before : ((s.flitTaken n).port n).wasUp = true) :
    (s.flitTaken n).linkUp n h agree = (s.linkedOn n h agree).resumeFrom n h.rxNext := if_pos before

theorem linkUp_first {s : State} {n : Nat} (h : Hello) (agree : Bool) (first : ((s.flitTaken n).port n).wasUp = false) :
    (s.flitTaken n).linkUp n h agree = (s.linkedOn n h agree).modPort n Port.fresh :=
  if_neg (by rw [first]; exact Bool.false_ne_true)

theorem helloOk_flitTaken {s : State} {n : Nat} (hn : n < s.links.ports.length) (h : Hello) :
    (s.flitTaken n).helloOk n h = s.helloOk n h :=
  State.helloOk_congr ((congrArg Port.steer (State.port_flitTaken hn)).trans rfl) rfl h

/-- The state after a hello that does not match the link table: the port is in the error state (R92). -/
def State.helloRefused (s : State) (n chip : Nat) : State :=
  (((s.flitTaken n).modPort n (fun p => { p with st := 6 })).eventAt (portPitch n) 0x11 0 n chip).notice 2

namespace State

variable (s : State) (n chip : Nat)

theorem helloRefused_links : (s.helloRefused n chip).links = ((s.flitTaken n).modPort n (fun p => { p with st := 6 })).links :=
  (notice_links ..).trans (eventAt_links ..)

theorem helloRefused_lnt : (s.helloRefused n chip).lnt = (s.eventAt (portPitch n) 0x11 0 n chip).lnt := by
  have unread (u : State) : (u.notice 2).lnt = u.lnt := rfl
  refine (unread _).trans (eventAt_lnt_congr ?_ ?_ ?_ _ _ _ _ _)
  all_goals rfl

theorem helloRefused_notice : bit ((s.helloRefused n chip).rd 0x20) 2 = true := bit_setBit_self _ _ _ (by decide)

theorem helloRefused_keeps : s.KeepsRegs (s.helloRefused n chip) lntRegs := by
  intro a ha
  have ne : a ≠ 0x20 := fun h => ha (by rw [h]; decide)
  exact (rd_notice_ne _ _ ne).trans ((rd_eventAt_ne _ _ _ _ _ _ ha).trans rfl)

theorem helloRefused_still : (s.helloRefused n chip).still = ({ s with links := (s.helloRefused n chip).links } : State).still := by
  rw [helloRefused_links]
  exact (notice_still ..).trans ((eventAt_still ..).trans rfl)

end State

section Hello

variable {s : State} {n : Nat} {f : Bytes} {par : List Bool} {err : Bool} (hn : n < s.links.ports.length) (take : s.canTake n = true)
  (phy : (s.port n).phy = true) (good : flitOk f par err = true) (type : (flitHeader f).ftype = 4) (len : (flitHeader f).plen = 64)

include hn take phy good type len

theorem helloFlitOp_mismatch (foreign : s.helloOk n (decHello (flitPayload f)) = false) :
    helloFlitOp n f par err s = s.helloRefused n (decHello (flitPayload f)).chip := by
  simp only [helloFlitOp, take, phy, good, type, len, helloOk_flitTaken hn, foreign, Bool.not_true, Bool.not_false, Bool.or_self,
    ne_eq, not_true_eq_false, or_self, Bool.false_eq_true, if_false, if_true]
  rfl

variable (own : s.helloOk n (decHello (flitPayload f)) = true)
include own

theorem helloFlitOp_match : helloFlitOp n f par err s =
    let w := s.flitTaken n
    let h := decHello (flitPayload f)
    let agree := decide (h.ver = s.memb.ver ∧ h.digest = s.memDigest)
    if (s.port n).st = 2 then
      match w.applyFields n (flitHeader f) with
      | none => w.linkProto n
      | some u => u.modPort n (fun p => { p with peer := some (h.ver, h.digest), restricted := p.restricted && !agree })
    else w.linkUp n h agree := by
  have st : ((s.flitTaken n).port n).st = (s.port n).st := (congrArg Port.st (State.port_flitTaken hn)).trans rfl
  simp only [helloFlitOp, take, phy, good, type, len, helloOk_flitTaken hn, own, st, Bool.not_true, Bool.or_self,
    ne_eq, not_true_eq_false, or_self, Bool.false_eq_true, if_false, decide_eq_true_eq]
  rfl

theorem helloFlitOp_again (up : (s.port n).st = 2) : helloFlitOp n f par err s =
    match (s.flitTaken n).applyFields n (flitHeader f) with
    | none => (s.flitTaken n).linkProto n
    | some u => u.modPort n (fun p => { p with
        peer := some ((decHello (flitPayload f)).ver, (decHello (flitPayload f)).digest)
        restricted := p.restricted && !decide ((decHello (flitPayload f)).ver = s.memb.ver ∧
          (decHello (flitPayload f)).digest = s.memDigest) }) := by
  rw [helloFlitOp_match hn take phy good type len own]
  exact if_pos up

theorem helloFlitOp_linkUp (down : (s.port n).st ≠ 2) : helloFlitOp n f par err s =
    (s.flitTaken n).linkUp n (decHello (flitPayload f)) (decide ((decHello (flitPayload f)).ver = s.memb.ver ∧
      (decHello (flitPayload f)).digest = s.memDigest)) := by
  rw [helloFlitOp_match hn take phy good type len own]
  exact if_neg down

end Hello
/-- Settles O36: by the port's state, the flit's checks and its type. -/
theorem linkFlitsAndHellos : Obligations.LinkFlitsAndHellos := by
  unfold Obligations.LinkFlitsAndHellos
  refine ⟨fun n x s ok hn take up => ?flit, fun n x s ok hn take phy good type plen => ?hello⟩
  case flit =>
    have taken : n < (s.flitTaken n).links.ports.length := by rw [(State.flitTaken_ok s n ok).ports]; exact hn
    have hn : n < s.links.ports.length := by rw [ok.ports]; exact hn
    refine ⟨fun bad c which => ?bad, fun good control => ?control,
      fun good reserved => congrArg Host.Outcome.next (linkFlitOp_reserved take up good reserved),
      fun good lo hi => ⟨fun stray => congrArg Host.Outcome.next (linkFlitOp_stray take up good lo hi stray), fun u applied => ?data⟩⟩
    case bad =>
      refine ⟨(s.flitTaken n).discardFlit n, ?_, ?_, fun m ne => ?_, rfl⟩
      · rcases which with rfl | rfl
        · exact congrArg Host.Outcome.next (linkFlitOp_bad take up bad)
        · exact congrArg Host.Outcome.next (controlFlitOp_bad take up bad)
      · rw [State.port_discardFlit taken, State.port_flitTaken hn]
      · rw [State.port_discardFlit_ne _ ne, State.port_flitTaken_ne _ ne]
    case control =>
      refine ⟨congrArg Host.Outcome.next (linkFlitOp_control take up good control), fun u applied => ?_, fun stray => ?_⟩
      all_goals refine congrArg Host.Outcome.next ((controlFlitOp_control take up good control).trans ?_)
      · rw [applied, Option.getD_some]
      · rw [stray, Option.getD_none]
    case data =>
      have hu : n < u.links.ports.length := by
        rw [(State.applyFields_ok (State.flitTaken_ok s n ok) applied).ports, ← ok.ports]; exact hn
      refine ⟨fun refused => ⟨congrArg Host.Outcome.next (linkFlitOp_discarded take up good lo hi applied refused), ?_⟩,
        fun next vc free => ⟨?_, fun m ne => u.port_modPort_ne _ ne,
          fun notice => congrArg Host.Outcome.next (linkFlitOp_notice take up good lo hi applied next vc free notice),
          fun data foreign => congrArg Host.Outcome.next (linkFlitOp_dropped take up good lo hi applied next vc free data foreign),
          fun fits => ⟨fun chunk => ?_, fun short => ?_⟩⟩⟩
      · rw [State.port_discardFlit hu]
      · exact (congrArg Port.rx (u.port_modPort_self _ hu)).trans rfl
      · have lands := linkFlitOp_lands take up good lo hi applied next vc free (by rw [chunk]; decide) fits
        exact congrArg Host.Outcome.next (lands.trans (if_pos chunk))
      · have lands := linkFlitOp_lands take up good lo hi applied next vc free (by rw [short]; decide) fits
        exact congrArg Host.Outcome.next (lands.trans (if_neg (by rw [short]; decide)))
  case hello =>
    have taken : n < (s.flitTaken n).links.ports.length := by rw [(State.flitTaken_ok s n ok).ports]; exact hn
    have len : n < s.links.ports.length := by rw [ok.ports]; exact hn
    refine ⟨fun foreign => ?mismatch, fun own down => ?linkUp, fun own up => ⟨fun stray => ?_, fun u applied => ?_⟩⟩
    case mismatch =>
      refine ⟨_, congrArg Host.Outcome.next (helloFlitOp_mismatch len take phy good type plen foreign), ?_, fun m ne => ?_,
        s.helloRefused_notice .., s.helloRefused_lnt .., s.helloRefused_keeps n _, s.helloRefused_still ..⟩
      all_goals rw [port_of_ports (congrArg Links.ports (s.helloRefused_links ..))]
      · rw [State.port_modPort_self _ _ taken, State.port_flitTaken len]
      · rw [State.port_modPort_ne _ _ ne, State.port_flitTaken_ne _ ne]
    case linkUp =>
      have run := helloFlitOp_linkUp len take phy good type plen own down
      generalize decHello (flitPayload x.bytes) = h at run
      generalize decide (h.ver = s.memb.ver ∧ h.digest = s.memDigest) = agree at run
      have up : ((s.flitTaken n).port n).wasUp = (s.port n).wasUp := (congrArg Port.wasUp (State.port_flitTaken len)).trans rfl
      cases wasUp : (s.port n).wasUp with
      | true =>
        rw [linkUp_again h agree (up.trans wasUp)] at run
        refine ⟨s.linkedOn n h agree, ?_, ?_, ?_, fun v hv => ?_, fun m ne => port_linkedOn_ne s _ _ ne, rfl,
          fun first => absurd first.symm Bool.false_ne_true,
          fun _ => ⟨congrArg Host.Outcome.next run, ?_, ?_, ?_⟩⟩
        case refine_4 => rw [port_linkedOn ok hn]; exact Port.linked_credit _ _ _ _ hv
        all_goals rw [port_linkedOn ok hn]; rfl
      | false =>
        rw [linkUp_first h agree (up.trans wasUp)] at run
        refine ⟨(s.linkedOn n h agree).modPort n Port.fresh, ?_, ?_, ?_, fun v hv => ?_,
          fun m ne => (State.port_modPort_ne _ _ ne).trans (port_linkedOn_ne s _ _ ne), rfl,
          fun _ => ⟨congrArg Host.Outcome.next run, ?_, ?_, ?_⟩, fun again => absurd again Bool.false_ne_true⟩
        case refine_4 => rw [port_linkedOn_fresh ok hn, Port.fresh_credit]; exact Port.linked_credit _ _ _ _ hv
        all_goals rw [port_linkedOn_fresh ok hn]; rfl
    all_goals refine congrArg Host.Outcome.next ((helloFlitOp_again len take phy good type plen own up).trans ?_)
    · rw [stray]
    · rw [applied]

end Sys2Proof.Machine
end

section
/-! STEP_ACCEPT and FRAME_SWITCH_DONE (R98, R117, R144, R178, R277, R386): the reads of an acceptance charge only, holding the
layer table changes the table region only, and one equation per outcome. -/

namespace Sys2Proof.Machine

/-- An entry that a table in canonical form lists is the one read at its key. -/
theorem tget_of_mem {α : Type} [DecidableEq α] {d v : α} {t : Table α} {lo k : Nat} (wf : twf d lo t = true) (mem : (k, v) ∈ t) :
    tget d t k = v ∧ lo ≤ k := by
  induction t generalizing lo with
  | nil => cases mem
  | cons e r ih =>
    obtain ⟨j, w⟩ := e
    simp only [twf, Bool.and_eq_true, decide_eq_true_eq] at wf
    obtain ⟨⟨le, -⟩, rest⟩ := wf
    rcases List.mem_cons.mp mem with same | later
    · injection same with hk hv
      exact ⟨by rw [tget, if_pos hk, hv], by omega⟩
    · obtain ⟨got, lt⟩ := ih rest later
      exact ⟨by rw [tget, if_neg (by omega), got], by omega⟩

theorem charged_foldl {α : Type} {f : State → α → State} {c : Nat} (charges : ∀ (u : State) x, u.Charged (f u x) c) (l : List α) (s : State) :
    s.Charged (l.foldl f s) c := by
  induction l generalizing s with
  | nil => exact charged_refl s c
  | cons x r ih => exact (charges s x).trans (ih _)

namespace State

variable (s : State)

theorem step_of_stepsWhere {p : Nat → Ctx → Step → Bool} (ok : s.Ok) {c : Nat} (mem : c ∈ s.stepsWhere p) :
    ∃ st, (s.ctx c).step = some st := by
  simp only [stepsWhere, tkeys, List.mem_map, List.mem_filter] at mem
  obtain ⟨⟨k, x⟩, ⟨listed, meets⟩, rfl⟩ := mem
  have here : s.ctx k = x := (tget_of_mem ok.ctxs listed).1
  cases has : x.step with
  | none => simp [has] at meets
  | some st => exact ⟨st, by rw [here, has]⟩

/- The reads of an acceptance -/

/-- The state with the reads of the layer table charged, when no copy of it is there (R106, R178). -/
def readTable (c : Nat) (hv : HostView) (d : Desc) : State :=
  if (s.tabOf c d).isNone then (s.tableReads hv d).foldl (fun s r => s.chargeRead c 1 r.1 r.2) s else s

theorem readTable_charged (c : Nat) (hv : HostView) (d : Desc) : s.Charged (s.readTable c hv d) c := by
  unfold readTable
  split
  · exact charged_foldl (fun u (r : Nat × Nat) => u.chargeRead_charged c 1 r.1 r.2) _ s
  · exact charged_refl s c

/-- The layer table that a step binds to: the copy in the table region, or the one that is read (R171, R178). -/
def layerTable (c : Nat) (hv : HostView) (d : Desc) (l : LDir) : Option LTable :=
  match s.tabOf c d with
  | some t => if t.table.nExp = l.nExp then some t.table else none
  | none => s.bindTable hv d l

/-- The Balancer's state that a step reads (R180). -/
def balRead (hv : HostView) (st : Step) : Option BalState :=
  if (st.desc.scores || decide (st.desc.kind = 4)) && st.bind.learn.isSome then readBal hv st.bind.learn st.bind.dir.nExp else none

/- The table region -/

theorem makeTabRoom_ktl (p n k : Nat) : makeTabRoom p n k s = { s with ktl := (makeTabRoom p n k s).ktl } := by
  induction k generalizing s with
  | zero => rfl
  | succ k ih =>
    unfold makeTabRoom
    split
    · rfl
    · split
      · rfl
      · rw [ih]; rfl

theorem holdTab_ktl (c : Nat) (d : Desc) (t : LTable) : s.holdTab c d t = { s with ktl := (s.holdTab c d t).ktl } := by
  unfold holdTab
  split
  · rfl
  · dsimp only
    obtain ⟨k, room⟩ : ∃ k, makeTabRoom (s.allocPitch c) (tableLen t.nExp t.nSlot) s.ktl.tabs.length s = { s with ktl := k } :=
      ⟨_, s.makeTabRoom_ktl ..⟩
    simp only [Tab.len, room]
    split <;> rfl

/- The step begins -/

/-- The step as it runs, with what it binds to and samples (R98, R117). -/
def stepBegun (c : Nat) (st : Step) (table : LTable) (bal : Option BalState) : Step := { st with
  epoch := (s.ctx c).nextEpoch
  bind := s.bindStep c st table bal
  samp := s.sampStep c st
  frame := (s.ctx c).vframe
  at_ := ⟨(s.ctx c).v, (s.ctx c).acct, (s.ctx c).slowAvg, (s.ctx c).affObs, recOffs.map (s.page c)⟩
  cnt := { st.cnt with
    qflags := st.cnt.qflags ||| (if (s.sampStep c st).ecForced then 512 else 0) ||| b2n (decide ((s.ctx c).launch < s.now))
    prog := s.el
    quiet := s.el } }

/-- The state in which the context has the step as its running one (R117). -/
def begun (c : Nat) (st : Step) (table : LTable) (bal : Option BalState) : State := s.modCtx c (fun x => { x with
  st := .running
  seqNo := x.seqNo + 1
  epoch := (s.ctx c).nextEpoch
  tracked := x.tracked ++ [(s.ctx c).nextEpoch]
  counters := []
  vframe := none
  cand := none
  waitEpoch := false
  lastMem := (s.bindStep c st table bal).mem
  past := (((s.ctx c).nextEpoch, st.desc.model, st.desc.layer) :: x.past).take 2
  step := some (s.stepBegun c st table bal) })

theorem ctx_begun (c : Nat) (st : Step) (table : LTable) (bal : Option BalState) : (s.begun c st table bal).ctx c = { s.ctx c with
    st := .running
    seqNo := (s.ctx c).seqNo + 1
    epoch := (s.ctx c).nextEpoch
    tracked := (s.ctx c).tracked ++ [(s.ctx c).nextEpoch]
    counters := []
    vframe := none
    cand := none
    waitEpoch := false
    lastMem := (s.bindStep c st table bal).mem
    past := (((s.ctx c).nextEpoch, st.desc.model, st.desc.layer) :: (s.ctx c).past).take 2
    step := some (s.stepBegun c st table bal) } := s.ctx_modCtx_self ..

/-- What waited for the step's epoch goes on. -/
def goOn (c e : Nat) : State :=
  let w := (((s.freeHeld c e).loadImages c).applyAdds c e).fireChains c
  (w.frames (w.ctx c).tent).heldCheck c

theorem beginStep_eq (c : Nat) (st : Step) (table : LTable) (bal : Option BalState) :
    s.beginStep c st table bal = (s.begun c st table bal).goOn c (s.ctx c).nextEpoch := rfl

/- Acceptance -/

section Charged

variable {s} {u : State} {c : Nat} (charged : s.Charged u c)
include charged

theorem bindTable_charged (hv : HostView) (d : Desc) (l : LDir) : u.bindTable hv d l = s.bindTable hv d l := by
  have stn : u.stn = s.stn := by rw [charged.rest]
  have layers (m : Nat) : u.modelLayers m = s.modelLayers m := rd_of_charged charged _
  unfold bindTable
  simp only [stn, layers]

theorem fenceOk_charged (d a n right : Nat) : u.fenceOk d a n right = s.fenceOk d a n right := by
  have word (w : Nat) : u.profWord d w = s.profWord d w := by
    unfold profWord profile rdF
    rw [rd_of_charged charged, rd_of_charged charged]
  unfold fenceOk
  simp only [word]

end Charged

/-- Acceptance once the layer table has been read: its check, the stats range, the biases (R178, R180, R529). -/
def acceptTable (c : Nat) (hv : HostView) (st : Step) : Option LTable → State
  | none => s.ctxFault c 0x0A
  | some t =>
    if st.desc.flag 6 = true ∧ s.fenceOk c st.desc.statsAddr (4 * t.nSlot) rightWr = false then s.ctxFault c 0x05
    else if (match balRead hv st with | some b => if t.biases && st.desc.scores then b.bias else [] | none => []).any isNan32 then
      s.ctxFault c 0x0A
    else (s.holdTab c st.desc t).beginStep c st t (balRead hv st)

section Accept

variable {s : State} {c : Nat} {hv : HostView} {st : Step}

theorem acceptGo_badGroup (tokens : st.desc.tokens = true)
    (bad : (mkGrp (s.groupWord st.desc.group) s.torus s.own s.memb.live).valid = false) : s.acceptGo c hv st = s.ctxFault c 0x12 := by
  simp only [acceptGo, tokens, bad, Bool.not_false, Bool.and_self, if_true]

variable (group : st.desc.tokens = false ∨ (mkGrp (s.groupWord st.desc.group) s.torus s.own s.memb.live).valid = true)
  (fault : hv.fault = 0)
include group fault

theorem acceptGo_open : s.acceptGo c hv st =
    (s.readTable c hv st.desc).acceptTable c hv st (s.layerTable c hv st.desc st.bind.dir) := by
  have valid : (st.desc.tokens && !(mkGrp (s.groupWord st.desc.group) s.torus s.own s.memb.live).valid) = false := by
    rcases group with h | h <;> simp [h]
  have read := bindTable_charged (s.readTable_charged c hv st.desc) hv st.desc st.bind.dir
  unfold readTable at read
  unfold acceptGo readTable layerTable
  simp only [valid, fault]
  cases copy : s.tabOf c st.desc with
  | some t =>
    simp only [ne_eq, not_true_eq_false, decide_false, Bool.and_false, Bool.false_eq_true, if_false, Option.isNone_some] <;> rfl
  | none =>
    simp only [copy, Option.isNone_none, if_true] at read ⊢
    simp only [ne_eq, not_true_eq_false, decide_false, Bool.and_false, Bool.false_eq_true, if_false, read] <;> rfl

end Accept

section AcceptTable

variable {s} {c : Nat} {hv : HostView} {st : Step} {t : LTable}

theorem acceptTable_badFence (stats : st.desc.flag 6 = true) (outside : s.fenceOk c st.desc.statsAddr (4 * t.nSlot) rightWr = false) :
    s.acceptTable c hv st (some t) = s.ctxFault c 0x05 := if_pos ⟨stats, outside⟩

theorem acceptTable_runs (inside : st.desc.flag 6 = false ∨ s.fenceOk c st.desc.statsAddr (4 * t.nSlot) rightWr = true)
    (biases : ∀ b, balRead hv st = some b → t.biases = true → st.desc.scores = true → ∀ x ∈ b.bias, isNan32 x = false) :
    s.acceptTable c hv st (some t) = (s.holdTab c st.desc t).beginStep c st t (balRead hv st) := by
  have fence : ¬(st.desc.flag 6 = true ∧ s.fenceOk c st.desc.statsAddr (4 * t.nSlot) rightWr = false) := by
    rintro ⟨h, h'⟩
    rcases inside with k | k
    · rw [k] at h; exact Bool.false_ne_true h
    · rw [k] at h'; exact Bool.false_ne_true h'.symm
  have finite : (match balRead hv st with | some b => if t.biases && st.desc.scores then b.bias else [] | none => []).any isNan32 =
      false := by
    cases read : balRead hv st with
    | none => rfl
    | some b =>
      dsimp only
      split
      · next uses =>
        rw [Bool.and_eq_true] at uses
        rw [List.any_eq_false]
        intro x hx
        rw [biases b read uses.1 uses.2 x hx]
        exact Bool.false_ne_true
      · rfl
  exact (if_neg fence).trans (if_neg (by rw [finite]; exact Bool.false_ne_true))

end AcceptTable

/-- A charge leaves a context active and its number of steps; so does holding the table. -/
theorem ctx_readTable_holdTab (c : Nat) (hv : HostView) (d : Desc) (t : LTable) :
    ((s.readTable c hv d).holdTab c d t).ctx c = { s.ctx c with acct := ((s.readTable c hv d).ctx c).acct } ∧
    ∀ f, f ≠ c → ((s.readTable c hv d).holdTab c d t).ctx f = s.ctx f := by
  have same (f : Nat) : ((s.readTable c hv d).holdTab c d t).ctx f = (s.readTable c hv d).ctx f := by rw [holdTab_ktl]; rfl
  have charged := s.readTable_charged c hv d
  exact ⟨(same c).trans charged.self, fun f ne => (same f).trans (charged.others f ne)⟩

theorem readTable_holdTab_leaves (c : Nat) (hv : HostView) (d : Desc) (t : LTable) :
    let v := (s.readTable c hv d).holdTab c d t
    v.memb = s.memb ∧ v.stn = s.stn ∧ v.regs = s.regs := by
  have charged := s.readTable_charged c hv d
  rw [holdTab_ktl]
  dsimp only
  rw [charged.rest]
  exact ⟨rfl, rfl, rfl⟩

end State

/-- A fault at the acceptance tears the context down (R396). -/
theorem acceptFault (s : State) {c : Nat} (hv : HostView) (d : Desc) (code : Nat) (ne : c ≠ 0) (active : (s.ctx c).active = true) :
    let t := (s.readTable c hv d).ctxFault c code
    (t.ctx c).fault = code ∧ (t.ctx c).tdown = true ∧ (t.ctx c).step = none := by
  have still : ((s.readTable c hv d).ctx c).active = true := by
    rw [(s.readTable_charged c hv d).self]
    exact active
  obtain ⟨fault, tdown, -, step, -⟩ := (s.readTable c hv d).ctxFault_ctx c code ne still
  exact ⟨fault, tdown, step⟩

section Op

variable {s : State} {c : Nat} {hv : HostView} {st : Step} (alive : s.alive = true) (cand : (s.ctx c).cand = some st)
  (active : (s.ctx c).active = true) (fetching : (s.ctx c).st = .fetching) (free : (s.ctx c).tracked.contains (s.ctx c).nextEpoch = false)
include alive cand active fetching free

theorem stepAccept_open : exec (.stepAccept c hv) s = .next (
    if tget 0 s.ktl.gens st.desc.model = st.bind.gen then s.acceptGo c hv st
    else match s.checkDesc c hv st.raw with
      | .refused r => (s.chargeChecks c hv st.desc).refuseStep c r st.desc.cookie
      | .fault k => (s.chargeChecks c hv st.desc).ctxFault c k
      | .passed st' => (s.chargeChecks c hv st.desc).acceptGo c hv { st' with cnt := st.cnt }) := by
  refine congrArg Host.Outcome.next ((if_pos alive).trans ?_)
  unfold stepAcceptOp
  simp only [cand, active, fetching, free, Bool.not_true, ne_eq, not_true_eq_false, decide_false, Bool.or_self, Bool.false_eq_true,
    if_false] <;> rfl

theorem stepAccept_go (current : tget 0 s.ktl.gens st.desc.model = st.bind.gen) :
    exec (.stepAccept c hv) s = .next (s.acceptGo c hv st) := by
  rw [stepAccept_open alive cand active fetching free, if_pos current]

end Op

/-- Settles O42: by what decides the acceptance, in the model's order; the frame's step is the first that may move. -/
theorem stepAcceptBinds : Obligations.StepAcceptBinds := by
  unfold Obligations.StepAcceptBinds
  refine ⟨fun c hv st s alive cand active fetching free ne => ⟨fun changed => ?again, fun current fault =>
    ⟨fun tokens bad => ?group, fun group => ?go⟩⟩, fun n s alive => ?frames⟩
  case again =>
    have run := stepAccept_open (hv := hv) alive cand active fetching free
    rw [if_neg changed] at run
    refine ⟨fun r check => ?_, fun k check => ?_, fun st' check => ?_⟩
    all_goals rw [run, check]
  case group =>
    obtain ⟨code, tdown, -, step, -⟩ := s.ctxFault_ctx c 0x12 ne active
    refine ⟨_, (stepAccept_go alive cand active fetching free current).trans (congrArg _ (State.acceptGo_badGroup tokens bad)),
      code, tdown, step⟩
  case go =>
    have run : exec (.stepAccept c hv) s = .next ((s.readTable c hv st.desc).acceptTable c hv st
        (s.layerTable c hv st.desc st.bind.dir)) :=
      (stepAccept_go alive cand active fetching free current).trans (congrArg _ (State.acceptGo_open group fault))
    have fence (n : Nat) := State.fenceOk_charged (s.readTable_charged c hv st.desc) c st.desc.statsAddr n rightWr
    refine ⟨fun unread => ⟨_, run.trans (congrArg _ (congrArg _ unread)), acceptFault s hv st.desc 0x0A ne active⟩,
      fun lt read stats outside => ?fence, fun lt read inside biases => ?runs⟩
    case fence =>
      refine ⟨_, run.trans (congrArg _ ((congrArg _ read).trans (State.acceptTable_badFence stats ?_))),
        acceptFault s hv st.desc 0x05 ne active⟩
      rw [fence, outside]
    case runs =>
      have read : s.layerTable c hv st.desc st.bind.dir = some lt := read
      have runs := State.acceptTable_runs (s := s.readTable c hv st.desc) (c := c) (by rw [fence]; exact inside) biases
      obtain ⟨self, others⟩ := s.ctx_readTable_holdTab c hv st.desc lt
      obtain ⟨memb, stn, regs⟩ := s.readTable_holdTab_leaves c hv st.desc lt
      have rd := fun a => State.rd_of_regs s regs a
      generalize (s.readTable c hv st.desc).holdTab c st.desc lt = v at runs self others memb stn regs rd
      have epoch : (v.ctx c).nextEpoch = (s.ctx c).nextEpoch := by rw [self]; rfl
      have seqNo : (v.ctx c).seqNo = (s.ctx c).seqNo := by rw [self]
      have tracked : (v.ctx c).tracked = (s.ctx c).tracked := by rw [self]
      refine ⟨v.begun c st lt (State.balRead hv st), v.stepBegun c st lt (State.balRead hv st), ?_, ?_⟩
      · rw [run, read, runs, State.beginStep_eq, epoch]; rfl
      · rw [v.ctx_begun c st lt (State.balRead hv st)]
        exact ⟨rfl, rfl, epoch, congrArg (· + 1) seqNo, rfl, rfl, congrArg₂ (fun l e => l ++ [e]) tracked epoch, rfl, epoch,
          (congrArg Ctx.vframe self).trans rfl, congrArg Memb.ver memb, congrArg Stn.ver stn, congrArg Memb.live memb, rd _, rfl,
          rd _, fun f nf => (v.ctx_modCtx_ne _ nf).trans (others f nf), rd⟩
  case frames =>
    refine ⟨fun c r first ok => ?_, fun none => ?_⟩
    · obtain ⟨st, step⟩ := s.step_of_stepsWhere ok (by rw [first]; exact List.mem_cons_self)
      refine ⟨s.modStep c (fun st => { st with moving := false }), st, ?_, step, ?_, fun d nd => s.ctx_modCtx_ne _ nd, rfl⟩
      · refine congrArg Host.Outcome.next ((if_pos alive).trans ?_)
        unfold frameSwitchOp
        rw [first]
      · refine (s.ctx_modCtx_self ..).trans ?_
        rw [step]; rfl
    · refine congrArg Host.Outcome.next ((if_pos alive).trans ?_)
      unfold frameSwitchOp
      rw [none]

end Sys2Proof.Machine
end

section
/-! What the loss of a chip and the end of a port leave of the other ports (R93 to R95, R433 to R436): flits that are queued
change queues only, and no operation of a loss enables a port. -/

namespace Sys2Proof.Machine

theorem lset_past {α : Type} {i : Nat} (v : α) {l : List α} (h : l.length ≤ i) : lset i v l = l := by
  induction l generalizing i with
  | nil => cases i <;> rfl
  | cons x r ih =>
    cases i with
    | zero => simp at h
    | succ i => exact congrArg (x :: ·) (ih (by simpa using h))

namespace State

variable {s t u : State}

/-- The port after a change of port `n`: changed when it is that port. -/
theorem port_modPort_or (s : State) (n j : Nat) (f : Port → Port) :
    (s.modPort n f).port j = s.port j ∨ (s.modPort n f).port j = f (s.port j) := by
  by_cases ne : j = n
  · subst ne
    rcases Nat.lt_or_ge j s.links.ports.length with lt | ge
    · exact .inr (s.port_modPort_self f lt)
    · left
      show (lset j _ s.links.ports).getD j _ = _
      rw [lset_past _ ge]
      rfl
  · exact .inl (s.port_modPort_ne f ne)

/- Queued flits -/

/-- `t` is `s` but for flits queued on ports: membership, the link table and the rest of each port stay. -/
structure Queued (s t : State) : Prop where
  memb : t.memb = s.memb
  tab : t.links.tab = s.links.tab
  port : ∀ j, t.port j = { s.port j with queue := (t.port j).queue, ready := (t.port j).ready }

theorem queued_refl (s : State) : s.Queued s := ⟨rfl, rfl, fun _ => rfl⟩

theorem Queued.trans (h : s.Queued t) (k : t.Queued u) : s.Queued u := by
  refine ⟨k.memb.trans h.memb, k.tab.trans h.tab, fun j => ?_⟩
  rw [k.port j, h.port j]

theorem queued_of_links (memb : t.memb = s.memb) (links : t.links = s.links) : s.Queued t :=
  ⟨memb, congrArg Links.tab links, fun j => by rw [port_of_links links]⟩

theorem queued_foldl {α : Type} {f : State → α → State} (queues : ∀ s x, State.Queued s (f s x)) (l : List α) (s : State) :
    s.Queued (l.foldl f s) := by
  induction l generalizing s with
  | nil => exact queued_refl s
  | cons x r ih => exact (queues s x).trans (ih _)

theorem enqueue_queued (s : State) (n vc : Nat) (qs : List QFlit) : s.Queued (s.enqueue n vc qs) := by
  refine ⟨rfl, rfl, fun j => ?_⟩
  have cases : (s.enqueue n vc qs).port j = s.port j ∨ (s.enqueue n vc qs).port j = _ := s.port_modPort_or n j _
  rcases cases with h | h <;> rw [h]

/-- Which ports of a direction work is told by four fields of each port. -/
theorem workPorts_congr (same : ∀ j, (t.port j).st = (s.port j).st ∧ (t.port j).iso = (s.port j).iso ∧
    (t.port j).restricted = (s.port j).restricted ∧ (t.port j).steer = (s.port j).steer) (d : Nat) : t.workPorts d = s.workPorts d := by
  have st (j : Nat) := (same j).1
  have iso (j : Nat) := (same j).2.1
  have restricted (j : Nat) := (same j).2.2.1
  have dir (j : Nat) : t.portDir j = s.portDir j := portDir_congr (same j).2.2.2
  unfold State.workPorts
  simp only [st, iso, restricted, dir]

theorem Queued.workPorts (h : s.Queued t) (d : Nat) : t.workPorts d = s.workPorts d :=
  workPorts_congr (fun j => by rw [h.port j]; exact ⟨rfl, rfl, rfl, rfl⟩) d

theorem up_of_workPorts {d m : Nat} (works : m ∈ s.workPorts d) : (s.port m).st = 2 := by
  have listed : m ∈ (List.range 72).filter
      (fun n => decide ((s.port n).st = 2) && !(s.port n).iso && decide (s.portDir n = some d)) := by
    unfold State.workPorts at works
    dsimp only at works
    split at works
    · exact works
    · exact (List.mem_filter.mp works).1
  have meets := (List.mem_filter.mp listed).2
  simp only [Bool.and_eq_true, decide_eq_true_eq] at meets
  exact meets.1.1

/- Flits that move to other ports (R94) -/

theorem mem_of_choosePort {d chunk m : Nat} (h : s.choosePort d chunk = some m) : m ∈ s.workPorts d := by
  unfold choosePort at h
  dsimp only at h
  split at h
  · cases h
  · split at h
    · exact List.mem_of_getElem? h
    · exact List.mem_of_find?_eq_some h

/-- One flit that moves: to the port of its chunk, or to one that works. -/
def moveOne (d : Nat) (a : State × Option Nat × List ChunkTo) (q : QFlit) : State × Option Nat × List ChunkTo :=
  match (if q.h.ftype = 1 ∧ q.h.index ≠ 0 then a.2.1 else a.1.choosePort d q.h.chunk) with
  | none => (a.1, none, a.2.2)
  | some n => (a.1.enqueue n q.h.vc [{ q with resends := 0 }], some n,
      if q.h.ftype = 1 ∧ q.h.index = 0 then ⟨q.h.vc, q.h.src, q.h.chunk, n⟩ :: a.2.2 else a.2.2)

theorem moveFlits_eq (s : State) (d : Nat) (fs : List QFlit) : s.moveFlits d fs =
    ((fs.foldl (moveOne d) (s, none, [])).1, (fs.foldl (moveOne d) (s, none, [])).2.2) := rfl

/-- What moving flits to the ports of direction `d` leaves: membership, ports but for their queues, ports that do not work. -/
structure Moved (s : State) (d : Nat) (a : State × Option Nat × List ChunkTo) : Prop where
  queued : s.Queued a.1
  goal : ∀ m, a.2.1 = some m → m ∈ s.workPorts d
  others : ∀ j, j ∉ s.workPorts d → a.1.port j = s.port j

theorem moveOne_moved {d : Nat} {a : State × Option Nat × List ChunkTo} (moved : s.Moved d a) (q : QFlit) :
    s.Moved d (moveOne d a q) := by
  have goal (m : Nat) (h : (if q.h.ftype = 1 ∧ q.h.index ≠ 0 then a.2.1 else a.1.choosePort d q.h.chunk) = some m) :
      m ∈ s.workPorts d := by
    split at h
    · exact moved.goal m h
    · rw [← moved.queued.workPorts]
      exact mem_of_choosePort h
  unfold moveOne
  split
  · exact ⟨moved.queued, fun m h => (by cases h), moved.others⟩
  · next m h =>
    refine ⟨moved.queued.trans (enqueue_queued ..), fun k hk => Option.some.inj hk ▸ goal m h, fun j out => ?_⟩
    have ne : j ≠ m := fun same => out (by rw [same]; exact goal m h)
    exact (a.1.port_modPort_ne _ ne).trans (moved.others j out)

theorem moveFlits_moved (s : State) (d : Nat) (fs : List QFlit) :
    s.Queued (s.moveFlits d fs).1 ∧ ∀ j, j ∉ s.workPorts d → (s.moveFlits d fs).1.port j = s.port j := by
  have moved (a) (start : s.Moved d a) : s.Moved d (fs.foldl (moveOne d) a) := by
    induction fs generalizing a with
    | nil => exact start
    | cons q r ih => exact ih _ (moveOne_moved start q)
  obtain ⟨queued, -, others⟩ := moved (s, none, []) ⟨queued_refl s, fun m h => (by cases h), fun _ _ => rfl⟩
  rw [moveFlits_eq]
  exact ⟨queued, others⟩

/-- What a port holds goes to the working ports of its direction (R94). -/
theorem spread_moved (s : State) (n d : Nat) : (s.modPort n Port.empty).Queued (s.spread n d) ∧
    ∀ j, j ∉ (s.modPort n Port.empty).workPorts d → (s.spread n d).port j = (s.modPort n Port.empty).port j := by
  obtain ⟨queued, others⟩ := (s.modPort n Port.empty).moveFlits_moved d ((s.port n).held.flatMap Prod.snd)
  exact ⟨⟨queued.memb, queued.tab, queued.port⟩, others⟩

/- Messages to other chips -/

theorem shortOut_queued (s : State) (h : FlitH) (pay : Bytes) (fin pool slot : Nat) : s.Queued (s.shortOut h pay fin pool slot) := by
  unfold shortOut
  dsimp only
  split
  · exact queued_of_links rfl rfl
  · split
    · exact queued_of_links rfl rfl
    · exact enqueue_queued ..

theorem abortAll_queued (s : State) (c : Nat) (st : Step) (reason : Nat) : s.Queued (s.abortAll c st reason) := by
  refine queued_foldl (fun s x => queued_foldl (fun s m => ?_) _ s) _ s
  unfold sendShort
  split
  · exact queued_of_links rfl rfl
  · exact shortOut_queued ..

theorem spreadNotice_queued (s : State) (pay : Bytes) (d : Option Nat) : s.Queued (s.spreadNotice pay d) := by
  refine queued_foldl (fun s d => ?_) _ s
  split
  · exact queued_refl s
  · exact enqueue_queued ..

/- No port begins to carry flits -/

/-- From `s` to `t` membership stays and no port is enabled. -/
structure Darker (s t : State) : Prop where
  memb : t.memb = s.memb
  dark : ∀ j, (s.port j).usable = false → (t.port j).usable = false

theorem darker_refl (s : State) : s.Darker s := ⟨rfl, fun _ h => h⟩

theorem Darker.trans (h : s.Darker t) (k : t.Darker u) : s.Darker u :=
  ⟨k.memb.trans h.memb, fun j off => k.dark j (h.dark j off)⟩

theorem Queued.darker (h : s.Queued t) : s.Darker t := ⟨h.memb, fun j off => by rw [h.port j]; exact off⟩

theorem darker_of_links (memb : t.memb = s.memb) (links : t.links = s.links) : s.Darker t := (queued_of_links memb links).darker

theorem darker_of_still (still : t.still = s.still) : s.Darker t := darker_of_links (still_memb still) (still_links still)

theorem darker_of_settled (settled : s.Settled t) : s.Darker t := by
  obtain ⟨-, -, -, -, -, -, -, -, -, -, -, links, -, memb, -⟩ := settled_fields settled
  exact darker_of_links memb links

theorem darker_of_charged {c : Nat} (charged : s.Charged t c) : s.Darker t := by
  rw [charged.rest]
  exact darker_of_links rfl rfl

theorem darker_foldl {α : Type} {f : State → α → State} (each : ∀ s x, State.Darker s (f s x)) (l : List α) (s : State) :
    s.Darker (l.foldl f s) := by
  induction l generalizing s with
  | nil => exact darker_refl s
  | cons x r ih => exact (each s x).trans (ih _)

theorem modPort_darker (s : State) (n : Nat) {f : Port → Port} (off : ∀ p, p.usable = false → (f p).usable = false) :
    s.Darker (s.modPort n f) := by
  refine ⟨rfl, fun j dark => ?_⟩
  rcases s.port_modPort_or n j f with h | h <;> rw [h]
  · exact dark
  · exact off _ dark

/-- Each port changed by a function of its place. -/
theorem darker_of_map {g : Nat → Port → Port} (memb : t.memb = s.memb)
    (ports : ∀ j, t.links.ports[j]? = s.links.ports[j]?.map (g j)) (off : ∀ j p, p.usable = false → (g j p).usable = false) :
    s.Darker t := by
  refine ⟨memb, fun j dark => ?_⟩
  unfold port at dark ⊢
  rw [List.getD_eq_getElem?_getD] at dark ⊢
  rw [ports]
  cases at_ : s.links.ports[j]? with
  | none => rfl
  | some p =>
    rw [at_] at dark
    exact off _ _ dark

theorem memb_of_kept (h : t.kept = s.kept) : t.memb = s.memb := congrArg (fun x => x.2.2.2.2.1) h

/- Cancels and teardowns -/

theorem sendCancel_darker (s : State) (c e scope why fin : Nat) : s.Darker (s.sendCancel c e scope why fin) := by
  have sent : s.Darker (s.sendPacket (s.firstPt s.glb.anchor) c (cancelWord c e scope why s.core.nextCancel) false) := by
    refine Darker.trans ?_ (darker_of_charged (State.sendPacket_charged ..).1)
    rw [coreSend_eq]
    exact darker_of_links rfl rfl
  exact sent.trans (darker_of_links rfl rfl)

theorem cancelCheck_darker (s : State) (c : Nat) : s.Darker (s.cancelCheck c) := by
  have posted (u : State) (k : Nat) (q : Query) : u.Darker (u.postQuery c k q) := darker_of_links rfl rfl
  have marked : s.Darker (s.modStep c (fun st => { st with ended := true })) := darker_of_links rfl rfl
  unfold cancelCheck
  split
  · exact darker_refl s
  · dsimp only
    split
    · exact marked.trans (posted ..)
    · exact darker_refl s

theorem cancelMark_darker (s : State) (c : Nat) (st : Step) : s.Darker (s.cancelMark c st) := by
  refine darker_of_links (memb_of_kept (s.cancelMark_kept c st)) ?_
  unfold cancelMark
  by_cases none : st.outCopies = []
  · simp only [none, if_true]; rfl
  · simp only [none, if_false]; rfl

theorem cancelNow_darker (s : State) (c : Nat) (st : Step) : s.Darker (s.cancelNow c st) := by
  have dropped (u : State) : u.Darker (if u.tilesOf c = [] then u.dropFrame c else u) := by
    split
    · exact darker_of_settled (u.dropFrame_settled c)
    · exact darker_refl u
  exact (((s.cancelMark_darker c st).trans (dropped _)).trans (sendCancel_darker ..)).trans (cancelCheck_darker ..)

theorem holdCancel_darker (s : State) (c : Nat) (full : Bool) : s.Darker (s.holdCancel c full) := by
  unfold holdCancel
  dsimp only
  split <;> exact darker_of_links rfl rfl

theorem cancelStep_darker (s : State) (c : Nat) : s.Darker (s.cancelStep c) := by
  unfold cancelStep
  split
  · exact darker_refl s
  · split
    · exact darker_refl s
    · split
      · exact holdCancel_darker ..
      · split
        · exact holdCancel_darker ..
        · exact cancelNow_darker ..

theorem heldAll_darker (s : State) : s.Darker s.heldAll := by
  refine darker_foldl (fun s c => ?_) _ s
  unfold heldCheck
  split
  · exact cancelStep_darker s c
  · exact darker_refl s

theorem release_darker (s : State) (c : Nat) : s.Darker (s.release c) := by
  have cleared : s.Darker (s.clearOwn c) := darker_of_links rfl rfl
  have dropped := cleared.trans (darker_of_settled (State.dropImages_settled _ c))
  exact ((dropped.trans (darker_of_settled (State.unhold_settled _ c))).trans (darker_of_settled (State.frames_settled ..))).trans
    (heldAll_darker _)

theorem downCheck_darker (s : State) (c : Nat) : s.Darker (s.downCheck c) := by
  unfold downCheck
  split
  · exact darker_of_links rfl rfl
  · exact darker_refl s

theorem tearDown_darker (s : State) (c why : Nat) : s.Darker (s.tearDown c why) := by
  have aborted : s.Darker (match s.step? c with | none => s | some st => s.abortAll c st 7) := by
    split
    · exact darker_refl s
    · exact (s.abortAll_queued c _ 7).darker
  have marked (u : State) : u.Darker (u.modCtx c (fun x => { x with tdown := true, downWait := true, torn := true })) :=
    darker_of_links rfl rfl
  have torn := (aborted.trans (marked _)).trans (sendCancel_darker _ c 0 1 why 1)
  exact (torn.trans (release_darker _ c)).trans (downCheck_darker _ c)

theorem ctxFault_darker (s : State) (c code : Nat) : s.Darker (s.ctxFault c code) := by
  unfold ctxFault
  split
  · exact darker_refl s
  · split
    · have noted : s.Darker ((((s.count 0xA0008 1).modCtx c (fun x => { x with fault := code })).event 0x30 c code 0).notice 1) := by
        have faulted : s.Darker ((s.count 0xA0008 1).modCtx c (fun x => { x with fault := code })) := darker_of_links rfl rfl
        exact (faulted.trans (darker_of_still (event_still ..))).trans (darker_of_still (notice_still ..))
      exact noted.trans (tearDown_darker ..)
    · exact darker_of_still (count_still ..)

/- Channels and points -/

theorem isolateMem_darker (s : State) (c : Nat) : s.Darker (s.isolateMem c) := by
  have noticed : s.Darker (if (s.ch c).iso then s else s.notice 2) := by
    split
    · exact darker_refl s
    · exact darker_of_still (notice_still ..)
  have waits (u : State) (rs : List MemReq) : u.Darker (u.waitAgain rs) := by
    refine darker_foldl ?_ rs u
    exact fun s r => darker_of_links rfl rfl
  have abandoned (u : State) (f : MemCh → MemCh) : u.Darker ((u.modCh c f).abandonOut c false) :=
    (darker_of_links rfl rfl : u.Darker ((u.modCh c f).modCh c _)).trans (waits _ _)
  exact noticed.trans (abandoned _ _)

theorem isolateCore_darker (s : State) (a left : Nat) : s.Darker (s.isolateCore a left) := by
  have noticed : s.Darker (if (s.pt a).iso then s else s.notice 2) := by
    split
    · exact darker_refl s
    · exact darker_of_still (notice_still ..)
  have resent (u : State) (b : Bytes) : u.Darker ((u.outPoint a).2.coreSend (u.outPoint a).1 b) := by
    have picked : u.Darker (u.outPoint a).2 := by
      unfold outPoint
      dsimp only
      split
      · exact darker_refl u
      · split <;> exact darker_of_links rfl rfl
    rw [coreSend_eq]
    exact picked.trans (darker_of_links rfl rfl)
  unfold isolateCore
  refine noticed.trans (Darker.trans ?_ (darker_foldl resent _ _))
  exact darker_of_links rfl rfl

/- The loss of a chip -/

theorem shutDown_darker (s : State) : s.Darker s.shutDown := by
  have disabled (u : State) : u.Darker { u with links := { u.links with
      ports := u.links.ports.map (fun p => { p with en := false, st := if p.st = 5 then 5 else 0 }) } } := by
    exact darker_of_map (g := fun _ p => { p with en := false, st := if p.st = 5 then 5 else 0 }) rfl
      (fun j => List.getElem?_map) fun _ _ _ => rfl
  have channels (u : State) : u.Darker ((List.range 16).foldl isolateMem u) := darker_foldl isolateMem_darker _ u
  have points (u : State) : u.Darker ((List.range 32).foldl (fun s a => s.isolateCore a 0) u) :=
    darker_foldl (fun s a => isolateCore_darker s a 0) _ u
  have written (a : Nat) : s.Darker (s.wr a 0) := darker_of_links rfl rfl
  have quiet := (((written (if s.stp.live then 0x18004 else 0x18000)).trans (disabled _)).trans (channels _)).trans (points _)
  have begun (u : State) (g : Glb) (st : StartSt) : u.Darker { u with glb := g, start := st } := darker_of_links rfl rfl
  exact quiet.trans (begun _ _ _)

theorem snapFail_darker (s : State) : s.Darker s.snapFail := by
  have ended (u : State) : u.Darker u.snapEnd := by
    have rested : u.Darker { u with rsl := { u.rsl with snap := {} } } := darker_of_links rfl rfl
    unfold snapEnd
    dsimp only
    split
    · exact rested.trans (shutDown_darker _)
    · exact rested
  have failed : s.Darker ((s.dropRefs (fun r => decide (r = refSnap))).setBit 0xC0024 2) := darker_of_links rfl rfl
  unfold snapFail
  split
  · exact darker_refl s
  · exact (failed.trans (darker_of_still (event_still ..))).trans (ended _)

theorem infFail_darker (s : State) (expert : Bool) : s.Darker (s.infFail expert) := by
  have still := s.infFail_still expert
  exact darker_of_links ((still_memb still).trans rfl) ((still_links still).trans rfl)

theorem copiesLost_darker (s : State) (gone : Nat → Bool) (lost : Bool) : s.Darker (s.copiesLost gone lost) := by
  have ite_darker (u v : State) (b : Bool) (h : u.Darker v) : u.Darker (if b then v else u) := by
    split
    · exact h
    · exact darker_refl u
  unfold copiesLost
  dsimp only
  exact ((ite_darker _ _ _ (s.infFail_darker false)).trans (ite_darker _ _ _ (infFail_darker _ true))).trans
    (ite_darker _ _ _ (snapFail_darker _))

theorem dropFor_darker (s : State) (l : Nat) : s.Darker (s.dropFor l) := by
  refine darker_of_map (g := fun j p => if isUplink s j then p else { p with
    queue := p.queue.map (fun q => q.filter (fun q => decide (q.h.ftype = 3) || decide (q.h.dst ≠ l))) }) rfl (fun j => ?_) fun j p off => ?_
  · show (s.links.ports.zipIdx.map _)[j]? = _
    rw [List.getElem?_map, List.getElem?_zipIdx, Option.map_map, Nat.zero_add]
    rfl
  · split <;> exact off

theorem cancelLoss_darker (s : State) (c : Nat) : s.Darker (s.cancelLoss c) := by
  have closed : s.Darker (s.modStep c (fun st => { st with openAtoms := [] })) := darker_of_links rfl rfl
  unfold cancelLoss
  split
  · exact darker_refl s
  · split
    · exact darker_refl s
    · split
      · exact closed.trans (holdCancel_darker ..)
      · exact cancelNow_darker ..

theorem lossStep_darker (s : State) (l c : Nat) : s.Darker (s.lossStep l c) := by
  have marked (u : State) (f : Step → Step) : u.Darker (u.modStep c f) := darker_of_links rfl rfl
  unfold lossStep
  split
  · exact darker_refl s
  · dsimp only
    repeat' split
    · exact marked ..
    · exact (marked ..).trans (cancelLoss_darker ..)
    · exact (marked ..).trans (ctxFault_darker ..)
    · exact (marked ..).trans (ctxFault_darker ..)
    · exact marked ..
    · exact (marked ..).trans (ctxFault_darker ..)
    · exact (marked ..).trans (marked ..)

theorem detect_darker (s : State) : s.Darker s.detect :=
  darker_of_links ((still_memb s.detect_still).trans rfl) ((still_links s.detect_still).trans rfl)

/-- A chip that is declared lost stands in the lost set, and no port begins to carry flits (R95, R433). -/
theorem declareLost_darker (s : State) {l : Nat} (decl : Nat) (pay : Bytes) (d : Option Nat) (new : s.memb.lost.contains l = false) :
    ({ s with memb := { s.memb with lost := s.memb.lost ++ [l] } } : State).Darker (s.declareLost l decl pay d) := by
  unfold declareLost
  rw [if_neg (by rw [new]; exact Bool.false_ne_true)]
  generalize ({ s with memb := { s.memb with lost := s.memb.lost ++ [l] } } : State) = u
  have noted : u.Darker (((u.event 0x14 0 l decl).notice 2).wr 0xC003C l) :=
    (darker_of_still (event_still ..)).trans ((darker_of_still (notice_still ..)).trans (darker_of_still (wr_still ..)))
  have told := (noted.trans (copiesLost_darker _ (fun c => decide (c = l)) true)).trans (spreadNotice_queued _ pay d).darker
  have dropped := told.trans (dropFor_darker _ l)
  have counted (v : State) (n : Nat) : v.Darker (v.count 0x7001C n) := darker_of_links rfl rfl
  have released (v : State) : v.Darker { v with hold := v.hold.filter (fun e => decide (e.src ≠ l)) } := darker_of_links rfl rfl
  exact ((dropped.trans (counted _ _)).trans (released _)).trans (darker_foldl (fun s c => lossStep_darker s l c) _ _)

/- A port that holds flits no more (R94, R95) -/

theorem workPorts_nil {d : Nat} (idle : ∀ m < 72, s.portDir m = some d → (s.port m).st ≠ 2 ∨ (s.port m).iso = true) :
    s.workPorts d = [] := by
  have none : (List.range 72).filter (fun n => decide ((s.port n).st = 2) && !(s.port n).iso && decide (s.portDir n = some d)) = [] := by
    rw [List.filter_eq_nil_iff]
    intro m hm works
    simp only [Bool.and_eq_true, decide_eq_true_eq, Bool.not_eq_true'] at works
    obtain ⟨⟨up, free⟩, dir⟩ := works
    rcases idle m (List.mem_range.mp hm) dir with down | iso
    · exact down up
    · rw [iso] at free; exact Bool.false_ne_true free.symm
  unfold workPorts
  simp only [none, List.filter_nil, if_true]

theorem reroutePort_eq {n d : Nat} (dir : s.portDir n = some d) : s.reroutePort n =
    let u := s.spread n d
    if u.workPorts d = [] ∧ d < 6 ∧ u.memb.lost.contains (s.linkEnt n).chip = false then u.detect.declareOwn (s.linkEnt n).chip
    else u := by
  unfold reroutePort
  rw [dir]

theorem spread_darker (s : State) (n d : Nat) : s.Darker (s.spread n d) :=
  (modPort_darker s n (f := Port.empty) (fun _ off => off)).trans (s.spread_moved n d).1.darker

theorem declareOwn_darker (s : State) {l : Nat} (new : s.memb.lost.contains l = false) :
    ({ s with memb := { s.memb with lost := s.memb.lost ++ [l] } } : State).Darker (s.declareOwn l) := declareLost_darker s _ _ _ new

/-- No port is enabled as a port's flits go to others, not even where the neighbour is declared lost. -/
theorem reroutePort_dark (s : State) (n j : Nat) (off : (s.port j).usable = false) : ((s.reroutePort n).port j).usable = false := by
  cases dir : s.portDir n with
  | none =>
    unfold reroutePort
    rw [dir]
    exact off
  | some d =>
    rw [reroutePort_eq dir]
    dsimp only
    have quiet := ((s.spread_darker n d).trans (detect_darker _)).dark j off
    split
    · next alone =>
      have new : ((s.spread n d).detect).memb.lost.contains (s.linkEnt n).chip = false := by
        rw [(detect_darker _).memb]; exact alone.2.2
      exact (declareOwn_darker _ new).dark j quiet
    · exact (s.spread_darker n d).dark j off

/-- A direction without a working port means that the neighbour is lost (R95). -/
theorem reroutePort_lost {n d : Nat} (dir : s.portDir n = some d) (torus : d < 6) (alone : (s.modPort n Port.empty).workPorts d = []) :
    (s.linkEnt n).chip ∈ (s.reroutePort n).memb.lost := by
  have none : (s.spread n d).workPorts d = [] := ((s.spread_moved n d).1.workPorts d).trans alone
  rw [reroutePort_eq dir]
  dsimp only
  cases known : (s.spread n d).memb.lost.contains (s.linkEnt n).chip with
  | true =>
    rw [if_neg (fun h => Bool.false_ne_true h.2.2.symm)]
    exact List.contains_iff_mem.mp known
  | false =>
    rw [if_pos ⟨none, torus, rfl⟩]
    have new : ((s.spread n d).detect).memb.lost.contains (s.linkEnt n).chip = false := by
      rw [(detect_darker _).memb]; exact known
    rw [(declareOwn_darker _ new).memb]
    exact List.mem_append_right _ List.mem_cons_self

/-- While its direction has another working port, a port that is not up is emptied, and nothing is declared (R94). -/
theorem reroutePort_empties {n d : Nat} (hn : n < s.links.ports.length) (dir : s.portDir n = some d) (down : (s.port n).st ≠ 2)
    (others : s.workPorts d ≠ []) : (s.reroutePort n).port n = (s.port n).empty := by
  have ports : (s.modPort n Port.empty).port n = (s.port n).empty := s.port_modPort_self _ hn
  have works : (s.modPort n Port.empty).workPorts d = s.workPorts d := by
    refine workPorts_congr (fun j => ?_) d
    rcases s.port_modPort_or n j Port.empty with h | h <;> rw [h] <;> exact ⟨rfl, rfl, rfl, rfl⟩
  obtain ⟨queued, stays⟩ := s.spread_moved n d
  rw [reroutePort_eq dir]
  dsimp only
  rw [if_neg (fun h => others (works ▸ (queued.workPorts d) ▸ h.1)), stays n (fun m => down ?_), ports]
  rw [works] at m
  exact up_of_workPorts m

end State
end Sys2Proof.Machine
end

section
/-! The link timers and PHY_UP_RISE (R84, R86, R91, R93 to R95, R101): one equation per timer, and what the failure of a port
leaves when a spare takes its channel and when none does. -/

namespace Sys2Proof.Machine

namespace State

variable (s : State) (n : Nat)

/- A port is declared failed (R86) -/

/-- The state once the detection and the event of a failed port are recorded, and the notice raised (R66, R86). -/
def portLost (k : Nat) : State := ((s.detect).eventAt (portPitch n) 0x10 0 n k).notice 2

theorem portLost_still (k : Nat) : (s.portLost n k).still = ({ s with rsl := s.detect.rsl } : State).still :=
  (notice_still ..).trans ((eventAt_still ..).trans s.detect_still)

theorem portLost_links (k : Nat) : (s.portLost n k).links = s.links := (still_links (s.portLost_still n k)).trans rfl
theorem portLost_memb (k : Nat) : (s.portLost n k).memb = s.memb := (still_memb (s.portLost_still n k)).trans rfl
theorem portLost_ctxs (k : Nat) : (s.portLost n k).ctxs = s.ctxs := (still_ctxs (s.portLost_still n k)).trans rfl
theorem portLost_el (k : Nat) : (s.portLost n k).el = s.el := congrArg Clk.el ((still_clk (s.portLost_still n k)).trans rfl)

theorem freeSpare_of_links {s t : State} (links : t.links = s.links) (p : Nat) : t.freeSpare p = s.freeSpare p := by
  unfold freeSpare
  simp only [port_of_links links]

/-- A free spare is a spare port of its pitch (R20, R93). -/
theorem freeSpare_spare {s : State} {p m : Nat} (free : s.freeSpare p = some m) : m = 64 + 2 * p ∨ m = 65 + 2 * p := by
  have listed := List.mem_of_find?_eq_some free
  simpa using listed

theorem port_notice (i j : Nat) : (s.notice i).port j = s.port j := rfl

theorem port_setParts (f : List Part → List Part) (j : Nat) : (s.setParts f).port j = s.port j := rfl

/-- The spare `m` has the channel of the failed port `n`, and what was on its way there (R93). -/
def spared (m : Nat) : State :=
  ((s.modPort n (fun q => { (q.off s.el).empty with st := 4 })).modPort m (fun q => q.takeOver (s.port n) (indexOf n) s.el)).setParts
    (fun ps => ps.map (fun x => { x with port := if x.port = n then m else x.port, out := if x.out = n then m else x.out }))

/-- A port out of service that no spare replaces (R95). -/
def retired : State := ((s.modPort n (fun q => q.off s.el)).reroutePort n).modPort n (fun q => { q with steer := 31 })

/-- A port that was not isolated goes out of service (R78, R93, R95). -/
theorem linkDown_eq {s : State} {n : Nat} (working : (s.port n).iso = false) : s.linkDown n =
    match (if n < 64 then (s.notice 2).freeSpare (portPitch n) else none) with
    | some m => ((s.notice 2).spared n m).remapAt (portPitch n) 6 n ((m - 64) % 2)
    | none => (s.notice 2).retired n := by
  unfold linkDown
  simp only [working, Bool.false_eq_true, if_false] <;> rfl

section Fail

variable {s : State} {n : Nat} (k : Nat)

theorem portLost_linkFail (usable : (s.port n).usable = true) : s.linkFail n k =
    match (if n < 64 then s.freeSpare (portPitch n) else none) with
    | some m => ((s.portLost n k).spared n m).remapAt (portPitch n) 6 n ((m - 64) % 2)
    | none => (s.portLost n k).retired n := by
  have links : ((s.detect).eventAt (portPitch n) 0x10 0 n k).links = s.links := s.portLost_links n k
  have working : (((s.detect).eventAt (portPitch n) 0x10 0 n k).port n).iso = false := by
    rw [port_of_links links]
    unfold Port.usable at usable
    cases iso : (s.port n).iso with
    | false => rfl
    | true => simp [iso] at usable
  rw [← freeSpare_of_links (s.portLost_links n k)]
  exact linkDown_eq working

variable (ok : s.Ok)
include ok

theorem portLost_ok : (s.portLost n k).Ok := State.notice_ok _ _ (State.eventAt_ok _ _ _ _ _ _ (State.detect_ok _ ok))

theorem port_spared (hn : n < 72) {m : Nat} (ne : m ≠ n) :
    (s.spared n m).port n = { ((s.port n).off s.el).empty with st := 4 } := by
  unfold spared
  rw [port_setParts, State.port_modPort_ne _ _ ne.symm, s.port_modPort_self _ (by rw [ok.ports]; exact hn)]

theorem port_spared_spare {m : Nat} (ne : m ≠ n) (hm : m < 72) :
    (s.spared n m).port m = (s.port m).takeOver (s.port n) (indexOf n) s.el := by
  unfold spared
  rw [port_setParts, State.port_modPort_self _ _ (by rw [(State.modPort_ok _ _ _ ok).ports]; exact hm), State.port_modPort_ne _ _ ne]

omit ok in
theorem port_spared_ne {m d : Nat} (nn : d ≠ n) (nm : d ≠ m) : (s.spared n m).port d = s.port d := by
  unfold spared
  rw [port_setParts, State.port_modPort_ne _ _ nm, s.port_modPort_ne _ nn]

/- A port without a spare -/

theorem port_retired (hn : n < 72) : ((s.retired n).port n).usable = false ∧ ((s.retired n).port n).steer = 31 := by
  have off : ((s.modPort n (fun q => q.off s.el)).port n).usable = false := by
    rw [s.port_modPort_self _ (by rw [ok.ports]; exact hn)]; rfl
  have dark := reroutePort_dark _ n n off
  unfold retired
  rw [State.port_modPort_self _ _ (by rw [(State.reroutePort_ok _ n (State.modPort_ok _ _ _ ok)).ports]; exact hn)]
  exact ⟨dark, rfl⟩

theorem retired_lost (hn : n < 72) {d : Nat} (dir : s.portDir n = some d) (torus : d < 6)
    (alone : ∀ m < 72, m ≠ n → s.portDir m = some d → (s.port m).st ≠ 2 ∨ (s.port m).iso = true) :
    (s.linkEnt n).chip ∈ (s.retired n).memb.lost := by
  obtain ⟨u, hu⟩ : ∃ u, u = s.modPort n (fun q => q.off s.el) := ⟨_, rfl⟩
  have len : n < s.links.ports.length := by rw [ok.ports]; exact hn
  have port : u.port n = (s.port n).off s.el := by rw [hu]; exact s.port_modPort_self _ len
  have others (m : Nat) (ne : m ≠ n) : u.port m = s.port m := by rw [hu]; exact s.port_modPort_ne _ ne
  have steer (m : Nat) : (u.port m).steer = (s.port m).steer := by
    by_cases same : m = n
    · rw [same, port]; rfl
    · rw [others m same]
  have ent : u.linkEnt n = s.linkEnt n := linkEnt_congr (steer n) (by rw [hu]; rfl)
  have lone : (u.modPort n Port.empty).workPorts d = [] := by
    refine workPorts_nil fun m hm works => ?_
    by_cases same : m = n
    · left
      rw [same, u.port_modPort_self _ (by rw [hu, (State.modPort_ok s n _ ok).ports]; exact hn), port]
      exact (by decide : (3 : Nat) ≠ 2)
    · have here : (u.modPort n Port.empty).port m = s.port m := (u.port_modPort_ne _ same).trans (others m same)
      rw [here]
      exact alone m hm same ((portDir_congr (congrArg Port.steer here)).symm.trans works)
  have lost := reroutePort_lost (s := u) ((portDir_congr (steer n)).trans dir) torus lone
  rw [ent] at lost
  unfold retired
  rw [← hu]
  exact lost

/- The failure of a port, with and without a spare (R86, R93, R95) -/

variable (usable : (s.port n).usable = true)
include usable

theorem linkFail_spare (lt : n < 64) {m : Nat} (free : s.freeSpare (portPitch n) = some m) :
    let t := s.linkFail n k
    (t.port n).usable = false ∧ (t.port n).st = 4 ∧ t.port m = (s.port m).takeOver (s.port n) (indexOf n) s.el ∧
      (∀ d, d ≠ n → d ≠ m → t.port d = s.port d) ∧ t.memb = s.memb ∧ t.ctxs = s.ctxs := by
  have pitch : portPitch n < 4 := by unfold portPitch; split <;> omega
  have hm : m ≠ n ∧ m < 72 := by rcases freeSpare_spare free with h | h <;> omega
  have lost := portLost_ok (n := n) k ok
  rw [portLost_linkFail k usable, if_pos lt, free]
  dsimp only
  have sound := remapAt_sound ((s.portLost n k).spared n m) (portPitch n) 6 n ((m - 64) % 2)
  have port (j : Nat) := port_of_links (links_of_sound sound) j
  have before (j : Nat) : (s.portLost n k).port j = s.port j := port_of_links (s.portLost_links n k) j
  have failed := (port n).trans (port_spared lost (by omega) hm.1)
  refine ⟨?_, ?_, ?_, fun d nn nm => ?_, ?_, ?_⟩
  · rw [failed]; rfl
  · rw [failed]
  · rw [port, port_spared_spare lost hm.1 hm.2, before, before, s.portLost_el]
  · rw [port, port_spared_ne nn nm, before]
  · exact (congrArg State.memb sound).trans (s.portLost_memb n k)
  · exact (ctxs_of_sound sound).trans (s.portLost_ctxs n k)

theorem linkFail_retires (hn : n < 72) (none : 64 ≤ n ∨ s.freeSpare (portPitch n) = none) :
    let t := s.linkFail n k
    (t.port n).usable = false ∧ (t.port n).steer = 31 ∧ ∀ d, s.portDir n = some d → d < 6 →
      (∀ m < 72, m ≠ n → s.portDir m = some d → (s.port m).st ≠ 2 ∨ (s.port m).iso = true) → (s.linkEnt n).chip ∈ t.memb.lost := by
  have no : (if n < 64 then s.freeSpare (portPitch n) else Option.none) = Option.none := by
    rcases none with ge | none
    · exact if_neg (by omega)
    · rw [none, ite_self]
  have lost := portLost_ok (n := n) k ok
  have links := s.portLost_links n k
  have port (j : Nat) := port_of_links links j
  rw [portLost_linkFail k usable, no]
  dsimp only
  obtain ⟨dark, steer⟩ := port_retired lost hn
  refine ⟨dark, steer, fun d dir torus alone => ?_⟩
  have ent : (s.portLost n k).linkEnt n = s.linkEnt n := linkEnt_congr (by rw [port]) (by rw [links])
  rw [← ent]
  refine retired_lost lost hn ((portDir_of_links links n).trans dir) torus fun m hm ne works => ?_
  rw [port]
  exact alone m hm ne ((portDir_of_links links m).symm.trans works)

end Fail

end State

section Timers

variable {s : State} {n : Nat} (alive : s.alive = true) (usable : (s.port n).usable = true)
include alive usable

theorem ackTimeoutOp_resends (up : (s.port n).st = 2) (held : (s.port n).retry ≠ []) (idle : (s.port n).rs = none)
    (due : max (s.port n).ackAt (s.port n).tmoAt + max 0x40 (s.rd 0x50018 % 65536) ≤ s.el) :
    ackTimeoutOp n s = s.modPort n (fun p => { p with rs := some 0, tmoAt := s.el }) := by
  simp only [ackTimeoutOp, alive, usable, up, held, idle, due, decide_true, decide_false, Option.isNone_none, Bool.not_false,
    Bool.and_self, if_true]

theorem phyUpOp_rises : phyUpOp n s = s.modPort n (fun p => { p with
    phy := true
    phyAt := s.el
    st := 1
    owed := List.replicate 7 0
    helloDue := true
    helloGot := false
    helloAt := s.el }) := by
  simp only [phyUpOp, alive, usable, Bool.and_self, if_true]

theorem helloTimerOp_due (phy : (s.port n).phy = true) (waits : (s.port n).st = 1 ∨ (s.port n).st = 6)
    (due : (s.port n).helloAt + 1000 ≤ s.el) :
    helloTimerOp n s = s.modPort n (fun p => { p with helloDue := true, helloAt := s.el }) := by
  simp only [helloTimerOp, alive, usable, phy, waits, due, decide_true, Bool.and_self, if_true]

theorem phyDownOp_fails {low : Nat} (long : 10000 ≤ low) (since : max (s.port n).phyAt (s.port n).enAt + low ≤ s.el) :
    phyDownOp n low s = s.linkFail n 4 := by
  simp only [phyDownOp, alive, usable, long, since, decide_true, Bool.and_self, if_true]

theorem retryBoundOp_fails (held : (s.port n).retry ≠ []) (old : (s.port n).ackAt + 16384 ≤ s.el) :
    retryBoundOp n s = s.linkFail n 0 := by
  simp only [retryBoundOp, alive, usable, held, old, decide_true, decide_false, Bool.not_false, Bool.and_self, if_true]

theorem spareTimeoutOp_due (spare : 64 ≤ n) (waits : (s.port n).st = 1) (held : (s.port n).held.flatMap Prod.snd ≠ [])
    (due : (s.port n).failAt + s.rd 0x5001C ≤ s.el) : spareTimeoutOp n s = s.reroutePort n := by
  simp only [spareTimeoutOp, alive, usable, spare, waits, held, due, decide_true, decide_false, Bool.not_false, Bool.and_self, if_true]

omit usable in
theorem disagreeOp_restricts {v d : Nat} (peer : (s.port n).peer = some (v, d)) (up : (s.port n).st = 2)
    (torus : isUplink s n = false) (free : (s.port n).restricted = false) (old : s.memb.goneLive + 10000 ≤ s.el)
    (differs : v ≠ s.memb.ver ∨ d ≠ s.memDigest) :
    disagreeOp n s = (s.modPort n (fun p => { p with restricted := true })).notice 2 := by
  have view : (decide (v = s.memb.ver) && decide (d = s.memDigest)) = false := by
    rcases differs with h | h <;> simp [h]
  simp only [disagreeOp, peer, alive, up, torus, free, old, view, decide_true, Bool.not_false, Bool.and_self, if_true]

end Timers

/-- Settles O38: one clause per timer, each by the equation of its outcome; a failed port by whether a spare is free. -/
theorem linkTimersAct : Obligations.LinkTimersAct := by
  unfold Obligations.LinkTimersAct
  intro n s ok hn alive usable
  have len : n < s.links.ports.length := by rw [ok.ports]; exact hn
  refine ⟨fun up held idle due => ?ack, ?phyUp, fun phy waits due => ?hello, fun x k cause => ?fail,
    fun spare waits held due d dir works => ?spare, fun v d peer up torus free old differs => ?disagree⟩
  case ack =>
    exact ⟨_, congrArg Host.Outcome.next (ackTimeoutOp_resends alive usable up held idle due), s.port_modPort_self _ len,
      fun m ne => s.port_modPort_ne _ ne, rfl⟩
  case phyUp =>
    exact ⟨_, congrArg Host.Outcome.next (phyUpOp_rises alive usable), s.port_modPort_self _ len,
      fun m ne => s.port_modPort_ne _ ne, rfl⟩
  case hello =>
    exact ⟨_, congrArg Host.Outcome.next (helloTimerOp_due alive usable phy waits due), s.port_modPort_self _ len,
      fun m ne => s.port_modPort_ne _ ne, rfl⟩
  case fail =>
    have run : exec x s = .next (s.linkFail n k) := by
      rcases cause with ⟨low, rfl, rfl, long, since⟩ | ⟨rfl, rfl, held, old⟩
      · exact congrArg Host.Outcome.next (phyDownOp_fails alive usable long since)
      · exact congrArg Host.Outcome.next (retryBoundOp_fails alive usable held old)
    refine ⟨run, s.linkFail n k, run, ?_⟩
    by_cases free : n < 64 ∧ ∃ m, s.freeSpare (portPitch n) = some m
    · obtain ⟨lt, m, free⟩ := free
      obtain ⟨dark, taken⟩ := State.linkFail_spare k ok usable lt free
      refine ⟨dark, fun m' _ free' => ?_, fun none => ?_⟩
      · rw [Option.some.inj (free'.symm.trans free)]
        exact taken
      · rcases none with ge | none
        · omega
        · rw [free] at none; cases none
    · have none : 64 ≤ n ∨ s.freeSpare (portPitch n) = none := by
        rcases Nat.lt_or_ge n 64 with lt | ge
        · exact .inr (Option.eq_none_iff_forall_ne_some.mpr fun m spare => free ⟨lt, m, spare⟩)
        · exact .inl ge
      obtain ⟨dark, steer, lost⟩ := State.linkFail_retires k ok usable hn none
      exact ⟨dark, fun m lt spare => absurd ⟨lt, m, spare⟩ free, fun _ => ⟨steer, lost⟩⟩
  case spare =>
    exact ⟨_, congrArg Host.Outcome.next (spareTimeoutOp_due alive usable spare waits held due),
      State.reroutePort_empties len dir (by rw [waits]; decide) works⟩
  case disagree =>
    refine ⟨_, congrArg Host.Outcome.next (disagreeOp_restricts alive peer up torus free old differs),
      (State.port_notice ..).trans (s.port_modPort_self _ len), State.bit_setBit_self _ _ _ (by decide),
      fun m ne => (State.port_notice ..).trans (s.port_modPort_ne _ ne), fun a ha => ?_, rfl⟩
    rw [List.mem_singleton] at ha
    exact (State.rd_notice_ne _ _ ha).trans rfl

end Sys2Proof.Machine
end

section
/-! What the cycle of steps asks of memory (R105, R122, R123, R125): registers of a context page through other writes, the
query record that is requested, and a completed transfer that is taken. -/

namespace Sys2Proof.Machine

theorem ltake_length {α : Type} {p : α → Bool} {l r : List α} {x : α} (took : ltake p l = some (x, r)) :
    r.length + 1 = l.length := by
  induction l generalizing r with
  | nil => cases took
  | cons y l ih =>
    unfold ltake at took
    split at took
    · cases took; rfl
    · split at took
      · cases took
      · next later =>
        cases took
        exact congrArg (· + 1) (ih later)

/- Registers of a context page -/

section Page

variable {s t : State} {xs : List Nat} (keeps : s.KeepsRegs t xs) (low : ∀ a ∈ xs, a < pageBase)
include keeps low

theorem page_of_keeps (c off : Nat) : t.page c off = s.page c off :=
  keeps _ fun listed => by
    have below := low _ listed
    unfold pageAt at below
    omega

theorem page2_of_keeps (c off : Nat) : t.page2 c off = s.page2 c off :=
  congrArg₂ (fun lo hi => lo + hi * 2 ^ 32) (page_of_keeps keeps low c off) (page_of_keeps keeps low c (off + 4))

theorem askAddr_of_keeps (c q : Nat) : t.askAddr c q = s.askAddr c q := by
  unfold State.askAddr
  rw [page2_of_keeps keeps low, page_of_keeps keeps low]

end Page

theorem record_keeps (s : State) (k src : Nat) (c : Option Nat) (e t y : Nat) (p : Bytes) (d : Bool) :
    s.KeepsRegs (s.record k src c e t y p d) (0xF000C :: lntRegs) := fun x hx => by
  rw [List.mem_cons, not_or] at hx
  exact State.rd_record_ne _ _ _ _ _ _ _ _ _ hx.2 hx.1

namespace State

theorem now_of_still {s t : State} (still : t.still = s.still) : t.now = s.now := by
  unfold now pitch
  rw [still_pitches still, still_glb still]

theorem el_of_still {s t : State} (still : t.still = s.still) : t.el = s.el := congrArg Clk.el (still_clk still)

variable {s : State}

/-- The state with `r` as the completed transfers that are left. -/
def leftDone (s : State) (r : List MemDone) : State := { s with mem := { s.mem with done := r } }

theorem takeDone_some {c : Nat} {u : MemUnit} {d : MemDone} {t : State} (took : s.takeDone c u = some (d, t)) :
    ∃ r, t = s.leftDone r ∧ r.length + 1 = s.mem.done.length := by
  unfold takeDone at took
  split at took
  · cases took
  · next taken =>
    cases took
    exact ⟨_, rfl, ltake_length taken⟩

theorem downCheck_up {c : Nat} (up : (s.ctx c).tdown = false) : s.downCheck c = s := by
  unfold downCheck
  rw [up]
  rfl

variable (s) (c kind : Nat) (q : Query)

/- A query record -/

/-- Sequence number of a query record of a kind (R105, R123). -/
def querySeq : Nat := if kind = 2 then s.page c 0x0C else (s.page c 0x0C + 1) % 2 ^ 32

/-- A query record as its write is requested: `q` with the fields that the request fills in (R123, R126). -/
def queryAsked : Query :=
  { q with
    seq := s.querySeq c kind
    qkind := kind
    missed := if kind = 2 ∨ kind = 5 then 0 else (s.ctx c).missed
    qflags := if kind = 2 ∨ kind = 5 then 0 else q.qflags ||| (if (s.ctx c).ask.late then 1024 else 0) }

/-- The write of that record (R105, R123). -/
def queryReq : MemReq :=
  writeReq c 1 (s.askAddr c (s.querySeq c kind)) (encQuery (s.queryAsked c kind q)) ⟨.query, s.querySeq c kind⟩

theorem postQuery_eq : s.postQuery c kind q =
    ((s.modCtx c (fun x => { x with missed := 0, ask := { pend := kind } })).modStep c (fun st =>
      { st with qrec := some (s.queryAsked c kind q) })).memPost (s.queryReq c kind q) := rfl

theorem wait_postQuery : (s.postQuery c kind q).mem.wait = s.mem.wait ++ [{ s.queryReq c kind q with id := s.mem.nextId }] := rfl

theorem asked_mem_postQuery : { s.queryReq c kind q with id := s.mem.nextId } ∈ (s.postQuery c kind q).mem.wait := by
  rw [wait_postQuery]
  exact List.mem_append_right _ (List.mem_singleton_self _)

theorem ctx_postQuery : (s.postQuery c kind q).ctx c = { s.ctx c with
    missed := 0
    ask := { pend := kind }
    step := (s.ctx c).step.map (fun st => { st with qrec := some (s.queryAsked c kind q) }) } := by
  rw [postQuery_eq, ctx_of_ctxs (memPost_ctxs ..), modStep, ctx_modCtx_self, ctx_modCtx_self]

theorem ctx_postQuery_ne {d : Nat} (ne : d ≠ c) : (s.postQuery c kind q).ctx d = s.ctx d := by
  rw [postQuery_eq, ctx_of_ctxs (memPost_ctxs ..), modStep, ctx_modCtx_ne _ _ ne, ctx_modCtx_ne _ _ ne]

theorem postQuery_still : (s.postQuery c kind q).still = ({ s with ctxs := (s.postQuery c kind q).ctxs } : State).still := rfl

section Kept

variable {s c kind q} {u : State} {xs : List Nat} (keeps : u.KeepsRegs s xs) (low : ∀ a ∈ xs, a < pageBase)
include keeps low

theorem querySeq_of_keeps : s.querySeq c kind = u.querySeq c kind := by
  unfold querySeq
  rw [page_of_keeps keeps low]

/-- A record that `s` requests stands at the entry of the ask ring as the page of `u` has it (R122). -/
theorem asked_of_keeps : { writeReq c 1 (u.askAddr c (s.queryAsked c kind q).seq) (encQuery (s.queryAsked c kind q))
    ⟨.query, (s.queryAsked c kind q).seq⟩ with id := s.mem.nextId } ∈ (s.postQuery c kind q).mem.wait := by
  rw [← askAddr_of_keeps keeps low]
  exact s.asked_mem_postQuery c kind q

end Kept

end State

end Sys2Proof.Machine
end

section
/-! CONTEXT_ENABLE (R105, R235, R526): the context as it starts, and one equation per outcome. -/

namespace Sys2Proof.Machine

/-- A context as an enable leaves it, its start record requested (R105, R235, R375). -/
def Ctx.started (x : Ctx) (key : BitVec 64) : Ctx :=
  { enable := true, rt := x.rt, tent := x.tent, st := .asking, epoch := x.epoch, key := key, ask := { pend := 2 } }

namespace State

variable {s : State} {c : Nat}

/-- The state with a context enabled and its key drawn, before the start record (R235). -/
def keyed (s : State) (c : Nat) : State :=
  ({ s with free := s.free + 1 } : State).modCtx c (fun x => { x.started (Config.tagKey s.free) with ask := {} })

/-- The state with a context enabled and its start record requested. -/
def startAsked (s : State) (c : Nat) : State := (s.keyed c).postQuery c 2 query0

theorem enableCtx_starts (up : (s.ctx c).tdown = false) (idle : (s.ctx c).enable = false) (base : s.page2 c 0x20 / 128 ≠ 0)
    (lo : 1 ≤ s.page c 0x1C) (hi : s.page c 0x1C ≤ 12) : s.enableCtx c = s.startAsked c := by
  have ring : ¬ (s.page2 c 0x20 / 128 = 0 ∨ s.page c 0x1C = 0 ∨ 12 < s.page c 0x1C) := by omega
  unfold enableCtx
  simp only [up, idle, ring, Bool.false_eq_true, if_false]
  rfl

theorem enableCtx_again (up : (s.ctx c).tdown = false) (on : (s.ctx c).enable = true) : s.enableCtx c = s := by
  unfold enableCtx
  simp only [up, on, Bool.false_eq_true, if_false, if_true]

theorem ctx_startAsked : (s.startAsked c).ctx c = (s.ctx c).started (Config.tagKey s.free) := by
  unfold startAsked keyed
  rw [ctx_postQuery, ctx_modCtx_self]
  rfl

theorem ctx_startAsked_ne {d : Nat} (ne : d ≠ c) : (s.startAsked c).ctx d = s.ctx d :=
  (ctx_postQuery_ne _ _ _ _ ne).trans (ctx_modCtx_ne _ _ ne)

theorem rd_keyed (s : State) (c a : Nat) : (s.keyed c).rd a = s.rd a := rfl

theorem rd_startAsked (s : State) (c a : Nat) : (s.startAsked c).rd a = s.rd a := rd_postQuery (s.keyed c) c 2 query0 a

theorem startAsked_still : (s.startAsked c).still = ({ s with ctxs := (s.startAsked c).ctxs, free := s.free + 1 } : State).still := by
  unfold startAsked
  rw [postQuery_still]
  generalize ((s.keyed c).postQuery c 2 query0).ctxs = l
  rfl

end State

theorem contextEnable_open {s : State} {c : Nat} (opened : s.portOpen = true) (job : isJob c = true) :
    exec (.contextEnable c) s = .next ((s.enableCtx c).ctlWrote c 1 0) :=
  congrArg Host.Outcome.next (if_pos (by rw [opened, job]; rfl))

/-- Settles O8: the start record is requested before the write is recorded, which leaves it and the contexts. -/
theorem contextEnableStarts : Obligations.ContextEnableStarts := by
  unfold Obligations.ContextEnableStarts
  intro c s opened job up
  have run := contextEnable_open opened job
  refine ⟨fun idle base lo hi => ?_, fun on => ?_⟩
  · rw [State.enableCtx_starts up idle base lo hi] at run
    have self := ((s.startAsked c).ctlWrote_ctx c 1 0 c).trans State.ctx_startAsked
    have asked := State.waits_mem ((s.startAsked c).recWrite_waits (pageAt c 0) ((s.startAsked c).ctlWord c 1 0))
      (State.asked_of_keeps (c := c) (kind := 2) (q := query0) (fun a _ => s.rd_keyed c a) (xs := []) (by simp))
    have ctxs : ((s.startAsked c).ctlWrote c 1 0).ctxs = (s.startAsked c).ctxs :=
      (State.still_ctxs ((s.startAsked c).ctlWrote_still c 1 0)).trans rfl
    have free : ((s.startAsked c).ctlWrote c 1 0).free = s.free + 1 := ((s.startAsked c).ctlWrote_free c 1 0).trans rfl
    refine ⟨_, run, ?_⟩
    rw [self]
    refine ⟨rfl, rfl, rfl, free, rfl, rfl, rfl, rfl, rfl, rfl, ⟨_, rfl, rfl, asked⟩,
      fun d ne => (State.ctlWrote_ctx ..).trans (State.ctx_startAsked_ne ne),
      fun a ha => ((s.startAsked c).ctlWrote_rd c 1 0 a ha).trans (s.rd_startAsked c a), ?_⟩
    rw [State.ctlWrote_still, ctxs, free]
    exact congrArg (fun u : State => ({ u with ctl := _ } : State)) State.startAsked_still
  · rw [State.enableCtx_again up on] at run
    exact ⟨_, run, s.ctlWrote_rd c 1 0, s.ctlWrote_still c 1 0⟩

end Sys2Proof.Machine
end

section
/-! ROTA_ARM and ROTA_GO_LIVE (R109, R110): the refusal cases of an arm, and the tick at which the armed copy becomes live. -/

namespace Sys2Proof.Machine

/-- The whole multiples of `p` reach `a` and pass it by less than one of them. -/
theorem ceilDiv_mul_bounds {p : Nat} (a : Nat) (pos : p ≠ 0) : a ≤ ceilDiv a p * p ∧ ceilDiv a p * p < a + p := by
  have parts := Nat.div_add_mod (a + p - 1) p
  have rest := Nat.mod_lt (a + p - 1) (Nat.pos_of_ne_zero pos)
  unfold ceilDiv
  rw [Nat.mul_comm]
  omega

namespace State

variable {s : State}

theorem now_lt (s : State) : s.now < 2 ^ 64 := BitVec.isLt _

theorem rd2_wr2 (s : State) (a : Nat) {v : Nat} (fits : v < 2 ^ 64) : (s.wr2 a v).rd2 a = v := by
  unfold rd2 wr2
  rw [rd_wr_self, rd_wr_ne _ _ (by omega), rd_wr_self]
  omega

/- The arm -/

theorem rotaBad_none (early : s.now + 65536 ≤ s.rd2 0x18008)
    (wide : ∀ i < s.rotaLen (!s.stp.live), 256 ≤ s.slotWidth (!s.stp.live) i)
    (within : ∀ i < s.rotaLen (!s.stp.live), ∀ w ∈ [1, 2, 3], (s.pinOf (!s.stp.live) i w).1 ≠ 0 →
      (s.pinOf (!s.stp.live) i w).2 < s.slotWidth (!s.stp.live) i) : s.rotaBad = none := by
  have narrow : ¬ (List.range (s.rotaLen (!s.stp.live))).any (fun i => decide (s.slotWidth (!s.stp.live) i < 256)) = true := by
    rw [List.any_eq_true]
    rintro ⟨i, mem, thin⟩
    exact Nat.not_lt.mpr (wide i (List.mem_range.mp mem)) (of_decide_eq_true thin)
  have beyond : ¬ (List.range (s.rotaLen (!s.stp.live))).any (fun i => [1, 2, 3].any (fun w =>
      decide ((s.pinOf (!s.stp.live) i w).1 ≠ 0 ∧ s.slotWidth (!s.stp.live) i ≤ (s.pinOf (!s.stp.live) i w).2))) = true := by
    simp only [List.any_eq_true]
    rintro ⟨i, mem, w, word, late⟩
    obtain ⟨pinned, past⟩ := of_decide_eq_true late
    exact Nat.not_lt.mpr past (within i (List.mem_range.mp mem) w word pinned)
  unfold rotaBad
  dsimp only
  rw [if_neg (Nat.not_lt.mpr early), if_neg narrow, if_neg beyond]

/-- The state with the staged copy armed for STP_ROTA_AT (R109). -/
def rotaArmed (s : State) : State := { s with stp := { s.stp with armed := true, at_ := s.rd2 0x18008 } }

theorem wrote_stp (s : State) (a v : Nat) : (s.wrote a v).stp = s.stp := (still_stp (wrote_still s a v)).trans rfl

/- The tick of the switch -/

theorem rotaDue_off (off : s.rotaPeriod s.stp.live = 0) : s.rotaDue = s.stp.at_ := if_pos off

/-- The switch falls on the first cycle boundary at or after STP_ROTA_AT. -/
theorem rotaDue_boundary (past : s.rotaT0 ≤ s.stp.at_) (cycle : s.rotaPeriod s.stp.live ≠ 0) :
    s.stp.at_ ≤ s.rotaDue ∧ s.rotaDue < s.stp.at_ + s.rotaPeriod s.stp.live ∧ s.rotaPeriod s.stp.live ∣ s.rotaDue - s.rotaT0 := by
  have due : s.rotaDue = s.rotaT0 + ceilDiv (s.stp.at_ - s.rotaT0) (s.rotaPeriod s.stp.live) * s.rotaPeriod s.stp.live := if_neg cycle
  obtain ⟨reaches, first⟩ := ceilDiv_mul_bounds (s.stp.at_ - s.rotaT0) cycle
  refine ⟨by omega, by omega, ?_⟩
  rw [due, Nat.add_sub_cancel_left]
  exact Nat.dvd_mul_left _ _

/-- The state with the armed copy live from its tick on (R109). -/
def rotaSwitched (s : State) : State :=
  { s.wr2 0x18018 s.rotaDue with stp := { s.stp with live := !s.stp.live, armed := false } }

theorem rotaT0_rotaSwitched (due : s.rotaDue ≤ s.now) : s.rotaSwitched.rotaT0 = s.rotaDue :=
  s.rd2_wr2 0x18018 (Nat.lt_of_le_of_lt due s.now_lt)

theorem rotaSwitched_keeps : s.KeepsRegs s.rotaSwitched [0x18018, 0x1801C] := fun a ha => by
  rw [List.mem_cons, List.mem_singleton, not_or] at ha
  exact (rd_wr_ne _ _ ha.2).trans (rd_wr_ne _ _ ha.1)

end State

section Op

variable {s : State}

theorem rotaArm_arms (opened : s.portOpen = true) (good : s.rotaBad = none) :
    exec .rotaArm s = .next (s.rotaArmed.wrote 0x18010 1) := by
  refine congrArg Host.Outcome.next ((if_neg (by simp [opened])).trans ?_)
  rw [good]
  rfl

theorem rotaArm_refused (opened : s.portOpen = true) {k : Nat} (bad : s.rotaBad = some k) :
    exec .rotaArm s = .next ((s.event 0x20 0 k 0).wrote 0x18010 1) := by
  refine congrArg Host.Outcome.next ((if_neg (by simp [opened])).trans ?_)
  rw [bad]

theorem rotaGoLive_switches (on : s.on = true) (armed : s.stp.armed = true) (due : s.rotaDue ≤ s.now) :
    exec .rotaGoLive s = .next s.rotaSwitched :=
  congrArg Host.Outcome.next (if_pos (by rw [on, armed, decide_eq_true due]; rfl))

end Op

/-- Settles O11: an arm by what R109 says of the staged copy, the switch by whether the live copy has a cycle. -/
theorem rotaArmsAndGoesLive : Obligations.RotaArmsAndGoesLive := by
  unfold Obligations.RotaArmsAndGoesLive
  refine ⟨fun s opened => ⟨fun early wide within => ?arms, fun k bad => ?refused⟩, fun s on armed due past => ?live⟩
  case arms =>
    refine ⟨_, rotaArm_arms opened (State.rotaBad_none early wide within), State.wrote_stp .., ?_, ?_⟩
    · exact State.wrote_keeps s.rotaArmed _ _
    · rw [State.wrote_stp]
      exact State.wrote_still s.rotaArmed _ _
  case refused =>
    refine ⟨_, rotaArm_refused opened bad, rfl, (State.wrote_stp ..).trans (State.event_stp ..), fun a ha => ?_, ?_⟩
    · exact (State.wrote_keeps _ _ _ a ha).trans (State.rd_event_ne _ _ _ _ _ (List.not_mem_of_not_mem_cons ha))
    · refine (State.wrote_still ..).trans ?_
      exact congrArg (fun u : State => ({ u with ctl := _ } : State)) (s.event_still 0x20 0 k 0)
  case live =>
    have t0 := State.rotaT0_rotaSwitched due
    refine ⟨_, rotaGoLive_switches on armed due, rfl, ?_⟩
    rw [t0]
    refine ⟨?_, State.rotaDue_off, fun cycle => ?_, State.rotaSwitched_keeps, rfl⟩
    · by_cases off : s.rotaPeriod s.stp.live = 0
      · exact (State.rotaDue_off off).ge
      · exact (State.rotaDue_boundary past off).1
    · obtain ⟨-, first, boundary⟩ := State.rotaDue_boundary past cycle
      exact ⟨boundary, first⟩

end Sys2Proof.Machine
end

section
/-! PIN_TICK and SHARE_VISIT (R111 to R115, R380): what a visit changes, and one equation per outcome. -/

namespace Sys2Proof.Machine

namespace State

variable (s : State) (c pin : Nat)

theorem ctxs_visit : (s.visit c pin).ctxs = (s.modCtx c (fun x => { x with
    st := .fetching, visit := s.now, launch := s.now + s.launchOfs, pin := pin })).ctxs := rfl

theorem ctx_visit : (s.visit c pin).ctx c =
    { s.ctx c with st := .fetching, visit := s.now, launch := s.now + s.launchOfs, pin := pin } := by
  rw [ctx_of_ctxs (s.ctxs_visit c pin), ctx_modCtx_self]

theorem ctx_visit_ne {d : Nat} (ne : d ≠ c) : (s.visit c pin).ctx d = s.ctx d := by
  rw [ctx_of_ctxs (s.ctxs_visit c pin), ctx_modCtx_ne _ _ ne]

theorem mem_fetchq_visit (d : Nat) : d ∈ (s.visit c pin).stp.fetchq ↔ d = c ∨ d ∈ s.stp.fetchq := mem_insSorted ..

theorem visit_rest : s.visit c pin =
    { s with ctxs := (s.visit c pin).ctxs, stp := { s.stp with fetchq := (s.visit c pin).stp.fetchq } } := rfl

/-- The state with a pin's visit missed (R112). -/
def visitMissed : State := (s.count 0x18030 1).modCtx c (fun x => { x with missed := min 255 (x.missed + 1) })

end State

section Pin

variable {s : State} {i w c : Nat} (pin : (s.pinOf s.stp.live i w).1 = c)
include pin

theorem pinTick_idle (idle : c = 0 ∨ (s.ctx c).active = false ∨ (s.ctx c).rt = false ∨ (s.ctx c).st = .stopped) :
    exec (.pinTick i w) s = .next s := by
  refine congrArg Host.Outcome.next (if_pos ?_)
  rw [pin]
  rcases idle with h | h | h | h <;> simp [h]

variable (on : s.visitsOn = true) (now : s.pinNow i w = true) (pinned : c ≠ 0) (active : (s.ctx c).active = true)
  (rt : (s.ctx c).rt = true)
include on now pinned active rt

theorem pinTick_visits (ready : (s.ctx c).st = .ready) (permits : s.pinReady (s.ctx c) = true) :
    exec (.pinTick i w) s = .next (s.visit c (i * 4 + w)) := by
  refine congrArg Host.Outcome.next ?_
  unfold pinTickOp
  simp [pin, on, now, pinned, active, rt, ready, permits]

theorem pinTick_misses (busy : (s.ctx c).st ≠ .ready) (going : (s.ctx c).st ≠ .stopped) :
    exec (.pinTick i w) s = .next (s.visitMissed c) := by
  refine congrArg Host.Outcome.next ?_
  unfold pinTickOp
  simp only [pin, on, now, pinned, active, rt, busy, going, Bool.not_true, decide_false, Bool.or_self, Bool.false_eq_true, if_false]
  rfl

end Pin

theorem shareVisit_visits {s : State} {c f : Nat} {r : List Nat} (on : s.visitsOn = true) (eligible : s.eligible c = true)
    (fill : s.fillAt (s.now + s.launchOfs) = true) (evicted : s.evictedIn (s.ctx c).tent = [])
    (first : s.firstReady (s.ctx c).tent = some c) (frame : s.freeShared (s.ctx c).tent = f :: r) :
    exec (.shareVisit c) s = .next ((s.modCtx c (fun x => { x with vframe := some f })).visit c sharePin) := by
  refine congrArg Host.Outcome.next ?_
  unfold shareVisitOp
  simp [on, eligible, fill, evicted, first, frame]

/-- Settles O12: by what the pin's context may do; a share-based visit by the frame that it takes. -/
theorem visitsBeginFetches : Obligations.VisitsBeginFetches := by
  unfold Obligations.VisitsBeginFetches
  refine ⟨fun i w s on now => ⟨fun pinned active rt ready taken at_ => ?visits, fun pinned active rt busy going => ?misses,
    pinTick_idle rfl⟩, fun c f r s on eligible fill evicted first frame => ?share⟩
  case visits =>
    have permits : s.pinReady (s.ctx (s.pinOf s.stp.live i w).1) = true := by
      unfold State.pinReady
      rw [decide_eq_true taken, Bool.true_and, Bool.or_eq_true, decide_eq_true_eq, decide_eq_true_eq]
      exact at_
    refine ⟨_, pinTick_visits rfl on now pinned active rt ready permits, ?_⟩
    rw [State.ctx_visit]
    exact ⟨rfl, rfl, rfl, (s.mem_fetchq_visit ..).mpr (.inl rfl), fun d waits => (s.mem_fetchq_visit ..).mpr (.inr waits),
      fun d ne => s.ctx_visit_ne _ _ ne, s.visit_rest ..⟩
  case misses =>
    refine ⟨_, pinTick_misses rfl on now pinned active rt busy going, ?_, State.ctx_modCtx_self ..,
      fun d ne => State.ctx_modCtx_ne _ _ ne, fun a ha => ?_, rfl⟩
    · exact (s.rd_count 0x18030 1 0x18030).trans (if_pos rfl)
    · exact s.rd_count_ne 1 (by simpa using ha)
  case share =>
    refine ⟨_, shareVisit_visits on eligible fill evicted first frame, ?_⟩
    rw [State.ctx_visit, State.ctx_modCtx_self]
    exact ⟨rfl, rfl, rfl, rfl, (State.mem_fetchq_visit ..).mpr (.inl rfl), fun d waits => (State.mem_fetchq_visit ..).mpr (.inr waits),
      fun d ne => (State.ctx_visit_ne _ _ _ ne).trans (State.ctx_modCtx_ne _ _ ne), rfl⟩

end Sys2Proof.Machine
end

section
/-! Answers to query records (R105, R123 to R127): what ends with a step's record, the reads of the answer half, and what an
answer's verb changes. -/

namespace Sys2Proof.Machine

/-- What settling frames keeps of a context: all but its step. -/
theorem Ctx.eq_of_unframed {x y : Ctx} (same : x.unframed = y.unframed) : x = { y with step := x.step } :=
  congrArg (fun z : Ctx => { z with step := x.step }) same

namespace State

/-- Contexts change after a record: what the transfer that was taken leaves. -/
theorem still_of_rest {s u t : State} {r : List MemDone} (rest : t = { u with ctxs := t.ctxs })
    (still : u.still = (s.leftDone r).still) :
    t.still = ({ s with ctxs := t.ctxs, mem := t.mem } : State).still := by
  generalize t.ctxs = l at rest ⊢
  subst rest
  have same := congrArg (fun x : State => ({ x with ctxs := l } : State)) still
  have mem := congrArg (fun x : State => ({ s with ctxs := l, mem := x.mem } : State).still) still
  exact same.trans mem.symm

variable (s : State) (c : Nat)

/- The record's response -/

@[simp] theorem recDigest_still : (s.recDigest c).still = s.still := by
  unfold recDigest
  split
  · rfl
  · split
    · rfl
    · split
      · exact recPut_still ..
      · rfl

theorem recDigest_keeps : s.KeepsRegs (s.recDigest c) (0xF000C :: lntRegs) := fun x hx => by
  rw [List.mem_cons, not_or] at hx
  unfold recDigest
  split
  · rfl
  · split
    · rfl
    · split
      · exact rd_recPut_ne _ _ _ _ _ _ _ _ _ hx.2 hx.1
      · rfl

theorem pruneKept_keeps (e : Nat) : s.KeepsRegs (s.pruneKept c e) [0x6401C, 0x64018] := fun x hx => by
  rw [List.mem_cons, List.mem_singleton, not_or] at hx
  exact (rd_count_ne _ _ hx.2).trans (rd_count_ne _ _ hx.1)

theorem pruneKept_el (e : Nat) : (s.pruneKept c e).el = s.el := rfl

theorem pruneKept_ctx (e d : Nat) : (s.pruneKept c e).ctx d = s.ctx d := ctx_of_ctxs rfl d

/-- The state with a step's digest recorded and with what the step holds freed (R370, R418). -/
def stepFreed : State := ((s.recDigest c).dropFrame c).unhold c

theorem stepFreed_settled : (s.recDigest c).Settled (s.stepFreed c) := (dropFrame_settled _ _).trans (unhold_settled _ _)

theorem ctx_stepFreed (d : Nat) : ((s.stepFreed c).ctx d).unframed = (s.ctx d).unframed := by
  rw [(s.stepFreed_settled c).2 d, ctx_of_ctxs (still_ctxs (s.recDigest_still c))]

theorem stepFreed_el : (s.stepFreed c).el = s.el := by
  obtain ⟨-, -, -, clk, -⟩ := settled_fields (s.stepFreed_settled c)
  exact congrArg Clk.el (clk.trans (still_clk (s.recDigest_still c)))

/-- The state with what a step of epoch `e` holds freed, and with the messages kept for it (R287). -/
def stepClosed (e : Nat) : State := (s.stepFreed c).pruneKept c e

theorem ctx_stepClosed (e d : Nat) : ((s.stepClosed c e).ctx d).unframed = (s.ctx d).unframed := by
  unfold stepClosed
  rw [pruneKept_ctx, ctx_stepFreed]

theorem stepClosed_keeps (e : Nat) : s.KeepsRegs (s.stepClosed c e) (0x6401C :: 0x64018 :: 0xF000C :: lntRegs) := fun x hx => by
  simp only [List.mem_cons, not_or] at hx
  obtain ⟨abort, drop, logged⟩ := hx
  refine (pruneKept_keeps _ _ _ _ (by simp [abort, drop])).trans ((rd_of_settled (s.stepFreed_settled c) x).trans ?_)
  exact s.recDigest_keeps c x (by simpa using logged)

theorem stepClosed_el (e : Nat) : (s.stepClosed c e).el = s.el := by
  unfold stepClosed
  rw [pruneKept_el, stepFreed_el]

/-- The state with a step over, once its record of the kind that the context awaits has its response (R104, R123). -/
def stepOver (st : Step) : State :=
  (s.stepClosed c st.epoch).modCtx c (fun x => { x with
    step := none
    tracked := if (s.ctx c).ask.pend = 1 then x.tracked.filter (fun e => decide (e ≠ st.epoch)) else x.tracked })

/-- The state with the deadline of the record set whose response has come (R125). -/
def deadlineSet : State :=
  s.modCtx c (fun x => { x with st := .asking, ask := { x.ask with pend := 0, set_ := true, abs := false, due := s.el + s.leadOf c } })

theorem ctx_deadlineSet : (s.deadlineSet c).ctx c = { s.ctx c with
    st := .asking
    ask := { (s.ctx c).ask with pend := 0, set_ := true, abs := false, due := s.el + s.leadOf c } } := s.ctx_modCtx_self c _

theorem ctx_deadlineSet_ne {d : Nat} (ne : d ≠ c) : (s.deadlineSet c).ctx d = s.ctx d := s.ctx_modCtx_ne _ ne

theorem downCheck_deadlineSet (up : (s.ctx c).tdown = false) : (s.deadlineSet c).downCheck c = s.deadlineSet c :=
  downCheck_up (by rw [ctx_deadlineSet]; exact up)

theorem ctx_stepOver (st : Step) : (s.stepOver c st).ctx c = { s.ctx c with
    step := none
    tracked := if (s.ctx c).ask.pend = 1 then (s.ctx c).tracked.filter (fun e => decide (e ≠ st.epoch)) else (s.ctx c).tracked } := by
  unfold stepOver
  rw [ctx_modCtx_self, Ctx.eq_of_unframed (s.ctx_stepClosed c st.epoch c)]

theorem stepOver_el (st : Step) : (s.stepOver c st).el = s.el := by
  unfold stepOver
  exact (congrArg Clk.el (modCtx_clk ..)).trans (s.stepClosed_el c st.epoch)

theorem rd_stepOver (st : Step) (a : Nat) : (s.stepOver c st).rd a = (s.stepClosed c st.epoch).rd a := rd_modCtx ..

theorem leadOf_start (other : (s.ctx c).ask.pend ≠ 1) (kind : (s.ctx c).ask.pend ≠ 4) : s.leadOf c = s.page c 0x28 :=
  if_neg (by rintro ⟨h | h, -⟩ <;> contradiction)

theorem leadOf_stepOver (st : Step) : (s.stepOver c st).leadOf c = s.leadOf c := by
  have page : (s.stepOver c st).page c 0x28 = s.page c 0x28 :=
    (s.rd_stepOver c st _).trans (page_of_keeps (s.stepClosed_keeps c st.epoch) (by decide) c 0x28)
  unfold leadOf
  rw [page, ctx_stepOver]

/- The read of the answer half -/

/-- The read of the answer half (R125). -/
def answerReq : MemReq := readReq c 1 (s.askAddr c (s.page c 0x0C) + 64) 64 ⟨.answer, 0⟩

theorem wait_readAnswer : (s.readAnswer c).mem.wait = s.mem.wait ++ [{ s.answerReq c with id := s.mem.nextId }] := rfl

theorem ctxs_readAnswer : (s.readAnswer c).ctxs = (s.modCtx c (fun x => { x with
    ask := { x.ask with reading := true, retry := s.el + s.rdMin 0x18024 1 } })).ctxs := rfl

theorem ctx_readAnswer : (s.readAnswer c).ctx c = { s.ctx c with
    ask := { (s.ctx c).ask with reading := true, retry := s.el + s.rdMin 0x18024 1 } } := by
  rw [ctx_of_ctxs (s.ctxs_readAnswer c), ctx_modCtx_self]

theorem ctx_readAnswer_ne {d : Nat} (ne : d ≠ c) : (s.readAnswer c).ctx d = s.ctx d := by
  rw [ctx_of_ctxs (s.ctxs_readAnswer c), ctx_modCtx_ne _ _ ne]

theorem readAnswer_rest : s.readAnswer c = { s with
    ctxs := (s.readAnswer c).ctxs, mem := { s.mem with wait := (s.readAnswer c).mem.wait, nextId := s.mem.nextId + 1 } } := rfl

theorem ctx_askCome : (s.askCome c).ctx c = { s.ctx c with
    ask := { (s.ctx c).ask with came := some s.el, reading := true, retry := s.el + s.rdMin 0x18024 1 } } := by
  refine (ctx_readAnswer _ c).trans ?_
  rw [ctx_modCtx_self]
  rfl

theorem ctx_askCome_ne {d : Nat} (ne : d ≠ c) : (s.askCome c).ctx d = s.ctx d :=
  (ctx_readAnswer_ne _ c ne).trans (s.ctx_modCtx_ne _ ne)

/- An answer -/

/-- The state with an answer in the record log (R414). -/
def answerLogged (b : Bytes) : State := s.record 1 0 (some c) 0 s.now (parseAnswer b).seq b false

theorem answerLogged_still (b : Bytes) : (s.answerLogged c b).still = s.still := record_still ..

theorem answerLogged_keeps (b : Bytes) : s.KeepsRegs (s.answerLogged c b) (0xF000C :: lntRegs) :=
  record_keeps s 1 0 (some c) 0 s.now (parseAnswer b).seq b false

theorem takeAnswer_rest (a : Answer) : s.takeAnswer c a = { s with ctxs := (s.takeAnswer c a).ctxs } := by
  unfold takeAnswer
  split
  · rfl
  · split <;> rfl

theorem rd_takeAnswer (a : Answer) (x : Nat) : (s.takeAnswer c a).rd x = s.rd x := by
  rw [takeAnswer_rest]
  rfl

theorem ctx_takeAnswer_ne (a : Answer) {d : Nat} (ne : d ≠ c) : (s.takeAnswer c a).ctx d = s.ctx d := by
  unfold takeAnswer
  split
  · exact (ctx_modCtx_ne _ _ ne).trans (ctx_modCtx_ne _ _ ne)
  · split
    · exact ctx_modCtx_ne _ _ ne
    · exact ctx_modCtx_ne _ _ ne

section Verb

variable {s c} {a : Answer}

theorem takeAnswer_go (go : a.verb = 1) : ((s.takeAnswer c a).ctx c).st = .ready ∧
    ((s.takeAnswer c a).ctx c).go = ⟨a.descIndex, a.lead, a.at_, s.now⟩ ∧
    ((s.takeAnswer c a).ctx c).ask = { late := (s.ctx c).ask.late } := by
  unfold takeAnswer enterReady
  rw [if_pos go, ctx_modCtx_self, ctx_modCtx_self]
  exact ⟨rfl, rfl, rfl⟩

theorem takeAnswer_wait (wait : a.verb = 2) : (s.takeAnswer c a).ctx c = { s.ctx c with
    st := .waiting
    ask := { (s.ctx c).ask with
      reading := false, rev := some a.rev, came := none, set_ := true, abs := decide (s.now < a.at_)
      due := if s.now < a.at_ then a.at_ else s.el + s.rdMin 0x18024 1 } } := by
  unfold takeAnswer
  rw [if_neg (by omega), if_pos wait, ctx_modCtx_self]

theorem takeAnswer_stop (stop : a.verb = 3) : ((s.takeAnswer c a).ctx c).st = .stopped := by
  unfold takeAnswer
  rw [if_neg (by omega), if_neg (by omega), ctx_modCtx_self]

/-- What an answer's verb sets, as the state before its record gives it (R127). -/
theorem takeAnswer_verbs {t : State} (still : t.still = s.still) (rereads : t.rd 0x18024 = s.rd 0x18024) (c : Nat) (a : Answer) :
    (a.verb = 1 → ((t.takeAnswer c a).ctx c).st = .ready ∧
      ((t.takeAnswer c a).ctx c).go = ⟨a.descIndex, a.lead, a.at_, s.now⟩ ∧ ((t.takeAnswer c a).ctx c).ask.set_ = false) ∧
    (a.verb = 2 → ((t.takeAnswer c a).ctx c).st = .waiting ∧ ((t.takeAnswer c a).ctx c).ask.rev = some a.rev ∧
      ((t.takeAnswer c a).ctx c).ask.set_ = true ∧
      (s.now < a.at_ → ((t.takeAnswer c a).ctx c).ask.abs = true ∧ ((t.takeAnswer c a).ctx c).ask.due = a.at_) ∧
      (a.at_ ≤ s.now → ((t.takeAnswer c a).ctx c).ask.abs = false ∧
        ((t.takeAnswer c a).ctx c).ask.due = s.el + s.rdMin 0x18024 1)) ∧
    (a.verb = 3 → ((t.takeAnswer c a).ctx c).st = .stopped) := by
  have now := now_of_still still
  refine ⟨fun go => ?_, fun wait => ?_, takeAnswer_stop⟩
  · obtain ⟨st, taken, ask⟩ := takeAnswer_go (s := t) (c := c) go
    exact ⟨st, by rw [taken, now], congrArg AskSt.set_ ask⟩
  · have interval : t.rdMin 0x18024 1 = s.rdMin 0x18024 1 := congrArg (max 1) rereads
    rw [takeAnswer_wait wait, now, el_of_still still, interval]
    exact ⟨rfl, rfl, rfl, fun ahead => ⟨decide_eq_true ahead, if_pos ahead⟩,
      fun past => ⟨decide_eq_false (Nat.not_lt.mpr past), if_neg (Nat.not_lt.mpr past)⟩⟩

end Verb

/-- The state with an answer half that is no answer noted (R126). -/
def answerLate : State := s.modCtx c (fun x => { x with ask := { x.ask with reading := false, late := true } })

end State

section Op

variable {s u : State} {c : Nat} {d : MemDone} (alive : s.alive = true)
include alive

section Response

variable (took : s.takeDone c .query = some (d, u)) (up : (u.ctx c).tdown = false)
  (waits : (u.ctx c).st = .asking ∨ (u.ctx c).st = .fetching ∨ (u.ctx c).st = .running)
include took up waits

theorem queryWriteResponse_start (other : (u.ctx c).ask.pend ≠ 1) (kind : (u.ctx c).ask.pend ≠ 4) :
    exec (.queryWriteResponse c) s = .next (u.deadlineSet c) := by
  refine congrArg Host.Outcome.next ((if_pos alive).trans ?_)
  unfold queryWritten
  rw [took]
  dsimp only
  rw [if_neg (not_or.mpr ⟨other, kind⟩), if_pos waits]
  exact u.downCheck_deadlineSet c up

theorem queryWriteResponse_over {st : Step} (kind : (u.ctx c).ask.pend = 1 ∨ (u.ctx c).ask.pend = 4) (step : u.step? c = some st) :
    exec (.queryWriteResponse c) s = .next ((u.stepOver c st).deadlineSet c) := by
  refine congrArg Host.Outcome.next ((if_pos alive).trans ?_)
  unfold queryWritten
  rw [took]
  dsimp only
  rw [if_pos kind, if_pos waits, step]
  exact (u.stepOver c st).downCheck_deadlineSet c (by rw [State.ctx_stepOver]; exact up)

end Response

/-- The deadline and the re-read tick have the answer half read in the state that waits for them (R125, R127). -/
theorem askTick_eq {x : Instr}
    (which : x = .askDeadline c ∧ (s.ctx c).st = .asking ∨ x = .askRereadTick c ∧ (s.ctx c).st = .waiting) :
    exec x s = .next (if s.askDue (s.ctx c) = true then s.askCome c else s) := by
  rcases which with ⟨rfl, asking⟩ | ⟨rfl, waiting⟩
  · refine congrArg Host.Outcome.next ((if_pos alive).trans ?_)
    rw [askDeadlineOp, decide_eq_true asking, Bool.and_true]
  · refine congrArg Host.Outcome.next ((if_pos alive).trans ?_)
    rw [askRereadOp, decide_eq_true waiting, Bool.and_true]

theorem askRetryTimer_reads (active : (s.ctx c).active = true) (set_ : (s.ctx c).ask.set_ = true)
    (came : (s.ctx c).ask.came.isSome = true) (idle : (s.ctx c).ask.reading = false) (due : (s.ctx c).ask.retry ≤ s.el) :
    exec (.askRetryTimer c) s = .next (s.readAnswer c) :=
  congrArg Host.Outcome.next ((if_pos alive).trans (if_pos (by rw [active, set_, came, idle, decide_eq_true due]; rfl)))

theorem answerRead_eq (took : s.takeDone c .answer = some (d, u)) (active : (u.ctx c).active = true)
    (reading : (u.ctx c).ask.reading = true) : exec (.answerRead c) s = .next (
      if u.answerOk c d.data = true then
        (u.answerLogged c d.data).takeAnswer c (parseAnswer d.data)
      else u.answerLate c) := by
  refine congrArg Host.Outcome.next ((if_pos alive).trans ?_)
  unfold answerReadOp
  rw [took]
  dsimp only
  rw [active, reading]
  rfl

theorem askGraceExpire_faults {k : Nat} (came : (s.ctx c).ask.came = some k) (active : (s.ctx c).active = true)
    (set_ : (s.ctx c).ask.set_ = true) (past : k + s.rd 0x18028 ≤ s.el) :
    exec (.askGraceExpire c) s = .next (s.ctxFault c 0x06) := by
  refine congrArg Host.Outcome.next ((if_pos alive).trans ?_)
  unfold askGraceOp
  dsimp only
  rw [came]
  exact if_pos (by rw [active, set_, decide_eq_true past]; rfl)

end Op

/-- Settles O39: one clause per command; a response by the kind of the record that has it. -/
theorem queriesAndAnswerReads : Obligations.QueriesAndAnswerReads := by
  unfold Obligations.QueriesAndAnswerReads
  refine ⟨fun c d s u alive took up waits => ?response, fun c x s alive => ⟨fun which => ?tick,
    fun which active set_ came idle due => ?retry⟩⟩
  case response =>
    obtain ⟨r, rfl, left⟩ := State.takeDone_some took
    refine ⟨fun other kind => ⟨_, queryWriteResponse_start alive took up waits other kind, ?_,
      fun e ne => State.ctx_deadlineSet_ne _ _ ne, left, rfl⟩,
      fun st kind step => ⟨_, queryWriteResponse_over alive took up waits kind step, ?_⟩⟩
    · rw [State.ctx_deadlineSet, State.leadOf_start (s.leftDone r) c other kind]
      rfl
    · rw [State.ctx_deadlineSet, State.stepOver_el, State.leadOf_stepOver, State.ctx_stepOver]
      exact ⟨rfl, rfl, rfl, rfl, rfl⟩
  case tick =>
    have run := askTick_eq alive which
    refine ⟨fun due => ?_, fun early => ?_⟩
    · rw [if_pos due] at run
      refine ⟨_, run, ?_⟩
      rw [State.ctx_askCome]
      exact ⟨rfl, rfl, rfl, fun e ne => s.ctx_askCome_ne c ne, rfl, rfl⟩
    · rw [run, early]
      rfl
  case retry =>
    subst which
    exact ⟨_, askRetryTimer_reads alive active set_ came idle due, s.ctx_readAnswer c, fun e ne => s.ctx_readAnswer_ne c ne,
      s.wait_readAnswer c, s.readAnswer_rest c⟩

/-- Settles O40: an answer half by whether it is an answer, an answer by its verb; the grace by its fault. -/
theorem answerVerbTakesEffect : Obligations.AnswerVerbTakesEffect := by
  unfold Obligations.AnswerVerbTakesEffect
  refine ⟨fun c d s u alive took active reading => ?answer, fun c k s alive ne active set_ came past => ?grace⟩
  case answer =>
    obtain ⟨r, rfl, -⟩ := State.takeDone_some took
    have run := answerRead_eq alive took active reading
    by_cases ok : s.answerOk c d.data = true
    · rw [if_pos (show (s.leftDone r).answerOk c d.data = true from ok)] at run
      have keeps := (s.leftDone r).answerLogged_keeps c d.data
      have still := (s.leftDone r).answerLogged_still c d.data
      refine ⟨_, run, fun _ => ?_, fun no => absurd ok (Bool.eq_false_iff.mp no), fun e ne => ?_, fun a ha => ?_, ?_⟩
      · exact State.takeAnswer_verbs still (keeps _ (by decide)) c _
      · exact (State.ctx_takeAnswer_ne _ c _ ne).trans (State.ctx_of_ctxs (State.still_ctxs still) e)
      · exact (State.rd_takeAnswer _ c _ a).trans (keeps a ha)
      · exact State.still_of_rest (State.takeAnswer_rest _ c _) still
    · rw [if_neg (show ¬ (s.leftDone r).answerOk c d.data = true from ok)] at run
      exact ⟨_, run, fun yes => absurd yes ok, fun _ => State.ctx_modCtx_self ..,
        fun e ne => State.ctx_modCtx_ne _ _ ne, fun _ _ => rfl, rfl⟩
  case grace =>
    obtain ⟨fault, tdown, -, step, key, -⟩ := s.ctxFault_ctx c 0x06 ne active
    exact ⟨_, askGraceExpire_faults alive came active set_ past, fault, tdown, step, key⟩

end Sys2Proof.Machine
end

section
/-! DESCRIPTOR_FETCHED (R116, R117): the reads of the checks charge only, a visit that is given up keeps its context but for
the step it would have begun, and one equation per outcome. -/

namespace Sys2Proof.Machine

/-- A step whose descriptor has passed its checks; `wait`: its epoch is still tracked (R117, R123). -/
def Step.checked (st : Step) (wait : Bool) : Step := { st with cnt := { st.cnt with qflags := if wait then 256 else 0 } }

/-- A context with such a step, which waits for its acceptance. -/
def Ctx.checked (st : Step) (wait : Bool) (x : Ctx) : Ctx := { x with cand := some (st.checked wait), waitEpoch := wait }

/-- A context whose visit is given up (R116). -/
def Ctx.unvisited (x : Ctx) : Ctx :=
  { x with vframe := none, heldCancel := false, cand := none, waitEpoch := false }

namespace State

variable {s : State} {c : Nat}

theorem chargeChecks_charged (s : State) (c : Nat) (hv : HostView) (d : Desc) : s.Charged (s.chargeChecks c hv d) c :=
  charged_foldl (fun u (r : Nat × Nat) => u.chargeRead_charged c 1 r.1 r.2) _ s

/-- A charge keeps whether its context is active. -/
theorem active_of_charged {t : State} (charged : s.Charged t c) (active : (s.ctx c).active = true) : (t.ctx c).active = true := by
  rw [charged.self]
  exact active

/- A refused step -/

theorem dropVisit_settled (s : State) (c : Nat) : (s.modCtx c Ctx.unvisited).Settled (s.dropVisit c) := frames_settled ..

theorem ctx_dropVisit (s : State) (c : Nat) : ((s.dropVisit c).ctx c).unframed = (s.ctx c).unvisited.unframed := by
  rw [(s.dropVisit_settled c).2, ctx_modCtx_self]

theorem dropVisit_keeps (s : State) (c : Nat) : s.KeepsRegs (s.dropVisit c) [] := fun a _ => rd_of_settled (s.dropVisit_settled c) a

/-- The record of a refused step as the refusal gives it (R123). -/
def refusal (s : State) (c r k : Nat) : Query := { query0 with reason := r, descIndex := (s.ctx c).go.desc, cookie := k }

theorem refuseStep_eq (s : State) (c r k : Nat) : s.refuseStep c r k = (s.dropVisit c).postQuery c 3 (s.refusal c r k) := rfl

/-- A refusal gives the visit up and requests a record of its reason (R116, R123). -/
theorem refuseStep_asks {u : State} (keeps : u.KeepsRegs s []) (r k : Nat) :
    ∃ q id, ((s.refuseStep c r k).ctx c).ask.pend = 3 ∧ ((s.refuseStep c r k).ctx c).cand = none ∧
      ((s.refuseStep c r k).ctx c).vframe = none ∧ q.qkind = 3 ∧ q.reason = r ∧ q.seq = (u.page c 0x0C + 1) % 2 ^ 32 ∧
      { writeReq c 1 (u.askAddr c q.seq) (encQuery q) ⟨.query, q.seq⟩ with id := id } ∈ (s.refuseStep c r k).mem.wait := by
  have regs : u.KeepsRegs (s.dropVisit c) [] := fun a ha => (s.dropVisit_keeps c a ha).trans (keeps a ha)
  have unvisited := s.ctx_dropVisit c
  rw [refuseStep_eq, ctx_postQuery]
  exact ⟨(s.dropVisit c).queryAsked c 3 (s.refusal c r k), (s.dropVisit c).mem.nextId, rfl, congrArg Ctx.cand unvisited,
    congrArg Ctx.vframe unvisited, rfl, rfl, querySeq_of_keeps (kind := 3) regs (by simp), asked_of_keeps regs (by simp)⟩

end State

section Op

variable {s u : State} {c : Nat} {hv : HostView} {m : MemDone} (alive : s.alive = true) (took : s.takeDone c .desc = some (m, u))
  (fetching : (u.ctx c).st = .fetching)
include alive took fetching

theorem descriptorFetched_bad (bad : crcOk 256 (m.data.take 256) = false) :
    exec (.descriptorFetched c hv) s = .next (if m.why.idx = 0 then u.fetchDesc c 1 else u.refuseStep c 0x01 0) := by
  refine congrArg Host.Outcome.next ((if_pos alive).trans ?_)
  unfold descFetchedOp
  rw [took]
  dsimp only
  rw [if_neg (not_not_intro fetching), if_pos bad]

theorem descriptorFetched_checked (good : crcOk 256 (m.data.take 256) = true) : exec (.descriptorFetched c hv) s = .next (
    match u.checkDesc c hv (m.data.take 256) with
    | .refused r => (u.chargeChecks c hv (parseDesc (m.data.take 256))).refuseStep c r (parseDesc (m.data.take 256)).cookie
    | .fault k => (u.chargeChecks c hv (parseDesc (m.data.take 256))).ctxFault c k
    | .passed st => (u.chargeChecks c hv st.desc).modCtx c
        (Ctx.checked st ((u.ctx c).tracked.contains (u.ctx c).nextEpoch))) := by
  refine congrArg Host.Outcome.next ((if_pos alive).trans ?_)
  unfold descFetchedOp
  rw [took]
  dsimp only
  rw [if_neg (not_not_intro fetching), if_neg (by rw [good]; exact Bool.noConfusion)]
  rfl

end Op

/-- Settles O41: by the descriptor's check word, and then by what its checks answer. -/
theorem descriptorIsChecked : Obligations.DescriptorIsChecked := by
  unfold Obligations.DescriptorIsChecked
  intro c hv m s u alive took fetching
  obtain ⟨r, rfl, -⟩ := State.takeDone_some took
  refine ⟨fun bad first => ?again, fun k why => ?refused, fun k good fault ne active => ?fault, fun st good passed => ?passed⟩
  case again =>
    exact ⟨_, (descriptorFetched_bad alive took fetching bad).trans (congrArg _ (if_pos first)), rfl, rfl⟩
  case refused =>
    rcases why with ⟨bad, again, rfl⟩ | ⟨good, refused⟩
    · have run := descriptorFetched_bad (hv := hv) alive took fetching bad
      rw [if_neg again] at run
      obtain ⟨q, id, asks⟩ := State.refuseStep_asks (s := s.leftDone r) (c := c) (u := s) (fun _ _ => rfl) 0x01 0
      exact ⟨_, q, id, run, asks⟩
    · have run := descriptorFetched_checked (hv := hv) alive took fetching good
      simp only [refused] at run
      have charged := (s.leftDone r).chargeChecks_charged c hv (parseDesc (m.data.take 256))
      generalize (s.leftDone r).chargeChecks c hv (parseDesc (m.data.take 256)) = v at run charged
      obtain ⟨q, id, asks⟩ := State.refuseStep_asks (s := v) (c := c) (u := s) (fun a _ => rd_of_charged charged a) k
        (parseDesc (m.data.take 256)).cookie
      exact ⟨_, q, id, run, asks⟩
  case fault =>
    have run := descriptorFetched_checked (hv := hv) alive took fetching good
    simp only [fault] at run
    have charged := (s.leftDone r).chargeChecks_charged c hv (parseDesc (m.data.take 256))
    generalize (s.leftDone r).chargeChecks c hv (parseDesc (m.data.take 256)) = v at run charged
    obtain ⟨code, tdown, -⟩ := v.ctxFault_ctx c k ne (State.active_of_charged charged active)
    exact ⟨_, run, code, tdown⟩
  case passed =>
    have run := descriptorFetched_checked (hv := hv) alive took fetching good
    simp only [passed] at run
    have charged := (s.leftDone r).chargeChecks_charged c hv st.desc
    generalize (s.leftDone r).chargeChecks c hv st.desc = v at run charged
    refine ⟨_, run, ?_⟩
    rw [State.ctx_modCtx_self]
    exact ⟨(congrArg Ctx.st charged.self).trans fetching, rfl, ⟨_, rfl, rfl, rfl, rfl⟩,
      fun e ne => (State.ctx_modCtx_ne _ _ ne).trans (charged.others e ne), fun a => rd_of_charged charged a⟩

end Sys2Proof.Machine
end

section
/-! STEP_LAUNCH and STEP_DONE (R111, R114, R118, R123, R268): the step as it is marked launched, the rounds of its end, and
its done record. -/

namespace Sys2Proof.Machine

/-- A step as its launch marks it (R114, R118). -/
def Step.launchedAt (now el : Nat) (st : Step) : Step :=
  { st with
    launched := true
    cnt := { st.cnt with tLaunch := now, elLaunch := el, prog := el, quiet := el } }

/-- A step complete but for the quantum of R410 from the tick that `w` gives. -/
def Step.wholeAt (st : Step) (w : Option Nat) : Step := { st with cnt := { st.cnt with whole := w } }

namespace State

variable {s : State} {c : Nat} {st : Step}

/- The launch -/

/-- The state with a launch in the record log (R414). -/
def launchLogged (s : State) (c : Nat) (st : Step) : State := s.record 2 0 (some c) st.epoch s.now (s.ctx c).go.desc [] false

theorem launchLogged_still (s : State) (c : Nat) (st : Step) : (s.launchLogged c st).still = s.still := record_still ..

theorem launchLogged_keeps (s : State) (c : Nat) (st : Step) : s.KeepsRegs (s.launchLogged c st) (0xF000C :: lntRegs) :=
  record_keeps s 2 0 (some c) st.epoch s.now (s.ctx c).go.desc [] false

theorem launchLogged_ctx (s : State) (c : Nat) (st : Step) (d : Nat) : (s.launchLogged c st).ctx d = s.ctx d :=
  ctx_of_ctxs (still_ctxs (s.launchLogged_still c st)) d

/-- The state with the step of a context marked launched at this tick. -/
def launchMarked (s : State) (c : Nat) (st : Step) : State :=
  (s.launchLogged c st).modStep c (Step.launchedAt (s.launchLogged c st).now (s.launchLogged c st).el)

theorem step_launchMarked (step : s.step? c = some st) : (s.launchMarked c st).step? c = some (st.launchedAt s.now s.el) := by
  have still := s.launchLogged_still c st
  have logged : (s.launchLogged c st).step? c = some st := (congrArg Ctx.step (s.launchLogged_ctx c st c)).trans step
  unfold launchMarked
  rw [step_modStep _ _ logged, now_of_still still, el_of_still still]

theorem launchMarked_ctx_ne {d : Nat} (ne : d ≠ c) : (s.launchMarked c st).ctx d = s.ctx d :=
  (ctx_modCtx_ne _ _ ne).trans (s.launchLogged_ctx c st d)

theorem launchMarked_keeps : s.KeepsRegs (s.launchMarked c st) (0xF000C :: lntRegs) := fun a ha =>
  (rd_modStep ..).trans (s.launchLogged_keeps c st a ha)

theorem launchMarked_still : (s.launchMarked c st).still = ({ s with ctxs := (s.launchMarked c st).ctxs } : State).still :=
  congrArg (fun u : State => ({ u with ctxs := (s.launchMarked c st).ctxs } : State)) (s.launchLogged_still c st)

/- The end -/

/-- The state with `st` as the running step of a context. -/
def stepSet (s : State) (c : Nat) (st : Step) : State := s.modStep c (fun _ => st)

theorem step_stepSet {st' : Step} (step : s.step? c = some st') : (s.stepSet c st).step? c = some st :=
  s.step_modStep (fun _ => st) step

theorem rd_stepSet (s : State) (c : Nat) (st : Step) (a : Nat) : (s.stepSet c st).rd a = s.rd a := rd_modStep ..

theorem ctx_stepSet_ne {d : Nat} (ne : d ≠ c) : (s.stepSet c st).ctx d = s.ctx d := ctx_modCtx_ne _ _ ne

theorem live_of_workDone (done : s.workDone c st = true) : st.cancelled = false ∧ st.ended = false := by
  simp only [workDone, Bool.and_eq_true, Bool.not_eq_true'] at done
  obtain ⟨⟨-, cancelled⟩, ended⟩ := done
  exact ⟨cancelled, ended⟩

theorem endGo_out (n : Nat) (out : s.writesOut c = true) : endGo c n s = s := by
  cases n with
  | zero => rfl
  | succ n =>
    unfold endGo
    split
    · rfl
    · rw [out, Bool.or_true, if_pos rfl]

section Round

variable (step : s.step? c = some st) (active : (s.ctx c).active = true) (live : st.cancelled = false ∧ st.ended = false)
  (answered : s.writesOut c = false)
include step active live answered

/-- A live step whose writes are answered goes on by what it has written (R123, R241). -/
theorem endGo_round (n : Nat) : endGo c (n + 1) s =
    if st.por.wrote = 1 then endGo c n (s.writeLast c st)
    else if st.por.wrote = 2 then
      let st' := st.wholeAt (some (st.cnt.whole.getD s.now))
      if (s.stepSet c st').quantNow st' then (s.stepSet c st').finish c st' else s.stepSet c st'
    else s := by
  have goes : ¬ (!(s.ctx c).active || st.cancelled || st.ended || s.writesOut c) = true := by
    rw [active, live.1, live.2, answered]
    decide
  rw [endGo, step]
  exact if_neg goes

theorem endGo_last (n : Nat) (wrote : st.por.wrote = 1) : endGo c (n + 1) s = endGo c n (s.writeLast c st) := by
  rw [endGo_round step active live answered, if_pos wrote]

/-- The record of a step outside pace lock is requested as soon as every write has its response (R123, R410). -/
theorem endGo_finish (n : Nat) (wrote : st.por.wrote = 2) (free : st.samp.plock = false) :
    ∃ w, endGo c (n + 1) s = (s.stepSet c (st.wholeAt w)).finish c (st.wholeAt w) := by
  refine ⟨some (st.cnt.whole.getD s.now), ?_⟩
  rw [endGo_round step active live answered, if_neg (by omega), if_pos wrote]
  exact if_pos (Bool.or_eq_true_iff.mpr (.inl (congrArg not free)))

end Round

/- The done record -/

/-- Registers that the end of a step may write: the margin, the counts of R196, R201 and R355, and those of an event. -/
def finishRegs : List Nat := [0xF0008, 0x30020, 0x30024, 0x30028, 0x3002C, 0x90004] ++ lntRegs

/-- The state with what a done step adds to the block's counts (R196, R201, R355, R410). -/
def finishCounted (s : State) (c : Nat) (st : Step) : State :=
  if st.prop then (((s.margin st).doneCounts st).count 0x90004 1).event 0x26 c st.desc.layer st.desc.model
  else (s.margin st).doneCounts st

theorem margin_ctxs (s : State) (st : Step) : (s.margin st).ctxs = s.ctxs := by
  unfold margin
  split <;> rfl

theorem finishCounted_ctx (s : State) (c : Nat) (st : Step) (d : Nat) : (s.finishCounted c st).ctx d = s.ctx d := by
  refine ctx_of_ctxs ?_ d
  unfold finishCounted
  split
  · exact (event_ctxs ..).trans (s.margin_ctxs st)
  · exact s.margin_ctxs st

theorem doneCounts_keeps (s : State) (st : Step) : s.KeepsRegs ((s.margin st).doneCounts st) finishRegs := fun a ha => by
  simp only [finishRegs, List.mem_append, List.mem_cons, not_or] at ha
  obtain ⟨⟨slack, ovr, drop, skips, untaken, -⟩, -⟩ := ha
  refine (rd_count_ne _ _ untaken).trans ((rd_count_ne _ _ skips).trans ?_)
  refine (rd_count_ne _ _ drop).trans ((rd_count_ne _ _ ovr).trans ?_)
  unfold margin
  split
  · exact rd_wr_ne _ _ slack
  · rfl

theorem finishCounted_keeps (s : State) (c : Nat) (st : Step) : s.KeepsRegs (s.finishCounted c st) finishRegs := fun a ha => by
  have counts := s.doneCounts_keeps st a ha
  simp only [finishRegs, List.mem_append, List.mem_cons, not_or] at ha
  obtain ⟨⟨-, -, -, -, -, props, -⟩, events⟩ := ha
  unfold finishCounted
  split
  · exact (rd_event_ne _ _ _ _ _ events).trans ((rd_count_ne _ _ props).trans counts)
  · exact counts

/-- The state of a step that ends, before its record is requested (R392). -/
def finishing (s : State) (c : Nat) (st : Step) : State :=
  ((s.finishCounted c st).modCtx c (fun x => slowNext x (s.el - st.cnt.elLaunch) st.cnt.tOther)).modStep c
    (fun st => { st with ended := true })

/-- The done record as the end of the step gives it (R123, R362). -/
def doneQuery (s : State) (c : Nat) (st : Step) : Query := st.reported ((s.finishing c st).stepQuery c st false)

theorem finish_eq (s : State) (c : Nat) (st : Step) : s.finish c st = (s.finishing c st).postQuery c 1 (s.doneQuery c st) := rfl

theorem finish_ctx_ne {d : Nat} (ne : d ≠ c) : (s.finish c st).ctx d = s.ctx d := by
  rw [finish_eq, ctx_postQuery_ne _ _ _ _ ne]
  exact (ctx_modCtx_ne _ _ ne).trans ((ctx_modCtx_ne _ _ ne).trans (s.finishCounted_ctx c st d))

theorem finishing_keeps (s : State) (c : Nat) (st : Step) : s.KeepsRegs (s.finishing c st) finishRegs := fun a ha =>
  (rd_modStep ..).trans ((rd_modCtx ..).trans (s.finishCounted_keeps c st a ha))

theorem step_finishing {st' : Step} (step : s.step? c = some st') :
    ((s.finishing c st).ctx c).step = some { st' with ended := true } := by
  unfold finishing modStep
  rw [ctx_modCtx_self, ctx_modCtx_self, finishCounted_ctx]
  exact congrArg (Option.map _) step

/-- The count of a gathering step's tokens leaves the record's other fields (R362). -/
theorem reported_fields (st : Step) (q : Query) : (st.reported q).epoch = q.epoch ∧ (st.reported q).cookie = q.cookie ∧
    (st.reported q).mver = q.mver ∧ (st.reported q).tver = q.tver := by
  unfold Step.reported
  split <;> exact ⟨rfl, rfl, rfl, rfl⟩

/-- The end of a step requests its done record (R123). -/
theorem finish_asks {u : State} {st' : Step} (keeps : u.KeepsRegs s []) (step : s.step? c = some st') :
    ∃ q id, ((s.finish c st).ctx c).ask.pend = 1 ∧ q.qkind = 1 ∧ q.epoch = st.epoch ∧
      q.seq = (u.page c 0x0C + 1) % 2 ^ 32 ∧ q.cookie = st.desc.cookie ∧ q.mver = st.bind.mver ∧ q.tver = st.bind.tver ∧
      { writeReq c 1 (u.askAddr c q.seq) (encQuery q) ⟨.query, q.seq⟩ with id := id } ∈ (s.finish c st).mem.wait ∧
      ∃ st'', (s.finish c st).step? c = some st'' ∧ st''.ended = true := by
  have low : ∀ a ∈ finishRegs, a < pageBase := by decide
  have regs : u.KeepsRegs (s.finishing c st) finishRegs := fun a ha =>
    (s.finishing_keeps c st a ha).trans (keeps a (List.not_mem_nil))
  obtain ⟨epoch, cookie, mver, tver⟩ := reported_fields st ((s.finishing c st).stepQuery c st false)
  have self := (s.finishing c st).ctx_postQuery c 1 (s.doneQuery c st)
  rw [step_finishing step] at self
  rw [finish_eq]
  exact ⟨(s.finishing c st).queryAsked c 1 (s.doneQuery c st), (s.finishing c st).mem.nextId,
    congrArg (fun x : Ctx => x.ask.pend) self, rfl, epoch, querySeq_of_keeps (kind := 1) regs low, cookie, mver, tver,
    asked_of_keeps regs low, _, congrArg Ctx.step self, rfl⟩

end State

section Op

variable {s : State} {c : Nat} {hv : HostView} {st : Step} (step : s.step? c = some st)
include step

theorem stepLaunch_eq : exec (.stepLaunch c hv) s = .next (
    if !(s.launchDue c st) then s
    else if hv.fault ≠ 0 then s.ctxFault c hv.fault
    else (((s.launchMarked c st).launchExits c st hv).bump c 0 1).launchWork c { st with launched := true } hv) := by
  refine congrArg Host.Outcome.next ?_
  unfold stepLaunchOp
  rw [step]
  rfl

theorem stepDone_goes (on : s.on = true) (active : (s.ctx c).active = true) (done : s.workDone c st = true) :
    exec (.stepDone c hv) s = .next (
      if st.por.wrote ≠ 0 then State.endGo c 2 s
      else if hv.fault ≠ 0 then s.ctxFault c hv.fault
      else State.endGo c 2 (s.writeBack c st hv)) := by
  refine congrArg Host.Outcome.next ?_
  unfold stepDoneOp
  rw [step]
  dsimp only
  rw [on, active, done, if_neg (by decide)]

end Op

/-- Settles O43: a launch by what R111 and R114 say of its tick; the end by how far its writes are. -/
theorem stepLaunchAndDone : Obligations.StepLaunchAndDone := by
  unfold Obligations.StepLaunchAndDone
  refine ⟨fun c hv st s step => ⟨fun due fault => ?starts, fun due fault => ?fault, fun early => ?early⟩,
    fun c hv st s step on active done => ?done⟩
  case starts =>
    have run := stepLaunch_eq (hv := hv) step
    rw [due, if_neg (by decide), if_neg (not_not_intro fault)] at run
    exact ⟨_, run, ⟨_, State.step_launchMarked step, rfl, rfl, rfl, rfl, rfl⟩,
      fun d ne => State.launchMarked_ctx_ne ne, State.launchMarked_keeps, State.launchMarked_still⟩
  case fault => rw [stepLaunch_eq step, due, if_neg (by decide), if_pos fault]
  case early => rw [stepLaunch_eq step, early, if_pos (by decide)]
  case done =>
    have run := stepDone_goes (hv := hv) step on active done
    have live := State.live_of_workDone done
    refine ⟨fun none fault => ?_, fun first answered => ?_, fun some out => ?_, fun answered all free => ?_⟩
    · rw [run, if_neg (not_not_intro none), if_neg (not_not_intro fault)]
    · rw [run, if_pos (by omega), State.endGo_last step active live answered 1 first]
    · rw [run, if_pos some, State.endGo_out 2 out]
    · obtain ⟨w, go⟩ := State.endGo_finish step active live answered 1 all free
      rw [if_pos (by omega), go] at run
      obtain ⟨q, id, pend, kind, epoch, seq, cookie, mver, tver, asked, ended⟩ :=
        State.finish_asks (s := s.stepSet c (st.wholeAt w)) (st := st.wholeAt w) (u := s) (fun a _ => s.rd_stepSet c _ a)
          (State.step_stepSet step)
      exact ⟨_, q, id, run, pend, kind, epoch, seq, cookie, mver, tver, asked, ended, fun d ne =>
        (State.finish_ctx_ne ne).trans (State.ctx_stepSet_ne ne)⟩

end Sys2Proof.Machine
end

section
/-! CHAIN_STALL_TIMEOUT and COUNTER_ADD (R121, R271): a message that is taken leaves contexts and waiting adds, and one
equation per place that an add goes to. -/

namespace Sys2Proof.Machine

namespace State

variable {s : State}

/-- Taking a message leaves the contexts and the adds that wait for their epoch (R285). -/
theorem takeShort_some {k : Nat} {m : Short} {u : State} (took : s.takeShort k = some (m, u)) :
    u.ctxs = s.ctxs ∧ u.xch.pend = s.xch.pend := by
  unfold takeShort at took
  dsimp only at took
  split at took
  · cases took
  · cases took
    exact ⟨rfl, rfl⟩

theorem runs_of_ctxs {u : State} (ctxs : u.ctxs = s.ctxs) (c e : Nat) : u.runs c e = s.runs c e := by
  unfold runs step?
  rw [ctx_of_ctxs ctxs]

/-- The state with an add made to a trigger counter, before it fires what it reaches (R268). -/
def counted (s : State) (c i n : Nat) : State :=
  s.modCtx c (fun x => { x with counters := tput 0 i ((x.ctr i + n) % 2 ^ 32) x.counters })

theorem ctr_counted (c i n : Nat) : ((s.counted c i n).ctx c).ctr i = ((s.ctx c).ctr i + n) % 2 ^ 32 := by
  unfold counted
  rw [ctx_modCtx_self]
  exact tget_tput_self ..

theorem ctr_counted_ne (c n : Nat) {i k : Nat} (ne : k ≠ i) : ((s.counted c i n).ctx c).ctr k = (s.ctx c).ctr k := by
  unfold counted
  rw [ctx_modCtx_self]
  exact tget_tput_ne _ _ _ _ _ _ ne

section AddTo

variable {c e ctr inc : Nat}

theorem addTo_runs (active : (s.ctx c).active = true) (runs : (s.runs c e).isSome = true) :
    s.addTo c e ctr inc = (s.counted c ctr inc).fireChains c := if_pos ⟨active, runs⟩

theorem addTo_waits (active : (s.ctx c).active = true) (idle : (s.runs c e).isSome = false) (next : e = (s.ctx c).nextEpoch)
    (room : s.xch.pend.length < 1024) :
    s.addTo c e ctr inc = s.modXch (fun x => { x with pend := x.pend ++ [⟨c, e, ctr, inc⟩] }) :=
  (if_neg (by simp [idle])).trans (if_pos ⟨active, next, room⟩)

theorem addTo_drops (useless : (s.ctx c).active = false ∨ (s.runs c e).isSome = false ∧
    (e ≠ (s.ctx c).nextEpoch ∨ 1024 ≤ s.xch.pend.length)) : s.addTo c e ctr inc = s.countSat 0x50014 16 16 1 := by
  refine (if_neg ?_).trans (if_neg ?_)
  · rintro ⟨active, runs⟩
    rcases useless with down | ⟨idle, -⟩
    · exact Bool.noConfusion (down.symm.trans active)
    · exact Bool.noConfusion (idle.symm.trans runs)
  · rintro ⟨active, next, room⟩
    rcases useless with down | ⟨-, other | full⟩
    · exact Bool.noConfusion (down.symm.trans active)
    · exact other next
    · omega

end AddTo

end State

theorem chainStallTimeout_faults {s : State} {c : Nat} (on : s.on = true) (active : (s.ctx c).active = true)
    (stalled : s.chainStalled c = true) : exec (.chainStallTimeout c) s = .next (s.ctxFault c 0x07) :=
  congrArg Host.Outcome.next (if_pos (by rw [on, active, stalled]; rfl))

theorem counterAdd_adds {s u : State} {m : Short} (on : s.on = true) (took : s.takeShort 7 = some (m, u)) :
    exec .counterAdd s = .next (u.addTo m.ctx m.epoch (fld (m.bytes.drop 16) 0 1 % 32) (fld (m.bytes.drop 16) 4 4)) := by
  refine congrArg Host.Outcome.next ((if_neg (by simp [on])).trans ?_)
  rw [took]

/-- Settles O45: a stall by its fault; an add by whether its epoch runs, is the next one, or neither. -/
theorem counterAddsAndStalls : Obligations.CounterAddsAndStalls := by
  unfold Obligations.CounterAddsAndStalls
  refine ⟨fun c s ne on active stalled => ?stall, fun m s u on took => ?add⟩
  case stall =>
    obtain ⟨code, tdown, -, step, -⟩ := s.ctxFault_ctx c 0x07 ne active
    exact ⟨_, chainStallTimeout_faults on active stalled, code, tdown, step⟩
  case add =>
    have run := counterAdd_adds on took
    obtain ⟨ctxs, pend⟩ := State.takeShort_some took
    rw [← State.runs_of_ctxs ctxs, ← pend]
    simp only [← State.ctx_of_ctxs ctxs]
    refine ⟨fun active runs => ?_, fun active idle next room => ?_, fun useless => ?_⟩
    · rw [State.addTo_runs active runs] at run
      exact ⟨_, run, State.ctr_counted .., fun k ne => State.ctr_counted_ne _ _ ne, fun d ne => State.ctx_modCtx_ne _ _ ne, rfl⟩
    · rw [State.addTo_waits active idle next room] at run
      exact ⟨_, run, rfl, ctxs, rfl⟩
    · rw [State.addTo_drops useless] at run
      exact ⟨_, run, u.bits_countSat 0x50014 16 16 1 (by decide), rfl⟩

end Sys2Proof.Machine
end

section
/-! TENT_WRITE, MODEL_SET and MODEL_CLR (R144, R376, R377, R518): one bit of a word set and cleared by arithmetic, what the
write of each command leaves, and one equation per outcome. -/

namespace Sys2Proof.Machine

/- One bit of a word -/

theorem bit_setField_one (v m x k : Nat) : bit (setField v m 1 x) k = if k = m then bit x 0 else bit v k := by
  rw [bit_testBit, setField_testBit, bit_testBit, bit_testBit]
  by_cases same : k = m
  · simp [same]
  · rw [if_neg (by omega), if_neg same]

theorem bit_add_two_pow {v m : Nat} (off : bit v m = false) (k : Nat) : bit (v + 2 ^ m) k = (bit v k || decide (k = m)) := by
  have absent : bits v m 1 = 0 := by
    have other : bits v m 1 ≠ 1 := of_decide_eq_false off
    have small := bits_lt v m 1
    omega
  have set : v + 2 ^ m = setField v m 1 1 := by simp [setField, absent]
  rw [set, bit_setField_one]
  split
  case isTrue same => simp [same, bit]
  case isFalse other => simp [other]

theorem bit_sub_two_pow {v m : Nat} (on : bit v m = true) (k : Nat) : bit (v - 2 ^ m) k = (bit v k && decide (k ≠ m)) := by
  have present : bits v m 1 = 1 := of_decide_eq_true on
  have cleared : v - 2 ^ m = setField v m 1 0 := by simp [setField, present]
  rw [cleared, bit_setField_one]
  split
  case isTrue same => simp [same, bit]
  case isFalse other => simp [other]

theorem tentMask_testBit : ∀ i < 32, Nat.testBit 0xFFFFFF7F i = decide (i ≠ 7) := by decide

/-- A tent stores the bits of the data but for bit 7, which is reserved (R376). -/
theorem bit_tentMask {i : Nat} (hi : i < 32) (v : Nat) :
    bit ((v &&& 0xFFFFFF7F) % 2 ^ 32) i = (bit v i && decide (i ≠ 7)) := by
  rw [bit_testBit, bit_testBit, Nat.testBit_mod_two_pow, Nat.testBit_and, tentMask_testBit i hi, decide_eq_true hi, Bool.true_and]

/- Tents -/

theorem tentAddr_not_logged {m : Nat} (hm : m < 64) : tentAddr m ∉ 0xF000C :: lntRegs := by
  simp only [tentAddr, lntRegs, List.mem_cons, List.not_mem_nil, or_false, not_or]
  omega

theorem State.tentWord_wrote (s : State) {m : Nat} (hm : m < 64) (a v : Nat) : (s.wrote a v).tentWord m = s.tentWord m :=
  s.wrote_keeps a v _ (tentAddr_not_logged hm)

theorem tentWrite_takes {n : Nat} {w : W32} {s : State} (opened : s.portOpen = true) (good : s.tentBad n w.toNat = false) :
    exec (.tentWrite n w) s = .next ((s.wr (tentAddr n) (w.toNat &&& 0xFFFFFF7F)).wrote (tentAddr n) w.toNat) := by
  refine congrArg Host.Outcome.next ((if_neg (by simp [opened])).trans ?_)
  rw [good]
  rfl

theorem tentWrite_ignored {n : Nat} {w : W32} {s : State} (opened : s.portOpen = true) (bad : s.tentBad n w.toNat = true) :
    exec (.tentWrite n w) s = .next ((s.ignored (tentAddr n)).wrote (tentAddr n) w.toNat) := by
  refine congrArg Host.Outcome.next ((if_neg (by simp [opened])).trans ?_)
  rw [bad]
  rfl

/- Models -/

theorem State.rd2_wr2_mod (s : State) (a v : Nat) : (s.wr2 a v).rd2 a = v % 2 ^ 64 := by
  unfold rd2 wr2
  rw [rd_wr_self, rd_wr_ne _ _ (by omega), rd_wr_self]
  omega

/-- The state with the residency word `v` and one more change of model `m`'s residency counted (R144, log entry 179). -/
def State.withResidency (s : State) (m v : Nat) : State := (s.wr2 0x20000 v).resGen m

section Residency

variable (s : State) (m v a x : Nat)

/-- The write of KTL_MODEL_SET or KTL_MODEL_CLR that changes residency to `v`. -/
theorem withResidency_wrote_keeps : s.KeepsRegs ((s.withResidency m v).wrote a x) (0x20000 :: 0x20004 :: 0xF000C :: lntRegs) := by
  intro r hr
  rw [List.mem_cons, List.mem_cons, not_or, not_or] at hr
  obtain ⟨low, high, logged⟩ := hr
  exact (State.wrote_keeps _ a x r logged).trans ((State.rd_wr_ne _ _ high).trans (State.rd_wr_ne _ _ low))

theorem resident_withResidency_wrote {k : Nat} (hk : k < 64) : ((s.withResidency m v).wrote a x).resident k = bit v k := by
  have kept : ((s.withResidency m v).wrote a x).rd2 0x20000 = (s.wr2 0x20000 v).rd2 0x20000 := by
    unfold State.rd2
    rw [State.wrote, State.wrote_keeps _ a x 0x20000 (by decide), State.wrote_keeps _ a x 0x20004 (by decide)]
    rfl
  rw [State.resident, kept, State.rd2_wr2_mod, bit_testBit, bit_testBit, Nat.testBit_mod_two_pow, decide_eq_true hk,
    Bool.true_and]

theorem ktl_withResidency_wrote : ((s.withResidency m v).wrote a x).ktl = (s.resGen m).ktl :=
  (State.still_ktl (State.wrote_still _ a x)).trans rfl

theorem withResidency_wrote_still : ((s.withResidency m v).wrote a x).still =
    ({ s with ctl := ((s.withResidency m v).wrote a x).ctl, ktl := ((s.withResidency m v).wrote a x).ktl } : State).still := by
  rw [ktl_withResidency_wrote]
  exact State.wrote_still _ a x

end Residency

theorem modelSet_sets {m : Nat} {s : State} (opened : s.portOpen = true) (absent : s.resident m = false)
    (lo : 1 ≤ s.modelLayers m) (hi : s.modelLayers m ≤ 256) (base : s.rd2 (modelBase m) ≠ 0) :
    exec (.modelSet m) s = .next ((s.withResidency m (s.rd2 0x20000 + 2 ^ m)).wrote 0x20008 m) := by
  have valid : ¬ (s.modelLayers m = 0 ∨ 256 < s.modelLayers m ∨ s.rd2 (modelBase m) = 0) := by omega
  refine congrArg Host.Outcome.next ((if_neg (by simp [opened])).trans ?_)
  rw [absent, decide_eq_false valid]
  rfl

theorem modelClr_clears {m : Nat} {s : State} (opened : s.portOpen = true) (present : s.resident m = true) :
    exec (.modelClr m) s = .next ((s.withResidency m (s.rd2 0x20000 - 2 ^ m)).wrote 0x2000C m) := by
  refine congrArg Host.Outcome.next ((if_neg (by simp [opened])).trans ?_)
  rw [present]
  rfl

/-- Settles O10: a tent's write by whether R377 refuses it, a model's by the bit of the residency word that it changes. -/
theorem tentsAndModels : Obligations.TentsAndModels := by
  unfold Obligations.TentsAndModels
  refine ⟨fun n w s hn opened => ⟨fun good => ?takes, fun bad => ?ignored⟩,
    fun m s _ opened => ⟨fun absent lo hi base _ => ?set, fun present _ => ?clear⟩⟩
  case takes =>
    refine ⟨_, tentWrite_takes opened good, fun a ha => ?_, fun i hi => ?_, State.wrote_still ..⟩
    · rw [List.mem_cons, not_or] at ha
      exact (State.wrote_keeps _ _ _ a ha.2).trans (State.rd_wr_ne _ _ ha.1)
    · rw [State.tentWord_wrote _ hn, State.tentWord, State.rd_wr_self]
      exact bit_tentMask hi _
  case ignored =>
    refine ⟨_, tentWrite_ignored opened bad, fun m hm => ?_, ?_⟩
    · rw [State.tentWord_wrote _ hm]
      exact s.ignored_keeps _ _ (List.not_mem_of_not_mem_cons (tentAddr_not_logged hm))
    · refine (State.wrote_still ..).trans ?_
      exact congrArg (fun u : State => ({ u with ctl := _ } : State)) (s.ignored_still (tentAddr n))
  case set =>
    exact ⟨_, modelSet_sets opened absent lo hi base,
      fun k hk => (resident_withResidency_wrote s m _ _ _ hk).trans (bit_add_two_pow absent k),
      withResidency_wrote_keeps s _ _ _ _, ktl_withResidency_wrote .., withResidency_wrote_still ..⟩
  case clear =>
    exact ⟨_, modelClr_clears opened present,
      fun k hk => (resident_withResidency_wrote s m _ _ _ hk).trans (bit_sub_two_pow present k),
      withResidency_wrote_keeps s _ _ _ _, ktl_withResidency_wrote .., withResidency_wrote_still ..⟩

end Sys2Proof.Machine
end

section
/-! CONTEXT_DISABLE and CONTEXT_CANCEL (R240, R393 to R395, R397): the cancel word that each sends, and one equation per outcome. -/

namespace Sys2Proof.Machine

/-- `t` has the attachment points of `s`, and all that decides which of them work. -/
structure State.SamePoints (s t : State) : Prop where
  glb : t.glb = s.glb
  start : t.start = s.start
  pitches : t.pitches = s.pitches
  core : t.core = s.core

theorem State.SamePoints.trans {s t u : State} (h : s.SamePoints t) (k : t.SamePoints u) : s.SamePoints u :=
  ⟨k.glb.trans h.glb, k.start.trans h.start, k.pitches.trans h.pitches, k.core.trans h.core⟩

theorem samePoints_of_sends {s t : State} (h : s.Sends t) : s.SamePoints t := by
  obtain ⟨-, -, glb, -, -, -, start, pitches, -, core, -⟩ := sends_fields h
  exact ⟨glb, start, pitches, core⟩

theorem samePoints_of_settled {s t : State} (h : s.Settled t) : s.SamePoints t := by
  obtain ⟨-, -, glb, -, -, -, start, pitches, -, -, core, -⟩ := settled_fields h
  exact ⟨glb, start, pitches, core⟩

theorem State.SamePoints.pt {s t : State} (h : s.SamePoints t) (a : Nat) : t.pt a = s.pt a := by
  unfold State.pt
  rw [h.core]

theorem State.SamePoints.firstPt {s t : State} (h : s.SamePoints t) (p : Nat) : t.firstPt p = s.firstPt p := by
  have up : t.ptUp = s.ptUp := funext fun a => ptUp_congr h.glb h.start h.pitches (congrArg CorePt.iso (h.pt a))
  unfold State.firstPt State.ptsOf
  rw [up]

namespace State

variable (s : State) (c : Nat)

/- Cancel words on their way (R394) -/

theorem coreSend_keeps_sent (a : Nat) (bs : Bytes) : s.core.sent <+: (s.coreSend a bs).core.sent := by
  cases down : (s.pt a).down with
  | true =>
    rw [coreSend_down _ _ down]
    exact List.prefix_refl _
  | false =>
    rw [coreSend_sent _ _ down]
    exact List.prefix_append _ _

theorem sendCancel_sent_eq (e sc why fin : Nat) : (s.sendCancel c e sc why fin).core.sent =
    (s.coreSend (s.firstPt s.glb.anchor) (cancelWord c e sc why s.core.nextCancel)).core.sent := by
  unfold sendCancel
  dsimp only
  rw [sendPacket_core]

theorem sendCancel_keeps_sent (e sc why fin : Nat) : s.core.sent <+: (s.sendCancel c e sc why fin).core.sent := by
  rw [sendCancel_sent_eq]
  exact coreSend_keeps_sent ..

variable {s} in
/-- A cancel word leaves at the lowest point of the anchor, when that is not down. -/
theorem sendCancel_sent {v : State} (same : s.SamePoints v) (high : (s.pt (s.firstPt s.glb.anchor)).down = false)
    (e sc why fin : Nat) : (v.sendCancel c e sc why fin).core.sent =
      s.core.sent ++ [⟨s.firstPt s.glb.anchor, cancelWord c e sc why s.core.nextCancel⟩] := by
  rw [sendCancel_sent_eq, same.glb, same.firstPt, same.core, coreSend_sent _ _ (by rw [same.pt]; exact high), same.core]

/- Cancels (R240, R393) -/

theorem cancelMark_samePoints (st : Step) : s.SamePoints (s.cancelMark c st) := by
  unfold cancelMark
  by_cases none : st.outCopies = []
  · simp only [none, if_true]
    exact ⟨rfl, rfl, rfl, rfl⟩
  · simp only [none, if_false]
    exact ⟨rfl, rfl, rfl, rfl⟩

/-- Only the cancel word of a cancel that does not wait touches the core port. -/
theorem cancelNow_core (st : Step) :
    ∃ v, s.SamePoints v ∧ (s.cancelNow c st).core = (v.sendCancel c st.epoch 0 0 0).core := by
  unfold cancelNow
  refine ⟨_, ?_, cancelCheck_core ..⟩
  split
  · exact (s.cancelMark_samePoints c st).trans (samePoints_of_settled (dropFrame_settled ..))
  · exact s.cancelMark_samePoints c st

theorem cancelNow_keeps_sent (st : Step) : s.core.sent <+: (s.cancelNow c st).core.sent := by
  obtain ⟨v, same, core⟩ := s.cancelNow_core c st
  rw [core, ← same.core]
  exact v.sendCancel_keeps_sent ..

theorem cancelNow_sent (st : Step) (high : (s.pt (s.firstPt s.glb.anchor)).down = false) : (s.cancelNow c st).core.sent =
    s.core.sent ++ [⟨s.firstPt s.glb.anchor, cancelWord c st.epoch 0 0 s.core.nextCancel⟩] := by
  obtain ⟨v, same, core⟩ := s.cancelNow_core c st
  rw [core]
  exact sendCancel_sent c same high ..

theorem holdCancel_core (full : Bool) : (s.holdCancel c full).core = s.core := by
  unfold holdCancel
  dsimp only
  rw [modCtx_core]
  split <;> rfl

theorem holdCancel_self (full : Bool) : (s.holdCancel c full).ctx c =
    { s.ctx c with heldCancel := true, waitDrain := (s.ctx c).waitDrain || full } := by
  unfold holdCancel
  dsimp only
  rw [ctx_modCtx_self]
  split <;> rfl

theorem holdCancel_others (full : Bool) {d : Nat} (ne : d ≠ c) : (s.holdCancel c full).ctx d = s.ctx d := by
  unfold holdCancel
  dsimp only
  rw [ctx_modCtx_ne _ _ ne]
  split <;> rfl

section Running

variable {s c} {st : Step} (step : s.step? c = some st) (live : st.cancelled = false) (going : st.ended = false)
include step live going

theorem cancelStep_atom (atom : st.inAtom = true) : s.cancelStep c = s.holdCancel c false := by
  simp only [cancelStep, step, live, going, atom, Bool.or_self, Bool.false_eq_true, if_false, if_true]

variable (closed : st.inAtom = false)
include closed

theorem cancelStep_full (full : s.drainFull st = true) : s.cancelStep c = s.holdCancel c true := by
  simp only [cancelStep, step, live, going, closed, full, Bool.or_self, Bool.false_eq_true, if_false, if_true]

theorem cancelStep_now (room : s.drainFull st = false) : s.cancelStep c = s.cancelNow c st := by
  simp only [cancelStep, step, live, going, closed, room, Bool.or_self, Bool.false_eq_true, if_false]

end Running

theorem cancelStep_keeps_sent : s.core.sent <+: (s.cancelStep c).core.sent := by
  have held (full : Bool) : s.core.sent <+: (s.holdCancel c full).core.sent := by
    rw [holdCancel_core]
  unfold cancelStep
  split
  · exact List.prefix_refl _
  · split
    · exact List.prefix_refl _
    · split
      · exact held _
      · split
        · exact held _
        · exact cancelNow_keeps_sent ..

/-- Cancels that go on add words, and take none away. -/
theorem heldAll_keeps_sent : s.core.sent <+: s.heldAll.core.sent := by
  unfold heldAll
  generalize tkeys _ _ = l
  induction l generalizing s with
  | nil => exact List.prefix_refl _
  | cons d l ih =>
    refine List.IsPrefix.trans ?_ (ih (s.heldCheck d))
    unfold heldCheck
    split
    · exact cancelStep_keeps_sent ..
    · exact List.prefix_refl _

/- Teardowns (R397) -/

theorem release_keeps_sent : s.core.sent <+: (s.release c).core.sent := by
  have same := samePoints_of_settled (((s.clearOwn c).dropImages_settled c).trans
    ((unhold_settled _ c).trans (frames_settled _ (s.ctx c).tent)))
  unfold release
  have kept := heldAll_keeps_sent ((((s.clearOwn c).dropImages c).unhold c).frames (s.ctx c).tent)
  rw [same.core] at kept
  exact kept

/-- A teardown sends its cancel word from the points as they were. -/
theorem tearDown_word (why : Nat) :
    ∃ v, s.SamePoints v ∧ s.tearDown c why = ((v.sendCancel c 0 1 why 1).release c).downCheck c := by
  unfold tearDown
  cases s.step? c with
  | none => exact ⟨s.modCtx c _, ⟨rfl, rfl, rfl, rfl⟩, rfl⟩
  | some st =>
    have same := samePoints_of_sends (s.abortAll_sends c st 7)
    exact ⟨(s.abortAll c st 7).modCtx c _, ⟨same.glb, same.start, same.pitches, same.core⟩, rfl⟩

variable {s} in
theorem tearDown_sent (why : Nat) (high : (s.pt (s.firstPt s.glb.anchor)).down = false) :
    s.core.sent ++ [⟨s.firstPt s.glb.anchor, cancelWord c 0 1 why s.core.nextCancel⟩] <+: (s.tearDown c why).core.sent := by
  obtain ⟨v, same, down⟩ := s.tearDown_word c why
  rw [down, downCheck_core, ← sendCancel_sent c same high 0 1 why 1]
  exact release_keeps_sent ..

/- What a write of one to CANCEL does (R393) -/

section Cancel

variable {s c} (active : (s.ctx c).active = true)
include active

theorem cancelCtx_running (running : (s.ctx c).st = .running) : s.cancelCtx c = s.cancelStep c := by
  simp only [cancelCtx, active, running, Bool.not_true, Bool.false_eq_true, if_false, if_true]

theorem cancelCtx_waits (fetching : (s.ctx c).st = .fetching) (waits : (s.ctx c).waitEpoch = true) :
    s.cancelCtx c = s.modCtx c (fun x => { x with heldCancel := true }) := by
  simp [cancelCtx, active, fetching, waits]

theorem cancelCtx_nothing (stopped : (s.ctx c).st ≠ .running)
    (fetched : ¬ ((s.ctx c).st = .fetching ∧ (s.ctx c).waitEpoch = true)) : s.cancelCtx c = s := by
  simp only [cancelCtx, active, stopped, fetched, Bool.not_true, Bool.false_eq_true, if_false]

end Cancel

end State

section Commands

variable {s : State} {c : Nat} (opened : s.portOpen = true) (job : isJob c = true)
include opened job

theorem contextDisable_tears (enabled : (s.ctx c).enable = true) (up : (s.ctx c).tdown = false) :
    exec (.contextDisable c) s = .next ((s.tearDown c 2).ctlWrote c 0 0) := by
  refine congrArg Host.Outcome.next ((if_pos (by rw [opened, job]; rfl)).trans ?_)
  simp only [State.disableCtx, enabled, up, Bool.not_false, Bool.and_self, if_true]

theorem contextCancel_open : exec (.contextCancel c) s = .next ((s.cancelCtx c).ctlWrote c 1 1) :=
  congrArg Host.Outcome.next (if_pos (by rw [opened, job]; rfl))

/-- A cancel that is held changes its context as said, and neither the others nor the core port (R240, R393). -/
theorem contextCancel_held {u : State} {x : Ctx} (held : s.cancelCtx c = u) (self : u.ctx c = x)
    (others : ∀ d, d ≠ c → u.ctx d = s.ctx d) (core : u.core = s.core) :
    ∃ t, exec (.contextCancel c) s = .next t ∧ t.ctx c = x ∧ (∀ d, d ≠ c → t.ctx d = s.ctx d) ∧ t.core = s.core :=
  ⟨_, held ▸ contextCancel_open opened job, (u.ctlWrote_ctx c 1 1 c).trans self,
    fun d ne => (u.ctlWrote_ctx c 1 1 d).trans (others d ne), (u.ctlWrote_core c 1 1).trans core⟩

end Commands

/-- Settles O9: a disable by its teardown, a cancel by what the context is doing and what its step has open. -/
theorem contextDisableAndCancel : Obligations.ContextDisableAndCancel := by
  unfold Obligations.ContextDisableAndCancel
  refine ⟨fun c s opened job enabled up => ?disable, fun c s opened job active => ⟨fun st running step live going =>
    ⟨fun closed room => ?now, fun atom => ?atom, fun closed full => ?full⟩, fun fetching waits => ?waits,
    fun stopped fetched => ?nothing⟩⟩
  case disable =>
    obtain ⟨cancels, self⟩ := s.tearDown_ctx c 2
    refine ⟨_, contextDisable_tears opened job enabled up, rfl, ?_⟩
    rw [State.ctlWrote_ctx, State.ctlWrote_core, self]
    exact ⟨rfl, enabled, rfl, rfl, rfl, rfl, rfl, rfl, rfl, rfl, State.tearDown_sent c 2, cancels⟩
  case now =>
    have cancel := (State.cancelCtx_running active running).trans (State.cancelStep_now step live going closed room)
    obtain ⟨waits, st', step', same⟩ := s.cancelNow_step c st step
    refine ⟨_, contextCancel_open opened job, ?_⟩
    rw [cancel, State.ctlWrote_core]
    exact ⟨s.cancelNow_sent c st, waits, st', (congrArg Ctx.step (State.ctlWrote_ctx ..)).trans step',
      (congrArg Step.cancelled same :), (congrArg Step.desc same :), (congrArg Step.epoch same :)⟩
  case atom =>
    refine contextCancel_held opened job
      ((State.cancelCtx_running active running).trans (State.cancelStep_atom step live going atom)) ?_
      (fun d => s.holdCancel_others c false) (s.holdCancel_core c false)
    rw [State.holdCancel_self, Bool.or_false]
  case full =>
    refine contextCancel_held opened job
      ((State.cancelCtx_running active running).trans (State.cancelStep_full step live going closed full)) ?_
      (fun d => s.holdCancel_others c true) (s.holdCancel_core c true)
    rw [State.holdCancel_self, Bool.or_true]
  case waits =>
    exact contextCancel_held opened job (State.cancelCtx_waits active fetching waits) (s.ctx_modCtx_self ..)
      (fun d => s.ctx_modCtx_ne _) rfl
  case nothing =>
    rw [contextCancel_open opened job, State.cancelCtx_nothing active stopped fetched]

end Sys2Proof.Machine
end

section
/-! RETURN_CHUNK_LANDED (R236 to R238, R328): one equation per check of a return's tag and per row of the table of R328, what a
tag failure counts, and what a return that lands changes. -/

namespace Sys2Proof.Machine

namespace State

variable (s : State) (c : Nat)

/- Tag failures -/

/-- A tag failure is counted and is a detection (R236, R432). -/
def tagNoted : State := (s.count 0x40010 1).detect

/-- A tag failure of a context is noted among those of its last 2^20 ticks (R236). -/
def tagFailed : State := s.tagNoted.modCtx c (fun x => { x with
  tagFail := satAdd 16 x.tagFail 1
  tagTimes := s.el :: recent (2 ^ 20) s.el (s.ctx c).tagTimes })

theorem tagNoted_counts : s.tagNoted.rd 0x40010 = (s.rd 0x40010 + 1) % 2 ^ 32 := by
  unfold tagNoted
  rw [detect_rd _ (by decide), rd_count_ne _ _ (by decide), rd_count, if_pos rfl]

theorem tagNoted_detected : s.Detected s.tagNoted := by
  have detected := (s.count 0x40010 1).detect_detected
  unfold Detected at detected ⊢
  rwa [rd_count_ne _ _ (by decide)] at detected

theorem tagNoted_limit : s.tagNoted.rd 0x40008 = s.rd 0x40008 := by
  unfold tagNoted
  rw [detect_rd _ (by decide), rd_count_ne _ _ (by decide), rd_count_ne _ _ (by decide)]

theorem tagNoted_ctxs : s.tagNoted.ctxs = s.ctxs := (still_ctxs (detect_still _)).trans rfl

theorem tagFailed_self : (s.tagFailed c).ctx c = { s.ctx c with
    tagFail := min ((s.ctx c).tagFail + 1) 65535
    tagTimes := s.el :: recent (2 ^ 20) s.el (s.ctx c).tagTimes } := by
  unfold tagFailed
  rw [ctx_modCtx_self, ctx_of_ctxs s.tagNoted_ctxs]
  rfl

theorem tagFailed_others {d : Nat} (ne : d ≠ c) : (s.tagFailed c).ctx d = s.ctx d :=
  (ctx_modCtx_ne _ _ ne).trans (ctx_of_ctxs s.tagNoted_ctxs d)

/-- The failures of a context in the last 2^20 ticks with a new one (R236). -/
def tagFails : Nat := (recent (2 ^ 20) s.el (s.ctx c).tagTimes).length + 1

theorem badTag_eq : s.badTag c =
    if s.rd 0x40008 ≤ s.tagFails c then (s.tagFailed c).ctxFault c 0x0D else s.tagFailed c := by
  rw [← tagNoted_limit]
  rfl

variable {s c} in
theorem badTag_limit (limit : s.rd 0x40008 ≤ s.tagFails c) : s.badTag c = (s.tagFailed c).ctxFault c 0x0D :=
  (s.badTag_eq c).trans (if_pos limit)

variable {s c} in
theorem badTag_below (below : s.tagFails c < s.rd 0x40008) : s.badTag c = s.tagFailed c :=
  (s.badTag_eq c).trans (if_neg (Nat.not_le.mpr below))

theorem rd_badTag {a : Nat} (h : a ∉ faultRegs) : (s.badTag c).rd a = s.tagNoted.rd a := by
  rw [badTag_eq]
  split
  · exact rd_ctxFault_ne _ _ _ h
  · rfl

/- The checks of a return's tag -/

section Tag

variable {s} {fmt : Nat} {back : Bool} {rec_ : Bytes}

theorem takeReturn_steeped (steeped : tagSteeped (decCopyH rec_).tag = true) : s.takeReturn fmt back rec_ = s.count 0x7001C 1 :=
  if_pos steeped

variable (plain : tagSteeped (decCopyH rec_).tag = false)
include plain

theorem takeReturn_inactive (idle : (s.ctx (tagCtx (decCopyH rec_).tag)).active = false) :
    s.takeReturn fmt back rec_ = s.count porStale 1 := by
  simp only [takeReturn, plain, idle, Bool.not_false, Bool.false_eq_true, if_false, if_true]

variable (active : (s.ctx (tagCtx (decCopyH rec_).tag)).active = true)
include active

theorem takeReturn_foreign (foreign : tagSrc (decCopyH rec_).tag ≠ s.glb.chip) : s.takeReturn fmt back rec_ = s.tagNoted := by
  simp only [takeReturn, plain, active, Bool.not_true, Bool.false_eq_true, if_false]
  exact if_pos foreign

variable (own : tagSrc (decCopyH rec_).tag = s.glb.chip)
include own

theorem takeReturn_badTag
    (bad : tagCheck (s.ctx (tagCtx (decCopyH rec_).tag)).key (decCopyH rec_).tag ≠ (decCopyH rec_).tag % 256) :
    s.takeReturn fmt back rec_ = s.badTag (tagCtx (decCopyH rec_).tag) := by
  simp only [takeReturn, plain, active, own, Bool.not_true, Bool.false_eq_true, if_false, ne_eq, not_true_eq_false]
  exact if_pos bad

theorem takeReturn_own
    (good : tagCheck (s.ctx (tagCtx (decCopyH rec_).tag)).key (decCopyH rec_).tag = (decCopyH rec_).tag % 256) :
    s.takeReturn fmt back rec_ = s.pourReturn (tagCtx (decCopyH rec_).tag) (tagEpoch (decCopyH rec_).tag)
      (tagTok (decCopyH rec_).tag) (tagRank (decCopyH rec_).tag) fmt back rec_ := by
  simp only [takeReturn, plain, active, own, Bool.not_true, Bool.false_eq_true, if_false, ne_eq, not_true_eq_false]
  exact if_neg (not_not.mpr good)

end Tag

/- The drain of a cancelled epoch -/

theorem rd_drained_ne (e : Nat) {a : Nat} (h : a ∉ faultRegs) : (s.drained c e).rd a = s.rd a := by
  unfold drained heldAll
  exact foldl_keeps (·.rd a) _ (fun s c => rd_heldCheck_ne s c h) _ _

theorem rd_drainReturn_ne (e t r : Nat) {a : Nat} (h : a ∉ faultRegs) : (s.drainReturn c e t r).rd a = s.rd a := by
  unfold drainReturn
  split
  · rfl
  · dsimp only
    split
    · exact rd_drained_ne _ _ _ h
    · rfl

/- A return that lands -/

/-- `t` comes from `s` by what follows the landing of a row of context `c`: its step keeps its send list and its rows, and no other
context and no register changes. -/
structure Lands (s t : State) (c : Nat) : Prop where
  step : ∀ st, s.step? c = some st → ∃ st', t.step? c = some st' ∧ st'.rt = st.rt ∧ st'.por.rows = st.por.rows
  others : ∀ d, d ≠ c → t.ctx d = s.ctx d
  regs : t.regs = s.regs

variable {s c} in
theorem Lands.trans {t u : State} (h : s.Lands t c) (k : t.Lands u c) : s.Lands u c := by
  refine ⟨fun st step => ?_, fun d ne => (k.others d ne).trans (h.others d ne), k.regs.trans h.regs⟩
  obtain ⟨st', step', rt', rows'⟩ := h.step st step
  obtain ⟨st'', step'', rt'', rows''⟩ := k.step st' step'
  exact ⟨st'', step'', rt''.trans rt', rows''.trans rows'⟩

theorem lands_of_ctxs {t : State} (ctxs : t.ctxs = s.ctxs) (regs : t.regs = s.regs) : s.Lands t c :=
  ⟨fun st step => ⟨st, (congrArg Ctx.step (ctx_of_ctxs ctxs c)).trans step, rfl, rfl⟩, fun d _ => ctx_of_ctxs ctxs d, regs⟩

theorem modStep_lands (f : Step → Step) (keeps : ∀ st, (f st).rt = st.rt ∧ (f st).por.rows = st.por.rows) :
    s.Lands (s.modStep c f) c :=
  ⟨fun st step => ⟨f st, s.step_modStep f step, keeps st⟩, fun _ ne => ctx_modCtx_ne _ _ ne, rfl⟩

theorem memWrite_lands (d k a : Nat) (bs : Bytes) (w : MemWhy) : s.Lands (s.memWrite d k a bs w) c :=
  s.lands_of_ctxs c (memWrite_ctxs ..) (memWrite_regs ..)

theorem slotLanded_lands (t i : Nat) (row : Bytes) : s.Lands (s.slotLanded c t i row) c := by
  unfold slotLanded
  split
  · exact s.lands_of_ctxs c rfl rfl
  · dsimp only
    split
    · exact s.lands_of_ctxs c rfl rfl
    · refine Lands.trans ?_ (memWrite_lands ..)
      exact s.modStep_lands c _ fun _ => ⟨rfl, rfl⟩

theorem digest_lands (k i : Nat) (bs : Bytes) : s.Lands (s.digest c k i bs) c :=
  s.modStep_lands c _ fun st => by cases st.samp.rec_ <;> exact ⟨rfl, rfl⟩

theorem digestLines_lands (k off : Nat) (bs : Bytes) : s.Lands (s.digestLines c k off bs) c := by
  unfold digestLines
  generalize List.range _ = l
  induction l generalizing s with
  | nil => exact s.lands_of_ctxs c rfl rfl
  | cons i l ih => exact (s.digest_lands c _ _ _).trans (ih _)

theorem keepRow_lands (st : Step) (t r : Nat) (row : Bytes) : s.Lands (s.keepRow c st t r row) c := by
  unfold keepRow
  split
  · exact (s.memWrite_lands c _ _ _ _ _).trans (digestLines_lands ..)
  · exact s.lands_of_ctxs c rfl rfl

theorem chunkReturn_lands (e t r : Nat) : s.Lands (s.chunkReturn c e t r) c := s.lands_of_ctxs c rfl rfl

theorem progress_lands : s.Lands (s.progress c) c := s.modStep_lands c _ fun _ => ⟨rfl, rfl⟩

end State

/-- A step with the row of copy (`t`, `r`) landed at elapsed tick `el` (R237, R328). -/
def Step.withRow (st : Step) (t r : Nat) (row : Bytes) (el : Nat) : Step :=
  { st with
    rt := { st.rt with
      list := st.rt.list.map (fun e => if decide (e.e.t = t ∧ e.e.rank = r) then { e with ret := true } else e)
      outst := st.rt.outst - 1 }
    por := { st.por with rows := tput [] (t * 8 + r - 1) row st.por.rows }
    cnt := { st.cnt with quiet := el } }

/-- Every entry of the copy has had its return. -/
theorem Step.withRow_returned (st : Step) (t r : Nat) (row : Bytes) (el : Nat) :
    ∀ y ∈ (st.withRow t r row el).rt.list, y.e.t = t → y.e.rank = r → y.ret = true := by
  intro y hy token rank
  obtain ⟨x, -, rfl⟩ := List.mem_map.mp hy
  split at token
  · next hit => rw [if_pos hit]
  · next miss =>
    rw [if_neg miss] at rank
    exact absurd (decide_eq_true ⟨token, rank⟩) miss

/-- While other copies are out, what follows the row in its slot leaves it there (R268, R327, R338). -/
theorem State.landReturn_lands (s : State) (c : Nat) (st : Step) (t r : Nat) (row : Bytes) (more : st.rt.outst ≠ 1) :
    (s.modStep c (fun st => st.withRow t r row s.el)).Lands (s.landReturn c st t r row) c := by
  unfold State.landReturn
  dsimp only
  rw [if_neg more]
  exact (((State.slotLanded_lands _ c _ _ _).trans (State.keepRow_lands ..)).trans (State.chunkReturn_lands ..)).trans
    (State.progress_lands ..)

/- The table of R328 -/

section Pour

variable {s : State} {c e t r fmt : Nat} {back : Bool} {rec_ : Bytes}

theorem pourReturn_cancelled (cancelled : (s.ctx c).cancelled.contains e = true) :
    s.pourReturn c e t r fmt back rec_ = (s.count porCancel 1).drainReturn c e t r := if_pos cancelled

variable (valid : (s.ctx c).cancelled.contains e = false)
include valid

theorem pourReturn_stale (stale : (s.ctx c).tracked.contains e = false ∨ s.runs c e = none) :
    s.pourReturn c e t r fmt back rec_ = s.count porStale 1 := by
  unfold State.pourReturn
  rw [if_neg (by rw [valid]; exact Bool.false_ne_true)]
  split
  · rfl
  · next tracked =>
    rw [stale.resolve_left fun untracked => tracked (by rw [untracked]; rfl)]

variable (tracked : (s.ctx c).tracked.contains e = true) {st : Step} (runs : s.runs c e = some st)
include tracked runs

theorem pourReturn_tracked : s.pourReturn c e t r fmt back rec_ =
    if back ≠ decide (st.desc.kind = 3) ∨ fmt ≠ st.desc.payFmt ∨ rec_.length ≠ st.recBytes then s.count porBad 1
    else match st.rt.list.find? (fun x => decide (x.e.t = t ∧ x.e.rank = r) && x.snt) with
    | none => s.count porStray 1
    | some x =>
      if x.ret then s.count porDup 1
      else s.landReturn c st t r (sub rec_ 16 (rowBytes st.desc.payFmt st.bind.dir.d)) := by
  unfold State.pourReturn
  rw [valid, tracked, runs]
  rfl

theorem pourReturn_bad (bad : back ≠ decide (st.desc.kind = 3) ∨ fmt ≠ st.desc.payFmt ∨ rec_.length ≠ st.recBytes) :
    s.pourReturn c e t r fmt back rec_ = s.count porBad 1 :=
  (pourReturn_tracked valid tracked runs).trans (if_pos bad)

variable (kind : back = decide (st.desc.kind = 3)) (format : fmt = st.desc.payFmt) (length : rec_.length = st.recBytes)
include kind format length

theorem pourReturn_stray (stray : ∀ x ∈ st.rt.list, ¬ (x.e.t = t ∧ x.e.rank = r ∧ x.snt = true)) :
    s.pourReturn c e t r fmt back rec_ = s.count porStray 1 := by
  have unsent : st.rt.list.find? (fun x => decide (x.e.t = t ∧ x.e.rank = r) && x.snt) = none :=
    List.find?_eq_none.mpr fun x hx => by simpa [and_assoc] using stray x hx
  rw [pourReturn_tracked valid tracked runs, if_neg (by simp [kind, format, length]), unsent]

theorem pourReturn_sent {x : SendSt}
    (found : st.rt.list.find? (fun x => decide (x.e.t = t ∧ x.e.rank = r) && x.snt) = some x) :
    s.pourReturn c e t r fmt back rec_ = if x.ret then s.count porDup 1
      else s.landReturn c st t r (sub rec_ 16 (rowBytes st.desc.payFmt st.bind.dir.d)) := by
  rw [pourReturn_tracked valid tracked runs, if_neg (by simp [kind, format, length]), found]

end Pour

/-- Settles O54: by the checks of the tag, and then by the rows of the table of R328. -/
theorem returnsAreSorted : Obligations.ReturnsAreSorted := by
  unfold Obligations.ReturnsAreSorted
  refine ⟨fun l r s on landed => ?chunk, fun fmt back rec_ s => ⟨State.takeReturn_steeped, State.takeReturn_inactive,
    fun plain active foreign => ?foreign, fun plain active own bad => ?failed, fun plain active own good => ?sorted⟩⟩
  case chunk =>
    refine congrArg Host.Outcome.next ?_
    unfold returnChunkOp
    rw [on, landed]
    rfl
  case foreign =>
    rw [State.takeReturn_foreign plain active foreign]
    exact ⟨s.tagNoted_counts, s.tagNoted_detected, s.tagNoted_ctxs⟩
  case failed =>
    rw [State.takeReturn_badTag plain active own bad]
    generalize tagCtx (decCopyH rec_).tag = c at active
    refine ⟨(s.rd_badTag c (by decide)).trans s.tagNoted_counts, (s.rd_badTag c (by decide)).trans s.tagNoted_detected,
      fun limit job => ?_, fun below => ?_⟩
    · have still : ((s.tagFailed c).ctx c).active = true := by
        rw [State.tagFailed_self]
        exact active
      obtain ⟨fault, tdown, -⟩ := (s.tagFailed c).ctxFault_ctx c 0x0D job still
      rw [State.badTag_limit limit]
      exact ⟨fault, tdown⟩
    · rw [State.badTag_below below, State.tagFailed_self]
      exact ⟨rfl, rfl, fun d ne => s.tagFailed_others c ne⟩
  case sorted =>
    rw [State.takeReturn_own plain active own good]
    generalize tagCtx (decCopyH rec_).tag = c
    refine ⟨fun cancelled => ?cancelled, pourReturn_stale, fun st valid tracked runs => ⟨pourReturn_bad valid tracked runs,
      fun kind format length => ⟨pourReturn_stray valid tracked runs kind format length, fun x found => ?sent⟩⟩⟩
    case cancelled =>
      rw [pourReturn_cancelled cancelled, State.rd_drainReturn_ne _ _ _ _ _ (by decide), State.rd_count, if_pos rfl]
    case sent =>
      rw [pourReturn_sent valid tracked runs kind format length found]
      refine ⟨fun twice => if_pos twice, fun first more => ?_⟩
      rw [if_neg (by simp [first])]
      have lands := s.landReturn_lands c st (tagTok (decCopyH rec_).tag) (tagRank (decCopyH rec_).tag)
        (sub rec_ 16 (rowBytes st.desc.payFmt st.bind.dir.d)) more
      obtain ⟨st', step, rt, rows⟩ := lands.step _ (s.step_modStep _ (step_of_runs runs))
      refine ⟨st', step, ?_, ?_, ?_, fun d ne => (lands.others d ne).trans (State.ctx_modCtx_ne _ _ ne),
        fun a _ => State.rd_of_regs _ lands.regs a⟩
      · rw [rt]
        rfl
      · rw [rows]
        exact tget_tput_self ..
      · rw [rt]
        exact st.withRow_returned _ _ _ _

end Sys2Proof.Machine
end

section
/-! REPLAY_QUIET_EXPIRE (R425, R432) while the Lantern queue's tail registers are full (R456, R457): the detection that advises a
checkpoint (R446) records an event, and the event spills the oldest tail entry to the Bivouac, which is a memory request. -/

namespace Sys2Proof.Machine

/-- A launched step whose one copy has been sent and has not come back. -/
def copyOut : Step :=
  { desc := { (default : Desc) with ver := 2, kind := 1 }
    epoch := 3
    launched := true
    rt := { alloc := true, outst := 1, list := [{ e := ⟨9, 0, 0, 0, 0, 1, false, false⟩, snt := true }] } }

/-- Eighty events of level 1 with the Bivouac in service: the level's head share is full with 16 of them, the tail registers with
the other 64. -/
def tailFull : Lnt :=
  { ents := (List.range 80).map (fun i => ⟨i, 1, entryWords 0x40 0 0 0 0 0, if i < 16 then .head else .tail, 0⟩)
    nextId := 80
    biv := true }

/-- Context 5 runs that step; its replay timer has run out, and one detection more is to advise a checkpoint. -/
def replayDue : State :=
  { State.reset with
    regs := [(0xC001C, 1)]
    clk := { State.reset.clk with el := 0xFFFFFFFF }
    lnt := tailFull
    start := { StartSt.reset with phase := .done, started := 15 }
    ctxs := [(5, { enable := true, st := .running, epoch := 3, tracked := [3], step := some copyOut })] }

theorem replayDue_ok : replayDue.Ok := by constructor <;> decide

/-- The spill of the oldest tail entry waits for memory (R457). -/
theorem replayOp_spills : (replayOp 5 replayDue).mem.wait.length = 1 := by decide +kernel

/-- Refutes O59: in `replayDue`, REPLAY_QUIET_EXPIRE leaves a memory request that waits, while the statement has memory stay as it
was. -/
theorem not_pullsReplaysAndStalls : ¬ Obligations.PullsReplaysAndStalls := by
  unfold Obligations.PullsReplaysAndStalls
  rintro ⟨-, replays, -, -⟩
  obtain ⟨due, -⟩ := replays 5 copyOut replayDue (by decide) (by decide) (by decide) rfl rfl (by decide) (by decide)
  obtain ⟨t, -, run, -, -, -, -, -, -, -, frame⟩ := due (by decide)
  obtain rfl : replayOp 5 replayDue = t := Host.Outcome.next.inj run
  have stays := congrArg State.mem frame
  have spilled := replayOp_spills
  rw [stays] at spilled
  exact absurd spilled (by decide)

end Sys2Proof.Machine
end

section
/-! CHAIN_PUT, CHAIN_GET, CHAIN_COLLECTIVE, CHAIN_COUNTER_ADD and CHAIN_CUE (R267, R270, R277, R281): what an agent's taking of a
chain changes, and one equation per outcome of each command. -/

namespace Sys2Proof.Machine

/-- A step whose chain `i` an agent has taken at elapsed tick `el`, with `left` bytes awaited (R267). -/
def Step.chainTaken (st : Step) (i left el : Nat) : Step :=
  { st with chains := st.chains.zipIdx.map (fun p => if p.2 = i then { p.1 with st := 2, left := left, at_ := el } else p.1) }

theorem Step.chainTaken_chain {st : Step} {i left el : Nat} {ch : Chn} (chain : st.chains[i]? = some ch) :
    (st.chainTaken i left el).chains[i]? = some { ch with st := 2, left := left, at_ := el } := by
  simp [Step.chainTaken, chain]

namespace State

/-- `t` comes from `s` by an agent's taking of chain `i` of context `c` (R267), and what the transfer charges. -/
structure ChainTaken (s t : State) (c i left : Nat) : Prop where
  chain : ∃ st' ch', t.step? c = some st' ∧ st'.chains[i]? = some ch' ∧ ch'.st = 2 ∧ ch'.left = left
  active : (t.ctx c).active = true
  others : ∀ d, d ≠ c → t.ctx d = s.ctx d
  xch : t.xch = { s.xch with fired := s.xch.fired.filter (fun f => decide (f ≠ (c, i))) }
  rest : t = { s with ctxs := t.ctxs, pitches := t.pitches, xch := t.xch }

section

variable {s t : State} {c i op left : Nat} {st : Step} {ch : Chn}

theorem ctxs_of_sends (sends : s.Sends t) : t.ctxs = s.ctxs := by
  unfold Sends at sends
  rw [sends]

/-- A message for this chip arrives at once (R286). -/
theorem sendShort_own {e d m fin : Nat} {pay : Bytes} (own : d = s.glb.chip) : s.sendShort c e d m pay fin =
    { s with xch := { s.xch with shorts := s.xch.shorts ++ [⟨d, c, e, pay⟩] } } := if_pos own

/-- What an agent's taking of a chain needs (R267). -/
theorem chainGo_some (go : s.chainGo c i op = some (st, ch)) :
    s.step? c = some st ∧ st.chains[i]? = some ch ∧ (s.ctx c).active = true := by
  unfold chainGo at go
  split at go
  · cases go
  · next step =>
    split at go
    · cases go
    · next chain =>
      split at go
      · next may =>
        cases go
        simp only [Bool.and_eq_true] at may
        obtain ⟨⟨⟨-, active⟩, -⟩, -⟩ := may
        exact ⟨step, chain, active⟩
      · cases go

theorem chainStart_taken (go : s.chainGo c i op = some (st, ch)) (left : Nat) : s.ChainTaken (s.chainStart c i left) c i left := by
  obtain ⟨step, chain, active⟩ := chainGo_some go
  refine ⟨⟨_, _, step_modStep _ _ (show (s.modXch _).step? c = some st from step), Step.chainTaken_chain chain, rfl, rfl⟩, ?_,
    fun d ne => ctx_modCtx_ne _ _ ne, rfl, rfl⟩
  unfold chainStart modStep
  rw [ctx_modCtx_self]
  exact active

theorem ChainTaken.charged {u : State} (taken : s.ChainTaken t c i left) (charged : t.Charged u c) : s.ChainTaken u c i left := by
  obtain ⟨⟨st', ch', step, chain⟩, active, others, xch, rest⟩ := taken
  refine ⟨⟨st', ch', (step_of_charged charged c).trans step, chain⟩, active_of_charged charged active,
    fun d ne => (charged.others d ne).trans (others d ne), ?_, ?_⟩
  · rw [charged.rest]
    exact xch
  · rw [charged.rest, rest]

theorem ChainTaken.not_fired (taken : s.ChainTaken t c i left) : (c, i) ∉ t.xch.fired := by
  rw [taken.xch]
  simp

theorem ChainTaken.keepsRegs (taken : s.ChainTaken t c i left) : s.KeepsRegs t [] := fun a _ => by
  rw [taken.rest]
  rfl

end

end State

section Commands

variable {s : State} {c i : Nat} {st : Step} {ch : Chn}

theorem chainPut_eq {hv : HostView} (go : s.chainGo c i 1 = some (st, ch)) : exec (.chainPut c i hv) s = .next (
    if ch.c.len = 0 then (s.chainStart c i ch.c.len).chainDone c i
    else if hv.fault ≠ 0 then (s.chainStart c i ch.c.len).ctxFault c hv.fault
    else ((s.chainStart c i ch.c.len).chargeRead c ch.c.cls ch.c.laddr ch.c.len).postPieces
      (cutPieces ⟨c, st.epoch, ch.c.peer, false, 4, vcOfCls ch.c.cls false, ch.c.cls, 0, 0, [], i⟩ ch.c.raddr
        (hv1 hv ch.c.laddr ch.c.len))) := by
  refine congrArg Host.Outcome.next ?_
  unfold chainPutOp
  rw [go]

theorem chainGet_eq (go : s.chainGo c i 2 = some (st, ch)) : exec (.chainGet c i) s = .next (
    if ch.c.len = 0 then (s.chainStart c i ch.c.len).chainDone c i
    else (s.chainStart c i ch.c.len).postPieces [⟨c, st.epoch, ch.c.peer, false, 5, vcOfCls ch.c.cls false, ch.c.cls, ch.c.raddr, 0,
      getReq ch.c.len ch.c.laddr, 256⟩]) := by
  refine congrArg Host.Outcome.next ?_
  unfold chainGetOp
  rw [go]

theorem chainCounterAdd_eq (go : s.chainGo c i 4 = some (st, ch)) : exec (.chainCounterAdd c i) s = .next (
    let u := (s.chainStart c i 0).sendShort c st.epoch ch.c.peer st.bind.mver (addMsg i ch.c) (i + 1)
    if ch.c.peer = u.glb.chip then u.chainDone c i else u) := by
  refine congrArg Host.Outcome.next ?_
  unfold chainAddOp
  rw [go]

/-- A command of a chain whose op is another, or that no agent takes now, changes nothing (R267). -/
theorem chainCommand_idle {op : Nat} (hv : HostView) (ops : op = 1 ∨ op = 2 ∨ op = 3 ∨ op = 4 ∨ op = 5)
    (idle : s.chainGo c i op = none) :
    exec (if op = 1 then .chainPut c i hv else if op = 2 then .chainGet c i else if op = 3 then .chainCollective c i hv
      else if op = 4 then .chainCounterAdd c i else .chainCue c i hv) s = .next s := by
  rcases ops with rfl | rfl | rfl | rfl | rfl
  · exact congrArg Host.Outcome.next (show chainPutOp c i hv s = s by rw [chainPutOp, idle])
  · exact congrArg Host.Outcome.next (show chainGetOp c i s = s by rw [chainGetOp, idle])
  · exact congrArg Host.Outcome.next (show chainCollOp c i hv s = s by rw [chainCollOp, idle])
  · exact congrArg Host.Outcome.next (show chainAddOp c i s = s by rw [chainAddOp, idle])
  · exact congrArg Host.Outcome.next (show chainCueOp c i hv s = s by rw [chainCueOp, idle])

/-- A collective chain with its agent, charged for its descriptor (R281). -/
def State.collFetched (s : State) (c i : Nat) (ch : Chn) : State := (s.chainStart c i 0).chargeRead c 1 ch.c.raddr 32

/-- The same once its input has been read, which an all-reduce does on its rings. -/
def State.collRead (s : State) (c i : Nat) (ch : Chn) (cd : CollDesc) : State :=
  if cd.cop = 3 then s.collFetched c i ch
  else (s.collFetched c i ch).chargeRead c 0 cd.inAddr (if cd.cop = 1 then 0 else cd.n * tyBytes cd.ity)

theorem collFetched_taken (go : s.chainGo c i 3 = some (st, ch)) : s.ChainTaken (s.collFetched c i ch) c i 0 :=
  (State.chainStart_taken go 0).charged (State.chargeRead_charged ..)

theorem collRead_taken (go : s.chainGo c i 3 = some (st, ch)) (cd : CollDesc) : s.ChainTaken (s.collRead c i ch cd) c i 0 := by
  unfold State.collRead
  split
  · exact collFetched_taken go
  · exact (collFetched_taken go).charged (State.chargeRead_charged ..)

theorem chainCollective_eq {hv : HostView} (go : s.chainGo c i 3 = some (st, ch)) (fault : hv.fault = 0) :
    exec (.chainCollective c i hv) s = .next (
    match readChecked hv ch.c.raddr 32 with
    | none => (s.collFetched c i ch).ctxFault c 0x08
    | some b =>
      let cd := parseColl b
      if collOk cd = false then (s.collFetched c i ch).ctxFault c 0x08
      else if collGroupOk (mkGrp ch.word s.torus s.own st.bind.tab) cd.up = false then (s.collFetched c i ch).ctxFault c 0x12
      else (s.collRead c i ch cd).openColl c
        (collInst i ch cd st.bind.mver (hv1 hv cd.inAddr (if cd.cop = 1 then 0 else cd.n * tyBytes cd.ity)))) := by
  have glb : (s.collFetched c i ch).glb = s.glb := by rw [(collFetched_taken go).rest]
  have torus : (s.collFetched c i ch).torus = s.torus := by rw [State.torus, glb]; rfl
  have own : (s.collFetched c i ch).own = s.own := by rw [State.own, glb]; rfl
  refine congrArg Host.Outcome.next ?_
  rw [← torus, ← own]
  unfold chainCollOp
  rw [go]
  exact if_neg (not_not.mpr fault)

/- The cue of a chain -/

namespace State

theorem firstPt_congr {t : State} (up : ∀ a, t.ptUp a = s.ptUp a) (p : Nat) : t.firstPt p = s.firstPt p := by
  unfold firstPt ptsOf
  rw [show t.ptUp = s.ptUp from funext up]

theorem held_modPitch (s : State) (p q : Nat) {f : Pitch → Pitch} (keeps : ∀ x, (f x).held = x.held) :
    ((s.modPitch p f).pitch q).held = (s.pitch q).held := by
  by_cases e : q = p
  · subst e
    rcases Nat.lt_or_ge q s.pitches.length with lt | ge
    · rw [s.pitch_modPitch_self f lt, keeps]
    · show ((lset q _ s.pitches).getD q _).held = _
      rw [lset_past _ ge]
      rfl
  · rw [s.pitch_modPitch_ne f e]

/-- A charge of energy stops no point (R391). -/
theorem ptUp_energy (s : State) (p c k n a : Nat) : (s.energy p c k n).ptUp a = s.ptUp a := by
  have held : ((s.energy p c k n).pitch (a / 8)).held = (s.pitch (a / 8)).held := by
    unfold energy
    exact held_modPitch _ p (a / 8) fun _ => rfl
  unfold ptUp pitchUp
  rw [held]
  rfl

theorem ptUp_chargeRead (s : State) (c k a n b : Nat) : (s.chargeRead c k a n).ptUp b = s.ptUp b := by
  unfold chargeRead
  split
  · rfl
  · exact ptUp_energy ..

theorem allocPitch_charged {t : State} {c d : Nat} (charged : s.Charged t c) : t.allocPitch d = s.allocPitch d := by
  have tent : (t.ctx d).tent = (s.ctx d).tent := by
    by_cases e : d = c
    · rw [e, charged.self]
    · rw [charged.others d e]
  unfold allocPitch tentOf tentWord
  rw [tent, rd_of_charged charged, charged.rest]

theorem allocPitch_modStep (s : State) (c d : Nat) (f : Step → Step) : (s.modStep c f).allocPitch d = s.allocPitch d := by
  have tent : ((s.modStep c f).ctx d).tent = (s.ctx d).tent := by
    unfold modStep
    rw [ctx_modCtx]
    split
    · next e => rw [e]
    · rfl
  unfold allocPitch tentOf tentWord
  rw [tent]
  rfl

/-- A cue chain with its agent, charged for the bytes of its cue (R270). -/
def cueRead (s : State) (c i : Nat) (ch : Chn) : State := (s.chainStart c i 0).chargeRead c ch.c.cls ch.c.laddr 36

theorem cueRead_point (s : State) (c i : Nat) (ch : Chn) :
    (s.cueRead c i ch).firstPt ((s.cueRead c i ch).allocPitch c) = s.firstPt (s.allocPitch c) := by
  have charged : (s.chainStart c i 0).Charged (s.cueRead c i ch) c := chargeRead_charged ..
  rw [allocPitch_charged charged, firstPt_congr (s := s) (t := s.cueRead c i ch) fun a => ptUp_chargeRead ..]
  exact congrArg s.firstPt (allocPitch_modStep (s.modXch _) c c _)

theorem sendPacket_rest (s : State) (a c : Nat) (bs : Bytes) (bulk : Bool) : s.sendPacket a c bs bulk = { s with
    ctxs := (s.sendPacket a c bs bulk).ctxs
    pitches := (s.sendPacket a c bs bulk).pitches
    core := (s.sendPacket a c bs bulk).core } := by
  obtain ⟨charged, packet⟩ := s.sendPacket_charged a c bs bulk
  rw [charged.rest, packet]

end State

theorem chainCue_eq {hv : HostView} (go : s.chainGo c i 5 = some (st, ch)) (fault : hv.fault = 0) :
    exec (.chainCue c i hv) s = .next ((s.cueRead c i ch).sendPacket (s.firstPt (s.allocPitch c)) c
      (cueBytes c st.epoch (s.firstPt (s.allocPitch c)) i (hv1 hv ch.c.laddr 36)) false) := by
  refine congrArg Host.Outcome.next ?_
  rw [← s.cueRead_point c i ch]
  unfold chainCueOp
  rw [go]
  exact if_neg (not_not.mpr fault)

end Commands

/-- Settles O44: command by command, by what its chain's agent is given to do. -/
theorem chainsRun : Obligations.ChainsRun := by
  unfold Obligations.ChainsRun
  refine ⟨fun c i hv st ch s => ⟨fun go fault some_ => ?put, fun go empty => ?putEmpty, fun go empty => ?getEmpty,
    fun go some_ => ?get, fun op ops idle => chainCommand_idle hv ops idle⟩,
    fun c i hv st ch s job => ⟨fun go fault => ?collective, fun go => ?add, fun go fault => ?cue⟩⟩
  case put =>
    have run := chainPut_eq (hv := hv) go
    rw [if_neg some_, if_neg (not_not.mpr fault)] at run
    have taken := (State.chainStart_taken go ch.c.len).charged (State.chargeRead_charged _ c ch.c.cls ch.c.laddr ch.c.len)
    generalize (s.chainStart c i ch.c.len).chargeRead c ch.c.cls ch.c.laddr ch.c.len = v at run taken
    have xfers : v.xch.xfers = s.xch.xfers := by rw [taken.xch]
    refine ⟨_, run, congrArg (· ++ _) xfers, taken.not_fired, taken.chain, taken.others, taken.keepsRegs, ?_⟩
    rw [taken.rest, taken.xch]
    rfl
  case putEmpty =>
    rw [chainPut_eq go, if_pos empty, empty]
  case getEmpty =>
    rw [chainGet_eq go, if_pos empty, empty]
  case get =>
    have run := chainGet_eq go
    rw [if_neg some_] at run
    have taken := State.chainStart_taken go ch.c.len
    exact ⟨_, run, rfl, taken.not_fired, taken.chain, taken.others, taken.keepsRegs, rfl⟩
  case collective =>
    have run := chainCollective_eq go fault
    have active := (collFetched_taken go).active
    have faults (code : Nat) := (s.collFetched c i ch).ctxFault_ctx c code job active
    refine ⟨fun none_ => ?_, fun b read => ⟨fun bad => ?_, fun good refused => ?_, fun good group => ?_⟩⟩
    · obtain ⟨code, tdown, -⟩ := faults 0x08
      rw [none_] at run
      exact ⟨_, run, code, tdown⟩
    · obtain ⟨code, tdown, -⟩ := faults 0x08
      rw [read] at run
      exact ⟨_, run.trans (congrArg _ (if_pos bad)), code, tdown⟩
    · obtain ⟨code, tdown, -⟩ := faults 0x12
      rw [read] at run
      exact ⟨_, run.trans (congrArg _ ((if_neg (by simp [good])).trans (if_pos refused))), code, tdown⟩
    · have taken := collRead_taken go (parseColl b)
      obtain ⟨st', ch', step, chain, runs, -⟩ := taken.chain
      rw [read] at run
      refine ⟨_, run.trans (congrArg _ ((if_neg (by simp [good])).trans (if_neg (by simp [group])))), ⟨st', ch', step, chain, runs⟩,
        taken.others, taken.keepsRegs, ?_, ?_⟩
      · rw [taken.xch]
      · rw [taken.rest]
  case add =>
    have run := chainCounterAdd_eq go
    have taken := State.chainStart_taken go 0
    obtain ⟨st', ch', step, chain, runs, -⟩ := taken.chain
    have sends := (s.chainStart c i 0).sendShort_sends c st.epoch ch.c.peer st.bind.mver (addMsg i ch.c) (i + 1)
    have glb := (samePoints_of_sends sends).glb
    refine ⟨fun other => ?_, fun own => ?_⟩
    · exact ⟨_, run.trans (congrArg _ (if_neg (glb ▸ other))), ⟨st', ch', step, chain, runs⟩, rfl⟩
    · refine ⟨_, run.trans (congrArg _ (if_pos (own.trans (congrArg Glb.chip glb.symm)))), ?_, st', ch', ?_, chain, runs⟩
      · rw [State.sendShort_own (s := s.chainStart c i 0) own, own]
        rfl
      · exact (congrArg Ctx.step (State.ctx_of_ctxs (State.ctxs_of_sends sends) c)).trans step
  case cue =>
    have taken : s.ChainTaken (s.cueRead c i ch) c i 0 := (State.chainStart_taken go 0).charged (State.chargeRead_charged ..)
    obtain ⟨st', ch', step, chain, runs, -⟩ := taken.chain
    have core : (s.cueRead c i ch).core = s.core := by rw [taken.rest]
    refine ⟨_, chainCue_eq go fault, fun high => ?_, ⟨st', ch', (State.sendPacket_step ..).trans step, chain, runs⟩,
      fun d ne => (State.sendPacket_others _ _ _ ne).trans (taken.others d ne),
      fun x hx => (State.rd_sendPacket ..).trans (taken.keepsRegs x hx), ?_⟩
    · rw [State.sendPacket_core, State.coreSend_sent, core]
      unfold State.pt
      rw [core]
      exact high
    · rw [State.sendPacket_rest, taken.rest, taken.xch]

end Sys2Proof.Machine
end

section
/-! PUT_DATA_CHUNK, BACKGROUND_COPY_CHUNK, REQUEST_CHUNK and GET_DATA_CHUNK (R265, R270, R445, R447, R491): the landed chunk that
is taken, the raw data that are written, and one equation per outcome of each command. -/

namespace Sys2Proof.Machine

namespace State

variable {s u : State} {k : Nat} {l : Landed}

/-- The state with `r` as what is left of its inbox. -/
def inboxLeft (s : State) (r : List Landed) : State := s.modXch (fun x => { x with inbox := r })

/-- The oldest landed chunk of a kind leaves the inbox, and nothing else changes. -/
theorem takeChunkOf_some (took : s.takeChunkOf k = some (l, u)) :
    ∃ r, r.length + 1 = s.xch.inbox.length ∧ u = s.inboxLeft r := by
  unfold takeChunkOf at took
  split at took
  · cases took
  · next first =>
    cases took
    exact ⟨_, ltake_length first, rfl⟩

theorem memWrite_wait (s : State) (c k a : Nat) (bs : Bytes) (w : MemWhy) : (s.memWrite c k a bs w).mem.wait =
    s.mem.wait ++ numbered s.mem.nextId (writeReqs c k w (ceilDiv bs.length 4096) a bs) := posts_wait ..

theorem memWrite_rest (s : State) (c k a : Nat) (bs : Bytes) (w : MemWhy) : s.memWrite c k a bs w = { s with
    xch := (s.memWrite c k a bs w).xch
    mem := { s.mem with wait := (s.memWrite c k a bs w).mem.wait, nextId := (s.memWrite c k a bs w).mem.nextId } } := by
  refine (posts_rest _ s).trans ?_
  show { s with mem := (s.memWrite c k a bs w).mem } = _
  rw [memWrite_xch, memWrite_mem]

/-- Whole lines are written in requests of at most 64 lines. -/
theorem rawWrite_lines (s : State) (c cls id : Nat) (line : l.ch.addr % 64 = 0) (whole : l.data.length % 64 = 0) :
    s.rawWrite l c cls id = s.memWrite c cls l.ch.addr l.data ⟨.putOut, id⟩ := if_pos ⟨line, whole⟩

/-- A job context that takes traffic from the links is active (R398). -/
theorem active_of_takes {c : Nat} (takes : s.takes c = true) (job : c ≠ 0) : (s.ctx c).active = true := by
  simpa [State.takes, job] using takes

/-- The puts whose data context 0 receives, each chunk one of its own. -/
def rxNoted (s : State) (l : Landed) (c idx : Nat) : State := s.modXch (fun x => { x with
  rxPuts := x.rxPuts ++ [⟨x.nextPut, c, l.epoch, l.src, idx, l.up, l.data.length, l.data.length⟩]
  nextPut := x.nextPut + 1 })

theorem rxWrite_eq (s : State) (l : Landed) (c cls idx : Nat) :
    s.rxWrite l c cls idx = (s.rxNoted l c idx).rawWrite l c cls s.xch.nextPut := rfl

/-- The received put that a chunk of raw data belongs to (R270). -/
def putMine (s : State) (l : Landed) (p : RxPut) : Bool :=
  decide (p.ctx = l.ctx ∧ p.epoch = l.epoch ∧ p.src = l.src ∧ p.idx = (s.putRef l).1 ∧ p.up = l.up)

theorem putWrite_first (fresh : s.xch.rxPuts.find? (s.putMine l) = none) : s.putWrite l = (s.modXch (fun x => { x with
    rxPuts := x.rxPuts ++ [⟨x.nextPut, l.ctx, l.epoch, l.src, (s.putRef l).1, l.up, l.data.length, (s.putRef l).2⟩]
    nextPut := x.nextPut + 1 })).rawWrite l l.ctx (clsOfVc l.vc) s.xch.nextPut := by
  unfold putWrite
  dsimp only
  split
  · next found => exact absurd (found.symm.trans fresh) (by simp)
  · rfl

theorem putWrite_next {p : RxPut} (known : s.xch.rxPuts.find? (s.putMine l) = some p) : s.putWrite l = (s.modXch (fun x => { x with
    rxPuts := x.rxPuts.map (fun q => if q = p then { p with got := p.got + l.data.length } else q) })).rawWrite l l.ctx
      (clsOfVc l.vc) p.id := by
  unfold putWrite
  dsimp only
  split
  · next found =>
    cases found.symm.trans known
    rfl
  · next fresh => exact absurd (known.symm.trans fresh) (by simp)

end State

/- Commands -/

section Commands

variable {s u : State} {l : Landed} (on : s.on = true)
include on

theorem putData_eq (took : s.takeChunkOf 4 = some (l, u)) : exec .putDataChunk s = .next (
    if u.takes l.ctx = false then u
    else if u.fenceOk l.ctx l.ch.addr l.data.length rightRput = false then u.ctxFault l.ctx 0x05
    else if l.ctx = 0 then u.rxWrite l 0 (clsOfVc l.vc) 256
    else u.putWrite l) := by
  refine congrArg Host.Outcome.next ?_
  rw [putDataOp, on, took]
  simp only [Bool.not_true, Bool.false_eq_true, if_false, Bool.not_eq_true']

theorem backCopy_eq (took : s.takeChunkOf 8 = some (l, u)) : exec .backgroundCopyChunk s = .next (u.rxWrite l 0 3 0xFFFF) := by
  refine congrArg Host.Outcome.next ?_
  rw [backCopyOp, on, took]
  rfl

theorem getRequest_eq {hv : HostView} (took : s.takeChunkOf 5 = some (l, u)) (takes : u.takes l.ctx = true)
    (get : fld l.data 0 1 = 1) : exec (.requestChunk hv) s = .next (
    if u.fenceOk l.ctx l.ch.addr (fld l.data 4 4) rightRget = false then u.ctxFault l.ctx 0x05
    else if hv.fault ≠ 0 then u.ctxFault l.ctx hv.fault
    else (u.chargeRead l.ctx (clsOfVc l.vc) l.ch.addr (fld l.data 4 4)).postPieces
      (cutPieces ⟨l.ctx, l.epoch, l.src, false, 6, vcOfCls (clsOfVc l.vc) true, clsOfVc l.vc, 0, 0, [], 256⟩ (fld l.data 8 8)
        (hv1 hv l.ch.addr (fld l.data 4 4)))) := by
  refine congrArg Host.Outcome.next ?_
  rw [requestOp, on, took]
  simp only [takes, get, Bool.not_true, Bool.false_eq_true, if_false, if_true, Bool.not_eq_true']

theorem pullRequest_eq {hv : HostView} (took : s.takeChunkOf 5 = some (l, u)) (takes : u.takes l.ctx = true)
    (pull : fld l.data 0 1 = 2) : exec (.requestChunk hv) s = .next (u.pullAnswer l hv) := by
  refine congrArg Host.Outcome.next ?_
  rw [requestOp, on, took]
  simp only [takes, pull, Bool.not_true, Bool.false_eq_true, if_false, if_true, Nat.reduceEqDiff]

/-- The step whose running get `i` awaits `n` bytes less. -/
def Step.getLess (st : Step) (i n : Nat) : Step :=
  { st with chains := st.chains.zipIdx.map (fun p => if p.2 = i then { p.1 with left := p.1.left - n } else p.1) }

theorem getData_eq {st : Step} {i : Nat} (took : s.takeChunkOf 6 = some (l, u)) (active : (u.ctx l.ctx).active = true)
    (runs : u.runs l.ctx l.epoch = some st) (get : st.getOf l = some i) : exec .getDataChunk s = .next (
    (u.modStep l.ctx (fun st => st.getLess i l.data.length)).memWrite l.ctx (clsOfVc l.vc) l.ch.addr l.data
      ⟨.getOut, l.epoch * 256 + i⟩) := by
  refine congrArg Host.Outcome.next ?_
  rw [getDataOp, on, took]
  simp only [active, runs, get, Bool.not_true, Bool.false_eq_true, if_false, if_true]
  rfl

theorem getData_none (took : s.takeChunkOf 6 = some (l, u))
    (none_ : (u.ctx l.ctx).active = false ∨
      u.runs l.ctx l.epoch = none ∨ ∃ st, u.runs l.ctx l.epoch = some st ∧ st.getOf l = none) :
    exec .getDataChunk s = .next u := by
  refine congrArg Host.Outcome.next ?_
  rw [getDataOp, on, took]
  rcases none_ with idle | ended | ⟨st, runs, other⟩
  · simp only [idle, Bool.not_true, Bool.false_eq_true, if_false]
  · simp only [ended, Bool.not_true, Bool.false_eq_true, if_false, ite_self]
  · simp only [runs, Bool.not_true, Bool.false_eq_true, if_false]
    split
    · rfl
    · next step =>
      split at step
      · cases step
        rw [other]
      · cases step

end Commands

/-- A pull for an epoch that the owner knows no step of is the weight-version fault (R265). -/
theorem pullAnswer_unknown {s : State} {l : Landed} (hv : HostView) (unknown : ∀ p ∈ (s.ctx l.ctx).past, p.1 ≠ l.epoch) :
    s.pullAnswer l hv = s.ctxFault l.ctx 0x11 := by
  unfold State.pullAnswer
  rw [List.find?_eq_none.mpr fun p mem => by simpa using unknown p mem]

/-- The running get that the data belong to awaits them still; it awaits less by as much once they are there. -/
theorem Step.getLess_chain {st : Step} {l : Landed} {i : Nat} (get : st.getOf l = some i) : ∃ ch ch', st.chains[i]? = some ch ∧
    (st.getLess i l.data.length).chains[i]? = some ch' ∧ ch'.left + l.data.length = ch.left := by
  obtain ⟨lt, fits, -⟩ := List.findIdx?_eq_some_iff_getElem.mp get
  simp only [decide_eq_true_eq] at fits
  obtain ⟨-, -, -, -, -, awaited⟩ := fits
  have chain : st.chains[i]? = some st.chains[i] := List.getElem?_eq_getElem lt
  refine ⟨st.chains[i], { st.chains[i] with left := st.chains[i].left - l.data.length }, chain, ?_, Nat.sub_add_cancel awaited⟩
  simp [Step.getLess, chain]

/-- Settles O46: command by command, by whether the data may be taken and where they are written. -/
theorem chainTrafficAtThePeer : Obligations.ChainTrafficAtThePeer := by
  unfold Obligations.ChainTrafficAtThePeer
  refine ⟨⟨fun l s u on took => ?puts, fun l s u on took => ?background⟩,
    ⟨fun hv l s u on took takes => ?requests, fun l s u on took => ?gets⟩⟩
  all_goals obtain ⟨r, shorter, rfl⟩ := State.takeChunkOf_some took
  case puts =>
    have run := putData_eq on took
    refine ⟨fun takes fence => ?_, fun deaf => ?_, fun takes job outside => ?_⟩
    · have run : exec .putDataChunk s = .next _ := run.trans (congrArg _
        ((if_neg (ne_false_of_eq_true takes)).trans (if_neg (ne_false_of_eq_true fence))))
      refine ⟨fun own => run.trans (congrArg _ (if_pos own)), fun job => run.trans (congrArg _ (if_neg job)),
        fun line whole => ?_⟩
      by_cases own : l.ctx = 0
      · rw [if_pos own, State.rxWrite_eq, State.rawWrite_lines _ _ _ _ line whole] at run
        refine ⟨_, run, ?_, (State.memWrite_rest ..).trans rfl, fun _ => ⟨?_, ?_⟩, fun job => absurd own job,
          fun p job => absurd own job⟩
        · rw [State.memWrite_xch]
          exact shorter
        · rw [State.memWrite_wait, own]
          rfl
        · rw [State.memWrite_xch]
          rfl
      · rw [if_neg own] at run
        cases known : (s.inboxLeft r).xch.rxPuts.find? ((s.inboxLeft r).putMine l) with
        | none =>
          rw [State.putWrite_first known, State.rawWrite_lines _ _ _ _ line whole] at run
          refine ⟨_, run, ?_, (State.memWrite_rest ..).trans rfl, fun zero => absurd zero own,
            fun _ _ => ⟨State.memWrite_wait .., ?_⟩,
            fun p _ found => absurd (found.symm.trans known) (by simp)⟩
          · rw [State.memWrite_xch]
            exact shorter
          · rw [State.memWrite_xch]
            rfl
        | some p =>
          rw [State.putWrite_next known, State.rawWrite_lines _ _ _ _ line whole] at run
          refine ⟨_, run, ?_, (State.memWrite_rest ..).trans rfl, fun zero => absurd zero own,
            fun _ fresh => absurd (known.symm.trans fresh) (by simp), fun q _ found => ?_⟩
          · rw [State.memWrite_xch]
            exact shorter
          · cases known.symm.trans found
            refine ⟨State.memWrite_wait .., ?_⟩
            rw [State.memWrite_xch]
            rfl
    · exact run.trans (congrArg _ (if_pos deaf))
    · have active := State.active_of_takes takes job
      obtain ⟨code, tdown, -⟩ := (s.inboxLeft r).ctxFault_ctx l.ctx 0x05 job active
      exact ⟨_, run.trans (congrArg _ ((if_neg (ne_false_of_eq_true takes)).trans (if_pos outside))), code, tdown⟩
  case background =>
    have run := backCopy_eq on took
    refine ⟨run, fun line whole => ?_⟩
    rw [State.rxWrite_eq, State.rawWrite_lines _ _ _ _ line whole] at run
    refine ⟨_, run, State.memWrite_wait .., ?_, ?_, (State.memWrite_rest ..).trans rfl⟩
    all_goals rw [State.memWrite_xch]
    · rfl
    · exact shorter
  case requests =>
    refine ⟨fun get fence fault => ?_, fun get outside job => ?_, 
      fun pull => ⟨pullRequest_eq on took takes pull, fun job unknown => ?_⟩⟩
    · have run := getRequest_eq (hv := hv) on took takes get
      replace run := run.trans (congrArg _ ((if_neg (ne_false_of_eq_true fence)).trans (if_neg (not_not.mpr fault))))
      have charged := (s.inboxLeft r).chargeRead_charged l.ctx (clsOfVc l.vc) l.ch.addr (fld l.data 4 4)
      generalize State.chargeRead _ _ _ _ _ = v at run charged
      have xch : v.xch = { s.xch with inbox := r } := by
        rw [charged.rest]
        rfl
      have xfers : v.xch.xfers = s.xch.xfers := by rw [xch]
      refine ⟨_, run, ?_, ?_, charged.others, fun x _ => rd_of_charged charged x, ?_⟩
      · exact congrArg (· ++ _) xfers
      · exact (congrArg (fun x : Xch => x.inbox.length + 1) xch).trans shorter
      · rw [charged.rest]
        rfl
    · have run := getRequest_eq (hv := hv) on took takes get
      obtain ⟨code, tdown, -⟩ := (s.inboxLeft r).ctxFault_ctx l.ctx 0x05 job (State.active_of_takes takes job)
      exact ⟨_, run.trans (congrArg _ (if_pos outside)), code, tdown⟩
    · obtain ⟨code, tdown, -⟩ := (s.inboxLeft r).ctxFault_ctx l.ctx 0x11 job (State.active_of_takes takes job)
      exact ⟨_, (pullRequest_eq on took takes pull).trans (congrArg _ (pullAnswer_unknown hv unknown)), code, tdown⟩
  case gets =>
    refine ⟨fun st i active runs get => ?_, fun none_ => getData_none on took none_⟩
    obtain ⟨ch, ch', before, after, less⟩ := Step.getLess_chain get
    refine ⟨_, getData_eq on took active runs get, State.memWrite_wait .., ⟨_, ch, ch', ?_, before, after, less⟩,
      fun d ne => ?_, fun x _ => ?_, ?_⟩
    · rw [State.step?, State.ctx, State.memWrite_ctxs]
      exact State.step_modStep (s.inboxLeft r) _ (step_of_runs runs)
    · rw [State.ctx, State.memWrite_ctxs]
      exact State.ctx_modCtx_ne _ _ ne
    · rw [State.rd, State.memWrite_regs]
      rfl
    · rw [State.memWrite_ctxs]
      exact (State.memWrite_rest ..).trans rfl

end Sys2Proof.Machine
end

section
/-! COLLECTIVE_TIMEOUT and SHORT_QUIET_EXPIRE (R304, R428, R429): the open collectives of a step, the short messages that are sent
again, and the bad contributions that a ring stage is given for what it lacks. -/

namespace Sys2Proof.Machine

namespace State

variable {s : State} {c k : Nat}

theorem step_of_inst {x : CollInst} (inst : s.inst? c k = some x) : ∃ st, s.step? c = some st ∧ st.inst? k = some x := by
  unfold inst? at inst
  split at inst
  · cases inst
  · next st step => exact ⟨st, step, inst⟩

theorem inst_of_step {st : Step} (step : s.step? c = some st) : s.inst? c k = st.inst? k := by
  unfold inst?
  rw [step]

theorem inst_of_ctxs {t : State} (ctxs : t.ctxs = s.ctxs) : t.inst? c k = s.inst? c k := by
  unfold inst? step?
  rw [ctx_of_ctxs ctxs]

/-- An open collective that a change leaves its number is found under that number. -/
theorem inst_modInst {x : CollInst} (inst : s.inst? c k = some x) {f : CollInst → CollInst} (keeps : ∀ y, (f y).cinst = y.cinst) :
    (s.modInst c k f).inst? c k = some (f x) := by
  obtain ⟨st, step, found⟩ := step_of_inst inst
  have number : x.cinst = k := by simpa using List.find?_some found
  have same : (fun y : CollInst => decide (y.cinst = k)) ∘ (fun y => if y.cinst = k then f y else y) =
      fun y => decide (y.cinst = k) := by
    funext y
    show decide ((if y.cinst = k then f y else y).cinst = k) = _
    split
    · rw [keeps]
    · rfl
  have after : (s.modInst c k f).step? c = some _ := step_modStep s _ step
  rw [inst_of_step after, Step.inst?, List.find?_map, same]
  exact (congrArg (Option.map _) found).trans (congrArg some (if_pos number))

theorem active_modStep (s : State) (c d : Nat) (f : Step → Step) : ((s.modStep c f).ctx d).active = (s.ctx d).active := by
  unfold modStep
  rw [ctx_modCtx]
  split
  · next e => rw [e]; rfl
  · rfl

/-- The fault path of a collective of an active job context ends the context's step (R305). -/
theorem collFault_ctx {st : Step} (step : s.step? c = some st) (job : c ≠ 0) (active : (s.ctx c).active = true) (x : CollInst)
    (reason code : Nat) :
    ((s.collFault c x reason code).ctx c).fault = code ∧ ((s.collFault c x reason code).ctx c).tdown = true ∧
      ((s.collFault c x reason code).ctx c).step = none := by
  unfold collFault
  rw [step]
  dsimp only
  have ctxs := ctxs_of_sends (s.abortInst_sends c st x reason)
  obtain ⟨fault, tdown, -, ended, -⟩ := ctxFault_ctx ((s.abortInst c st x reason).modStep c fun st =>
    { st with insts := st.insts.filter (fun y => decide (y.cinst ≠ x.cinst)) }) c code job
    ((active_modStep ..).trans ((congrArg Ctx.active (ctx_of_ctxs ctxs c)).trans active))
  exact ⟨fault, tdown, ended⟩

/-- The messages of a short stage are sent (R288). -/
def sendAll (s : State) (c e mver : Nat) (ms : List (Nat × Bytes)) : State :=
  ms.foldl (fun s m => s.sendShort c e m.1 mver m.2 0) s

theorem sendAll_sends (s : State) (c e mver : Nat) (ms : List (Nat × Bytes)) : s.Sends (s.sendAll c e mver ms) :=
  sends_foldl _ _ _ fun _ _ => sendShort_sends ..

/-- Messages that are all for this chip arrive at once (R286). -/
theorem sendAll_own {e mver : Nat} {ms : List (Nat × Bytes)} (own : ∀ m ∈ ms, m.1 = s.glb.chip) :
    (s.sendAll c e mver ms).xch.shorts = s.xch.shorts ++ ms.map (fun m => ⟨m.1, c, e, m.2⟩) := by
  induction ms generalizing s with
  | nil => exact (List.append_nil _).symm
  | cons m ms ih =>
    have first := sendShort_own (s := s) (c := c) (e := e) (m := mver) (fin := 0) (pay := m.2) (own m List.mem_cons_self)
    have rest : ((s.sendShort c e m.1 mver m.2 0).sendAll c e mver ms).xch.shorts = _ := ih fun n mem =>
      (own n (List.mem_cons_of_mem m mem)).trans (by rw [first])
    refine rest.trans ?_
    rw [first]
    simp

end State

/- What a ring stage lacks -/

theorem reduceMiss_bad (g : Grp) (x : CollInst) (l : Nat) (done axes : List Nat) (cons : List (Nat × Con)) :
    ∀ e ∈ reduceMiss g x l done axes cons, e.bad = true := by
  induction axes generalizing done cons with
  | nil => exact fun e mem => absurd mem List.not_mem_nil
  | cons a r ih =>
    intro e mem
    unfold reduceMiss at mem
    rcases List.mem_append.mp mem with here | later
    · obtain ⟨p, -, here⟩ := List.mem_flatMap.mp here
      obtain ⟨j, -, here⟩ := List.mem_flatMap.mp here
      obtain ⟨mi, -, here⟩ := List.mem_filterMap.mp here
      split at here
      · cases here
      · cases here
        rfl
    · exact ih _ _ e later

theorem gatherMiss_bad (g : Grp) (x : CollInst) (subk : Nat) (len : Nat → Nat) (gd axes : List Nat) (hs : List (Nat × List Piece)) :
    ∀ e ∈ gatherMiss g x subk len gd axes hs, e.bad = true := by
  induction axes generalizing gd hs with
  | nil => exact fun e mem => absurd mem List.not_mem_nil
  | cons a r ih =>
    intro e mem
    unfold gatherMiss at mem
    rcases List.mem_append.mp mem with here | later
    · obtain ⟨p, -, here⟩ := List.mem_flatMap.mp here
      obtain ⟨o, -, here⟩ := List.mem_flatMap.mp here
      obtain ⟨mi, -, here⟩ := List.mem_filterMap.mp here
      split at here
      · cases here
      · cases here
        rfl
    · exact ih _ _ e later

theorem evalGather_miss_bad (g : Grp) (own : Nat) (x : CollInst) (subk : Nat) :
    ∀ e ∈ (evalGather g own x subk).miss, e.bad = true :=
  gatherMiss_bad _ _ _ _ _ _ _

theorem evalReduce_miss_bad (g : Grp) (own : Nat) (x : CollInst) (pod npod : Nat) :
    ∀ e ∈ (evalReduce g own x pod npod).miss, e.bad = true := by
  unfold evalReduce
  dsimp only
  split
  · exact reduceMiss_bad _ _ _ _ _ _
  · split
    · exact fun e mem => absurd mem List.not_mem_nil
    · exact gatherMiss_bad _ _ _ _ _ _ _

/-- The evaluation of the ring stage that a collective is in (R293, R295). -/
def State.ringEval (s : State) (st : Step) (x : CollInst) : RingEval :=
  let g := mkGrp x.word s.torus s.own st.bind.tab
  if x.stage = 0 then evalGather g s.glb.chip x 2
  else if x.cd.cop = 3 then evalReduce g s.glb.chip x (s.rdF 0x64008 0 8) (s.rdF 0x64008 8 8)
  else evalGather g s.glb.chip x 0

theorem ringEval_miss_bad (s : State) (st : Step) (x : CollInst) : ∀ e ∈ (s.ringEval st x).miss, e.bad = true := by
  unfold State.ringEval
  dsimp only
  split
  · exact evalGather_miss_bad _ _ _ _
  · split
    · exact evalReduce_miss_bad _ _ _ _ _
    · exact evalGather_miss_bad _ _ _ _

/-- The step whose messages are about to be sent again is marked so (R432). -/
def State.resending (s : State) (c : Nat) (x : CollInst) : State := if x.sent = [] then s else s.redo c

section Timers

variable {s : State} {c k : Nat} {st : Step} {x : CollInst} (on : s.on = true) (inst : s.inst? c k = some x) (opened : x.stage < 3)

section Timeout

include inst

theorem collectiveTimeout_early (early : s.el < x.last + s.rd 0x64004) : exec (.collectiveTimeout c k) s = .next s := by
  refine congrArg Host.Outcome.next ?_
  unfold collTimeoutOp
  rw [inst]
  exact if_neg (by simp [Nat.not_le.mpr early])

include on opened

theorem collectiveTimeout_fault (late : x.last + s.rd 0x64004 ≤ s.el) :
    exec (.collectiveTimeout c k) s = .next (s.collFault c x 1 0x16) := by
  refine congrArg Host.Outcome.next ?_
  unfold collTimeoutOp
  rw [inst]
  exact if_pos (by simp [on, opened, late])

end Timeout

variable (step : s.step? c = some st) (late : x.quiet + s.rd 0xC0018 ≤ s.el)
include on inst opened step late

theorem shortQuietExpire_eq : exec (.shortQuietExpire c k) s = .next (
    if x.short then
      ((s.resending c x).sendAll c st.epoch st.bind.mver x.sent).modInst c k (fun x => { x with quiet := s.el })
    else if x.disc then
      (s.modInst c k (fun y => { y with rx := y.rx ++ (s.ringEval st x).miss, quiet := s.el })).go c k
    else s) := by
  refine congrArg Host.Outcome.next ?_
  unfold shortQuietOp
  rw [step, inst]
  refine (if_neg (by simp [on, opened, late])).trans ?_
  by_cases short : x.short = true
  · rw [if_pos short, if_pos short]
    unfold State.resending State.sendAll
    dsimp only
    split
    · rfl
    · rfl
  · rw [if_neg short, if_neg short]
    rfl

end Timers

section Short

variable {s : State} {c k : Nat} {st : Step} {x : CollInst}

theorem resending_others (s : State) (x : CollInst) {d : Nat} (ne : d ≠ c) : (s.resending c x).ctx d = s.ctx d := by
  unfold State.resending
  split
  · rfl
  · exact State.ctx_modCtx_ne _ _ ne

theorem resending_rest (s : State) (c : Nat) (x : CollInst) : (s.resending c x).xch = s.xch ∧ (s.resending c x).glb = s.glb ∧
    (s.resending c x).regs = s.regs := by
  unfold State.resending
  split
  · exact ⟨rfl, rfl, rfl⟩
  · exact ⟨rfl, rfl, rfl⟩

theorem resending_inst (inst : s.inst? c k = some x) (y : CollInst) : (s.resending c y).inst? c k = some x := by
  unfold State.resending
  split
  · exact inst
  · obtain ⟨st, step, found⟩ := State.step_of_inst inst
    exact (State.inst_of_step (State.step_modStep s _ step)).trans found

theorem resending_marks (step : s.step? c = some st) (some_ : x.sent ≠ []) :
    (s.resending c x).step? c = some st.redone := by
  unfold State.resending
  rw [if_neg some_]
  exact State.step_modStep s _ step

theorem redone_marked (st : Step) : bit st.redone.cnt.qflags 6 = true := by
  show bit (st.cnt.qflags ||| 64) 6 = true
  rw [bit_testBit, Nat.testBit_or]
  simp [show Nat.testBit 64 6 = true from rfl]

end Short

end Sys2Proof.Machine
end

section
/-! PUT_COMPLETION (R260, R270, R369, R447, R448): what the completion of a put of a chain, of a snapshot's data and of a chunk of
a router copy changes. -/

namespace Sys2Proof.Machine

variable {s u : State} {m : Short}

/-- Taking a message leaves the chunk table and the backups (R285). -/
theorem takeShort_keeps {k : Nat} (took : s.takeShort k = some (m, u)) :
    u.xch.table = s.xch.table ∧ u.rsl = s.rsl ∧ u.el = s.el := by
  unfold State.takeShort at took
  dsimp only at took
  split at took
  · cases took
  · cases took
    exact ⟨rfl, rfl, rfl⟩

/-- The chunk-table entry belongs to the put of chain `i` that the message completes. -/
def putEntry (m : Short) (i : Nat) (e : ChunkE) : Bool :=
  decide (e.kind = 4 ∧ e.ctx = m.ctx ∧ e.epoch = m.epoch ∧ e.dst = m.src ∧ e.ref = i)

/-- The entries of the put of chain `i` go (R260). -/
def State.putFreed (s : State) (m : Short) (i : Nat) : State := s.modXch (fun x => { x with
  table := x.table.filter (fun e => match e.2 with | some k => !(putEntry m i k) | none => false) })

theorem putFreed_table (s : State) (m : Short) (i k : Nat) (e : ChunkE) :
    (k, some e) ∈ (s.putFreed m i).xch.table ↔ (k, some e) ∈ s.xch.table ∧
      ¬ (e.kind = 4 ∧ e.ctx = m.ctx ∧ e.epoch = m.epoch ∧ e.dst = m.src ∧ e.ref = i) := by
  refine List.mem_filter.trans (and_congr_right fun _ => ?_)
  simp only [putEntry, Bool.not_eq_true', decide_eq_false_iff_not]

/-- A chain without an increment completes (R269, R271). -/
theorem chainDone_quiet {c i : Nat} {st : Step} {ch : Chn} (step : s.step? c = some st) (chain : st.chains[i]? = some ch)
    (running : ch.st ≠ 3) (quiet : ch.c.done = 0xFF ∨ st.cancelled = true) :
    (s.chainDone c i).step? c = some { st with chains := lset i { ch with st := 3 } st.chains } ∧
      ∀ d, d ≠ c → (s.chainDone c i).ctx d = s.ctx d := by
  unfold State.chainDone
  simp only [step, chain, running, if_false]
  rw [if_pos quiet]
  have ends : (s.modStep c fun st => { st with chains := lset i { ch with st := 3 } st.chains }).step? c =
      some { st with chains := lset i { ch with st := 3 } st.chains } := State.step_modStep s _ step
  have others (d : Nat) (ne : d ≠ c) :
      (s.modStep c fun st => { st with chains := lset i { ch with st := 3 } st.chains }).ctx d = s.ctx d :=
    State.ctx_modCtx_ne _ _ ne
  split
  · have ctxs := fun v : State => State.event_ctxs v 0x32 c i st.epoch
    exact ⟨(congrArg Ctx.step (State.ctx_of_ctxs (ctxs _) c)).trans ends,
      fun d ne => (State.ctx_of_ctxs (ctxs _) d).trans (others d ne)⟩
  · exact ⟨ends, others⟩

section Completion

variable (alive : s.alive = true) (took : s.takeShort 6 = some (m, u))
include alive took

theorem putCompletion_job (job : m.ctx ≠ 0) : exec .putCompletion s = .next (u.putCompleted m (fld m.bytes 16 2)) := by
  refine congrArg Host.Outcome.next ?_
  unfold putCompletionOp
  rw [alive, took]
  simp only [job, Bool.not_true, Bool.false_eq_true, false_and, if_false, if_true, ne_eq, not_false_eq_true]

theorem putCompletion_snap (own : m.ctx = 0) (snap : fld m.bytes 16 2 = 0xFFFF) : exec .putCompletion s = .next (
    if !u.rsl.snap.busy then u
    else
      let v : State := { u with rsl := { u.rsl with snap := { u.rsl.snap with out := u.rsl.snap.out - 1, at_ := u.el } } }
      if u.rsl.snap.out - 1 = 0 then v.snapNext else v) := by
  refine congrArg Host.Outcome.next ?_
  unfold putCompletionOp
  rw [alive, took]
  simp only [own, snap, Bool.not_true, Bool.false_eq_true, and_self, if_false, if_true]

theorem putCompletion_copy (own : m.ctx = 0) (other : fld m.bytes 16 2 ≠ 0xFFFF) {k : Nat} {e : ChunkE}
    (chunk : u.putChunk m = some (k, e)) : exec .putCompletion s = .next ((u.freeChunk k).infCompleted e.ref e.len) := by
  refine congrArg Host.Outcome.next ?_
  unfold putCompletionOp
  rw [alive, took]
  simp only [own, other, chunk, Bool.not_true, Bool.false_eq_true, and_false, if_false, ne_eq, not_true_eq_false]

end Completion

/-- A chunk of a router copy that still awaits others has its completion (R369). -/
theorem infCompleted_router {n : Nat} (more : n < s.rsl.rinf.left) :
    s.infCompleted refRouter n = s.modCopy false (fun x => { x with left := x.left - n, at_ := s.el }) := by
  unfold State.infCompleted
  refine (if_pos rfl).trans (if_neg ?_)
  have awaits : s.rsl.rinf.left - n ≠ 0 := Nat.sub_ne_zero_of_lt more
  simp [State.modCopy, awaits]

theorem putCompleted_eq (s : State) (m : Short) (i : Nat) : s.putCompleted m i =
    match s.runs m.ctx m.epoch with
    | none => s.putFreed m i
    | some st =>
      match st.chains[i]? with
      | none => s.putFreed m i
      | some ch =>
        if ch.st = 2 ∧ ch.c.op = 1 ∧ ch.c.peer = m.src then ((s.putFreed m i).progress m.ctx).chainDone m.ctx i
        else s.putFreed m i := rfl

theorem progress_step {c : Nat} {st : Step} (step : s.step? c = some st) : (s.progress c).step? c =
    some { st with cnt := { st.cnt with prog := s.el, progOther := st.cnt.tOther } } := State.step_modStep s _ step

/-- Settles O52: each timer by the time it has reached, PUT_COMPLETION by whose data the put's are. -/
theorem collectiveTimersAndPutCompletions : Obligations.CollectiveTimersAndPutCompletions := by
  unfold Obligations.CollectiveTimersAndPutCompletions
  refine ⟨⟨fun c k x s job active on inst opened => ⟨fun late => ?timeout, fun early => collectiveTimeout_early inst early⟩,
    fun c k st x s on step inst opened late => ⟨fun short => ?short, fun ring disc => ?ring, fun ring whole => ?idle⟩⟩,
    fun m i s u alive took job idx => ?put, fun m s u alive took own snap => ?snapshot,
    fun m k e s u alive took own other chunk ref more => ?copy⟩
  case timeout =>
    obtain ⟨st, step, -⟩ := State.step_of_inst inst
    exact ⟨_, collectiveTimeout_fault on inst opened late, State.collFault_ctx step job active x 1 0x16⟩
  case short =>
    have run := shortQuietExpire_eq on inst opened step late
    rw [if_pos short] at run
    obtain ⟨xch, glb, regs⟩ := resending_rest s c x
    have sends := (s.resending c x).sendAll_sends c st.epoch st.bind.mver x.sent
    have ctxs := State.ctxs_of_sends sends
    refine ⟨_, _, run, State.inst_modInst ((State.inst_of_ctxs ctxs).trans (resending_inst inst x)) fun _ => rfl, rfl,
      fun own => ?_, fun some_ => ?_, fun d ne => ?_, fun a _ => ?_⟩
    · refine (State.sendAll_own (s := s.resending c x) fun m mem => (own m mem).trans (congrArg Glb.chip glb.symm)).trans ?_
      rw [xch]
    · have marks := (congrArg Ctx.step (State.ctx_of_ctxs ctxs c)).trans (resending_marks step some_)
      exact ⟨_, State.step_modStep _ _ marks, redone_marked st⟩
    · exact (State.ctx_modCtx_ne _ _ ne).trans ((State.ctx_of_ctxs ctxs d).trans (resending_others s x ne))
    · refine Eq.trans (rd_of_sends sends a) ?_
      unfold State.rd
      rw [regs]
  case ring =>
    have run := shortQuietExpire_eq on inst opened step late
    rw [if_neg (by simp [ring]), if_pos disc] at run
    exact ⟨_, _, run, State.inst_modInst inst fun _ => rfl, ringEval_miss_bad s st x, fun d ne => State.ctx_modCtx_ne _ _ ne, rfl⟩
  case idle =>
    rw [shortQuietExpire_eq on inst opened step late, if_neg (by simp [ring]), if_neg (by simp [whole])]
  case put =>
    obtain ⟨table, -⟩ := takeShort_keeps took
    obtain ⟨ctxs, -⟩ := State.takeShort_some took
    have run := putCompletion_job alive took job
    have runs := State.runs_of_ctxs ctxs m.ctx m.epoch
    rw [idx, putCompleted_eq, runs] at run
    refine ⟨u.putFreed m i, rfl, fun k e => ?_, fun not_mine => ?_, fun st ch step chain running puts peer => ?_⟩
    · rw [putFreed_table, table]
    · rw [run]
      split
      · rfl
      · next st step =>
        split
        · rfl
        · next ch chain => rw [if_neg (not_mine st ch step chain)]
    · rw [step] at run
      dsimp only at run
      rw [chain] at run
      replace run := run.trans (congrArg Host.Outcome.next (if_pos ⟨running, puts, peer⟩))
      refine ⟨run, fun quiet => ?_⟩
      have before : (u.putFreed m i).step? m.ctx = some st := (step_of_runs (runs.trans step))
      obtain ⟨ends, others⟩ := chainDone_quiet (progress_step before) chain (by simp [running]) quiet
      exact ⟨_, _, run, ends, rfl, fun d ne => (others d ne).trans ((State.ctx_modCtx_ne _ _ ne).trans (State.ctx_of_ctxs ctxs d))⟩
  case snapshot =>
    obtain ⟨-, rsl, el⟩ := takeShort_keeps took
    have run := putCompletion_snap alive took own snap
    rw [rsl, el] at run
    refine ⟨fun idle => ?_, fun busy => ?_⟩
    · rw [run, idle]
      rfl
    · rw [run, busy]
      simp only [Nat.sub_eq_zero_iff_le]
      rfl
  case copy =>
    obtain ⟨table, rsl, el⟩ := takeShort_keeps took
    have found : u.putChunk m = some (k, e) := by
      unfold State.putChunk
      rw [table]
      exact chunk
    have run := putCompletion_copy alive took own other found
    have left : e.len < (u.freeChunk k).rsl.rinf.left := by
      show e.len < u.rsl.rinf.left
      rw [rsl]
      exact more
    rw [ref, infCompleted_router left] at run
    refine ⟨_, run, ?_, fun j ne => ?_, ?_, rfl⟩
    · exact (tget_tdel ..).trans (if_pos rfl)
    · refine (tget_tdel ..).trans ((if_neg ne).trans ?_)
      rw [table]
    · show { u.rsl with rinf := { u.rsl.rinf with left := u.rsl.rinf.left - e.len, at_ := u.el } } = _
      rw [rsl, el]

end Sys2Proof.Machine
end

section
/-! COPY_CHUNK_LANDED and STEEP_HOLD_TIMEOUT (R261, R317, R319, R426): the records of the oldest dispatch chunk, a confirmed copy
by slot and row, a steeped copy in its hold. -/

namespace Sys2Proof.Machine

/-- The records of a landed dispatch chunk (R249, R261). -/
def Landed.recs (l : Landed) (now : Nat) : List LandRec :=
  (itemsOf l.ch.nrec (recordBytes' l.ch) l.data).map (fun b => landRecOf b l.ch.back l.ch.fmt now l.pitch)

section Landing

variable {s : State} {l : Landed} {r : List Landed}

theorem copyChunkLanded_eq (on : s.on = true)
    (first : ltake (fun l : Landed => decide (l.ch.ckind = 1)) s.xch.inbox = some (l, r)) : exec .copyChunkLanded s = .next (
    let steep := (l.recs s.el).filter (fun r => tagSteeped r.tag)
    let firm := (l.recs s.el).filter (fun r => !(tagSteeped r.tag))
    let act := (s.ctx l.ctx).active
    let held := steep.foldl (fun s r => if act then s.holdCopy l.ctx l.epoch l.src r else s.count 0x7001C 1) (s.inboxLeft r)
    let v := steep.foldl (fun s r => s.flushHeld l.ctx r.slot) held
    match (if act then v.runs l.ctx l.epoch else none) with
    | none => v
    | some st => if st.cancelled || decide (firm = []) then v else v.landRecs l.ctx firm l.ch.resend) := by
  refine congrArg Host.Outcome.next ?_
  rw [copyChunkOp, on, first]
  rfl

end Landing

/-- The hold delivers nothing for a context that runs no step or has no copy in it. -/
theorem flushHeld_none {s : State} {c : Nat} (none_ : s.step? c = none ∨ ∀ h ∈ s.hold, h.ctx ≠ c) (slot : Nat) :
    s.flushHeld c slot = s := by
  unfold State.flushHeld
  rcases none_ with idle | empty
  · rw [idle]
  · split
    · rfl
    · refine if_neg ?_
      have nothing : ∀ e, s.heldSlot c e slot = [] := fun e => List.filter_eq_nil_iff.mpr fun h mem => by simp [empty h mem]
      rw [nothing]
      decide

theorem flushAllHeld_none {s : State} {c : Nat} (none_ : s.step? c = none ∨ ∀ h ∈ s.hold, h.ctx ≠ c) (rs : List LandRec) :
    rs.foldl (fun s r => s.flushHeld c r.slot) s = s := by
  induction rs with
  | nil => rfl
  | cons r rs ih => rw [List.foldl_cons, flushHeld_none none_, ih]

/-- Copies that are dropped one after the other are counted, and nothing else changes. -/
theorem dropEach_counts (rs : List LandRec) (s : State) :
    ∃ t, rs.foldl (fun s _ => s.count 0x7001C 1) s = t ∧ t.rd 0x7001C % 2 ^ 32 = (s.rd 0x7001C + rs.length) % 2 ^ 32 ∧
      s.KeepsRegs t [0x7001C] ∧ t = { s with regs := t.regs } := by
  induction rs generalizing s with
  | nil => exact ⟨s, rfl, rfl, fun _ _ => rfl, rfl⟩
  | cons r rs ih =>
    obtain ⟨t, run, counted, regs, rest⟩ := ih (s.count 0x7001C 1)
    refine ⟨t, run, ?_, fun a other => (regs a other).trans (State.rd_count_ne s _ (by simpa using other)), rest⟩
    rw [counted, State.rd_count, if_pos rfl, List.length_cons]
    omega

section Landing

variable {s : State} {c : Nat} {r : LandRec} {again : Bool} {st : Step}

theorem landRec_old (step : s.step? c = some st) (old : st.dst.seen.contains (r.slot, r.row) = true) (first : again = false) :
    s.landRec c r again = s := by
  unfold State.landRec
  rw [step]
  exact if_pos (by rw [old, first]; rfl)

/-- A confirmed copy that no held copy waits for is still to be delivered (R318). -/
theorem matchHeld_none {e : Nat}
    (unmatched : ∀ h ∈ s.hold, ¬ (h.ctx = c ∧ h.epoch = e ∧ h.st ≠ 3 ∧ recKey h.rec_ = recKey r)) :
    s.matchHeld c e r = (true, s) := by
  unfold State.matchHeld
  split
  · rfl
  · rw [List.find?_eq_none.mpr fun h mem => by simpa using unmatched h mem]

/-- The step once a copy of a new slot and row has landed. -/
def Step.landNew (st : Step) (r : LandRec) : Step := { st with dst := { st.dst with
  owed := st.dst.owed ++ [r.tag / 256]
  recs := st.dst.recs.filter (fun x => decide (x.slot ≠ r.slot ∨ x.row ≠ r.row)) ++ [r]
  seen := st.dst.seen ++ [(r.slot, r.row)]
  served := if (decCopyH r.bytes).ovr then st.dst.served else st.dst.served ++ [(tagSrc r.tag, tagTok r.tag, r.slot)]
  landed := st.dst.landed + b2n (st.serves r.slot) } }

theorem landRec_new (step : s.step? c = some st) (fresh : st.dst.seen.contains (r.slot, r.row) = false)
    (unmatched : ∀ h ∈ s.hold, ¬ (h.ctx = c ∧ h.epoch = st.epoch ∧ h.st ≠ 3 ∧ recKey h.rec_ = recKey r)) :
    (s.landRec c r again).step? c = some (st.landNew r) ∧ (∀ d, d ≠ c → (s.landRec c r again).ctx d = s.ctx d) ∧
      (s.landRec c r again).hold = s.hold := by
  unfold State.landRec
  rw [step]
  dsimp only
  rw [fresh, if_neg (by simp)]
  rw [matchHeld_none (s := s.modStep c _) unmatched]
  refine ⟨?_, fun d ne => (State.ctx_modCtx_ne _ _ ne).trans (State.ctx_modCtx_ne _ _ ne), rfl⟩
  exact State.step_modStep _ _ (State.step_modStep s _ step)

end Landing

section Hold

variable {c e src : Nat} {r : LandRec} {s : State}

/-- The bytes that the held copies of a pitch reserve (R317). -/
def State.heldBytes (s : State) (p : Nat) : Nat :=
  ((s.hold.filter (fun h => decide (h.rec_.pitch = p))).map HoldE.size).foldl (· + ·) 0

theorem holdCopy_idle (idle : s.runs c e = none) : s.holdCopy c e src r = s.count 0x7001C 1 := by
  unfold State.holdCopy
  dsimp only
  rw [idle]

theorem holdCopy_eq {st : Step} (runs : s.runs c e = some st) : s.holdCopy c e src r =
    if st.cancelled = true ∨ s.rd 0x70004 * 65536 < s.heldBytes r.pitch + 2 * r.bytes.length ∨
        st.dst.served.contains (tagSrc r.tag, tagTok r.tag, r.slot) = true ∨ tagEpoch r.tag ≠ e then s.count 0x7001C 1
    else { s with hold := s.hold ++ [{ ctx := c, epoch := e, rec_ := { r with steep := true }, src := src, at_ := s.el }] } := by
  unfold State.holdCopy
  dsimp only
  rw [runs]
  simp only [Bool.or_eq_true, decide_eq_true_eq, or_assoc]
  rfl

end Hold

/-- Settles O58: the copies of a chunk by whether their context is active and they are steeped, then one copy each, then the hold
and its time. -/
theorem copiesLandBySlotAndRow : Obligations.CopiesLandBySlotAndRow := by
  unfold Obligations.CopiesLandBySlotAndRow
  refine ⟨fun l r s on first => ⟨fun active confirmed some_ => ⟨fun st runs going => ?lands, fun ended => ?ended⟩,
    fun active steeped => ?steeped, fun inactive empty => ?inactive⟩,
    fun c r again st s step => ⟨fun old first => landRec_old step old first, fun fresh unmatched => ?new⟩,
    fun c e src r s => ⟨holdCopy_idle, fun st runs => ⟨fun refused => (holdCopy_eq runs).trans (if_pos refused),
      fun going room unserved epoch => ?held⟩⟩, fun s on => ?timeout⟩
  case lands =>
    have none_ : (l.recs s.el).filter (fun r => tagSteeped r.tag) = [] :=
      List.filter_eq_nil_iff.mpr fun x mem => by simp [confirmed x mem]
    refine (copyChunkLanded_eq on first).trans (congrArg Host.Outcome.next ?_)
    dsimp only
    rw [none_, active]
    have runs : (s.inboxLeft r).runs l.ctx l.epoch = some st := runs
    simp only [List.foldl_nil, if_true, runs, going, Bool.false_or, decide_eq_true_eq]
    exact if_neg some_
  case ended =>
    have none_ : (l.recs s.el).filter (fun r => tagSteeped r.tag) = [] :=
      List.filter_eq_nil_iff.mpr fun x mem => by simp [confirmed x mem]
    refine (copyChunkLanded_eq on first).trans (congrArg Host.Outcome.next ?_)
    dsimp only
    rw [none_, active]
    have ended : (s.inboxLeft r).runs l.ctx l.epoch = none := ended
    simp only [List.foldl_nil, if_true, ended]
    rfl
  case steeped =>
    have all_ : (l.recs s.el).filter (fun r => tagSteeped r.tag) = l.recs s.el :=
      List.filter_eq_self.mpr fun x mem => by simpa using List.filter_eq_nil_iff.mp steeped x mem
    have none_ : (l.recs s.el).filter (fun r => !(tagSteeped r.tag)) = [] := steeped
    refine (copyChunkLanded_eq on first).trans (congrArg Host.Outcome.next ?_)
    dsimp only
    rw [all_, none_, active]
    simp only [if_true, decide_true, Bool.or_true]
    split
    · rfl
    · rfl
  case inactive =>
    obtain ⟨t, run, counted, regs, rest⟩ := dropEach_counts ((l.recs s.el).filter (fun r => tagSteeped r.tag)) (s.inboxLeft r)
    have empty : t.step? l.ctx = none ∨ ∀ h ∈ t.hold, h.ctx ≠ l.ctx := by
      rw [rest]
      exact empty
    refine ⟨t, (copyChunkLanded_eq on first).trans (congrArg Host.Outcome.next ?_), ?_, counted, regs, ?_⟩
    · dsimp only
      rw [inactive]
      simp only [Bool.false_eq_true, if_false]
      rw [run, flushAllHeld_none empty]
    · rw [rest]
      rfl
    · rw [rest]
      rfl
  case new =>
    obtain ⟨after, others, hold⟩ := landRec_new (again := again) step fresh unmatched
    exact ⟨_, after, by simp [Step.landNew], by simp [Step.landNew], rfl, rfl, others, hold⟩
  case held =>
    refine ⟨_, (holdCopy_eq runs).trans (if_neg ?_), rfl, rfl, rfl, rfl, rfl, rfl⟩
    have room : s.heldBytes r.pitch + 2 * r.bytes.length ≤ s.rd 0x70004 * 65536 := room
    rw [going, unserved]
    simpa [epoch] using room
  case timeout =>
    exact ⟨_, congrArg Host.Outcome.next (if_pos on), rfl, State.rd_count .., fun a other =>
      State.rd_count_ne s _ (by simpa using other), rfl⟩

end Sys2Proof.Machine
end

section
/-! The formation of a chunk (R248, R250, R260): what the entry taken for it and its way out leave as they were, and
what is noted for its step. -/

namespace Sys2Proof.Machine

namespace State

/-- `t` comes from `s` by what forms a chunk: contexts, waiting returns and waiting pieces stay as they were, and so do the
registers but that of the chunk table's fill. -/
structure Forms (s t : State) : Prop where
  ctxs : t.ctxs = s.ctxs
  retq : t.xch.retq = s.xch.retq
  xfers : t.xch.xfers = s.xch.xfers
  regs : s.KeepsRegs t [0x50010]

theorem forms_refl (s : State) : s.Forms s := ⟨rfl, rfl, rfl, fun _ _ => rfl⟩

variable {s t u : State} {c : Nat}

theorem Forms.trans (first : s.Forms t) (second : t.Forms u) : s.Forms u :=
  ⟨second.ctxs.trans first.ctxs, second.retq.trans first.retq, second.xfers.trans first.xfers,
    fun a other => (second.regs a other).trans (first.regs a other)⟩

theorem endWait_forms (s : State) (w : FormWait) : s.Forms (s.endWait w) := ⟨rfl, rfl, rfl, fun _ _ => rfl⟩

theorem wrFill_forms (s : State) (v : Nat) : s.Forms (s.wrF 0x50010 16 16 v) :=
  ⟨wrF_ctxs .., congrArg Xch.retq (wrF_xch ..), congrArg Xch.xfers (wrF_xch ..),
    fun _ other => rd_wrF_ne _ _ _ _ (by simpa using other)⟩

theorem takeChunk_forms (s : State) (e : ChunkE) : s.Forms (s.takeChunk e).2 := by
  have entered : s.Forms (s.modXch fun x => { x with
    table := tput none (freeFrom x.table (x.table.length + 1) x.nextChunk) (some e) x.table
    nextChunk := (freeFrom x.table (x.table.length + 1) x.nextChunk + 1) % 16384 }) := ⟨rfl, rfl, rfl, fun _ _ => rfl⟩
  exact entered.trans (wrFill_forms _ _)

theorem chunkReturn_forms (s : State) (c e t r : Nat) : s.Forms (s.chunkReturn c e t r) := ⟨rfl, rfl, rfl, fun _ _ => rfl⟩

theorem landHere_forms (s : State) (l : Landed) : s.Forms (s.landHere l) := ⟨rfl, rfl, rfl, fun _ _ => rfl⟩

theorem unsent_forms (s : State) (n : Nat) : s.Forms (s.unsent n) := by
  unfold unsent
  split
  · split
    · exact forms_refl s
    · exact ⟨rfl, rfl, rfl, fun _ _ => rfl⟩
  · exact forms_refl s

theorem enqueue_forms (s : State) (n vc : Nat) (qs : List QFlit) : s.Forms (s.enqueue n vc qs) := ⟨rfl, rfl, rfl, fun _ _ => rfl⟩

theorem launchChunk_forms (s : State) (c e d n vc order mver : Nat) (h : ChunkH) (data : Bytes) :
    s.Forms (s.launchChunk c e d n vc order mver h data) := by
  unfold launchChunk
  split
  · exact (s.landHere_forms _).trans (unsent_forms _ n)
  · dsimp only
    split
    · split
      · exact unsent_forms s n
      · exact enqueue_forms ..
    · exact unsent_forms s n

theorem launchUp_forms (s : State) (c e d n vc mver : Nat) (h : ChunkH) (data : Bytes) :
    s.Forms (s.launchUp c e d n vc mver h data) := by
  unfold launchUp
  split
  · exact unsent_forms s n
  · exact enqueue_forms ..

theorem leaveChunks_forms (s : State) (c : Nat) (st : Step) (es : List SendSt) : s.Forms (s.leaveChunks c st es) := by
  unfold leaveChunks
  generalize es.filter SendSt.moved = l
  induction l generalizing s with
  | nil => exact forms_refl s
  | cons e l ih => exact (s.chunkReturn_forms ..).trans (ih _)

/- What is noted for the step of a chunk -/

theorem formed_rest (s : State) (c : Nat) (again : Bool) : s.formed c again = { s with ctxs := (s.formed c again).ctxs } := by
  unfold formed
  split
  · rfl
  · rfl

theorem formed_xch (s : State) (c : Nat) (again : Bool) : (s.formed c again).xch = s.xch := by rw [formed_rest]

theorem formed_others {again : Bool} {d : Nat} (ne : d ≠ c) : (s.formed c again).ctx d = s.ctx d := by
  unfold formed
  dsimp only
  split
  · exact ctx_modCtx_ne _ _ ne
  · exact (ctx_modCtx_ne _ _ ne).trans (ctx_modCtx_ne _ _ ne)

/-- A formed chunk changes times of its step only. -/
theorem formed_step {st : Step} (step : s.step? c = some st) (again : Bool) :
    ∃ st', (s.formed c again).step? c = some st' ∧ st'.rt = st.rt ∧ st'.ext = st.ext ∧ st'.cnt.qflags = st.cnt.qflags := by
  unfold formed
  dsimp only
  split
  · exact ⟨_, step_modStep s _ step, rfl, rfl, rfl⟩
  · have noted : (s.modStep c fun st => { st with cnt := { st.cnt with quiet := s.el } }).step? c = some _ := step_modStep s _ step
    exact ⟨_, progress_step noted, rfl, rfl, rfl⟩

theorem stepCue_others {d : Nat} (ne : d ≠ c) : (s.stepCue c).ctx d = s.ctx d := by
  unfold stepCue
  split
  · rfl
  · split
    · rfl
    · exact (sendPacket_others _ _ _ ne).trans (ctx_modCtx_ne _ _ ne)

/-- The cue leaves everything but the Pour unit's part of its step (R263). -/
theorem stepCue_step {st : Step} (step : s.step? c = some st) : ∃ st', (s.stepCue c).step? c = some st' ∧ st'.rt = st.rt := by
  unfold stepCue
  rw [step]
  dsimp only
  split
  · exact ⟨st, step, rfl⟩
  · exact ⟨_, (sendPacket_step ..).trans (step_modStep s _ step), rfl⟩

theorem refProgress_xch (s : State) (n : Nat) : (s.refProgress n).xch = s.xch := by
  unfold refProgress
  split
  · rfl
  · split
    · rfl
    · rfl

end State

end Sys2Proof.Machine
end

section
/-! CHUNK_FORM (R250, R251, R260, R262): the return records that a chunk takes, the piece that leaves, the dispatch chunk of
a step. -/

namespace Sys2Proof.Machine

/- Returns -/

/-- One step of the removal of the first `left` records that meet `same`: `a` counts those removed and holds the others. -/
def dropSame (same : RetRec → Bool) (left : Nat) (a : Nat × List RetRec) (r : RetRec) : Nat × List RetRec :=
  if same r && decide (a.1 < left) then (a.1 + 1, a.2) else (a.1, a.2 ++ [r])

section Drop

variable {same : RetRec → Bool} {left : Nat}

theorem dropSame_keeps {r : RetRec} (q : List RetRec) (a : Nat × List RetRec) (kept : r ∈ a.2 ∨ r ∈ q ∧ same r = false) :
    r ∈ (q.foldl (dropSame same left) a).2 := by
  induction q generalizing a with
  | nil => exact kept.elim id fun none_ => absurd none_.1 List.not_mem_nil
  | cons x q ih =>
    refine ih _ ?_
    unfold dropSame
    rcases kept with before | ⟨mem, other⟩
    · split
      · exact .inl before
      · exact .inl (List.mem_append_left _ before)
    · rcases List.mem_cons.mp mem with rfl | later
      · rw [if_neg (by simp [other])]
        exact .inl (List.mem_append_right _ List.mem_cons_self)
      · exact .inr ⟨later, other⟩

theorem dropSame_length_le (q : List RetRec) (a : Nat × List RetRec) :
    (q.foldl (dropSame same left) a).2.length ≤ a.2.length + q.length := by
  induction q generalizing a with
  | nil => exact Nat.le_refl _
  | cons x q ih =>
    refine (ih _).trans ?_
    unfold dropSame
    split
    · simp only [List.length_cons]
      omega
    · simp only [List.length_append, List.length_cons, List.length_nil]
      omega

theorem dropSame_length_lt (q : List RetRec) (a : Nat × List RetRec) (few : a.1 < left) {r : RetRec} (mem : r ∈ q)
    (hit : same r = true) : (q.foldl (dropSame same left) a).2.length < a.2.length + q.length := by
  induction q generalizing a with
  | nil => exact absurd mem List.not_mem_nil
  | cons x q ih =>
    rw [List.foldl_cons, List.length_cons]
    by_cases first : same x = true
    · rw [show dropSame same left a x = (a.1 + 1, a.2) from if_pos (by simp [first, few])]
      exact Nat.lt_succ_of_le (dropSame_length_le q _)
    · rw [show dropSame same left a x = (a.1, a.2 ++ [x]) from if_neg (by simp [first])]
      have later : r ∈ q := (List.mem_cons.mp mem).resolve_left fun e => first (e ▸ hit)
      have less := ih (a.1, a.2 ++ [x]) few later
      simp only [List.length_append, List.length_cons, List.length_nil] at less
      omega

end Drop

/-- The record `r` may go in one chunk with `r0` (R250, R262). -/
def RetRec.joins (c : Nat) (r0 r : RetRec) : Bool :=
  decide (r.ctx = c ∧ r.epoch = r0.epoch ∧ r.src = r0.src ∧ r.fmt = r0.fmt ∧ r.back = r0.back)

/-- Return records of the chunk that begins with `r0`: as many as fit. -/
def State.retChunk (s : State) (c : Nat) (r0 : RetRec) : List RetRec :=
  (s.xch.retq.filter (r0.joins c)).take (fitRecs 32 ((s.xch.retq.filter (r0.joins c)).map RetRec.bytes))

section Returns

variable {s : State} {c : Nat} {r0 : RetRec} (first : s.xch.retq.find? (fun r => decide (r.ctx = c)) = some r0)
include first

/-- A record that fits stands in the chunk that it begins. -/
theorem retChunk_some (fits : 32 + r0.bytes.length ≤ chunkMax) : 0 < (s.retChunk c r0).length := by
  have own : r0.ctx = c := by simpa using List.find?_some first
  obtain ⟨-, before, after, queue, none_⟩ := List.find?_eq_some_iff_append.mp first
  have skip : before.filter (r0.joins c) = [] := List.filter_eq_nil_iff.mpr fun r mem => by
    have other := none_ r mem
    simp only [RetRec.joins, decide_eq_true_eq, not_and]
    exact fun same => absurd same (by simpa using other)
  have head : s.xch.retq.filter (r0.joins c) = r0 :: after.filter (r0.joins c) := by
    rw [queue, List.filter_append, skip, List.nil_append, List.filter_cons, if_pos (by simp [RetRec.joins, own])]
  unfold State.retChunk
  rw [head, List.map_cons, fitRecs, if_pos fits, Nat.add_comm, List.take_succ_cons]
  exact Nat.succ_pos _

theorem formReturns_forms (may : s.mayForm ⟨0, c, 1⟩ = true) : ∃ u : State, s.formReturns c = (u.formed c false, true) ∧
    u.xch.retq = (s.xch.retq.foldl (dropSame (r0.joins c) (s.retChunk c r0).length) (0, [])).2 ∧ u.xch.xfers = s.xch.xfers := by
  unfold State.formReturns
  rw [first]
  dsimp only
  rw [if_pos may]
  generalize taken : State.takeChunk _ _ = k
  have before : s.Forms k.2 := (s.endWait_forms ⟨0, c, 1⟩).trans (taken ▸ State.takeChunk_forms ..)
  refine ⟨_, rfl, (State.launchChunk_forms ..).retq.trans ?_, (State.launchChunk_forms ..).xfers.trans before.xfers⟩
  exact congrArg (fun q => (q.foldl (dropSame (r0.joins c) (s.retChunk c r0).length) (0, [])).2) before.retq

end Returns

/- Pieces -/

theorem sendPiece_xfers (s : State) (p : OutPiece) : (s.sendPiece p).xch.xfers = s.xch.xfers := by
  unfold State.sendPiece
  dsimp only
  rw [State.formed_xch]
  generalize taken : State.takeChunk _ _ = k
  have before : s.Forms k.2 := (s.endWait_forms p.wait).trans (taken ▸ State.takeChunk_forms ..)
  split
  · rw [State.refProgress_xch]
    split
    · exact (before.trans (State.launchUp_forms ..)).xfers
    · exact (before.trans (State.launchChunk_forms ..)).xfers
  · split
    · exact (before.trans (State.launchUp_forms ..)).xfers
    · exact (before.trans (State.launchChunk_forms ..)).xfers

/- Dispatch chunks -/

/-- A step whose copies `es` have been sent in chunk `n` (R237). -/
def Step.sentIn (st : Step) (n : Nat) (es : List SendSt) : Step := { st with rt := { st.rt with
  list := st.rt.list.map (fun e => if es.any (fun x => decide (x.e.t = e.e.t ∧ x.e.rank = e.e.rank)) then { e with
    snt := true
    chunk := n
    resends := e.resends + b2n e.snt
    again := false
    moved := false } else e)
  outst := st.rt.outst + (es.filter (fun e => !e.snt)).length } }

theorem Step.sentIn_sent {st : Step} {n : Nat} {es : List SendSt} {e : SendSt} (mem : e ∈ (st.sentIn n es).rt.list)
    (copy : ∃ x ∈ es, x.e.t = e.e.t ∧ x.e.rank = e.e.rank) : e.snt = true ∧ e.again = false := by
  obtain ⟨e0, -, rfl⟩ := List.mem_map.mp mem
  by_cases hit : es.any (fun x => decide (x.e.t = e0.e.t ∧ x.e.rank = e0.e.rank)) = true
  · rw [if_pos hit]
    exact ⟨rfl, rfl⟩
  · rw [if_neg hit] at copy
    exact absurd (by simpa using copy) hit

/-- The dispatch chunk of a step marks its copies, and touches no other context (R237, R251). -/
theorem sendRemote_step {s : State} {c : Nat} {st : Step} (step : s.step? c = some st) (some_ : s.nextChunk st ≠ []) :
    ∃ st' n, (s.sendRemote c st).step? c = some st' ∧ st'.rt = (st.sentIn n (s.nextChunk st)).rt ∧
      ∀ d, d ≠ c → (s.sendRemote c st).ctx d = s.ctx d := by
  unfold State.sendRemote
  split
  · next none_ => exact absurd none_ some_
  · next e0 r chunk =>
    dsimp only
    have left := (s.leaveChunks_forms c st (e0 :: r)).trans (State.endWait_forms _ ⟨2, c, 1⟩)
    generalize taken : State.takeChunk _ _ = k
    have before : s.Forms k.2 := left.trans (taken ▸ State.takeChunk_forms ..)
    have marked : (k.2.markSent c k.1 (e0 :: r)).step? c = some (st.sentIn k.1 (e0 :: r)) :=
      State.step_modStep _ _ ((congrArg Ctx.step (State.ctx_of_ctxs before.ctxs c)).trans step)
    generalize launched : State.launchChunk _ _ _ _ _ _ _ _ _ _ = v
    have ctxs : v.ctxs = (k.2.markSent c k.1 (e0 :: r)).ctxs := (launched ▸ State.launchChunk_forms ..).ctxs
    obtain ⟨st1, formed, rt1, -, -⟩ := State.formed_step ((congrArg Ctx.step (State.ctx_of_ctxs ctxs c)).trans marked) e0.again
    obtain ⟨st2, cue, rt2⟩ := State.stepCue_step formed
    refine ⟨st2, k.1, cue, (rt2.trans rt1).trans (by rw [chunk]), fun d ne => ?_⟩
    rw [State.stepCue_others ne, State.formed_others ne, State.ctx_of_ctxs ctxs]
    exact (State.ctx_modCtx_ne _ _ ne).trans (State.ctx_of_ctxs before.ctxs d)

/- The command -/

theorem ltake_none {α : Type} {p : α → Bool} {l : List α} (none_ : ∀ x ∈ l, p x = false) : ltake p l = none := by
  induction l with
  | nil => rfl
  | cons x l ih =>
    unfold ltake
    rw [none_ x List.mem_cons_self, ih fun y mem => none_ y (List.mem_cons_of_mem x mem)]
    rfl

section Forming

variable {s : State} {c : Nat} {hv : HostView}

theorem chunkForm_eq (on : s.on = true) (act : c = 0 ∨ (s.ctx c).active = true) (pace : s.paceOk (s.allocPitch c) = true) :
    exec (.chunkForm c hv) s = .next (
      if (s.formReturns c).2 then (s.formReturns c).1
      else if ((s.formReturns c).1.formPiece c).2 then ((s.formReturns c).1.formPiece c).1
      else ((s.formReturns c).1.formPiece c).1.formStep c) :=
  congrArg Host.Outcome.next (if_neg (by simpa [on, pace] using act.resolve_left))

theorem formReturns_none (none_ : s.xch.retq.find? (fun r => decide (r.ctx = c)) = none) : s.formReturns c = (s, false) := by
  unfold State.formReturns
  rw [none_]

theorem formPiece_some {p : OutPiece} {rest : List OutPiece}
    (first : ltake (fun p : OutPiece => decide (p.ctx = c) && s.mayForm p.wait) s.xch.xfers = some (p, rest)) :
    s.formPiece c = ((s.modXch fun x => { x with xfers := rest }).sendPiece p, true) := by
  unfold State.formPiece
  rw [first]

theorem formPiece_none (none_ : ∀ p ∈ s.xch.xfers, p.ctx ≠ c) : s.formPiece c = (s, false) := by
  unfold State.formPiece
  rw [ltake_none fun p mem => by simp [none_ p mem], List.filter_eq_nil_iff.mpr fun p mem => by simpa using none_ p mem]
  rfl

variable {st : Step} (step : s.step? c = some st)
include step

theorem formStep_eq (whole : st.insts = []) : s.formStep c = s.sendCopies c st := by
  unfold State.formStep
  rw [step]
  dsimp only
  rw [whole]
  exact congrArg (fun o => match o with | none => s | some st => s.sendCopies c st) step

end Forming

section Copies

variable {s : State} {c : Nat} {st : Step}

theorem sendCopies_early (early : st.maySend = false) : s.sendCopies c st = s := if_pos (by simp [early])

variable (may : st.maySend = true)
include may

theorem sendCopies_local (some_ : s.localCopies st ≠ []) : s.sendCopies c st =
    (s.sendLocal c st (s.localCopies st)).formed c ((s.localCopies st).all SendSt.again) := by
  unfold State.sendCopies
  rw [if_neg (by simp [may])]
  exact if_pos some_

theorem sendCopies_remote (none_ : s.localWait st = []) {e : SendSt × Nat} (next : s.nextCopy st = some e)
    (way : s.noWay (s.tabFor st.bind.mver) e.1.e.chip = false) (there : st.listAt e.2 = true) (some_ : s.nextChunk st ≠ []) :
    s.sendCopies c st =
      if s.mayForm ⟨2, c, 1⟩ = false then s.waitForm ⟨2, c, 1⟩
      else if s.turnOf = some c then (s.modXch fun x => { x with turn := s.turnKey c }).sendRemote c st
      else s := by
  have gone : s.localCopies st = [] := by
    unfold State.localCopies
    rw [none_]
    rfl
  unfold State.sendCopies
  rw [if_neg (by simp [may])]
  dsimp only
  rw [if_neg (not_not.mpr gone), none_]
  unfold State.dispatch
  rw [List.find?_nil, next]
  dsimp only
  rw [way, there, if_neg some_]
  simp only [Bool.false_eq_true, if_false, Bool.not_true, Bool.not_eq_true']

end Copies

end Sys2Proof.Machine
end

section
/-! STEEPED_COPY_SEND (R308 to R316, R320): the tokens that are predicted, and the chunk of steeped copies. -/

namespace Sys2Proof.Machine

/-- The prediction of further tokens marks them behind those already steeped (R310). -/
theorem steepFill_prefix (s : State) (c : Nat) (hv : HostView) (ts : List Nat) (st : Step) :
    st.ext.steeped <+: (s.steepFill c hv ts st).ext.steeped := by
  induction ts generalizing st with
  | nil => exact List.prefix_rfl
  | cons t ts ih =>
    have either (whole : Bool) :
        st.ext.steeped <+: (if whole then s.steepFill c hv ts (s.steepNext c hv st t) else st).ext.steeped := by
      cases whole with
      | true => exact (List.prefix_append _ _).trans (ih (s.steepNext c hv st t))
      | false => exact List.prefix_rfl
    exact either _

/-- While no predicted copy waits, the next token is predicted. -/
theorem steepFill_first (s : State) (c : Nat) (hv : HostView) (t : Nat) (ts : List Nat) {st : Step} (none_ : st.ext.spend = []) :
    st.ext.steeped ++ [t] <+: (s.steepFill c hv (t :: ts) st).ext.steeped := by
  unfold State.steepFill
  rw [none_]
  exact steepFill_prefix s c hv ts (s.steepNext c hv st t)

/- A route looks at no context -/

theorem routeOn_modStep (s : State) (c : Nat) (f : Step → Step) (tab : Table Nat) (vc : Nat) (dst : Pos) (axes : List Nat) (p : Pos)
    (here : Bool) : (s.modStep c f).routeOn tab vc dst axes p here = s.routeOn tab vc dst axes p here := by
  induction axes generalizing p here with
  | nil => rfl
  | cons a axes ih =>
    unfold State.routeOn
    rw [ih, ih]
    rfl

theorem noWay_modStep (s : State) (c : Nat) (f : Step → Step) (tab : Table Nat) (d : Nat) :
    (s.modStep c f).noWay tab d = s.noWay tab d := by
  unfold State.noWay State.route
  simp only [routeOn_modStep]
  rfl

section Chunk

variable {s : State} {c d : Nat} {st : Step} {ps : List (Nat × Nat × Nat × Nat)}

theorem steepChunk_lost (lost : s.noWay (s.tabFor st.bind.mver) d = true) : s.steepChunk c st d ps = s.count 0x7001C ps.length :=
  if_pos lost

theorem steepChunk_sent (way : s.noWay (s.tabFor st.bind.mver) d = false) (step : s.step? c = some st) :
    ∃ st', (s.steepChunk c st d ps).step? c = some st' ∧ st'.ext.spend = st.ext.spend ∧ st'.ext.steeped = st.ext.steeped ∧
      bit st'.cnt.qflags 5 = true ∧ (s.steepChunk c st d ps).rd 0x70010 = (s.rd 0x70010 + ps.length) % 2 ^ 32 ∧
      ∀ k, k ≠ c → (s.steepChunk c st d ps).ctx k = s.ctx k := by
  unfold State.steepChunk
  rw [if_neg (by simp [way])]
  dsimp only
  generalize taken : State.takeChunk _ _ = k
  have before : s.Forms k.2 := taken ▸ State.takeChunk_forms ..
  generalize launched : State.launchChunk _ _ _ _ _ _ _ _ _ _ = v
  have forms : s.Forms v := before.trans (launched ▸ State.launchChunk_forms ..)
  have counted : (v.count 0x70010 ps.length).step? c = some st := (congrArg Ctx.step (State.ctx_of_ctxs forms.ctxs c)).trans step
  have noted : ((v.count 0x70010 ps.length).modStep c _).step? c = some _ := State.step_modStep _ (fun x => { x with
    ext := { x.ext with flits := steepFlits (max 16 (ceilDiv (32 + (ps.flatMap (s.steepRec c st)).length) 236)) ps x.ext.flits }
    cnt := { x.cnt with qflags := x.cnt.qflags ||| 32 } }) counted
  obtain ⟨st', formed, -, ext, flags⟩ := State.formed_step noted false
  refine ⟨st', formed, ?_, ?_, ?_, ?_, fun j ne => ?_⟩
  · rw [ext]
  · rw [ext]
  · rw [flags, bit_testBit, Nat.testBit_or]
    simp [show Nat.testBit 32 5 = true from rfl]
  · rw [State.formed_rest]
    refine (State.rd_count ..).trans ((if_pos rfl).trans ?_)
    rw [forms.regs _ (by simp)]
  · exact (State.formed_others ne).trans ((State.ctx_modCtx_ne _ _ ne).trans (State.ctx_of_ctxs forms.ctxs j))

end Chunk

/-- A step whose first `n` predicted copies have left. -/
def Step.spent (st : Step) (n : Nat) : Step := { st with ext := { st.ext with spend := st.ext.spend.drop n } }

section Steeping

variable {s : State} {c : Nat} {hv : HostView} {st : Step} (step : s.step? c = some st)
include step

theorem steepedCopySend_idle (idle : s.copyWaits = true ∨ s.mayForm ⟨9, c, 1⟩ = false ∨ s.steepOn c st = false) :
    exec (.steepedCopySend c hv) s = .next s := by
  refine congrArg Host.Outcome.next ?_
  unfold steepSendOp
  rw [step]
  refine if_pos ?_
  rcases idle with waits | held | off
  · simp [waits]
  · simp [held]
  · simp [off]

theorem steepedCopySend_eq (on : s.on = true) (active : (s.ctx c).active = true) (steeps : s.steepOn c st = true)
    (free : s.copyWaits = false) (may : s.mayForm ⟨9, c, 1⟩ = true) (pace : s.paceOk (s.allocPitch c) = true)
    (fault : hv.fault = 0) :
    exec (.steepedCopySend c hv) s = .next (
      let st' := s.steepFill c hv (s.steepable c st) st
      match st'.ext.spend with
      | [] => s.modStep c (fun _ => st')
      | p :: q =>
        let ps := steepRun st' (st'.steepChip p) 32 (p :: q)
        (s.modStep c (fun _ => st'.spent ps.length)).steepChunk c (st'.spent ps.length) (st'.steepChip p) ps) := by
  refine congrArg Host.Outcome.next ?_
  unfold steepSendOp
  rw [step]
  refine (if_neg (by simp [on, active, steeps, free, may, pace, fault])).trans ?_
  dsimp only
  unfold Step.spent
  cases spend : (s.steepFill c hv (s.steepable c st) st).ext.spend with
  | nil => rfl
  | cons p q => rfl

end Steeping

/-- Settles O57: CHUNK_FORM by the first thing that waits, STEEPED_COPY_SEND by what its predictions give. -/
theorem chunksAreFormedInOrder : Obligations.ChunksAreFormedInOrder := by
  unfold Obligations.ChunksAreFormedInOrder
  refine ⟨fun c hv s on act pace => ⟨fun r0 first may fits => ?returns, fun p rest none_ first => ?piece,
    fun st none_ pieces step whole => ?step⟩, fun c hv st s step on active => ⟨steepedCopySend_idle step,
    fun steeps free may pace fault => ⟨fun t r none_ tokens => ?predicts, fun none_ => ?nothing, fun p q some_ => ?sends⟩⟩⟩
  case returns =>
    obtain ⟨u, formed, retq, xfers⟩ := formReturns_forms first may
    have run := chunkForm_eq (hv := hv) on act pace
    have own : (r0.joins c) r0 = true := by
      have ctx : r0.ctx = c := by simpa using List.find?_some first
      simp [RetRec.joins, ctx]
    rw [formed] at run
    replace run : exec (.chunkForm c hv) s = .next (u.formed c false) := run
    rw [formed]
    refine ⟨_, run, rfl, ?_, fun r mem other => ?_, ?_⟩
    all_goals rw [State.formed_xch]
    · rw [retq]
      refine (dropSame_length_lt s.xch.retq (0, []) (retChunk_some first fits) (List.mem_of_find?_eq_some first) own).trans_eq ?_
      exact Nat.zero_add _
    · rw [retq]
      exact dropSame_keeps _ _ (.inr ⟨mem, by simp [RetRec.joins, other]⟩)
    · exact xfers
  case piece =>
    have run := chunkForm_eq (hv := hv) on act pace
    rw [formReturns_none none_, formPiece_some first] at run
    exact ⟨_, run, rfl, sendPiece_xfers ..⟩
  case step =>
    have run := chunkForm_eq (hv := hv) on act pace
    rw [formReturns_none none_] at run
    dsimp only at run
    rw [formPiece_none pieces, formStep_eq step whole] at run
    replace run : exec (.chunkForm c hv) s = .next (s.sendCopies c st) := run
    refine ⟨fun early => ?_, fun may some_ => ?_, fun e may gone next way there some_ => ⟨fun wait => ?_, fun form other => ?_,
      fun form turn => ?_⟩⟩
    · rw [run, sendCopies_early early]
    · rw [run, sendCopies_local may some_]
    · rw [run, sendCopies_remote may gone next way there some_, if_pos wait]
    · rw [run, sendCopies_remote may gone next way there some_, if_neg (by simp [form]), if_neg other]
    · rw [sendCopies_remote may gone next way there some_, if_neg (by simp [form]), if_pos turn] at run
      obtain ⟨st', n, after, rt, others⟩ := sendRemote_step (s := s.modXch fun x => { x with turn := s.turnKey c }) step some_
      refine ⟨_, st', run, rfl, after, ?_, fun e mem copy => ?_, others⟩
      · rw [rt]
        rfl
      · rw [rt] at mem
        exact Step.sentIn_sent mem copy
  case predicts =>
    rw [tokens]
    exact steepFill_first s c hv t r none_
  case nothing =>
    refine (steepedCopySend_eq step on active steeps free may pace fault).trans ?_
    dsimp only
    rw [none_]
  case sends =>
    have run := steepedCopySend_eq step on active steeps free may pace fault
    dsimp only at run
    generalize s.steepFill c hv (s.steepable c st) st = st' at run some_
    rw [some_] at run
    dsimp only at run
    have marked : (s.modStep c fun _ => st'.spent (steepRun st' (st'.steepChip p) 32 (p :: q)).length).step? c = some _ :=
      State.step_modStep s _ step
    dsimp only
    generalize steepRun st' (st'.steepChip p) 32 (p :: q) = ps at run marked
    have spend : (st'.spent ps.length).ext.spend = (p :: q).drop ps.length := congrArg (List.drop ps.length) some_
    have same := noWay_modStep s c (fun _ => st'.spent ps.length) (s.tabFor st'.bind.mver) (st'.steepChip p)
    cases way : s.noWay (s.tabFor st'.bind.mver) (st'.steepChip p) with
    | true =>
      rw [steepChunk_lost (st := st'.spent ps.length) (same.trans way)] at run
      refine ⟨_, _, run, marked, spend, rfl, fun _ => ⟨State.rd_count .., rfl, rfl⟩, fun other => absurd other (by simp),
        fun k ne => ?_⟩
      exact (State.ctx_of_ctxs (s := s.modStep c _) rfl k).trans (State.ctx_modCtx_ne _ _ ne)
    | false =>
      obtain ⟨st2, after, left, steeped, flag, counted, others⟩ :=
        steepChunk_sent (st := st'.spent ps.length) (ps := ps) (same.trans way) marked
      exact ⟨_, st2, run, after, left.trans spend, steeped, fun other => absurd other (by simp), fun _ => ⟨counted, flag⟩,
        fun k ne => (others k ne).trans (State.ctx_modCtx_ne _ _ ne)⟩

end Sys2Proof.Machine
end

section
/-! PHASE_PARTIAL and RING_DATA_CHUNK of a barrier (R288, R299) that bring no failed check, in a block whose count of detections
holds more than a word: neither the consumption nor what the barrier does next writes the count, so it stays as wide as it was. -/

namespace Sys2Proof.Machine

namespace State

variable {a : Nat} (other : a ∉ faultRegs) (s : State) (c : Nat)

theorem rd_sendShorts (k : Nat) (ms : List (List Nat × Nat × Bytes)) (a : Nat) : (s.sendShorts c k ms).rd a = s.rd a := by
  refine foldl_keeps (·.rd a) _ (fun s m => ?_) ms s
  split
  · split
    · rfl
    · exact rd_of_sends (sendShort_sends ..) a
  · rfl

include other

theorem rd_fireChains_ne : (s.fireChains c).rd a = s.rd a := by
  unfold fireChains
  split
  · rfl
  · split
    · rfl
    · dsimp only
      split
      · exact rd_ctxFault_ne s c _ other
      · rfl

theorem rd_chainDone_ne (i : Nat) : (s.chainDone c i).rd a = s.rd a := by
  have noEvent : a ∉ lntRegs := fun mem => other (by simp [faultRegs, mem])
  have done (u : State) (st : Step) (ch : Chn) :
      (if ch.c.done = 0xFF ∨ st.cancelled = true then u else u.bump c ch.c.done 1).rd a = u.rd a := by
    split
    · rfl
    · exact rd_fireChains_ne other _ c
  unfold chainDone
  split
  · rfl
  · split
    · rfl
    · split
      · rfl
      · refine (done _ _ _).trans ?_
        split
        · exact rd_event_ne _ _ _ _ _ noEvent
        · rfl

theorem rd_atomCheck_ne : (s.atomCheck c).rd a = s.rd a := by
  unfold atomCheck
  split
  · rfl
  · split
    · rfl
    · exact (rd_of_settled (frames_settled ..) a).trans (rd_heldCheck_ne _ c other)

/-- The end of a chain's collective writes the registers of events and faults alone (R269, R284). -/
theorem rd_closeInst_ne {k : Nat} (chain : k < 256) : (s.closeInst c k).rd a = s.rd a := by
  unfold closeInst
  dsimp only
  rw [if_pos chain]
  exact (rd_atomCheck_ne other _ c).trans (rd_chainDone_ne other _ c k)

variable {s c}

/-- A chain's barrier that waits in its only stage goes on to wait, or closes (R288, R301). -/
theorem rd_go_barrier {k : Nat} {x : CollInst} (inst : s.inst? c k = some x) (chain : k < 256) (main : x.stage = 1)
    (barrier : x.cd.cop = 1) : (s.go c k).rd a = s.rd a := by
  obtain ⟨st, step, -⟩ := step_of_inst inst
  unfold go advFuel advance
  simp only [step, inst, main, barrier, show k ≠ 0x100 by omega, show k ≠ 0x101 by omega, show k ≠ 0x102 by omega, if_true, if_false,
    Nat.reduceEqDiff, Nat.reduceLeDiff]
  split
  · rfl
  · split
    · exact rd_sendShorts s c k _ a
    · exact (rd_closeInst_ne other _ c chain).trans (rd_sendShorts s c k _ a)

end State

/-- The barrier of chain 0, which waits for its message. -/
def openBarrier : CollInst := { cinst := 0, cd := { (default : CollDesc) with cop := 1 } }

/-- Context 5 runs a step with that barrier open. The count of detections holds 2 ^ 32, which no register of a state of the shape
`State.Ok` does; the statements on these commands range over every state. -/
def overCounted : State :=
  { State.reset with
    regs := [(0xC0010, 2 ^ 32)]
    start := { StartSt.reset with phase := .done, started := 15 }
    ctxs := [(5, { enable := true, st := .running, epoch := 3, tracked := [3],
                   step := some { desc := default, epoch := 3, launched := true, insts := [openBarrier] } })] }

/-- A barrier that goes on from a count within a word does not come to a count of 2 ^ 32. -/
theorem go_barrier_count_ne {v t : State} {x : CollInst} (inst : v.inst? 5 0 = some x) (main : x.stage = 1) (barrier : x.cd.cop = 1)
    (went : v.go 5 0 = t) (word : v.rd 0xC0010 < 2 ^ 32) : t.rd 0xC0010 ≠ 2 ^ 32 := by
  have stays := State.rd_go_barrier (a := 0xC0010) (by decide) inst (by decide) main barrier
  rw [went] at stays
  omega

/-- A message of the barrier's phase from chip 9. -/
def partialMsg : Short := ⟨9, 5, 3, encMsg ⟨1, 0, 0, 0, 0, 0, 0, 0, true⟩ []⟩

/-- The message waits. -/
def partialWaits : State := { overCounted with xch := { overCounted.xch with shorts := [partialMsg] } }

theorem partialWaits_taken : partialWaits.takeShort 1 = some (partialMsg, overCounted) := by decide +kernel

theorem phasePartial_overCounts : (instMsgOp 1 0 partialWaits).rd 0xC0010 = 2 ^ 32 := by decide +kernel

/-- Refutes O50: in `partialWaits`, PHASE_PARTIAL without a failed addition leaves the count of detections at 2 ^ 32, while the
statement, which does not ask for registers of 32 bits, has it reduced to a word even where nothing is added. -/
theorem not_instanceMessagesAreConsumed : ¬ Obligations.InstanceMessagesAreConsumed := by
  unfold Obligations.InstanceMessagesAreConsumed
  intro holds
  obtain ⟨-, -, opened⟩ := holds 1 0 0 (.phasePartial 0) partialMsg partialWaits overCounted (.inl ⟨rfl, rfl, rfl⟩) (by decide)
    partialWaits_taken
  obtain ⟨-, -, -, -, consumed, -⟩ := opened _ openBarrier (by decide) (by decide) (by decide) rfl rfl (by decide) (by decide)
  obtain ⟨v, run, inst, -, count, -⟩ := consumed (by decide) (by decide) (by decide) (by decide) (by decide) (by decide)
  exact go_barrier_count_ne inst rfl rfl (Host.Outcome.next.inj run).symm (count.trans_lt (Nat.mod_lt _ (by decide)))
    phasePartial_overCounts

/-- A chunk for the barrier from chip 9, on an uplink. -/
def ringChunk : Landed :=
  ⟨9, 5, 3, 0, { (default : ChunkH) with ckind := 7 }, encRing ⟨0, 0, 0, 0, 3, false, false, 1, 0, 0, 0, 0, 0, false⟩, 0, 0, false⟩

/-- The chunk has landed. -/
def ringWaits : State := { overCounted with xch := { overCounted.xch with inbox := [ringChunk] } }

theorem ringWaits_taken : ltake (fun l : Landed => decide (l.ch.ckind = 7)) ringWaits.xch.inbox = some (ringChunk, []) := by decide

theorem ringDataChunk_overCounts : (ringChunkOp 0 ringWaits).rd 0xC0010 = 2 ^ 32 := by decide +kernel

/-- Refutes O51: in `ringWaits`, RING_DATA_CHUNK without a failed combine leaves the count of detections at 2 ^ 32, while the
statement, which does not ask for registers of 32 bits, has it reduced to a word even where nothing is added. -/
theorem not_ringChunksAreConsumed : ¬ Obligations.RingChunksAreConsumed := by
  unfold Obligations.RingChunksAreConsumed
  intro holds
  obtain ⟨-, -, opened⟩ := holds 0 ringChunk [] ringWaits (by decide) ringWaits_taken
  obtain ⟨-, -, -, consumed⟩ := opened _ openBarrier (by decide) (by decide) (by decide) rfl rfl (by decide) (by decide)
  obtain ⟨v, e, run, inst, -, -, -, -, -, count, -⟩ := consumed 0 (by decide) (by decide) (by decide) (by decide)
  exact go_barrier_count_ne inst rfl rfl (Host.Outcome.next.inj run).symm (count.trans_lt (Nat.mod_lt _ (by decide)))
    ringDataChunk_overCounts

end Sys2Proof.Machine
end

section
/-! POUR_COMBINE (R327, R330 to R335, R340): what the writes of a token's combine and the reads of its spilled slots leave of the step,
of the other contexts, of the registers and of the waiting requests. -/

namespace Sys2Proof.Machine

namespace State

/-- `t` comes from `s` by the reads and writes of a pour of context `c`: its step keeps its pour, requests that wait keep their place,
no other context changes, and no register outside `xs`. -/
structure Pours (s t : State) (c : Nat) (xs : List Nat) : Prop where
  step : ∀ st, s.step? c = some st → ∃ st', t.step? c = some st' ∧ st'.por = st.por
  waits : s.Waits t
  others : ∀ d, d ≠ c → t.ctx d = s.ctx d
  regs : s.KeepsRegs t xs

variable {s t u : State} {c : Nat} {xs : List Nat}

theorem pours_refl (s : State) : s.Pours s c xs := ⟨fun st step => ⟨st, step, rfl⟩, waits_refl s, fun _ _ => rfl, fun _ _ => rfl⟩

theorem Pours.trans (h : s.Pours t c xs) (k : t.Pours u c xs) : s.Pours u c xs := by
  refine ⟨fun st step => ?_, h.waits.trans k.waits, fun d ne => (k.others d ne).trans (h.others d ne),
    fun a free => (k.regs a free).trans (h.regs a free)⟩
  obtain ⟨st', step', por'⟩ := h.step st step
  obtain ⟨st'', step'', por''⟩ := k.step st' step'
  exact ⟨st'', step'', por''.trans por'⟩

theorem pours_foldl {α : Type} {f : State → α → State} (each : ∀ s x, Pours s (f s x) c xs) (l : List α) (s : State) :
    s.Pours (l.foldl f s) c xs := by
  induction l generalizing s with
  | nil => exact pours_refl s
  | cons x l ih => exact (each s x).trans (ih _)

theorem pours_of_ctxs (ctxs : t.ctxs = s.ctxs) (waits : s.Waits t) (regs : s.KeepsRegs t xs) : s.Pours t c xs :=
  ⟨fun st step => ⟨st, (congrArg Ctx.step (ctx_of_ctxs ctxs c)).trans step, rfl⟩, waits, fun d _ => ctx_of_ctxs ctxs d, regs⟩

theorem memPost_pours (s : State) (r : MemReq) : s.Pours (s.memPost r) c xs :=
  pours_of_ctxs rfl (s.memPost_waits r) fun _ _ => rfl

theorem memWrite_pours (s : State) (k a : Nat) (bs : Bytes) (w : MemWhy) : s.Pours (s.memWrite c k a bs w) c xs :=
  pours_foldl (fun s r => s.memPost_pours r) _ s

theorem count_pours (s : State) {a : Nat} (n : Nat) (mem : a ∈ xs) : s.Pours (s.count a n) c xs :=
  pours_of_ctxs rfl (s.wr_waits a _) fun _ free => rd_count_ne s n fun eq => free (eq ▸ mem)

/-- A charge moves the counters of its context and the windows alone. -/
theorem Charged.pours (charged : s.Charged t c) : s.Pours t c xs := by
  refine ⟨fun st step => ⟨st, ?_, rfl⟩, waits_of (waits_refl t) ?_, charged.others, fun a _ => rd_of_regs s ?_ a⟩
  · exact (congrArg Ctx.step charged.self).trans step
  · rw [charged.rest]
  · rw [charged.rest]

theorem digest_pours (s : State) (k i : Nat) (bs : Bytes) : s.Pours (s.digest c k i bs) c xs := by
  refine ⟨fun st step => ⟨_, s.step_modStep _ step, ?_⟩, waits_refl s, fun _ ne => ctx_modCtx_ne _ _ ne, fun _ _ => rfl⟩
  split
  · rfl
  · rfl

theorem digestLines_pours (s : State) (k off : Nat) (bs : Bytes) : s.Pours (s.digestLines c k off bs) c xs :=
  pours_foldl (fun s _ => s.digest_pours ..) _ s

/-- The read of a spilled slot posts requests and does nothing else (R327). -/
theorem readSlot_pours (s : State) (st : Step) (i : Nat) : s.Pours (readSlot c st s i) c xs :=
  pours_foldl (fun s _ => s.memPost_pours _) _ s

/-- Registers that special functions count in (R221). -/
def sfnRegs : List Nat := [0x100004, 0x100008]

theorem sfn_pours (s : State) (p n : Nat) (k : SfnCnt) : s.Pours (s.sfn p c n k) c sfnRegs :=
  (s.count_pours k.nan (by decide)).trans ((count_pours _ k.inf (by decide)).trans (energy_charged ..).pours)

theorem writeGrad_pours (s : State) (tok : Nat) (st : Step) (hv : HostView) : s.Pours (s.writeGrad c tok st hv) c sfnRegs := by
  unfold writeGrad
  split
  · exact pours_refl s
  · refine Pours.trans ?_ (digestLines_pours ..)
    refine Pours.trans ?_ (memWrite_pours ..)
    exact (pours_foldl (fun s _ => (s.chargeRead_charged ..).pours) _ s).trans (sfn_pours ..)

theorem writeGrad_none {st : Step} (writes : st.writesGrads = false) (s : State) (tok : Nat) (hv : HostView) :
    s.writeGrad c tok st hv = s := by
  unfold writeGrad
  rw [writes]
  rfl

theorem staging_pours (s : State) (p : Nat) : s.Pours (s.staging p c) c xs :=
  (pours_of_ctxs (s := s) (t := { s with free := s.free + 1 }) rfl (waits_refl s) fun _ _ => rfl).trans (energy_charged ..).pours

theorem writeRow_pours (s : State) (tok : Nat) (st : Step) (acc : List W32) : s.Pours (s.writeRow c tok st acc) c xs :=
  (s.staging_pours _).trans ((memWrite_pours ..).trans (digest_pours ..))

/-- The row joins the waiting writes at the token's place (R334). -/
theorem writeRow_wait (s : State) (tok : Nat) (st : Step) (acc : List W32) : (s.writeRow c tok st acc).mem.wait =
    s.mem.wait ++ numbered s.mem.nextId (writeReqs c 1 ⟨.outRow, tok⟩ (ceilDiv (outBytes st.desc.outFmt acc).length 4096)
      (st.desc.outAddr + tok * st.desc.outStride) (outBytes st.desc.outFmt acc)) :=
  memWrite_wait (s.staging (s.pourPitch c tok) c) c 1 _ _ _

theorem writeRow_rest (s : State) (tok : Nat) (st : Step) (acc : List W32) : s.writeRow c tok st acc = { s with
    ctxs := (s.writeRow c tok st acc).ctxs
    pitches := (s.writeRow c tok st acc).pitches
    free := (s.writeRow c tok st acc).free
    mem := { s.mem with wait := (s.writeRow c tok st acc).mem.wait, nextId := (s.writeRow c tok st acc).mem.nextId } } := by
  have rest := memWrite_rest (s.staging (s.pourPitch c tok) c) c 1 (st.desc.outAddr + tok * st.desc.outStride)
    (outBytes st.desc.outFmt acc) ⟨.outRow, tok⟩
  rw [memWrite_xch] at rest
  unfold writeRow
  dsimp only
  rw [rest]
  rfl

end State

/-- The step with a token combined. -/
def Step.poured (tok : Nat) (st : Step) : Step := { st with por := { st.por with comb := st.por.comb ++ [tok] } }

/-- The step with reads of slots asked for. -/
def Step.slotsAsked (is : List Nat) (st : Step) : Step := { st with por := { st.por with asked := st.por.asked ++ is } }

/-- The state with the output row of a token written, where it has one (R334). -/
def State.rowPut (s : State) (c tok : Nat) (st : Step) : Option (List W32) → State
  | some acc => s.writeRow c tok st acc
  | none => s

theorem State.rowPut_pours (s : State) (c tok : Nat) (st : Step) (o : Option (List W32)) {xs : List Nat} :
    s.Pours (s.rowPut c tok st o) c xs := by
  cases o with
  | none => exact pours_refl s
  | some acc => exact s.writeRow_pours tok st acc

/-- A combine that has written what it writes counts the token as combined. -/
theorem State.Pours.combined {s u : State} {c : Nat} {xs : List Nat} {st : Step} (h : s.Pours u c xs) (step : s.step? c = some st)
    (tok : Nat) :
    (∃ st', (u.modStep c (Step.poured tok)).step? c = some st' ∧ st'.por.comb = st.por.comb ++ [tok]) ∧
      ∀ d, d ≠ c → (u.modStep c (Step.poured tok)).ctx d = s.ctx d := by
  obtain ⟨st', step', por⟩ := h.step st step
  refine ⟨⟨st'.poured tok, u.step_modStep _ step', ?_⟩, fun d ne => (ctx_modCtx_ne _ _ ne).trans (h.others d ne)⟩
  show st'.por.comb ++ [tok] = _
  rw [por]

/-- The slots of a token are asked for, each once, and the token waits for them (R327). -/
theorem State.readSlots_asks {s : State} {c : Nat} {st : Step} (step : s.step? c = some st) (tok : Nat) :
    ∃ st', (s.readSlots c tok st).step? c = some st' ∧
      st'.por.asked = st.por.asked ++ (st.spilledOf tok).filter (fun i => !(st.por.asked.contains i)) ∧
      st'.por.comb = st.por.comb ∧ s.mem.wait <+: (s.readSlots c tok st).mem.wait ∧
      (∀ d, d ≠ c → (s.readSlots c tok st).ctx d = s.ctx d) ∧ s.KeepsRegs (s.readSlots c tok st) [] := by
  have reads := pours_foldl (c := c) (xs := []) (fun v i => v.readSlot_pours st i)
    ((st.spilledOf tok).filter (fun i => !(st.por.asked.contains i)))
    (s.modStep c (Step.slotsAsked ((st.spilledOf tok).filter (fun i => !(st.por.asked.contains i)))))
  obtain ⟨st', step', por⟩ := reads.step _ (s.step_modStep _ step)
  exact ⟨st', step', congrArg PourSt.asked por, (congrArg PourSt.comb por :), reads.waits,
    fun d ne => (reads.others d ne).trans (ctx_modCtx_ne _ _ ne), reads.regs⟩

/-- What a token's gradient entry waits for: its row, where the ledger has the token, and the governor (R340, R471). -/
def State.gradReady (s : State) (c tok : Nat) (st : Step) : Prop :=
  ((st.row tok).isSome = true ∨ ∀ l ∈ st.rt.ledger, l.1 ≠ tok) ∧ s.paceOk (s.pourPitch c tok) = true

theorem exec_pourCombine (c tok : Nat) (hv : HostView) (s : State) :
    exec (.pourCombine c tok hv) s = .next (pourCombineOp c tok hv s) := rfl

section Combine

variable {c tok : Nat} {hv : HostView} {s : State} {st : Step} {o : Option (List W32)}
  (step : s.step? c = some st) (on : s.on = true) (active : (s.ctx c).active = true) (launched : st.launched = true)
  (cancelled : st.cancelled = false) (ended : st.ended = false) (tokens : st.desc.tokens = true) (turn : st.pourTurn tok = true)
include step

theorem pourCombineOp_awaits (row : st.pourRow tok = none) : pourCombineOp c tok hv s = s := by
  simp only [pourCombineOp, step, row, ite_self]

include on active launched cancelled ended tokens turn

/-- A token whose turn has come and whose rows are there asks for its spilled slots, faults, or is combined (R327, R335). -/
theorem pourCombineOp_taken (row : st.pourRow tok = some o)
    (grads : st.writesGrads = true → s.gradReady c tok st) :
    pourCombineOp c tok hv s =
      if st.spilledOf tok ≠ [] then s.readSlots c tok st
      else if hv.fault ≠ 0 then s.ctxFault c hv.fault
      else ((s.rowPut c tok st o).writeGrad c tok st hv).modStep c (Step.poured tok) := by
  have ready : (!st.writesGrads || (st.row tok).isSome || st.rt.ledger.all (fun l => decide (l.1 ≠ tok))) = true ∧
      (st.writesGrads && !s.paceOk (s.pourPitch c tok)) = false := by
    cases writes : st.writesGrads with
    | false => exact ⟨rfl, rfl⟩
    | true =>
      obtain ⟨rows, pace⟩ := grads writes
      simpa [pace] using rows
  obtain ⟨rowOk, paced⟩ := ready
  simp only [pourCombineOp, step, on, active, launched, cancelled, ended, tokens, turn, rowOk, paced, row, Bool.not_true,
    Bool.or_self, Bool.false_eq_true, if_false]
  cases o with
  | none => rfl
  | some acc => rfl

/-- A token with no slot left to read back and no fault is combined. -/
theorem pourCombineOp_combines (row : st.pourRow tok = some o)
    (grads : st.writesGrads = true → s.gradReady c tok st)
    (back : st.spilledOf tok = []) (sound : hv.fault = 0) :
    pourCombineOp c tok hv s = ((s.rowPut c tok st o).writeGrad c tok st hv).modStep c (Step.poured tok) := by
  rw [pourCombineOp_taken step on active launched cancelled ended tokens turn row grads, if_neg (not_not.mpr back),
    if_neg (not_not.mpr sound)]

/-- Where the step writes no gradients, the token's row is all that its combine writes. -/
theorem pourCombineOp_combines_row (row : st.pourRow tok = some o) (writes : st.writesGrads = false)
    (back : st.spilledOf tok = []) (sound : hv.fault = 0) :
    pourCombineOp c tok hv s = (s.rowPut c tok st o).modStep c (Step.poured tok) := by
  rw [pourCombineOp_combines step on active launched cancelled ended tokens turn row (by simp [writes]) back sound,
    State.writeGrad_none writes]

end Combine

/-- Settles O60: `pourCombineOp_taken` gives the three outcomes of a token whose rows are there; `Pours` frames its writes. -/
theorem pourCombineWritesRow : Obligations.PourCombineWritesRow := by
  unfold Obligations.PourCombineWritesRow
  intro c tok hv st s step on active launched cancelled ended tokens turn
  simp only [exec_pourCombine]
  have taken {o} := pourCombineOp_taken (hv := hv) (o := o) step on active launched cancelled ended tokens turn
  have combines {o} := pourCombineOp_combines (hv := hv) (o := o) step on active launched cancelled ended tokens turn
  have plain {o} := pourCombineOp_combines_row (hv := hv) (o := o) step on active launched cancelled ended tokens turn
  refine ⟨fun o grads row => ⟨fun spilled => ?_, fun back fault => ?_⟩, fun acc writes row back sound => ?_,
    fun writes row back sound => ?_, fun o writes rows pace row back sound => ?_, fun row => ?_⟩
  · obtain ⟨st', asks⟩ := State.readSlots_asks step tok
    exact ⟨_, st', congrArg _ ((taken row grads).trans (if_pos spilled)), asks⟩
  · rw [taken row grads, if_neg (not_not.mpr back), if_pos fault]
  · obtain ⟨⟨st', step', comb⟩, others⟩ := (s.writeRow_pours (xs := []) tok st acc).combined step tok
    exact ⟨_, st', congrArg _ (plain row writes back sound), step', comb, s.writeRow_wait tok st acc, others,
      (s.writeRow_pours tok st acc).regs,
      congrArg (fun v : State => v.modStep c (Step.poured tok)) (s.writeRow_rest tok st acc)⟩
  · obtain ⟨⟨st', step', comb⟩, others⟩ := (State.pours_refl (xs := []) s).combined step tok
    exact ⟨_, st', congrArg _ (plain row writes back sound), step', comb, others, rfl⟩
  · have pours := (s.rowPut_pours c tok st o).trans ((s.rowPut c tok st o).writeGrad_pours tok st hv)
    obtain ⟨⟨st', step', comb⟩, others⟩ := pours.combined step tok
    exact ⟨_, st', congrArg _ (combines row (fun _ => And.intro rows pace) back sound), step', comb, pours.waits, others, pours.regs⟩
  · rw [pourCombineOp_awaits step row]

end Sys2Proof.Machine
end

section
/-! ROUTER_SWITCH_AT (R370): with the new base address of its directories the model's residency change is counted (log entry 179),
so that a step checked before the tick is checked again when it is accepted. -/

namespace Sys2Proof.Machine

/-- At the tick of a pending switch of model `w.model`, the count of that model's residency changes goes up by one. -/
theorem routerSwitchOp_countsResidency {s : State} {w : Switch} (on : s.on = true) (pending : s.bal.rsw = some w)
    (due : w.at_ ≤ s.now) : tget 0 (routerSwitchOp s).ktl.gens w.model = tget 0 s.ktl.gens w.model + 1 := by
  unfold routerSwitchOp
  rw [pending]
  simp only [on, due, decide_true, Bool.and_true, if_true]
  exact tget_tput_self 0 (tget 0 s.ktl.gens w.model + 1) s.ktl.gens w.model

/-- A switch of model 5 to the directories at 4,096 and 8,192, due at tick 0. -/
def switchDue : Switch := { model := 5, base := 0x1000, ldir := 0x2000 }

/-- A started block with that switch pending. -/
def routerSwitchDue : State :=
  { State.reset with
    start := { StartSt.reset with phase := .done, started := 15 }
    bal := { rsw := some switchDue } }

theorem routerSwitchDue_ok : routerSwitchDue.Ok := by constructor <;> decide

/-- Refutes O14: in `routerSwitchDue`, ROUTER_SWITCH_AT counts a residency change of model 5, while the statement has all but the
registers and the Balancer's switches stay as they were. -/
theorem not_switchesArmAndTakeEffect : ¬ Obligations.SwitchesArmAndTakeEffect := by
  unfold Obligations.SwitchesArmAndTakeEffect
  rintro ⟨⟨-, switches⟩, -⟩
  have on : routerSwitchDue.on = true := by decide
  have due : switchDue.at_ ≤ routerSwitchDue.now := Nat.zero_le _
  obtain ⟨t, run, -, -, -, -, frame⟩ := switches switchDue routerSwitchDue on rfl due (by decide) (by decide) (by decide)
  obtain rfl : routerSwitchOp routerSwitchDue = t := Host.Outcome.next.inj run
  have stays := congrArg State.ktl frame
  have counts := routerSwitchOp_countsResidency on rfl due
  rw [stays] at counts
  exact Nat.succ_ne_self _ counts.symm

end Sys2Proof.Machine
end

section
/-! One step of the block, and what a read returns after reset (R14, R61, R516 to R519). -/

namespace Sys2Proof.Machine

/-- Every command answers a next state, whatever the state it runs on (log entry 4). -/
theorem exec_next (c : Instr) (s : State) : ∃ t, exec c s = .next t := by
  cases c <;> exact ⟨_, rfl⟩

/-- Settles O1: a step is a case on the queue, and every command answers a next state. -/
theorem stepRunsFrontCommand : Obligations.StepRunsFrontCommand := by
  unfold Obligations.StepRunsFrontCommand
  refine ⟨fun c r s front => ?_, fun s empty => ?_, exec_next⟩
  · rw [step, front]
  · rw [step, empty]

/-- Settles O4: by evaluation of the map's reset words and of the values that the block forms. -/
theorem resetRegisterValues : Obligations.ResetRegisterValues := by
  unfold Obligations.ResetRegisterValues
  exact ⟨by decide, rfl, rfl, rfl⟩

end Sys2Proof.Machine
end


section
/-! Pace lock and record mode (R408, R409, R414, R420): what the writes of DET_CTL and a slip change, and what they leave. -/

namespace Sys2Proof.Machine

/-- The low bits of a word are those of what is stored in it (R60). -/
theorem bit_mod_word {i : Nat} (hi : i < 32) (v : Nat) : bit (v % 2 ^ 32) i = bit v i := by
  rw [bit_testBit, bit_testBit, Nat.testBit_mod_two_pow]
  simp [hi]

/-- Two steps of which each leaves all but the control port's outputs and latches leave the same together. -/
theorem still_ctl_trans {s u t : State} (first : u.still = ({ s with ctl := u.ctl } : State).still)
    (second : t.still = ({ u with ctl := t.ctl } : State).still) : t.still = ({ s with ctl := t.ctl } : State).still :=
  second.trans (congrArg (fun x : State => ({ x with ctl := t.ctl } : State)) first)

namespace State

variable (s : State)

theorem fresh_still (a : Nat) : (s.fresh a).still = ({ s with ctl := (s.fresh a).ctl } : State).still :=
  congrArg State.still (s.fresh_eq a)

theorem fresh_err (a : Nat) : (s.fresh a).ctl.err = s.ctl.err := by
  unfold fresh
  split <;> rfl

/-- DET_CTL is written (R414, R420, R498): the write is recorded and acknowledged, and the register takes its value. -/
def detWrote (data v : Nat) : State := ((s.wrote 0xF0000 data).fresh 0xF0000).wr 0xF0000 v

theorem rd_detWrote_self (data v : Nat) : (s.detWrote data v).rd 0xF0000 = v % 2 ^ 32 := rd_wr_self ..

theorem detWrote_keeps (data v : Nat) : s.KeepsRegs (s.detWrote data v) (0xF0000 :: 0xF000C :: lntRegs) := by
  intro x hx
  rw [List.mem_cons, not_or] at hx
  rw [detWrote, rd_wr_ne _ _ hx.1, fresh_rd]
  exact s.wrote_keeps _ _ x hx.2

theorem detWrote_err (data v : Nat) : (s.detWrote data v).ctl.err = false := fresh_err ..

theorem detWrote_still (data v : Nat) : (s.detWrote data v).still = ({ s with ctl := (s.detWrote data v).ctl } : State).still :=
  still_ctl_trans (u := s.wrote 0xF0000 data) (s.wrote_still 0xF0000 data)
    ((wr_still ..).trans ((s.wrote 0xF0000 data).fresh_still 0xF0000))

theorem wrote_rd_detCtl (data : Nat) : (s.wrote 0xF0000 data).rd 0xF0000 = s.rd 0xF0000 :=
  s.wrote_keeps _ _ _ (by decide)

/-- Every pitch holds to the pace slots, or is released from them (R408). -/
def lockPitches (on : Bool) : State := { s with pitches := s.pitches.map (fun p => { p with locked := on }) }

theorem detWrote_pitches (data v : Nat) : (s.detWrote data v).pitches = s.pitches := (still_pitches (s.detWrote_still data v)).trans rfl

theorem lockPitches_pitch {p : Nat} (hp : p < s.pitches.length) (on : Bool) :
    (s.lockPitches on).pitch p = { s.pitch p with locked := on } := by
  simp [lockPitches, pitch, List.getD_eq_getElem?_getD, hp]

/-- Every pace meter reads 1,600, as it does under pace lock (R420). -/
def lockedPace : State := [0, 1, 2, 3].foldl (fun s p => s.wr (pwrAt p 0) 1600) s

theorem rd_lockedPace (x : Nat) : s.lockedPace.rd x = if x ∈ [pwrAt 0 0, pwrAt 1 0, pwrAt 2 0, pwrAt 3 0] then 1600 else s.rd x := by
  simp only [lockedPace, List.foldl_cons, List.foldl_nil, rd_wr, List.mem_cons, List.not_mem_nil]
  split_ifs <;> tauto

theorem lockedPace_still : s.lockedPace.still = s.still := by simp only [lockedPace, List.foldl_cons, List.foldl_nil, wr_still]

/-- PLOCK_WRITE as far as the meters (R420): DET_CTL with PLOCK as written, and the pitches with it. -/
def plocked (on : Bool) : State :=
  (s.detWrote (setField (s.rd 0xF0000) 0 1 (b2n on)) (setField (s.rd 0xF0000) 0 1 (b2n on))).lockPitches on

theorem plocked_pitch {p : Nat} (hp : p < s.pitches.length) (on : Bool) : (s.plocked on).pitch p = { s.pitch p with locked := on } := by
  refine (lockPitches_pitch _ ((s.detWrote_pitches _ _).symm ▸ hp) on).trans ?_
  rw [pitch, detWrote_pitches]
  rfl

theorem plocked_length (on : Bool) : (s.plocked on).pitches.length = s.pitches.length :=
  (List.length_map ..).trans (congrArg List.length (s.detWrote_pitches _ _))

theorem plocked_err (on : Bool) : (s.plocked on).ctl.err = false :=
  s.detWrote_err (setField (s.rd 0xF0000) 0 1 (b2n on)) (setField (s.rd 0xF0000) 0 1 (b2n on))

theorem plocked_still (on : Bool) :
    (s.plocked on).still = ({ s with ctl := (s.plocked on).ctl, pitches := (s.plocked on).pitches } : State).still :=
  congrArg (fun x : State => ({ x with pitches := (s.plocked on).pitches } : State)) (s.detWrote_still ..)

theorem plocked_keeps (on : Bool) : s.KeepsRegs (s.plocked on) (0xF0000 :: 0xF000C :: lntRegs) := s.detWrote_keeps _ _

theorem bit_plocked {i : Nat} (hi : i < 32) (on : Bool) : bit ((s.plocked on).rd 0xF0000) i = if i = 0 then on else bit (s.rd 0xF0000) i := by
  refine (congrArg (bit · i) (s.rd_detWrote_self _ _)).trans ?_
  rw [bit_mod_word hi, bit_setField_one]
  cases on <;> rfl

end State

theorem plockOp_open {s : State} (on : Bool) (opened : s.portOpen = true) :
    plockOp on s = if on then (s.plocked on).lockedPace else s.plocked on := by
  have same := s.wrote_rd_detCtl (setField (s.rd 0xF0000) 0 1 (b2n on))
  change (s.recWrite _ _).ackWrite.rd _ = _ at same
  unfold plockOp State.wrF State.plocked State.detWrote
  simp only [opened, Bool.not_true, Bool.false_eq_true, if_false, State.fresh_rd]
  rw [same]
  rfl

/-- What RECORD_CTL_WRITE stores in DET_CTL (R420): PLOCK is the old one. -/
def recordCtlWord (old data : Nat) : Nat := data &&& 0xFFF1C ||| old % 2

theorem bit_recordCtlWord (old data i : Nat) : bit (recordCtlWord old data) i =
    if bit 0xFFF1C i then bit data i else decide (i = 0) && bit old 0 := by
  have low : (old % 2).testBit i = (decide (i = 0) && old.testBit 0) := by
    have h := Nat.testBit_mod_two_pow old 1 i
    by_cases zero : i = 0
    · simp [zero]
    · simpa [zero] using h
  rw [recordCtlWord, bit_testBit, bit_testBit, bit_testBit, bit_testBit, Nat.testBit_or, Nat.testBit_and, low]
  by_cases zero : i = 0
  · subst zero
    rw [show (0xFFF1C : Nat).testBit 0 = false from rfl]
    simp
  · simp [zero, Bool.and_comm]

theorem recordCtlOp_open {s : State} (data : W32) (opened : s.portOpen = true) : recordCtlOp data s =
    let u := s.detWrote data.toNat (recordCtlWord (s.rd 0xF0000) data.toNat)
    if !(bit (s.rd 0xF0000) 2) && bit data.toNat 2 then { u with det := { u.det with head := 0, full := false } } else u := by
  simp only [recordCtlOp, opened, Bool.not_true, Bool.false_eq_true, if_false]
  rfl

theorem slipOp_slips {s : State} {p : Nat} (alive : s.alive = true) (live : s.pitchLive p = true) (locked : (s.pitch p).locked = true) :
    slipOp p s = s.slip p := by
  simp [slipOp, alive, live, locked]

theorem slip_counts (s : State) (p : Nat) :
    bits ((s.slip p).rd 0xF000C) 2 14 = min (bits (s.rd 0xF000C) 2 14 + 1) (2 ^ 14 - 1) := by
  rw [State.slip, State.rd_notice_ne _ _ (by decide), State.rd_event_ne _ _ _ _ _ (by decide)]
  exact s.bits_countSat 0xF000C 2 14 1 (by decide)

/-- Settles O24: one clause per command, each by the equation of its outcome. -/
theorem determinismControlsTakeEffect : Obligations.DeterminismControlsTakeEffect := by
  unfold Obligations.DeterminismControlsTakeEffect
  refine ⟨⟨fun on s ok opened => ?plock, fun data s opened => ?record⟩, fun p s alive live locked => ?slip⟩
  case plock =>
    have pitches (p : Nat) (hp : p < 4) := s.plocked_pitch (ok.pitches.symm ▸ hp) on
    refine ⟨_, congrArg Host.Outcome.next (plockOp_open on opened), ?_⟩
    cases on
    case false =>
      refine ⟨s.plocked_length _, pitches, s.bit_plocked (i := 0) (by decide) false, fun i hi nonzero => ?_, fun off => ?_, fun x hx => ?_,
        s.plocked_err false, s.plocked_still false⟩
      · exact (s.bit_plocked hi false).trans (if_neg nonzero)
      · exact absurd off (by decide)
      · exact s.plocked_keeps false x (by simp only [List.mem_cons, not_or] at hx ⊢; tauto)
    case true =>
      have ctl : (s.plocked true).lockedPace.rd 0xF0000 = (s.plocked true).rd 0xF0000 := State.rd_lockedPace _ _
      refine ⟨s.plocked_length _, pitches, ?_, fun i hi nonzero => ?_, fun _ p hp => ?_, fun x hx => ?_, s.plocked_err true,
        (State.lockedPace_still _).trans (s.plocked_still true)⟩
      · exact (congrArg (bit · 0) ctl).trans (s.bit_plocked (i := 0) (by decide) true)
      · exact (congrArg (bit · i) ctl).trans ((s.bit_plocked hi true).trans (if_neg nonzero))
      · refine (State.rd_lockedPace _ _).trans (if_pos ?_)
        interval_cases p <;> decide
      · refine (State.rd_lockedPace _ _).trans ((if_neg ?_).trans (s.plocked_keeps true x ?_)) <;>
          (simp only [List.mem_cons, not_or] at hx ⊢; tauto)
  case record =>
    have word (i : Nat) (hi : i < 32) : bit ((s.detWrote data.toNat (recordCtlWord (s.rd 0xF0000) data.toNat)).rd 0xF0000) i =
        if bit 0xFFF1C i then bit data.toNat i else decide (i = 0) && bit (s.rd 0xF0000) 0 := by
      rw [State.rd_detWrote_self, bit_mod_word hi, bit_recordCtlWord]
    have keeps := s.detWrote_keeps data.toNat (recordCtlWord (s.rd 0xF0000) data.toNat)
    have err := s.detWrote_err data.toNat (recordCtlWord (s.rd 0xF0000) data.toNat)
    have still := s.detWrote_still data.toNat (recordCtlWord (s.rd 0xF0000) data.toNat)
    refine ⟨_, congrArg Host.Outcome.next (recordCtlOp_open data opened), ?_⟩
    generalize s.detWrote data.toNat (recordCtlWord (s.rd 0xF0000) data.toNat) = u at *
    dsimp only
    split
    case isTrue => exact ⟨word, fun _ _ => ⟨rfl, rfl⟩, keeps, err, still⟩
    case isFalse old =>
      refine ⟨word, fun off on => absurd ?_ old, keeps, err, still⟩
      rw [off, on]
      rfl
  case slip =>
    refine ⟨_, congrArg Host.Outcome.next (slipOp_slips alive live locked), slip_counts s p, State.bit_setBit_self _ _ _ (by decide),
      ⟨s.countSat 0xF000C 2 14 1, rfl, rfl, rfl⟩, fun x hx => s.rd_slip_ne p hx, s.slip_still p⟩

end Sys2Proof.Machine
end

section
/-! The Lantern queue (R455 to R467): moving entries between head registers, tail registers and the Bivouac keeps their words
and their order; what an arriving event, a read and a flush do to the queue. -/

namespace Sys2Proof.Machine

theorem foldl_max_mem (l : List Nat) (a : Nat) : l.foldl max a ∈ a :: l := by
  induction l generalizing a with
  | nil => exact List.mem_cons_self
  | cons x l ih =>
    rcases List.mem_cons.mp (ih (max a x)) with first | later
    · rw [List.foldl_cons, first]
      rcases max_choice a x with h | h <;> simp [h]
    · exact List.mem_cons_of_mem _ (List.mem_cons_of_mem _ later)

theorem foldl_min_eq {l : List Nat} {a m : Nat} (mem : m ∈ a :: l) (least : ∀ x ∈ a :: l, m ≤ x) : l.foldl min a = m := by
  induction l generalizing a with
  | nil => exact (List.mem_singleton.mp mem).symm
  | cons x l ih =>
    have toA := least a List.mem_cons_self
    have toX := least x (by simp)
    refine ih ?_ fun y hy => ?_
    · simp only [List.mem_cons] at mem ⊢
      rcases mem with rfl | rfl | later
      · exact .inl (by omega)
      · exact .inl (by omega)
      · exact .inr later
    · rcases List.mem_cons.mp hy with rfl | later
      · exact Nat.le_min.mpr ⟨toA, toX⟩
      · exact least y (by simp [later])

/-- The first element that meets `p` is taken, and the others stay in their order. -/
theorem ltake_split {α : Type} {p : α → Bool} {l r : List α} {x : α} (before : ∀ y ∈ l, p y = false) (here : p x = true) :
    ltake p (l ++ x :: r) = some (x, l ++ r) := by
  induction l with
  | nil => simp [ltake, here]
  | cons y l ih => simp [ltake, before y List.mem_cons_self, ih fun z hz => before z (List.mem_cons_of_mem y hz)]

theorem ltake_isSome {α : Type} {p : α → Bool} {l : List α} {x : α} (mem : x ∈ l) (here : p x = true) : (ltake p l).isSome = true := by
  induction l with
  | nil => cases mem
  | cons y l ih =>
    unfold ltake
    by_cases first : p y = true
    · simp [first]
    · rcases List.mem_cons.mp mem with rfl | later
      · exact absurd here first
      · have rest := ih later
        rw [if_neg first]
        split
        next none => rw [none] at rest; cases rest
        next => rfl

/-- A queue that holds an entry holds one of its lowest priority (R465). -/
theorem worstLevel_mem {es : List LEntry} (some_ : es ≠ []) : ∃ e ∈ es, e.level = worstLevel es := by
  obtain ⟨e, r, rfl⟩ := List.exists_cons_of_ne_nil some_
  have mem := foldl_max_mem (r.map LEntry.level) e.level
  rw [show (r.map LEntry.level).foldl max e.level = worstLevel (e :: r) by simp [worstLevel]] at mem
  rcases List.mem_cons.mp mem with first | later
  · exact ⟨e, List.mem_cons_self, first.symm⟩
  · obtain ⟨x, hx, level⟩ := List.mem_map.mp later
    exact ⟨x, List.mem_cons_of_mem e hx, level⟩

/-- One entry goes when the oldest of the lowest priority is dropped. -/
theorem dropOldest_length {es : List LEntry} (some_ : es ≠ []) : (dropOldest (worstLevel es) es).length + 1 = es.length := by
  obtain ⟨e, mem, level⟩ := worstLevel_mem some_
  have found : (ltake (fun x : LEntry => decide (x.level = worstLevel es)) es).isSome = true := ltake_isSome mem (by simp [level])
  unfold dropOldest
  split
  next none => rw [none] at found; cases found
  next took => exact ltake_length took

namespace State

variable (s : State)

/-- The words of the queue's entries, the oldest first: what the moves of R457 leave. -/
def queued : List (List Nat) := s.lnt.ents.map LEntry.words

theorem lntMove_queued (i : Nat) (p : LPlace) : (s.lntMove i p).queued = s.queued := by
  simp only [queued, lntMove, modEnts_lnt, List.map_map]
  refine List.map_congr_left fun e _ => ?_
  simp only [Function.comp]
  split <;> rfl

theorem lntSpill_queued : s.lntSpill.queued = s.queued := by
  unfold lntSpill
  split
  · rfl
  · split
    · rfl
    · simp only [queued, memWriteWords, memPost_lnt, modEnts_lnt, List.map_map]
      refine List.map_congr_left fun e _ => ?_
      simp only [Function.comp]
      split <;> rfl

theorem lntRefill_queued (l n : Nat) : (lntRefill l n s).queued = s.queued := by
  induction n generalizing s with
  | zero => rfl
  | succ n ih =>
    unfold lntRefill
    split
    · rfl
    · split
      · rfl
      · split
        · exact (ih _).trans (s.lntMove_queued _ _)
        · split
          · exact (ih _).trans (s.lntMove_queued _ _)
          · rfl

theorem lntRefillAll_queued : s.lntRefillAll.queued = s.queued := by
  unfold lntRefillAll
  split
  · simp only [lntRefill_queued]
  · rfl

theorem lntAdd_queued (l : Nat) (ws : List Nat) : (s.lntAdd l ws).queued = s.queued ++ [ws] := by
  unfold lntAdd
  dsimp only
  split
  · simp only [lntRefillAll_queued, lntSpill_queued]
    exact List.map_append
  · exact List.map_append

theorem queued_length : s.queued.length = s.lnt.ents.length := List.length_map ..

theorem lntCross_lnt : s.lntCross.lnt = s.lnt := rfl

/-- Registers of a count that rises to the level (R467). -/
theorem lntCross_keeps : s.KeepsRegs s.lntCross [0x20, 0xB001C, 0xB0028] := by
  intro x hx
  simp only [List.mem_cons, List.not_mem_nil, or_false, not_or] at hx
  rw [lntCross, rd_count_ne _ _ hx.2.2, rd_notice_ne _ _ hx.1, rd_setBit_ne _ _ hx.2.1]

/- An event that arrives (R465) -/

/-- Below the capacity an entry enters at the young end. -/
theorem lntEnter_room (l : Nat) (ws : List Nat) (room : s.lnt.ents.length < s.lntCap) :
    (s.lntEnter l ws).queued = s.queued ++ [ws] ∧ s.KeepsRegs (s.lntEnter l ws) [0x20, 0xB001C, 0xB0028] := by
  unfold lntEnter
  rw [if_neg (Nat.not_le.mpr room)]
  dsimp only
  split
  · refine ⟨?_, fun x hx => ((s.lntAdd l ws).lntCross_keeps x hx).trans (s.rd_lntAdd l ws x)⟩
    exact (congrArg (fun q : Lnt => q.ents.map LEntry.words) (lntCross_lnt _)).trans (s.lntAdd_queued l ws)
  · exact ⟨s.lntAdd_queued l ws, fun x _ => s.rd_lntAdd l ws x⟩

/-- At the capacity, an entry of lower priority than every level present is lost. -/
theorem lntEnter_discarded (l : Nat) (ws : List Nat) (full : s.lntCap ≤ s.lnt.ents.length) (lower : worstLevel s.lnt.ents < l) :
    s.lntEnter l ws = s.lntLost l 1 := by
  unfold lntEnter
  rw [if_pos full]
  exact if_pos lower

/-- At the capacity, the oldest entry of the lowest priority present gives way. -/
theorem lntEnter_replaces (l : Nat) (ws : List Nat) (full : s.lntCap ≤ s.lnt.ents.length) (atLeast : l ≤ worstLevel s.lnt.ents) :
    s.lntEnter l ws = ((s.modEnts (dropOldest (worstLevel s.lnt.ents))).lntLost (worstLevel s.lnt.ents) 1).lntAdd l ws := by
  unfold lntEnter
  rw [if_pos full]
  exact if_neg (Nat.not_lt.mpr atLeast)

theorem ents_ne_nil_of_full (full : s.lntCap ≤ s.lnt.ents.length) : s.lnt.ents ≠ [] := by
  rintro none
  rw [none, lntCap, List.length_nil] at full
  omega

end State

/-- A flush of the queue (R466) before its write is recorded. -/
def State.flushed (s : State) : State := (((s.modEnts (fun _ => [])).dropBiv.wr 0xB0008 0).wr 0xB000C 0).wr 0xB0010 0

theorem lanternFlushOp_open {s : State} (alive : s.alive = true) (opened : s.ctlOpen 0xB0000 = true) :
    lanternFlushOp s = (s.flushed.recWrite 0xB0000 1).ackWrite := by
  simp only [lanternFlushOp, alive, opened, Bool.not_true, Bool.or_self, Bool.false_eq_true, if_false]
  rfl

theorem State.rd_flushed (s : State) (x : Nat) : s.flushed.rd x = if x ∈ [0xB0008, 0xB000C, 0xB0010] then 0 else s.rd x := by
  simp only [State.flushed, State.rd_wr, List.mem_cons, List.not_mem_nil, or_false]
  split_ifs <;> first | rfl | omega

/-- Settles O28: by the room in the queue and the event's level; a flush writes no register of the counts. -/
theorem eventEntersQueue : Obligations.EventEntersQueue := by
  unfold Obligations.EventEntersQueue
  refine ⟨fun kind ctx a b s => ⟨fun room => ?room, fun full => ⟨?count, fun lower => ?discarded, fun atLeast => ?replaced⟩,
    s.event_still kind ctx a b⟩, fun s opened alive off => ?flush⟩
  case room => exact s.lntEnter_room _ _ room
  case count =>
    rcases Nat.lt_or_ge (worstLevel s.lnt.ents) (kindLevel kind) with lower | atLeast
    · have run : s.event kind ctx a b = s.lntLost (kindLevel kind) 1 := s.lntEnter_discarded _ _ full lower
      rw [run]
      rfl
    · have dropped := dropOldest_length (s.ents_ne_nil_of_full full)
      have entered := congrArg List.length (((s.modEnts (dropOldest (worstLevel s.lnt.ents))).lntLost (worstLevel s.lnt.ents) 1).lntAdd_queued
        (kindLevel kind) (entryWords kind s.glb.anchor ctx a b s.now))
      rw [State.queued_length, ← s.lntEnter_replaces _ _ full atLeast, List.length_append, State.queued_length] at entered
      exact entered.trans dropped
  case discarded =>
    have run : s.event kind ctx a b = s.lntLost (kindLevel kind) 1 := s.lntEnter_discarded _ _ full lower
    exact ⟨by rw [run]; rfl, run⟩
  case replaced =>
    have run := s.lntEnter_replaces _ (entryWords kind s.glb.anchor ctx a b s.now) full atLeast
    refine ⟨(congrArg State.queued run).trans (State.lntAdd_queued ..), fun x => (congrArg (fun u : State => u.rd x) run).trans ?_⟩
    exact State.rd_lntAdd _ _ _ x
  case flush =>
    have record : s.flushed.recWrite 0xB0000 1 = s.flushed :=
      s.flushed.recWrite_off _ _ (by rw [s.rd_flushed, if_neg (by decide)]; exact off)
    refine ⟨_, congrArg Host.Outcome.next (lanternFlushOp_open alive opened), fun x hx => ?_⟩
    rw [record, State.rd_ackWrite, s.rd_flushed, if_neg]
    intro read
    fin_cases hx <;> exact absurd read (by decide)

/-- Settles O30: the queue's entries and the Bivouac's waiting requests go, and the read words are zero, before the write is
recorded. -/
theorem lanternFlushEmptiesQueue : Obligations.LanternFlushEmptiesQueue := by
  unfold Obligations.LanternFlushEmptiesQueue
  intro s alive opened
  refine ⟨s.flushed, congrArg Host.Outcome.next (lanternFlushOp_open alive opened), rfl, s.rd_flushed _, s.rd_flushed _,
    s.rd_flushed _, fun x hx => (s.rd_flushed x).trans (if_neg hx), fun r hr => ?gone, fun r hr read write => ?stays, rfl, rfl⟩
  case gone =>
    have kept := List.mem_filter.mp hr
    simpa [imp_iff_not_or] using kept
  case stays => exact List.mem_filter.mpr ⟨hr, by simp [read, write]⟩

end Sys2Proof.Machine
end

section
/-! LANTERN_READ (R462, R464): the entry that is given, and the registers of its words. -/

namespace Sys2Proof.Machine

/-- How many of an entry's four words fail parity (R464). -/
def badWords (bad : BitVec 4) : Nat := bad.toNat % 2 + bad.toNat / 2 % 2 + bad.toNat / 4 % 2 + bad.toNat / 8 % 2

theorem badWords_eq (bad : BitVec 4) :
    badWords bad = b2n (bad.getLsbD 0) + b2n (bad.getLsbD 1) + b2n (bad.getLsbD 2) + b2n (bad.getLsbD 3) := by
  revert bad
  decide

theorem badWords_eq_zero (bad : BitVec 4) : badWords bad = 0 ↔ bad = 0#4 := by
  revert bad
  decide

namespace State

variable (s : State)

/-- LNT_READ1 to LNT_READ3 take words 1 to 3 of an entry (R462). -/
def lntWords (w1 w2 w3 : Nat) : State := ((s.wr 0xB0008 w1).wr 0xB000C w2).wr 0xB0010 w3

theorem rd_lntWords (w1 w2 w3 : Nat) : (s.lntWords w1 w2 w3).rd 0xB0008 = w1 % 2 ^ 32 ∧
    (s.lntWords w1 w2 w3).rd 0xB000C = w2 % 2 ^ 32 ∧ (s.lntWords w1 w2 w3).rd 0xB0010 = w3 % 2 ^ 32 := by
  simp [lntWords, rd_wr]

theorem lntWords_keeps (w1 w2 w3 : Nat) : s.KeepsRegs (s.lntWords w1 w2 w3) [0xB0008, 0xB000C, 0xB0010] := by
  intro x hx
  simp only [List.mem_cons, List.not_mem_nil, or_false, not_or] at hx
  obtain ⟨first, second, third⟩ := hx
  rw [lntWords, rd_wr_ne _ _ third, rd_wr_ne _ _ second, rd_wr_ne _ _ first]

/-- The entry `e` has left the queue for the read registers, the entries `es` remain, and the words that fail parity are counted. -/
def lntTaken (bad : BitVec 4) (e : LEntry) (es : List LEntry) : State :=
  ((s.modEnts (fun _ => es)).lntRefillAll.lntWords (e.words.getD 1 0) (e.words.getD 2 0) (e.words.getD 3 0)).count 0xB002C (badWords bad)

theorem lntTaken_queued (bad : BitVec 4) (e : LEntry) (es : List LEntry) : (s.lntTaken bad e es).queued = es.map LEntry.words :=
  (s.modEnts (fun _ => es)).lntRefillAll_queued

theorem lntTaken_still (bad : BitVec 4) (e : LEntry) (es : List LEntry) : (s.lntTaken bad e es).still = s.still := by
  simp only [lntTaken, lntWords, count_still, wr_still, lntRefillAll_still, modEnts_still]

theorem rd_lntTaken (bad : BitVec 4) (e : LEntry) (es : List LEntry) (x : Nat) : (s.lntTaken bad e es).rd x =
    if x = 0xB002C then (s.rd x + badWords bad) % 2 ^ 32
    else (s.lntWords (e.words.getD 1 0) (e.words.getD 2 0) (e.words.getD 3 0)).rd x := by
  simp only [lntTaken, rd_count, lntWords, rd_wr, rd_lntRefillAll, rd_modEnts]
  split_ifs <;> simp_all

end State

theorem lanternReadOp_empty {s : State} (bad : BitVec 4) (alive : s.alive = true) (opened : s.ctlOpen 0xB0004 = true)
    (empty : s.lnt.ents = []) : lanternReadOp bad s = (s.lntWords 0 0 0).answer 0 := by
  simp only [lanternReadOp, alive, opened, empty, Bool.not_true, Bool.or_self, Bool.false_eq_true, if_false, if_true]
  rfl

section Entry

/- `e` is the oldest entry of the highest level. -/
variable {s : State} (bad : BitVec 4) {e : LEntry} {p r : List LEntry} (alive : s.alive = true) (opened : s.ctlOpen 0xB0004 = true)
  (ents : s.lnt.ents = p ++ e :: r) (highest : ∀ x ∈ s.lnt.ents, e.level ≤ x.level) (oldest : ∀ x ∈ p, x.level ≠ e.level)
  (level : e.level ≤ 3)

include ents highest level in
theorem highestLevel_eq : (s.lnt.ents.map LEntry.level).foldl min 3 = e.level := by
  refine foldl_min_eq ?_ fun l hl => ?_
  · exact List.mem_cons_of_mem _ (List.mem_map.mpr ⟨e, by rw [ents]; simp, rfl⟩)
  · rcases List.mem_cons.mp hl with rfl | later
    · exact level
    · obtain ⟨x, hx, rfl⟩ := List.mem_map.mp later
      exact highest x hx

include alive opened ents highest oldest level

theorem lanternReadOp_entry : lanternReadOp bad s =
    if e.place ≠ .pool ∧ e.place ≠ .head then s.lntRefillAll.answer (2 ^ 24)
    else (if badWords bad = 0 then s.lntTaken bad e (p ++ r)
        else (s.lntTaken bad e (p ++ r)).detect.remap s.glb.anchor 3 0).answer
      (2 ^ 31 + e.level * 2 ^ 29 + bad.toNat * 2 ^ 25 + e.words.getD 0 0) := by
  have some_ : s.lnt.ents ≠ [] := by rw [ents]; simp
  have took : ltake (fun x : LEntry => decide (x.level = e.level)) s.lnt.ents = some (e, p ++ r) := by
    rw [ents]
    exact ltake_split (fun y hy => by simp [oldest y hy]) (by simp)
  have anchor : (s.lntTaken bad e (p ++ r)).glb = s.glb := State.still_glb (s.lntTaken_still ..)
  simp only [lanternReadOp, alive, opened, Bool.not_true, Bool.or_self, Bool.false_eq_true, if_false, if_neg some_,
    highestLevel_eq ents highest level, took]
  split
  · rfl
  · rw [← anchor]
    rfl

end Entry

/-- Settles O29: by the queue, empty or not, and by where the oldest entry of the highest level stands. -/
theorem lanternReadGivesOldestOfHighestLevel : Obligations.LanternReadGivesOldestOfHighestLevel := by
  unfold Obligations.LanternReadGivesOldestOfHighestLevel
  refine fun bad s alive opened => ⟨fun empty => ?empty, fun e p r ents highest oldest level => ⟨fun near => ?given, fun notPool notHead => ?pend⟩⟩
  case empty =>
    obtain ⟨first, second, third⟩ := s.rd_lntWords 0 0 0
    exact ⟨_, congrArg Host.Outcome.next (lanternReadOp_empty bad alive opened empty), rfl, first, second, third, s.lntWords_keeps 0 0 0, rfl⟩
  case given =>
    have run := lanternReadOp_entry bad alive opened ents highest oldest level
    rw [if_neg (by tauto)] at run
    obtain ⟨first, second, third⟩ := s.rd_lntWords (e.words.getD 1 0) (e.words.getD 2 0) (e.words.getD 3 0)
    refine ⟨s.lntTaken bad e (p ++ r), ?_, s.lntTaken_queued .., ?_, ?_, ?_, ?_, fun x hx => ?_, s.lntTaken_still ..⟩
    · simp only [badWords_eq_zero] at run
      exact congrArg Host.Outcome.next run
    · rw [s.rd_lntTaken, if_neg (by decide), first]
    · rw [s.rd_lntTaken, if_neg (by decide), second]
    · rw [s.rd_lntTaken, if_neg (by decide), third]
    · rw [s.rd_lntTaken, if_pos rfl, badWords_eq]
    · rw [s.rd_lntTaken, if_neg (by rintro rfl; simp at hx)]
      exact s.lntWords_keeps _ _ _ x (by simp only [List.mem_cons, not_or] at hx ⊢; tauto)
  case pend =>
    have run := lanternReadOp_entry bad alive opened ents highest oldest level
    rw [if_pos ⟨notPool, notHead⟩] at run
    refine ⟨_, congrArg Host.Outcome.next run, rfl, s.lntRefillAll_queued, fun x _ => s.rd_lntRefillAll x, ?_⟩
    exact congrArg (fun u : State => ({ u with ctl := (s.lntRefillAll.answer (2 ^ 24)).ctl } : State)) s.lntRefillAll_still

end Sys2Proof.Machine
end

section
/-! The submit of a proposal (R493): its check reads profile registers, and the record of the submit's own write may change what
it reads for a context number that no context page has. -/

namespace Sys2Proof.Machine

/-- The enabled context 49,164 reads its profile where DET_STS tells that the record ring is full (0xE4000 + 49,164): profile 0,
as the proposal's one word also gives it. Recording is on, and the ring of 65,536 bytes is written to its end. -/
def submitRecorded : State :=
  { State.reset with
    regs := [(0xF0000, 4), (0xF0018, 1)]
    start := { StartSt.reset with phase := .done }
    det := { State.reset.det with head := 65536 }
    ctxs := [(49164, { Ctx.reset with enable := true })]
    fnc := { buf := [(0xF000C, 0)], pend := none, sent := [] } }

/-- The state has the shape that every step keeps. -/
theorem submitRecorded_ok : submitRecorded.Ok := by constructor <;> decide

theorem submitRecorded_notRefused : submitRecorded.submitBad = false := by decide +kernel

theorem proposalSubmitOp_refused : (proposalSubmitOp submitRecorded).fnc.pend = none := by decide +kernel

/-- Refutes O22: in `submitRecorded`, R493 refuses nothing, but the record of the submit's own write, which finds the ring full, changes
the profile that context 49,164 reads to 2, so that the proposal would change it, and PROPOSAL_SUBMIT leaves nothing pending. The statement does
not ask that contexts be numbered below 4,096. -/
theorem not_proposalsAreBuiltAndSubmitted : ¬ Obligations.ProposalsAreBuiltAndSubmitted := by
  unfold Obligations.ProposalsAreBuiltAndSubmitted
  rintro ⟨-, submit⟩
  obtain ⟨t, run, fnc, -⟩ := (submit submitRecorded (by decide)).1 rfl submitRecorded_notRefused
  obtain rfl : proposalSubmitOp submitRecorded = t := Host.Outcome.next.inj run
  have none_ := proposalSubmitOp_refused
  rw [fnc] at none_
  cases none_

end Sys2Proof.Machine
end

section
/-! The outcomes of a proposal (R495). -/

namespace Sys2Proof.Machine

/-- Words written to the register file (R495). -/
def wrAll (ws : List (Nat × Nat)) (s : State) : State := ws.foldl (fun s e => s.wr e.1 e.2) s

theorem rd_wrAll_ne {ws : List (Nat × Nat)} {x : Nat} (other : x ∉ ws.map Prod.fst) (s : State) : (wrAll ws s).rd x = s.rd x := by
  induction ws generalizing s with
  | nil => rfl
  | cons e ws ih =>
    rw [List.map_cons, List.mem_cons, not_or] at other
    exact (ih other.2 _).trans (s.rd_wr_ne _ other.1)

/-- Each of several words at different addresses stands in its register. -/
theorem rd_wrAll {ws : List (Nat × Nat)} (distinct : ws.Pairwise (fun x y => x.1 ≠ y.1)) {e : Nat × Nat} (mem : e ∈ ws) (s : State) :
    (wrAll ws s).rd e.1 = e.2 % 2 ^ 32 := by
  induction ws generalizing s with
  | nil => cases mem
  | cons w ws ih =>
    obtain ⟨first, rest⟩ := List.pairwise_cons.mp distinct
    rcases List.mem_cons.mp mem with rfl | later
    · have other : e.1 ∉ ws.map Prod.fst := by
        rintro same
        obtain ⟨y, hy, eq⟩ := List.mem_map.mp same
        exact first y hy eq.symm
      exact (rd_wrAll_ne other _).trans (s.rd_wr_self _ _)
    · exact ih rest later _

theorem wrAll_regs (ws : List (Nat × Nat)) (s : State) : wrAll ws s = { s with regs := (wrAll ws s).regs } := by
  induction ws generalizing s with
  | nil => rfl
  | cons e ws ih => exact ih _

section Verdict

variable {w : W64} {s : State} {p : Proposal} (opened : s.portOpen = true)
include opened

theorem verdictOp_unmatched (none_ : s.fnc.pend = none) : verdictOp w s = s.count 0xE5010 1 := by
  simp [verdictOp, opened, none_]

variable (pending : s.fnc.pend = some p)
include pending

theorem verdictOp_other (other : bits w.toNat 1 32 ≠ p.num ∨ bits w.toNat 33 31 ≠ p.digest % 2 ^ 31) :
    verdictOp w s = s.count 0xE5010 1 := by
  simp only [verdictOp, opened, pending, Bool.not_true, Bool.false_eq_true, if_false]
  exact if_pos (by tauto)

variable (within : s.el ≤ p.at_ + 1000000) (num : bits w.toNat 1 32 = p.num) (digest : bits w.toNat 33 31 = p.digest % 2 ^ 31)
include within num digest

theorem verdictOp_matched : verdictOp w s =
    if bit w.toNat 0 then (wrAll s.fnc.buf s).unpend.setBit 0xE500C 0 else s.unpend.setBit 0xE5008 1 := by
  simp only [verdictOp, opened, pending, num, digest, Bool.not_true, Bool.false_eq_true, if_false, ne_eq, not_true_eq_false, false_or]
  rw [if_neg (by rw [signWindow]; omega)]
  rfl

end Verdict

theorem signExpireOp_due {s : State} {p : Proposal} (opened : s.portOpen = true) (pending : s.fnc.pend = some p)
    (due : p.at_ + 1000000 ≤ s.el) : signExpireOp s = ((s.unpend.setBit 0xE5008 2).notice 4).event 0x51 0 p.num 0 := by
  simp [signExpireOp, pending, opened, signWindow, due]

theorem ranger_counts (s : State) : (s.count 0xE5010 1).rd 0xE5010 = (s.rd 0xE5010 + 1) % 2 ^ 32 ∧
    s.KeepsRegs (s.count 0xE5010 1) [0xE5010] :=
  ⟨(s.rd_count _ _ _).trans (if_pos rfl), fun _ hx => s.rd_count_ne 1 fun same => hx (List.mem_singleton.mpr same)⟩

/-- Settles O23: by the branches of the verdict and of the window's end. -/
theorem verdictSettlesProposal : Obligations.VerdictSettlesProposal := by
  unfold Obligations.VerdictSettlesProposal
  refine ⟨fun w s p opened pending within => ⟨fun num digest => ⟨fun accept => ?accepted, fun reject => ?rejected⟩, fun other => ?other⟩,
    fun w s opened none_ => ?unmatched, fun s p opened pending due => ?expired⟩
  case accepted =>
    have run := verdictOp_matched opened pending within num digest
    rw [if_pos accept] at run
    refine ⟨_, congrArg Host.Outcome.next run, rfl, ?_, State.bit_setBit_self _ _ _ (by decide), fun distinct e he other => ?_,
      fun x hx => ?_, ?_⟩
    · rw [wrAll_regs s.fnc.buf s]
      rfl
    · exact (State.rd_setBit_ne _ 0 other).trans (rd_wrAll distinct he s)
    · rw [List.mem_cons, not_or] at hx
      exact (State.rd_setBit_ne _ 0 hx.1).trans (rd_wrAll_ne hx.2 s)
    · rw [wrAll_regs s.fnc.buf s]
      rfl
  case rejected =>
    have run := verdictOp_matched opened pending within num digest
    rw [reject, if_neg Bool.false_ne_true] at run
    exact ⟨_, congrArg Host.Outcome.next run, rfl, State.bit_setBit_self _ _ _ (by decide),
      fun x hx => State.rd_setBit_ne _ 1 fun same => hx (List.mem_singleton.mpr same), rfl⟩
  case other =>
    exact ⟨_, congrArg Host.Outcome.next (verdictOp_other opened pending other), rfl, (ranger_counts s).1, (ranger_counts s).2, rfl⟩
  case unmatched =>
    exact ⟨_, congrArg Host.Outcome.next (verdictOp_unmatched opened none_), (ranger_counts s).1, (ranger_counts s).2, rfl⟩
  case expired =>
    refine ⟨_, congrArg Host.Outcome.next (signExpireOp_due opened pending due), ?_, ?_, ?_,
      ⟨(s.unpend.setBit 0xE5008 2).notice 4, rfl, rfl, rfl⟩, fun x hx => ?_, ?_⟩
    · rw [State.event_fnc]
      rfl
    · rw [State.rd_event_ne _ _ _ _ _ (by decide), State.rd_notice_ne _ _ (by decide)]
      exact State.bit_setBit_self _ _ _ (by decide)
    · exact State.event_notice ((s.unpend.setBit 0xE5008 2).notice 4) _ _ _ _ 4 (State.bit_setBit_self _ _ _ (by decide)) (by decide)
    · have small : x ≠ 0x20 := by rintro rfl; simp [lntRegs] at hx
      rw [List.mem_cons, not_or] at hx
      rw [State.rd_event_ne _ _ _ _ _ hx.2, State.rd_notice_ne _ _ small]
      exact State.rd_setBit_ne _ _ hx.1
    · rw [State.event_still, State.notice_still, State.setBit_still, State.event_fnc]
      rfl

end Sys2Proof.Machine
end

section
/-! The governor, the droop and the junction of a pitch (R471 to R473). -/

namespace Sys2Proof.Machine

/-- Where I_lim goes in a window when no cap binds (R471): towards the goal, by at most `up` and `dn`. -/
def limTowards (up dn lim goal : Nat) : Nat := if lim < goal then min goal (lim + up) else max goal (lim - dn)

theorem limTowards_le (up dn lim goal : Nat) : limTowards up dn lim goal ≤ lim + up := by
  unfold limTowards
  split <;> omega

theorem le_limTowards (up dn lim goal : Nat) : lim ≤ limTowards up dn lim goal + dn := by
  unfold limTowards
  split <;> omega

/-- A limit under a signalled cap; 0 is none (R472). -/
def underCap (cap x : Nat) : Nat := if cap = 0 then x else min x (peakAmps / 8 * cap)

theorem underCap_le (cap x : Nat) : underCap cap x ≤ x := by
  unfold underCap
  split <;> omega

theorem governor_eq (up dn lim est cap : Nat) :
    governor up dn lim est (capOfSignal cap) =
      (underCap cap (limTowards (up * 768000) (dn * 768000) lim (est + up * 768000)),
        decide (cap ≠ 0 ∧ peakAmps / 8 * cap < limTowards (up * 768000) (dn * 768000) lim (est + up * 768000))) := by
  by_cases none_ : cap = 0
  · simp [governor, capOfSignal, underCap, limTowards, none_]
  · simp [governor, capOfSignal, underCap, limTowards, none_]

/-- I_lim in a droop (R472): it stays, but for the cap. -/
def droopLim (cap lim : Nat) : Nat := match capOfSignal cap with | none => lim | some c => min c lim

theorem droopLim_eq (cap lim : Nat) : droopLim cap lim = underCap cap lim := by
  by_cases none_ : cap = 0
  · simp [droopLim, capOfSignal, underCap, none_]
  · simp [droopLim, capOfSignal, underCap, none_, Nat.min_comm]

namespace State

variable (s : State)

/-- I_lim after a window in which no cap binds (R471), its steps from PWR_STEP. -/
def freeLim (p : Nat) : Nat :=
  limTowards (bits (s.rd (pwrAt p 8)) 8 8 * 768000) (bits (s.rd (pwrAt p 8)) 0 8 * 768000) (s.pitch p).iLim
    ((s.pitch p).win + bits (s.rd (pwrAt p 8)) 8 8 * 768000)

theorem freeLim_le (p : Nat) : s.freeLim p ≤ (s.pitch p).iLim + bits (s.rd (pwrAt p 8)) 8 8 * 768000 := limTowards_le _ _ _ _

theorem le_freeLim (p : Nat) : (s.pitch p).iLim ≤ s.freeLim p + bits (s.rd (pwrAt p 8)) 0 8 * 768000 := le_limTowards _ _ _ _

/-- I_lim after a window (R471, R472). -/
def nextLim (p cap : Nat) : Nat :=
  if (s.pitch p).droop then droopLim cap (s.pitch p).iLim else underCap cap (s.freeLim p)

theorem nextLim_steady {p : Nat} (steady : (s.pitch p).droop = false) (cap : Nat) : s.nextLim p cap = underCap cap (s.freeLim p) := by
  rw [nextLim, steady, if_neg Bool.false_ne_true]

theorem nextLim_droop {p : Nat} (drooping : (s.pitch p).droop = true) (cap : Nat) :
    s.nextLim p cap = underCap cap (s.pitch p).iLim := by
  rw [nextLim, if_pos drooping, droopLim_eq]

/-- The pitch at the end of a window. -/
def governed (p cap : Nat) : State := s.modPitch p (fun x => { x with est := x.win, win := 0, cap := cap, iLim := s.nextLim p cap })

/-- The pitch's pace bit of the notice word and bit `i` of its PWR_STS are set (R471 to R473). -/
def paced (p i : Nat) : State := (s.setBit (pwrAt p 0x10) i).notice 5

theorem paced_pitch (p i q : Nat) : (s.paced p i).pitch q = s.pitch q := rfl

variable {s} (p : Nat)

theorem pwrSts_ne_notice : pwrAt p 0x10 ≠ 0x20 := by unfold pwrAt; omega

theorem paced_sets {i : Nat} (hi : i < 32) : bit ((s.paced p i).rd (pwrAt p 0x10)) i = true ∧ bit ((s.paced p i).rd 0x20) 5 = true := by
  refine ⟨?_, bit_setBit_self _ _ _ (by decide)⟩
  rw [paced, rd_notice_ne _ _ (pwrSts_ne_notice p)]
  exact bit_setBit_self _ _ _ hi

theorem paced_keeps (i : Nat) : s.KeepsRegs (s.paced p i) [pwrAt p 0x10, 0x20] := by
  intro x hx
  simp only [List.mem_cons, List.not_mem_nil, or_false, not_or] at hx
  rw [paced, rd_notice_ne _ _ hx.2, rd_setBit_ne _ _ hx.1]

end State

section Running

variable {s : State} {p : Nat} (alive : s.alive = true) (live : s.pitchLive p = true)
include alive

theorem droopFallOp_alive : droopFallOp p s = s.modPitch p (fun x => { x with droop := false }) := if_pos alive

include live

theorem governorOp_live (cap : Nat) : governorOp p cap s =
    if cap ≠ 0 ∧ peakAmps / 8 * cap < s.freeLim p then (s.governed p cap).paced p 1 else s.governed p cap := by
  simp only [governorOp, alive, live, governor_eq, Bool.not_true, Bool.or_self, Bool.false_eq_true, if_false, decide_eq_true_eq]
  rfl

theorem droopRiseOp_live (steady : (s.pitch p).droop = false) :
    droopRiseOp p s = (s.modPitch p (fun x => { x with droop := true, iLim := x.est / 2 })).paced p 0 := by
  simp only [droopRiseOp, alive, live, steady, Bool.not_true, Bool.or_self, Bool.false_eq_true, if_false]
  rfl

end Running

/-- PWR_TEMP after a reading (R473): the highest so far above the last. -/
def tempWord (old r : Nat) : Nat := max r (bits old 8 8) * 256 + r

theorem bits_tempWord {r : Nat} (hr : r ≤ 255) (old : Nat) :
    bits (tempWord old r % 2 ^ 32) 0 8 = r ∧ bits (tempWord old r % 2 ^ 32) 8 8 = max r (bits old 8 8) := by
  have := bits_lt old 8 8
  rw [bits_mod_word _ _ _ (by decide), bits_mod_word _ _ _ (by decide), tempWord]
  generalize bits old 8 8 = high at *
  have most : max r high ≤ 255 := by omega
  generalize max r high = most at *
  constructor
  · unfold bits
    omega
  · simp only [bits]
    omega

/-- The reading of a junction is in PWR_TEMP (R473). -/
def State.heated (s : State) (p r : Nat) : State := s.wr (pwrAt p 0xC) (tempWord (s.rd (pwrAt p 0xC)) r)

theorem junctionOp_live {s : State} {p : Nat} (alive : s.alive = true) (live : s.pitchLive p = true) (reading : Nat) :
    junctionOp p reading s =
      let u := s.heated p (min 255 reading)
      if 145 < reading ∧ (s.pitch p).hot = false then (u.modPitch p (fun x => { x with hot := true })).paced p 2
      else if reading < 140 then u.modPitch p (fun x => { x with hot := false })
      else u := by
  have above : 145 < min 255 reading ↔ 145 < reading := by omega
  have below : min 255 reading < 140 ↔ reading < 140 := by omega
  simp only [junctionOp, alive, live, above, below, Bool.not_true, Bool.or_self, Bool.false_eq_true, if_false]
  rfl

/-- Settles O27: by the equation of each command, and the arithmetic of a window's limit. -/
theorem governorDroopAndJunction : Obligations.GovernorDroopAndJunction := by
  unfold Obligations.GovernorDroopAndJunction
  refine ⟨fun p cap s hp alive live => ?window, fun p s hp alive live steady => ?rise, fun p s hp alive => ?fall,
    fun p reading s hp alive live => ?junction⟩
  case window =>
    intro up dn lim goal next binds
    have run := governorOp_live alive live cap
    have next_eq : next = s.freeLim p := rfl
    have binds_iff : binds ↔ cap ≠ 0 ∧ peakAmps / 8 * cap < s.freeLim p := by rw [← next_eq]
    have rise : next ≤ lim + up * 768000 := next_eq ▸ s.freeLim_le p
    have fall : lim ≤ next + dn * 768000 := next_eq ▸ s.le_freeLim p
    clear_value binds next goal
    rw [← next_eq] at binds_iff run
    have self : (s.governed p cap).pitch p = _ := State.pitch_modPitch_self _ _ hp
    have fields : ∀ t : State, t.pitches = (s.governed p cap).pitches → (t.pitch p).est = (s.pitch p).win ∧ (t.pitch p).win = 0 ∧
        (t.pitch p).cap = cap ∧
        ((s.pitch p).droop = false → (t.pitch p).iLim = (if cap = 0 then next else min next (peakAmps / 8 * cap)) ∧
          (t.pitch p).iLim ≤ lim + up * 768000 ∧ (cap = 0 → lim ≤ (t.pitch p).iLim + dn * 768000)) ∧
        ((s.pitch p).droop = true → (t.pitch p).iLim = if cap = 0 then lim else min lim (peakAmps / 8 * cap)) := by
      intro t same
      have pitch : t.pitch p = (s.governed p cap).pitch p := by rw [State.pitch, State.pitch, same]
      rw [pitch, self]
      refine ⟨rfl, rfl, rfl, fun steady => ?_, fun drooping => s.nextLim_droop drooping cap⟩
      rw [s.nextLim_steady steady, ← next_eq]
      exact ⟨rfl, (underCap_le cap next).trans rise, fun none_ => by rw [underCap, if_pos none_]; exact fall⟩
    by_cases bound : binds
    · replace run := run.trans (if_pos (binds_iff.mp bound))
      obtain ⟨est, win, cap_, steady, drooping⟩ := fields ((s.governed p cap).paced p 1) rfl
      exact ⟨_, congrArg Host.Outcome.next run, est, win, cap_, steady, drooping, fun _ => State.paced_sets p (by decide), fun free => absurd bound free,
        fun q other => (State.paced_pitch _ p 1 q).trans (State.pitch_modPitch_ne _ _ other), State.paced_keeps (s := s.governed p cap) p 1, rfl⟩
    · replace run := run.trans (if_neg (mt binds_iff.mpr bound))
      obtain ⟨est, win, cap_, steady, drooping⟩ := fields (s.governed p cap) rfl
      exact ⟨_, congrArg Host.Outcome.next run, est, win, cap_, steady, drooping, fun yes => absurd yes bound, fun _ => rfl,
        fun q other => State.pitch_modPitch_ne _ _ other, fun x _ => rfl, rfl⟩
  case rise =>
    obtain ⟨status, notice⟩ := State.paced_sets (s := s.modPitch p (fun x => { x with droop := true, iLim := x.est / 2 })) p (i := 0) (by decide)
    exact ⟨_, congrArg Host.Outcome.next (droopRiseOp_live alive live steady), (State.paced_pitch _ p 0 p).trans (State.pitch_modPitch_self _ _ hp), status, notice,
      fun q other => (State.paced_pitch _ p 0 q).trans (State.pitch_modPitch_ne _ _ other), State.paced_keeps (s := s.modPitch p _) p 0, rfl⟩
  case fall =>
    exact ⟨_, congrArg Host.Outcome.next (droopFallOp_alive alive), State.pitch_modPitch_self _ _ hp,
      fun q other => State.pitch_modPitch_ne _ _ other, rfl⟩
  case junction =>
    have run := junctionOp_live alive live reading
    have temp : (s.heated p (min 255 reading)).rd (pwrAt p 0xC) = _ := State.rd_wr_self ..
    obtain ⟨last, high⟩ := bits_tempWord (r := min 255 reading) (Nat.min_le_left ..) (s.rd (pwrAt p 0xC))
    rw [← temp] at last high
    have keeps : s.KeepsRegs (s.heated p (min 255 reading)) [pwrAt p 0xC, pwrAt p 0x10, 0x20] := fun x hx =>
      State.rd_wr_ne _ _ fun same => hx (by simp [same])
    generalize eq : s.heated p (min 255 reading) = u at *
    have pitches : u.pitches = s.pitches := by rw [← eq]; rfl
    have pitch (q : Nat) : u.pitch q = s.pitch q := by rw [State.pitch, State.pitch, pitches]
    have len : p < u.pitches.length := by rw [pitches]; exact hp
    have frame : u = { s with regs := u.regs } := by rw [← eq]; rfl
    dsimp only at run
    split_ifs at run with rises cools
    · obtain ⟨status, notice⟩ := State.paced_sets (s := u.modPitch p (fun x => { x with hot := true })) p (i := 2) (by decide)
      have tempKept : ((u.modPitch p (fun x => { x with hot := true })).paced p 2).rd (pwrAt p 0xC) = u.rd (pwrAt p 0xC) :=
        State.paced_keeps (s := u.modPitch p _) p 2 _ (by simp only [List.mem_cons, List.not_mem_nil, or_false, pwrAt]; omega)
      refine ⟨_, congrArg Host.Outcome.next run, (by rw [tempKept]; exact last), (by rw [tempKept]; exact high), fun _ => ⟨?_, fun _ => ⟨notice, status⟩⟩, fun low => ?_, fun _ low => ?_,
        fun q other => ?_, fun x hx => ?_, ?_⟩
      · exact congrArg Pitch.hot ((State.paced_pitch _ p 2 p).trans (State.pitch_modPitch_self u _ len))
      · omega
      · omega
      · exact (State.paced_pitch _ p 2 q).trans ((State.pitch_modPitch_ne u _ other).trans (pitch q))
      · exact (State.paced_keeps (s := u.modPitch p _) p 2 x fun h => hx (List.mem_cons_of_mem _ h)).trans (keeps x hx)
      · rw [frame]; rfl
    · refine ⟨_, congrArg Host.Outcome.next run, last, high, fun hot => ?_, fun _ => ?_, fun mild => ?_, fun q other => ?_, keeps, ?_⟩
      · omega
      · exact congrArg Pitch.hot (State.pitch_modPitch_self u _ len)
      · omega
      · exact (State.pitch_modPitch_ne u _ other).trans (pitch q)
      · rw [frame]; rfl
    · refine ⟨_, congrArg Host.Outcome.next run, last, high, fun hot => ?_, fun cool => absurd cool cools, fun _ _ => ?_,
        fun q _ => pitch q, keeps, ?_⟩
      · have already : (s.pitch p).hot = true := by simpa [hot] using rises
        exact ⟨by rw [pitch, already], fun off => absurd (off.symm.trans already) (by decide)⟩
      · rw [pitch]
      · rw [frame, ← pitches]

end Sys2Proof.Machine
end

section
/-! Snapshots (R446 to R451): their start, on a write or on advice, their stall, and the window of advice. -/

namespace Sys2Proof.Machine

/-- The slot that the next snapshot takes: not that of the newest valid Cairn (R448). -/
def nextSlot : Option (Nat × Nat) → Nat
  | some (k, _) => 1 - k
  | none => 0

/-- gen of the next snapshot (R450). -/
def nextGen : Option (Nat × Nat) → Nat
  | some (_, g) => g + 1
  | none => 1

namespace State

variable (s : State)

/-- A snapshot that starts holds the sections and the Cairn as they stand (R448 to R450). -/
def snapTaken (slot gen out : Nat) : Snap :=
  { busy := true, gen := gen, slot := slot, block := s.blockSection, ctxs := s.ctxSection,
    cairn := s.cairn slot gen s.blockSection s.ctxSection, out := out, at_ := s.el, phase := 1 }

/-- The snapshot is held; its Cairn's slot is still to be cleared (R448). -/
def snapHeld (slot gen : Nat) : State := { s with rsl := { s.rsl with snap := s.snapTaken slot gen 0 } }

theorem snapStart_eq (hv : HostView) : s.snapStart hv =
    (s.snapHeld (nextSlot (newestCairn hv s.poolBase)) (nextGen (newestCairn hv s.poolBase))).snapWrite
      (cairnOff (nextSlot (newestCairn hv s.poolBase))) (zeros 64) := by
  unfold snapStart
  generalize newestCairn hv s.poolBase = newest
  cases newest <;> rfl

theorem snapWrite_rsl (off : Nat) (bs : Bytes) : ∃ out, (s.snapWrite off bs).rsl = { s.rsl with snap := { s.rsl.snap with out := out } } :=
  ⟨_, rfl⟩

theorem snapStart_rsl (hv : HostView) : ∃ out, (s.snapStart hv).rsl =
    { s.rsl with snap := s.snapTaken (nextSlot (newestCairn hv s.poolBase)) (nextGen (newestCairn hv s.poolBase)) out } := by
  rw [snapStart_eq]
  obtain ⟨out, run⟩ := snapWrite_rsl (s.snapHeld (nextSlot (newestCairn hv s.poolBase)) (nextGen (newestCairn hv s.poolBase)))
    (cairnOff (nextSlot (newestCairn hv s.poolBase))) (zeros 64)
  refine ⟨out, run.trans ?_⟩
  simp only [snapHeld, snapTaken]

/-- The sections hold nothing of the checkpoint unit itself (R523, R524). -/
theorem blockSection_modRsl (r : Rsl) : ({ s with rsl := r } : State).blockSection = s.blockSection := rfl

theorem ctxSection_modRsl (r : Rsl) : ({ s with rsl := r } : State).ctxSection = s.ctxSection :=
  congrArg (fun f => (List.range 4096).flatMap f) (funext fun _ => rfl)

theorem snapStart_ctxs (hv : HostView) : (s.snapStart hv).ctxs = s.ctxs := rfl

theorem snapStart_memb (hv : HostView) : (s.snapStart hv).memb = s.memb := rfl

/-- ARM is stored and the write recorded and acknowledged before SNAPSHOT_GO starts anything (R446). -/
def snapWrote (data : Nat) : State := (s.store 0xC0020 1 data).wrote 0xC0020 data

theorem snapWrote_still (data : Nat) : (s.snapWrote data).still = ({ s with ctl := (s.snapWrote data).ctl } : State).still :=
  still_ctl_trans (u := s.store 0xC0020 1 data) ((congrArg State.still (s.store_eq 0xC0020 1 data)).trans rfl) (State.wrote_still _ 0xC0020 data)

theorem snapWrote_rd {x : Nat} (hx : x ∉ 0xC0020 :: 0xF000C :: lntRegs) (data : Nat) : (s.snapWrote data).rd x = s.rd x := by
  rw [List.mem_cons, not_or] at hx
  exact (State.wrote_keeps _ 0xC0020 data x hx.2).trans (s.store_keeps _ _ _ x (by simpa using hx.1))

theorem snapWrote_poolBase (data : Nat) : (s.snapWrote data).poolBase = s.poolBase := by
  rw [poolBase, poolBase, rd2, rd2, s.snapWrote_rd (by decide), s.snapWrote_rd (by decide)]

theorem bit_snapWrote {i : Nat} (hi : i < 32) (data : Nat) :
    bit ((s.snapWrote data).rd 0xC0020) i = if i = 0 then bit data 0 else bit (s.rd 0xC0020) i := by
  have stored : (s.snapWrote data).rd 0xC0020 = (s.store 0xC0020 1 data).rd 0xC0020 := State.wrote_keeps _ 0xC0020 data _ (by decide)
  have armMask : (1 : Nat).testBit i = decide (i = 0) := by
    cases i with
    | zero => rfl
    | succ i => simp [Nat.testBit_succ]
  rw [stored, s.rd_store_self _ _ _ (by decide)]
  simp only [bit_testBit, Nat.testBit_or, Nat.testBit_and, Nat.testBit_xor, ones_testBit, armMask, hi]
  split
  next zero => simp [zero]
  next other => simp [other]

/-- A snapshot that makes no progress has failed, and nothing is left of it (R451); no shut-down waits for it. -/
theorem snapFail_eq (busy : s.rsl.snap.busy = true) (noShut : s.start.shut ≠ 4) : s.snapFail =
    let u := ((s.dropRefs (fun r => decide (r = refSnap))).setBit 0xC0024 2).event 0x42 0 0 0
    { u with rsl := { u.rsl with snap := {} } } := by
  unfold snapFail snapEnd
  simp only [busy, Bool.not_true, Bool.false_eq_true, if_false, event_start]
  exact if_neg noShut

end State

section Go

variable {s : State} {hv : HostView} {data : W32} (opened : s.portOpen = true)
include opened

theorem snapshotGoOp_write (go : bit data.toNat 1 = true) : snapshotGoOp false data hv s = (s.snapWrote data.toNat).snapGo hv := by
  simp only [snapshotGoOp, opened, go, Bool.not_true, Bool.false_eq_true, if_false, if_true]
  rfl

theorem snapshotGoOp_advice (advised : s.rsl.advGo = true) : snapshotGoOp true data hv s =
    let u : State := { s with rsl := { s.rsl with advGo := false } }
    if s.rsl.snap.busy then u else u.snapGo hv := by
  simp only [snapshotGoOp, opened, advised, Bool.not_true, Bool.false_eq_true, if_false, if_true]

end Go

theorem snapGo_free {s : State} {hv : HostView} (free : s.rsl.snap.busy = false) (read : hv.fault = 0) : s.snapGo hv = s.snapStart hv := by
  simp [State.snapGo, free, read]

theorem snapGo_busy {s : State} (hv : HostView) (busy : s.rsl.snap.busy = true) : s.snapGo hv = s.event 0x43 0 0 0 := if_pos busy

section Timers

variable {s : State}

theorem snapStallOp_due (alive : s.alive = true) (busy : s.rsl.snap.busy = true) (due : s.rsl.snap.at_ + 2 ^ 22 ≤ s.el) :
    snapStallOp s = s.snapFail := by
  rw [snapStallOp, alive, busy, decide_eq_true due]
  rfl

theorem snapStallOp_early (early : s.el < s.rsl.snap.at_ + 2 ^ 22) : snapStallOp s = s := by
  rw [snapStallOp, decide_eq_false (Nat.not_le.mpr early), Bool.and_false]
  rfl

theorem adviseEndOp_due (alive : s.alive = true) (due : s.rsl.winAt + 2 ^ 24 ≤ s.el) :
    adviseEndOp s = { s with rsl := { s.rsl with det := 0, advised := false, winAt := s.rsl.winAt + 2 ^ 24 } } := by
  rw [adviseEndOp, alive, decide_eq_true due]
  rfl

theorem adviseEndOp_early (early : s.el < s.rsl.winAt + 2 ^ 24) : adviseEndOp s = s := by
  rw [adviseEndOp, decide_eq_false (Nat.not_le.mpr early), Bool.and_false]
  rfl

end Timers

/-- Settles O16: a write and advice by whether a snapshot runs, a stall and the window by their time. -/
theorem snapshotsStartAndStall : Obligations.SnapshotsStartAndStall := by
  unfold Obligations.SnapshotsStartAndStall
  refine ⟨fun data hv s opened go => ⟨fun free read => ?start, fun busy => ?refused⟩,
    fun data hv s opened advised => ⟨fun free read => ?advice, fun busy => ?ignored⟩,
    fun s ok alive busy => ⟨fun due noShut => ?stall, fun early => ?stays⟩,
    fun s alive => ⟨fun due => ?window, fun early => ?inWindow⟩⟩
  case start =>
    have run := snapshotGoOp_write (hv := hv) opened go
    have still := s.snapWrote_still data.toNat
    have base := s.snapWrote_poolBase data.toNat
    have arm (i : Nat) (hi : i < 32) := s.bit_snapWrote hi data.toNat
    have keeps (x : Nat) (hx : x ∉ 0xC0020 :: 0xF000C :: lntRegs) := s.snapWrote_rd hx data.toNat
    generalize eq : s.snapWrote data.toNat = u at *
    have rsl : u.rsl = s.rsl := (State.still_rsl still).trans rfl
    have clk : u.clk = s.clk := (State.still_clk still).trans rfl
    rw [snapGo_free (by rw [rsl]; exact free) read] at run
    obtain ⟨out, held⟩ := u.snapStart_rsl hv
    rw [base, rsl] at held
    refine ⟨_, nextSlot (newestCairn hv s.poolBase), nextGen (newestCairn hv s.poolBase), congrArg Host.Outcome.next run, fun none_ => ?_,
      fun k g newest => ?_, ?_, arm, (u.snapStart_ctxs hv).trans ((State.still_ctxs still).trans rfl),
      (u.snapStart_memb hv).trans ((State.still_memb still).trans rfl), keeps⟩
    · rw [none_]
      exact ⟨rfl, rfl⟩
    · rw [newest]
      exact ⟨rfl, rfl⟩
    · subst eq
      rw [held, State.snapTaken, State.el, clk]
      rfl
  case refused =>
    have run := snapshotGoOp_write (hv := hv) opened go
    have still := s.snapWrote_still data.toNat
    have keeps (x : Nat) (hx : x ∉ 0xC0020 :: 0xF000C :: lntRegs) := s.snapWrote_rd hx data.toNat
    generalize eq : s.snapWrote data.toNat = u at *
    have rsl : u.rsl = s.rsl := (State.still_rsl still).trans rfl
    rw [snapGo_busy hv (by rw [rsl]; exact busy)] at run
    subst eq
    refine ⟨congrArg Host.Outcome.next run, (State.event_rsl _ _ _ _ _).trans rsl, fun x hx => (State.rd_event_ne _ _ _ _ _ ?_).trans (keeps x hx)⟩
    simp only [List.mem_cons, not_or] at hx
    exact hx.2.2
  case advice =>
    have run := snapshotGoOp_advice (hv := hv) (data := data) opened advised
    rw [free, if_neg Bool.false_ne_true, snapGo_free (by exact free) read] at run
    obtain ⟨out, held⟩ := State.snapStart_rsl ({ s with rsl := { s.rsl with advGo := false } } : State) hv
    refine ⟨congrArg Host.Outcome.next run, ?_, ?_, ?_, rfl⟩
    · rw [held, State.snapTaken]
    · rw [held, State.snapTaken, State.blockSection_modRsl]
    · rw [held, State.snapTaken, State.ctxSection_modRsl]
  case ignored =>
    exact congrArg Host.Outcome.next ((snapshotGoOp_advice opened advised).trans (if_pos busy))
  case stall =>
    have run := snapStallOp_due alive busy due
    rw [s.snapFail_eq busy noShut] at run
    refine ⟨_, congrArg Host.Outcome.next run, ?_, fun i hi => ?_, ?_, fun x hx => ?_⟩
    · exact congrArg (fun r : Rsl => ({ r with snap := {} } : Rsl)) (State.event_rsl _ _ _ _ _)
    · exact (congrArg (bit · i) (State.rd_event_ne _ _ _ _ _ (by decide))).trans (State.bit_setBit _ _ _ _ hi)
    · exact State.event_ctxs _ _ _ _ _
    · rw [List.mem_cons, not_or] at hx
      exact (State.rd_event_ne _ _ _ _ _ hx.2).trans (State.rd_setBit_ne _ _ hx.1)
  case stays => exact congrArg Host.Outcome.next (snapStallOp_early early)
  case window => exact congrArg Host.Outcome.next (adviseEndOp_due alive due)
  case inWindow => exact congrArg Host.Outcome.next (adviseEndOp_early early)

end Sys2Proof.Machine
end

section
/-! RESTORE_GO (R452, R524): what loading the block section and the context section leaves and sets. -/

namespace Sys2Proof.Machine

/-- The table that lists the non-zero words of `e` reads as `e`. -/
theorem tget_filterMap (e : Nat → Nat) (l : List Nat) (c : Nat) :
    tget 0 (l.filterMap (fun i => if e i = 0 then none else some (i, e i))) c = if c ∈ l then e c else 0 := by
  induction l with
  | nil => rfl
  | cons i l ih =>
    rw [List.filterMap_cons]
    by_cases zero : e i = 0
    · rw [if_pos zero]
      by_cases same : c = i
      · subst same
        simp [ih, zero]
      · simp [ih, same]
    · rw [if_neg zero]
      by_cases same : c = i
      · simp [tget, same]
      · simp [tget, ih, same]

/-- No context is listed as enabled or in teardown, exactly when none is (R452). -/
theorem tkeys_open_nil {s : State} (ok : s.Ok) (shut : ∀ c, c ≠ 0 → (s.ctx c).enable = false ∧ (s.ctx c).tdown = false) :
    tkeys (fun c x => decide (c ≠ 0) && (x.enable || x.tdown)) s.ctxs = [] := by
  rw [tkeys, List.map_eq_nil_iff, List.filter_eq_nil_iff]
  rintro ⟨c, x⟩ mem
  by_cases zero : c = 0
  · simp [zero]
  · have here : s.ctx c = x := (tget_of_mem ok.ctxs mem).1
    obtain ⟨enable, tdown⟩ := here ▸ shut c zero
    simp [enable, tdown]

theorem tget_mem_of_ne {α : Type} {d : α} {t : Table α} {k : Nat} (other : tget d t k ≠ d) : (k, tget d t k) ∈ t := by
  induction t with
  | nil => exact absurd rfl other
  | cons e r ih =>
    obtain ⟨k', v⟩ := e
    rw [tget] at other ⊢
    split at other
    next same => simp [same]
    next ne =>
      rw [if_neg ne]
      exact List.mem_cons_of_mem _ (ih other)

theorem tkeys_open_ne_nil {s : State} {c : Nat} (job : c ≠ 0) (opened : (s.ctx c).enable = true ∨ (s.ctx c).tdown = true) :
    tkeys (fun c x => decide (c ≠ 0) && (x.enable || x.tdown)) s.ctxs ≠ [] := by
  have listed : (c, s.ctx c) ∈ s.ctxs := tget_mem_of_ne fun reset => by
    change s.ctx c = Ctx.reset at reset
    rw [reset] at opened
    rcases opened with h | h <;> cases h
  rw [tkeys, Ne, List.map_eq_nil_iff, List.filter_eq_nil_iff]
  exact fun none_ => none_ _ listed (by simpa [job] using opened)

namespace State

variable (s : State)

theorem loadReg_regs (a v : Nat) : s.loadReg a v = { s with regs := (s.loadReg a v).regs } := by
  unfold loadReg
  split <;> rfl

theorem rd_loadReg_ne {a x : Nat} (other : x ≠ a) (v : Nat) : (s.loadReg a v).rd x = s.rd x := by
  unfold loadReg
  split
  · rfl
  · exact s.rd_wr_ne _ other

/-- A fold over register loads changes registers only, and none that it does not name. -/
theorem loadRegs_regs {α : Type} (l : List α) (a v : α → Nat) (s : State) :
    l.foldl (fun s x => s.loadReg (a x) (v x)) s = { s with regs := (l.foldl (fun s x => s.loadReg (a x) (v x)) s).regs } := by
  induction l generalizing s with
  | nil => rfl
  | cons x l ih =>
    rw [List.foldl_cons, ih, s.loadReg_regs]

theorem rd_loadRegs {α : Type} {l : List α} {a : α → Nat} {y : Nat} (other : ∀ x ∈ l, y ≠ a x) (v : α → Nat) (s : State) :
    (l.foldl (fun s x => s.loadReg (a x) (v x)) s).rd y = s.rd y := by
  induction l generalizing s with
  | nil => rfl
  | cons x l ih =>
    exact (ih (fun z hz => other z (List.mem_cons_of_mem _ hz)) _).trans (s.rd_loadReg_ne (other x List.mem_cons_self) _)

/- The context section -/

/-- What the context section leaves of the block section: the rota, membership and the table set, with the rota's lengths. -/
def restored : Stp × Memb × Stn × Nat × Nat := (s.stp, s.memb, s.stn, s.rd 0x18000, s.rd 0x18004)

theorem loadReg_ctxs (a v : Nat) : (s.loadReg a v).ctxs = s.ctxs := by rw [loadReg_regs]

theorem pageLoads_ctxs (c : Nat) (l : List (Nat × Nat)) (s : State) :
    (l.foldl (fun s x => s.loadReg (pageAt c x.1) x.2) s).ctxs = s.ctxs :=
  foldl_keeps State.ctxs (fun s (x : Nat × Nat) => s.loadReg (pageAt c x.1) x.2) (fun s _ => s.loadReg_ctxs _ _) l s

theorem loadCtx_ctxs (c : Nat) (b : Bytes) : ∃ f : Ctx → Ctx, (∀ x, (f x).enable = x.enable) ∧ (s.loadCtx c b).ctxs = (s.modCtx c f).ctxs := by
  simp only [loadCtx, apply_ite State.ctxs, pageLoads_ctxs, ite_self]
  refine ⟨_, ?_, rfl⟩
  exact fun _ => rfl

theorem loadCtx_ctx_ne {c d : Nat} (other : d ≠ c) (b : Bytes) : (s.loadCtx c b).ctx d = s.ctx d := by
  obtain ⟨f, -, ctxs⟩ := s.loadCtx_ctxs c b
  exact (ctx_of_ctxs ctxs d).trans (s.ctx_modCtx_ne f other)

theorem loadCtx_enable (c d : Nat) (b : Bytes) : ((s.loadCtx c b).ctx d).enable = (s.ctx d).enable := by
  by_cases same : d = c
  · subst same
    obtain ⟨f, enable, ctxs⟩ := s.loadCtx_ctxs d b
    rw [ctx_of_ctxs ctxs, ctx_modCtx_self, enable]
  · rw [s.loadCtx_ctx_ne same]

theorem pageLoads_restored (c : Nat) (l : List (Nat × Nat)) (s : State) :
    (l.foldl (fun s x => s.loadReg (pageAt c x.1) x.2) s).restored = s.restored := by
  refine foldl_keeps State.restored (fun s (x : Nat × Nat) => s.loadReg (pageAt c x.1) x.2) (fun u x => ?_) l s
  have page (y : Nat) (low : y < pageBase) : (u.loadReg (pageAt c x.1) x.2).rd y = u.rd y :=
    u.rd_loadReg_ne (by unfold pageAt; omega) _
  rw [restored, page 0x18000 (by decide), page 0x18004 (by decide), loadReg_regs]
  rfl

theorem modCtx_restored (c : Nat) (f : Ctx → Ctx) : (s.modCtx c f).restored = s.restored := rfl

theorem loadCtx_restored (c : Nat) (b : Bytes) : (s.loadCtx c b).restored = s.restored := by
  simp only [loadCtx, apply_ite State.restored, pageLoads_restored, modCtx_restored, ite_self]

theorem event_restored (k c a b : Nat) : (s.event k c a b).restored = s.restored := by
  rw [restored, event_stp, event_memb, event_stn, rd_event_ne _ _ _ _ _ (by decide), rd_event_ne _ _ _ _ _ (by decide)]
  rfl

theorem postQuery_restored (c kind : Nat) (q : Query) : (s.postQuery c kind q).restored = s.restored := by
  have still := s.postQuery_still c kind q
  rw [restored, rd_postQuery, rd_postQuery, still_stp still, still_memb still, still_stn still]
  rfl

theorem resumeCtx_restored (c : Nat) : (s.resumeCtx c).restored = s.restored := by
  unfold resumeCtx
  rw [postQuery_restored, modCtx_restored]
  rfl

theorem resumeCtx_ctx_self (c : Nat) : ((s.resumeCtx c).ctx c).enable = true ∧ ((s.resumeCtx c).ctx c).st = .asking := by
  unfold resumeCtx
  rw [ctx_postQuery, ctx_modCtx_self]
  exact ⟨rfl, rfl⟩

theorem resumeCtx_ctx_ne {c d : Nat} (other : d ≠ c) : (s.resumeCtx c).ctx d = s.ctx d :=
  (ctx_postQuery_ne _ _ _ _ other).trans (ctx_modCtx_ne _ _ other)

end State

section Records

/- Record `r c` of each context. -/
variable (r : Nat → Bytes)

/-- The records of the contexts `l` are taken, each where it passes its check (R452 step 2). -/
def takeRecords (l : List Nat) (x : State × List Nat) : State × List Nat := l.foldl (fun x c => takeCtxRecord x c (r c)) x

theorem takeRecords_cons (c : Nat) (l : List Nat) (x : State × List Nat) :
    takeRecords r (c :: l) x = takeRecords r l (takeCtxRecord x c (r c)) := rfl

theorem takeCtxRecord_fails {c : Nat} {b : Bytes} (x : State × List Nat) (bad : crcOk 256 b = false) :
    takeCtxRecord x c b = (x.1.event 0x44 0 c 0, x.2) := by simp [takeCtxRecord, bad]

theorem takeCtxRecord_passes {c : Nat} {b : Bytes} (x : State × List Nat) (good : crcOk 256 b = true) :
    takeCtxRecord x c b = (x.1.loadCtx c b, if isJob c && bit (fld b 2 1) 0 then x.2 ++ [c] else x.2) := if_pos good

theorem takeRecords_restored (l : List Nat) (x : State × List Nat) : (takeRecords r l x).1.restored = x.1.restored := by
  induction l generalizing x with
  | nil => rfl
  | cons c l ih =>
    rw [takeRecords_cons, ih]
    cases check : crcOk 256 (r c)
    · rw [takeCtxRecord_fails _ check, State.event_restored]
    · rw [takeCtxRecord_passes _ check, State.loadCtx_restored]

theorem takeRecords_enable (l : List Nat) (x : State × List Nat) (d : Nat) :
    ((takeRecords r l x).1.ctx d).enable = (x.1.ctx d).enable := by
  induction l generalizing x with
  | nil => rfl
  | cons c l ih =>
    rw [takeRecords_cons, ih]
    cases check : crcOk 256 (r c)
    · rw [takeCtxRecord_fails _ check, State.ctx_of_ctxs (State.event_ctxs ..)]
    · rw [takeCtxRecord_passes _ check, State.loadCtx_enable]

theorem takeRecords_ctx_of_fails (l : List Nat) (x : State × List Nat) {d : Nat} (bad : crcOk 256 (r d) = false) :
    (takeRecords r l x).1.ctx d = x.1.ctx d := by
  induction l generalizing x with
  | nil => rfl
  | cons c l ih =>
    rw [takeRecords_cons, ih]
    cases check : crcOk 256 (r c)
    · rw [takeCtxRecord_fails _ check, State.ctx_of_ctxs (State.event_ctxs ..)]
    · rw [takeCtxRecord_passes _ check, State.loadCtx_ctx_ne _ (by rintro rfl; simp [bad] at check)]

theorem mem_takeRecords (l : List Nat) (x : State × List Nat) (d : Nat) : d ∈ (takeRecords r l x).2 ↔
    d ∈ x.2 ∨ d ∈ l ∧ crcOk 256 (r d) = true ∧ isJob d = true ∧ bit (fld (r d) 2 1) 0 = true := by
  induction l generalizing x with
  | nil => simp [takeRecords]
  | cons c l ih =>
    rw [takeRecords_cons, ih]
    cases check : crcOk 256 (r c)
    · rw [takeCtxRecord_fails _ check]
      by_cases same : d = c
      · simp [same, check]
      · simp [same]
    · rw [takeCtxRecord_passes _ check]
      by_cases same : d = c
      · subst same
        split
        next asks =>
          rw [Bool.and_eq_true] at asks
          simp [check, asks]
        next idle =>
          rw [Bool.and_eq_true] at idle
          simp only [List.mem_cons, check, true_and]
          tauto
      · split <;> simp [same]

end Records

/-- The contexts `l` come back (R452 step 3). -/
def State.resumeAll (l : List Nat) (s : State) : State := l.foldl State.resumeCtx s

theorem State.resumeAll_cons (c : Nat) (l : List Nat) (s : State) : s.resumeAll (c :: l) = (s.resumeCtx c).resumeAll l := by
  rw [resumeAll, resumeAll, List.foldl_cons]

theorem State.resumeAll_ctx_ne {l : List Nat} {d : Nat} (other : d ∉ l) (s : State) : (s.resumeAll l).ctx d = s.ctx d := by
  induction l generalizing s with
  | nil => rfl
  | cons c l ih =>
    rw [List.mem_cons, not_or] at other
    rw [resumeAll_cons, ih other.2, s.resumeCtx_ctx_ne other.1]

theorem State.resumeAll_ctx {l : List Nat} {d : Nat} (mem : d ∈ l) (s : State) :
    ((s.resumeAll l).ctx d).enable = true ∧ ((s.resumeAll l).ctx d).st = .asking := by
  induction l generalizing s with
  | nil => cases mem
  | cons c l ih =>
    rw [resumeAll_cons]
    by_cases later : d ∈ l
    · exact ih later _
    · obtain rfl : d = c := by simpa [later] using mem
      rw [resumeAll_ctx_ne later]
      exact s.resumeCtx_ctx_self d

/-- The record of a context in the context section at `a` (R449). -/
def recordAt (hv : HostView) (a c : Nat) : Bytes := hv1 hv (a + 256 * c) 256

theorem State.loadCtxs_eq (s : State) (hv : HostView) (a : Nat) : s.loadCtxs hv a =
    State.resumeAll (takeRecords (recordAt hv a) (List.range 4096) (s, [])).2 (takeRecords (recordAt hv a) (List.range 4096) (s, [])).1 := rfl

theorem State.loadCtxs_restored (s : State) (hv : HostView) (a : Nat) : (s.loadCtxs hv a).restored = s.restored := by
  rw [loadCtxs_eq]
  exact (foldl_keeps State.restored _ State.resumeCtx_restored _ _).trans (takeRecords_restored _ _ _)

/-- A job context whose record passes its check has the recorded ENABLE, and asks when it is enabled (R452). -/
theorem State.loadCtxs_enable {s : State} (hv : HostView) {a c : Nat} (job : isJob c = true) (good : crcOk 256 (recordAt hv a c) = true)
    (disabled : (s.ctx c).enable = false) : ((s.loadCtxs hv a).ctx c).enable = bit (fld (recordAt hv a c) 2 1) 0 ∧
      (bit (fld (recordAt hv a c) 2 1) 0 = true → ((s.loadCtxs hv a).ctx c).st = .asking) := by
  have listed := mem_takeRecords (recordAt hv a) (List.range 4096) (s, []) c
  have low : c ∈ List.range 4096 := by simp [isJob] at job; simpa using job.2
  simp only [List.not_mem_nil, false_or, low, good, job, true_and] at listed
  rw [loadCtxs_eq]
  cases enabled : bit (fld (recordAt hv a c) 2 1) 0
  · rw [resumeAll_ctx_ne (by rw [listed, enabled]; decide), takeRecords_enable]
    exact ⟨disabled, fun h => absurd h (by decide)⟩
  · obtain ⟨enable, asking⟩ := resumeAll_ctx (listed.mpr enabled) (takeRecords (recordAt hv a) (List.range 4096) (s, [])).1
    exact ⟨enable, fun _ => asking⟩

/-- A context whose record fails its check keeps its fields (R452). -/
theorem State.loadCtxs_ctx_of_fails {s : State} (hv : HostView) {a c : Nat} (bad : crcOk 256 (recordAt hv a c) = false) :
    (s.loadCtxs hv a).ctx c = s.ctx c := by
  rw [loadCtxs_eq, resumeAll_ctx_ne, takeRecords_ctx_of_fails _ _ _ bad]
  rw [mem_takeRecords]
  simp [bad]

end Sys2Proof.Machine
end

section
namespace Sys2Proof.Machine

namespace State

/- The block section -/

theorem loadRegs_stp {α : Type} (l : List α) (a v : α → Nat) (s : State) : (l.foldl (fun s x => s.loadReg (a x) (v x)) s).stp = s.stp  := by
  rw [loadRegs_regs]

theorem loadRegs_ctxs {α : Type} (l : List α) (a v : α → Nat) (s : State) : (l.foldl (fun s x => s.loadReg (a x) (v x)) s).ctxs = s.ctxs  := by
  rw [loadRegs_regs]

theorem wrRegs_stp (l : List Nat) (a v : Nat → Nat) (s : State) : (l.foldl (fun s x => s.wr (a x) (v x)) s).stp = s.stp :=
  foldl_keeps State.stp (fun s x => s.wr (a x) (v x)) (fun _ _ => rfl) l s

theorem wrRegs_ctxs (l : List Nat) (a v : Nat → Nat) (s : State) : (l.foldl (fun s x => s.wr (a x) (v x)) s).ctxs = s.ctxs :=
  foldl_keeps State.ctxs (fun s x => s.wr (a x) (v x)) (fun _ _ => rfl) l s

theorem rd_wrRegs {a : Nat → Nat} {y : Nat} (other : ∀ x, y ≠ a x) (l : List Nat) (v : Nat → Nat) (s : State) :
    (l.foldl (fun s x => s.wr (a x) (v x)) s).rd y = s.rd y :=
  foldl_keeps (State.rd · y) (fun s x => s.wr (a x) (v x)) (fun s x => s.rd_wr_ne _ (other x)) l s

variable (s : State) (hv : HostView) (a : Nat)

/-- The register part of the section (R523). -/
def loadPart : State := partRegs.zipIdx.foldl (fun s x => s.loadReg x.1.1 (secWord hv a x.2)) s

/-- The rota's lengths and copy A. -/
def loadRota : State :=
  (List.range 4096).foldl (fun s i => s.loadReg (0x10000 + 4 * i) (secWord hv a (partRegs.length + 1 + i)))
    ((s.wr 0x18000 (secWord hv a partRegs.length % 2 ^ 11)).wr 0x18004 0)

/-- The group words (R276). -/
def loadGroupWords : State :=
  (List.range 4096).foldl (fun s i => s.loadReg (0x60000 + 4 * i) (secWord hv a (partRegs.length + 2 * 4097 + 1 + 4096 + i))) s

/-- The models' weight versions, and the two registers of the table set. -/
def loadVersions : State :=
  (((List.range 64).foldl (fun s m => s.wr (wverAt m) (secWord hv a (partRegs.length + 2 * 4097 + 1 + 8192 + 3 + m))) s).wr 0x20000
    (secWord hv a (partRegs.length + 2 * 4097 + 1 + 8192 + 1))).wr 0x20004 (secWord hv a (partRegs.length + 2 * 4097 + 1 + 8192 + 2))

/-- Every register that the section loads. -/
def loadRegisters : State := (((s.loadPart hv a).loadRota hv a).loadGroupWords hv a).loadVersions hv a

/-- The membership table `live`, the versions and a rota that is off, over the loaded registers (R452, R524). -/
def withBlock (live : Table Nat) (ver tables : Nat) : State :=
  { s with
    stp := { s.stp with live := true, armed := false }
    memb := { s.memb with live := live, ver := ver, prev := s.memb.live, goneLive := s.el, lost := [], past := [] }
    stn := { s.stn with ver := tables, dir := s.rd2 0x30008 }
    pitches := s.pitches.map (fun p => { p with locked := bit (s.rd 0xF0000) 0 }) }

theorem withBlock_stp (live : Table Nat) (ver tables : Nat) : (s.withBlock live ver tables).stp = { s.stp with live := true, armed := false } := rfl

theorem withBlock_ctxs (live : Table Nat) (ver tables : Nat) : (s.withBlock live ver tables).ctxs = s.ctxs := rfl

theorem withBlock_regs (live : Table Nat) (ver tables : Nat) : (s.withBlock live ver tables).regs = s.regs := rfl

theorem withBlock_memb (live : Table Nat) (ver tables : Nat) : (s.withBlock live ver tables).memb.live = live ∧
    (s.withBlock live ver tables).memb.ver = ver ∧ (s.withBlock live ver tables).memb.lost = [] ∧
    (s.withBlock live ver tables).stn.ver = tables := ⟨rfl, rfl, rfl, rfl⟩

/-- The membership table as the section records it. -/
def memberTable (hv : HostView) (a n : Nat) : Table Nat :=
  (List.range 4096).filterMap (fun c => if secWord hv a (n + 2 * 4097 + 1 + c) % 2 ^ 14 = 0 then none
    else some (c, secWord hv a (n + 2 * 4097 + 1 + c) % 2 ^ 14))

theorem loadBlock_eq : s.loadBlock hv a = (s.loadRegisters hv a).withBlock (memberTable hv a partRegs.length)
    (secWord hv a (partRegs.length + 2 * 4097 + 1 - 1) % 65536) (secWord hv a (partRegs.length + 2 * 4097 + 1 + 8192) % 65536) := by
  unfold loadBlock loadRegisters loadVersions loadGroupWords loadRota loadPart memberTable withBlock
  generalize partRegs = rows, List.range 4096 = slots, List.range 64 = models
  rfl

theorem loadRegisters_stp : (s.loadRegisters hv a).stp = s.stp := by
  unfold loadRegisters loadVersions loadGroupWords loadRota loadPart
  generalize partRegs = rows, List.range 4096 = slots, List.range 64 = models
  rw [wr_stp, wr_stp, wrRegs_stp, loadRegs_stp, loadRegs_stp, wr_stp, wr_stp, loadRegs_stp]

theorem loadRegisters_ctxs : (s.loadRegisters hv a).ctxs = s.ctxs := by
  unfold loadRegisters loadVersions loadGroupWords loadRota loadPart
  generalize partRegs = rows, List.range 4096 = slots, List.range 64 = models
  rw [wr_ctxs, wr_ctxs, wrRegs_ctxs, loadRegs_ctxs, loadRegs_ctxs, wr_ctxs, wr_ctxs, loadRegs_ctxs]

/-- After the rota nothing writes its lengths. -/
theorem rd_loadRegisters {y : Nat} (high : 0x14000 ≤ y) (low : y < 0x20000) :
    (s.loadRegisters hv a).rd y = (((s.loadPart hv a).wr 0x18000 (secWord hv a partRegs.length % 2 ^ 11)).wr 0x18004 0).rd y := by
  have versions (m : Nat) : y ≠ wverAt m := by unfold wverAt; omega
  have slot : ∀ i ∈ List.range 4096, y ≠ 0x10000 + 4 * i := fun i hi => by
    have := List.mem_range.mp hi
    omega
  have group : ∀ i ∈ List.range 4096, y ≠ 0x60000 + 4 * i := fun i _ => by omega
  unfold loadRegisters loadVersions loadGroupWords loadRota
  rw [rd_wr_ne _ _ (by omega), rd_wr_ne _ _ (by omega), rd_wrRegs versions, rd_loadRegs group, rd_loadRegs slot]

theorem loadBlock_regs : (s.loadBlock hv a).regs = (s.loadRegisters hv a).regs := by rw [loadBlock_eq, withBlock_regs]

/-- Only the recorded length of the live copy stands, in the register of copy A; copy B, which is live, has none (R452). -/
theorem loadBlock_rotaLen : (s.loadBlock hv a).rd 0x18004 = 0 ∧ (s.loadBlock hv a).rd 0x18000 = secWord hv a partRegs.length % 2 ^ 11 := by
  have same (y : Nat) : (s.loadBlock hv a).rd y = (s.loadRegisters hv a).rd y := rd_of_regs _ (s.loadBlock_regs hv a) y
  have word : secWord hv a partRegs.length % 2 ^ 11 % 2 ^ 32 = secWord hv a partRegs.length % 2 ^ 11 := by omega
  rw [same, same, rd_loadRegisters _ _ _ (by decide) (by decide), rd_loadRegisters _ _ _ (by decide) (by decide)]
  exact ⟨rd_wr_self _ _ _, (rd_wr_ne _ _ (by decide)).trans ((rd_wr_self _ _ _).trans word)⟩

theorem loadBlock_stp : (s.loadBlock hv a).stp = { s.stp with live := true, armed := false } := by
  rw [loadBlock_eq, withBlock_stp, loadRegisters_stp]

theorem loadBlock_ctxs : (s.loadBlock hv a).ctxs = s.ctxs := by rw [loadBlock_eq, withBlock_ctxs, loadRegisters_ctxs]

/-- The words that follow the register part of `n` words and the two rota copies (R523). -/
theorem withBlock_words (n : Nat) (t : State) (loaded : t = s.withBlock (memberTable hv a n)
      (secWord hv a (n + 2 * 4097 + 1 - 1) % 65536) (secWord hv a (n + 2 * 4097 + 1 + 8192) % 65536)) :
    t.memb.ver = secWord hv a (n + 8194) % 65536 ∧ (∀ c < 4096, tget 0 t.memb.live c = secWord hv a (n + 8195 + c) % 2 ^ 14) ∧
    t.memb.lost = [] ∧ t.stn.ver = secWord hv a (n + 16387) % 65536 := by
  obtain ⟨live, ver, lost, tables⟩ := s.withBlock_memb (memberTable hv a n) (secWord hv a (n + 2 * 4097 + 1 - 1) % 65536)
    (secWord hv a (n + 2 * 4097 + 1 + 8192) % 65536)
  rw [← loaded] at live ver lost tables
  have first : n + 2 * 4097 + 1 - 1 = n + 8194 := by omega
  have second : n + 2 * 4097 + 1 + 8192 = n + 16387 := by omega
  have word (c : Nat) : n + 2 * 4097 + 1 + c = n + 8195 + c := by omega
  refine ⟨ver.trans (congrArg (secWord hv a · % 65536) first), fun c low => ?_, lost,
    tables.trans (congrArg (secWord hv a · % 65536) second)⟩
  have listed := tget_filterMap (fun c => secWord hv a (n + 2 * 4097 + 1 + c) % 2 ^ 14) (List.range 4096) c
  rw [if_pos (List.mem_range.mpr low)] at listed
  rw [live]
  exact listed.trans (congrArg (secWord hv a · % 2 ^ 14) (word c))

/-- Membership and the table set are those that the section records, with no chip lost (R452). -/
theorem loadBlock_memb : (s.loadBlock hv a).memb.ver = secWord hv a (partRegs.length + 8194) % 65536 ∧
    (∀ c < 4096, tget 0 (s.loadBlock hv a).memb.live c = secWord hv a (partRegs.length + 8195 + c) % 2 ^ 14) ∧
    (s.loadBlock hv a).memb.lost = [] ∧ (s.loadBlock hv a).stn.ver = secWord hv a (partRegs.length + 16387) % 65536 :=
  (s.loadRegisters hv a).withBlock_words hv a partRegs.length _ (s.loadBlock_eq hv a)

end State

section Restore

variable {hv : HostView} {s : State} (opened : s.portOpen = true)
include opened

theorem restoreGoOp_occupied (busy : s.rsl.snap.busy = true ∨ ∃ c, c ≠ 0 ∧ ((s.ctx c).enable = true ∨ (s.ctx c).tdown = true)) :
    restoreGoOp hv s = (s.wrote 0xC0034 1).event 0x43 0 0 0 := by
  have still := s.wrote_still 0xC0034 1
  change (s.wrote 0xC0034 1).still = ({ s with ctl := (s.wrote 0xC0034 1).ctl } : State).still at still
  have rsl : (s.wrote 0xC0034 1).rsl = s.rsl := (State.still_rsl still).trans rfl
  have ctx (c : Nat) : (s.wrote 0xC0034 1).ctx c = s.ctx c := s.wrote_ctx _ _ c
  simp only [restoreGoOp, opened, Bool.not_true, Bool.false_eq_true, if_false, rsl]
  rcases busy with busy | ⟨c, job, open_⟩
  · rw [if_pos busy]
  · rw [if_pos (tkeys_open_ne_nil job (by rw [ctx]; exact open_)), ite_self]

variable (ok : s.Ok) (free : s.rsl.snap.busy = false) (shut : ∀ c, c ≠ 0 → (s.ctx c).enable = false ∧ (s.ctx c).tdown = false)
  (read : hv.fault = 0)
include ok free shut read

theorem restoreGoOp_idle : restoreGoOp hv s = (s.wrote 0xC0034 1).restore hv := by
  have still := s.wrote_still 0xC0034 1
  change (s.wrote 0xC0034 1).still = ({ s with ctl := (s.wrote 0xC0034 1).ctl } : State).still at still
  have rsl : (s.wrote 0xC0034 1).rsl = s.rsl := (State.still_rsl still).trans rfl
  have ctxs : (s.wrote 0xC0034 1).ctxs = s.ctxs := (State.still_ctxs still).trans rfl
  simp only [restoreGoOp, opened, Bool.not_true, Bool.false_eq_true, if_false, rsl, free, read, ne_eq, not_true_eq_false]
  rw [if_neg (by rw [ctxs, not_not]; exact tkeys_open_nil ok shut)]

end Restore

namespace State

variable (s : State) (hv : HostView)

theorem restore_none (none_ : newestCairn hv s.poolBase = none) : s.restore hv = s.event 0x43 0 1 0 := by
  rw [restore, none_]

theorem restore_some {k g : Nat} (newest : newestCairn hv s.poolBase = some (k, g)) : s.restore hv =
    if fld (hv1 hv (s.poolBase + cairnOff k) 64) 28 2 % 4096 ≠ s.glb.chip then s.event 0x43 0 2 0
    else if fld (hv1 hv (s.poolBase + cairnOff k) 64) 40 4 / 65536 ≠ s.rd 4 / 65536 then s.event 0x43 0 3 0
    else if s.tentPast hv (s.poolBase + slotOff k) then s.event 0x43 0 4 0
    else (s.loadBlock hv (s.poolBase + slotOff k)).loadCtxs hv (s.poolBase + slotOff k + 2 ^ 20) := by
  rw [restore, newest]

/-- What both sections bring (R452). -/
theorem restored_sections (a : Nat) :
    ((s.loadBlock hv a).loadCtxs hv (a + 2 ^ 20)).stp = { s.stp with live := true, armed := false } ∧
    ((s.loadBlock hv a).loadCtxs hv (a + 2 ^ 20)).rotaLen true = 0 ∧
    ((s.loadBlock hv a).loadCtxs hv (a + 2 ^ 20)).rotaLen false = secWord hv a partRegs.length % 2 ^ 11 ∧
    ((s.loadBlock hv a).loadCtxs hv (a + 2 ^ 20)).memb = (s.loadBlock hv a).memb ∧
    ((s.loadBlock hv a).loadCtxs hv (a + 2 ^ 20)).stn = (s.loadBlock hv a).stn := by
  have same := (s.loadBlock hv a).loadCtxs_restored hv (a + 2 ^ 20)
  obtain ⟨lenB, lenA⟩ := s.loadBlock_rotaLen hv a
  have stp := s.loadBlock_stp hv a
  generalize (s.loadBlock hv a).loadCtxs hv (a + 2 ^ 20) = t at *
  simp only [restored, Prod.mk.injEq] at same
  obtain ⟨stpSame, memb, stn, first, second⟩ := same
  refine ⟨stpSame.trans stp, ?_, ?_, memb, stn⟩
  · rw [rotaLen, rdF, if_pos rfl, second, lenB]
    rfl
  · rw [rotaLen, rdF, if_neg (by decide), first, lenA]
    unfold bits
    omega

end State

/-- Settles O17: by the refusals in the order of R452, then by what the two sections bring. -/
theorem restoreLoadsNewestCairn : Obligations.RestoreLoadsNewestCairn := by
  unfold Obligations.RestoreLoadsNewestCairn
  intro hv s opened w
  have still : w.still = ({ s with ctl := w.ctl } : State).still := s.wrote_still 0xC0034 1
  have keeps : s.KeepsRegs w (0xF000C :: lntRegs) := s.wrote_keeps 0xC0034 1
  refine ⟨fun busy => congrArg Host.Outcome.next (restoreGoOp_occupied opened busy), fun k => ⟨fun x hx => ?_, ?_⟩,
    fun ok free shut read => ?_⟩
  · exact (State.rd_event_ne _ _ _ _ _ fun h => hx (List.mem_cons_of_mem _ h)).trans (keeps x hx)
  · exact (w.event_still _ _ _ _).trans still
  have run : exec (.restoreGo hv) s = .next (w.restore hv) := congrArg Host.Outcome.next (restoreGoOp_idle opened ok free shut read)
  have ctx (c : Nat) : w.ctx c = s.ctx c := s.wrote_ctx 0xC0034 1 c
  clear_value w
  have base : w.poolBase = s.poolBase := by
    rw [State.poolBase, State.poolBase, State.rd2, State.rd2, keeps _ (by decide), keeps _ (by decide)]
  have glb : w.glb = s.glb := (State.still_glb still).trans rfl
  have stp : w.stp = s.stp := (State.still_stp still).trans rfl
  have version : w.rd 4 = s.rd 4 := keeps 4 (by decide)
  have past (a : Nat) : w.tentPast hv a = s.tentPast hv a := by
    rw [State.tentPast, State.tentPast, State.nCores, State.nCores, State.nPitch, State.nPitch, glb]
  refine ⟨fun none_ => ?_, fun k g newest => ?_⟩
  · rw [run, w.restore_none hv (base ▸ none_)]
  intro b a
  rw [run, w.restore_some hv (base ▸ newest), base, glb, version, past]
  have cairn : hv1 hv (s.poolBase + cairnOff k) 64 = b := rfl
  have slot : s.poolBase + slotOff k = a := rfl
  rw [cairn, slot]
  clear_value a b
  refine ⟨fun chip => ?_, fun chip ver => ?_, fun chip ver tents => ?_, fun chip ver tents => ?_⟩
  · rw [if_pos chip]
  · rw [if_neg (not_not.mpr chip), if_pos ver]
  · rw [if_neg (not_not.mpr chip), if_neg (not_not.mpr ver), if_pos tents]
  · rw [if_neg (not_not.mpr chip), if_neg (not_not.mpr ver), if_neg (by rw [tents]; exact Bool.false_ne_true)]
    intro n
    obtain ⟨stpSet, lenB, lenA, memb, stn⟩ := w.restored_sections hv a
    obtain ⟨ver_, live, lost, tables⟩ := w.loadBlock_memb hv a
    have length : partRegs.length = n := rfl
    rw [length] at lenA ver_ live tables
    rw [← memb] at ver_ live lost
    rw [← stn] at tables
    clear_value n
    refine ⟨_, rfl, rfl, stpSet.trans (by rw [stp]), lenB, lenA, ver_, live, lost, tables, fun c job => ?_⟩
    have block (d : Nat) : (w.loadBlock hv a).ctx d = s.ctx d := (State.ctx_of_ctxs (w.loadBlock_ctxs hv a) d).trans (ctx d)
    have job_ : c ≠ 0 := by rintro rfl; cases job
    refine ⟨fun good => ?_, fun bad => ?_⟩
    · exact State.loadCtxs_enable hv job good (by rw [block]; exact (shut c job_).1)
    · exact (State.loadCtxs_ctx_of_fails hv bad).trans (block c)

end Sys2Proof.Machine
end

section
/-! The loss of a chip (R433 to R436): what its declaration leaves as it was. -/

namespace Sys2Proof.Machine

namespace State

variable (s : State)

@[simp] theorem waitAgain_kept (rs : List MemReq) : (s.waitAgain rs).kept = s.kept := by
  unfold waitAgain
  exact kept_foldl _ _ _ fun _ _ => rfl

@[simp] theorem isolateMem_kept (c : Nat) : (s.isolateMem c).kept = s.kept := by
  have noticed : (if (s.ch c).iso then s else s.notice 2).kept = s.kept := by split <;> rfl
  unfold isolateMem abandonOut
  rw [waitAgain_kept]
  exact noticed

@[simp] theorem outPoint_kept (want : Nat) : (s.outPoint want).2.kept = s.kept := by
  unfold outPoint
  dsimp only
  split
  · rfl
  · split <;> rfl

@[simp] theorem isolateCore_kept (a left : Nat) : (s.isolateCore a left).kept = s.kept := by
  have noticed : (if (s.pt a).iso then s else s.notice 2).kept = s.kept := by split <;> rfl
  unfold isolateCore
  exact (kept_foldl _ _ _ fun s b => by rw [coreSend_kept, outPoint_kept]).trans noticed

@[simp] theorem shutDown_kept : s.shutDown.kept = s.kept := by
  have channels (u : State) : ((List.range 16).foldl isolateMem u).kept = u.kept := kept_foldl _ _ _ isolateMem_kept
  have points (u : State) : ((List.range 32).foldl (fun s a => s.isolateCore a 0) u).kept = u.kept :=
    kept_foldl _ _ _ fun s a => isolateCore_kept s a 0
  have begun (u : State) (g : Glb) (st : StartSt) : ({ u with glb := g, start := st } : State).kept = u.kept := rfl
  have quiet (a v : Nat) (l : Links) : ({ s.wr a v with links := l } : State).kept = s.kept := rfl
  unfold shutDown
  dsimp only
  rw [begun, points, channels, quiet]

@[simp] theorem snapFail_kept : s.snapFail.kept = s.kept := by
  have ended (u : State) : u.snapEnd.kept = u.kept := by
    unfold snapEnd
    dsimp only
    split
    · exact shutDown_kept _
    · rfl
  unfold snapFail
  split
  · rfl
  · rw [ended, event_kept]
    rfl

@[simp] theorem infFail_kept (expert : Bool) : (s.infFail expert).kept = s.kept :=
  (kept_of_still (s.infFail_still expert)).trans rfl

@[simp] theorem copiesLost_kept (gone : Nat → Bool) (lost : Bool) : (s.copiesLost gone lost).kept = s.kept := by
  have ite_kept (u v : State) (b : Bool) (h : v.kept = u.kept) : (if b then v else u).kept = u.kept := by
    split
    · exact h
    · rfl
  unfold copiesLost
  dsimp only
  exact (ite_kept _ _ _ (snapFail_kept _)).trans ((ite_kept _ _ _ (infFail_kept _ true)).trans (ite_kept _ _ _ (infFail_kept s false)))

@[simp] theorem spreadNotice_kept (pay : Bytes) (d : Option Nat) : (s.spreadNotice pay d).kept = s.kept := by
  unfold spreadNotice
  refine kept_foldl _ _ _ fun s d => ?_
  split <;> rfl

@[simp] theorem cancelLoss_kept (c : Nat) : (s.cancelLoss c).kept = s.kept := by
  unfold cancelLoss
  split
  · rfl
  · split
    · rfl
    · split
      · exact (holdCancel_kept ..).trans (modStep_kept ..)
      · exact cancelNow_kept ..

@[simp] theorem lossStep_kept (l c : Nat) : (s.lossStep l c).kept = s.kept := by
  have marked (u : State) (f : Step → Step) : (u.modStep c f).kept = u.kept := rfl
  unfold lossStep
  split
  · rfl
  · dsimp only
    repeat' split
    · exact marked ..
    · exact (cancelLoss_kept ..).trans (marked ..)
    · exact (ctxFault_kept ..).trans (marked ..)
    · exact (ctxFault_kept ..).trans (marked ..)
    · exact marked ..
    · exact (ctxFault_kept ..).trans (marked ..)
    · exact (marked ..).trans (marked ..)

@[simp] theorem detect_kept : s.detect.kept = s.kept := (kept_of_still (s := { s with rsl := s.detect.rsl }) s.detect_still).trans rfl

/-- Only the lost set changes of what a declaration keeps (R433). -/
theorem declareLost_kept {l : Nat} (decl : Nat) (pay : Bytes) (d : Option Nat) (new : l ∉ s.memb.lost) :
    (s.declareLost l decl pay d).kept = ({ s with memb := { s.memb with lost := s.memb.lost ++ [l] } } : State).kept := by
  have dropped (u : State) : (u.dropFor l).kept = u.kept := rfl
  have released (u : State) (h : List HoldE) : ({ u with hold := h } : State).kept = u.kept := rfl
  unfold declareLost
  rw [if_neg (by simpa using new)]
  dsimp only
  rw [kept_foldl _ _ _ fun s c => lossStep_kept s l c, released, count_kept, dropped, spreadNotice_kept, copiesLost_kept, wr_kept,
    notice_kept, event_kept]

theorem declareLost_known {l : Nat} (decl : Nat) (pay : Bytes) (d : Option Nat) (known : l ∈ s.memb.lost) :
    s.declareLost l decl pay d = s := by
  unfold declareLost
  rw [if_pos (by simpa using known)]

end State

/- Which contexts are enabled, and which are in teardown (R397) -/

/-- A context's ENABLE and TDOWN. -/
def Ctx.onOff (x : Ctx) : Bool × Bool := (x.enable, x.tdown)

/-- No context is enabled, disabled, or put in or out of teardown. -/
structure State.SameOn (s t : State) : Prop where
  onOff : ∀ c, (t.ctx c).onOff = (s.ctx c).onOff

theorem sameOn_refl (s : State) : s.SameOn s := ⟨fun _ => rfl⟩

theorem State.SameOn.trans {s t u : State} (h : s.SameOn t) (k : t.SameOn u) : s.SameOn u :=
  ⟨fun c => (k.onOff c).trans (h.onOff c)⟩

theorem sameOn_of_ctxs {s t : State} (h : t.ctxs = s.ctxs) : s.SameOn t := ⟨fun c => congrArg Ctx.onOff (State.ctx_of_ctxs h c)⟩

theorem sameOn_of_settled {s t : State} (h : s.Settled t) : s.SameOn t := by
  refine ⟨fun c => ?_⟩
  have same : (t.ctx c).unframed.onOff = (s.ctx c).unframed.onOff := congrArg Ctx.onOff (h.ctxs c)
  exact same

theorem sameOn_foldl {α : Type} {f : State → α → State} (h : ∀ (s : State) x, s.SameOn (f s x)) (l : List α) (s : State) :
    s.SameOn (l.foldl f s) := by
  induction l generalizing s with
  | nil => exact sameOn_refl s
  | cons x l ih => exact (h s x).trans (ih _)

namespace State

variable (s : State)

theorem modCtx_sameOn (c : Nat) (f : Ctx → Ctx) (h : ∀ x, (f x).onOff = x.onOff) : s.SameOn (s.modCtx c f) := by
  refine ⟨fun d => ?_⟩
  by_cases same : d = c
  · subst same
    rw [ctx_modCtx_self, h]
  · rw [ctx_modCtx_ne _ _ same]

theorem modStep_sameOn (c : Nat) (f : Step → Step) : s.SameOn (s.modStep c f) := s.modCtx_sameOn c _ fun _ => rfl

theorem sendCancel_sameOn (c e sc why fin : Nat) : s.SameOn (s.sendCancel c e sc why fin) := by
  obtain ⟨others, self⟩ := s.sendCancel_ctx c e sc why fin
  refine ⟨fun d => ?_⟩
  by_cases same : d = c
  · subst same
    rw [self]
    rfl
  · rw [others d same]

theorem cancelCheck_sameOn (c : Nat) : s.SameOn (s.cancelCheck c) := by
  have posted (u : State) (k : Nat) (q : Query) : u.SameOn (u.postQuery c k q) :=
    SameOn.trans (t := (u.modCtx c (fun x => { x with missed := 0, ask := { pend := k } })).modStep c
        (fun st => { st with qrec := some (u.queryAsked c k q) }))
      (SameOn.trans (u.modCtx_sameOn c (fun x => { x with missed := 0, ask := { pend := k } }) fun _ => rfl) (modStep_sameOn _ c _))
      (sameOn_of_ctxs rfl)
  unfold cancelCheck
  split
  · exact sameOn_refl s
  · dsimp only
    split
    · exact (s.modStep_sameOn c _).trans (posted _ _ _)
    · exact sameOn_refl s

theorem cancelMark_sameOn (c : Nat) (st : Step) : s.SameOn (s.cancelMark c st) := by
  have drained (d : DrainE) : (if st.outCopies = [] then s else { s with drain := s.drain ++ [d] }).ctxs = s.ctxs := by
    split <;> rfl
  unfold cancelMark
  dsimp only
  refine SameOn.trans (SameOn.trans (sameOn_of_ctxs ?_) (modCtx_sameOn _ c _ ?_)) (modStep_sameOn _ c _)
  · exact drained _
  · exact fun _ => rfl

theorem holdCancel_sameOn (c : Nat) (full : Bool) : s.SameOn (s.holdCancel c full) := by
  have counted : s.SameOn (if full && !(s.ctx c).waitDrain then s.countSat 0x40004 0 16 1 else s) := by
    split
    · exact sameOn_of_ctxs rfl
    · exact sameOn_refl s
  refine counted.trans (modCtx_sameOn _ c _ ?_)
  exact fun _ => rfl

theorem cancelNow_sameOn (c : Nat) (st : Step) : s.SameOn (s.cancelNow c st) := by
  have dropped (u : State) : u.SameOn (if u.tilesOf c = [] then u.dropFrame c else u) := by
    split
    · exact sameOn_of_settled (u.dropFrame_settled c)
    · exact sameOn_refl u
  exact ((s.cancelMark_sameOn c st).trans (dropped _)).trans (SameOn.trans (sendCancel_sameOn ..) (cancelCheck_sameOn ..))

theorem cancelStep_sameOn (c : Nat) : s.SameOn (s.cancelStep c) := by
  unfold cancelStep
  split
  · exact sameOn_refl s
  · split
    · exact sameOn_refl s
    · split
      · exact holdCancel_sameOn ..
      · split
        · exact holdCancel_sameOn ..
        · exact cancelNow_sameOn ..

theorem heldAll_sameOn : s.SameOn s.heldAll := by
  refine sameOn_foldl (fun s c => ?_) _ s
  unfold heldCheck
  split
  · exact cancelStep_sameOn s c
  · exact sameOn_refl s

theorem release_sameOn (c : Nat) : s.SameOn (s.release c) := by
  have cleared : s.SameOn (s.clearOwn c) := by
    refine ⟨fun d => ?_⟩
    by_cases same : d = c
    · subst same
      rw [clearOwn_ctx]
      rfl
    · exact congrArg Ctx.onOff (ctx_modCtx_ne _ _ same)
  have dropped := cleared.trans (sameOn_of_settled (dropImages_settled _ c))
  exact ((dropped.trans (sameOn_of_settled (unhold_settled _ c))).trans (sameOn_of_settled (frames_settled ..))).trans (heldAll_sameOn _)

/-- A teardown enables, disables or tears down no other context. -/
theorem tearDown_onOff {c d : Nat} (why : Nat) (other : d ≠ c) : ((s.tearDown c why).ctx d).onOff = (s.ctx d).onOff := by
  have torn (v : State) : ((((v.modCtx c (fun x => { x with tdown := true, downWait := true, torn := true })).sendCancel c 0 1 why 1).release
      c).ctx d).onOff = (v.ctx d).onOff :=
    ((SameOn.trans (sendCancel_sameOn ..) (release_sameOn ..)).onOff d).trans (by rw [ctx_modCtx_ne _ _ other])
  unfold tearDown
  dsimp only
  rw [downCheck_others _ _ _ other, torn]
  split
  · rfl
  · exact congrArg Ctx.onOff (ctx_of_ctxs (sends_fields (s.abortAll_sends c _ 7)).2.2.2.2.2.2.2.2.2.2.2.2.2.2.1 d)

theorem ctxFault_onOff {c d : Nat} (code : Nat) (other : d ≠ c) : ((s.ctxFault c code).ctx d).onOff = (s.ctx d).onOff := by
  have noted : ((((s.count 0xA0008 1).modCtx c (fun x => { x with fault := code })).event 0x30 c code 0).notice 1).ctx d = s.ctx d :=
    (ctx_of_ctxs (event_ctxs _ 0x30 c code 0) d).trans (ctx_modCtx_ne _ _ other)
  unfold ctxFault
  split
  · rfl
  · split
    · rw [tearDown_onOff _ _ other, noted]
    · rfl

end State

/- The chip itself is cast out (R434) -/

/-- A job context after its teardown for a lost chip. -/
def Ctx.castOff (x : Ctx) : Prop :=
  x.fault = 0x1A ∧ x.tdown = true ∧ x.step = none ∧ x.key = 0#64 ∧ x.heldCancel = false

theorem Ctx.castOff_of_unframed {x y : Ctx} (same : y.unframed = x.unframed) (off : x.castOff) : y.castOff := by
  obtain ⟨fault, tdown, step, key, held⟩ := off
  refine ⟨(congrArg Ctx.fault same).trans fault, (congrArg Ctx.tdown same).trans tdown, ?_, (congrArg Ctx.key same).trans key,
    (congrArg Ctx.heldCancel same).trans held⟩
  have mapped : y.step.map Step.unframed = x.step.map Step.unframed := congrArg Ctx.step same
  rw [step] at mapped
  exact Option.map_eq_none_iff.mp mapped

namespace State

/-- The contexts `l` fault for the loss of their own chip. -/
def faultAll (l : List Nat) (s : State) : State := l.foldl (fun s c => s.ctxFault c 0x1A) s

variable {s : State} {c : Nat}

theorem ctxFault_castOff (job : c ≠ 0) (active : (s.ctx c).active = true) : ((s.ctxFault c 0x1A).ctx c).castOff := by
  have noted : ((((s.count 0xA0008 1).modCtx c (fun x => { x with fault := 0x1A })).event 0x30 c 0x1A 0).notice 1).ctx c =
      { s.ctx c with fault := 0x1A } :=
    (ctx_of_ctxs (event_ctxs _ 0x30 c 0x1A 0) c).trans (ctx_modCtx_self _ _ _)
  unfold ctxFault
  rw [if_neg job, if_pos active, (tearDown_ctx _ c 1).2, noted]
  exact ⟨rfl, rfl, rfl, rfl, rfl⟩

theorem castOff_ctxFault (d : Nat) (off : (s.ctx c).castOff) : ((s.ctxFault d 0x1A).ctx c).castOff := by
  by_cases same : c = d
  · subst same
    have inactive : (s.ctx c).active = false := by rw [Ctx.active, off.2.1]; simp
    by_cases job : c = 0
    · rw [ctxFault, if_pos job]
      exact off
    · rw [ctxFault_inactive _ _ _ job inactive]
      exact off
  · exact Ctx.castOff_of_unframed (ctxFault_others _ _ _ _ same off.2.2.2.2) off

end State

namespace State

theorem castOff_faultAll {s : State} {c : Nat} (l : List Nat) (off : (s.ctx c).castOff) : ((s.faultAll l).ctx c).castOff := by
  induction l generalizing s with
  | nil => exact off
  | cons d l ih => exact ih (castOff_ctxFault d off)

/-- Every active job context of the list is cast off (R434). -/
theorem faultAll_castOff {s : State} {c : Nat} {l : List Nat} (job : c ≠ 0) (mem : c ∈ l) (active : (s.ctx c).active = true) :
    ((s.faultAll l).ctx c).castOff := by
  induction l generalizing s with
  | nil => cases mem
  | cons d l ih =>
    by_cases same : c = d
    · subst same
      exact castOff_faultAll l (ctxFault_castOff job active)
    · have stays : ((s.ctxFault d 0x1A).ctx c).onOff = (s.ctx c).onOff := s.ctxFault_onOff 0x1A same
      have enable : ((s.ctxFault d 0x1A).ctx c).enable = (s.ctx c).enable := congrArg Prod.fst stays
      have tdown : ((s.ctxFault d 0x1A).ctx c).tdown = (s.ctx c).tdown := congrArg Prod.snd stays
      exact ih (List.mem_of_ne_of_mem same mem) (by rw [Ctx.active, enable, tdown]; exact active)

theorem faultAll_kept (l : List Nat) (s : State) : (s.faultAll l).kept = s.kept := kept_foldl _ _ _ fun s c => ctxFault_kept s c 0x1A

/-- The chip knows that it is cast out (R434). -/
def outcastSet (s : State) : State := { s with memb := { s.memb with outcast := if s.memb.outcast = 0 then 1 else s.memb.outcast } }

theorem castOut_eq (s : State) : s.castOut = s.outcastSet.faultAll (tkeys (fun _ x => x.enable) s.ctxs) := rfl

theorem outcastSet_ne_zero (s : State) : s.outcastSet.memb.outcast ≠ 0 := by
  change (if s.memb.outcast = 0 then 1 else s.memb.outcast) ≠ 0
  split <;> omega

theorem mem_enabled_of_active {s : State} {c : Nat} (active : (s.ctx c).active = true) : c ∈ tkeys (fun _ x => x.enable) s.ctxs := by
  rw [Ctx.active, Bool.and_eq_true] at active
  have listed : (c, s.ctx c) ∈ s.ctxs := tget_mem_of_ne fun reset => by
    change s.ctx c = Ctx.reset at reset
    rw [reset] at active
    cases active.1
  exact List.mem_map.mpr ⟨_, List.mem_filter.mpr ⟨listed, active.1⟩, rfl⟩

end State

theorem lostDeclOp_on {w : W32} {s : State} (on : s.on = true) :
    lostDeclOp w s = ((s.declareOwn (w.toNat % 4096)).recWrite 0xC0038 w.toNat).ackWrite := if_pos on

section Notice

/- The oldest notice names chip `fld pay 2 2 % 4096`, and passes its check (R434). -/
variable {n : Nat} {pay : Bytes} {r : List (Nat × Bytes)} {s : State} (waits : s.xch.notices = (n, pay) :: r) (kind : fld pay 0 2 = 1)
  (good : crcOk 20 pay = true)

/-- The notice is taken. -/
def State.noticeTaken (s : State) (r : List (Nat × Bytes)) : State := { s with xch := { s.xch with notices := r } }

include waits kind good

theorem lossNoticeOp_own (own : fld pay 2 2 % 4096 = s.glb.chip) : lossNoticeOp s = (s.noticeTaken r).castOut := by
  simp only [lossNoticeOp, waits, kind, good, ne_eq, not_true_eq_false, Bool.true_eq_false, or_self, if_false]
  exact if_pos own

theorem lossNoticeOp_known (other : fld pay 2 2 % 4096 ≠ s.glb.chip) (known : fld pay 2 2 % 4096 ∈ s.memb.lost) :
    lossNoticeOp s = s.noticeTaken r := by
  simp only [lossNoticeOp, waits, kind, good, ne_eq, not_true_eq_false, Bool.true_eq_false, or_self, if_false]
  exact (if_neg other).trans (if_pos (by simpa using known))

theorem lossNoticeOp_new (other : fld pay 2 2 % 4096 ≠ s.glb.chip) (new : fld pay 2 2 % 4096 ∉ s.memb.lost) :
    lossNoticeOp s = (s.noticeTaken r).detect.declareLost (fld pay 2 2 % 4096) (fld pay 4 2 % 4096) pay ((s.noticeTaken r).portDir n) := by
  simp only [lossNoticeOp, waits, kind, good, ne_eq, not_true_eq_false, Bool.true_eq_false, or_self, if_false]
  exact (if_neg other).trans (if_neg (by simpa using new))

end Notice

/-- What a loss leaves but for the lost set (R433): membership, the table set, the fences, the guy wires and the clock. -/
def State.calmed (s : State) : Memb × Stn × Fnc × Guys × Clk := (s.memb, s.stn, s.fnc, s.guys, s.clk)

theorem calmed_of_kept {s t : State} (same : t.kept = s.kept) : t.calmed = s.calmed :=
  congrArg (fun x : List Instr × Clk × Ctl × Guys × Memb × Fnc × Stn => (x.2.2.2.2.1, x.2.2.2.2.2.2, x.2.2.2.2.2.1, x.2.2.2.1, x.2.1)) same

theorem calmed_of_still {s t : State} (still : t.still = s.still) : t.calmed = s.calmed := calmed_of_kept (kept_of_still still)

theorem wrote_calmed (s : State) (a v : Nat) : ((s.recWrite a v).ackWrite).calmed = s.calmed :=
  (calmed_of_still (s.wrote_still a v)).trans rfl

theorem calmed_lost {s t : State} {l : Nat} (same : t.calmed = ({ s with memb := { s.memb with lost := s.memb.lost ++ [l] } } : State).calmed) :
    t.memb = { s.memb with lost := s.memb.lost ++ [l] } ∧ t.stn = s.stn ∧ t.fnc = s.fnc ∧ t.guys = s.guys ∧ t.clk = s.clk := by
  simpa only [State.calmed, Prod.mk.injEq] using same

/-- Settles O18: by whether the chip is in the lost set already; a notice that names this chip by the teardown of each context in
turn, which no later one undoes. -/
theorem lossEntersLostSet : Obligations.LossEntersLostSet := by
  unfold Obligations.LossEntersLostSet
  refine ⟨⟨fun w s on => ⟨fun new => ?own, fun known => ?ownKnown⟩,
    fun n pay r s alive waits kind good other => ⟨fun new => ?told, fun known => ?toldKnown⟩⟩,
    fun n pay r s alive waits kind good own => ?castOut⟩
  case own =>
    have declared := s.declareLost_kept s.glb.chip (lossPayload (w.toNat % 4096) s.glb.chip s.memb.ver s.now) none new
    have wrote := wrote_calmed (s.declareOwn (w.toNat % 4096)) 0xC0038 w.toNat
    exact ⟨_, congrArg Host.Outcome.next (lostDeclOp_on on), rfl, calmed_lost (wrote.trans (calmed_of_kept declared))⟩
  case ownKnown =>
    have same : s.declareOwn (w.toNat % 4096) = s := s.declareLost_known _ _ _ known
    refine ⟨_, congrArg Host.Outcome.next (lostDeclOp_on on), ?_, ?_⟩
    · rw [same]
      exact s.wrote_keeps 0xC0038 w.toNat
    · rw [same]
      exact s.wrote_still 0xC0038 w.toNat
  case told =>
    have run := lossNoticeOp_new waits kind good other new
    have detected : (s.noticeTaken r).detect.calmed = s.calmed := calmed_of_kept (State.detect_kept _)
    simp only [State.calmed, Prod.mk.injEq] at detected
    obtain ⟨memb, stn, fnc, guys, clk⟩ := detected
    have declared := (s.noticeTaken r).detect.declareLost_kept (fld pay 4 2 % 4096) pay ((s.noticeTaken r).portDir n) (memb ▸ new)
    have lost := calmed_lost (calmed_of_kept declared)
    rw [memb, stn, fnc, guys, clk] at lost
    exact ⟨_, congrArg Host.Outcome.next ((if_pos alive).trans run), lost⟩
  case toldKnown =>
    exact congrArg Host.Outcome.next ((if_pos alive).trans (lossNoticeOp_known waits kind good other known))
  case castOut =>
    have run := lossNoticeOp_own waits kind good own
    rw [State.castOut_eq] at run
    have memb := State.memb_of_kept ((s.noticeTaken r).outcastSet.faultAll_kept (tkeys (fun _ x => x.enable) (s.noticeTaken r).ctxs))
    refine ⟨_, congrArg Host.Outcome.next ((if_pos alive).trans run), (congrArg Memb.lost memb).trans rfl, ?_, fun c job active => ?_⟩
    · rw [memb]
      exact State.outcastSet_ne_zero _
    · obtain ⟨fault, tdown, step, key, -⟩ := State.faultAll_castOff (s := (s.noticeTaken r).outcastSet) job
        (State.mem_enabled_of_active (s := s.noticeTaken r) active) active
      exact ⟨fault, tdown, step, key⟩

end Sys2Proof.Machine
end

section
/-! The beginning of a start, its restart and the scan (R478 to R484, R489). -/

namespace Sys2Proof.Machine

namespace State

variable (s : State) (i : StartInput)

/- What phases 1 to 4 find (R478): the first failing test decides. -/

variable {s i}

theorem startRead_noStrobes (none_ : i.strobes = false) : (s.startRead i).1 = .fails 0x08 := by simp [startRead, none_]

section Strobes

variable (strobes : i.strobes = true)
include strobes

theorem startRead_noPitch
    (none_ : upMask (s.glb.present &&& i.bypassBad.toNat) ((s.glb.present &&& i.ready.toNat) &&& (15 ^^^ i.bypassBad.toNat)) 0 = 0) :
    (s.startRead i).1 = .fails 0x09 := by
  simp only [startRead, strobes, Bool.not_true, Bool.false_eq_true, if_false, if_pos none_]

variable (up : upMask (s.glb.present &&& i.bypassBad.toNat) ((s.glb.present &&& i.ready.toNat) &&& (15 ^^^ i.bypassBad.toNat)) 0 ≠ 0)
include up

theorem startRead_noMode (none_ : chooseMode i.sfdp = none) : (s.startRead i).1 = .fails 0x01 := by
  simp only [startRead, strobes, Bool.not_true, Bool.false_eq_true, if_false, if_neg up, none_]

variable {m : ReadMode} (mode : chooseMode i.sfdp = some m)
include mode

theorem startRead_noData (none_ : i.data = false) : (s.startRead i).1 = .fails 0x02 := by
  simp only [startRead, strobes, Bool.not_true, Bool.false_eq_true, if_false, if_neg up, mode, none_, Bool.not_false, if_true]

variable (data : i.data = true)
include data

theorem startRead_noHeader (none_ : flashChecked i.flash 0 64 headerOk = none) : (s.startRead i).1 = .fails 0x03 := by
  simp only [startRead, strobes, Bool.not_true, Bool.false_eq_true, if_false, if_neg up, mode, data, none_]

variable {b : Bytes} (header : flashChecked i.flash 0 64 headerOk = some b)
include header

theorem startRead_outOfRange (out : headerInRange s.nPitch b = false) : (s.startRead i).1 = .fails 0x05 := by
  simp only [startRead, strobes, Bool.not_true, Bool.false_eq_true, if_false, if_neg up, mode, data, header, out, Bool.not_false, if_true]

theorem startRead_body (inRange : headerInRange s.nPitch b = true) : (s.startRead i).1 = (s.readBody i m b).1 := by
  simp only [startRead, strobes, Bool.not_true, Bool.false_eq_true, if_false, if_neg up, mode, data, header, inRange]

end Strobes

/-- What a start that begins has whatever it finds: everything but the start controller's state as phase 1 leaves it. -/
structure Begun (s t : State) : Prop where
  rest : t = { s.fresh0 with start := t.start }
  fails : t.start.fails = s.start.fails
  scan : t.start.scan = false
  stopped : t.start.stopped = false

theorem begin_begun (s : State) (i : StartInput) : s.Begun (s.begin_ i) := by
  unfold begin_
  dsimp only
  split <;> exact ⟨rfl, rfl, rfl, rfl⟩

theorem begin_fails {k : Nat} (found : (s.fresh0.startRead i).1 = .fails k) :
    (s.begin_ i).start.phase = .failing ∧ (s.begin_ i).start.code = k := by
  unfold begin_
  dsimp only
  rw [found]
  exact ⟨rfl, rfl⟩

theorem begin_reads {im : Image} {r : Option (Nat × Bytes)} {part failed : Nat} {notes : List Nat} {test : Bool}
    (found : (s.fresh0.startRead i).1 = .reads im r part notes failed test) :
    (s.begin_ i).start.phase = (if test then .testing else .ready) ∧ (s.begin_ i).start.image = some im ∧
    (s.begin_ i).start.part = part ∧ (s.begin_ i).start.failed = failed ∧
    (s.begin_ i).start.bypass = s.glb.present &&& i.bypassBad.toNat ∧
    (s.begin_ i).start.rounds = if test then testRounds s.nPitch part else [] := by
  unfold begin_
  dsimp only
  rw [found]
  exact ⟨rfl, rfl, rfl, rfl, rfl, rfl⟩

end State

/- The scan (R489) -/

namespace State

/-- The contexts `l` are disabled, each unless it is in teardown (R398). -/
def disableAll (l : List Nat) (s : State) : State := l.foldl State.disableCtx s

theorem disableAll_ok (l : List Nat) {s : State} (ok : s.Ok) : (s.disableAll l).Ok := by
  induction l generalizing s with
  | nil => exact ok
  | cons c l ih => exact ih (disableCtx_ok s c ok)

theorem disableCtx_onOff_ne (s : State) {c d : Nat} (other : d ≠ c) : ((s.disableCtx c).ctx d).onOff = (s.ctx d).onOff := by
  unfold disableCtx
  dsimp only
  split
  · exact s.tearDown_onOff 2 other
  · rfl

/-- A context that was enabled is in teardown once it is disabled. -/
theorem disableCtx_down (s : State) (c : Nat) : ((s.disableCtx c).ctx c).enable = true → ((s.disableCtx c).ctx c).tdown = true := by
  unfold disableCtx
  dsimp only
  split
  · rw [(s.tearDown_ctx c 2).2]
    exact fun _ => rfl
  next still =>
    intro enable
    simpa [enable] using still

theorem disableCtx_keepsDown (s : State) (c : Nat) {d : Nat} (down : (s.ctx d).enable = true → (s.ctx d).tdown = true) :
    ((s.disableCtx c).ctx d).enable = true → ((s.disableCtx c).ctx d).tdown = true := by
  by_cases same : d = c
  · subst same
    exact s.disableCtx_down d
  · have stays := s.disableCtx_onOff_ne same
    have enable : ((s.disableCtx c).ctx d).enable = (s.ctx d).enable := congrArg Prod.fst stays
    have tdown : ((s.disableCtx c).ctx d).tdown = (s.ctx d).tdown := congrArg Prod.snd stays
    rw [enable, tdown]
    exact down

theorem disableAll_down {d : Nat} (l : List Nat) (s : State) (listed : d ∈ l ∨ ((s.ctx d).enable = true → (s.ctx d).tdown = true)) :
    ((s.disableAll l).ctx d).enable = true → ((s.disableAll l).ctx d).tdown = true := by
  induction l generalizing s with
  | nil => exact listed.resolve_left (List.not_mem_nil)
  | cons c l ih =>
    refine ih _ ?_
    rcases listed with mem | down
    · rcases List.mem_cons.mp mem with rfl | later
      · exact .inr (s.disableCtx_down d)
      · exact .inl later
    · exact .inr (s.disableCtx_keepsDown c down)

end State

/-- A context as the scan chains find it: no tag key, and a teardown has come to its end (R489). -/
def Ctx.scanned (x : Ctx) : Ctx :=
  if x.tdown then { x with enable := false, tdown := false, st := .disabled, downWait := false, key := 0#64 } else { x with key := 0#64 }

theorem mem_tmap {α : Type} [DecidableEq α] {d : α} {f : Nat → α → α} {t : Table α} {e : Nat × α} (mem : e ∈ tmap d f t) :
    ∃ v, (e.1, v) ∈ t ∧ e.2 = f e.1 v := by
  induction t with
  | nil => cases mem
  | cons x t ih =>
    obtain ⟨k, v⟩ := x
    rw [tmap] at mem
    split at mem
    · obtain ⟨v, later, eq⟩ := ih mem
      exact ⟨v, List.mem_cons_of_mem _ later, eq⟩
    · rcases List.mem_cons.mp mem with rfl | later
      · exact ⟨v, List.mem_cons_self, rfl⟩
      · obtain ⟨v, later, eq⟩ := ih later
        exact ⟨v, List.mem_cons_of_mem _ later, eq⟩

/-- What holds of the default and of every entry holds of every read. -/
theorem tget_induction {α : Type} {P : α → Prop} {d : α} {t : Table α} (none_ : P d) (listed : ∀ e ∈ t, P e.2) (k : Nat) : P (tget d t k) := by
  induction t with
  | nil => exact none_
  | cons e t ih =>
    obtain ⟨k', v⟩ := e
    rw [tget]
    split
    · exact listed _ List.mem_cons_self
    · exact ih fun e he => listed e (List.mem_cons_of_mem _ he)

/-- Nothing of a context is left to scan. -/
def Ctx.cleared (x : Ctx) : Prop := x.key = 0#64 ∧ x.enable = false ∧ x.tdown = false

theorem Ctx.scanned_cleared {x : Ctx} (down : x.enable = true → x.tdown = true) : x.scanned.cleared := by
  unfold Ctx.scanned
  by_cases torn : x.tdown = true
  · rw [if_pos torn]
    exact ⟨rfl, rfl, rfl⟩
  · rw [if_neg torn]
    exact ⟨rfl, Bool.eq_false_iff.mpr fun enable => torn (down enable), Bool.eq_false_iff.mpr torn⟩

/-- The contexts that SCAN_EN disables. -/
def State.scanList (s : State) : List Nat := tkeys (fun _ x => x.enable && !x.tdown) s.ctxs

theorem scanEnOp_ctx {s : State} (alive : s.alive = true) (c : Nat) : (scanEnOp s).ctx c =
    tget Ctx.reset (tmap Ctx.reset (fun _ x => x.scanned) (s.disableAll s.scanList).ctxs) c := by
  unfold scanEnOp
  rw [alive]
  rfl

theorem scanEnOp_cleared {s : State} (ok : s.Ok) (alive : s.alive = true) (c : Nat) : ((scanEnOp s).ctx c).cleared := by
  rw [scanEnOp_ctx alive]
  refine tget_induction ⟨rfl, rfl, rfl⟩ (fun e he => ?_) c
  obtain ⟨x, mem, eq⟩ := mem_tmap he
  have here : (s.disableAll s.scanList).ctx e.1 = x := (tget_of_mem (State.disableAll_ok s.scanList ok).ctxs mem).1
  rw [eq]
  refine Ctx.scanned_cleared ?_
  rw [← here]
  refine State.disableAll_down _ s ?_
  by_cases open_ : (s.ctx e.1).enable = true ∧ (s.ctx e.1).tdown = false
  · have listed : (e.1, s.ctx e.1) ∈ s.ctxs := tget_mem_of_ne fun reset => by
      change s.ctx e.1 = Ctx.reset at reset
      rw [reset] at open_
      cases open_.1
    exact .inl (List.mem_map.mpr ⟨_, List.mem_filter.mpr ⟨listed, by simp [open_]⟩, rfl⟩)
  · exact .inr fun enable => by simpa [enable] using open_

theorem scanEnOp_start {s : State} (alive : s.alive = true) : (scanEnOp s).start.scan = true ∧ (scanEnOp s).start.keysCleared = true := by
  unfold scanEnOp
  rw [alive]
  exact ⟨rfl, rfl⟩

theorem startBeginOp_begins {s : State} (i : StartInput) (idle : s.start.phase = .idle ∨ s.alive = false) : startBeginOp i s = s.begin_ i :=
  if_pos idle

theorem startRetryOp_begins {s : State} (i : StartInput) (alive : s.alive = true) (waiting : s.start.phase = .waiting)
    (due : s.start.failAt + 1000000 ≤ s.el) : startRetryOp i s = s.begin_ i := by
  unfold startRetryOp
  rw [alive, waiting, decide_eq_true due]
  rfl

theorem restartOp_restarts {s : State} (alive : s.alive = true) (rests : s.start.phase = .minimal ∨ s.start.shut = 3) :
    restartOp s = ({ s with start := { s.start with phase := .idle, fails := 0 } } : State).ackWrite := by
  have opened : (!s.portOpen && !(s.alive && decide (s.start.shut = 3))) = false := by
    rcases rests with minimal | down
    · simp [State.portOpen, alive, minimal]
    · simp [alive, down]
  unfold restartOp
  rw [opened, if_neg Bool.false_ne_true, if_pos rests]

theorem restartOp_ignored {s : State} (alive : s.alive = true) (done : s.start.phase = .done) (runs : s.start.shut ≠ 3) :
    restartOp s = (s.ignored 0x54).ackWrite := by
  simp [restartOp, State.portOpen, alive, done, runs]

/-- Settles O19: a start by the first test that fails; a scan by the order of its contexts, of which none is enabled again. -/
theorem startsBeginAndRestart : Obligations.StartsBeginAndRestart := by
  unfold Obligations.StartsBeginAndRestart
  refine ⟨fun i s c begins => ?begin_, fun s alive => ⟨fun rests => ?restart, fun done runs => ?ignored⟩, fun s ok alive => ?scan⟩
  case begin_ =>
    intro ready bad
    have run : exec c s = .next (s.begin_ i) := by
      rcases begins with ⟨rfl, idle⟩ | ⟨rfl, alive, waiting, due⟩
      · exact congrArg Host.Outcome.next (startBeginOp_begins i idle)
      · exact congrArg Host.Outcome.next (startRetryOp_begins i alive waiting due)
    obtain ⟨rest, fails, scan, stopped⟩ := s.begin_begun i
    refine ⟨s.begin_ i, run, ?_, ?_, ?_, ?_, ?_, ?_, fails, scan, stopped, ?_, ?_, fun none_ => State.begin_fails (State.startRead_noStrobes (s := s.fresh0) none_),
      fun strobes => ⟨fun none_ => State.begin_fails (State.startRead_noPitch (s := s.fresh0) strobes none_), fun up =>
        ⟨fun none_ => State.begin_fails (State.startRead_noMode (s := s.fresh0) strobes up none_), fun m mode =>
          ⟨fun none_ => State.begin_fails (State.startRead_noData (s := s.fresh0) strobes up mode none_), fun data =>
            ⟨fun none_ => State.begin_fails (State.startRead_noHeader (s := s.fresh0) strobes up mode data none_), fun b header =>
              ⟨fun out => State.begin_fails (State.startRead_outOfRange (s := s.fresh0) strobes up mode data header out), fun inRange => ?_⟩⟩⟩⟩⟩⟩
    rotate_right
    · have body : (s.fresh0.startRead i).1 = (s.fresh0.readBody i m b).1 := State.startRead_body (s := s.fresh0) strobes up mode data header inRange
      exact ⟨fun k found => State.begin_fails (body.trans found), fun im r part notes failed test found =>
        State.begin_reads (body.trans found)⟩
    · rw [rest]; rfl
    · rw [rest]; rfl
    · rw [rest]; rfl
    · rw [rest]; rfl
    · rw [rest]; rfl
    · rw [rest]; rfl
    · rw [rest]
      exact List.map_map
    · rw [rest]
      intro p mem
      obtain ⟨q, -, rfl⟩ := List.mem_map.mp mem
      rfl
  case restart =>
    exact ⟨_, congrArg Host.Outcome.next (restartOp_restarts alive rests), rfl, rfl⟩
  case ignored =>
    refine ⟨_, congrArg Host.Outcome.next (restartOp_ignored alive done runs), s.ignored_keeps 0x54, rfl, ?_⟩
    exact congrArg (fun u : State => ({ u with ctl := (s.ignored 0x54).ackWrite.ctl } : State)) (s.ignored_still 0x54)
  case scan =>
    obtain ⟨scan, keys⟩ := scanEnOp_start alive
    exact ⟨_, rfl, scan, keys, scanEnOp_cleared ok alive⟩

end Sys2Proof.Machine
end

section
/-! Shut-down (R485 to R487): what the isolations leave of it, the pitches under test, the health record. -/

namespace Sys2Proof.Machine

namespace State

variable (s : State)

/-- What the isolations of a shut-down leave as it was: the pitches, the rota, the links, the checkpoint unit, the contexts, the
start controller and the lengths of the rota. -/
def parked : Glb × StartSt × List Pitch × Stp × Links × Rsl × Table Ctx × Nat × Nat :=
  (s.glb, s.start, s.pitches, s.stp, s.links, s.rsl, s.ctxs, s.rd 0x18000, s.rd 0x18004)

/- Memory channels -/

/-- A channel as its isolation leaves it, before its requests move (R43). -/
def cutChannel (c : Nat) : State := (if (s.ch c).iso then s else s.notice 2).modCh c (fun x => { x with iso := true, lowAt := s.el })

theorem isolateMem_eq (c : Nat) : s.isolateMem c = (s.cutChannel c).abandonOut c false := by
  unfold isolateMem cutChannel
  dsimp only
  split <;> rfl

theorem cutChannel_eq (c : Nat) : s.cutChannel c = { s with regs := (s.cutChannel c).regs, mem := (s.cutChannel c).mem } := by
  unfold cutChannel
  split <;> rfl

theorem rd_cutChannel {x : Nat} (other : x ≠ 0x20) (c : Nat) : (s.cutChannel c).rd x = s.rd x := by
  unfold cutChannel
  split
  · rfl
  · exact s.rd_notice_ne _ other

theorem cutChannel_parked (c : Nat) : (s.cutChannel c).parked = s.parked := by
  rw [parked, rd_cutChannel _ (by decide), rd_cutChannel _ (by decide), cutChannel_eq]
  rfl

theorem abandonOut_parked (c : Nat) : (s.abandonOut c false).parked = s.parked := by
  rw [abandonOut_eq]
  rfl

theorem isolateMem_parked (c : Nat) : (s.isolateMem c).parked = s.parked := by
  rw [isolateMem_eq, abandonOut_parked, cutChannel_parked]

/-- An isolation isolates its channel, and puts no other back to work. -/
theorem isolateMem_iso {c d : Nat} (hc : c < s.mem.chs.length) (isolated : d = c ∨ (s.ch d).iso = true) :
    ((s.isolateMem c).ch d).iso = true := by
  have chs : (if (s.ch c).iso then s else s.notice 2).mem.chs = s.mem.chs := by split <;> rfl
  rw [isolateMem_eq]
  by_cases same : d = c
  · subst same
    have here : (s.cutChannel d).ch d = _ := ch_modCh_self _ _ (by rw [chs]; exact hc)
    have len : (s.cutChannel d).mem.chs.length = s.mem.chs.length := by
      unfold cutChannel
      rw [← chs]
      exact lset_length ..
    rw [abandonOut_ch_self _ _ (by rw [len]; exact hc), here]
  · have there : (s.cutChannel c).ch d = s.ch d := (ch_modCh_ne _ _ same).trans (by rw [ch, chs]; rfl)
    rw [abandonOut_ch_ne _ _ same, there]
    exact isolated.resolve_left same

/-- The channels `l` are isolated (R485). -/
def isolateChannels (l : List Nat) (s : State) : State := l.foldl isolateMem s

theorem isolateChannels_parked (l : List Nat) : (s.isolateChannels l).parked = s.parked := foldl_keeps parked isolateMem isolateMem_parked l s

theorem isolateChannels_ok (l : List Nat) {s : State} (ok : s.Ok) : (s.isolateChannels l).Ok := by
  induction l generalizing s with
  | nil => exact ok
  | cons c l ih => exact ih (isolateMem_ok s c ok)

theorem isolateChannels_iso {l : List Nat} {d : Nat} (low : ∀ c ∈ l, c < 16) {s : State} (ok : s.Ok)
    (isolated : d ∈ l ∨ (s.ch d).iso = true) : ((s.isolateChannels l).ch d).iso = true := by
  induction l generalizing s with
  | nil => exact isolated.resolve_left List.not_mem_nil
  | cons c l ih =>
    refine ih (fun e he => low e (List.mem_cons_of_mem c he)) (isolateMem_ok s c ok) ?_
    have first := s.isolateMem_iso (c := c) (d := d) (by rw [ok.chs]; exact low c List.mem_cons_self)
    rcases isolated with mem | before
    · rcases List.mem_cons.mp mem with rfl | later
      · exact .inr (first (.inl rfl))
      · exact .inl later
    · exact .inr (first (.inr before))

/- Attachment points -/

theorem rd_cutPoint {x : Nat} (other : x ≠ 0x20) (a : Nat) : (s.cutPoint a).rd x = s.rd x := by
  unfold cutPoint
  split
  · rfl
  · exact s.rd_notice_ne _ other

theorem cutPoint_parked (a : Nat) : (s.cutPoint a).parked = s.parked := by
  rw [parked, rd_cutPoint _ (by decide), rd_cutPoint _ (by decide), cutPoint_eq]
  rfl

theorem sending_parked {s t : State} (sent : s.Sending t) : t.parked = s.parked := by
  rw [sent.rest]
  rfl

section Point

variable {s} {a : Nat} (ha : a < 32) (ok : s.Ok)
include ha ok

theorem isolateCore_sending (left : Nat) : (s.cutPoint a).Sending (s.isolateCore a left) := by
  obtain ⟨-, -, cutPts⟩ := cutPoint_self s (a := a) (by rw [ok.pts]; exact ha)
  rw [isolateCore_resends]
  exact resends_sending ha (cutPts.trans ok.pts) _

theorem isolateCore_parked (left : Nat) : (s.isolateCore a left).parked = s.parked :=
  (sending_parked (isolateCore_sending ha ok left)).trans (s.cutPoint_parked a)

/-- An isolation isolates its point, and puts no other back to work; no channel changes. -/
theorem isolateCore_iso (left : Nat) {d : Nat} (isolated : d = a ∨ (s.pt d).iso = true) : ((s.isolateCore a left).pt d).iso = true := by
  rw [(isolateCore_sending ha ok left).iso]
  by_cases same : d = a
  · subst same
    exact (cutPoint_self s (by rw [ok.pts]; exact ha)).1
  · rw [cutPoint_others s same]
    exact isolated.resolve_left same

end Point

/-- The points `l` are isolated (R485). -/
def isolatePoints (l : List Nat) (s : State) : State := l.foldl (fun s a => s.isolateCore a 0) s

/-- What the isolation of points leaves, and that each is isolated. -/
theorem isolatePoints_spec {l : List Nat} (low : ∀ a ∈ l, a < 32) {s : State} (ok : s.Ok) :
    (s.isolatePoints l).parked = s.parked ∧ (s.isolatePoints l).mem = s.mem ∧
      ∀ d, d ∈ l ∨ (s.pt d).iso = true → ((s.isolatePoints l).pt d).iso = true := by
  induction l generalizing s with
  | nil => exact ⟨rfl, rfl, fun d h => h.resolve_left List.not_mem_nil⟩
  | cons a l ih =>
    have ha := low a List.mem_cons_self
    obtain ⟨parked, mem, iso⟩ := ih (fun e he => low e (List.mem_cons_of_mem a he)) (isolateCore_ok s a 0 ok)
    refine ⟨parked.trans (isolateCore_parked ha ok 0), mem.trans (isolateCore_moves s 0 ha ok.pts).2.1, fun d isolated => iso d ?_⟩
    rcases isolated with mem | before
    · rcases List.mem_cons.mp mem with rfl | later
      · exact .inr (isolateCore_iso ha ok 0 (.inl rfl))
      · exact .inl later
    · exact .inr (isolateCore_iso ha ok 0 (.inr before))

/- The shut-down itself -/

/-- The rota is off and lnk_en is low on every port (R485). -/
def quieted : State :=
  { s.wr (if s.stp.live then 0x18004 else 0x18000) 0 with
    links := { s.links with ports := s.links.ports.map (fun p => { p with en := false, st := if p.st = 5 then 5 else 0 }) } }

/-- Every channel and every point is isolated too. -/
def isolatedAll : State := ((s.quieted).isolateChannels (List.range 16)).isolatePoints (List.range 32)

theorem shutDown_eq : s.shutDown =
    let u := s.isolatedAll
    let last := u.pitchesUp.getLastD 0
    { u with
      glb := { u.glb with anchor :=
        if u.glb.anchor = last then (u.pitchesUp.filter (fun p => decide (p ≠ last))).headD u.glb.anchor else u.glb.anchor }
      start := { u.start with shut := 1, shutPitch := last, shutFailed := 0, shutDone := 0, hrFail := false, hrTries := 0 } } := by
  unfold shutDown isolatedAll isolatePoints isolateChannels quieted
  generalize List.range 16 = channels, List.range 32 = points
  rfl

theorem quieted_ok {s : State} (ok : s.Ok) : s.quieted.Ok := by
  have written := wr_ok s (if s.stp.live then 0x18004 else 0x18000) 0 ok
  exact ⟨written.regs, written.ctxs, written.pitches, written.chs, written.pts, (List.length_map ..).trans ok.ports⟩

theorem isolatedAll_parked {s : State} (ok : s.Ok) : s.isolatedAll.parked = s.quieted.parked :=
  ((isolatePoints_spec (fun _ ha => List.mem_range.mp ha) (isolateChannels_ok (List.range 16) (quieted_ok ok))).1).trans
    (isolateChannels_parked _ _)

theorem isolatedAll_iso {s : State} (ok : s.Ok) : (∀ i < 16, (s.isolatedAll.ch i).iso = true) ∧ ∀ a < 32, (s.isolatedAll.pt a).iso = true := by
  have okChannels := isolateChannels_ok (List.range 16) (quieted_ok ok)
  obtain ⟨-, mem, iso⟩ := isolatePoints_spec (l := List.range 32) (fun a ha => List.mem_range.mp ha) okChannels
  refine ⟨fun i hi => ?_, fun a ha => iso a (.inl (List.mem_range.mpr ha))⟩
  have same : s.isolatedAll.ch i = (s.quieted.isolateChannels (List.range 16)).ch i := by
    rw [ch, ch]
    exact congrArg (fun m : Mem => m.chs.getD i MemCh.reset) mem
  rw [same]
  exact isolateChannels_iso (fun c hc => List.mem_range.mp hc) (quieted_ok ok) (.inl (List.mem_range.mpr hi))

theorem pitchesUp_congr {s t : State} (glb : t.glb = s.glb) (start : t.start = s.start) (pitches : t.pitches = s.pitches) :
    t.pitchesUp = s.pitchesUp := by
  have up (p : Nat) : t.pitchUp p = s.pitchUp p := by rw [pitchUp, pitchUp, glb, start, pitch, pitches]; rfl
  rw [pitchesUp, pitchesUp, funext up]

theorem rotaLen_congr {s t : State} (stp : t.stp = s.stp) (lenA : t.rd 0x18000 = s.rd 0x18000) (lenB : t.rd 0x18004 = s.rd 0x18004) :
    t.rotaLen t.stp.live = s.rotaLen s.stp.live := by
  rw [stp]
  unfold rotaLen rdF
  cases s.stp.live
  · rw [if_neg Bool.false_ne_true, lenA]
  · rw [if_pos rfl, lenB]

theorem quieted_rota : s.quieted.rotaLen s.quieted.stp.live = 0 := by
  have zero : s.quieted.rd (if s.stp.live then 0x18004 else 0x18000) = 0 := s.rd_wr_self _ 0
  change bits (s.quieted.rd (if s.stp.live then 0x18004 else 0x18000)) 0 11 = 0
  rw [zero]
  rfl

theorem quieted_port {n : Nat} (hn : n < s.links.ports.length) : (s.quieted.port n).en = false := by
  unfold port quieted
  dsimp only
  rw [List.getD_eq_getElem _ _ (by rw [List.length_map]; exact hn), List.getElem_map]

/-- The first steps of a shut-down (R485), and the first pitch that it tests (R486). -/
theorem shutDown_spec {s : State} (ok : s.Ok) : s.shutDown.start.shut = 1 ∧ s.shutDown.start.shutPitch = s.pitchesUp.getLastD 0 ∧
    s.shutDown.rotaLen s.shutDown.stp.live = 0 ∧ (∀ n < 72, (s.shutDown.port n).en = false) ∧
    (∀ i < 16, (s.shutDown.ch i).iso = true) ∧ (∀ a < 32, (s.shutDown.pt a).iso = true) ∧ s.shutDown.rsl = s.rsl ∧ s.shutDown.ctxs = s.ctxs := by
  obtain ⟨chs, pts⟩ := isolatedAll_iso ok
  have kept := isolatedAll_parked ok
  simp only [parked, Prod.mk.injEq] at kept
  obtain ⟨glb, start, pitches, stp, links, rsl, ctxs, lenA, lenB⟩ := kept
  rw [shutDown_eq]
  generalize s.isolatedAll = u at *
  refine ⟨rfl, ?_, ?_, fun n hn => ?_, chs, pts, rsl, ctxs⟩
  · exact congrArg (fun l : List Nat => l.getLastD 0) (pitchesUp_congr glb start pitches)
  · exact (rotaLen_congr stp lenA lenB).trans s.quieted_rota
  · exact (congrArg (fun l : Links => (l.ports.getD n Port.reset).en) links).trans (s.quieted_port (ok.ports.symm ▸ hn))

/- The copies stop first (R485) -/

/-- A copy that fails is idle; the other copy and a snapshot stay as they were. -/
theorem infFail_rsl (expert : Bool) : (s.infFail expert).rsl = (s.modCopy expert (fun x => { x with busy := false })).rsl := by
  unfold infFail
  dsimp only
  split
  next idle =>
    rw [Bool.not_eq_true'] at idle
    cases expert
    · exact congrArg (fun b => ({ s.rsl with rinf := { s.rsl.rinf with busy := b } } : Rsl)) idle
    · exact congrArg (fun b => ({ s.rsl with einf := { s.rsl.einf with busy := b } } : Rsl)) idle
  next => exact event_rsl ..

/-- SHUT_GO with both copies stopped. -/
def stopped : State := ((s.recWrite 0x58 1).infFail false).infFail true

theorem stopped_ok {s : State} (ok : s.Ok) : s.stopped.Ok := infFail_ok _ _ (infFail_ok _ _ (recWrite_ok s 0x58 1 ok))

theorem stopped_still : s.stopped.still = ({ s with xch := s.stopped.xch, rsl := s.stopped.rsl } : State).still := by
  have first : ((s.recWrite 0x58 1).infFail false).still = _ := infFail_still _ false
  have second : s.stopped.still = ({ (s.recWrite 0x58 1).infFail false with xch := s.stopped.xch, rsl := s.stopped.rsl } : State).still :=
    infFail_still _ true
  generalize s.stopped = v at *
  generalize (s.recWrite 0x58 1).infFail false = u at *
  have base := s.recWrite_still 0x58 1
  generalize s.recWrite 0x58 1 = w at *
  calc v.still
    _ = { u.still with xch := v.xch, rsl := v.rsl } := second
    _ = { w.still with xch := v.xch, rsl := v.rsl } :=
      (congrArg (fun t : State => ({ t with xch := v.xch, rsl := v.rsl } : State)) first).trans rfl
    _ = { s.still with xch := v.xch, rsl := v.rsl } := congrArg (fun t : State => ({ t with xch := v.xch, rsl := v.rsl } : State)) base

theorem stopped_rsl : s.stopped.rsl =
    { s.rsl with rinf := { s.rsl.rinf with busy := false }, einf := { s.rsl.einf with busy := false } } := by
  rw [stopped, infFail_rsl, modCopy_rsl, if_pos rfl, infFail_rsl, modCopy_rsl, if_neg Bool.false_ne_true, recWrite_rsl]

end State

variable {s : State}

section Go

variable (port : s.portOpen = true)
include port

theorem shutGoOp_begins (done : s.start.phase = .done) (fresh : s.start.shut = 0)
    (shut : tkeys (fun c x => decide (c ≠ 0) && (x.enable || x.tdown)) s.ctxs = []) :
    shutGoOp s = if s.stopped.rsl.snap.busy then ({ s.stopped with start := { s.stopped.start with shut := 4 } } : State).ackWrite
      else s.stopped.shutDown.ackWrite := by
  unfold shutGoOp
  rw [port, if_neg (by decide), if_pos ⟨done, fresh, shut⟩]
  rfl

theorem shutGoOp_ignored (not_ : ¬ (s.start.phase = .done ∧ s.start.shut = 0 ∧
      tkeys (fun c x => decide (c ≠ 0) && (x.enable || x.tdown)) s.ctxs = [])) : shutGoOp s = (s.ignored 0x58).ackWrite := by
  unfold shutGoOp
  rw [port, if_neg (by decide), if_neg not_]

end Go

/- The pitches under test (R486) -/

/-- The faults that spares cover, listed as remaps of the pitch under test (R31). -/
def listed (remaps : List W32) (s : State) : State :=
  remaps.foldl (fun u w => let f := remapFields w.toNat; u.remapAt s.start.shutPitch f.1 f.2.2.1 f.2.2.2) s

theorem listed_sound (remaps : List W32) : (listed remaps s).sound = s.sound :=
  foldl_keeps State.sound _ (fun _ _ => State.remapAt_sound ..) remaps s

theorem start_of_sound {s t : State} (h : t.sound = s.sound) : t.start = s.start := by
  have e := congrArg (fun u : State => u.start) h
  exact e
theorem glb_of_sound {s t : State} (h : t.sound = s.sound) : t.glb = s.glb := by
  have e := congrArg (fun u : State => u.glb) h
  exact e
theorem pitches_of_sound {s t : State} (h : t.sound = s.sound) : t.pitches = s.pitches := by
  have e := congrArg (fun u : State => u.pitches) h
  exact e

/-- The test's outcome, in the start controller. -/
def noted (passed : Bool) (s : State) : StartSt :=
  { s.start with
    shutFailed := if passed then s.start.shutFailed else s.start.shutFailed ||| 2 ^ s.start.shutPitch
    shutDone := s.start.shutDone ||| 2 ^ s.start.shutPitch }

/-- The test of pitch `p` has ended: the next lower pitch is tested, or the health record is due. -/
def advanced (passed : Bool) (p : Nat) (u : State) : State :=
  let st := { u.start with
    shutFailed := if passed then u.start.shutFailed else u.start.shutFailed ||| 2 ^ p
    shutDone := u.start.shutDone ||| 2 ^ p }
  match (u.pitchesUp.filter (fun q => decide (q < p))).getLast? with
  | none => { u with start := { st with shut := 2 } }
  | some q =>
    { u with
      glb := { u.glb with anchor :=
        if u.glb.anchor = q then (u.pitchesUp.filter (fun r => decide (r ≠ q))).headD u.glb.anchor else u.glb.anchor }
      start := { st with shutPitch := q } }

section Tested

variable (alive : s.alive = true) (tests : s.start.shut = 1) (passed : Bool) (remaps : List W32)
include alive tests

theorem shutTestedOp_eq : shutTestedOp passed remaps s =
    match (s.pitchesUp.filter (fun q => decide (q < s.start.shutPitch))).getLast? with
    | none => { listed remaps s with glb := s.glb, start := { noted passed s with shut := 2 } }
    | some q => { listed remaps s with
        glb := { s.glb with anchor :=
          if s.glb.anchor = q then (s.pitchesUp.filter (fun r => decide (r ≠ q))).headD s.glb.anchor else s.glb.anchor }
        start := { noted passed s with shutPitch := q } } := by
  have sound := listed_sound (s := s) remaps
  have up := State.pitchesUp_congr (glb_of_sound sound) (start_of_sound sound) (pitches_of_sound sound)
  have run : shutTestedOp passed remaps s = advanced passed s.start.shutPitch (listed remaps s) := by
    unfold shutTestedOp
    rw [alive, tests, if_neg (by decide)]
    rfl
  rw [run, advanced, up, glb_of_sound sound, start_of_sound sound]
  rfl

end Tested

/- The health record (R487) -/

theorem pitch_map {f : Pitch → Pitch} {p : Nat} (hp : p < s.pitches.length) (t : State) (pitches : t.pitches = s.pitches.map f) :
    t.pitch p = f (s.pitch p) := by
  unfold State.pitch
  rw [pitches, List.getD_eq_getElem _ _ hp, List.getD_eq_getElem _ _ (by rw [List.length_map]; exact hp), List.getElem_map]

section Record

variable (alive : s.alive = true) (due : s.start.shut = 2)
include alive due

theorem healthOp_ends {good : Bool} (ends : good = true ∨ s.start.hrTries = 1) : healthOp good s =
    { s with
      start := { s.start with
        shut := 3
        hrFail := !good
        record := if good then some s.healthRecord else s.start.record
        page := if good then s.start.image.map s.recordPage else s.start.page
        nvm := { s.start.nvm with ops := s.start.nvm.ops ++ s.recordOps } }
      pitches := s.pitches.map (fun p => { p with offOk := true }) } := by
  unfold healthOp
  rw [alive, due, if_neg (by decide), if_pos (by simpa using ends)]

theorem healthOp_again (first : s.start.hrTries ≠ 1) : healthOp false s =
    { s with start := { s.start with hrTries := 1, nvm := { s.start.nvm with ops := s.start.nvm.ops ++ s.recordOps } } } := by
  unfold healthOp
  rw [alive, due, if_neg (by decide), if_neg (by simpa using first)]

end Record

/-- Settles O21: SHUT_GO isolates each channel and point in turn, which keeps all else that R485 names; a test keeps all
but the list of remaps and what it notes of the pitch; the record ends the shut-down, or is written once more. -/
theorem shutDownRunsDown : Obligations.ShutDownRunsDown := by
  unfold Obligations.ShutDownRunsDown
  refine ⟨fun s ok port => ⟨fun done fresh shut => ⟨fun idle => ?run, fun busy => ?wait⟩, fun not_ => ?ignored⟩, ?tested, ?record⟩
  case run =>
    have run := shutGoOp_begins port done fresh (tkeys_open_nil ok shut)
    have rsl := s.stopped_rsl
    have still := s.stopped_still
    rw [rsl, if_neg (by rw [show s.rsl.snap.busy = false from idle]; decide)] at run
    obtain ⟨shut1, pitch, rota, ports, chs, pts, rslKept, ctxsKept⟩ := State.shutDown_spec (State.stopped_ok ok)
    generalize s.stopped = v at *
    generalize v.shutDown = w at *
    refine ⟨_, congrArg Host.Outcome.next run, shut1, ?_, rota, ports, chs, pts, ?_, ?_, ?_⟩
    · refine pitch.trans (congrArg (fun l : List Nat => l.getLastD 0) (State.pitchesUp_congr ?_ ?_ ?_))
      · exact (State.still_glb still).trans rfl
      · exact (State.still_start still).trans rfl
      · exact (State.still_pitches still).trans rfl
    · exact (congrArg (fun r : Rsl => r.einf.busy) rslKept).trans (congrArg (fun r : Rsl => r.einf.busy) rsl)
    · exact (congrArg (fun r : Rsl => r.rinf.busy) rslKept).trans (congrArg (fun r : Rsl => r.rinf.busy) rsl)
    · exact ctxsKept.trans ((State.still_ctxs still).trans rfl)
  case wait =>
    have run := shutGoOp_begins port done fresh (tkeys_open_nil ok shut)
    have rsl := s.stopped_rsl
    have still := s.stopped_still
    rw [if_pos (by rw [rsl]; exact busy)] at run
    generalize s.stopped = v at *
    refine ⟨_, congrArg Host.Outcome.next run, ?_, ?_, ?_, ?_, ?_, ?_⟩
    · exact congrArg (fun st : StartSt => { st with shut := 4 }) ((State.still_start still).trans rfl)
    · exact (congrArg Rsl.snap rsl).trans rfl
    · exact congrArg (fun r : Rsl => r.einf.busy) rsl
    · exact congrArg (fun r : Rsl => r.rinf.busy) rsl
    · exact (State.still_links still).trans rfl
    · exact (State.still_ctxs still).trans rfl
  case ignored =>
    have run := shutGoOp_ignored port (s := s) fun ⟨done, fresh, shut⟩ => by
      rcases not_ with notDone | begun | ⟨c, job, open_⟩
      · exact notDone done
      · exact begun fresh
      · exact tkeys_open_ne_nil job open_ shut
    refine ⟨_, congrArg Host.Outcome.next run, s.ignored_keeps 0x58, rfl, ?_⟩
    exact congrArg (fun u : State => ({ u with ctl := (s.ignored 0x58).ackWrite.ctl } : State)) (s.ignored_still 0x58)
  case tested =>
    intro passed remaps s alive tests p below u
    have run := shutTestedOp_eq alive tests passed remaps
    have sound := listed_sound (s := s) remaps
    have pitches := pitches_of_sound sound
    have ctxs := State.ctxs_of_sound sound
    change shutTestedOp passed remaps s = match below.getLast? with | none => _ | some q => _ at run
    cases last : below.getLast? with
    | none =>
      rw [last] at run
      refine ⟨_, congrArg Host.Outcome.next run, rfl, rfl, rfl, fun _ => ⟨rfl, rfl⟩, fun q some_ => ?_, ctxs, pitches⟩
      cases some_
    | some q =>
      rw [last] at run
      refine ⟨_, congrArg Host.Outcome.next run, rfl, rfl, rfl, fun none_ => ?_, fun r some_ => ?_, ctxs, pitches⟩
      · rw [none_] at last
        cases last
      · cases some_
        refine ⟨tests, rfl, fun same => ?_, fun other => ?_⟩
        · exact (if_pos same).trans (congrArg (List.headD _) same)
        · exact congrArg (fun a => ({ s.glb with anchor := a } : Glb)) (if_neg other)
  case record =>
    intro good s alive due nvm
    refine ⟨fun ends => ?_, fun bad first => ?_⟩
    · refine ⟨_, congrArg Host.Outcome.next (healthOp_ends alive due ends), rfl, rfl, rfl, rfl, List.length_map .., fun p hp => ?_, rfl⟩
      exact pitch_map (f := fun q => { q with offOk := true }) hp _ rfl
    · subst bad
      exact congrArg Host.Outcome.next (healthOp_again alive due first)

end Sys2Proof.Machine
end
